-- ==== Sys2Proof/Word.lean ====
section
/-!
DEFINITION. The word types of the device: 32-bit register words, 64-bit lane masks, bytes and 56-bit
virtual addresses (08 R199, R214).
-/
namespace Sys2Proof

/-- A 32-bit register word (R214). -/
abbrev Word := BitVec 32
/-- One byte of memory (R2). -/
abbrev Byte := BitVec 8
/-- One bit per lane: em, predicates, fault masks (R182, R214). -/
abbrev Mask := BitVec 64
/-- A 64-bit datum. -/
abbrev DWord := BitVec 64
/-- A 56-bit virtual address (R26, R199). -/
abbrev VAddr := BitVec 56
/-- The name of a register, a six-bit field of an instruction (R202). -/
abbrev Reg := BitVec 6

end Sys2Proof
end

