-- ==== Sys2Proof/Config.lean ====
section
/-!
DEFINITION. What an implementation fixes and the spec leaves open: the free values. Each is an opaque
constant without a body, so nothing can be proved about its value (log entries 3, 4 and 7).
-/
namespace Sys2Proof.Config

/-- FREE VALUE: the FP32 approximation FRCP returns for an operand that R234 gives no exact result. -/
opaque frcp : Word → Word
/-- FREE VALUE: as `frcp`, for FRSQ (R234). -/
opaque frsq : Word → Word
/-- FREE VALUE: as `frcp`, for FEXP2 (R234). -/
opaque fexp2 : Word → Word
/-- FREE VALUE: as `frcp`, for FLOG2 (R234). -/
opaque flog2 : Word → Word
/-- FREE VALUE: as `frcp`, for FSIN (R234). -/
opaque fsin : Word → Word
/-- FREE VALUE: as `frcp`, for FCOS (R234). -/
opaque fcos : Word → Word
/-- FREE VALUE: as `frcp`, for FTANH (R234). -/
opaque ftanh : Word → Word
/-- FREE VALUE: how many cycles of a die pass before the n-th reading of a clock (R31). -/
opaque tick : Nat → Nat
/-- FREE VALUE: the block size that the spatial-locality predictor of an L2 chooses for the n-th new block (R62). -/
opaque l2Predict : Nat → Nat
/-- FREE VALUE: the bits a memory or register holds where the spec states no value. -/
opaque freeWord : Nat → Word
/-- FREE VALUE: a byte of another device, of the host or of its configuration, as this device reads it for the
n-th time: what it holds is no state of this device (R15, R19). -/
opaque farByte : Nat → Nat → Byte
/-- Whether another device replays its own part of a recording (R401, R404): this device cannot tell (log entry 89). -/
opaque peerReplays : Nat → Bool
/-- FREE VALUE: the AES-256 key that a key exchange installs for a direction of a port (R149). -/
opaque portKey : Nat → Nat
/-- FREE VALUE: the salt that goes with it (R149). -/
opaque portSalt : Nat → Word
/-- FREE VALUE: how many link-management flits a key exchange sent (R150). -/
opaque keyFlits : Nat → Nat
/-- The 256-bit secret fused into the atrium (R435). -/
opaque deviceSecret : BitVec 256
/-- FREE VALUE: the measurement of the command-core firmware that the boot loads (R415, R436). -/
opaque bootFirmware : Nat → Byte
/-- FIPS 204 ML-DSA-44 key generation: the public key of a secret (R435). -/
opaque mlDsaPublicKey : BitVec 256 → List Byte
/-- FIPS 204 ML-DSA-44 signing of a digest with an empty context string (R413). -/
opaque mlDsaSign : BitVec 256 → List Byte → List Byte

end Sys2Proof.Config
end

