-- ==== Sys2Proof/Machine/Store.lean ====
section
/-!
DEFINITION. Sparse data by key as plain data: a list of key and value pairs, keys strictly rising, no
entry equal to the default that an unlisted key reads as. Memory, register files and tables use it.
-/
namespace Sys2Proof.Machine

/-- A sparse table from numbers to values of one type. -/
abbrev Store (α : Type) := List (Nat × α)

/-- The value at a key; `d` where the key is unlisted. -/
def Store.get {α : Type} (d : α) : Store α → Nat → α
  | [], _ => d
  | (k, v) :: m, i => if i = k then v else Store.get d m i

/-- List a value at a key, keeping the keys rising. -/
def Store.enter {α : Type} : Store α → Nat → α → Store α
  | [], i, x => [(i, x)]
  | (k, v) :: m, i, x =>
    if i = k then (i, x) :: m
    else if i < k then (i, x) :: (k, v) :: m
    else (k, v) :: Store.enter m i x

/-- Write one key, keeping the keys rising and the default unlisted. -/
def Store.set {α : Type} [DecidableEq α] (d : α) (m : Store α) (i : Nat) (x : α) : Store α :=
  if x = d then m.filter fun p => p.1 != i else Store.enter m i x

/-- Whether every listed key of a table is above `k`. -/
def Store.above {α : Type} (k : Nat) : Store α → Bool
  | [] => true
  | (i, _) :: _ => decide (k < i)

/-- The canonical form: keys strictly rising and no entry equal to the default. -/
def Store.wf {α : Type} [DecidableEq α] (d : α) : Store α → Bool
  | [] => true
  | (k, v) :: m => decide (v ≠ d) && Store.above k m && Store.wf d m

/-- Write a run of values at consecutive keys, lowest first. -/
def Store.setRun {α : Type} [DecidableEq α] (d : α) : Store α → Nat → List α → Store α
  | m, _, [] => m
  | m, i, x :: xs => Store.setRun d (Store.set d m i x) (i + 1) xs

/-- Read `n` values at consecutive keys, lowest first. -/
def Store.getRun {α : Type} (d : α) (m : Store α) (i : Nat) : Nat → List α
  | 0 => []
  | n + 1 => Store.get d m i :: Store.getRun d m (i + 1) n

/-- Drop every key in `[lo, hi)`. -/
def Store.drop {α : Type} (m : Store α) (lo hi : Nat) : Store α :=
  m.filter fun p => decide (p.1 < lo ∨ hi ≤ p.1)

/-! ## Bytes and words (R2: little-endian) -/

/-- The number a run of bytes holds, the first byte lowest (R2). -/
def leNat : List Byte → Nat
  | [] => 0
  | b :: bs => b.toNat + 256 * leNat bs

/-- The `n` low bytes of a number, lowest first (R2). -/
def leBytes : Nat → Nat → List Byte
  | 0, _ => []
  | n + 1, x => BitVec.ofNat 8 x :: leBytes n (x / 256)

/-- The low half of a 64-bit datum. -/
def lo32 (x : DWord) : Word := x.setWidth 32
/-- The high half of a 64-bit datum. -/
def hi32 (x : DWord) : Word := (x >>> 32).setWidth 32
/-- A pair of words, low word first (R5). -/
def pair64 (lo hi : Word) : DWord := hi ++ lo

/-- Bits [hi:lo] of a number (R2, R8). -/
def bits (x hi lo : Nat) : Nat := x / 2 ^ lo % 2 ^ (hi + 1 - lo)

/-- Bit `i` of a number. -/
def bit (x i : Nat) : Bool := x / 2 ^ i % 2 == 1

/-- A number read as two's complement of `w` bits. -/
def toSigned (w x : Nat) : Int :=
  if x % 2 ^ w < 2 ^ (w - 1) then (x % 2 ^ w : Nat) else (x % 2 ^ w : Nat) - (2 ^ w : Nat)

/-- The `w`-bit two's-complement encoding of an integer. -/
def ofSigned (w : Nat) (x : Int) : Nat := (x % (2 ^ w : Nat)).toNat

/-- The number below `n` of each set bit of a mask, ascending: the lanes a mask names. -/
def lanesOf (m : Mask) : List Nat := (List.range 64).filter fun i => m.getLsbD i

/-- The lowest set bit of a mask (lane l of R208). -/
def lowestLane (m : Mask) : Option Nat := (lanesOf m).head?

/-- The mask whose set bits are the lanes of a list. -/
def maskOf (ls : List Nat) : Mask := ls.foldl (fun m i => m ||| (1#64 <<< i)) 0#64

/-- The number of set bits of a mask. -/
def popcount (m : Mask) : Nat := (lanesOf m).length

/-- An address with its low `k` bits cleared. -/
def alignDown (k a : Nat) : Nat := a / 2 ^ k * 2 ^ k

end Sys2Proof.Machine
end

