-- ==== Sys2Proof/Machine/Num.lean ====
section
/-!
DEFINITION. Number formats, exact values, rounding, MX blocks, matrix blocks and the
stochastic-rounding generator (06 R156 to R173), with the FP32 operations of 09 R232 to R234 built on
them. Every value is an exact dyadic number; narrowing happens only in `round`.
-/
namespace Sys2Proof.Machine

/-- The element and integer formats the device rounds to (R156, R158, R237). -/
inductive Fmt where
  | fp32 | bf16 | fp16 | e4m3 | e5m2 | e2m1 | int8 | int4 | mxint8 | si32 | ui32
  deriving DecidableEq, Repr

/-- The exact value of an encoding (R157): sign, magnitude `m * 2^e`; a zero keeps its sign. -/
inductive Val where
  | nan
  | inf (neg : Bool)
  | fin (neg : Bool) (m : Nat) (e : Int)
  deriving DecidableEq, Repr

/-- Rounding modes (Table 6-2). -/
inductive RMode where
  | rn | rz | ru | rd | sr
  deriving DecidableEq, Repr

/-- The rounding mode of a code; codes 5 to 7 name none (R162). -/
def RMode.ofCode (c : Nat) : Option RMode :=
  match c with
  | 0 => some .rn
  | 1 => some .rz
  | 2 => some .ru
  | 3 => some .rd
  | 4 => some .sr
  | _ => none

namespace Fmt

/-- Whether the format is a floating-point format of Table 6-1. -/
def isFloat : Fmt → Bool
  | fp32 | bf16 | fp16 | e4m3 | e5m2 | e2m1 => true
  | _ => false

/-- Bits of an encoding (Table 6-1, R158). -/
def width : Fmt → Nat
  | fp32 | si32 | ui32 => 32
  | bf16 | fp16 => 16
  | e4m3 | e5m2 | int8 | mxint8 => 8
  | e2m1 | int4 => 4

/-- Fraction bits (Table 6-1). -/
def frac : Fmt → Nat
  | fp32 => 23
  | bf16 => 7
  | fp16 => 10
  | e4m3 => 3
  | e5m2 => 2
  | e2m1 => 1
  | _ => 0

/-- Exponent bias (Table 6-1). -/
def bias : Fmt → Nat
  | fp32 | bf16 => 127
  | fp16 | e5m2 => 15
  | e4m3 => 7
  | e2m1 => 1
  | _ => 0

/-- Exponent of the smallest normal value (Table 6-1). -/
def emin (f : Fmt) : Int := 1 - (f.bias : Int)

/-- Exponent of the largest finite value (Table 6-1). -/
def emax : Fmt → Int
  | fp32 | bf16 => 127
  | fp16 | e5m2 => 15
  | e4m3 => 8
  | e2m1 => 2
  | _ => 0

/-- Encoding of the largest finite magnitude (Table 6-1). -/
def maxFinite : Fmt → Nat
  | fp32 => 0x7F7FFFFF
  | bf16 => 0x7F7F
  | fp16 => 0x7BFF
  | e4m3 => 0x7E
  | e5m2 => 0x7B
  | e2m1 => 0x7
  | _ => 0

/-- Encoding of +infinity, where the format has one (Table 6-1). -/
def infBits : Fmt → Option Nat
  | fp32 => some 0x7F800000
  | bf16 => some 0x7F80
  | fp16 => some 0x7C00
  | e5m2 => some 0x7C
  | _ => none

/-- Encoding of the canonical NaN (R157), and nan_out of Table 6-3 where there is no NaN. -/
def nanOut : Fmt → Nat
  | fp32 => 0x7FC00000
  | bf16 => 0x7FC0
  | fp16 => 0x7E00
  | e5m2 => 0x7E
  | e4m3 => 0x7F
  | _ => 0

/-- Least value of an integer format in its units (R158, R163, R237). -/
def lo : Fmt → Int
  | int8 => -128
  | int4 => -8
  | mxint8 => -127
  | si32 => -2147483648
  | _ => 0

/-- Greatest value of an integer format in its units (R158, R163, R237). -/
def hi : Fmt → Int
  | int8 => 127
  | int4 => 7
  | mxint8 => 127
  | si32 => 2147483647
  | ui32 => 4294967295
  | _ => 0

/-- The sign bit put on an encoding. -/
def signed (f : Fmt) (neg : Bool) (x : Nat) : Nat := if neg then x + 2 ^ (f.width - 1) else x

end Fmt

/-- R157, R158: the exact value of an encoding. -/
def value (x : Nat) (f : Fmt) : Val :=
  if f.isFloat then
    let neg := bit x (f.width - 1)
    let mag := x % 2 ^ (f.width - 1)
    let e := mag / 2 ^ f.frac
    let fr := mag % 2 ^ f.frac
    if mag > f.maxFinite then
      if f.infBits = some mag then .inf neg else .nan
    else if e = 0 then .fin neg fr (1 - (f.bias : Int) - f.frac)
    else .fin neg (2 ^ f.frac + fr) ((e : Int) - f.bias - f.frac)
  else
    let v : Int := if f = .ui32 then ((x % 2 ^ 32 : Nat) : Int) else toSigned f.width x
    .fin (decide (v < 0)) v.natAbs (if f = .mxint8 then -6 else 0)

/-- floor(log2) of a positive dyadic magnitude. -/
def log2Mag (m : Nat) (e : Int) : Int := (Nat.log2 m : Int) + e

/-- The exponent of quantum(fmt, a) of R163, for a magnitude `m * 2^e`. -/
def quantumExp (f : Fmt) (m : Nat) (e : Int) : Int :=
  if f.isFloat then
    if m = 0 then f.emin - f.frac
    else min (max (log2Mag m e) f.emin) f.emax - f.frac
  else if f = .mxint8 then -6 else 0

/-- R165: the SR width. `srcQ` is the exponent of the source's spacing with the scaling applied. -/
def srWidth (srcQ : Int) (f : Fmt) (m : Nat) (e : Int) : Nat :=
  (min 32 (max 0 (quantumExp f m e - srcQ))).toNat

/-- The integer `n` of R163 for a magnitude `m * 2^k` counted in quanta. -/
def roundMag (mode : RMode) (neg : Bool) (m : Nat) (k : Int) (d : Nat) (t : Word) : Nat :=
  if 0 ≤ k then m * 2 ^ k.toNat
  else
    let s := (-k).toNat
    let q := m / 2 ^ s
    let r := m % 2 ^ s
    match mode with
    | .rn => if 2 * r > 2 ^ s ∨ (2 * r = 2 ^ s ∧ q % 2 = 1) then q + 1 else q
    | .rz => q
    | .ru => if neg ∨ r = 0 then q else q + 1
    | .rd => if neg ∧ r ≠ 0 then q + 1 else q
    | .sr => ((m * 2 ^ d) / 2 ^ s + t.toNat % 2 ^ d) / 2 ^ d

/-- ovf of R163: the result of a rounding that leaves the format's range. -/
def overflow (f : Fmt) (neg : Bool) (mode : RMode) (sat : Bool) : Nat :=
  match f.infBits with
  | some i =>
    let big := f.signed neg f.maxFinite
    if sat then big
    else
      match mode with
      | .rn | .sr => f.signed neg i
      | .rz => big
      | .ru => if neg then big else i
      | .rd => if neg then f.signed true i else big
  | none =>
    if f.isFloat then f.signed neg f.maxFinite
    else ofSigned f.width (if neg then f.lo else f.hi)

/-- R163 for a finite value: `srcQ` is the exponent of the source's least spacing (R165), `sat` the
saturation of R167. -/
def roundFin (f : Fmt) (mode : RMode) (sat : Bool) (srcQ : Int) (t : Word) (neg : Bool) (m : Nat) (e : Int) : Nat :=
  let q := quantumExp f m e
  let n := roundMag mode neg m (e - q) (srWidth srcQ f m e) t
  if f.isFloat then
    let mag := if n < 2 ^ f.frac then n else (q + f.frac + f.bias).toNat * 2 ^ f.frac + (n - 2 ^ f.frac)
    if mag > f.maxFinite then overflow f neg mode sat else f.signed neg mag
  else
    let v : Int := if neg then -(n : Int) else n
    if v < f.lo ∨ f.hi < v then overflow f neg mode sat else ofSigned f.width v

/-- R163 and R164: round an exact value to a format. -/
def round (f : Fmt) (mode : RMode) (sat : Bool) (srcQ : Int) (t : Word) : Val → Nat
  | .nan => f.nanOut
  | .inf neg =>
    match f.infBits with
    | some i => f.signed neg i
    | none => overflow f neg .rn sat
  | .fin neg m e => roundFin f mode sat srcQ t neg m e

/-- round(v, fmt, RN, fmt, 0): the rounding of every arithmetic result (R226). -/
def roundRN (f : Fmt) (v : Val) : Nat := round f .rn false 0 0 v

/-- The exponent of quantum(src, a) at the value itself, for R165 (0 where there is no magnitude). -/
def srcQuantum (src : Fmt) : Val → Int
  | .fin _ m e => quantumExp src m e
  | _ => 0

/-- The exact value times 2^k. -/
def Val.scale (k : Int) : Val → Val
  | .fin s m e => .fin s m (e + k)
  | v => v

/-- The exact value with its sign inverted. -/
def Val.neg : Val → Val
  | .nan => .nan
  | .inf s => .inf !s
  | .fin s m e => .fin (!s) m e

/-- A dyadic magnitude as a signed integer at exponent `e0 ≤ e`. -/
def alignTo (e0 : Int) (neg : Bool) (m : Nat) (e : Int) : Int :=
  let x : Int := (m * 2 ^ (e - e0).toNat : Nat)
  if neg then -x else x

/-- The exact sum of two values (R232): opposite infinities give NaN, an exact zero sum is -0 only for
two negative zeros. -/
def Val.add : Val → Val → Val
  | .nan, _ => .nan
  | _, .nan => .nan
  | .inf a, .inf b => if a = b then .inf a else .nan
  | .inf a, .fin .. => .inf a
  | .fin .., .inf b => .inf b
  | .fin s m e, .fin s' m' e' =>
    let e0 := min e e'
    let x := alignTo e0 s m e + alignTo e0 s' m' e'
    .fin (if x = 0 then s && s' && decide (m = 0) && decide (m' = 0) else decide (x < 0)) x.natAbs e0

/-- The exact product of two values (R232): an infinity times a zero gives NaN. -/
def Val.mul : Val → Val → Val
  | .nan, _ => .nan
  | _, .nan => .nan
  | .inf a, .inf b => .inf (a != b)
  | .inf a, .fin b m _ => if m = 0 then .nan else .inf (a != b)
  | .fin b m _, .inf a => if m = 0 then .nan else .inf (a != b)
  | .fin s m e, .fin s' m' e' => .fin (s != s') (m * m') (e + e')

/-- Whether a value is less than another as a real number or infinity; neither is NaN. -/
def Val.lt : Val → Val → Bool
  | .inf a, .inf b => a && !b
  | .inf a, .fin .. => a
  | .fin .., .inf b => !b
  | .fin s m e, .fin s' m' e' =>
    let e0 := min e e'
    decide (alignTo e0 s m e < alignTo e0 s' m' e')
  | _, _ => false

/-- Whether a value is NaN. -/
def Val.isNan : Val → Bool
  | .nan => true
  | _ => false

/-- Whether a value is an infinity. -/
def Val.isInf : Val → Bool
  | .inf _ => true
  | _ => false

/-- Whether two values that are no NaN are equal as numbers (+0 and -0 are, R230). -/
def Val.numEq (a b : Val) : Bool := !a.isNan && !b.isNan && !a.lt b && !b.lt a

/-- The sign a value carries, that of a zero included. -/
def Val.sign : Val → Bool
  | .nan => false
  | .inf s => s
  | .fin s _ _ => s

/-- Whether `x` orders below `a` with -0 below +0 (Table 3-3 MINS). -/
def Val.below (x a : Val) : Bool := x.lt a || (x.numEq a && x.sign && !a.sign)

/-! ## FP32, FP16 and BF16 arithmetic (R232, R235) -/

/-- FADD in a format. -/
def fadd (f : Fmt) (a b : Nat) : Nat := roundRN f ((value a f).add (value b f))
/-- FSUB in a format. -/
def fsub (f : Fmt) (a b : Nat) : Nat := roundRN f ((value a f).add (value b f).neg)
/-- FMUL in a format. -/
def fmul (f : Fmt) (a b : Nat) : Nat := roundRN f ((value a f).mul (value b f))
/-- FFMA in a format: a × b + c, one rounding. -/
def ffma (f : Fmt) (a b c : Nat) : Nat := roundRN f (((value a f).mul (value b f)).add (value c f))
/-- FFMS in a format: a × b − c, one rounding. -/
def ffms (f : Fmt) (a b c : Nat) : Nat := roundRN f (((value a f).mul (value b f)).add (value c f).neg)
/-- FNMA in a format: −(a × b) + c, one rounding. -/
def fnma (f : Fmt) (a b c : Nat) : Nat := roundRN f (((value a f).mul (value b f)).neg.add (value c f))

/-- FMIN in a format: one input bit for bit unless both are NaN (R232). -/
def fmin (f : Fmt) (x a : Nat) : Nat :=
  let vx := value x f
  let va := value a f
  if vx.isNan then (if va.isNan then f.nanOut else a)
  else if va.isNan then x
  else if va.below vx then a else x

/-- FMAX in a format: one input bit for bit unless both are NaN (R232). -/
def fmax (f : Fmt) (x a : Nat) : Nat :=
  let vx := value x f
  let va := value a f
  if vx.isNan then (if va.isNan then f.nanOut else a)
  else if va.isNan then x
  else if vx.below va then a else x

/-- The FCMP conditions of Table 9-3 by minor code. -/
def fcmp (c : Nat) (a b : Nat) : Bool :=
  let va := value a .fp32
  let vb := value b .fp32
  let nan := va.isNan || vb.isNan
  match c with
  | 0 => va.numEq vb
  | 1 => !va.numEq vb
  | 2 => !nan && va.lt vb
  | 3 => !nan && !vb.lt va
  | 4 => !nan && vb.lt va
  | 5 => !nan && !va.lt vb
  | 6 => !nan
  | _ => nan

/-- The lesser of an exponent and that of a finite value. -/
def Val.minExp (e : Int) : Val → Int
  | .fin _ _ e' => min e e'
  | _ => e

/-- A sum at exponent `e0` with a finite value added. -/
def Val.addTo (e0 x : Int) : Val → Int
  | .fin s m e => x + alignTo e0 s m e
  | _ => x

/-- The exact sum of a list of finite values at the lowest exponent in it. -/
def sumFin (vs : List Val) : Int × Int :=
  let e0 := vs.foldl Val.minExp 0
  (vs.foldl (Val.addTo e0) 0, e0)

/-- The exact sum of a list of values: NaN, infinities, and -0 only when every value is -0 (R249). -/
def sumVals (vs : List Val) : Val :=
  if vs.any Val.isNan || (vs.any (· == .inf false) && vs.any (· == .inf true)) then .nan
  else if vs.any (· == .inf false) then .inf false
  else if vs.any (· == .inf true) then .inf true
  else
    let (x, e) := sumFin vs
    if x = 0 then .fin (!vs.isEmpty && vs.all Val.sign) 0 0
    else .fin (decide (x < 0)) x.natAbs e

/-- lrfadd of R249 over FP32 words. -/
def lrfadd (xs : List Word) : Word := BitVec.ofNat 32 (roundRN .fp32 (sumVals (xs.map fun x => value x.toNat .fp32)))

/-! ## Unary FP32 operations (R233, R234) -/

/-- FABS: NaN gives qnan. -/
def fabs (b : Nat) : Nat := if (value b .fp32).isNan then 0x7FC00000 else b % 2 ^ 31
/-- FNEG: NaN gives qnan. -/
def fneg (b : Nat) : Nat :=
  if (value b .fp32).isNan then 0x7FC00000 else if bit b 31 then b % 2 ^ 31 else b % 2 ^ 31 + 2 ^ 31

/-- FFLOOR, FCEIL, FTRUNC and FRINT: an integral FP32 value in a rounding mode, keeping the sign of zero. -/
def fintegral (mode : RMode) (b : Nat) : Nat :=
  match value b .fp32 with
  | .nan => 0x7FC00000
  | .inf _ => b
  | .fin s m e => if m = 0 then b else roundRN .fp32 (.fin s (roundMag mode s m e 0 0) 0)

/-- Integer square root by bisection on bits: the greatest r of at most `n` bits whose square is at most x. -/
def isqrt (x : Nat) : Nat → Nat → Nat
  | 0, r => r
  | n + 1, r => if (r + 2 ^ n) * (r + 2 ^ n) ≤ x then isqrt x n (r + 2 ^ n) else isqrt x n r

/-- FSQRT of R234, correctly rounded: the root is taken with a sticky bit below every FP32 bit. -/
def fsqrt (b : Nat) : Nat :=
  match value b .fp32 with
  | .nan => 0x7FC00000
  | .inf s => if s then 0x7FC00000 else b
  | .fin s m e =>
    if m = 0 then b
    else if s then 0x7FC00000
    else
      let k : Int := if e % 2 = 0 then 60 else 61
      let x := m * 2 ^ k.toNat
      let r := isqrt x 64 0
      roundRN .fp32 (.fin false (2 * r + (if r * r = x then 0 else 1)) ((e - k) / 2 - 1))

/-- Whether `r` is within `k` ulp of the exact reciprocal of a finite non-zero value `v` (R234). -/
def frcpWithin (k : Nat) (v : Val) (r : Nat) : Bool :=
  match v, value r .fp32 with
  | .fin s m e, .fin s' m' e' =>
    -- |m' 2^e' − 2^-e / m| ≤ k q, where q = quantum(FP32, 1/|v|)
    let l : Int := -(log2Mag m e) - (if m = 2 ^ Nat.log2 m then 0 else 1)
    let q := min (max l (-126)) 127 - 23
    let e0 := min (min e' (-e)) q
    let num : Int := (m' * m * 2 ^ (e' - e0).toNat : Nat) - (2 ^ (-e - e0).toNat : Nat)
    decide (s = s') && decide (num.natAbs ≤ k * m * 2 ^ (q - e0).toNat)
  -- an infinity stands for 2^128, the number after the largest finite one
  | .fin s m e, .inf s' => decide (s = s') && decide (m * (2 ^ 24 - 1) * 2 ^ (e + 104).toNat ≤ k * 2 ^ (-(e + 104)).toNat)
  | _, _ => false

/-- 1/v truncated to 64 significant bits with a sticky bit: enough to round it correctly. -/
def recipVal : Val → Val
  | .fin s m e =>
    let x := 2 ^ (Nat.log2 m + 66)
    .fin s (2 * (x / m) + (if x % m = 0 then 0 else 1)) (-e - (Nat.log2 m + 66 : Nat) - 1)
  | v => v

/-- FRCP: the special inputs of Table 9-6; else the free value where it keeps the bound, else the nearest. -/
def frcp (b : Nat) : Nat :=
  match value b .fp32 with
  | .nan => 0x7FC00000
  | .inf s => Fmt.signed .fp32 s 0
  | .fin s m e =>
    if m = 0 then Fmt.signed .fp32 s 0x7F800000
    else
      let r := (Config.frcp (BitVec.ofNat 32 b)).toNat
      if frcpWithin 1 (.fin s m e) r then r else roundRN .fp32 (recipVal (.fin s m e))

/-- 1/√v for v > 0, to 60 significant bits with a sticky bit. -/
def rsqrtVal (m : Nat) (e : Int) : Val :=
  let k : Int := if e % 2 = 0 then 0 else 1
  let m1 := m * 2 ^ k.toNat
  let h := (e - k) / 2
  let n := 2 ^ (2 * (Nat.log2 m1 + 64))
  let r := isqrt (n / m1) 128 0
  .fin false (2 * r + 1) (-h - (Nat.log2 m1 + 64 : Nat) - 1)

/-- Whether `r` is within 2 ulp of 1/√v: |r − c| ≤ 2 ulp ± the error of the 60-bit candidate c. -/
def frsqWithin (m : Nat) (e : Int) (r : Nat) : Bool :=
  match rsqrtVal m e, value r .fp32 with
  | .fin _ mc ec, .fin false m' e' =>
    let q := quantumExp .fp32 mc ec
    let e0 := min (min ec e') q
    let d : Int := alignTo e0 false m' e' - alignTo e0 false mc ec
    decide (d.natAbs ≤ 2 * 2 ^ (q - e0).toNat)
  | _, _ => false

/-- FRSQ: special inputs of Table 9-6; else the free value where it keeps the bound, else the nearest. -/
def frsq (b : Nat) : Nat :=
  match value b .fp32 with
  | .nan => 0x7FC00000
  | .inf s => if s then 0x7FC00000 else 0
  | .fin s m e =>
    if m = 0 then Fmt.signed .fp32 s 0x7F800000
    else if s then 0x7FC00000
    else
      let r := (Config.frsq (BitVec.ofNat 32 b)).toNat
      if frsqWithin m e r then r else roundRN .fp32 (rsqrtVal m e)

/-- The integer a finite value is, where it is one. -/
def Val.toInt? : Val → Option Int
  | .fin s m e =>
    if m = 0 then some 0
    else if 0 ≤ e then some (alignTo 0 s m e)
    else if m % 2 ^ (-e).toNat = 0 then
      some (if s then -((m / 2 ^ (-e).toNat : Nat) : Int) else ((m / 2 ^ (-e).toNat : Nat) : Int))
    else none
  | _ => none

/-! ## MX blocks (R161, R166 to R168) -/

/-- The power of two that scales a block (R166, R167); `emaxF` is 0 for MXINT8. -/
def mxScaleExp (f : Fmt) (m : Nat) (e : Int) : Int :=
  min 127 (max (-127) (log2Mag m e - (match f with | .e4m3 => 8 | .e5m2 => 15 | .e2m1 => 2 | _ => 0)))

/-- mx_quant of R166 and R167: the block's scale byte and its elements, from FP32 encodings and SR words. -/
def mxQuant (f : Fmt) (mode : RMode) (xs : List (Nat × Word)) : Nat × List Nat :=
  let vs := xs.map fun p => (value p.1 .fp32, p.2)
  if vs.any (fun p => p.1.isNan || p.1.isInf) then (0xFF, xs.map fun _ => 0)
  else
    let amax : Val := vs.foldl
      (fun a p => match p.1 with | .fin _ m e => if a.lt (.fin false m e) then .fin false m e else a | _ => a)
      (.fin false 0 0)
    match amax with
    | .fin _ m e =>
      if m = 0 then (0, xs.map fun _ => 0)
      else
        let x := mxScaleExp f m e
        ((x + 127).toNat, vs.map fun p => round f mode true (srcQuantum .fp32 p.1 - x) p.2 (p.1.scale (-x)))
    | _ => (0xFF, xs.map fun _ => 0)

/-- mx_dequant of R168: an element and its scale byte into FP32 or BF16. -/
def mxDequant (f g : Fmt) (elem scale : Nat) : Nat :=
  if scale = 0xFF then g.nanOut
  else roundRN g ((value elem f).scale ((scale : Int) - 127))

/-! ## Matrix block arithmetic (R169) -/

/-- A non-zero exact sum rounded to a 24-bit significand, ties to even, exponent unbounded. -/
def round24 (x e : Int) : Val :=
  let m := x.natAbs
  let l := Nat.log2 m
  let neg := decide (x < 0)
  if l < 24 then .fin neg m e
  else .fin neg (roundMag .rn neg m (-((l - 23 : Nat) : Int)) 0 0) (e + (l - 23 : Nat))

/-- mma_block of R169: one accumulator element and one block of products. -/
def mmaBlock (c : Word) (as : List Nat) (sa : Nat) (fa : Fmt) (bs : List Nat) (sb : Nat) (fb : Fmt) : Word :=
  let vc := value c.toNat .fp32
  let va := as.map fun a => value a fa
  let vb := bs.map fun b => value b fb
  if vc.isNan || sa == 0xFF || sb == 0xFF || va.any Val.isNan || vb.any Val.isNan then 0x7FC00000#32
  else
    let ps := List.zipWith Val.mul va vb
    match sumVals ps with
    | .nan => 0x7FC00000#32
    | .inf s => BitVec.ofNat 32 (roundRN .fp32 (vc.add (.inf s)))
    | .fin s m e =>
      let p : Val := if m = 0 then .fin s 0 0 else (round24 (if s then -(m : Int) else m) e).scale ((sa : Int) + sb - 254)
      BitVec.ofNat 32 (roundRN .fp32 (vc.add p))

/-- Element `i` of width `w` packed from bit 0 upwards (R160). -/
def elemOf (w x i : Nat) : Nat := x / 2 ^ (w * i) % 2 ^ w

/-- Put element `i` of width `w` into a packed word, keeping the other bits. -/
def putElem (w i : Nat) (x v : Nat) : Nat :=
  x - elemOf w x i * 2 ^ (w * i) + v % 2 ^ w * 2 ^ (w * i)

/-! ## The stochastic-rounding generator (R170 to R173) -/

/-- rotl of R170. -/
def rotl32 (x : Word) (n : Nat) : Word := x.rotateLeft n

/-- The four counter or state words of the generator. -/
structure Srg where
  x0 : Word
  x1 : Word
  x2 : Word
  x3 : Word
  deriving DecidableEq, Repr

/-- The five key words of R170. -/
def srgKeys (k : Srg) : List Word :=
  [k.x0, k.x1, k.x2, k.x3, 0x5A3C96E1#32 ^^^ k.x0 ^^^ k.x1 ^^^ k.x2 ^^^ k.x3]

/-- inject(i) of R170. -/
def srgInject (ks : List Word) (i : Nat) (x : Srg) : Srg :=
  let key (n : Nat) : Word := ks.getD ((i + n) % 5) 0
  { x0 := x.x0 + key 0, x1 := x.x1 + key 1, x2 := x.x2 + key 2, x3 := x.x3 + key 3 + BitVec.ofNat 32 i }

/-- The rotation constants of Table 6-5. -/
def srgRot : List (Nat × Nat) :=
  [(12, 20), (5, 11), (20, 4), (9, 27), (28, 12), (13, 7), (4, 28), (21, 3), (8, 24), (25, 15)]

/-- One round of R170 with its injection. -/
def srgRound (ks : List Word) (j : Nat) (x : Srg) : Srg :=
  let (ra, rb) := srgRot.getD j (0, 0)
  let x0 := x.x0 + x.x1
  let x1 := rotl32 x.x1 ra ^^^ x0
  let x2 := x.x2 + x.x3
  let x3 := rotl32 x.x3 rb ^^^ x2
  let y : Srg := { x0 := x0, x1 := x3, x2 := x2, x3 := x1 }
  if j % 2 = 1 then srgInject ks ((j + 1) / 2) y else y

/-- srg(key, counter) of R170. -/
def srg (k c : Srg) : Srg :=
  (List.range 10).foldl (fun x j => srgRound (srgKeys k) j x) (srgInject (srgKeys k) 0 c)

/-- The SR word t of R171 for a tensor identifier, coordinate and step. -/
def srWord (key : Srg) (tid : Word) (coord : DWord) (step : Word) : Word :=
  (srg key { x0 := tid, x1 := lo32 coord, x2 := hi32 coord, x3 := step }).x0

end Sys2Proof.Machine
end

