-- ==== Sys2Proof/Machine/Digest.lean ====
section
/-!
DEFINITION. CRC-32 of IEEE 802.3 (R146, R398, R399) and SHA3-256 (R369, R390, R413).
-/
namespace Sys2Proof.Machine

/-- One bit of the reflected CRC-32 register. -/
def crcBit (c : Word) : Word := if c.getLsbD 0 then (c >>> 1) ^^^ 0xEDB88320#32 else c >>> 1

/-- One byte of the CRC-32 register. -/
def crcByte (c : Word) (b : Byte) : Word :=
  crcBit (crcBit (crcBit (crcBit (crcBit (crcBit (crcBit (crcBit (c ^^^ b.setWidth 32))))))))

/-- CRC-32 of IEEE 802.3 over a run of bytes. -/
def crc32 (bs : List Byte) : Word := (bs.foldl crcByte 0xFFFFFFFF#32) ^^^ 0xFFFFFFFF#32

/-! ## SHA3-256 (R369, R390, R413: the hash of FIPS 202, with its two tables computed by their generating rules) -/

/-- The hash works on 25 words of 64 bits; word `x + 5 y` stands at column `x` of row `y`. -/
abbrev Grid := List DWord

/-- The word at a column and a row, each taken modulo 5. -/
def Grid.at (g : Grid) (x y : Nat) : DWord := g.getD (x % 5 + y % 5 * 5) 0#64

/-- The next state of the 8-bit feedback register whose low bits make the round words. -/
def tapNext (r : Byte) : Byte := if r.msb then (r <<< 1) ^^^ 0x71#8 else r <<< 1

/-- Seven taps of the register from state `r`: the round word that they make, and the state after them. Tap `m` sets
bit 2^m - 1. -/
def taps : Nat → Byte → DWord → DWord × Byte
  | 0, r, acc => (acc, r)
  | n + 1, r, acc => taps n (tapNext r) (if r.getLsbD 0 then acc ||| (1#64 <<< (2 ^ (6 - n) - 1)) else acc)

/-- The parity of each column of the grid. -/
def Grid.parity (g : Grid) (x : Nat) : DWord := (List.range 5).foldl (fun acc y => acc ^^^ g.at x y) 0#64

/-- Each word takes in the parities of the two neighbouring columns. -/
def Grid.spread (g : Grid) : Grid :=
  let par := (List.range 5).map g.parity
  (List.range 5).flatMap fun y => (List.range 5).map fun x =>
    g.at x y ^^^ (Grid.at par (x + 4) 0 ^^^ (Grid.at par (x + 1) 0).rotateLeft 1)

/-- The walk over the 24 words away from the origin: the word at (x, y) goes, turned left by the triangular number of its
place in the walk, to (y, 2x + 3y), which the walk visits next. -/
def Grid.walk (g : Grid) : Nat → Nat → Nat → Nat → Grid → Grid
  | 0, _, _, _, out => out
  | n + 1, t, x, y, out =>
    let y' := (2 * x + 3 * y) % 5
    g.walk n (t + 1) y y' (out.set (y + 5 * y') ((g.at x y).rotateLeft ((t + 1) * (t + 2) / 2 % 64)))

/-- Each word takes in its two right neighbours of its row, the nearer one complemented. -/
def Grid.mix (g : Grid) : Grid :=
  (List.range 25).map fun i => g.at i (i / 5) ^^^ (g.at (i + 2) (i / 5) &&& ~~~ g.at (i + 1) (i / 5))

/-- `n` rounds, the feedback register going on from one to the next. -/
def Grid.rounds : Nat → Byte → Grid → Grid
  | 0, _, g => g
  | n + 1, r, g =>
    let (k, r') := taps 7 r 0#64
    let h := g.spread
    Grid.rounds n r' ((h.walk 24 0 1 0 h).mix.modify 0 (· ^^^ k))

/-- The grid after a block of 136 bytes, eight to a word with the least significant first. -/
def Grid.feed (g : Grid) (blk : List Byte) : Grid :=
  Grid.rounds 24 1#8 ((List.range 25).map fun i =>
    g.at i (i / 5) ^^^ BitVec.ofNat 64 (leNat (((blk.take 136).drop (8 * i)).take 8)))

/-- The bytes after the message: domain bits 01 and the padding to a whole number of blocks. -/
def sha3Tail (len : Nat) : List Byte :=
  let gap := 135 - len % 136
  (List.range (gap + 1)).map fun i => (if i = 0 then 0x06#8 else 0#8) ||| (if i = gap then 0x80#8 else 0#8)

/-- The grid after `n` blocks of a run of bytes. -/
def Grid.feedAll : Nat → List Byte → Grid → Grid
  | 0, _, g => g
  | n + 1, bs, g => Grid.feedAll n (bs.drop 136) (g.feed bs)

/-- SHA3-256 of a run of bytes. -/
def sha3 (bs : List Byte) : List Byte :=
  ((Grid.feedAll (bs.length / 136 + 1) (bs ++ sha3Tail bs.length) (List.replicate 25 0#64)).take 4).flatMap fun w =>
    leBytes 8 w.toNat

end Sys2Proof.Machine
end

