-- ==== Sys2Proof/Syntax.lean ====
section
/-!
DEFINITION. The steps of the device: one constructor of `Instr` per row of the opcode table, an
instruction with a word (08 R199 to R220) or an event of the device without one (95). Registers are
named by their six-bit fields; the operand records below follow Tables 8-1, 8-3, 9-1, 10-1 and 11-1.
-/
namespace Sys2Proof

/-- The causes of #ILL, in the order in which R217 reports them. -/
inductive IllCause where
  | opc | hdr | unif | field | mark | priv | target | cls | persist
  deriving DecidableEq, Repr

/-- The b operand of a major of kind A (R204). -/
inductive BOp where
  /-- A vector register. -/
  | v (r : Reg)
  /-- A scalar register, 0 to 62, read by every lane. -/
  | s (r : Reg)
  /-- The literal word that follows, read by every lane. -/
  | lit (w : Word)
  deriving DecidableEq, Repr

/-- The b operand of a scalar major, kind S-lit (R204). -/
inductive SOp where
  /-- A scalar register. -/
  | s (r : Reg)
  /-- The literal word that follows. -/
  | lit (w : Word)
  deriving DecidableEq, Repr

/-- A 16-bit instruction (Table 8-1). -/
structure Op16 where
  d : BitVec 5
  s : BitVec 5
  u : Bool
  deriving DecidableEq, Repr

/-- A lane instruction with two sources (Table 8-3, kind A). -/
structure Lane2 where
  d : Reg
  a : Reg
  b : BOp
  ma : Bool
  mb : Bool
  u : Bool
  deriving DecidableEq, Repr

/-- A unary lane instruction: the operand is b (R204). -/
structure Lane1 where
  d : Reg
  b : BOp
  mb : Bool
  u : Bool
  deriving DecidableEq, Repr

/-- A shuffle: kind A without U (Table 8-9). -/
structure Shfl where
  d : Reg
  a : Reg
  b : BOp
  ma : Bool
  mb : Bool
  deriving DecidableEq, Repr

/-- LD and ST (Tables 8-10 and 10-1): flag select, ordering bit, scope, offset mark, size, window. -/
structure MemOps where
  f : Bool
  o : Bool
  c : BitVec 2
  ma : Bool
  z : BitVec 3
  w : BitVec 3
  a : Reg
  d : Reg
  u : Bool
  deriving DecidableEq, Repr

/-- ST.B0, the zero-length write (R259). -/
structure MemOps0 where
  f : Bool
  o : Bool
  c : BitVec 2
  ma : Bool
  w : BitVec 3
  a : Reg
  u : Bool
  deriving DecidableEq, Repr

/-- LDU (R260). -/
structure LduOps where
  f : Bool
  o : Bool
  c : BitVec 2
  z : BitVec 3
  w : BitVec 3
  a : Reg
  d : Reg
  deriving DecidableEq, Repr

/-- ATOM, ATOMR, REDNI and BEW: flag, minor[2], scope, mark, size or format bit, window (Table 10-1). -/
structure AtomOps where
  f : Bool
  q : Bool
  c : BitVec 2
  ma : Bool
  z : Bool
  w : BitVec 2
  a : Reg
  d : Reg
  u : Bool
  deriving DecidableEq, Repr

/-- REDNF and CELLRD (Table 10-1). -/
structure CellOps where
  f : Bool
  q : Bool
  c : BitVec 2
  ma : Bool
  w : BitVec 2
  a : Reg
  d : Reg
  u : Bool
  deriving DecidableEq, Repr

/-- REDNF.CELLZ, which has no data register (R265). -/
structure CellzOps where
  f : Bool
  q : Bool
  c : BitVec 2
  ma : Bool
  w : BitVec 2
  a : Reg
  u : Bool
  deriving DecidableEq, Repr

/-- A valid clause header (Table 8-4): pre-emption point, WAIT, flag fields B and A, yield hint. -/
structure Header where
  p : Bool
  wait : BitVec 12
  b : BitVec 4
  a : BitVec 4
  y : Bool
  deriving DecidableEq, Repr

/-! ## What the events carry -/

/-- Who makes an access to device control space (R14, R18, R346). -/
inductive Agent where
  | driver | mgmt | program | host
  deriving DecidableEq, Repr

/-- A write to a control register: the offset in device control space, the bytes covered and the value (R18). -/
structure RegWrite where
  agent : Agent
  off : Nat
  len : Nat
  val : Nat
  deriving DecidableEq, Repr

/-- An access of the PCIe host through a BAR (R154): a read, or a write of bytes. -/
structure HostAccess where
  off : Nat
  len : Nat
  write : Option (List Byte)
  deriving DecidableEq, Repr

/-- Where an uncorrectable error strikes (R89, Table 3-7). -/
inductive ErrorSite where
  /-- A word of a vector register of a cohort. -/
  | vreg (dseq j : Nat) (r : Reg) (lane : Nat)
  /-- A scalar register of a cohort. -/
  | sreg (dseq j : Nat) (r : Reg)
  /-- An element of a tile of a company. -/
  | tile (dseq : Nat) (t : BitVec 4) (row col : Nat)
  /-- A 16-byte granule of a company's local store. -/
  | localStore (dseq off : Nat)
  /-- A 16-byte granule of a company's gallery slot. -/
  | gallery (dseq slot off : Nat)
  /-- A granule of own memory in the L2 of a hall, by local offset. -/
  | l2 (hall off : Nat)
  /-- A code word of memory by local offset, in the L3 or atrium store, HBM4 or second tier. -/
  | memory (index off : Nat)
  /-- The memory of a flight. -/
  | flight (fid : Nat)
  deriving DecidableEq, Repr

/-- A request that reaches the directory (R66), or the application of the queued invalidations of a hall (R115). -/
inductive DirRequest where
  /-- An agent of a hall asks for a line, for writing or not. -/
  | request (hall line : Nat) (write : Bool)
  /-- A hall comes to see a class L write of another hall: the one at this place among those that it has still to see. -/
  | apply (hall k : Nat)
  deriving DecidableEq, Repr

/-- One operation entry of an ATOM, RED or SIG packet (Table 5-3). -/
structure Entry where
  off : Nat
  size : Nat
  lane : Nat
  operand : Nat
  compare : Nat
  deriving DecidableEq, Repr

/-- A Crixlink packet (Tables 5-2 and 5-3). `malformed` says that a zero field is non-zero, `poison` which bytes of the data are
poisoned: poison travels with the data (R89, log entry 78). -/
structure Packet where
  type : Nat
  op : Nat
  src : Nat
  dst : Nat
  tag : Nat
  nops : Nat
  line : Nat
  xtra : Nat
  be : DWord
  data : List Byte
  poison : DWord
  entries : List Entry
  malformed : Bool
  deriving DecidableEq, Repr

/-- What a member of a multicast group answers to a read (R145). -/
inductive MemberRead where
  | absent
  | poison
  | data (bytes : List Byte)
  deriving DecidableEq, Repr

/-- A flit at a receiver (R146, Table 5-4): the fields of HDR, the erroneous symbols of its even and of its odd codeword, whether the
CRC and the GCM tag are right after correction, and the packets that end in its payload. -/
structure Flit where
  seq : Nat
  ack : Nat
  kind : Nat
  enc : Bool
  evenErrors : Nat
  oddErrors : Nat
  crcOk : Bool
  gcmOk : Bool
  packets : List Packet
  deriving DecidableEq, Repr

/-- A trace record (Table 15-10) without its TIME, which the trace unit adds. -/
structure TraceRec where
  type : Nat
  die : Nat
  engine : Nat
  qid : Nat
  csn : Nat
  data0 : Nat
  data1 : Nat
  data2 : Nat
  deriving DecidableEq, Repr

/-- The steps of the device: its instructions and its events, one constructor per row of the opcode table. -/
inductive Instr where
  /-- REGISTER_WRITE (R6): A write to a register that has no row of its own stores or ignores fields by their access codes. -/
  | registerWrite (w : RegWrite)
  /-- MCGTAB_WRITE (R143): The management processor sets up or changes a multicast group's MEMBERS, GBASE, GLEN, GMASK and VALID in the device on the fabric manager's behalf. -/
  | mcgtabWrite (w : RegWrite)
  /-- BRIDGECFG_WRITE (R153): The management processor writes BRIDGEDEV and GIDX, setting BRIDGECFG.VALID. -/
  | bridgecfgWrite (w : RegWrite)
  /-- ASCARVE_WRITE (R22): A write to ASCARVE is refused with ERR or accepted, setting BUSY and starting the carve change. -/
  | ascarveWrite (w : RegWrite)
  /-- CARVE_CHANGE_DONE (R22): The carve change finishes its write-back, zeroing or discard, clears BUSY and releases stalled atrium-store accesses. -/
  | carveChangeDone
  /-- SHOOTDOWN (R43): SHOOTCTL GO drops covered TLB entries, zeroes window limits and increments PTGEN, or is refused with ERR. -/
  | shootdown (w : RegWrite)
  /-- SHOOTDOWN_COMPLETE (R43): BUSY clears once every access translated before GO has completed or failed. -/
  | shootdownComplete
  /-- PGPUSH64K (R53): A push of a 64 KiB frame is refused or zeroes the frame and adds it to the pool. -/
  | pgpush64k (w : RegWrite)
  /-- PGPUSH2M (R53): A push of a 2 MiB frame is refused or zeroes the frame and adds it to the pool. -/
  | pgpush2m (w : RegWrite)
  /-- PGPOP64K (R54): A load from PGPOP64K removes and returns one 64 KiB frame, or zero with EMPTY64K. -/
  | pgpop64k (agent : Agent)
  /-- PGPOP2M (R54): A load from PGPOP2M removes and returns one 2 MiB frame, or zero with EMPTY2M. -/
  | pgpop2m (agent : Agent)
  /-- MEMERRCLR (R91): A write clears UECNT and CECNT of each structure whose bit is set. -/
  | memerrclr (w : RegWrite)
  /-- DEVNUM_WRITE (R14): The management processor writes this device's number and sets VALID. -/
  | devnumWrite (w : RegWrite)
  /-- PMASK_WRITE (R134): The management processor changes the plane mask of a device, holding packets whose plane changes and failing requests when it becomes zero. -/
  | pmaskWrite (w : RegWrite)
  /-- PLANE_HOLD_RELEASE (R135): Once old-plane packets are answered or returned, returned packets are resent in order and held packets released. -/
  | planeHoldRelease (dev : Nat)
  /-- PORTRESOLVE_GO (R148): ENEXT settles which held flits of a dead port were delivered and resends the rest on current planes, clearing RESOLVE. -/
  | portresolveGo (w : RegWrite)
  /-- SPILLBASE_WRITE (R337): A write to SPILLBASE is refused with SPILLSTAT.ERR or installs BASE and EN. -/
  | spillbaseWrite (w : RegWrite)
  /-- QUEUE_ENABLE (R346): QCTL ENABLE checks the descriptor and puts the queue in RUN, or is refused. -/
  | queueEnable (w : RegWrite)
  /-- QUEUE_DISABLE (R346): QCTL DISABLE stops the queue starting packets, saves flight position and sets BUSY, or is refused. -/
  | queueDisable (w : RegWrite)
  /-- QUEUE_RESUME (R346): QCTL RESUME moves a queue in ERROR to RUN with a new RPTR and cleared error fields. -/
  | queueResume (w : RegWrite)
  /-- DISABLE_DRAIN_DONE (R346): When every started packet has completed and signalled, the descriptor is written DISABLED and BUSY clears. -/
  | disableDrainDone
  /-- DOORBELL_WRITE (R344): A noticed write to a doorbell line is read as WPTR, making packets pending or putting the queue in ERROR OVER. -/
  | doorbellWrite (qid : Nat) (val : DWord)
  /-- FLTOWN_WRITE (R361): A write to FLTOWN sets the flight EMPTY and frees its blocks unless it is recording or running. -/
  | fltownWrite (w : RegWrite)
  /-- CCFWCTL_GO (R369): GO measures a command-core firmware image and starts replacement, or is refused with ERR and FWSWAP. -/
  | ccfwctlGo (w : RegWrite)
  /-- FIRMWARE_CORE_SWAP (R369): A command core finishes its step, loads the new image and continues with its queue state; the last swap posts FWSWAP. -/
  | firmwareCoreSwap (core : Bool)
  /-- PRECTL_GO (R382): GO starts pre-emption of a context, or is refused with ERR. -/
  | prectlGo (w : RegWrite)
  /-- RESTCTL_GO (R390): GO checks and restores a saved image, or resumes a context stopped in place, or is refused. -/
  | restctlGo (w : RegWrite)
  /-- RECORD_STRICT (R393): A RECCTL write of MODE 1 arms strict recording for an ASID, or is refused. -/
  | recordStrict (w : RegWrite)
  /-- RECORD_LOSSY (R393): A RECCTL write of MODE 2 arms lossy recording for an ASID, or is refused. -/
  | recordLossy (w : RegWrite)
  /-- REPLAY_MODE (R401): A RECCTL write of MODE 3 arms replay for an ASID from the ring, or is refused. -/
  | replayMode (w : RegWrite)
  /-- MODE_OFF (R393): A RECCTL write of MODE 0 ends recording after open pages complete, or ends replay at the next boundaries. -/
  | modeOff (w : RegWrite)
  /-- CTXRET_GO (R414): GO retires a context, writes its counters statement and frees its counters, or is refused. -/
  | ctxretGo (w : RegWrite)
  /-- JOBREQ_GO (R415): GO makes the security processor write a job statement for the given JOBID and peers. -/
  | jobreqGo (w : RegWrite)
  /-- FEATCTL_GO (R437): GO installs the accepted feature subset and increments FEATGEN, or is refused. -/
  | featctlGo (w : RegWrite)
  /-- HALLQ_GO (R439): GO redirects placement away from a hall and starts its quiesce, or is refused. -/
  | hallqGo (w : RegWrite)
  /-- HALL_QUIESCE_DONE (R439): After residents leave, the hall's L2 is flushed, its stacks retrain, BUSY clears and placement resumes. -/
  | hallQuiesceDone
  /-- HOST_BAR2_ACCESS (R154): A host access through BAR2 is translated by HOSTAPT into a fabric access or completes with Unsupported Request. -/
  | hostBar2Access (a : HostAccess)
  /-- HOST_BAR0_ACCESS (R154): A host access through BAR0 reaches the bridge's device control space. -/
  | hostBar0Access (a : HostAccess)
  /-- POWER_ON (R436): Application of main power resets the module and starts the boot steps. -/
  | powerOn
  /-- BOOT_STEP (R436): A boot step runs by its normal or alternate path, is skipped, or halts boot with HALTED. -/
  | bootStep (ok : Bool)
  /-- CORRELATION_MARKER_SEND (R32): Every 65,536 atrium cycles the trace unit sends a numbered correlation marker and records its own send. -/
  | correlationMarkerSend
  /-- CORRELATION_MARKER_RECEIPT (R32): A hall or vestibule receives the marker and enters a marker record with its counter value. -/
  | correlationMarkerReceipt (die delay : Nat)
  /-- PATROL_SCRUB (R88): The scrubber visits a location and corrects a soft error in place. -/
  | patrolScrub (index : Nat) (corrected : Bool)
  /-- UNCORRECTABLE_ERROR (R89): An uncorrectable error poisons the covered units, is counted and sends an event to the management processor. -/
  | uncorrectableError (e : ErrorSite)
  /-- DIRECTORY_REQUEST (R66): A request to a tracked line passes the directory, which invalidates, recalls or holds as the line's state requires. -/
  | directoryRequest (r : DirRequest)
  /-- LOAD_RETURN (R96): A load's data returns and is written to its destination words, lowering its flag. -/
  | loadReturn (id lane : Nat)
  /-- STORE_PERFORM (R103): A store is performed at its target and leaves the store buffer in core store order. -/
  | storePerform (id lane : Nat)
  /-- BANK_OPERATION (R70): An operation reaching an L3 or atrium-store bank is performed indivisibly on its line in arrival order. -/
  | bankOperation (id lane : Nat)
  /-- STREAM_PREFETCH (R87): The L2 stream detector brings a line into the L2 or L3 in state S. -/
  | streamPrefetch (hall line : Nat)
  /-- COPY_PIECE (R84): A copy engine takes a queued piece, reads its source granules and writes its destination, releasing E lines. -/
  | copyPiece (id : Nat)
  /-- GALLERY_FILL_COMPLETE (R306): A gallery fill finishes writing its slot, sets VALID and POISON and moves GLGEN. -/
  | galleryFillComplete (id : Nat)
  /-- FABRIC_PACKET_ARRIVAL (R140): A packet from another device arrives on a plane and is performed, queued behind a marker, or counted as a marker copy. -/
  | fabricPacketArrival (plane : Nat) (p : Packet)
  /-- MARKER_RELEASE (R140): Once all copies have arrived and earlier packets are performed, the marker is answered and held queues proceed. -/
  | markerRelease (src : Nat)
  /-- RESPONSE_ARRIVAL (R139): An RSP reaches the source and completes its request, or reports a far-end error. -/
  | responseArrival (p : Packet)
  /-- MCS_ARRIVAL (R286): A multicast status bitmap arrives and is ORed into cr.mcst0 to cr.mcst15. -/
  | mcsArrival (p : Packet)
  /-- UNDLV_ARRIVAL (R142): A returned undelivered packet is resent on the current effective plane or fails. -/
  | undlvArrival (p : Packet)
  /-- SWITCH_MCW (R144): A plane switch writes an MCW to every member in GMASK and returns one MCS bitmap. -/
  | switchMcw (tag : Nat) (failed : List Nat)
  /-- SWITCH_MCR (R145): A plane switch reads every member and returns the member-order FP32 sums with a status. -/
  | switchMcr (tag : Nat) (reads : List MemberRead)
  /-- FLIT_RECEIVE (R147): A flit is checked, accepted in sequence or dropped with a NAK, and releases acknowledged flits. -/
  | flitReceive (port : Nat) (f : Flit)
  /-- NAK_RECEIVE (R147): The sender resends every held flit after the NAK's ACK, in order and bit for bit. -/
  | nakReceive (port ack : Nat)
  /-- ACK_TIMEOUT (R147): After 4,096 vestibule cycles without ACK progress the sender resends from the oldest held flit. -/
  | ackTimeout (port : Nat)
  /-- RETRAIN_DONE (R147): Retraining ends; RXNEXT is exchanged and resending resumes, or the port enters DEAD after three failures. -/
  | retrainDone (port : Nat) (ok : Bool) (rxnext : Nat)
  /-- MODULE_FALLBACK (R152): A UCIe module with 16 bad flits in 2^20 retrains at 32 lanes, or goes down if both halves fail. -/
  | moduleFallback (vestibule mod : Nat) (failLow failHigh : Bool)
  /-- KEY_EXCHANGE_DONE (R150): SPDM keying completes, KEYED is set and the port enters UP. -/
  | keyExchangeDone (port : Nat)
  /-- KEY_UPDATE (R150): A GCM counter reaching 2^40 starts a key update. -/
  | keyUpdate (port : Nat)
  /-- KEY_LIMIT_STOP (R150): A counter reaching 2^47 before the new key stops data flits and puts the port in KEYING. -/
  | keyLimitStop (port : Nat)
  /-- COMPANY_CREATE (R323): The dispatcher creates a company with its DSEQ and enters it into a hall ready queue. -/
  | companyCreate
  /-- COMPANY_PLACE (R327): A cluster places a queued or restored company on a core that fits, reserving floors and zeroing local store. -/
  | companyPlace (dseq core : Nat)
  /-- HEAD_BLOCK (R327): A company that stood 4,096 atrium cycles at the queue head blocks younger placements. -/
  | headBlock (hall : Nat)
  /-- COMPANY_STEAL (R328): An idle cluster takes the oldest fitting company from the longest hall queue. -/
  | companySteal (cluster dseq core : Nat)
  /-- PERSISTENT_PLACE (R325): A held persistent launch is placed whole once all its companies fit. -/
  | persistentPlace (cores : List Nat)
  /-- ACTIVE_SET_FILL (R333): A free active-set place is filled from the ready pending cohorts. -/
  | activeSetFill (dseq j : Nat)
  /-- ACTIVE_SET_DISPLACE (R333): A pending cohort ready for 1,024 cycles replaces the earliest-entered active cohort. -/
  | activeSetDisplace (dseq j : Nat)
  /-- ALLOCATION_DEADLOCK (R338): A deadlock condition's count expires and a victim is chosen for spill or #RES. -/
  | allocationDeadlock (core : Nat)
  /-- FORCED_SPILL (R339): With the victim stopped and drained, its above-floor registers and tiles are written out and its extra slots returned. -/
  | forcedSpill (dseq : Nat)
  /-- RELOAD (R340): A spilled company's reload is granted; names and tiles reload, slots refill and cohorts resume. -/
  | reload (dseq : Nat)
  /-- COMPANY_RETIRE (R184): When every cohort has ended and copies are complete, the company releases its resources. -/
  | companyRetire (dseq : Nat)
  /-- CONSUMER_LAUNCH (R190): A graph node launches one more consumer company and sets LASTL. -/
  | consumerLaunch (node : Nat)
  /-- EMIT_APPEND (R282): An EMIT waiting on a full ring appends its record once room frees. -/
  | emitAppend (dseq j : Nat)
  /-- QUEUE_BIND (R347): A queue with pending packets is bound to a free command-core place. -/
  | queueBind (qid place : Nat)
  /-- QUEUE_UNBIND (R347): A bound queue idle 4,096 atrium cycles, or holding its place 65,536 while others wait, is unbound. -/
  | queueUnbind (qid : Nat)
  /-- FENCE_PACKET (R354): A FENCE packet waits for earlier packets and makes their writes visible at its scope. -/
  | fencePacket (qid : Nat)
  /-- SIGSET_PACKET (R352): A SIGSET packet performs an add or set of SVAL at SADDR as a POD release. -/
  | sigsetPacket (qid : Nat)
  /-- SIGWAIT_PACKET (R353): A SIGWAIT packet reads its word as a POD acquire and holds the queue until COND holds. -/
  | sigwaitPacket (qid : Nat)
  /-- SIGWAIT_RECHECK (R353): The word is reread after a noticed write to its line or every 4,096 atrium cycles. -/
  | sigwaitRecheck (qid : Nat)
  /-- FLIGHT_END_PACKET (R362): FLIGHT_END records the guards and makes the flight READY or INVALID. -/
  | flightEndPacket (qid : Nat)
  /-- FLIGHT_BEGIN_PACKET (R362): FLIGHT_BEGIN makes the queue record into a flight, or raises a FLIGHT error. -/
  | flightBeginPacket (qid : Nat)
  /-- FLIGHT_RUN_PACKET (R366): FLIGHT_RUN checks ownership, reads the patch vector and checks the guards. -/
  | flightRunPacket (qid : Nat)
  /-- TREAD_ISSUE (R366): The next tread of a run is patched, checked and acts as its packet. -/
  | treadIssue (qid : Nat)
  /-- FALLBACK_PACKET (R367): The next fallback packet of a stale flight is processed as if it stood in the ring. -/
  | fallbackPacket (qid : Nat)
  /-- DISPATCH_PACKET (R355): DISPATCH reads and checks the launch header and passes the launch to the dispatcher. -/
  | dispatchPacket (qid : Nat)
  /-- GRAPH_PACKET (R356): GRAPH checks a node descriptor and makes the node live with its successor launch. -/
  | graphPacket (qid : Nat)
  /-- COPY_PACKET (R357): COPY checks and issues a copy in parts of at most 1,024 pieces. -/
  | copyPacket (qid : Nat)
  /-- NOP_PACKET (R351): NOP starts, adds to CSN and completes at once. -/
  | nopPacket (qid : Nat)
  /-- COMPLETION_SIGNAL (R352): A completed packet with CSIG makes its work visible and performs the add or exchange as a POD release. -/
  | completionSignal (qid csn : Nat)
  /-- EVENT_RING_WRITE (R360): A held event is written once the driver frees ring space. -/
  | eventRingWrite
  /-- IN_LANE_TRAP_ENTRY (R373): After earlier instructions retire, the frame and trap registers are written and the cohort vectors to SVVEC. -/
  | inLaneTrapEntry (dseq j : Nat)
  /-- QUEUE_LEVEL_TRAP (R375): A queue-level trap stops every cohort, drains, writes the image if it fits and releases the context. -/
  | queueLevelTrap (asid : Nat)
  /-- FAB_TRAP (R378): At the first boundary after a fabric failure arrives, #FAB is raised as a warning or queue-level trap. -/
  | fabTrap (dseq j : Nat)
  /-- PREEMPT_STOP (R383): A cohort reaches a pre-emption point, wait or end and stops. -/
  | preemptStop (dseq j : Nat)
  /-- OVERDUE (R384): 2 × PDIST after GO, unstopped cohorts stop at boundaries, #LATE is raised and LATEPT posted. -/
  | overdue (dseq : Nat)
  /-- COMPANY_SAVE (R385): With every cohort stopped and drained, the company record is written and resources released. -/
  | companySave (dseq : Nat)
  /-- WAITTIME_EXPIRY (R50): 65,536 cycles after a WAITTIME resolution the cohort executes the faulting instruction again. -/
  | waittimeExpiry (dseq j : Nat)
  /-- MMA_TILE_RETIRE (R303): The fired tile operation writes its tile and clears INFLIGHT. -/
  | mmaTileRetire (dseq : Nat) (t : BitVec 4)
  /-- ENGINE_PASS (R298): When all members released and their MMAs retired, the engine passes to the next FIFO entry after its agreement check. -/
  | enginePass (core : Nat)
  /-- SEMA_GRANT (R279): A waiting SEMA finds the word positive and decrements it as an acquire. -/
  | semaGrant (dseq j : Nat)
  /-- RECORD_PAGE_COMPLETE (R400): A recorder completes a page when full, at recording end or after 2^20 idle cycles, and writes it to the ring or discards it. -/
  | recordPageComplete (source : Nat)
  /-- CBKPT_TRAP (R403): An armed replay breakpoint stops its cohort at the named chunk. -/
  | cbkptTrap (dseq j : Nat)
  /-- TRACE_RECORD (R405): A trace record reaching the trace unit is written or counted as lost. -/
  | traceRecord (r : TraceRec)
  /-- POWER_SAMPLE (R407): Every 2,000 atrium cycles two POWER records of rail currents are written. -/
  | powerSample (rails : List Nat)
  /-- TRACE_STOP (R408): The held packet's queue drains and its context stops as HALT does, with HIT and a STOP record. -/
  | traceStop
  /-- STATEMENT_WRITE (R416): A held statement is signed and written to the statement ring when a slot frees. -/
  | statementWrite
  /-- POWER_LIMIT_SAMPLE (R438): Each 1 ms mean against PWRLIM lowers or raises the hall clocks in 100 MHz steps. -/
  | powerLimitSample (meanWatts limitWatts : Nat)
  /-- THERMAL_THROTTLE (R438): A junction at 105 °C throttles the clocks. -/
  | thermalThrottle (celsius : Nat)
  /-- THERMAL_SHUTDOWN (R438): A junction at 115 °C makes the management processor ask for main power removal. -/
  | thermalShutdown (celsius : Nat)
  /-- CLAUSE_HEADER (R209): A clause header begins a clause once its WAIT flags are zero, selecting flags A and B, point and yield. -/
  | clauseHeader (h : Header)
  /-- MOV_16 (R200): 16-bit MOV copies vs to vd; with vd equal to vs it is NOP.16. -/
  | mov16 (o : Op16)
  /-- IADD_16 (R200): 16-bit vd = vd + vs. -/
  | iadd16 (o : Op16)
  /-- ISUB_16 (R200): 16-bit vd = vd − vs. -/
  | isub16 (o : Op16)
  /-- IMUL_16 (R200): 16-bit vd = vd × vs. -/
  | imul16 (o : Op16)
  /-- AND_16 (R200): 16-bit vd = vd AND vs. -/
  | and16 (o : Op16)
  /-- OR_16 (R200): 16-bit vd = vd OR vs. -/
  | or16 (o : Op16)
  /-- XOR_16 (R200): 16-bit vd = vd XOR vs. -/
  | xor16 (o : Op16)
  /-- SHL_16 (R200): 16-bit left shift of vd by vs. -/
  | shl16 (o : Op16)
  /-- SHR_16 (R200): 16-bit logical right shift of vd by vs. -/
  | shr16 (o : Op16)
  /-- SAR_16 (R200): 16-bit arithmetic right shift of vd by vs. -/
  | sar16 (o : Op16)
  /-- FADD_16 (R200): 16-bit FP32 vd = vd + vs. -/
  | fadd16 (o : Op16)
  /-- FSUB_16 (R200): 16-bit FP32 vd = vd − vs. -/
  | fsub16 (o : Op16)
  /-- FMUL_16 (R200): 16-bit FP32 vd = vd × vs. -/
  | fmul16 (o : Op16)
  /-- FMAX_16 (R200): 16-bit FP32 maximum of vd and vs. -/
  | fmax16 (o : Op16)
  /-- FMIN_16 (R200): 16-bit FP32 minimum of vd and vs. -/
  | fmin16 (o : Op16)
  /-- FNEG_16 (R200): 16-bit FP32 negation of vs into vd. -/
  | fneg16 (o : Op16)
  /-- IADD (R228): Per lane (a + b) mod 2^32. -/
  | iadd (o : Lane2)
  /-- ISUB (R228): Per lane (a − b) mod 2^32. -/
  | isub (o : Lane2)
  /-- IMUL (R228): Per lane low product. -/
  | imul (o : Lane2)
  /-- IMULHI (R228): Per lane high word of the signed product. -/
  | imulhi (o : Lane2)
  /-- IMULHU (R228): Per lane high word of the unsigned product. -/
  | imulhu (o : Lane2)
  /-- IMAD (R228): Per lane a × b + vd mod 2^32. -/
  | imad (o : Lane2)
  /-- IADDS (R228): Per lane saturating signed add. -/
  | iadds (o : Lane2)
  /-- ISUBS (R228): Per lane saturating signed subtract. -/
  | isubs (o : Lane2)
  /-- AND (R228): Per lane a AND b. -/
  | and (o : Lane2)
  /-- OR (R228): Per lane a OR b. -/
  | or (o : Lane2)
  /-- XOR (R228): Per lane a XOR b. -/
  | xor (o : Lane2)
  /-- ANDN (R228): Per lane a AND NOT b. -/
  | andn (o : Lane2)
  /-- SHL (R228): Per lane left shift, 0 for amounts of 32 or more. -/
  | shl (o : Lane2)
  /-- SHR (R228): Per lane logical right shift. -/
  | shr (o : Lane2)
  /-- SAR (R228): Per lane arithmetic right shift. -/
  | sar (o : Lane2)
  /-- ROTL (R228): Per lane rotate left by b[4:0]. -/
  | rotl (o : Lane2)
  /-- IMIN (R228): Per lane signed minimum. -/
  | imin (o : Lane2)
  /-- IMAX (R228): Per lane signed maximum. -/
  | imax (o : Lane2)
  /-- UMIN (R228): Per lane unsigned minimum. -/
  | umin (o : Lane2)
  /-- UMAX (R228): Per lane unsigned maximum. -/
  | umax (o : Lane2)
  /-- CLZ (R228): Per lane leading zero count of b. -/
  | clz (o : Lane1)
  /-- POPC (R228): Per lane population count of b. -/
  | popc (o : Lane1)
  /-- BREV (R228): Per lane bit reversal of b. -/
  | brev (o : Lane1)
  /-- INEG (R228): Per lane two's-complement negation of b. -/
  | ineg (o : Lane1)
  /-- BFX (R229): Per lane zero-extended bitfield extract. -/
  | bfx (o : Lane2)
  /-- BFXS (R229): Per lane sign-extended bitfield extract. -/
  | bfxs (o : Lane2)
  /-- BFI (R229): Per lane bitfield insert into vd. -/
  | bfi (o : Lane2)
  /-- PRMT (R229): Per lane byte permute selected by vd. -/
  | prmt (o : Lane2)
  /-- LSA1 (R228): Per lane (a << 1) + b. -/
  | lsa1 (o : Lane2)
  /-- LSA2 (R228): Per lane (a << 2) + b. -/
  | lsa2 (o : Lane2)
  /-- LSA3 (R228): Per lane (a << 3) + b. -/
  | lsa3 (o : Lane2)
  /-- LSA4 (R228): Per lane (a << 4) + b. -/
  | lsa4 (o : Lane2)
  /-- ICMP_EQ (R230): Sets predicate bits where a = b. -/
  | icmpEq (o : Lane2)
  /-- ICMP_NE (R230): Sets predicate bits where a ≠ b. -/
  | icmpNe (o : Lane2)
  /-- ICMP_LT (R230): Signed a < b into a predicate. -/
  | icmpLt (o : Lane2)
  /-- ICMP_LE (R230): Signed a ≤ b into a predicate. -/
  | icmpLe (o : Lane2)
  /-- ICMP_GT (R230): Signed a > b into a predicate. -/
  | icmpGt (o : Lane2)
  /-- ICMP_GE (R230): Signed a ≥ b into a predicate. -/
  | icmpGe (o : Lane2)
  /-- ICMP_LTU (R230): Unsigned a < b into a predicate. -/
  | icmpLtu (o : Lane2)
  /-- ICMP_GEU (R230): Unsigned a ≥ b into a predicate. -/
  | icmpGeu (o : Lane2)
  /-- FCMP_EQ (R230): FP32 ordered equal into a predicate. -/
  | fcmpEq (o : Lane2)
  /-- FCMP_NE (R230): FP32 unordered or not equal into a predicate. -/
  | fcmpNe (o : Lane2)
  /-- FCMP_LT (R230): FP32 ordered less than. -/
  | fcmpLt (o : Lane2)
  /-- FCMP_LE (R230): FP32 ordered less or equal. -/
  | fcmpLe (o : Lane2)
  /-- FCMP_GT (R230): FP32 ordered greater than. -/
  | fcmpGt (o : Lane2)
  /-- FCMP_GE (R230): FP32 ordered greater or equal. -/
  | fcmpGe (o : Lane2)
  /-- FCMP_ORD (R230): Neither operand NaN. -/
  | fcmpOrd (o : Lane2)
  /-- FCMP_UNORD (R230): Either operand NaN. -/
  | fcmpUnord (o : Lane2)
  /-- SEL (R231): Per lane selects a or b by predicate p0–p7. -/
  | sel (k : BitVec 3) (o : Lane2)
  /-- FADD (R232): FP32 add, rounded to nearest even. -/
  | fadd (o : Lane2)
  /-- FSUB (R232): FP32 subtract. -/
  | fsub (o : Lane2)
  /-- FMUL (R232): FP32 multiply. -/
  | fmul (o : Lane2)
  /-- FFMA (R232): FP32 a × b + vd with one rounding. -/
  | ffma (o : Lane2)
  /-- FMIN (R232): FP32 minimum with −0 below +0. -/
  | fmin (o : Lane2)
  /-- FMAX (R232): FP32 maximum with −0 below +0. -/
  | fmax (o : Lane2)
  /-- FFMS (R232): FP32 a × b − vd with one rounding. -/
  | ffms (o : Lane2)
  /-- FNMA (R232): FP32 −(a × b) + vd with one rounding. -/
  | fnma (o : Lane2)
  /-- FRCP (R234): FP32 reciprocal within 1 ulp. -/
  | frcp (o : Lane1)
  /-- FRSQ (R234): FP32 reciprocal square root within 2 ulp. -/
  | frsq (o : Lane1)
  /-- FSQRT (R234): Correctly rounded FP32 square root. -/
  | fsqrt (o : Lane1)
  /-- FEXP2 (R234): FP32 2^b. -/
  | fexp2 (o : Lane1)
  /-- FLOG2 (R234): FP32 log2 b. -/
  | flog2 (o : Lane1)
  /-- FSIN (R234): FP32 sine. -/
  | fsin (o : Lane1)
  /-- FCOS (R234): FP32 cosine. -/
  | fcos (o : Lane1)
  /-- FTANH (R234): FP32 hyperbolic tangent. -/
  | ftanh (o : Lane1)
  /-- HADD2 (R235): Packed FP16 add. -/
  | hadd2 (o : Lane2)
  /-- HSUB2 (R235): Packed FP16 subtract. -/
  | hsub2 (o : Lane2)
  /-- HMUL2 (R235): Packed FP16 multiply. -/
  | hmul2 (o : Lane2)
  /-- HFMA2 (R235): Packed FP16 fused multiply-add into vd. -/
  | hfma2 (o : Lane2)
  /-- HMIN2 (R235): Packed FP16 minimum. -/
  | hmin2 (o : Lane2)
  /-- HMAX2 (R235): Packed FP16 maximum. -/
  | hmax2 (o : Lane2)
  /-- BADD2 (R235): Packed BF16 add. -/
  | badd2 (o : Lane2)
  /-- BSUB2 (R235): Packed BF16 subtract. -/
  | bsub2 (o : Lane2)
  /-- BMUL2 (R235): Packed BF16 multiply. -/
  | bmul2 (o : Lane2)
  /-- BFMA2 (R235): Packed BF16 fused multiply-add into vd. -/
  | bfma2 (o : Lane2)
  /-- BMIN2 (R235): Packed BF16 minimum. -/
  | bmin2 (o : Lane2)
  /-- BMAX2 (R235): Packed BF16 maximum. -/
  | bmax2 (o : Lane2)
  /-- CVT (R236): Converts a by the conversion code in b under the rounding mode in minor, checking the key-use filter under SR. -/
  | cvt (r : BitVec 3) (c d a : Reg) (ma u : Bool)
  /-- MXQI8 (R239): Quantises lanes into MXINT8 blocks of 32 or 16. -/
  | mxqi8 (l : Bool) (r : BitVec 3) (d a : Reg) (ma : Bool)
  /-- MXQE4 (R239): Quantises lanes into MXFP8 E4M3 blocks. -/
  | mxqe4 (l : Bool) (r : BitVec 3) (d a : Reg) (ma : Bool)
  /-- MXQE5 (R239): Quantises lanes into MXFP8 E5M2 blocks. -/
  | mxqe5 (l : Bool) (r : BitVec 3) (d a : Reg) (ma : Bool)
  /-- MXQE2 (R239): Quantises lanes into MXFP4 blocks. -/
  | mxqe2 (l : Bool) (r : BitVec 3) (d a : Reg) (ma : Bool)
  /-- MXDQF (R240): Dequantises one MX element per lane to FP32. -/
  | mxdqf (f : BitVec 2) (d a : Reg) (ma : Bool)
  /-- MXDQB (R240): Dequantises one MX element per lane to BF16. -/
  | mxdqb (f : BitVec 2) (d a : Reg) (ma : Bool)
  /-- DOT4I8 (R241): INT8 × INT8 four-way dot product accumulated into vd. -/
  | dot4i8 (o : Lane2)
  /-- DOT4Z8 (R241): Unsigned 8-bit × INT8 dot product. -/
  | dot4z8 (o : Lane2)
  /-- DOT8I4 (R241): INT4 × INT4 eight-way dot product. -/
  | dot8i4 (o : Lane2)
  /-- DOT8Z4 (R241): Unsigned 4-bit × INT4 dot product. -/
  | dot8z4 (o : Lane2)
  /-- DOT4E4 (R241): E4M3 dot product by mma_block. -/
  | dot4e4 (o : Lane2)
  /-- DOT4E5 (R241): E5M2 dot product by mma_block. -/
  | dot4e5 (o : Lane2)
  /-- DOT8E2 (R241): E2M1 dot product by mma_block. -/
  | dot8e2 (o : Lane2)
  /-- DOT2BF (R241): BF16 dot product by mma_block. -/
  | dot2bf (o : Lane2)
  /-- MOV (R233): Copies b into each active lane. -/
  | mov (o : Lane1)
  /-- FABS (R233): FP32 absolute value. -/
  | fabs (o : Lane1)
  /-- FNEG (R233): FP32 negation. -/
  | fneg (o : Lane1)
  /-- FFLOOR (R233): FP32 floor. -/
  | ffloor (o : Lane1)
  /-- FCEIL (R233): FP32 ceiling. -/
  | fceil (o : Lane1)
  /-- FTRUNC (R233): FP32 truncation. -/
  | ftrunc (o : Lane1)
  /-- FRINT (R233): FP32 round to nearest integral, ties to even. -/
  | frint (o : Lane1)
  /-- IABS (R233): Integer absolute value. -/
  | iabs (o : Lane1)
  /-- PAND (R244): Predicate AND. -/
  | pand (d a b : Reg)
  /-- POR (R244): Predicate OR. -/
  | por (d a b : Reg)
  /-- PXOR (R244): Predicate XOR. -/
  | pxor (d a b : Reg)
  /-- PANDN (R244): Predicate AND NOT. -/
  | pandn (d a b : Reg)
  /-- PNOT (R244): Predicate NOT. -/
  | pnot (d b : Reg)
  /-- PMOV (R244): Predicate copy. -/
  | pmov (d b : Reg)
  /-- EMGET (R245): Copies em to a scalar pair. -/
  | emget (d : Reg)
  /-- EMSET (R245): Sets em from a scalar pair, ANDed with present. -/
  | emset (a : Reg)
  /-- EMAND (R245): em = em AND predicate. -/
  | emand (a : Reg)
  /-- EMANDN (R245): em = em AND NOT predicate. -/
  | emandn (a : Reg)
  /-- EMP (R245): Copies em to a predicate. -/
  | emp (d : Reg)
  /-- PEM (R245): Sets em from a predicate. -/
  | pem (a : Reg)
  /-- XALL (R246): Saves em to a pair and enables every present lane. -/
  | xall (d : Reg)
  /-- XEND (R246): Restores em from a pair. -/
  | xend (a : Reg)
  /-- VANY (R247): Scalar 1 if any active lane's predicate bit is set. -/
  | vany (d a : Reg)
  /-- VALL (R247): Scalar 1 if every active lane's bit is set. -/
  | vall (d a : Reg)
  /-- VBAL (R247): Pair receives predicate AND em. -/
  | vbal (d a : Reg)
  /-- VCNT (R247): Counts bits of predicate AND em. -/
  | vcnt (d a : Reg)
  /-- VFIRST (R247): Lowest set lane of predicate AND em, or 64. -/
  | vfirst (d a : Reg)
  /-- SHFLI (R248): Each lane reads a from an indexed lane. -/
  | shfli (o : Shfl)
  /-- SHFLU (R248): Each lane reads a from lane i − b. -/
  | shflu (o : Shfl)
  /-- SHFLD (R248): Each lane reads a from lane i + b. -/
  | shfld (o : Shfl)
  /-- SHFLX (R248): Each lane reads a from lane i XOR b. -/
  | shflx (o : Shfl)
  /-- BCAST (R248): Every lane reads a from the lane named by the lowest active lane's b. -/
  | bcast (o : Shfl)
  /-- LRADD (R249): Integer sum over active lanes to a scalar. -/
  | lradd (d a : Reg) (ma : Bool)
  /-- LRMIN (R249): Signed minimum over active lanes. -/
  | lrmin (d a : Reg) (ma : Bool)
  /-- LRMAX (R249): Signed maximum over active lanes. -/
  | lrmax (d a : Reg) (ma : Bool)
  /-- LRAND (R249): Bitwise AND over active lanes. -/
  | lrand (d a : Reg) (ma : Bool)
  /-- LROR (R249): Bitwise OR over active lanes. -/
  | lror (d a : Reg) (ma : Bool)
  /-- LRXOR (R249): Bitwise XOR over active lanes. -/
  | lrxor (d a : Reg) (ma : Bool)
  /-- LRFADD (R249): Exact FP32 sum over active lanes, rounded once. -/
  | lrfadd (d a : Reg) (ma : Bool)
  /-- LRFMAX (R249): FP32 maximum over active lanes. -/
  | lrfmax (d a : Reg) (ma : Bool)
  /-- SADD (R242): Scalar add. -/
  | sadd (d a : Reg) (b : SOp)
  /-- SSUB (R242): Scalar subtract. -/
  | ssub (d a : Reg) (b : SOp)
  /-- SMUL (R242): Scalar multiply. -/
  | smul (d a : Reg) (b : SOp)
  /-- SAND (R242): Scalar AND. -/
  | sand (d a : Reg) (b : SOp)
  /-- SOR (R242): Scalar OR. -/
  | sor (d a : Reg) (b : SOp)
  /-- SXOR (R242): Scalar XOR. -/
  | sxor (d a : Reg) (b : SOp)
  /-- SSHL (R242): Scalar left shift. -/
  | sshl (d a : Reg) (b : SOp)
  /-- SSHR (R242): Scalar logical right shift. -/
  | sshr (d a : Reg) (b : SOp)
  /-- SSAR (R242): Scalar arithmetic right shift. -/
  | ssar (d a : Reg) (b : SOp)
  /-- SMIN (R242): Scalar signed minimum. -/
  | smin (d a : Reg) (b : SOp)
  /-- SMAX (R242): Scalar signed maximum. -/
  | smax (d a : Reg) (b : SOp)
  /-- SMINU (R242): Scalar unsigned minimum. -/
  | sminu (d a : Reg) (b : SOp)
  /-- SMAXU (R242): Scalar unsigned maximum. -/
  | smaxu (d a : Reg) (b : SOp)
  /-- SADD64 (R242): Scalar pair add mod 2^64. -/
  | sadd64 (d a : Reg) (b : SOp)
  /-- SSUB64 (R242): Scalar pair subtract mod 2^64. -/
  | ssub64 (d a : Reg) (b : SOp)
  /-- SMOV (R242): Scalar copy of b. -/
  | smov (d : Reg) (b : SOp)
  /-- SEQ (R242): Scalar 1 if a = b. -/
  | seq (d a : Reg) (b : SOp)
  /-- SNE (R242): Scalar 1 if a ≠ b. -/
  | sne (d a : Reg) (b : SOp)
  /-- SLT (R242): Scalar signed less than. -/
  | slt (d a : Reg) (b : SOp)
  /-- SLE (R242): Scalar signed less or equal. -/
  | sle (d a : Reg) (b : SOp)
  /-- SGT (R242): Scalar signed greater than. -/
  | sgt (d a : Reg) (b : SOp)
  /-- SGE (R242): Scalar signed greater or equal. -/
  | sge (d a : Reg) (b : SOp)
  /-- SLTU (R242): Scalar unsigned less than. -/
  | sltu (d a : Reg) (b : SOp)
  /-- SGEU (R242): Scalar unsigned greater or equal. -/
  | sgeu (d a : Reg) (b : SOp)
  /-- BR (R250): Unconditional relative branch to a clause header. -/
  | br (off : Word)
  /-- BRMZ (R250): Branches when em is zero. -/
  | brmz (off : Word)
  /-- BRZ (R250): Branches when a scalar is zero. -/
  | brz (a : Reg) (off : Word)
  /-- BRNZ (R250): Branches when a scalar is non-zero. -/
  | brnz (a : Reg) (off : Word)
  /-- BRPZ (R250): Branches when predicate AND em is zero. -/
  | brpz (a : Reg) (off : Word)
  /-- BRPNZ (R250): Branches when predicate AND em is non-zero. -/
  | brpnz (a : Reg) (off : Word)
  /-- CALL (R250): Branches and writes the return link to a pair. -/
  | call (d : Reg) (off : Word)
  /-- JMP (R250): Transfers to the address in a scalar pair. -/
  | jmp (a : Reg)
  /-- EXIT (R251): Ends the cohort. -/
  | exit
  /-- NOP (R252): Takes one issue slot and does nothing. -/
  | nop
  /-- YIELD (R252): Allows the scheduler to move the cohort out of the active set. -/
  | yield
  /-- BKPT (R320): Raises debug #BKPT when the breakpoint enable is set, else NOP. -/
  | bkpt (imm : BitVec 12)
  /-- TRAP (R320): Raises queue-level #TRAP with an immediate. -/
  | trap (imm : BitVec 12)
  /-- SYS (R320): Enters the supervisor handler with cause SYS and an immediate. -/
  | sys (imm : BitVec 12)
  /-- RETT (R321): Returns from the handler, acting on cr.fres by the cause of entry. -/
  | rett
  /-- HALT (R322): Stops the context, saving or stopping it in place, and posts the halt event. -/
  | halt
  /-- CRRD (R316): Reads a control register into a scalar. -/
  | crrd (d : Reg) (idx : BitVec 12)
  /-- CRWR (R316): Writes a control register from a scalar. -/
  | crwr (d : Reg) (idx : BitVec 12)
  /-- CRRDV (R316): Reads a control register into a vector, per lane for cr.wid0. -/
  | crrdv (d : Reg) (idx : BitVec 12)
  /-- SRKEY (R317): Writes the four SR key registers, emptying the filter if changed. -/
  | srkey (a : Reg)
  /-- SRSTEP (R317): Writes cr.srstep, emptying the filter if changed. -/
  | srstep (a : Reg)
  /-- CNTRD (R318): Reads a 64-bit operation counter; the value is logged. -/
  | cntrd (d : Reg) (idx : BitVec 12)
  /-- CLKRD (R319): Reads a die's cycle counter; the value is logged. -/
  | clkrd (d : Reg) (g : BitVec 3)
  /-- LD (R258): Loads 1 to 16 bytes per lane through a window into vector registers. -/
  | ld (o : MemOps)
  /-- ST (R259): Stores 1 to 16 bytes per lane through a window. -/
  | st (o : MemOps)
  /-- ST_B0 (R259): Zero-length write that is ordered and acknowledged but never faults. -/
  | stB0 (o : MemOps0)
  /-- LDU (R260): Loads once for lane l with a scalar offset into scalars. -/
  | ldu (o : LduOps)
  /-- ATOM_ADD (R261): Atomic add returning the old value. -/
  | atomAdd (o : AtomOps)
  /-- ATOM_MIN (R261): Atomic signed minimum. -/
  | atomMin (o : AtomOps)
  /-- ATOM_MAX (R261): Atomic signed maximum. -/
  | atomMax (o : AtomOps)
  /-- ATOM_AND (R261): Atomic AND. -/
  | atomAnd (o : AtomOps)
  /-- ATOM_OR (R261): Atomic OR. -/
  | atomOr (o : AtomOps)
  /-- ATOM_XOR (R261): Atomic XOR. -/
  | atomXor (o : AtomOps)
  /-- ATOM_XCHG (R261): Atomic exchange. -/
  | atomXchg (o : AtomOps)
  /-- ATOM_CAS (R261): Atomic compare-and-swap. -/
  | atomCas (o : AtomOps)
  /-- ATOMR_ADD (R261): Atomic add with .REL or .ACQ.REL. -/
  | atomrAdd (o : AtomOps)
  /-- ATOMR_MIN (R261): Atomic signed minimum with release. -/
  | atomrMin (o : AtomOps)
  /-- ATOMR_MAX (R261): Atomic signed maximum with release. -/
  | atomrMax (o : AtomOps)
  /-- ATOMR_AND (R261): Atomic AND with release. -/
  | atomrAnd (o : AtomOps)
  /-- ATOMR_OR (R261): Atomic OR with release. -/
  | atomrOr (o : AtomOps)
  /-- ATOMR_XOR (R261): Atomic XOR with release. -/
  | atomrXor (o : AtomOps)
  /-- ATOMR_XCHG (R261): Atomic exchange with release. -/
  | atomrXchg (o : AtomOps)
  /-- ATOMR_CAS (R261): Atomic compare-and-swap with release. -/
  | atomrCas (o : AtomOps)
  /-- REDNI_ADD (R263): Integer add reduction without return. -/
  | redniAdd (o : AtomOps)
  /-- REDNI_SMIN (R263): Signed minimum reduction. -/
  | redniSmin (o : AtomOps)
  /-- REDNI_SMAX (R263): Signed maximum reduction. -/
  | redniSmax (o : AtomOps)
  /-- REDNI_UMIN (R263): Unsigned minimum reduction. -/
  | redniUmin (o : AtomOps)
  /-- REDNI_UMAX (R263): Unsigned maximum reduction. -/
  | redniUmax (o : AtomOps)
  /-- REDNI_AND (R263): AND reduction. -/
  | redniAnd (o : AtomOps)
  /-- REDNI_OR (R263): OR reduction. -/
  | redniOr (o : AtomOps)
  /-- REDNI_XOR (R263): XOR reduction. -/
  | redniXor (o : AtomOps)
  /-- REDNF_F32_ANY (R264): Rounded FP32 scatter-add in arrival order. -/
  | rednfF32Any (o : CellOps)
  /-- REDNF_BF16_ANY (R264): Rounded BF16 scatter-add. -/
  | rednfBf16Any (o : CellOps)
  /-- REDNF_F16_ANY (R264): Rounded FP16 scatter-add. -/
  | rednfF16Any (o : CellOps)
  /-- REDNF_F32_ORD (R265): Exact FP32 cell addition. -/
  | rednfF32Ord (o : CellOps)
  /-- REDNF_BF16_ORD (R265): Exact BF16 cell addition. -/
  | rednfBf16Ord (o : CellOps)
  /-- REDNF_F16_ORD (R265): Exact FP16 cell addition. -/
  | rednfF16Ord (o : CellOps)
  /-- REDNF_CELLZ (R265): Zeroes a cell and clears its status and poison. -/
  | rednfCellz (o : CellzOps)
  /-- BEW_ADDS (R266): Element-wise add of a to masked line elements. -/
  | bewAdds (o : AtomOps)
  /-- BEW_MULS (R266): Element-wise multiply. -/
  | bewMuls (o : AtomOps)
  /-- BEW_FMAS (R266): Element-wise x × a + b. -/
  | bewFmas (o : AtomOps)
  /-- BEW_MAXS (R266): Element-wise maximum. -/
  | bewMaxs (o : AtomOps)
  /-- BEW_MINS (R266): Element-wise minimum. -/
  | bewMins (o : AtomOps)
  /-- CELLRD_F32 (R267): Rounded FP32 readback of a cell. -/
  | cellrdF32 (o : CellOps)
  /-- CELLRD_BF16 (R267): Rounded BF16 readback of a cell. -/
  | cellrdBf16 (o : CellOps)
  /-- CELLRD_RAW (R267): Raw 64-byte readback of a cell into 16 registers. -/
  | cellrdRaw (o : CellOps)
  /-- FENCE (R269): Orders the cohort's accesses at its scope. -/
  | fence (f : Bool) (c : BitVec 2)
  /-- PREF (R270): Prefetches each lane's line into L2, L3 or both; never traps. -/
  | pref (f : Bool) (w : BitVec 3) (a : Reg) (ma : Bool) (l : BitVec 2)
  /-- WSET_G (R271): Fills a global window from a scalar pair base. -/
  | wsetG (f : Bool) (w : BitVec 3) (a : Reg)
  /-- WSET_L (R271): Fills a local-store window. -/
  | wsetL (f : Bool) (w : BitVec 3) (a : Reg)
  /-- WSET_A (R271): Fills an atrium-store window. -/
  | wsetA (f : Bool) (w : BitVec 3) (a : Reg)
  /-- WINV (R272): Clears one window. -/
  | winv (f : Bool) (w : BitVec 3)
  /-- WINV_ALL (R272): Clears all eight windows. -/
  | winvAll (f : Bool)
  /-- CPY_GL (R273): Linear copy from global to local store. -/
  | cpyGl (f : Bool) (dw sw : BitVec 3) (a : Reg)
  /-- CPY_LG (R273): Linear copy from local store to global. -/
  | cpyLg (f : Bool) (dw sw : BitVec 3) (a : Reg)
  /-- CPY_GG (R273): Linear copy from global to global. -/
  | cpyGg (f : Bool) (dw sw : BitVec 3) (a : Reg)
  /-- CPY_TGL (R273): Tensor copy from global to local store. -/
  | cpyTgl (f : Bool) (dw sw : BitVec 3) (a : Reg)
  /-- CPY_TLG (R273): Tensor copy from local store to global. -/
  | cpyTlg (f : Bool) (dw sw : BitVec 3) (a : Reg)
  /-- CPYB (R276): Closes the open copy batch and returns its number. -/
  | cpyb (f : Bool) (d : Reg)
  /-- CPYW (R276): Waits for copy batches by distance and orders their writes. -/
  | cpyw (f : Bool) (a : Reg)
  /-- BAR (R277): Company barrier arrival; returns the epilogue flag on completion. -/
  | bar (d : Reg)
  /-- GBARA (R278): Grid barrier arrival returning the phase number. -/
  | gbara (d : Reg)
  /-- GBARW (R278): Waits for the grid barrier phase and returns the epilogue flag. -/
  | gbarw (d : Reg)
  /-- SEMA (R279): Waits for a positive semaphore and decrements it. -/
  | sema (c : BitVec 2) (w : BitVec 3) (a d : Reg)
  /-- SEMR (R279): Adds a count to a semaphore as a release. -/
  | semr (c : BitVec 2) (w : BitVec 3) (a d : Reg)
  /-- SIGNAL_ADD (R280): Adds a value to a signal word, by marker and SIG packet if remote. -/
  | signalAdd (w : BitVec 3) (a d : Reg)
  /-- SIGNAL_SET (R280): Writes a value to a signal word. -/
  | signalSet (w : BitVec 3) (a d : Reg)
  /-- EMIT (R282): Appends one record per active lane to a graph node's ring. -/
  | emit (f : Bool) (w : BitVec 3) (a d : Reg) (ma : Bool)
  /-- RECV (R283): Claims one record or returns EMPTY or CLOSED status. -/
  | recv (f : Bool) (w : BitVec 3) (a d : Reg)
  /-- CLOSE (R284): Makes the launch finish for a node, decrementing LIVEPRED. -/
  | close (f : Bool) (a : Reg)
  /-- MCST (R286): Multicast store to every member of a group. -/
  | mcst (f ma z : Bool) (b : BitVec 5) (a d : Reg)
  /-- MLDRED_BF16_ORD (R287): In-switch member-order sum of BF16 elements. -/
  | mldredBf16Ord (f ma q : Bool) (b : BitVec 5) (a d : Reg)
  /-- MLDRED_F32_ORD (R287): In-switch member-order sum of FP32 elements. -/
  | mldredF32Ord (f ma q : Bool) (b : BitVec 5) (a d : Reg)
  /-- MLDRED_BF16_ANY (R287): BF16 member sum in response-arrival order. -/
  | mldredBf16Any (f ma q : Bool) (b : BitVec 5) (a d : Reg)
  /-- MLDRED_F32_ANY (R287): FP32 member sum in response-arrival order. -/
  | mldredF32Any (f ma q : Bool) (b : BitVec 5) (a d : Reg)
  /-- FMARK (R288): Sends an ordering marker to a device without waiting. -/
  | fmark (f : Bool) (a : Reg)
  /-- GANG (R296): Writes and checks the gang register. -/
  | gang (a : Reg)
  /-- MACQ (R297): Joins or appends the gang's entry in the engine FIFO and waits for ownership. -/
  | macq
  /-- MREL (R298): Marks the member released from the engine. -/
  | mrel
  /-- MMA (R303): Checks and arrives at a tile latch; the last member fires the matrix update. -/
  | mma (ma : Bool) (b a : Reg) (t : BitVec 4)
  /-- GFILL (R306): Fills a gallery slot from global memory, granting slots as needed. -/
  | gfill (w : BitVec 3) (a d : Reg)
  /-- TZERO (R308): Zeroes a tile, allocating it. -/
  | tzero (t : BitVec 4)
  /-- TFREE (R308): Frees one tile name. -/
  | tfree (t : BitVec 4)
  /-- TFREE_ALL (R308): Frees every tile name of the company. -/
  | tfreeAll
  /-- TRED_ADD (R311): Adds one tile into another element-wise. -/
  | tredAdd (src t : BitVec 4)
  /-- TRED_ROW (R311): Sums each tile row into its lane. -/
  | tredRow (src : BitVec 4) (d : Reg)
  /-- TMOVR (R309): Moves tile columns into vector registers. -/
  | tmovr (c : Reg) (n : BitVec 2) (t : BitVec 4) (d : Reg)
  /-- TMOVW (R309): Moves vector registers into tile columns. -/
  | tmovw (c : Reg) (n : BitVec 2) (t : BitVec 4) (d : Reg)
  /-- TCVT (R310): Converts a tile quarter into packed elements, with SR coordinates. -/
  | tcvt (r fmt : BitVec 3) (q : BitVec 2) (t : BitVec 4) (d : Reg)
  /-- SPB (R313): Spills whole vector registers to memory and frees them. -/
  | spb (f : Bool) (n w : BitVec 3) (a d : Reg)
  /-- FLA (R314): Fills whole vector registers from memory. -/
  | fla (f : Bool) (n w : BitVec 3) (a d : Reg)
  /-- VFREE (R315): Frees a run of vector names. -/
  | vfree (ma : Bool) (c a : Reg)
  /-- HINT (R220): Majors 0x3C to 0x3F execute as NOP and never fault. -/
  | hint (m : BitVec 4) (mb ma : Bool) (b a d : Reg) (k : BitVec 2) (u : Bool)
  /-- PORT_RETRAIN_REQUEST (R440): The management processor retrains a single plane port while the other planes carry traffic. -/
  | portRetrainRequest (port : Nat)
  /-- BRIDGE_LINK_DOWN (R154): The bridge device's PCIe host link goes down or comes back, so the group's host-window accesses fail or resume. -/
  | bridgeLinkDown (down : Bool)
  /-- MAIN_POWER_REMOVAL (R438): The board removes main power, and every context and all state except module flash is lost. -/
  | mainPowerRemoval
  /-- RESERVED_ENCODING (R218): A fetched word of major 0x2C to 0x3B, or a clause header with bits [31:29] non-zero, raises #ILL at decode. -/
  | reservedEncoding (c : IllCause)
  /-- INSTRUCTION_FETCH_FAULT (R46): Sequential fetch of the next instruction from a page that is not present or lacks X raises queue-level #PF cause FETCH. -/
  | instructionFetchFault
  deriving DecidableEq, Repr

end Sys2Proof
end

