-- ==== Sys2Proof/Machine/State.lean ====
section
/-!
DEFINITION. The state of one Filsil device as plain data: every register, store, table and queue the spec
names, the work in flight, and the turns in which the agents outside the cohort act (INVENTORY.md lists
each with its rule).
-/
namespace Sys2Proof.Machine

/-- Why a step stops. The device itself never stops: every trap of Table 14-1 is a next state. -/
inductive Fault where
  /-- Raised by `step` alone, while main power is off and no power-on is due (R436): nothing runs. Safe. -/
  | noPower
  deriving DecidableEq, Repr

/-- Why a step has no meaning. -/
inductive Refusal where
  /-- Raised by `exec` for an instruction that has no meaning yet, named by its mnemonic. Safe. -/
  | notModelled (mnemonic : String)
  deriving DecidableEq, Repr

/-! ## Registers of a cohort -/

/-- A physical vector register: the words of lanes 0 to 63 and the lanes that hold poison (R206, R381). -/
structure VReg where
  w : List Word
  poison : Mask
  deriving DecidableEq, Repr

/-- A window register (Table 2-5). KIND: 0 empty, 1 global, 2 local store, 3 atrium store. -/
structure Window where
  kind : Nat
  base : VAddr
  pa : BitVec 58
  limit : Word
  rp : Bool
  wp : Bool
  dt : Bool
  asid : BitVec 12
  gen : DWord
  deriving DecidableEq, Repr

/-- An empty window: every field zero (R272). -/
def Window.empty : Window :=
  { kind := 0, base := 0#56, pa := 0#58, limit := 0#32, rp := false, wp := false, dt := false, asid := 0#12, gen := 0#64 }

/-- What a lane's access reaches (Table 1-4). -/
inductive Loc where
  /-- This device's memory or atrium store, by local offset. -/
  | mem (off : Nat)
  /-- Another device, by number and local offset. -/
  | far (dev off : Nat)
  /-- The host window, by host physical address. -/
  | host (off : Nat)
  /-- The company's local store, by allocation-relative offset. -/
  | loc (off : Nat)
  /-- Device control space, by offset in it. -/
  | ctrl (off : Nat)
  /-- A page with FP ZERO: reads return zero (Table 2-7). -/
  | zero
  /-- A page with FP POISON: reads return poison (Table 2-7). -/
  | poison
  /-- No target: a write of no bytes whose check failed (R47). -/
  | none
  deriving DecidableEq, Repr

/-- An operation that reads, changes and writes a location indivisibly (R68, R261 to R267). -/
inductive Rmw where
  /-- An integer operation of Table 10-3 on `n` bytes, by code; 8 is UMIN and 9 UMAX (R263). -/
  | int (op n : Nat)
  /-- The unordered floating-point reduction, format 0 F32, 1 BF16, 2 F16 (R264). -/
  | fadd (fmt : Nat)
  /-- A cell addition (R265). -/
  | cell (fmt : Nat)
  /-- The zeroing of a cell (R265). -/
  | cellz
  /-- An element-wise update, `bf` for BF16 elements (R266). -/
  | bew (op : Nat) (bf : Bool)
  /-- A readback: 0 F32, 1 BF16, 2 RAW (R267). -/
  | cellrd (kind : Nat)
  deriving DecidableEq, Repr

/-- What an issued operation of a cohort does. -/
inductive OpKind where
  /-- A load with a size code of Table 8-10. -/
  | load (z : BitVec 3)
  /-- A store. -/
  | store
  /-- A write of no bytes (R112). -/
  | storeZ
  /-- An atomic, reduction, cell or element-wise operation; `ret` when it returns a value. -/
  | rmw (o : Rmw) (ret : Bool)
  /-- A load into the scalar pipe (R260). -/
  | ldu (z : BitVec 3)
  /-- A fence (R106); also the fence that a modifier or an implied ordering acts as under an empty em (R111). -/
  | fence
  /-- A spill store of `n` registers (R313). -/
  | spb (n : Nat)
  /-- A fill load of `n` registers (R314). -/
  | fla (n : Nat)
  /-- A multicast store to a group (R286). -/
  | mcst (group : Nat)
  /-- A multicast load and reduction: `bf` for BF16, `ord` for the switch's order (R287). -/
  | mldred (group : Nat) (bf ord : Bool)
  /-- A completion signal (R280). -/
  | signal (set : Bool)
  /-- An ordering marker to a device (R288). -/
  | fmark (dev : Nat)
  /-- The reads of the records that an EMIT takes from another device (R282). -/
  | fetch
  deriving DecidableEq, Repr

/-- A raw record of the record stream before compression (Table 15-3). -/
structure Rec where
  kind : Nat
  core : Nat
  slot : Nat
  chk : Nat
  chunk : Nat
  icnt : Nat
  payload : Nat
  deriving DecidableEq, Repr

/-- One lane's part of an operation: its target, the address that a checksum and a trap report name, the bytes
it writes or its operands, whether they are poisoned, and its result once performed. -/
structure LaneOp where
  lane : Nat
  loc : Loc
  addr : Nat
  len : Nat
  data : List Byte
  poisoned : Mask
  /-- Performed at its target, or sent to another device. -/
  sent : Bool
  result : Option (List Byte × Mask)
  deriving DecidableEq, Repr

/-- Where an operation stands (R103): issued; in the core's store buffer; performed at its target and
waiting for an acknowledgement, a marker or a status. -/
inductive OpStage where
  | issued
  | buffered (order : Nat)
  | performed
  deriving DecidableEq, Repr

/-- An issued operation that has not ended. -/
structure MemOp where
  id : Nat
  kind : OpKind
  scope : Nat
  acq : Bool
  rel : Bool
  lanes : List LaneOp
  d : Nat
  u : Bool
  em : Mask
  flag : Option Nat
  stage : OpStage
  /-- Performed ahead of an earlier access of its cohort, and kept until that access is performed (R102). -/
  passed : Bool
  /-- Its records of one ORDER per lane, without their serials (R394). -/
  recs : List Rec
  deriving DecidableEq, Repr

/-- What a waiting cohort waits for (R332). -/
inductive Wait where
  | none
  | flags
  | bar
  | gbarw
  | macq
  | latch
  | sema
  | cpyw
  | emit
  | pool
  | time
  | allocV
  | allocT
  | allocG
  | drain
  deriving DecidableEq, Repr

/-- The fault frame of an in-lane trap (Table 2-8): the lanes in FMASK with their cause byte and address. -/
structure Frame where
  kind : Nat
  size : Nat
  lanes : List (Nat × Nat × Nat)
  /-- PTGEN of the ASID at the fault (R49). -/
  ptgen : DWord
  deriving DecidableEq, Repr

/-- An in-lane trap to be entered (R373): code, subcause, fault mask, immediate, whether em changes, the saved
program counter, and the frame of a #PF or #ALN. -/
structure Entry14 where
  cls : Nat
  code : Nat
  sub : Nat
  mask : Mask
  imm : Nat
  pc : VAddr
  keepEm : Bool
  frame : Option Frame
  deriving DecidableEq, Repr

/-- What a cohort is doing. -/
inductive CStat where
  /-- No such cohort. -/
  | absent
  | running
  /-- Waiting to enter the handler until earlier instructions have retired (R373). -/
  | entering (t : Entry14)
  /-- Stopped for pre-emption, HALT or debug with the STATE of Table 14-10. -/
  | stopped (code : Nat)
  /-- Stopped by a queue-level trap (R375). -/
  | trapped
  | ended
  deriving DecidableEq, Repr

/-- A pending queue-level trap of a cohort: code, subcause, mask, immediate (R374). -/
structure HeldTrap where
  code : Nat
  sub : Nat
  mask : Mask
  imm : Nat
  deriving DecidableEq, Repr

/-- An EMIT in progress: its node, and the records not yet appended with their poisoned bytes as bits (R282). -/
structure EmitOp where
  node : Nat
  recs : List (List Byte × Nat)
  deriving DecidableEq, Repr

/-- A SEMA in progress: the word's place and its scope (R279). -/
structure SemaOp where
  loc : Loc
  scope : Nat
  d : Nat
  deriving DecidableEq, Repr

/-- What failed under R20: an access, by the identifier of its operation, or a write of a copy of the open batch or of a closed one
(R85, R113). -/
inductive Origin where
  | access (id : Nat)
  | copy (batch : Option Nat)
  deriving DecidableEq, Repr

/-- A cohort: 64 lanes with one program counter (R182, R214). -/
structure Cohort where
  /-- Index in its company (R179). -/
  j : Nat
  /-- Role (R186). -/
  role : Nat
  /-- N0, the number of present lanes (R178). -/
  n0 : Nat
  /-- WID with field 0 zero (R177). -/
  wid : DWord
  stat : CStat
  wait : Wait
  /-- Program counter (R199). -/
  pc : VAddr
  /-- Supervisor privilege (R27). -/
  priv : Bool
  /-- Between an entry and its RETT (R373). -/
  handler : Bool
  /-- Execution mask (R182). -/
  em : Mask
  /-- v0 to v63; an unallocated name is unlisted (R206). -/
  v : Store (Option VReg)
  /-- s0 to s63 (R214). -/
  s : Store Word
  /-- Scalar words that hold poison (Table 14-10). -/
  sp : Mask
  /-- p1 to p31; p0 is hard-wired (R214). -/
  p : Store Mask
  /-- w0 to w7 (R38). -/
  win : Store Window
  /-- f0 to f11 (R211). -/
  f : Store Nat
  gang : Word
  /-- Control registers held per cohort, by index (Tables 8-6, 10-6, 11-7, 14-3). -/
  cr : Store Word
  /-- cr.clause: the header of the current clause (Table 8-6). -/
  clause : Word
  /-- Instructions retired (Table 14-10). -/
  icount : Nat
  /-- Consecutive in-lane faults of the instruction at pc (R51). -/
  faults : Nat
  /-- Whether the instruction at pc was already counted in ILCNT (R212). -/
  held : Bool
  /-- Member of the active set (R330), and when it entered (R333). -/
  active : Bool
  since : Nat
  /-- The cohort stands at the entry point of its role and has begun no clause (R210). -/
  atEntry : Bool
  /-- Resident slot (R330). -/
  slot : Nat
  /-- Issued operations, oldest first. -/
  ops : List MemOp
  /-- Copy batches closed and incomplete, oldest first (R85). -/
  batches : List Nat
  emit : Option EmitOp
  sema : Option SemaOp
  /-- GBARA instructions so far (R278). -/
  gcount : Nat
  /-- Failed devices of fabric failures not yet delivered, and whether each is a multicast member (R378). -/
  fab : List (Nat × Bool)
  /-- Failures that no instruction has covered yet: device, MCAST and what failed (R113). -/
  uncovered : List (Nat × Bool × Origin)
  /-- #SRW raised by the instruction that retires now: TID and LSEQ (R174). -/
  srw : Option (Word × Word)
  heldTrap : Option HeldTrap
  /-- A stop is due at the next instruction boundary: why (0 none, 1 a point is
  awaited, 2 overdue, 3 halt or debug, 4 trap, 5 spill, 6 the end of a chunk, 7 a point is reached). -/
  stopDue : Nat
  /-- Instructions and write stream of the open chunk, and its number (R394, R398). -/
  chunkN : Nat
  chunkNo : Nat
  wlog : List Byte
  deriving DecidableEq, Repr

/-! ## Companies, launches and contexts -/

/-- A tile: 64 by 64 words, element [i][c] at 64i + c, and the poisoned elements (R293). -/
structure Tile where
  w : Store Word
  poison : Store Bool
  deriving DecidableEq, Repr

/-- A gallery slot: its descriptor (Table 3-5), its bytes and its poisoned granules. -/
structure Slot where
  valid : Bool
  poison : Bool
  srcva : VAddr
  asid : BitVec 12
  gen : DWord
  /-- A fill has completed since the grant (R79). -/
  filled : Bool
  /-- Returned to the core by a forced spill (R339). -/
  returned : Bool
  bytes : Store Byte
  bad : Store Bool
  deriving DecidableEq, Repr

/-- A member waiting at a latch: its index and its A group (R303). -/
structure Arrival where
  j : Nat
  a : Reg
  mark : Bool
  deriving DecidableEq, Repr

/-- An open latch: its tile, its opener's gang and format block, and the members that have arrived (R303). -/
structure Latch where
  tile : Nat
  gang : Word
  block : DWord
  arrived : List Arrival
  deriving DecidableEq, Repr

/-- A fired tile operation that has not written its tile (R304): the operands read. -/
structure FiredMma where
  tile : Nat
  gang : Word
  result : Tile
  deriving DecidableEq, Repr

/-- The fields of a launch header (Table 7-1). -/
structure LHdr where
  n0m1 : Nat
  w : List Nat
  clevel : Nat
  persist : Bool
  split : Bool
  cls : Nat
  nm1 : List Nat
  entry0 : DWord
  entry1 : DWord
  nprod : Nat
  ncons : Nat
  vfloor0 : Nat
  vfloor1 : Nat
  tfloor : Nat
  gfloor : Nat
  lsgran : Nat
  deriving DecidableEq, Repr

/-- Where a company stands. -/
inductive Place where
  | absent
  /-- In a hall's ready queue (R324). -/
  | queued (hall : Nat)
  /-- Held with its persistent launch (R325). -/
  | held
  /-- Resident on a core (R326). -/
  | core (c : Nat)
  /-- Saved in the context image (R385). -/
  | saved (hall : Nat)
  deriving DecidableEq, Repr

/-- What a forced spill wrote to the company's area (R339): cohort, name and poisoned lanes of each register, and name
and poisoned elements of each tile; the words stand in the area (log entry 6). -/
structure Spill where
  area : Nat
  regs : List (Nat × Nat × Mask)
  tiles : List (Nat × Store Bool)
  deriving DecidableEq, Repr

/-- A company (R179, R185). -/
structure Company where
  dseq : Nat
  asid : Nat
  lseq : Word
  /-- Company number (R323). -/
  num : Nat
  /-- WID with fields 0 to CLEVEL − 1 zero (Table 14-9). -/
  cwid : DWord
  lhdr : DWord
  hdr : LHdr
  karg : DWord
  pdist : Nat
  /-- The graph node that it consumes, by absolute ASA (R190). -/
  node : Option Nat
  place : Place
  /-- Created and ended cohort positions (Table 14-9). -/
  created : List Nat
  ended : List Nat
  /-- Cohorts other than the current one. -/
  cohorts : List Cohort
  /-- First 4 KiB granule of its run on the core (R326). -/
  lsBase : Nat
  ls : Store Byte
  lsBad : Store Bool
  tiles : Store (Option Tile)
  dirty : Store Bool
  /-- Fired tile operations (INFLIGHT of R294). -/
  fired : List FiredMma
  slots : List Slot
  latches : List Latch
  /-- Cohorts waiting at BAR in order of arrival, and those whose phase completed with their flag (R277). -/
  barArrived : List Nat
  barDone : List (Nat × Bool)
  barPhase : Nat
  spill : Option Spill
  /-- Chosen as victim of an allocation deadlock (R339). -/
  victim : Bool
  /-- #LATE was raised for the pre-emption under way (R384). -/
  late : Bool
  /-- Restored gangs that have not regained the engine (R303). -/
  regain : List Word
  /-- Placed, or to be placed, from a record of the image (R391). -/
  restored : Bool
  deriving DecidableEq, Repr

/-- A launch (R349). -/
structure Launch where
  lseq : Word
  qid : Nat
  csn : Nat
  hdr : LHdr
  lhdr : DWord
  karg : DWord
  cova : DWord
  pdist : Nat
  /-- Graph node of which it is a predecessor, by absolute ASA, and whether it has finished for it (R189). -/
  pnode : Option Nat
  finished : Bool
  /-- Graph node whose consumer companies it owns (R356). -/
  node : Option Nat
  /-- Companies created so far, retired so far, and in all; the total of a node's launch is open (R323). -/
  made : Nat
  retired : Nat
  total : Nat
  /-- DSEQ of its first company (R325). -/
  first : Nat
  /-- Grid barrier: completed phases, arrivals by phase, and epilogue cohorts of completed phases (R278). -/
  gphase : Nat
  garrived : List (Nat × Nat × Nat)
  gepi : List (Nat × Nat × Nat)
  failed : Bool
  deriving DecidableEq, Repr

/-- A live graph node (R281). -/
structure Node where
  /-- Absolute ASA of its descriptor (R25). -/
  asa : Nat
  lseq : Word
  /-- Packet that started it: queue and CSN (R351). -/
  qid : Nat
  csn : Nat
  /-- Consumer companies launched (R190). -/
  count : Nat
  deriving DecidableEq, Repr

/-- The state of a context's save. -/
inductive CxStat where
  | live
  /-- Pre-emption under way; `halt` when a HALT drives the stop (R382, R322). -/
  | saving (halt : Bool)
  | saved
  /-- Stopped in place without an image (R322). -/
  | inPlace
  /-- Ended by a queue-level trap or retired. -/
  | ended
  deriving DecidableEq, Repr

/-- A context (R28, R171 to R175, Table 14-8). -/
structure Context where
  asid : Nat
  alive : Bool
  stat : CxStat
  key : List Word
  step : Word
  srwWarn : Bool
  srwEvict : Bool
  /-- Key-use filter, earliest insertion first (R174). -/
  filter : List (Word × Word)
  /-- Cohorts that have issued no SR instruction since another cohort changed key or step (R172, R394). -/
  srStale : List (Nat × Nat)
  /-- The key and step before the last change (R172). -/
  srOld : List Word × Word
  supfail : Word
  glgen : Word
  tctl : Word
  wstat : Word
  /-- Last launch sequence number assigned (R349). -/
  lseq : Word
  ctxid : Nat
  /-- Operation counters and their saturation bits (R409, R410). -/
  cnt : Store DWord
  sat : BitVec 128
  replayed : Bool
  launches : List Launch
  nodes : List Node
  /-- Queue-level traps reported: DSEQ, j, code, WID (R376). -/
  reports : List (Nat × Nat × Nat × DWord)
  /-- Halting cohort of a HALT: WID, pc, and the queue and CSN of its launch (R322). -/
  halter : Option (DWord × VAddr × Nat × Nat)
  /-- Size of the image written so far in 4 KiB units, and the DSEQs of its records in order (R387). -/
  used : Nat
  image : List Nat
  /-- NCOMP and digest of the saved image (R390). -/
  ncomp : Nat
  digest : List Byte
  deriving DecidableEq, Repr

/-! ## The device -/

/-- A TLB entry (R36, R37). -/
structure TlbEntry where
  va : Nat
  size : Nat
  asid : Nat
  global : Bool
  home : Nat
  off : Nat
  r : Bool
  w : Bool
  x : Bool
  d : Bool
  deriving DecidableEq, Repr

/-- Bytes a hall still sees with their old values (R115). -/
structure Inval where
  seq : Nat
  old : List (Nat × Byte)
  /-- It has entered the hall's invalidation queue, which an acquire at PKG or POD scope applies (R115). -/
  entered : Bool
  deriving DecidableEq, Repr

/-- A block of an L2 (R62): its hall and line, the first of its consecutive 8-byte words and how many, and by byte of the line
what is valid and what is dirty. Its bytes are those that the hall sees. -/
structure L2Block where
  hall : Nat
  line : Nat
  first : Nat
  words : Nat
  valid : DWord
  dirty : DWord
  deriving DecidableEq, Repr

/-- A line of memory that the L3 caches (R65). -/
structure L3Line where
  line : Nat
  dirty : Bool
  deriving DecidableEq, Repr

/-- A run of bytes at one target. -/
structure Seg where
  loc : Loc
  len : Nat
  deriving DecidableEq, Repr

/-- Who issued a copy: a cohort and its batch, or a queue's packet. -/
inductive CopyOwner where
  | cohort (dseq j : Nat)
  | packet (qid csn : Nat)
  deriving DecidableEq, Repr

/-- A piece of a copy (R81). -/
structure Piece where
  id : Nat
  owner : CopyOwner
  /-- Batch number once CPYB closed it (R85). -/
  batch : Option Nat
  asid : Nat
  cluster : Nat
  /-- For a COPY packet: virtual address of the first byte of its source and of its destination. -/
  va : Nat
  dva : Nat
  src : List Seg
  dst : Seg
  /-- Reads of other devices sent; their bytes and poison by offset in the piece; writes to another device sent. -/
  asked : Bool
  buf : Store Byte
  bad : Store Bool
  wrote : Bool
  deriving DecidableEq, Repr

/-- A gallery fill in progress (R80). -/
structure Fill where
  id : Nat
  dseq : Nat
  j : Nat
  slot : Nat
  srcva : VAddr
  same : Bool
  src : List Seg
  asked : Bool
  buf : Store Byte
  bad : Store Bool
  refill : Bool
  deriving DecidableEq, Repr

/-- An entry of a core's engine FIFO (R297). -/
structure GangEntry where
  core : Nat
  dseq : Nat
  gang : Word
  owns : Bool
  waiting : List Nat
  released : List Nat
  deriving DecidableEq, Repr

/-- A hall's view of its queue, and its clocks (R327, R439, R438). -/
structure Hall where
  /-- DSEQ of the head company that blocks the queue (R327). -/
  block : Option Nat
  /-- Quiesced by HALLQ (R439). -/
  quiesce : Bool
  /-- Arithmetic clock in MHz (R438). -/
  mhz : Nat
  /-- Queued invalidations of other halls' class L writes, oldest first (R115). -/
  inval : List Inval
  deriving DecidableEq, Repr

/-- A FLIGHT_RUN or its fallback in progress (R366, R367). -/
structure Run where
  fid : Nat
  ix : Nat
  /-- Ring index of the FLIGHT_RUN packet and its CSN. -/
  csn : Nat
  patch : List DWord
  fallback : Bool
  next : Nat
  fblen : Nat
  fbaddr : DWord
  /-- CSNs of treads issued and not completed. -/
  pending : List Nat
  /-- Interrupted by DISABLE or an error: no further tread issues (R346, R359). -/
  stopped : Bool
  failed : Bool
  deriving DecidableEq, Repr

/-- A packet that has started and not completed (R351). -/
structure Started where
  csn : Nat
  packet : List Byte
  /-- Part of the FLIGHT_RUN with this CSN. -/
  run : Option Nat
  done : Bool
  failed : Bool
  deriving DecidableEq, Repr

/-- A SIGWAIT in progress (R353). -/
structure SigWait where
  csn : Nat
  /-- Ring index at which it stands: its own, or that of the FLIGHT_RUN it is part of. -/
  ix : Nat
  addr : DWord
  val : Word
  cond : Nat
  deriving DecidableEq, Repr

/-- A mapped queue (R343 to R351). -/
structure Queue where
  qid : Nat
  rbase : Nat
  dbaddr : Nat
  asid : Nat
  rlog2 : Nat
  qpri : Nat
  rptr : Nat
  wptr : Nat
  csn : Nat
  tcur : Nat
  /-- 0 DISABLED, 1 RUN, 2 ERROR (Table 13-1). -/
  qstate : Nat
  errcode : Nat
  errcsn : Nat
  errdata : Nat
  draining : Bool
  place : Option Nat
  started : List Started
  sigwait : Option SigWait
  run : Option Run
  /-- Flight being recorded (R362). -/
  recording : Option Nat
  /-- COPY packets still to issue parts, oldest first (R357): CSN, source, destination, bytes left. -/
  copies : List (Nat × Nat × Nat × Nat)
  deriving DecidableEq, Repr

/-- A flight (Table 13-11). -/
structure Flight where
  /-- 0 EMPTY, 1 RECORDING, 2 READY, 3 INVALID. -/
  state : Nat
  gguard : Bool
  npreq : Nat
  ptgen : DWord
  glgen : Word
  featgen : Word
  runs : Nat
  cog : List (DWord × DWord)
  treads : List (List Byte)
  /-- Lost a tread or held more than 16 code objects (R362). -/
  lost : Bool
  /-- Holds an uncorrectable error (R90). -/
  bad : Bool
  deriving DecidableEq, Repr

/-- A flight with nothing in it. -/
def Flight.empty : Flight :=
  { state := 0, gguard := false, npreq := 0, ptgen := 0#64, glgen := 0#32, featgen := 0#32, runs := 0, cog := [],
    treads := [], lost := false, bad := false }

/-- Who waits for a response. -/
inductive Requester where
  /-- An operation of a cohort: the lanes of the packet. -/
  | op (dseq j id : Nat) (lanes : List Nat)
  | piece (id : Nat)
  | fill (id : Nat)
  | queue (qid csn : Nat)
  | host
  | sema (dseq j : Nat)
  /-- Another device, for which this bridge reaches the host: source, tag and line. -/
  | relay (src tag line : Nat)
  | none
  deriving DecidableEq, Repr

/-- A request sent and not answered (R138). -/
structure Request where
  tag : Nat
  plane : Nat
  packet : Packet
  who : Requester
  /-- For a marker: the planes of its copies. -/
  copies : List Nat
  /-- Held back because its plane changes (R135), or returned undelivered and not resent (R142). -/
  held : Bool
  returned : Bool
  deriving DecidableEq, Repr

/-- A plane port or a UCIe module (Table 5-5). -/
structure Port where
  /-- 0 OFF, 1 TRAINING, 2 KEYING, 3 UP, 4 DEAD. -/
  state : Nat
  txnext : Nat
  rxnext : Nat
  retrain : Nat
  replay : Nat
  malf : Nat
  keyed : Bool
  resolve : Bool
  /-- Flits not yet acknowledged, oldest first: SEQ and the packets that end in it (R147). -/
  buffer : List (Nat × List Packet)
  /-- Packets waiting for room in the replay buffer. -/
  waiting : List Packet
  /-- Resends of the oldest flit without progress, and failed retrainings in a row. -/
  resends : Nat
  fails : Nat
  /-- In a run of bad flits, for which one NAK was sent, and the ACK values of the NAKs sent (R147). -/
  inBad : Bool
  naks : List Nat
  /-- Key, salt and counter of each direction, and a key update under way (R149, R150). -/
  txkey : Nat
  txsalt : Word
  gcm : Nat
  rxkey : Nat
  rxsalt : Word
  rxgcm : Nat
  update : Bool
  /-- Of a module: flits received, the places of its last 16 bad flits among them, lanes in use (64, 32, 0 down) and whether these
  are lanes 32 to 63 (R152). -/
  seen : Nat
  badAt : List Nat
  width : Nat
  high : Bool
  deriving DecidableEq, Repr

/-- A port out of reset. -/
def Port.off : Port :=
  { state := 0, txnext := 0, rxnext := 0, retrain := 0, replay := 0, malf := 0, keyed := false, resolve := false,
    buffer := [], waiting := [], resends := 0, fails := 0, inBad := false, naks := [], txkey := 0, txsalt := 0#32, gcm := 0,
    rxkey := 0, rxsalt := 0#32, rxgcm := 0, update := false, seen := 0, badAt := [], width := 64, high := false }

/-- What arrives from one source device and waits behind markers (R140). -/
structure Inbound where
  src : Nat
  held : List Nat
  count : Nat
  ncopy : Nat
  marker : Option Packet
  queue : List (Nat × Packet)
  /-- Packets accepted and waiting for their line (R441). -/
  waiting : List (Nat × Packet)
  deriving DecidableEq, Repr

/-- The fabric side of the device (chapter 05). -/
structure Fabric where
  ports : List Port
  modules : List Port
  requests : List Request
  /-- Packets that wait at the sequencer, in the coalescer order: for a plane that changes or is being resolved, and a marker beyond
  the sixteenth to its target, with what is behind them (R135, R140, R148). -/
  waitq : List Packet
  /-- Answers and marker copies returned undelivered that wait for a change of plane mask, with the plane each came back on (R142). -/
  back : List (Nat × Packet)
  /-- Packets that wait to cross to a vestibule, with their planes (R151). -/
  crossing : List (Nat × Packet)
  /-- Devices whose plane mask changed while packets to them were outstanding, with the old mask (R135). -/
  changing : List (Nat × Nat)
  /-- Next request tag and next place in the coalescer order (R137). -/
  tag : Nat
  /-- Next MARKNO per target device (R140). -/
  markno : Store Nat
  inbound : List Inbound
  /-- Packets that a replay holds until their recorded arrival is due, with their planes (R401). -/
  late : List (Nat × Packet)
  /-- Responses and other packets sent without a request, oldest first. -/
  sent : List (Nat × Packet)
  linkUp : Bool
  strap : Bool
  /-- MSI-X vectors raised through the bridge (R360). -/
  msix : List Nat
  /-- What the PCIe link of a bridge device sent: host requests in order (R126). -/
  pcie : List Packet
  deriving DecidableEq, Repr

/-- A page being completed by a recorder: its source, its records and its losses (R400). -/
structure RecPage where
  source : Nat
  recs : List Rec
  time : DWord
  lost : Nat
  deriving DecidableEq, Repr

/-- The record unit (R392 to R404). -/
structure RecUnit where
  pages : List RecPage
  /-- SERIAL of each place (R397). -/
  serial : Store Nat
  /-- Last writer of each line of the recorded context: core × 32 + slot + 1, or 0x1_0000 + device (R395). -/
  writer : Store Nat
  /-- In replay, the records read from the ring and not yet obeyed, with their sources (R401). -/
  expect : List (Nat × Rec)
  /-- Recording waits for open pages to complete before ACTIVE clears (R393). -/
  closing : Bool
  /-- Records the atrium recorder has made (chunk number of source 32). -/
  atrium : Nat
  deriving DecidableEq, Repr

/-- A held statement: its kind, flags, HEAD and BODY (Table 15-13). -/
structure Statement where
  kind : Nat
  flags : Nat
  retno : Nat
  head : List Byte
  body : List Byte
  deriving DecidableEq, Repr

/-- Boot and module flash (R436). -/
structure Boot where
  powered : Bool
  /-- Module flash: the steps with STARTED and without DONE, and those whose alternate path is the one that failed. -/
  started : List Nat
  altTried : List Nat
  /-- Context identifier and retire number last used (R412). -/
  ctxid : Nat
  retno : Nat
  /-- Measurement of the command-core firmware that replaced the one booted (R369, R415). -/
  measure : Option (List Byte)
  /-- Measurement of the image that is replacing it. -/
  incoming : Option (List Byte)
  /-- Steps that this boot skipped. -/
  skipped : List Nat
  /-- Stacks at conservative timings, second tier at half rate. -/
  slow : List Nat
  deriving DecidableEq, Repr

/-- A notice to the management processor (R91, R149, R152, R438): its source, which for a memory error is the structure of Table 3-7,
the core, hall, bank, port or value it names, and a physical address where one exists. -/
structure Notice where
  source : Nat
  place : Nat
  addr : Option Nat
  deriving DecidableEq, Repr

/-- What acts next. -/
inductive Turn where
  /-- An event of the device or of an agent outside it. -/
  | event (i : Instr)
  /-- Cohort `j` of the company with this DSEQ issues its next instruction. -/
  | issue (dseq j : Nat)
  deriving DecidableEq, Repr

/-- The device, apart from the current context, company and cohort. -/
structure Device where
  /-- HBM4, second-tier memory and the atrium store by local offset (Table 1-4). -/
  mem : List Host.Cell
  /-- Poisoned 16-byte granules of `mem`, by offset / 16 (R89). -/
  bad : Store Bool
  /-- NAN, PINF, NINF of an atrium-store line, by absolute ASA / 64 (R72). -/
  cell : Store Nat
  /-- Device control registers by offset, a multiple of 8 (R18). -/
  ctrl : Store Nat
  /-- PTGEN of each ASID, and of the supervisor range (R42). -/
  ptgen : Store DWord
  svgen : DWord
  tlb : List TlbEntry
  /-- MODEL: whether a walk is kept in the TLB (log entry 5). -/
  tlbFill : Bool
  /-- Accesses that a shootdown waits for: operation and piece identifiers (R43). -/
  shoot : List Nat
  /-- Page pools: frames by local offset (R53). -/
  pool64k : List Nat
  pool2m : List Nat
  /-- The old carve while ASCARVE.BUSY is 1 (R22). -/
  carveOld : Nat
  halls : List Hall
  /-- Next store order and sequence number of an invalidation. -/
  order : Nat
  /-- Next identifier of an operation, copy piece or fill. -/
  nextId : Nat
  pieces : List Piece
  fills : List Fill
  engines : List GangEntry
  /-- Directory state of tracked lines: 1 + hall mask for S, 0x100 + hall for M (R66). -/
  dir : Store Nat
  /-- Blocks of the four L2s and lines of the L3, oldest first (R61 to R65), and the number of the next new block. -/
  l2 : List L2Block
  l3 : List L3Line
  l2Fills : Nat
  /-- Next DSEQ (R323). -/
  dseq : Nat
  /-- Launches whose companies the dispatcher has still to create: ASID and launch sequence number, oldest first (R323). -/
  dispatch : List (Nat × Word)
  queues : List Queue
  flights : Store Flight
  /-- Events that wait for ring space, and the number of the next event (R360). -/
  events : List (List Byte)
  enum : Nat
  fabric : Fabric
  recUnit : RecUnit
  /-- Trace records lost since the last LOST record (R405). -/
  traceLost : Nat
  statements : List Statement
  /-- Context retirements by trap that wait for a statement place (R416). -/
  retiring : List Nat
  boot : Boot
  /-- Cycle counters: four halls, the atrium, two vestibules (R31). -/
  clocks : List DWord
  /-- Number of the next correlation marker, and the markers on their way, oldest first: die and number (R32). -/
  marker : Nat
  onWay : List (Nat × Nat)
  /-- Command-core firmware: cores still to swap, and steps taken (R369). -/
  fwswap : List Nat
  ccstep : List Nat
  /-- Notices to the management processor, oldest first. -/
  mgmt : List Notice
  /-- Who added to a semaphore word last: DSEQ × 16 + j + 1 by local offset (R406). -/
  semr : Store Nat
  /-- Copy of the values that loads by the host or the driver returned last (R154). -/
  hostRead : Option (List Byte)
  /-- Live contexts whose IMGTAB tctl was read; contexts other than the current one. -/
  contexts : List Context
  /-- Companies other than the current one. -/
  companies : List Company
  deriving DecidableEq, Repr

/-- The machine: the device, the current context, company and cohort, the turns to come, and the counter that
each free value is drawn with. -/
structure State where
  dev : Device
  cx : Context
  co : Company
  me : Cohort
  turns : List Turn
  /-- MODEL: how many free values have been drawn. -/
  free : Nat
  deriving DecidableEq, Repr

/-! ## Reset -/

/-- No cohort. -/
def Cohort.null : Cohort :=
  { j := 0, role := 0, n0 := 0, wid := 0#64, stat := .absent, wait := .none, pc := 0#56, priv := false, handler := false,
    em := 0#64, v := [], s := [], sp := 0#64, p := [], win := [], f := [], gang := 0#32, cr := [], clause := 0#32, atEntry := false,
    icount := 0, faults := 0, held := false, active := false, since := 0, slot := 0, ops := [], batches := [],
    emit := .none, sema := .none, gcount := 0, fab := [], uncovered := [], srw := .none, heldTrap := .none, stopDue := 0,
    chunkN := 0, chunkNo := 0, wlog := [] }

/-- A header with nothing in it. -/
def LHdr.zero : LHdr :=
  { n0m1 := 0, w := [0, 0, 0, 0, 0], clevel := 1, persist := false, split := false, cls := 0, nm1 := [0, 0, 0, 0, 0],
    entry0 := 0#64, entry1 := 0#64, nprod := 0, ncons := 0, vfloor0 := 0, vfloor1 := 0, tfloor := 0, gfloor := 0, lsgran := 0 }

/-- No company. -/
def Company.null : Company :=
  { dseq := 0, asid := 0, lseq := 0#32, num := 0, cwid := 0#64, lhdr := 0#64, hdr := LHdr.zero, karg := 0#64, pdist := 0,
    node := .none, place := .absent, created := [], ended := [], cohorts := [], lsBase := 0, ls := [], lsBad := [],
    tiles := [], dirty := [], fired := [], slots := [], latches := [], barArrived := [], barDone := [], barPhase := 0,
    spill := .none, victim := false, late := false, regain := [], restored := false }

/-- No context. -/
def Context.null : Context :=
  { asid := 0, alive := false, stat := .ended, key := [0#32, 0#32, 0#32, 0#32], step := 0#32, srwWarn := false,
    srwEvict := false, filter := [], srStale := [], srOld := ([0#32, 0#32, 0#32, 0#32], 0#32), supfail := 0#32, glgen := 0#32, tctl := 0#32, wstat := 0#32, lseq := 0#32,
    ctxid := 0, cnt := [], sat := 0#128, replayed := false, launches := [], nodes := [], reports := [], halter := .none,
    used := 0, image := [], ncomp := 0, digest := [] }

/-- A hall at reset, at the 2.4 GHz clock of Table 1-6. -/
def Hall.reset : Hall := { block := .none, quiesce := false, mhz := 2400, inval := [] }

/-- The fabric at reset: every port OFF (Table 5-5). -/
def Fabric.reset : Fabric :=
  { ports := List.replicate 64 Port.off, modules := List.replicate 16 Port.off, requests := [], waitq := [], back := [], crossing := [], changing := [], tag := 0, markno := [],
    inbound := [], late := [], sent := [], linkUp := false, strap := false, msix := [], pcie := [] }

/-- The control registers whose reset value is not 0: FEATOFF, FEATACC and the subset that GO would install (Tables 19-3,
19-4). -/
def ctrlReset : Store Nat := [(0x70000, 0x1F), (0x70020, 1), (0x40070020, 1)]

/-- The device at reset: what each table gives, main power applied, boot not begun (R436). -/
def Device.reset : Device :=
  { mem := [], bad := [], cell := [], ctrl := ctrlReset, ptgen := [], svgen := 0#64, tlb := [], tlbFill := false, shoot := [],
    pool64k := [], pool2m := [], carveOld := 0, halls := List.replicate 4 Hall.reset, order := 0, nextId := 0, pieces := [],
    fills := [], engines := [], dir := [], l2 := [], l3 := [], l2Fills := 0, dseq := 0, dispatch := [], queues := [], flights := [], events := [], enum := 0,
    fabric := Fabric.reset,
    recUnit := { pages := [], serial := [], writer := [], expect := [], closing := false, atrium := 0 },
    traceLost := 0, statements := [], retiring := [],
    boot := { powered := true, started := [], altTried := [], ctxid := 0, retno := 0, measure := .none, incoming := .none, skipped := [], slow := [] },
    clocks := List.replicate 7 0#64, marker := 0, onWay := [], fwswap := [], ccstep := [0, 0], mgmt := [], semr := [], hostRead := .none,
    contexts := [], companies := [] }

/-- The machine right after reset: no context, no work, every register at its reset value. -/
def State.reset : State :=
  { dev := Device.reset, cx := Context.null, co := Company.null, me := Cohort.null, turns := [], free := 0 }

end Sys2Proof.Machine
end

