-- ==== Sys2Proof/Machine/Pages.lean ====
section
/-!
DEFINITION. Pages of the record stream (R396, R399): encoding and decoding records, and a recorder's open pages.
-/
namespace Sys2Proof.Machine

/-! ## Encoding (Tables 15-3, 15-6, 15-7) -/

/-- HDR of a record. -/
def Rec.hdr (r : Rec) : Nat := r.kind % 16 + r.core % 16 * 16 + r.slot % 32 * 256

/-- The least number of bytes that holds a payload. -/
def payloadLen (x : Nat) : Nat :=
  if x = 0 then 0 else if x < 2 ^ 8 then 1 else if x < 2 ^ 16 then 2 else if x < 2 ^ 24 then 3 else if x < 2 ^ 32 then 4
  else if x < 2 ^ 40 then 5 else 6

/-- The code IW of an instruction count: 0, 1, 2 or 4 bytes. -/
def icntCode (x : Nat) : Nat := if x = 0 then 0 else if x < 2 ^ 8 then 1 else if x < 2 ^ 16 then 2 else 3

/-- The bytes of a code IW. -/
def icntLen (k : Nat) : Nat := if k = 3 then 4 else k

/-- A record after the record before it in its page. -/
def Rec.encode (prev : Option Rec) (r : Rec) : List Byte :=
  let ext := r.kind == 15
  let h := prev.any fun p => p.hdr == r.hdr
  let c := !ext && prev.any fun p => (p.chunk + 1) % 2 ^ 16 == r.chunk % 2 ^ 16
  let pw := if ext then 6 else payloadLen r.payload
  let iw := if ext then 3 else icntCode r.icnt
  leBytes 1 (pw * 16 + iw * 4 + (if c then 2 else 0) + (if h then 1 else 0)) ++ (if h then [] else leBytes 2 r.hdr) ++ leBytes 2 r.chk
    ++ (if c then [] else leBytes 2 r.chunk) ++ leBytes (icntLen iw) r.icnt ++ leBytes pw r.payload

/-- The records of a page, each after the one before it. -/
def encodeRecs : Option Rec → List Rec → List Byte
  | _, [] => []
  | p, r :: rs => r.encode p ++ encodeRecs (some r) rs

/-- A page of 4 KiB (Table 15-6). -/
def RecPage.bytes (p : RecPage) (pageno : Nat) : List Byte :=
  let body := encodeRecs none p.recs ++ [0xFF#8]
  leBytes 4 pageno ++ leBytes 2 p.source ++ leBytes 2 p.recs.length ++ leBytes 8 p.time.toNat ++ leBytes 4 p.lost
    ++ leBytes 4 (crc32 body).toNat ++ leBytes 8 0 ++ body ++ List.replicate (4064 - body.length) 0#8

/-- Whether a page has no room for one more record, which takes at most 17 bytes, and its end. -/
def RecPage.full (p : RecPage) : Bool := decide (4064 < (encodeRecs none p.recs).length + 18)

/-! ## Decoding -/

/-- The payload bits that Table 15-4 gives a kind; the others are zero fields. -/
def payloadBits (kind : Nat) : Nat :=
  match kind with
  | 0 | 10 | 11 => 44
  | 4 => 26
  | 5 => 3
  | 6 => 45
  | 7 => 15
  | 8 | 9 | 12 => 1
  | 13 => 32
  | _ => 48

/-- Whether a decoded record is malformed (R396). -/
def Rec.malformed (r : Rec) (hdr : Nat) : Bool := r.kind == 14 || decide (2 ^ 13 ≤ hdr) || decide (2 ^ payloadBits r.kind ≤ r.payload)

/-- Decode the records of a page after its header, with the bytes after its end; none for a malformed page (R396, R399). -/
def decodeRecs : Nat → Option Rec → List Byte → Option (List Rec × List Byte)
  | 0, _, _ => none
  | _, _, [] => none
  | fuel + 1, prev, e :: bs =>
    let x := e.toNat
    if x = 0xFF then some ([], bs)
    else
      let h := bit x 0
      let c := bit x 1
      let iw := icntLen (bits x 3 2)
      let pw := bits x 6 4
      if bit x 7 ∨ pw = 7 ∨ (prev = none ∧ (h ∨ c)) then none
      else
        let take (n : Nat) (bs : List Byte) : Nat × List Byte := (leNat (bs.take n), bs.drop n)
        let hdr := if h then ((prev.map Rec.hdr).getD 0, bs) else take 2 bs
        let chk := take 2 hdr.2
        let chunk := if c then (((prev.map (·.chunk)).getD 0 + 1) % 2 ^ 16, chk.2) else take 2 chk.2
        let icnt := take iw chunk.2
        let pay := take pw icnt.2
        let r : Rec := { kind := bits hdr.1 3 0, core := bits hdr.1 7 4, slot := bits hdr.1 12 8, chk := chk.1, chunk := chunk.1
                         icnt := icnt.1, payload := pay.1 }
        if r.malformed hdr.1 then none
        else (decodeRecs fuel (some r) pay.2).map fun rs => (r :: rs.1, rs.2)

/-- The records of a page of the ring: SOURCE and LOST, or none for a page that fails its CRC or is malformed (R402). -/
def decodePage (bs : List Byte) : Option (Nat × Nat × List Rec) :=
  let body := bs.drop 32
  match decodeRecs 4096 none body with
  | some (rs, rest) =>
    let n := body.length - rest.length
    if leNat ((bs.drop 0x14).take 4) = (crc32 (body.take n)).toNat ∧ leNat ((bs.drop 6).take 2) = rs.length then
      some (leNat ((bs.drop 4).take 2), leNat ((bs.drop 16).take 4), rs)
    else none
  | none => none

/-! ## Open pages (R400) -/

/-- The newest open page of a source. -/
def RecUnit.newest (u : RecUnit) (source : Nat) : Option RecPage := (u.pages.reverse.find? fun p => p.source == source)

/-- Whether a recorder holds two open pages and the newer has no room: a strict recording then stalls it (R400). -/
def RecUnit.stuck (u : RecUnit) (source : Nat) : Bool :=
  decide (2 ≤ (u.pages.filter fun p => p.source == source).length) && (u.newest source).any RecPage.full

/-- Change the newest open page of a source. -/
def mapNewest (source : Nat) (f : RecPage → RecPage) : List RecPage → List RecPage
  | [] => []
  | p :: ps => if p.source = source ∧ (ps.any fun q => q.source == source) = false then f p :: ps else p :: mapNewest source f ps

/-- Add a record to the newest open page of a source, opening a page where there is none with room (R399, R400). -/
def RecUnit.add (u : RecUnit) (source : Nat) (r : Rec) (time : DWord) : RecUnit :=
  match u.newest source with
  | some p =>
    if p.full then { u with pages := u.pages ++ [{ source := source, recs := [r], time := time, lost := 0 }] }
    else { u with pages := mapNewest source (fun p =>
      { p with recs := p.recs ++ [r], time := if p.recs.isEmpty then time else p.time }) u.pages }
  | none => { u with pages := u.pages ++ [{ source := source, recs := [r], time := time, lost := 0 }] }

end Sys2Proof.Machine
end

