-- ==== Sys2Proof/Machine/Mem.lean ====
section
/-!
DEFINITION. Memory by local offset: regions (Table 1-4), reading and writing bytes with their poison (R89)
and cell status (R72, R74), and what each hall sees of class L writes (R115).
-/
namespace Sys2Proof.Machine

/-! ## Device control registers as stored values -/

/-- The stored value of a control register, by offset (R18). -/
def Device.reg (d : Device) (off : Nat) : Nat := Store.get 0 d.ctrl off

/-- Store a value in a control register. -/
def Device.setReg (d : Device) (off v : Nat) : Device := { d with ctrl := Store.set 0 d.ctrl off v }

/-- Replace bits [hi:lo] of a number. -/
def putBits (x hi lo v : Nat) : Nat :=
  x / 2 ^ (hi + 1) * 2 ^ (hi + 1) + v % 2 ^ (hi + 1 - lo) * 2 ^ lo + x % 2 ^ lo

/-- Replace bits [hi:lo] of a control register. -/
def Device.setField (d : Device) (off hi lo v : Nat) : Device := d.setReg off (putBits (d.reg off) hi lo v)

/-- DEVNUM.NUM (Table 1-3). -/
def Device.num (d : Device) : Nat := bits (d.reg 0) 9 0
/-- DEVNUM.VALID (Table 1-3). -/
def Device.joined (d : Device) : Bool := bit (d.reg 0) 31
/-- ASCARVE.UNITS in bytes (R21). -/
def Device.carve (d : Device) : Nat := bits (d.reg 0x1000) 4 0 * 0x1000000
/-- ASCARVE.BUSY (Table 1-5). -/
def Device.carving (d : Device) : Bool := bit (d.reg 0x1000) 31
/-- min(old, new) × 16 MiB while a change is applied, else the carved size (R23). -/
def Device.carveSafe (d : Device) : Nat := if d.carving then min d.carveOld d.carve else d.carve

/-! ## Regions -/

/-- A region of Table 1-4. -/
inductive Region where
  | hbm | tier2 | atrium | control | hostWin | reserved
  deriving DecidableEq, Repr

/-- First local offset of the atrium-store aperture (Table 1-4). -/
def atriumBase : Nat := 0x020000000000
/-- First local offset of device control space (Table 1-4). -/
def controlBase : Nat := 0x030000000000
/-- First local offset of the host window (Table 1-4). -/
def hostBase : Nat := 0x800000000000
/-- First local offset of second-tier memory (Table 1-4). -/
def tier2Base : Nat := 0x010000000000
/-- End of HBM4 (Table 1-4). -/
def hbmEnd : Nat := 0x006000000000

/-- The region of a local offset (Table 1-4). -/
def regionOf (off : Nat) : Region :=
  if off < hbmEnd then .hbm
  else if off < tier2Base then .reserved
  else if off < atriumBase then .tier2
  else if off < atriumBase + 0x10000000 then .atrium
  else if off < controlBase then .reserved
  else if off < controlBase + 0x40000000 then .control
  else if off < hostBase then .reserved
  else if off < 0x1000000000000 then .hostWin
  else .reserved

/-- Whether a run of bytes lies in HBM4 (Table 1-4). -/
def inHbm (off len : Nat) : Bool := decide (off + len ≤ hbmEnd)

/-- Whether a local offset lies in HBM4 or second-tier memory (R35). -/
def inMemory (off : Nat) : Bool := regionOf off == .hbm || regionOf off == .tier2

/-- Whether a copy engine owns a line of own memory, which is then in E (R83). -/
def Device.ownedLine (d : Device) (line : Nat) : Bool :=
  d.pieces.any fun p => match p.dst.loc with
    | .mem o => regionOf o != .atrium && decide (0 < p.dst.len ∧ o / 64 ≤ line ∧ line ≤ (o + p.dst.len - 1) / 64)
    | _ => false

/-! ## What a hall sees -/

/-- The old value of a byte in the first queued invalidation that covers it. -/
def Inval.find : List Inval → Nat → Option (Nat × Byte)
  | [], _ => none
  | e :: es, a =>
    match e.old.find? (fun p => p.1 == a) with
    | some p => some (e.seq, p.2)
    | none => Inval.find es a

/-- A byte of memory as its home holds it. -/
def Device.byte (d : Device) (a : Nat) : Byte := Store.get 0#8 d.mem a

/-- A byte as an agent of hall `h` sees it: the old value while an invalidation of it is queued (R115). -/
def Device.hallByte (d : Device) (h a : Nat) : Byte :=
  match d.halls[h]? with
  | some x => match Inval.find x.inval a with
    | some p => p.2
    | none => d.byte a
  | none => d.byte a

/-- A byte as an agent outside every hall sees it: a class L write counts once its invalidation stands in the queue of every hall,
which an acquire at PKG scope applies (R115, R129). -/
def Device.outerByte (d : Device) (a : Nat) : Byte :=
  let olds := d.halls.filterMap fun h => Inval.find (h.inval.filter fun e => !e.entered) a
  match olds.foldl (fun (m : Option (Nat × Byte)) p => match m with
      | some q => if p.1 < q.1 then some p else some q
      | none => some p) none with
  | some p => p.2
  | none => d.byte a

/-- The number a run of `n` bytes holds for the table walker (R36, R129). -/
def Device.walkRead (d : Device) (a n : Nat) : Nat := leNat ((List.range n).map fun i => d.outerByte (a + i))

/-- The bytes of a run as the home holds them. -/
def Device.bytes (d : Device) (a n : Nat) : List Byte := (List.range n).map fun i => d.byte (a + i)

/-- The number a run of `n` bytes holds. -/
def Device.load (d : Device) (a n : Nat) : Nat := leNat (d.bytes a n)

/-- Whether the 16-byte granule that holds an offset is poisoned (R89). -/
def Device.badAt (d : Device) (a : Nat) : Bool := Store.get false d.bad (a / 16)

/-- The poisoned bytes of a run. -/
def Device.badMask (d : Device) (a n : Nat) : Mask := maskOf ((List.range n).filter fun i => d.badAt (a + i))

/-! ## Writing -/

/-- The poison of the granules that a write of `n` bytes with poisoned bytes `pm` touches (R89). -/
def badAfter (bad : Store Bool) (a n : Nat) (pm : Mask) : Store Bool :=
  (List.range ((a + n + 15) / 16 - a / 16)).foldl (fun b k =>
    let g := a / 16 + k
    let full := decide (a ≤ 16 * g ∧ 16 * g + 16 ≤ a + n)
    let hit := (List.range 16).any fun i => decide (a ≤ 16 * g + i) && pm.getLsbD (16 * g + i - a)
    Store.set false b g (hit || (!full && Store.get false b g))) bad

/-- The lines of the atrium store that a run touches lose NAN, PINF and NINF (R74). -/
def cellAfter (cell : Store Nat) (a n : Nat) : Store Nat :=
  if regionOf a = .atrium then
    (List.range ((a + n + 63) / 64 - a / 64)).foldl (fun c k => Store.set 0 c ((a - atriumBase) / 64 + k) 0) cell
  else cell

/-- Write a run of bytes, some of them poisoned, as seen by every agent at once. -/
def Device.put (d : Device) (a : Nat) (bs : List Byte) (pm : Mask) : Device :=
  if bs.isEmpty then d
  else { d with mem := Store.setRun 0#8 d.mem a bs, bad := badAfter d.bad a bs.length pm, cell := cellAfter d.cell a bs.length }

/-- Whether a queued invalidation covers a byte of `[a, a + n)`. -/
def Inval.covers (e : Inval) (a n : Nat) : Bool := e.old.any fun p => decide (a ≤ p.1 ∧ p.1 < a + n)

/-- Apply the queued invalidations of a hall up to the last that covers a byte of the run (R116). -/
def Inval.flush (a n : Nat) : List Inval → List Inval
  | [] => []
  | e :: es => if es.any (fun x => x.covers a n) then Inval.flush a n es else if e.covers a n then es else e :: es

/-- The bytes of the lines that a run touches: first offset and length. -/
def lineSpan (a n : Nat) : Nat × Nat := (a / 64 * 64, (a + n + 63) / 64 * 64 - a / 64 * 64)

/-- Every hall sees the lines of a run as their home holds them (R116). -/
def Device.settle (d : Device) (a n : Nat) : Device :=
  let l := lineSpan a n
  { d with halls := d.halls.map fun h => { h with inval := Inval.flush l.1 l.2 h.inval } }

/-- A class P write: it becomes visible to every agent at one moment (R116). -/
def Device.putP (d : Device) (a : Nat) (bs : List Byte) (pm : Mask) : Device :=
  (d.settle a bs.length).put a bs pm

/-- The other halls are to see later what an agent of hall `h` writes by class L to some runs: one invalidation holds their old
bytes, and hall `h`, whose L2 takes the line in M, sees the line as it stands (R64, R115). -/
def Device.late (d : Device) (h : Nat) (ws : List (Nat × Nat)) : Device :=
  let olds := ws.flatMap fun w => (List.range w.2).map fun i => (w.1 + i, d.byte (w.1 + i))
  let e : Inval := { seq := d.order, old := olds, entered := false }
  let own (l : List Inval) : List Inval := ws.foldl (fun l w => Inval.flush (lineSpan w.1 w.2).1 (lineSpan w.1 w.2).2 l) l
  { d with halls := d.halls.mapIdx fun g x => { x with inval := if g = h then own x.inval else x.inval ++ [e] }, order := d.order + 1 }

/-- Write runs of bytes one after another, as seen by every agent at once. -/
def Device.putAll (d : Device) (ws : List (Nat × List Byte × Mask)) : Device := ws.foldl (fun d w => d.put w.1 w.2.1 w.2.2) d

/-- A class L write by an agent of hall `h` of runs of one line, which the other halls see together (R60, R64, R115). -/
def Device.putL (d : Device) (h : Nat) (ws : List (Nat × List Byte × Mask)) : Device :=
  (d.late h (ws.map fun w => (w.1, w.2.1.length))).putAll ws

/-- Every invalidation of a class L write made so far enters the queues of its halls: a release or fence at PKG or POD scope
(R106, R107, R115). -/
def Device.enterAll (d : Device) : Device :=
  { d with halls := d.halls.map fun h => { h with inval := h.inval.map fun e => { e with entered := true } } }

/-- Apply every invalidation queued in a hall: an acquire at PKG or POD scope (R115). -/
def Device.applyAll (d : Device) (h : Nat) : Device :=
  { d with halls := d.halls.mapIdx fun g x => if g = h then { x with inval := x.inval.filter fun e => !e.entered } else x }

/-- Whether two invalidations name bytes of one line. -/
def Inval.sameLine (a b : Inval) : Bool := a.old.any fun p => b.old.any fun q => p.1 / 64 == q.1 / 64

/-- Take out the `k`-th invalidation, unless one before it names its line. -/
def Inval.takeOut (k : Nat) (l : List Inval) : List Inval :=
  match l[k]? with
  | some e => if (l.take k).any fun x => x.sameLine e then l else l.eraseIdx k
  | none => l

/-- A hall sees the `k`-th write that it had still to see; writes of one line are seen in their order (R98, R115). -/
def Device.applyOne (d : Device) (h k : Nat) : Device :=
  { d with halls := d.halls.mapIdx fun g x => if g = h then { x with inval := Inval.takeOut k x.inval } else x }

/-- A write by the device itself, of class P. -/
def Device.store (d : Device) (a n v : Nat) : Device := d.putP a (leBytes n v) 0#64

/-- Fill whole granules with zeros and clear their poison, for every agent at once (R53, R58). -/
def Device.zero (d : Device) (a n : Nat) : Device :=
  let hs := d.halls.map fun h => { h with inval := Inval.flush a n h.inval }
  { d with halls := hs, mem := Store.drop d.mem a (a + n), bad := Store.drop d.bad (a / 16) ((a + n) / 16) }

end Sys2Proof.Machine
end

