-- ==== Sys2Proof/Machine/Translate.lean ====
section
/-!
DEFINITION. Translation: page tables (R33 to R36), the TLB (R37), windows (R38 to R41), decoding of physical
addresses (R13 to R16, R69) and the outcome of one lane's access (R45, Table 2-7).
-/
namespace Sys2Proof.Machine

/-- Kinds of access, for Table 2-7. -/
inductive Acc where
  | load | store | atomic | prefetch | fetch
  /-- A write of no bytes (R36, R47). -/
  | empty
  deriving DecidableEq, Repr

/-- A lane outcome other than "performs", in the terms of R46. -/
inductive LFault where
  | win | canon | priv | bnd | phys | space | aln
  /-- A translation outcome: subcause of #PF and the level at which the walk stopped. -/
  | pf (sub level : Nat)
  deriving DecidableEq, Repr

/-- The order in which R46 reports outcomes; the in-lane ones come last. -/
def LFault.rank : LFault → Nat
  | .win => 0
  | .canon => 1
  | .priv => 2
  | .bnd => 3
  | .pf s _ => if s = 4 then 4 else if s = 5 then 5 else if s = 6 then 6 else 10
  | .phys => 7
  | .space => 8
  | .aln => 9

/-- Code and subcause of an outcome (Table 14-1). -/
def LFault.code : LFault → Nat × Nat
  | .win => (2, 5)
  | .canon => (2, 2)
  | .priv => (2, 3)
  | .bnd => (3, 0)
  | .phys => (2, 1)
  | .space => (2, 4)
  | .aln => (5, 0)
  | .pf s _ => (4, s)

/-- What an access may reach: a plain access anything; an atomic not the host window unless `host`; a cell or
element-wise operation only the atrium store (R69). -/
inductive Reach where
  | plain
  | rmw (host : Bool)
  | cell
  deriving DecidableEq, Repr

/-- The outcome of one access. -/
inductive LOut where
  | at (l : Loc)
  | fault (f : LFault)
  /-- It waits while ASCARVE.BUSY is 1 (R23), or for a table entry in a line in E (R83, log entry 90). -/
  | wait
  deriving DecidableEq, Repr

/-! ## Page tables -/

/-- How a walk ended. -/
inductive WalkEnd where
  /-- A well-formed leaf: where it lies, its value and its level. -/
  | leaf (addr raw level : Nat)
  | absent (fp level : Nat)
  | mal (level : Nat)
  /-- It waits for a line in E that it reads (R83). -/
  | waits
  deriving DecidableEq, Repr

/-- Levels of Table 2-1 with the low bit and the width of their index, and the bits below their tables' size. -/
def levels : List (Nat × Nat × Nat × Nat) := [(4, 43, 13, 16), (3, 30, 13, 16), (2, 21, 9, 12), (1, 16, 5, 8)]

/-- Whether TIER names the region of a frame (R35). -/
def tierOk (tier off : Nat) : Bool :=
  match regionOf off with
  | .hbm => tier == 0
  | .tier2 => tier == 1
  | .hostWin => tier == 2
  | .atrium => tier == 3
  | .control => tier == 3
  | .reserved => false

/-- The local offset a leaf's FRAME gives (Table 2-2). -/
def leafFrame (raw : Nat) : Nat := bits raw 47 16 * 0x10000

/-- A well-formed leaf whose page has 2^`sh` bytes (R35). -/
def leafOk (raw sh : Nat) : Bool :=
  bits raw 63 58 == 0 && leafFrame raw % 2 ^ sh == 0 && tierOk (bits raw 11 10) (leafFrame raw)

/-- The local offset a pointer's NEXT gives (Table 2-3). -/
def nextTable (raw : Nat) : Nat := bits raw 47 8 * 0x100

/-- A well-formed pointer to a table of 2^`sz` bytes (R35). -/
def pointerOk (raw sz : Nat) : Bool :=
  bits raw 63 48 == 0 && bits raw 6 1 == 0 && nextTable raw % 2 ^ sz == 0 && inMemory (nextTable raw)

/-- Walk down from a table (R33 to R35). -/
def walkFrom (d : Device) (va : Nat) : List (Nat × Nat × Nat × Nat) → Nat → WalkEnd
  | [], _ => .mal 1
  | (lv, lo, w, _) :: rest, table =>
    let addr := table + 8 * (va / 2 ^ lo % 2 ^ w)
    let raw := d.walkRead addr 8
    if d.ownedLine (addr / 64) then .waits
    else if bit raw 0 = false then .absent (bits raw 9 8) lv
    else if lv = 1 ∨ (bit raw 7 ∧ lv ≠ 4) then (if leafOk raw lo then .leaf addr raw lv else .mal lv)
    else if bit raw 7 then .mal lv
    else match rest with
      | [] => .mal lv
      | (_, _, _, sz) :: _ => if pointerOk raw sz then walkFrom d va rest (nextTable raw) else .mal lv

/-- Whether an address lies in the supervisor range (R27). -/
def isSup (va : Nat) : Bool := bit va 55

/-- Where an ASID's entry in the ASID table stands (Table 2-4). -/
def asidAddr (d : Device) (asid : Nat) : Nat := bits (d.reg 0x2008) 47 16 * 0x10000 + 16 * asid

/-- Whether the line of an ASID's entry is in E, so that a reader of the entry waits (R83). -/
def asidHeld (d : Device) (asid : Nat) : Bool := d.ownedLine (asidAddr d asid / 64)

/-- An ASID's entry in the ASID table: bytes 0 to 7 (Table 2-4). -/
def asidEntry (d : Device) (asid : Nat) : Nat := d.walkRead (asidAddr d asid) 8

/-- Whether an ASID is bound (Table 2-4). -/
def asidBound (d : Device) (asid : Nat) : Bool := bit (asidEntry d asid) 0

/-- ASBASE and ASLEN of a context in bytes (R25). -/
def asBase (d : Device) (asid : Nat) : Nat :=
  bits (d.walkRead (asidAddr d asid + 8) 4) 27 16 * 0x10000
/-- The size of a context's atrium-store allocation (R25). -/
def asLen (d : Device) (asid : Nat) : Nat :=
  bits (d.walkRead (asidAddr d asid + 12) 4) 12 0 * 0x10000

/-- The level-4 root of an address, none where R35 gives #PF MAL. BOUND is asked of a walk that starts at the ASID's own root,
not of one that starts at SVROOT (DEDUCED, log entry 67). -/
def rootOf (d : Device) (asid va : Nat) : Option Nat :=
  let r := if isSup va then bits (d.reg 0x2000) 47 16 * 0x10000 else bits (asidEntry d asid) 47 16 * 0x10000
  if (isSup va || asidBound d asid) && inMemory r then some r else none

/-- Walk the tables for an address (R33 to R36). -/
def walk (d : Device) (asid va : Nat) : WalkEnd :=
  if !isSup va && asidHeld d asid then .waits
  else match rootOf d asid va with
    | some r => walkFrom d va levels r
    | none => .mal 4

/-- Bytes of the page that a leaf of a level maps, as a power of two (Table 2-1). -/
def pageBits (level : Nat) : Nat := if level = 3 then 30 else if level = 2 then 21 else 16

/-- Whether a leaf permits an access (Table 2-7). -/
def permits (a : Acc) (r w x : Bool) : Bool :=
  match a with
  | .load => r
  | .prefetch => r
  | .store => w
  | .empty => w
  | .atomic => r && w
  | .fetch => x

/-- Whether an access sets D (R36). -/
def setsD (a : Acc) : Bool := a == .store || a == .atomic

/-- A leaf's value with A set, and D for a write (R36). -/
def leafTouched (a : Acc) (raw : Nat) : Nat := putBits (if setsD a then putBits raw 6 6 1 else raw) 5 5 1

/-- Set A, and D for a write, in a leaf that holds the value read (R36). -/
def touchLeaf (d : Device) (a : Acc) (addr raw : Nat) : Device :=
  if leafTouched a raw = raw then d else d.store addr 8 (leafTouched a raw)

/-- How many invalidations are queued in the halls: how often a walk can find its leaf changed. -/
def Device.queued (d : Device) : Nat := (d.halls.map fun h => h.inval.length).sum

/-- Walk, and set A and D in a present and permitted leaf by a compare-and-swap of the whole entry against the value that the
walk read. Where the compare fails, every agent sees the entry as it now stands, and the walk starts again at level 4
(R36). -/
def walkTouch (asid va : Nat) (a : Acc) : Nat → Device → Device × WalkEnd
  | 0, d => (d, walk d asid va)
  | n + 1, d => match walk d asid va with
    | .leaf addr raw lv =>
      if permits a (bit raw 1) (bit raw 2) (bit raw 3) = false then (d, .leaf addr raw lv)
      else if leafTouched a raw = raw ∨ d.load addr 8 = raw then (touchLeaf d a addr raw, .leaf addr raw lv)
      else walkTouch asid va a n (d.settle addr 8)
    | o => (d, o)

/-! ## The TLB -/

/-- Whether a TLB entry translates an address for an ASID (R37). -/
def TlbEntry.hits (e : TlbEntry) (asid va : Nat) : Bool :=
  decide (e.va ≤ va ∧ va < e.va + e.size) && (e.global || e.asid == asid)

/-- The entry of the TLB that serves an access. -/
def tlbFind (d : Device) (asid va : Nat) (a : Acc) : Option TlbEntry :=
  d.tlb.find? fun e => e.hits asid va && permits a e.r e.w e.x && (!setsD a || e.d)

/-- The TLB entry of a leaf (R36, R37). -/
def tlbOf (asid va raw level : Nat) (a : Acc) : TlbEntry :=
  { va := va / 2 ^ pageBits level * 2 ^ pageBits level, size := 2 ^ pageBits level, asid := asid
    global := bit raw 4 && isSup va, home := bits raw 57 48, off := leafFrame raw
    r := bit raw 1, w := bit raw 2, x := bit raw 3, d := bit raw 6 || setsD a }

/-- Keep a walk in the TLB if the device chooses to (log entry 5). -/
def tlbKeep (d : Device) (e : TlbEntry) : Device := if d.tlbFill then { d with tlb := e :: d.tlb } else d

/-! ## Decoding a physical address -/

/-- Whether a home is this device (R13, R15). -/
def isOwn (d : Device) (home : Nat) : Bool := home == 0x3FF || home == d.num

/-- Whether an operation can execute in the region of an offset (R69). -/
def reachOk (r : Reach) (off : Nat) : Bool :=
  match r with
  | .plain => true
  | .rmw host => match regionOf off with
    | .hostWin => host
    | .control => false
    | _ => true
  | .cell => regionOf off == .atrium

/-- Decode one of this device's own offsets (R16, R23). -/
def decodeOwn (d : Device) (r : Reach) (off : Nat) : LOut :=
  match regionOf off with
  | .reserved => .fault .phys
  | .hbm => if reachOk r off then .at (.mem off) else .fault .space
  | .tier2 => if 5 ∈ d.boot.skipped then .fault .phys else if reachOk r off then .at (.mem off) else .fault .space
  | .atrium =>
    if off - atriumBase < d.carveSafe then .at (.mem off)
    else if d.carving then .wait
    else if off - atriumBase < d.carve then .at (.mem off) else .fault .phys
  | .control => if reachOk r off then .at (.ctrl (off - controlBase)) else .fault .space
  | .hostWin => if reachOk r off then .at (.host (off - hostBase)) else .fault .space

/-- Decode a physical address: home device and local offset (R13 to R16, R69). -/
def decodePA (d : Device) (r : Reach) (home off : Nat) : LOut :=
  if isOwn d home then decodeOwn d r off
  else if 512 ≤ home ∨ d.joined = false then .fault .phys
  else if reachOk r off then .at (.far home off) else .fault .space

/-- Decode a run of `n` bytes: its first byte, and its last where that lies in another 64 KiB. -/
def decodeRun (d : Device) (r : Reach) (home off n : Nat) : LOut :=
  match decodePA d r home off with
  | .at l =>
    if n ≤ 1 ∨ off / 0x10000 = (off + n - 1) / 0x10000 then .at l
    else match decodePA d r home (off + n - 1) with
      | .at _ => .at l
      | o => o
  | o => o

/-! ## One address -/

/-- The outcome Table 2-7 gives an absent entry. -/
def absentOut (a : Acc) (fp level : Nat) : LOut :=
  match a, fp with
  | .load, 1 => .at .zero
  | .load, 2 => .at .poison
  | _, 0 => .fault (.pf 1 level)
  | _, 1 => .fault (.pf 1 level)
  | _, 2 => .fault (.pf 4 level)
  | _, _ => .fault (.pf 5 level)

/-- Translate one address of the virtual space and decode it: steps 1, 2, 4 and 5 of R45. The compare fails at most once for each
queued invalidation, so `Device.queued` bounds the restarts. -/
def translate (d : Device) (asid : Nat) (priv : Bool) (a : Acc) (r : Reach) (va : Nat) : Device × LOut :=
  if 2 ^ 56 ≤ va then (d, .fault .canon)
  else if isSup va && !priv then (d, .fault .priv)
  else match tlbFind d asid va a with
    | some e => (d, decodePA d r e.home (e.off + (va - e.va)))
    | none =>
      let p := walkTouch asid va a (d.queued + 1) d
      match p.2 with
      | .absent fp lv => (p.1, absentOut a fp lv)
      | .mal lv => (p.1, .fault (.pf 6 lv))
      | .waits => (p.1, .wait)
      | .leaf _ raw lv =>
        if permits a (bit raw 1) (bit raw 2) (bit raw 3) then
          let e := tlbOf asid va raw lv a
          (tlbKeep p.1 e, decodePA d r e.home (e.off + (va - e.va)))
        else (p.1, .fault (.pf 2 lv))

/-- The outcome of an access whose first and last byte lie in two pages: the first check of R45 that fails on either,
translation before decoding. -/
def LOut.both : LOut → LOut → LOut
  | .at l, .at _ => .at l
  | .at _, o => o
  | _, .fault (.pf s lv) => .fault (.pf s lv)
  | o, _ => o

/-- Translate `n` bytes: the first byte, and the last where it lies in another page; each step of R45 checks both before
the next step. -/
def translateRun (d : Device) (asid : Nat) (priv : Bool) (a : Acc) (r : Reach) (va n : Nat) : Device × LOut :=
  if n ≤ 1 ∨ va / 0x10000 = (va + n - 1) / 0x10000 then translate d asid priv a r va
  else if 2 ^ 56 < va + n then (d, .fault .canon)
  else if (isSup va || isSup (va + n - 1)) && !priv then (d, .fault .priv)
  else
    let p := translate d asid priv a r va
    match p.2 with
    | .fault (.pf s lv) => (p.1, .fault (.pf s lv))
    | o =>
      let q := translate p.1 asid priv a r (va + n - 1)
      (q.1, o.both q.2)

/-! ## Windows -/

/-- The PTGEN that R40 compares a window with. -/
def ptgenOf (d : Device) (base asid : Nat) : DWord := if isSup base then d.svgen else Store.get 0#64 d.ptgen asid

/-- Whether an access reads, or writes, in the sense of R40. -/
def readsAcc (a : Acc) : Bool := a == .load || a == .atomic || a == .prefetch

/-- Whether an access goes by the window path (R40). -/
def byWindow (d : Device) (w : Window) (a : Acc) (o n : Nat) : Bool :=
  decide (o + n ≤ w.limit.toNat) && w.gen == ptgenOf d w.base.toNat w.asid.toNat
    && (!readsAcc a || w.rp) && (!setsD a || (w.wp && w.dt)) && (a != .empty || w.wp)

/-- Whether an access reached, through its leaf, the physical address that the window names for it (R40). -/
def sameLeaf (d : Device) (w : Window) (o : Nat) : LOut → Bool
  | .at (.mem x) => decide (x = w.pa.toNat % 2 ^ 48 + o) && isOwn d (w.pa.toNat / 2 ^ 48)
  | .at (.ctrl x) => decide (controlBase + x = w.pa.toNat % 2 ^ 48 + o) && isOwn d (w.pa.toNat / 2 ^ 48)
  | .at (.host x) => decide (hostBase + x = w.pa.toNat % 2 ^ 48 + o) && isOwn d (w.pa.toNat / 2 ^ 48)
  | .at (.far h x) => decide (h * 2 ^ 48 + x = w.pa.toNat + o)
  | _ => false

/-- An access of `n` bytes at offset `o` through a window: the device, whether DT becomes 1, the address that a
report names, and the outcome (R40, R41, R45). Step 2 of R45 checks the privilege on either path (R27). -/
def accessWindow (d : Device) (asid lsLen : Nat) (priv : Bool) (w : Window) (a : Acc) (r : Reach) (o n : Nat) :
    Device × Bool × Nat × LOut :=
  let va := w.base.toNat + o
  if w.kind = 1 then
    if byWindow d w a o n then
      if isSup va && !priv then (d, false, va, .fault .priv) else (d, false, va, decodeRun d r (w.pa.toNat / 2 ^ 48) (w.pa.toNat % 2 ^ 48 + o) n)
    else
      let p := translateRun d asid priv a r va n
      (p.1, sameLeaf d w o p.2 && setsD a && decide (o + n ≤ w.limit.toNat) && w.gen == ptgenOf d w.base.toNat w.asid.toNat, va, p.2)
  else if w.kind = 2 then
    (d, false, va, if lsLen < va + n then .fault .bnd else if r = .cell then .fault .space else .at (.loc va))
  else if w.kind = 3 then
    (d, false, va, if asidHeld d asid then .wait else if asLen d asid < va + n then .fault .bnd else decodeRun d r 0x3FF (atriumBase + asBase d asid + va) n)
  else (d, false, o, .fault .win)

end Sys2Proof.Machine
end

