-- ==== Sys2Proof/Machine/Ops.lean ====
section
/-!
DEFINITION. The named operations over registers, cohorts, companies and contexts; recording (R394),
operation counters (R409), retirement, fetching, and the one operation that takes each class of trap
(R370 to R379).
-/
namespace Sys2Proof.Machine

/-- The outcome of a step of this machine. -/
abbrev Out := Host.Outcome State Fault Refusal

/-! ## Registers of a cohort -/

/-- A vector register of zeros, as an unallocated name and a fresh register read (R206). -/
def VReg.zero : VReg := { w := List.replicate 64 0#32, poison := 0#64 }

/-- The word of a lane. -/
def VReg.lane (v : VReg) (i : Nat) : Word := v.w.getD i 0#32

/-- The register whose lane `i` holds `f i`. -/
def VReg.build (f : Nat → Word) : VReg := { w := (List.range 64).map f, poison := 0#64 }

/-- A register with only the lanes of a mask, the others zero, as absent lanes read (R178). -/
def VReg.within (v : VReg) (m : Mask) : VReg :=
  { w := (List.range 64).map fun i => if m.getLsbD i then v.lane i else 0#32, poison := v.poison &&& m }

/-- Write lanes of a register; a write of a whole word clears its poison (R207, R381). -/
def VReg.merge (old : VReg) (m : Mask) (f : Nat → Word) : VReg :=
  { w := (List.range 64).map fun i => if m.getLsbD i then f i else old.lane i, poison := old.poison &&& ~~~ m }

/-- The present mask, 2^N0 − 1 (R178). -/
def Cohort.present (c : Cohort) : Mask := BitVec.ofNat 64 (2 ^ c.n0 - 1)
/-- The active, present lanes. -/
def Cohort.act (c : Cohort) : Mask := c.em &&& c.present
/-- A vector register as it reads: zeros where the name is unallocated (R206). -/
def Cohort.vget (c : Cohort) (r : Nat) : VReg := (Store.get none c.v r).getD VReg.zero
/-- Whether a vector name is allocated (R206). -/
def Cohort.allocated (c : Cohort) (r : Nat) : Bool := (Store.get none c.v r).isSome
/-- The number of allocated vector names. -/
def Cohort.vcount (c : Cohort) : Nat := c.v.length
/-- A scalar register. -/
def Cohort.sget (c : Cohort) (r : Nat) : Word := Store.get 0#32 c.s r
/-- Whether a scalar word holds poison (R381). -/
def Cohort.spoison (c : Cohort) (r : Nat) : Bool := c.sp.getLsbD r
/-- A scalar pair, low word first (R5). -/
def Cohort.sget64 (c : Cohort) (r : Nat) : DWord := pair64 (c.sget r) (c.sget (r + 1))
/-- A predicate: p0 reads all ones (R214). -/
def Cohort.pget (c : Cohort) (r : Nat) : Mask := if r = 0 then BitVec.allOnes 64 else Store.get 0#64 c.p r
/-- A control register held per cohort. -/
def Cohort.crget (c : Cohort) (i : Nat) : Word := Store.get 0#32 c.cr i
/-- A window register. -/
def Cohort.window (c : Cohort) (i : Nat) : Window := Store.get Window.empty c.win i

/-- Write a whole vector register. -/
def Cohort.vput (c : Cohort) (r : Nat) (x : VReg) : Cohort := { c with v := Store.set none c.v r (some x) }
/-- Free a vector name (R205). -/
def Cohort.vfree (c : Cohort) (r : Nat) : Cohort := { c with v := Store.set none c.v r none }
/-- Write a scalar, which clears its poison (R381). -/
def Cohort.sput (c : Cohort) (r : Nat) (x : Word) : Cohort :=
  { c with s := Store.set 0#32 c.s r x, sp := c.sp &&& ~~~ (1#64 <<< r) }
/-- Write a scalar pair, low word first (R5). -/
def Cohort.sput64 (c : Cohort) (r : Nat) (x : DWord) : Cohort := (c.sput r (lo32 x)).sput (r + 1) (hi32 x)
/-- Write a predicate: writes of p0 are discarded (R214). -/
def Cohort.pput (c : Cohort) (r : Nat) (x : Mask) : Cohort := if r = 0 then c else { c with p := Store.set 0#64 c.p r x }
/-- Write em: the written value AND the present mask (R182). -/
def Cohort.emput (c : Cohort) (x : Mask) : Cohort := { c with em := x &&& c.present }
/-- Write a control register held per cohort. -/
def Cohort.crput (c : Cohort) (i : Nat) (x : Word) : Cohort := { c with cr := Store.set 0#32 c.cr i x }
/-- Write a window register. -/
def Cohort.winput (c : Cohort) (i : Nat) (w : Window) : Cohort := { c with win := Store.set Window.empty c.win i w }

/-- Replace the current cohort. -/
def State.setMe (s : State) (c : Cohort) : State := { s with me := c }
/-- Replace the current company. -/
def State.setCo (s : State) (c : Company) : State := { s with co := c }
/-- Replace the current context. -/
def State.setCx (s : State) (c : Context) : State := { s with cx := c }
/-- Replace the device. -/
def State.setDev (s : State) (d : Device) : State := { s with dev := d }

/-! ## Cohorts, companies and contexts that are not current -/

/-- Put a cohort among the cohorts of a company, in ascending index. -/
def insertCohort (c : Cohort) : List Cohort → List Cohort
  | [] => [c]
  | x :: xs => if c.j < x.j then c :: x :: xs else x :: insertCohort c xs

/-- Put a company among the companies, in ascending DSEQ. -/
def insertCompany (c : Company) : List Company → List Company
  | [] => [c]
  | x :: xs => if c.dseq < x.dseq then c :: x :: xs else x :: insertCompany c xs

/-- Put a context among the contexts, in ascending ASID. -/
def insertContext (c : Context) : List Context → List Context
  | [] => [c]
  | x :: xs => if c.asid < x.asid then c :: x :: xs else x :: insertContext c xs

/-- The current cohort goes back to its company. -/
def State.parkMe (s : State) : State :=
  if s.me.stat = .absent then s
  else { s with co := { s.co with cohorts := insertCohort s.me s.co.cohorts }, me := Cohort.null }

/-- The current company goes back to the others. -/
def State.parkCo (s : State) : State :=
  let s := s.parkMe
  if s.co.place = .absent then s
  else { s with dev := { s.dev with companies := insertCompany s.co s.dev.companies }, co := Company.null }

/-- The current context goes back to the others. -/
def State.parkCx (s : State) : State :=
  let s := s.parkCo
  if s.cx.alive = false then s
  else { s with dev := { s.dev with contexts := insertContext s.cx s.dev.contexts }, cx := Context.null }

/-- Make a context current. -/
def State.focusCx (s : State) (asid : Nat) : State :=
  if s.cx.alive && s.cx.asid == asid then s
  else
    let s := s.parkCx
    match s.dev.contexts.find? (fun c => c.asid == asid) with
    | some c => { s with cx := c, dev := { s.dev with contexts := s.dev.contexts.filter fun x => x.asid != asid } }
    | none => s

/-- Make a company and its context current. -/
def State.focusCo (s : State) (dseq : Nat) : State :=
  if s.co.place ≠ .absent ∧ s.co.dseq = dseq then s
  else match s.dev.companies.find? (fun c => c.dseq == dseq) with
    | some _ =>
      let s := s.parkCo
      match s.dev.companies.find? (fun c => c.dseq == dseq) with
      | some c =>
        let s := { s with dev := { s.dev with companies := s.dev.companies.filter fun x => x.dseq != dseq } }
        { s.focusCx c.asid with co := c }
      | none => s
    | none => s

/-- Make a cohort, its company and its context current. -/
def State.focus (s : State) (dseq j : Nat) : State :=
  if s.co.place ≠ .absent ∧ s.co.dseq = dseq ∧ s.me.stat ≠ .absent ∧ s.me.j = j then s
  else
    let s := s.focusCo dseq
    if s.co.place ≠ .absent ∧ s.co.dseq = dseq then
      let s := s.parkMe
      match s.co.cohorts.find? (fun c => c.j == j) with
      | some c => { s with me := c, co := { s.co with cohorts := s.co.cohorts.filter fun x => x.j != j } }
      | none => s
    else s

/-- Whether cohort (dseq, j) is the current one. -/
def State.isAt (s : State) (dseq j : Nat) : Bool :=
  s.co.place != .absent && s.co.dseq == dseq && s.me.stat != .absent && s.me.j == j

/-- Run an operation with a cohort current, then make the earlier one current again. A cohort that does not
exist changes nothing. -/
def State.onCohort (s : State) (dseq j : Nat) (f : State → State) : State :=
  let t := s.focus dseq j
  if t.isAt dseq j then
    let u := f t
    if s.isAt dseq j ∨ s.me.stat = .absent then u else u.focus s.co.dseq s.me.j
  else s

/-- Run an operation with a company current. -/
def State.onCompany (s : State) (dseq : Nat) (f : State → State) : State :=
  let t := s.focusCo dseq
  if t.co.place ≠ .absent ∧ t.co.dseq = dseq then
    let u := f t
    if s.me.stat = .absent then u else u.focus s.co.dseq s.me.j
  else s

/-- Run an operation with a context current. -/
def State.onContext (s : State) (asid : Nat) (f : State → State) : State :=
  let t := s.focusCx asid
  if t.cx.alive && t.cx.asid == asid then
    let u := f t
    if s.me.stat = .absent then u else u.focus s.co.dseq s.me.j
  else s

/-- The current company with all its cohorts. -/
def State.coAll (s : State) : Company :=
  if s.me.stat = .absent then s.co else { s.co with cohorts := insertCohort s.me s.co.cohorts }

/-- Every company, in ascending DSEQ. -/
def State.companies (s : State) : List Company :=
  if s.co.place = .absent then s.dev.companies else insertCompany s.coAll s.dev.companies

/-- Every context, in ascending ASID. -/
def State.contexts (s : State) : List Context :=
  if s.cx.alive then insertContext s.cx s.dev.contexts else s.dev.contexts

/-- The context of an ASID. -/
def State.context? (s : State) (asid : Nat) : Option Context := s.contexts.find? fun c => c.asid == asid

/-- Change every cohort of a context's companies. -/
def State.mapCohorts (s : State) (asid : Nat) (f : Cohort → Cohort) : State :=
  let g (c : Company) : Company := if c.asid = asid then { c with cohorts := c.cohorts.map f } else c
  { s with
    me := if s.co.asid = asid ∧ s.me.stat ≠ .absent then f s.me else s.me
    co := g s.co
    dev := { s.dev with companies := s.dev.companies.map g } }

/-- The core a company is on. -/
def Company.coreOf (c : Company) : Option Nat :=
  match c.place with
  | .core k => some k
  | _ => none

/-- The core number of the current cohort (R12); 0 for a company on none. -/
def State.core (s : State) : Nat := s.co.coreOf.getD 0
/-- The hall of the current cohort (R12). -/
def State.hall (s : State) : Nat := s.core / 128

/-! ## Trap registers -/

/-- cr.tcause: class, code and subcause (Table 14-3). -/
def tcause (cls code sub : Nat) : Word := BitVec.ofNat 32 (cls * 2 ^ 24 + code * 2 ^ 16 + sub)

/-- Write the trap registers of an entry or a stop (Table 14-3). -/
def Cohort.trapRegs (c : Cohort) (cls code sub : Nat) (mask : Mask) (imm : Nat) (pc : VAddr) : Cohort :=
  ((((((((c.crput 0x50 (tcause cls code sub)).crput 0x51 (BitVec.ofNat 32 pc.toNat)).crput 0x52 (BitVec.ofNat 32 (pc.toNat / 2 ^ 32))).crput
    0x53 (lo32 c.em)).crput 0x54 (hi32 c.em)).crput 0x55 (lo32 mask)).crput 0x56 (hi32 mask)).crput 0x57 (BitVec.ofNat 32 imm)).crput
    0x58 c.clause

/-! ## Recording -/

/-- RECCTL.MODE (Table 15-1). -/
def State.recMode (s : State) : Nat := bits (s.dev.reg 0x60000) 17 16

/-- Whether recorders make records: ACTIVE, and recording has not ended (R392, R393). -/
def State.recLive (s : State) : Bool := bit (s.dev.reg 0x60000) 31 && s.recMode != 0 && !s.dev.recUnit.closing

/-- Whether the current context is being recorded or replayed (R392). -/
def State.recording (s : State) : Bool := s.recLive && bits (s.dev.reg 0x60000) 11 0 == s.cx.asid

/-- CHK of a chunk's write stream (R398). -/
def chkOf (bs : List Byte) : Nat :=
  if bs.isEmpty then 0 else (((crc32 bs) >>> 16) ^^^ ((crc32 bs) &&& 0xFFFF#32)).toNat

/-- Stop every cohort of the current context at its next boundary and save it as HALT does (R322). -/
def State.haltAs (s : State) (wid : DWord) (pc : VAddr) : State :=
  let s := s.mapCohorts s.cx.asid fun c => if c.stat = .ended then c else { c with stopDue := 3 }
  let k := ((s.cx.launches.find? fun l => l.lseq == s.co.lseq).map fun l => (l.qid, l.csn)).getD (0xFFFF, 0)
  { s with cx := { s.cx with stat := .saving true, halter := some (wid, pc, k.1, k.2) } }

/-- #RDIV: record the first divergence of a replay and stop the context (R402). -/
def State.diverge (s : State) (cause : Nat) : State :=
  let d := if bit (s.dev.reg 0x60020) 63 then s.dev
    else (s.dev.setReg 0x60020 (2 ^ 63 + cause * 2 ^ 56 + s.me.j * 2 ^ 40 + s.co.dseq % 2 ^ 40)).setReg 0x60028 s.me.chunkNo
  ({ s with dev := d, me := s.me.trapRegs 4 16 cause s.me.em 0 s.me.pc }).haltAs s.me.wid s.me.pc

/-- The record that closes the open chunk of the current cohort, with the chunk begun anew (R394). -/
def State.closeChunk (s : State) (kind payload : Nat) : State × Rec :=
  ({ s with me := { s.me with chunkN := 0, wlog := [], chunkNo := (s.me.chunkNo + 1) % 2 ^ 32 } },
   { kind := kind, core := s.core % 16, slot := s.me.slot, chk := chkOf s.me.wlog, chunk := s.me.chunkNo % 2 ^ 16,
     icnt := s.me.chunkN, payload := payload })

/-- The records that a replay expects of the current cohort, in order (R401). -/
def State.expectedAll (s : State) : List Rec :=
  (s.dev.recUnit.expect.filter fun p => p.1 == s.core / 16 && p.2.core == s.core % 16 && p.2.slot == s.me.slot).map (·.2)

/-- The next record that a replay expects of the current cohort (R401). -/
def State.expected (s : State) : Option Rec := s.expectedAll.head?

/-- Write a record of the current cohort, or in replay compare it with the log (R394, R401, R402). -/
def State.emitRec (s : State) (r : Rec) : State :=
  if s.recMode = 3 then
    let mine (p : Nat × Rec) : Bool := p.1 == s.core / 16 && p.2.core == r.core && p.2.slot == r.slot
    match s.expected with
    | some e =>
      let t := { s with dev := { s.dev with recUnit := { s.dev.recUnit with expect := s.dev.recUnit.expect.eraseP mine } } }
      if e.kind ≠ r.kind ∨ e.icnt ≠ r.icnt ∨ (r.kind = 1 ∧ e.payload ≠ r.payload) then t.diverge 2
      else if e.chk ≠ r.chk then t.diverge 1 else t
    | none => s.diverge 5
  else { s with dev := { s.dev with recUnit := s.dev.recUnit.add (s.core / 16) r (s.dev.clocks.getD s.hall 0#64) } }

/-- The event of a cohort that closes its chunk (R394). -/
def State.log (s : State) (kind payload : Nat) : State :=
  if s.recording then
    let p := s.closeChunk kind payload
    p.1.emitRec p.2
  else s

/-- An event that the atrium's recorder logs (R392, R394). -/
def State.logAtrium (s : State) (kind icnt payload : Nat) : State :=
  if s.recLive && s.recMode != 3 then
    let u := s.dev.recUnit
    let r : Rec := { kind := kind, core := 0, slot := 0, chk := 0, chunk := u.atrium % 2 ^ 16, icnt := icnt, payload := payload }
    { s with dev := { s.dev with recUnit := { u.add 32 r (s.dev.clocks.getD 4 0#64) with atrium := u.atrium + 1 } } }
  else s

/-- Take the SERIAL of a place for an operation of the recorded context (R397). -/
def State.takeSerial (s : State) (place : Nat) : State × Nat :=
  let n := Store.get 0 s.dev.recUnit.serial place
  ({ s with dev := { s.dev with recUnit := { s.dev.recUnit with
      serial := Store.set 0 s.dev.recUnit.serial place ((n + 1) % 2 ^ 32) } } }, n)

/-- An operation of the recorded context at a place takes its SERIAL and is recorded (R397). -/
def State.logPlace (s : State) (kind place : Nat) : State :=
  if s.recording then
    let p := s.takeSerial place
    p.1.log kind (place * 2 ^ 32 + p.2)
  else s

/-- Whether the current cohort replays a recording (R401). -/
def State.replays (s : State) : Bool := s.recording && s.recMode == 3

/-- Whether a record is of an operation at a place (Table 15-4). -/
def Rec.isAt (e : Rec) (place : Nat) : Bool := (e.kind == 1 || e.kind == 2) && e.payload / 2 ^ 32 == place

/-- Whether the SERIAL of a record's place is the recorded one (R401). -/
def State.serialDue (s : State) (e : Rec) : Bool := e.payload % 2 ^ 32 == Store.get 0 s.dev.recUnit.serial (e.payload / 2 ^ 32)

/-- Whether a replay holds an instruction whose operations are at places, in order, until each one's record is supplied and its
recorded SERIAL is due (R401). -/
def State.replayHoldsAll (s : State) (places : List Nat) : Bool :=
  s.replays && (decide (s.expectedAll.length < places.length) || (places.zip s.expectedAll).any fun p =>
    p.2.isAt p.1 && !s.serialDue p.2)

/-- Whether a replay holds an operation at a place until its recorded SERIAL is due (R401). -/
def State.replayHolds (s : State) (place : Nat) : Bool := s.replayHoldsAll [place]

/-- Whether a replay bars a trap, warning, stop, spill or reload of the current cohort: its next record is none of these kinds, or
its instruction count is not reached (R401). -/
def State.replayBars (s : State) (kinds : List Nat) : Bool :=
  s.replays && !(s.expected.any fun e => kinds.contains e.kind && e.icnt == s.me.chunkN)

/-- Whether a replay holds the current cohort at this boundary for the stop or spill that its next record names (R401). -/
def State.stopHeld (s : State) : Bool :=
  s.replays && s.expected.any fun e => e.icnt == s.me.chunkN && (e.kind == 8 || (e.kind == 5 && e.payload % 4 == 1))

/-- Whether a replay bars the stop that is due, which occurs after the logged instruction count: a pre-emption's by its STOP record, or
the TRAP record of #LATE before it, and a spill's by its SPILL record; the stops of HALT and of a breakpoint belong to the replay itself
(R401, R403). -/
def State.stopBarred (s : State) : Bool :=
  match s.me.stopDue with
  | 1 => s.replayBars [5]
  | 2 => s.cx.stat != .saving true && s.replayBars [4, 5]
  | 5 => s.replayBars [8]
  | _ => false

/-- Append a write to the checksum stream of the chunk (R398). -/
def State.logWrite (s : State) (addr : Nat) (bs : List Byte) : State :=
  if s.recording then { s with me := { s.me with wlog := s.me.wlog ++ leBytes 8 addr ++ bs } } else s

/-! ## Counters and retirement -/

/-- Add to an operation counter, which saturates (R409, R410). -/
def State.count (s : State) (i n : Nat) : State :=
  if n = 0 then s
  else
    let v := (Store.get 0#64 s.cx.cnt i).toNat + n
    if v < 2 ^ 64 then { s with cx := { s.cx with cnt := Store.set 0#64 s.cx.cnt i (BitVec.ofNat 64 v) } }
    else { s with cx := { s.cx with cnt := Store.set 0#64 s.cx.cnt i (BitVec.allOnes 64), sat := s.cx.sat ||| (1#128 <<< i) } }

/-- The instruction of `n` bytes retires: the pc passes it and it is counted (R389, R394); the handler's own leave the run of
faults of the instruction that it serves (R51). -/
def Cohort.retire (c : Cohort) (n : Nat) : Cohort :=
  { c with pc := c.pc + BitVec.ofNat 56 n, icount := c.icount + 1, chunkN := c.chunkN + 1
           faults := if c.handler then c.faults else 0, held := false, wait := .none }

/-- The instruction of `n` bytes retires. -/
def State.retire (s : State) (n : Nat) : State := { s with me := s.me.retire n }

/-- The instruction waits and will be issued again (R332). -/
def State.waitOn (s : State) (w : Wait) : State := { s with me := { s.me with wait := w, active := false } }

/-! ## Traps -/

/-- Payload of a TRAP record (Table 15-4). -/
def trapPayload (code sub what : Nat) : Nat := what * 2 ^ 24 + sub % 2 ^ 16 * 2 ^ 8 + code

/-- A queue-level trap stops its cohort at the instruction and reports it (R375, R376). -/
def State.queueTrap (s : State) (code sub : Nat) (mask : Mask) (imm : Nat) : State :=
  let s := { s with me := { s.me.trapRegs 2 code sub mask imm s.me.pc with stat := .trapped, wait := .none } }
  let s := { s with cx := { s.cx with reports := s.cx.reports ++ [(s.co.dseq, s.me.j, code, s.me.wid)] } }
  s.log 4 (trapPayload code sub 3)

/-- A queue-level #ADR, #BND, #PF or #ALN of an access or a fetch: a #PF or #ADR raised at supervisor privilege inside
the handler is #PF NESTED (R51). -/
def State.accessTrap (s : State) (code sub : Nat) (mask : Mask) : State :=
  if s.me.priv ∧ (code = 2 ∨ code = 4) then s.queueTrap 4 10 mask 0 else s.queueTrap code sub mask 0

/-- #ILL with a cause of R217. -/
def State.ill (s : State) (cause : Nat) : State := s.queueTrap 1 cause s.me.present 0

/-! ## Fetching -/

/-- A byte that a fetch reads at a target; another device's bytes are free values (log entry 9). -/
def fetchByte (s : State) (l : Loc) (i : Nat) : Byte :=
  match l with
  | .mem off => s.dev.hallByte s.hall (off + i)
  | .ctrl off => BitVec.ofNat 8 (s.dev.reg ((off + i) / 8 * 8) / 2 ^ (8 * ((off + i) % 8)))
  | .far h off => Config.farByte s.free (h * 2 ^ 48 + off + i)
  | .host off => Config.farByte s.free (hostBase + off + i)
  | _ => 0#8

/-- Whether a fetch at a target waits for a line in E (R83). -/
def Device.codeHeld (d : Device) : Loc → Bool
  | .mem off => d.ownedLine (off / 64)
  | _ => false

/-- Fetch a 16-bit parcel at an address: none when the fetch does not perform, or not yet (R23, R46, R83, R199). -/
def State.fetchParcel (s : State) (priv : Bool) (va : Nat) : State × Option (List Byte) :=
  let p := translate s.dev s.co.asid priv .fetch .plain va
  let s := { s with dev := p.1 }
  match p.2 with
  | .at l => (s, if s.dev.codeHeld l then none else some [fetchByte s l 0, fetchByte s l 1])
  | _ => (s, none)

/-- Whether the first of `n` parcels from an address that is not fetched waits: for a carve change, or for a line in E (R23, R83). -/
def State.codeWaits (s : State) (priv : Bool) (va : Nat) : Nat → Bool
  | 0 => false
  | n + 1 =>
    let p := translate s.dev s.co.asid priv .fetch .plain va
    match p.2 with
    | .at l => p.1.codeHeld l || State.codeWaits { s with dev := p.1 } priv (va + 2) n
    | .wait => true
    | .fault _ => false

/-- Fetch a 32-bit word as two parcels. -/
def State.fetchWord (s : State) (priv : Bool) (va : Nat) : State × Option Word :=
  match s.fetchParcel priv va with
  | (s, some p) =>
    match s.fetchParcel priv (va + 2) with
    | (s, some q) => (s, some (BitVec.ofNat 32 (leNat (p ++ q))))
    | (s, none) => (s, none)
  | (s, none) => (s, none)

/-- Whether a word is a clause header (R209). -/
def isHeader (w : Word) : Bool := w.extractLsb' 2 6 == 0#6 && w.getLsbD 0

/-! ## Entering the supervisor handler -/

/-- Whether every earlier instruction has retired and every flag is zero (R373): no operation is outstanding that
reads or writes registers of the cohort. -/
def Cohort.drained (c : Cohort) : Bool :=
  c.f.isEmpty && c.ops.all fun o => o.stage != .issued || o.kind == .fence || o.kind == .store || o.kind == .storeZ

/-- The lanes of a frame with the lowest lane of each 64 KiB page (UNIQ of Table 2-8). -/
def Frame.uniq (f : Frame) : Mask :=
  maskOf ((f.lanes.filter fun l => !(f.lanes.any fun k => decide (k.1 < l.1) && k.2.2 / 0x10000 == l.2.2 / 0x10000)).map (·.1))

/-- Write the fault frame of the current cohort (R49, Table 2-8). -/
def State.writeFrame (s : State) (f : Frame) (mask : Mask) : State :=
  let a := bits (s.dev.reg 0x2200) 47 24 * 0x1000000 + s.core * 0x8000 + s.me.slot * 0x400
  let cell (i : Nat) : Option (Nat × Nat × Nat) := f.lanes.find? fun l => l.1 == i
  let head := leBytes 8 mask.toNat ++ leBytes 8 f.uniq.toNat ++ leBytes 8 s.me.pc.toNat
    ++ leBytes 8 f.ptgen.toNat ++ leBytes 2 s.co.asid ++ leBytes 1 f.kind ++ leBytes 1 f.size
    ++ List.replicate 28 0#8
  let cause := (List.range 64).flatMap fun i => leBytes 1 (((cell i).map (·.2.1)).getD 0)
  let vas := (List.range 64).flatMap fun i => leBytes 8 (((cell i).map (·.2.2)).getD 0)
  { s with dev := s.dev.putP a (head ++ cause ++ vas) 0#64 }

/-- cr.fframe: the supervisor address of the cohort's fault frame (R49). -/
def State.frameVa (s : State) : Nat := bits (s.dev.reg 0x2208) 55 24 * 0x1000000 + s.core * 0x8000 + s.me.slot * 0x400

/-- Enter the supervisor handler (R373, steps 2 to 4). -/
def State.enter (s : State) (t : Entry14) : State :=
  let s := match t.frame with
    | some f =>
      let s := s.writeFrame f t.mask
      { s with me := (s.me.crput 0x30 (BitVec.ofNat 32 s.frameVa)).crput 0x31 (BitVec.ofNat 32 (s.frameVa / 2 ^ 32)) }
    | none => s
  let vec := s.dev.reg 0x6018 % 2 ^ 56
  let back (s : State) : State := { s with me := { s.me with stat := .running, pc := t.pc } }
  let p := s.fetchWord true vec
  match p.2 with
  | some w =>
    if isSup vec && isHeader w then
      let me := p.1.me.trapRegs t.cls t.code t.sub t.mask t.imm t.pc
      ({ p.1 with me := { me with
          em := if t.keepEm then me.em else t.mask &&& me.present, priv := true, handler := true, f := [],
          pc := BitVec.ofNat 56 vec, stat := .running, wait := .none } }).log 4 (trapPayload t.code t.sub 0)
    else (back p.1).ill 7
  | none => if s.codeWaits true vec 2 then { s with me := { s.me with stat := .entering t } } else (back p.1).ill 7

/-- An in-lane trap (R370, R373): at supervisor privilege it is #PF NESTED (R51); the 256th #PF in a row of one
instruction is #PF LOOP (R51); otherwise the cohort enters the handler once it is drained. -/
def State.inLane (s : State) (t : Entry14) : State :=
  if s.me.priv then s.queueTrap 4 10 t.mask 0
  else if t.code = 4 ∧ 255 ≤ s.me.faults then s.queueTrap 4 9 t.mask 0
  else
    let s := { s with me := { s.me with faults := if t.code = 4 then s.me.faults + 1 else s.me.faults } }
    if s.me.drained then s.enter t else { s with me := { s.me with stat := .entering t } }

/-! ## Warnings and fabric errors -/

/-- Whether a warning is entered (R377). -/
def State.entersWarnings (s : State) : Bool := s.cx.tctl.getLsbD 1 && !s.me.priv

/-- Record a warning: its bit in cr.wstat and COUNT (R377). -/
def State.warn (s : State) (b code sub : Nat) : State :=
  let n := (s.cx.wstat &&& 0xFFFF#32).toNat
  let w := (s.cx.wstat &&& 0xFFFF0000#32) ||| (1#32 <<< b) ||| BitVec.ofNat 32 (min (n + 1) 0xFFFF)
  ({ s with cx := { s.cx with wstat := w } }).log 4 (trapPayload code sub 2)

/-- Enter the handler for a warning at an instruction boundary (R377). -/
def State.enterWarning (s : State) (code sub : Nat) : State :=
  if s.entersWarnings && s.me.stat == .running then
    let t : Entry14 := { cls := 3, code := code, sub := sub, mask := 0#64, imm := 0, pc := s.me.pc, keepEm := true, frame := none }
    if s.me.drained then s.enter t else { s with me := { s.me with stat := .entering t } }
  else s

/-- Deliver the #SRW of the instruction that has just retired (R174, R377). -/
def State.deliverSrw (s : State) : State :=
  match s.me.srw with
  | some (tid, prev) =>
    let s := { s with me := { (s.me.crput 0x5C tid).crput 0x5D prev with srw := none } }
    (s.warn 31 13 0).enterWarning 13 0
  | none => s

/-- Completion with error status (R113, Table 4-4). -/
def Cohort.ferr (c : Cohort) (dev : Nat) (mcast : Bool) : Cohort :=
  let x := c.crget 0x21
  let x := if x.getLsbD 31 then x else (x &&& 0xFFFFFC00#32) ||| BitVec.ofNat 32 (dev % 1024) ||| 0x80000000#32
  c.crput 0x21 (if mcast then x ||| 0x40000000#32 else x)

/-- Set a bit of cr.diag (Table 8-8). -/
def Cohort.unalloc (c : Cohort) (b : Bool) : Cohort := if b then c.crput 0x40 (c.crget 0x40 ||| 0x80000000#32) else c

/-- Add 1 to cr.diag.ILCNT, which stops at 0xFFFF (R212). -/
def Cohort.ilcnt (c : Cohort) : Cohort :=
  let x := c.crget 0x40
  if x &&& 0xFFFF#32 = 0xFFFF#32 then c else c.crput 0x40 (x + 1#32)

/-! ## Vector registers of a core -/

/-- The vector floor of a cohort (R186). -/
def Company.vfloor (h : Company) (role : Nat) : Nat := if role = 0 then h.hdr.vfloor0 else h.hdr.vfloor1

/-- The physical vector registers a company takes: of each cohort its floor or what it holds, if more (R206, R326). -/
def Company.vused (h : Company) : Nat := (h.cohorts.map fun c => max (h.vfloor c.role) c.vcount).foldl (· + ·) 0

/-- The free vector registers of a core (R206, R326). -/
def State.vfreeOf (s : State) (core : Nat) : Nat :=
  1024 - ((s.companies.filter fun c => c.coreOf == some core).map Company.vused).foldl (· + ·) 0

/-- Whether a company waits for a resource of a kind: a cohort stalls on it, or what a forced spill took is to be reloaded (R340). -/
def Company.awaits (h : Company) (w : Wait) : Bool :=
  (h.cohorts.any fun c => c.stat == .running && c.wait == w) || (match w, h.spill with
    | .allocV, some sp => !sp.regs.isEmpty
    | .allocT, some sp => !sp.tiles.isEmpty
    | .allocG, some _ => h.slots.any fun x => x.returned
    | _, _ => false)

/-- Whether an older company of the core waits for a resource of the kind: freed resources go to the oldest request (R340). -/
def State.older (s : State) (h : Company) (core : Nat) (w : Wait) : Bool :=
  s.companies.any fun x => x.coreOf == some core && decide (x.dseq < h.dseq) && x.awaits w

/-- Whether the current cohort can allocate `n` more names: from its floor, then from the core's pool, for which no older request
waits (R206, R340). -/
def State.canAlloc (s : State) (n : Nat) : Bool :=
  let fl := s.co.vfloor s.me.role
  decide (s.me.vcount + n ≤ fl) || n == 0 ||
    (decide (s.me.vcount + n - max fl s.me.vcount ≤ s.vfreeOf s.core) && !s.older s.co s.core .allocV)

/-! ## The key-use filter -/

/-- Whether the current cohort has issued no SR instruction since another cohort last changed the key or step (R172). -/
def State.srNear (s : State) : Bool := s.cx.srStale.contains (s.co.dseq, s.me.j)

/-- Whether an SR instruction that issues around a change by another cohort uses the new values: in replay as its SRKV record says, else
either, a free choice (R172, R401; log entry 86). -/
def State.srNew (s : State) : Bool :=
  if s.replays then !(s.expected.any fun e => e.kind == 9 && e.payload % 2 == 0) else (Config.freeWord s.free).getLsbD 0

/-- The key and step that an SR instruction of the current cohort reads, once, at issue (R172). -/
def State.srKeys (s : State) : List Word × Word :=
  if s.srNear && !s.srNew then s.cx.srOld else (s.cx.key, s.cx.step)

/-- Record which of the old and the new key and step an SR instruction used (R172, Table 15-2). -/
def State.logSrKey (s : State) : State :=
  let who := (s.co.dseq, s.me.j)
  if s.srNear then
    ({ s with free := s.free + 1, cx := { s.cx with srStale := s.cx.srStale.filter fun p => p != who } }).log 9 (if s.srNew then 1 else 0)
  else s

/-- One sr_check of the current cohort's launch (R174). -/
def State.srCheck (s : State) (tid : Word) : State :=
  let lseq := s.co.lseq
  match s.cx.filter.find? (fun e => e.1 == tid) with
  | some (_, prev) =>
    if prev = lseq then s
    else
      let fl := s.cx.filter.map fun e => if e.1 = tid then (e.1, lseq) else e
      { s with cx := { s.cx with filter := fl, srwWarn := true }, me := { s.me with srw := some (tid, prev) } }
  | none =>
    let full := decide (64 ≤ s.cx.filter.length)
    let fl := (if full then s.cx.filter.drop 1 else s.cx.filter) ++ [(tid, lseq)]
    { s with cx := { s.cx with filter := fl, srwEvict := s.cx.srwEvict || full } }

/-! ## Free values -/

/-- Draw a free word. -/
def State.drawWord (s : State) : State × Word := ({ s with free := s.free + 1 }, Config.freeWord s.free)

/-- Let the clock of a die advance by a free number of cycles and read it (R31, log entry 4). -/
def State.readClock (s : State) (die : Nat) : State × DWord :=
  let v := s.dev.clocks.getD die 0#64 + BitVec.ofNat 64 (Config.tick s.free)
  ({ s with free := s.free + 1, dev := { s.dev with clocks := s.dev.clocks.set die v } }, v)

end Sys2Proof.Machine
end

