-- ==== Sys2Proof/Machine/Operands.lean ====
section
/-!
DEFINITION. Operands: reading vectors, scalars and literals (R204), the uniform bit (R208), last-read marks
(R205), allocation (R206), consumption of poison (R380), and the one operation each for a vector, a
predicate and a scalar destination (R207).
-/
namespace Sys2Proof

/-! ## The b operand -/

/-- The b operand of a lane instruction as a word per lane (R204). -/
def BOp.rd (b : BOp) (c : Machine.Cohort) : Nat → Word :=
  match b with
  | .v r => (c.vget r.toNat).lane
  | .s r => fun _ => c.sget r.toNat
  | .lit w => fun _ => w

/-- The vector names that a b operand reads. -/
def BOp.vs (b : BOp) : List Nat :=
  match b with
  | .v r => [r.toNat]
  | _ => []

/-- The scalars that a b operand reads. -/
def BOp.ss (b : BOp) : List Nat :=
  match b with
  | .s r => [r.toNat]
  | _ => []

/-- The bytes of an instruction with a b operand: a literal follows the word (R199). -/
def BOp.len (b : BOp) : Nat :=
  match b with
  | .lit _ => 8
  | _ => 4

/-- The b operand of a scalar instruction (R204). -/
def SOp.rd (b : SOp) (c : Machine.Cohort) : Word :=
  match b with
  | .s r => c.sget r.toNat
  | .lit w => w

/-- The scalars that a scalar b operand reads. -/
def SOp.ss (b : SOp) : List Nat :=
  match b with
  | .s r => [r.toNat]
  | .lit _ => []

/-- The bytes of a scalar instruction (R199). -/
def SOp.len (b : SOp) : Nat :=
  match b with
  | .lit _ => 8
  | .s _ => 4

end Sys2Proof

namespace Sys2Proof.Machine

/-! ## Reading -/

/-- The lanes whose sources an instruction reads: lane l alone under U = 1 (R208). -/
def Cohort.readers (c : Cohort) (u : Bool) : Mask :=
  if u then (match lowestLane c.act with
    | some l => 1#64 <<< l
    | none => 0#64)
  else c.act

/-- The lane whose sources give lane `i` its result (R208). -/
def Cohort.src (c : Cohort) (u : Bool) (i : Nat) : Nat := if u then (lowestLane c.act).getD 0 else i

/-- The poisoned lanes that an instruction consumes from vectors (R380). -/
def Cohort.eats (c : Cohort) (u : Bool) (vs : List Nat) : Mask :=
  vs.foldl (fun m r => m ||| ((c.vget r).poison &&& c.readers u)) 0#64

/-- The fault mask of the #MCE that sources raise; 0 for none (R380). -/
def Cohort.mce (c : Cohort) (u : Bool) (vs ss : List Nat) : Mask :=
  if ss.any c.spoison && c.act != 0#64 then c.present else c.eats u vs

/-- Free names (R205). -/
def Cohort.freeAll (c : Cohort) (rs : List Nat) : Cohort := rs.foldl Cohort.vfree c

/-- Whether an active lane reads an unallocated name (R206, R225). -/
def Cohort.misses (c : Cohort) (vs : List Nat) : Bool :=
  vs.any (fun r => !c.allocated r) && c.act != 0#64

/-! ## Vector destinations -/

/-- What a lane instruction reads and writes. -/
structure LaneJob where
  /-- Bytes of the instruction. -/
  n : Nat
  u : Bool
  vs : List Nat
  ss : List Nat
  frees : List Nat
  d : Nat
  /-- The write covers all 32 bits of a word (R381). -/
  full : Bool
  /-- The counter of Table 15-12 and its amount per performing lane. -/
  cnt : Option (Nat × Nat)
  /-- The result of a lane from its sources. -/
  res : Nat → Word
  /-- What a lane's word becomes from its old contents and the result: the result, or a part replaced (R237). -/
  put : Word → Word → Word

/-- Write the active lanes of a vector name (R207): nothing when no lane is active. -/
def Cohort.writeLanes (c : Cohort) (d : Nat) (m : Mask) (full : Bool) (f : Nat → Word) : Cohort :=
  if m = 0#64 then c
  else
    let old := c.vget d
    let new := old.merge m f
    c.vput d (if full then new else { new with poison := old.poison })

/-- Count the performing lanes: one under U = 1 (R409). -/
def State.countLanes (s : State) (u : Bool) (cnt : Option (Nat × Nat)) : State :=
  match cnt with
  | some (i, k) => s.count i (k * (if u then min 1 (popcount s.me.act) else popcount s.me.act))
  | none => s

/-- The cohort after a lane instruction, before it retires: the bits that a partial write keeps are read, as its sources are, before
a mark frees the name (R205, R237). -/
def Cohort.laneStep (c : Cohort) (j : LaneJob) : Cohort :=
  let c1 := (c.unalloc (c.misses j.vs)).freeAll j.frees
  c1.writeLanes j.d c.act j.full fun i => j.put ((c.vget j.d).lane i) (j.res (c.src j.u i))

/-- A lane instruction with a vector destination: consumed poison raises #MCE, a destination without a register
waits for one, and otherwise the active lanes are written, the instruction retires and `after` follows. -/
def laneThen (j : LaneJob) (after : State → State) (s : State) : State :=
  let m := s.me.mce j.u j.vs j.ss
  if m ≠ 0#64 then s.queueTrap 6 1 m 0
  else
    let freed := s.me.freeAll j.frees
    if s.me.act ≠ 0#64 ∧ freed.allocated j.d = false ∧ (s.setMe freed).canAlloc 1 = false then s.waitOn .allocV
    else after (((s.setMe (s.me.laneStep j)).countLanes j.u j.cnt).retire j.n)

/-- The result replaces the whole word. -/
def putWhole (_old new : Word) : Word := new

/-- A lane instruction after which nothing more happens. -/
def laneOp (j : LaneJob) (s : State) : State := laneThen j id s

/-- A two-source lane instruction `f a b`. -/
def lane2 (cnt : Option (Nat × Nat)) (f : Word → Word → Word) (o : Lane2) (s : State) : State :=
  let c := s.me
  laneOp { n := o.b.len, u := o.u, vs := o.a.toNat :: o.b.vs, ss := o.b.ss
           frees := (if o.ma then [o.a.toNat] else []) ++ (if o.mb then o.b.vs else [])
           d := o.d.toNat, full := true, put := putWhole, cnt := cnt
           res := fun i => f ((c.vget o.a.toNat).lane i) (o.b.rd c i) } s

/-- A lane instruction with two sources and the old destination: `f d a b`. -/
def lane3 (cnt : Option (Nat × Nat)) (f : Word → Word → Word → Word) (o : Lane2) (s : State) : State :=
  let c := s.me
  laneOp { n := o.b.len, u := o.u, vs := o.d.toNat :: o.a.toNat :: o.b.vs, ss := o.b.ss
           frees := (if o.ma then [o.a.toNat] else []) ++ (if o.mb then o.b.vs else [])
           d := o.d.toNat, full := true, put := putWhole, cnt := cnt
           res := fun i => f ((c.vget o.d.toNat).lane i) ((c.vget o.a.toNat).lane i) (o.b.rd c i) } s

/-- A unary lane instruction `f b`. -/
def lane1 (cnt : Option (Nat × Nat)) (f : Word → Word) (o : Lane1) (s : State) : State :=
  let c := s.me
  laneOp { n := o.b.len, u := o.u, vs := o.b.vs, ss := o.b.ss, frees := if o.mb then o.b.vs else []
           d := o.d.toNat, full := true, put := putWhole, cnt := cnt, res := fun i => f (o.b.rd c i) } s

/-- A 16-bit instruction `f d s` that reads its destination (R200). -/
def half2 (cnt : Option (Nat × Nat)) (f : Word → Word → Word) (o : Op16) (s : State) : State :=
  let c := s.me
  laneOp { n := 2, u := o.u, vs := [o.d.toNat, o.s.toNat], ss := [], frees := [], d := o.d.toNat, full := true, put := putWhole, cnt := cnt
           res := fun i => f ((c.vget o.d.toNat).lane i) ((c.vget o.s.toNat).lane i) } s

/-- A 16-bit instruction `f s` (R200). -/
def half1 (cnt : Option (Nat × Nat)) (f : Word → Word) (o : Op16) (s : State) : State :=
  let c := s.me
  laneOp { n := 2, u := o.u, vs := [o.s.toNat], ss := [], frees := [], d := o.d.toNat, full := true, put := putWhole, cnt := cnt
           res := fun i => f ((c.vget o.s.toNat).lane i) } s

/-! ## Scalar destinations -/

/-- A scalar instruction: its sources are consumed whatever em holds; it writes and retires (R207, R242). -/
def scalarOp (n : Nat) (ss : List Nat) (f : Cohort → Cohort) (s : State) : State :=
  if ss.any s.me.spoison then s.queueTrap 6 1 s.me.present 0
  else (s.setMe (f s.me)).retire n

end Sys2Proof.Machine
end

