-- ==== Sys2Proof/WellFormed.lean ====
section
/-!
DEFINITION. The static checks on an instruction's operands: what makes its encoding #ILL at decode with
cause OPC, FIELD or MARK (08 R162, R203 to R205, R217, R219; Tables 9-1, 10-1 and 11-1).
-/
namespace Sys2Proof

/-- Whether a register number names a pair's low half (R203). -/
def isPair (r : Reg) : Bool := r != 63#6
/-- Whether a register number names a predicate (R203). -/
def isPred (r : Reg) : Bool := decide (r.toNat < 32)
/-- Whether a group of `n` registers from `r` ends at 63 or below (R203). -/
def fits (r : Reg) (n : Nat) : Bool := decide (r.toNat + n ≤ 64)
/-- Whether a code names a rounding mode (R162). -/
def isRound (r : BitVec 3) : Bool := decide (r.toNat ≤ 4)

/-- FIELD unless a condition holds. -/
def fieldUnless (c : Bool) : Option IllCause := if c then none else some .field
/-- OPC unless the first condition holds, else FIELD unless the second does. -/
def opcFieldUnless (c f : Bool) : Option IllCause := if c then fieldUnless f else some .opc

/-- A scalar b operand is s0 to s62; a mark needs a vector (R204, R205). -/
def BOp.ill (b : BOp) (mb : Bool) : Option IllCause :=
  match b with
  | .v _ => none
  | .s r => if r = 63#6 then some .field else if mb then some .mark else none
  | .lit _ => if mb then some .mark else none

/-- The static cause of a two-source lane instruction. -/
def Lane2.ill (o : Lane2) : Option IllCause := o.b.ill o.mb
/-- The static cause of a compare, whose destination is a predicate (R230). -/
def Lane2.cmpIll (o : Lane2) : Option IllCause := if isPred o.d then o.b.ill o.mb else some .field
/-- The static cause of a unary lane instruction. -/
def Lane1.ill (o : Lane1) : Option IllCause := o.b.ill o.mb
/-- The static cause of a shuffle. -/
def Shfl.ill (o : Shfl) : Option IllCause := o.b.ill o.mb

/-- Registers of one lane that a size code of Table 8-10 moves. -/
def sizeRegs (z : BitVec 3) : Nat := if z = 6#3 then 4 else if z = 5#3 then 2 else 1
/-- Bytes that a size code of Table 8-10 moves. -/
def sizeBytes (z : BitVec 3) : Nat :=
  match z.toNat with
  | 0 => 1
  | 1 => 1
  | 2 => 2
  | 3 => 2
  | 4 => 4
  | 5 => 8
  | 6 => 16
  | _ => 0

/-- Without the ordering bit the scope must be 0 (R219). -/
def scopeOk (o : Bool) (c : BitVec 2) : Bool := o || c == 0#2

/-- The registers TCVT writes (Table 11-6). -/
def tcvtRegs (f : BitVec 3) : Nat :=
  match f.toNat with
  | 0 => 8
  | 1 => 8
  | 2 => 4
  | 3 => 4
  | 4 => 2
  | 5 => 4
  | 6 => 2
  | _ => 0

/-- The static cause of #ILL of an instruction: OPC before FIELD before MARK (R217). -/
def Instr.ill (i : Instr) : Option IllCause :=
  match i with
  | .iadd o | .isub o | .imul o | .imulhi o | .imulhu o | .imad o | .iadds o | .isubs o
  | .and o | .or o | .xor o | .andn o | .shl o | .shr o | .sar o | .rotl o
  | .imin o | .imax o | .umin o | .umax o
  | .bfx o | .bfxs o | .bfi o | .prmt o | .lsa1 o | .lsa2 o | .lsa3 o | .lsa4 o
  | .fadd o | .fsub o | .fmul o | .ffma o | .fmin o | .fmax o | .ffms o | .fnma o
  | .hadd2 o | .hsub2 o | .hmul2 o | .hfma2 o | .hmin2 o | .hmax2 o
  | .badd2 o | .bsub2 o | .bmul2 o | .bfma2 o | .bmin2 o | .bmax2 o
  | .dot4i8 o | .dot4z8 o | .dot8i4 o | .dot8z4 o | .dot4e4 o | .dot4e5 o | .dot8e2 o | .dot2bf o
  | .sel _ o => o.ill
  | .icmpEq o | .icmpNe o | .icmpLt o | .icmpLe o | .icmpGt o | .icmpGe o | .icmpLtu o | .icmpGeu o
  | .fcmpEq o | .fcmpNe o | .fcmpLt o | .fcmpLe o | .fcmpGt o | .fcmpGe o | .fcmpOrd o | .fcmpUnord o => o.cmpIll
  | .clz o | .popc o | .brev o | .ineg o | .frcp o | .frsq o | .fsqrt o | .fexp2 o | .flog2 o | .fsin o
  | .fcos o | .ftanh o | .mov o | .fabs o | .fneg o | .ffloor o | .fceil o | .ftrunc o | .frint o | .iabs o => o.ill
  | .shfli o | .shflu o | .shfld o | .shflx o | .bcast o => o.ill
  | .cvt r c _ _ _ _ => opcFieldUnless (isRound r && c != 0x1E#6 && c != 0x1F#6) true
  | .mxqi8 _ r _ _ _ | .mxqe4 _ r _ _ _ | .mxqe5 _ r _ _ _ | .mxqe2 _ r _ _ _ => opcFieldUnless (isRound r) true
  | .pand d a b | .por d a b | .pxor d a b | .pandn d a b => fieldUnless (isPred d && isPred a && isPred b)
  | .pnot d b | .pmov d b => fieldUnless (isPred d && isPred b)
  | .emget d | .xall d => fieldUnless (isPair d)
  | .emset a | .xend a => fieldUnless (isPair a)
  | .emand a | .emandn a | .pem a => fieldUnless (isPred a)
  | .emp d => fieldUnless (isPred d)
  | .vany _ a | .vall _ a | .vcnt _ a | .vfirst _ a => fieldUnless (isPred a)
  | .vbal d a => fieldUnless (isPred a && isPair d)
  | .sadd64 d a b | .ssub64 d a b => fieldUnless (isPair d && isPair a && b != .s 63#6)
  | .brpz a _ | .brpnz a _ => fieldUnless (isPred a)
  | .call d _ => fieldUnless (isPair d)
  | .jmp a => fieldUnless (isPair a)
  | .cntrd d _ => fieldUnless (isPair d)
  | .clkrd d _ => fieldUnless (isPair d)
  | .srkey a => fieldUnless (fits a 4)
  | .ld o => opcFieldUnless (o.z != 7#3) (scopeOk o.o o.c && fits o.d (sizeRegs o.z))
  | .st o => opcFieldUnless (o.z != 1#3 && o.z != 3#3) (o.z != 7#3 && scopeOk o.o o.c && fits o.d (sizeRegs o.z))
  | .stB0 o => fieldUnless (scopeOk o.o o.c)
  | .ldu o => opcFieldUnless (o.z != 7#3) (scopeOk o.o o.c && fits o.d (sizeRegs o.z))
  | .atomAdd o | .atomMin o | .atomMax o | .atomAnd o | .atomOr o | .atomXor o | .atomXchg o
  | .atomrAdd o | .atomrMin o | .atomrMax o | .atomrAnd o | .atomrOr o | .atomrXor o | .atomrXchg o
  | .redniAdd o | .redniSmin o | .redniSmax o | .redniUmin o | .redniUmax o | .redniAnd o | .redniOr o
  | .redniXor o => fieldUnless (fits o.d (if o.z then 2 else 1))
  | .atomCas o | .atomrCas o => fieldUnless (fits o.d (if o.z then 4 else 2))
  | .bewAdds o | .bewMuls o | .bewMaxs o | .bewMins o => fieldUnless (fits o.d 2)
  | .bewFmas o => fieldUnless (fits o.d 3)
  | .cellrdF32 o | .cellrdBf16 o => fieldUnless (scopeOk o.q o.c)
  | .cellrdRaw o => fieldUnless (scopeOk o.q o.c && fits o.d 16)
  | .pref _ _ _ _ l => opcFieldUnless (l != 3#2) true
  | .wsetG _ _ a => fieldUnless (isPair a)
  | .cpyGl _ _ _ a | .cpyLg _ _ _ a | .cpyGg _ _ _ a => fieldUnless (fits a 3)
  | .cpyTgl _ _ _ a | .cpyTlg _ _ _ a => fieldUnless (fits a 6)
  | .recv _ _ a _ => fieldUnless (isPair a)
  | .mcst _ _ z _ _ d => fieldUnless (fits d (if z then 2 else 1))
  | .mma _ b _ _ => fieldUnless (isPair b)
  | .tmovr c n _ d | .tmovw c n _ d => fieldUnless (fits d (2 ^ n.toNat) && fits c (2 ^ n.toNat))
  | .tcvt r f _ _ d => opcFieldUnless (isRound r && f != 7#3) (fits d (tcvtRegs f))
  | .spb _ n _ _ d | .fla _ n _ _ d => opcFieldUnless (decide (n.toNat ≤ 4)) (fits d (2 ^ n.toNat))
  | .vfree _ c a => fieldUnless (fits a (c.toNat + 1))
  | .clauseHeader h => if h.a.toNat ∈ [12, 13, 14] ∨ h.b.toNat ∈ [12, 13, 14] then some .hdr else none
  | .mov16 _ | .iadd16 _ | .isub16 _ | .imul16 _ | .and16 _ | .or16 _ | .xor16 _ | .shl16 _ | .shr16 _ | .sar16 _
  | .fadd16 _ | .fsub16 _ | .fmul16 _ | .fmax16 _ | .fmin16 _ | .fneg16 _ => none
  | .mxdqf _ _ _ _ | .mxdqb _ _ _ _ | .lradd _ _ _ | .lrmin _ _ _ | .lrmax _ _ _ | .lrand _ _ _ | .lror _ _ _
  | .lrxor _ _ _ | .lrfadd _ _ _ | .lrfmax _ _ _ => none
  | .sadd _ _ _ | .ssub _ _ _ | .smul _ _ _ | .sand _ _ _ | .sor _ _ _ | .sxor _ _ _ | .sshl _ _ _ | .sshr _ _ _
  | .ssar _ _ _ | .smin _ _ _ | .smax _ _ _ | .sminu _ _ _ | .smaxu _ _ _ | .smov _ _
  | .seq _ _ _ | .sne _ _ _ | .slt _ _ _ | .sle _ _ _ | .sgt _ _ _ | .sge _ _ _ | .sltu _ _ _ | .sgeu _ _ _ => none
  | _ => none

/-- An instruction whose operands its encoding admits without an #ILL at decode. -/
def WellFormed (i : Instr) : Prop := i.ill = none

end Sys2Proof
end

