-- ==== Sys2Proof/Machine/Flags.lean ====
section
/-!
DEFINITION. Predicates written by compares (R230), completion flags (R211), and the interlocks that hold an
instruction until earlier ones have finished with its registers and tiles (R212, R295).
-/
namespace Sys2Proof

/-! ## Footprints of operands -/

/-- Names `r` to `r + n − 1` as a mask. -/
def group (r n : Nat) : Mask := BitVec.ofNat 64 ((2 ^ n - 1) * 2 ^ r)

/-- One name as a mask. -/
def one (r : Reg) : Mask := group r.toNat 1

/-- Vector and scalar names, tiles and windows that an instruction reads or writes, as masks. -/
structure Foot where
  v : Mask
  s : Mask
  t : Nat
  deriving DecidableEq, Repr

/-- A footprint of vectors. -/
def footV (v : Mask) : Foot := { v := v, s := 0#64, t := 0 }
/-- A footprint of scalars. -/
def footS (s : Mask) : Foot := { v := 0#64, s := s, t := 0 }
/-- A footprint of vectors and scalars. -/
def footVS (v s : Mask) : Foot := { v := v, s := s, t := 0 }
/-- An empty footprint. -/
def foot0 : Foot := { v := 0#64, s := 0#64, t := 0 }

/-- The vectors of a b operand. -/
def BOp.fv (b : BOp) : Mask := match b with
  | .v r => one r
  | _ => 0#64
/-- The scalars of a b operand. -/
def BOp.fs (b : BOp) : Mask := match b with
  | .s r => one r
  | _ => 0#64
/-- The scalars of a scalar b operand. -/
def SOp.fs (b : SOp) : Mask := match b with
  | .s r => one r
  | .lit _ => 0#64

/-- A two-source lane instruction. -/
def Lane2.foot (o : Lane2) : Foot := footVS (one o.d ||| one o.a ||| o.b.fv) o.b.fs
/-- A compare: its destination is a predicate. -/
def Lane2.footC (o : Lane2) : Foot := footVS (one o.a ||| o.b.fv) o.b.fs
/-- A unary lane instruction. -/
def Lane1.foot (o : Lane1) : Foot := footVS (one o.d ||| o.b.fv) o.b.fs
/-- A shuffle. -/
def Shfl.foot (o : Shfl) : Foot := footVS (one o.d ||| one o.a ||| o.b.fv) o.b.fs
/-- A 16-bit instruction. -/
def Op16.foot (o : Op16) : Foot := footV (group o.d.toNat 1 ||| group o.s.toNat 1)
/-- An atomic, reduction or element-wise instruction with a data group of `n`. -/
def AtomOps.foot (o : AtomOps) (n : Nat) : Foot := footV (one o.a ||| group o.d.toNat n)
/-- A tile. -/
def tileBit (t : BitVec 4) : Nat := 2 ^ t.toNat

end Sys2Proof

namespace Sys2Proof.Machine

/-! ## Compares -/

/-- The 64 bits `f 0` to `f 63`. -/
def bitsOf (f : Nat → Bool) : Mask := maskOf ((List.range 64).filter f)

/-- Write the predicate bits of the active lanes and keep the others (R207, R230). -/
def Cohort.writeBits (c : Cohort) (d : Nat) (f : Nat → Bool) : Cohort :=
  c.pput d ((c.pget d &&& ~~~ c.act) ||| (bitsOf f &&& c.act))

/-- A compare `f a b` (R230). -/
def cmpOp (cnt : Option (Nat × Nat)) (f : Word → Word → Bool) (o : Lane2) (s : State) : State :=
  let c := s.me
  let vs := o.a.toNat :: o.b.vs
  let m := c.mce o.u vs o.b.ss
  if m ≠ 0#64 then s.queueTrap 6 1 m 0
  else
    let c1 := (c.unalloc (c.misses vs)).freeAll ((if o.ma then [o.a.toNat] else []) ++ (if o.mb then o.b.vs else []))
    let c2 := c1.writeBits o.d.toNat fun i =>
      f ((c.vget o.a.toNat).lane (c.src o.u i)) (o.b.rd c (c.src o.u i))
    ((s.setMe c2).countLanes o.u cnt).retire o.b.len

/-- The ICMP conditions of Table 9-3 by minor code. -/
def icmp (k : Nat) (a b : Word) : Bool :=
  match k with
  | 0 => a == b
  | 1 => a != b
  | 2 => a.slt b
  | 3 => a.sle b
  | 4 => b.slt a
  | 5 => b.sle a
  | 6 => a.ult b
  | _ => b.ule a

/-! ## Completion flags -/

/-- The flag that an instruction's minor[3] selects in its clause; none for 15 (R211). -/
def Cohort.flagOf (c : Cohort) (fb : Bool) : Option Nat :=
  let n := (if fb then c.clause.extractLsb' 12 4 else c.clause.extractLsb' 8 4).toNat
  if n = 15 then none else some n

/-- Add 1 to a flag at issue (R211). -/
def Cohort.raise (c : Cohort) (f : Option Nat) : Cohort :=
  match f with
  | some n => { c with f := Store.set 0 c.f n (Store.get 0 c.f n + 1) }
  | none => c

/-- Subtract 1 from a flag at completion (R211). -/
def Cohort.lower (c : Cohort) (f : Option Nat) : Cohort :=
  match f with
  | some n => { c with f := Store.set 0 c.f n (Store.get 0 c.f n - 1) }
  | none => c

/-- Whether a flag stands at 63, so that an issue that would raise it stalls (R211). -/
def Cohort.flagFull (c : Cohort) (f : Option Nat) : Bool :=
  match f with
  | some n => decide (63 ≤ Store.get 0 c.f n)
  | none => false

/-- Whether every flag that a WAIT field names is zero (R211). -/
def Cohort.waitMet (c : Cohort) (w : BitVec 12) : Bool :=
  (List.range 12).all fun i => !w.getLsbD i || Store.get 0 c.f i == 0

/-! ## Format blocks of MMA (R299 to R301) -/

/-- Element code of the A or B operand as a format (Table 11-5). -/
def elemFmt (c : Nat) : Fmt :=
  match c with
  | 0 => .bf16
  | 1 => .fp16
  | 2 => .e4m3
  | 3 => .e5m2
  | 4 => .e2m1
  | 5 => .int8
  | 6 => .int4
  | _ => .mxint8

/-- Fields of a format block (Table 11-4). -/
structure Block where
  srow : Nat
  brow0 : Nat
  slot : Nat
  regs : Nat
  l : Nat
  bmx : Bool
  fb : Nat
  amx : Bool
  fa : Nat

/-- Read a format block. -/
def Block.of (x : DWord) : Block :=
  let n := x.toNat
  { srow := bits n 40 32, brow0 := bits n 31 23, slot := bits n 22 16, regs := bits n 12 9 + 1, l := if bit n 8 then 16 else 32
    bmx := bit n 7, fb := bits n 6 4, amx := bit n 3, fa := bits n 2 0 }

/-- Element width w (Table 11-5). -/
def Block.w (k : Block) : Nat := (elemFmt k.fa).width
/-- Elements of K that one member supplies (R300). -/
def Block.kA (k : Block) : Nat := k.regs * (32 / k.w)
/-- Registers of the A group (R301). -/
def Block.group (k : Block) : Nat := k.regs + (if k.amx then (k.kA / k.l + 3) / 4 else 0)

/-! ## Registers an instruction touches -/

/-- The registers and tiles that R212 and R295 interlock for an instruction. -/
def footOf (i : Instr) : Foot :=
  match i with
  | .mov16 o => if o.d = o.s then foot0 else o.foot
  | .iadd16 o | .isub16 o | .imul16 o | .and16 o | .or16 o | .xor16 o | .shl16 o | .shr16 o | .sar16 o
  | .fadd16 o | .fsub16 o | .fmul16 o | .fmax16 o | .fmin16 o | .fneg16 o => o.foot
  | .iadd o | .isub o | .imul o | .imulhi o | .imulhu o | .imad o | .iadds o | .isubs o
  | .and o | .or o | .xor o | .andn o | .shl o | .shr o | .sar o | .rotl o | .imin o | .imax o | .umin o | .umax o
  | .bfx o | .bfxs o | .bfi o | .prmt o | .lsa1 o | .lsa2 o | .lsa3 o | .lsa4 o
  | .fadd o | .fsub o | .fmul o | .ffma o | .fmin o | .fmax o | .ffms o | .fnma o
  | .hadd2 o | .hsub2 o | .hmul2 o | .hfma2 o | .hmin2 o | .hmax2 o
  | .badd2 o | .bsub2 o | .bmul2 o | .bfma2 o | .bmin2 o | .bmax2 o
  | .dot4i8 o | .dot4z8 o | .dot8i4 o | .dot8z4 o | .dot4e4 o | .dot4e5 o | .dot8e2 o | .dot2bf o | .sel _ o => o.foot
  | .icmpEq o | .icmpNe o | .icmpLt o | .icmpLe o | .icmpGt o | .icmpGe o | .icmpLtu o | .icmpGeu o
  | .fcmpEq o | .fcmpNe o | .fcmpLt o | .fcmpLe o | .fcmpGt o | .fcmpGe o | .fcmpOrd o | .fcmpUnord o => o.footC
  | .clz o | .popc o | .brev o | .ineg o | .frcp o | .frsq o | .fsqrt o | .fexp2 o | .flog2 o | .fsin o | .fcos o
  | .ftanh o | .mov o | .fabs o | .fneg o | .ffloor o | .fceil o | .ftrunc o | .frint o | .iabs o => o.foot
  | .cvt _ _ d a _ _ | .mxqi8 _ _ d a _ | .mxqe4 _ _ d a _ | .mxqe5 _ _ d a _ | .mxqe2 _ _ d a _
  | .mxdqf _ d a _ | .mxdqb _ d a _ => footV (one d ||| one a)
  | .shfli o | .shflu o | .shfld o | .shflx o | .bcast o => o.foot
  | .lradd d a _ | .lrmin d a _ | .lrmax d a _ | .lrand d a _ | .lror d a _ | .lrxor d a _ | .lrfadd d a _
  | .lrfmax d a _ => footVS (one a) (one d)
  | .emget d | .xall d | .vbal d _ | .cntrd d _ | .clkrd d _ | .call d _ => footS (group d.toNat 2)
  | .emset a | .xend a | .jmp a => footS (group a.toNat 2)
  | .vany d _ | .vall d _ | .vcnt d _ | .vfirst d _ | .crrd d _ | .crwr d _ => footS (one d)
  | .sadd d a b | .ssub d a b | .smul d a b | .sand d a b | .sor d a b | .sxor d a b | .sshl d a b | .sshr d a b
  | .ssar d a b | .smin d a b | .smax d a b | .sminu d a b | .smaxu d a b
  | .seq d a b | .sne d a b | .slt d a b | .sle d a b | .sgt d a b | .sge d a b | .sltu d a b | .sgeu d a b =>
    footS (one d ||| one a ||| b.fs)
  | .sadd64 d a b | .ssub64 d a b => footS (group d.toNat 2 ||| group a.toNat 2 ||| b.fs ||| (b.fs <<< 1))
  | .smov d b => footS (one d ||| b.fs)
  | .brz a _ | .brnz a _ => footS (one a)
  | .crrdv d _ => footV (one d)
  | .srkey a => footS (group a.toNat 4)
  | .srstep a => footS (one a)
  | .ld o | .st o => footV (one o.a ||| group o.d.toNat (sizeRegs o.z))
  | .stB0 o => footV (one o.a)
  | .ldu o => footS (one o.a ||| group o.d.toNat (sizeRegs o.z))
  | .atomAdd o | .atomMin o | .atomMax o | .atomAnd o | .atomOr o | .atomXor o | .atomXchg o
  | .atomrAdd o | .atomrMin o | .atomrMax o | .atomrAnd o | .atomrOr o | .atomrXor o | .atomrXchg o
  | .redniAdd o | .redniSmin o | .redniSmax o | .redniUmin o | .redniUmax o | .redniAnd o | .redniOr o
  | .redniXor o => o.foot (if o.z then 2 else 1)
  | .atomCas o | .atomrCas o => o.foot (if o.z then 4 else 2)
  | .rednfF32Any o | .rednfBf16Any o | .rednfF16Any o | .rednfF32Ord o | .rednfBf16Ord o | .rednfF16Ord o
  | .cellrdF32 o | .cellrdBf16 o => footV (one o.a ||| one o.d)
  | .rednfCellz o => footV (one o.a)
  | .bewAdds o | .bewMuls o | .bewMaxs o | .bewMins o => o.foot 2
  | .bewFmas o => o.foot 3
  | .cellrdRaw o => footV (one o.a ||| group o.d.toNat 16)
  | .pref _ _ a _ _ => footV (one a)
  | .wsetG _ _ a => footS (group a.toNat 2)
  | .wsetL _ _ a | .wsetA _ _ a => footS (one a)
  | .cpyGl _ _ _ a | .cpyLg _ _ _ a | .cpyGg _ _ _ a => footS (group a.toNat 3)
  | .cpyTgl _ _ _ a | .cpyTlg _ _ _ a => footS (group a.toNat 6)
  | .cpyb _ d | .bar d | .gbara d | .gbarw d => footS (one d)
  | .cpyw _ a | .close _ a | .fmark _ a | .gang a => footS (one a)
  | .sema _ _ a d | .semr _ _ a d | .signalAdd _ a d | .signalSet _ a d => footS (one a ||| one d)
  | .emit _ _ a d _ => footVS (one a) (one d)
  | .recv _ _ a d => footS (group a.toNat 2 ||| one d)
  | .mcst _ _ z b a d => footVS (one a ||| group d.toNat (if z then 2 else 1)) (group b.toNat 1)
  | .mldredBf16Ord _ _ _ b a d | .mldredF32Ord _ _ _ b a d | .mldredBf16Any _ _ _ b a d | .mldredF32Any _ _ _ b a d =>
    footVS (one a ||| one d) (group b.toNat 1)
  | .mma _ b a t => { v := group a.toNat (64 - a.toNat), s := group b.toNat 2, t := tileBit t }
  | .gfill _ a d => footS (one a ||| one d)
  | .tzero t | .tfree t => { v := 0#64, s := 0#64, t := tileBit t }
  | .tfreeAll => { v := 0#64, s := 0#64, t := 0xFFFF }
  | .tredAdd a t => { v := 0#64, s := 0#64, t := tileBit a ||| tileBit t }
  | .tredRow a d => { v := one d, s := 0#64, t := tileBit a }
  | .tmovr _ n t d | .tmovw _ n t d => { v := group d.toNat (2 ^ n.toNat), s := 0#64, t := tileBit t }
  | .tcvt _ f _ t d => { v := group d.toNat (tcvtRegs f), s := 0#64, t := tileBit t }
  | .spb _ n _ a d | .fla _ n _ a d => footVS (group d.toNat (2 ^ n.toNat)) (one a)
  | .vfree _ c a => footV (group a.toNat (c.toNat + 1))
  | _ => foot0

/-- The registers and tiles of an instruction of a cohort: the A group of an MMA has the length that its format block gives (R301). -/
def Cohort.footOf (c : Cohort) (i : Instr) : Foot :=
  match i with
  | .mma _ b a t =>
    { v := group a.toNat (min (Block.of (c.sget64 b.toNat)).group (64 - a.toNat)), s := group b.toNat 2, t := tileBit t }
  | i => Machine.footOf i

/-- The flag that an instruction of a major marked M selects (Table 8-9, R211). -/
def flagSel (i : Instr) : Option Bool :=
  match i with
  | .ld o | .ldu o | .st o => some o.f
  | .stB0 o => some o.f
  | .redniAdd o | .redniSmin o | .redniSmax o | .redniUmin o | .redniUmax o | .redniAnd o | .redniOr o | .redniXor o
  | .bewAdds o | .bewMuls o | .bewFmas o | .bewMaxs o | .bewMins o => some o.f
  | .rednfF32Any o | .rednfBf16Any o | .rednfF16Any o | .rednfF32Ord o | .rednfBf16Ord o | .rednfF16Ord o => some o.f
  | .rednfCellz o => some o.f
  | .fence f _ | .pref f _ _ _ _ | .wsetG f _ _ | .wsetL f _ _ | .wsetA f _ _ | .winv f _ | .winvAll f => some f
  | .cpyGl f _ _ _ | .cpyLg f _ _ _ | .cpyGg f _ _ _ | .cpyTgl f _ _ _ | .cpyTlg f _ _ _ | .cpyb f _ | .cpyw f _ => some f
  | .emit f _ _ _ _ | .recv f _ _ _ | .close f _ | .mcst f _ _ _ _ _ | .fmark f _ => some f
  | .atomAdd o | .atomMin o | .atomMax o | .atomAnd o | .atomOr o | .atomXor o | .atomXchg o | .atomCas o
  | .atomrAdd o | .atomrMin o | .atomrMax o | .atomrAnd o | .atomrOr o | .atomrXor o | .atomrXchg o | .atomrCas o => some o.f
  | .cellrdF32 o | .cellrdBf16 o | .cellrdRaw o => some o.f
  | .mldredBf16Ord f _ _ _ _ _ | .mldredF32Ord f _ _ _ _ _ | .mldredBf16Any f _ _ _ _ _ | .mldredF32Any f _ _ _ _ _ => some f
  | .spb f _ _ _ _ | .fla f _ _ _ _ => some f
  | _ => none

/-- The vector names that an issued operation has yet to write. -/
def MemOp.vdest (o : MemOp) : Mask :=
  if o.passed then 0#64 else match o.kind with
  | .load z => group o.d (sizeRegs z)
  | .rmw (.int _ n) true => group o.d (n / 4)
  | .rmw (.cellrd k) _ => group o.d (if k = 2 then 16 else 1)
  | .fla n => group o.d n
  | .mldred _ _ _ => group o.d 1
  | _ => 0#64

/-- The scalars that an issued operation has yet to write. -/
def MemOp.sdest (o : MemOp) : Mask :=
  if o.passed then 0#64 else match o.kind with
  | .ldu z => group o.d (sizeRegs z)
  | _ => 0#64

/-- Whether an interlock on a register holds an instruction behind an operation (R212). -/
def MemOp.holds (o : MemOp) (f : Foot) : Bool := (o.vdest &&& f.v) != 0#64 || (o.sdest &&& f.s) != 0#64

/-- Whether an interlock on a tile holds an instruction (R212, R295). -/
def Company.holds (c : Company) (f : Foot) : Bool := c.fired.any fun x => decide (f.t / 2 ^ x.tile % 2 = 1)

/-- Whether a replay holds the instruction that makes the next sr_check until its SERIAL is due, and until the key and step whose use
its SRKV record logs have been written (R172, R176, R401). -/
def State.srHeld (s : State) : Bool :=
  s.replays && (match s.expectedAll with
    | e :: rest =>
      e.icnt == s.me.chunkN + 1 && (if e.kind = 9 then
          !(s.cx.srStale.contains (s.co.dseq, s.me.j)) || rest.isEmpty || (rest.head?.any fun r => r.isAt 0x3800 && !s.serialDue r)
        else e.isAt 0x3800 && !s.serialDue e)
    | [] => false)

/-- Whether an instruction translates an address of memory, so that a walk may begin for it (R35, R45). -/
def translates (i : Instr) : Bool :=
  match i with
  | .ld _ | .st _ | .stB0 _ | .ldu _
  | .atomAdd _ | .atomMin _ | .atomMax _ | .atomAnd _ | .atomOr _ | .atomXor _ | .atomXchg _ | .atomCas _
  | .atomrAdd _ | .atomrMin _ | .atomrMax _ | .atomrAnd _ | .atomrOr _ | .atomrXor _ | .atomrXchg _ | .atomrCas _
  | .redniAdd _ | .redniSmin _ | .redniSmax _ | .redniUmin _ | .redniUmax _ | .redniAnd _ | .redniOr _ | .redniXor _
  | .rednfF32Any _ | .rednfBf16Any _ | .rednfF16Any _ | .rednfF32Ord _ | .rednfBf16Ord _ | .rednfF16Ord _ | .rednfCellz _
  | .bewAdds _ | .bewMuls _ | .bewFmas _ | .bewMaxs _ | .bewMins _ | .cellrdF32 _ | .cellrdBf16 _ | .cellrdRaw _
  | .pref _ _ _ _ _ | .wsetG _ _ _ | .cpyGl _ _ _ _ | .cpyLg _ _ _ _ | .cpyGg _ _ _ _ | .cpyTgl _ _ _ _ | .cpyTlg _ _ _ _
  | .sema _ _ _ _ | .semr _ _ _ _ | .signalAdd _ _ _ | .signalSet _ _ _ | .gfill _ _ _ | .spb _ _ _ _ _ | .fla _ _ _ _ _ => true
  | _ => false

/-- Whether a walk for an instruction would begin before an earlier fence at PKG or POD scope has retired (R129, R269). -/
def Cohort.walkHeld (c : Cohort) (i : Instr) : Bool := translates i && c.ops.any fun o => o.kind == .fence && decide (2 ≤ o.scope)

/-- Whether FEAT.MCAST is accepted (Table 19-4). -/
def Device.mcastOn (d : Device) : Bool := bit (d.reg 0x70020) 4

/-- The armed breakpoint that the current cohort has reached in a replay: the start of a named chunk (R403). -/
def State.breakpoint (s : State) : Option Nat :=
  if s.recording && s.recMode == 3 && s.me.chunkN == 0 then
    (List.range 4).find? fun k =>
      let x := s.dev.reg (0x60040 + 16 * k)
      bit x 63 && !bit x 62 && bits x 43 40 == s.me.j && bits x 39 0 == s.co.dseq % 2 ^ 40
        && bits (s.dev.reg (0x60048 + 16 * k)) 31 0 == s.me.chunkNo
  else none

/-- Whether strict recording stalls the current cohort: its recorder has no page to put a record in (R400). -/
def State.recStuck (s : State) : Bool := s.recording && s.recMode == 1 && s.dev.recUnit.stuck (s.core / 16)

/-- Whether an instruction stalls at issue: an interlock holds it, its flag stands at 63, a fence holds its walk, its fetch waits, or recording or
replay holds it (R23, R83, R129, R211, R212, R400, R401). -/
def State.stalls (s : State) (i : Instr) : Bool :=
  s.srHeld || s.stopHeld || s.recStuck || s.me.ops.any (fun o => o.holds (s.me.footOf i)) || s.co.holds (s.me.footOf i) || s.me.walkHeld i
    || (match flagSel i with
        | some f => s.me.flagFull (s.me.flagOf f)
        | none => false)
    || (match i with
        | .instructionFetchFault => s.codeWaits s.me.priv s.me.pc.toNat 4
        | _ => false)

/-- Whether the stall counts in ILCNT: an operation that holds it has a flag that the clause's WAIT does not name (R212). -/
def State.uncounted (s : State) (i : Instr) : Bool :=
  s.me.ops.any fun o => o.holds (s.me.footOf i) && (match o.flag with
    | some n => !s.me.clause.getLsbD (16 + n)
    | none => false)

end Sys2Proof.Machine
end

