-- ==== Sys2Proof/Machine/Branch.lean ====
section
/-!
DEFINITION. Clause headers, branches, NOP, YIELD and HINT, and the traps of decoding and fetching (R209 to R213,
R217, R218, R220, R250, R252).
-/
namespace Sys2Proof.Machine

/-! ## Leaving the active set -/

/-- Whether another cohort of the core waits, ready, in the pending set (R332, log entry 2). -/
def State.pendingReady (s : State) : Bool :=
  let ready (c : Cohort) : Bool := c.stat == .running && !c.active && c.wait == .none
  s.co.cohorts.any ready ||
    (s.dev.companies.filter fun c => c.coreOf == s.co.coreOf).any fun c => c.cohorts.any ready

/-- The cohort leaves the active set if a pending cohort is ready (R213, R252, R332). -/
def State.yieldSlot (s : State) : State :=
  if s.pendingReady then { s with me := { s.me with active := false } } else s

/-! ## Clause headers (R209 to R213) -/

/-- The word of a header (Table 8-4). -/
def Header.word (h : Header) : Word :=
  0#3 ++ BitVec.ofBool h.p ++ h.wait ++ h.b ++ h.a ++ 0#6 ++ BitVec.ofBool h.y ++ 1#1

/-- CLAUSE_HEADER: a pre-emption point when P = 1, reached before WAIT is tested (R383); then the clause begins
once every flag of WAIT is zero (R211). A cohort that stops at the point resumes at the clause's first instruction (R391).
A header is no instruction: nothing is counted. -/
def execClauseHeader (h : Header) (s : State) : Out :=
  if h.p ∧ s.me.stopDue = 1 ∧ s.me.handler = false ∧ s.stopBarred = false then
    .next { s with me := { s.me with stopDue := 7, clause := Header.word h, atEntry := false, pc := s.me.pc + 4#56, wait := .none, held := false } }
  else if s.me.waitMet h.wait then
    let me := { s.me with clause := Header.word h, atEntry := false, pc := s.me.pc + 4#56, wait := .none, held := false }
    let t := s.setMe me
    .next (if h.y then t.yieldSlot else t)
  else .next (s.waitOn .flags)

/-! ## Branches (R250) -/

/-- Whether a target lies where a transfer may reach. -/
def targetOk (priv : Bool) (t : Int) : Bool :=
  decide (0 ≤ t) && decide (t < 2 ^ 56) && t % 2 == 0 && (priv || decide (t < 2 ^ 55))

/-- Transfer to a target, writing a link first when the target holds a header; it waits while the target cannot be fetched (R23, R83,
R210, R250). -/
def transfer (n : Nat) (t : Int) (link : Option Reg) (s : State) : State :=
  if targetOk s.me.priv t = false then s.ill 7
  else
    let p := s.fetchWord s.me.priv t.toNat
    match p.2 with
    | none => if s.codeWaits s.me.priv t.toNat 2 then s else p.1.accessTrap 4 7 s.me.present
    | some w =>
      if isHeader w then
        let nxt := BitVec.ofNat 64 (s.me.pc.toNat + n)
        let me := match link with
          | some d => p.1.me.sput64 d.toNat nxt
          | none => p.1.me
        let s1 := (p.1.setMe me).retire n
        s1.setMe { s1.me with pc := BitVec.ofInt 56 t }
      else p.1.ill 7

/-- A relative branch with its condition. -/
def branch (ss : List Nat) (taken : Cohort → Bool) (off : Word) (link : Option Reg) (s : State) : State :=
  if ss.any s.me.spoison then s.queueTrap 6 1 s.me.present 0
  else if taken s.me then transfer 8 ((s.me.pc.toNat : Int) + off.toInt) link s
  else s.retire 8

/-- BR: always. -/
def execBr (off : Word) (s : State) : Out := .next (branch [] (fun _ => true) off none s)
/-- BRMZ: when em is zero. -/
def execBrmz (off : Word) (s : State) : Out := .next (branch [] (fun c => c.em == 0#64) off none s)
/-- BRZ: when a scalar is zero. -/
def execBrz (a : Reg) (off : Word) (s : State) : Out :=
  .next (branch [a.toNat] (fun c => c.sget a.toNat == 0#32) off none s)
/-- BRNZ: when a scalar is not zero. -/
def execBrnz (a : Reg) (off : Word) (s : State) : Out :=
  .next (branch [a.toNat] (fun c => c.sget a.toNat != 0#32) off none s)
/-- BRPZ: when a predicate AND em is zero. -/
def execBrpz (a : Reg) (off : Word) (s : State) : Out :=
  .next (branch [] (fun c => c.pget a.toNat &&& c.em == 0#64) off none s)
/-- BRPNZ: when a predicate AND em is not zero. -/
def execBrpnz (a : Reg) (off : Word) (s : State) : Out :=
  .next (branch [] (fun c => c.pget a.toNat &&& c.em != 0#64) off none s)
/-- CALL: always; the link receives the address after it. -/
def execCall (d : Reg) (off : Word) (s : State) : Out := .next (branch [] (fun _ => true) off (some d) s)
/-- JMP: to the address in a scalar pair. -/
def execJmp (a : Reg) (s : State) : Out :=
  .next (if [a.toNat, a.toNat + 1].any s.me.spoison then s.queueTrap 6 1 s.me.present 0
    else transfer 4 ((s.me.sget64 a.toNat).toNat : Int) none s)

/-! ## NOP, YIELD and HINT (R220, R252) -/

/-- NOP: one issue slot. -/
def execNop (s : State) : Out := .next (s.retire 4)
/-- YIELD: lets a ready pending cohort take the place in the active set. -/
def execYield (s : State) : Out := .next (s.retire 4).yieldSlot
/-- HINT: majors 0x3C to 0x3F execute as NOP whatever their fields hold (R220). -/
def execHint (m : BitVec 4) (mb ma : Bool) (b a d : Reg) (k : BitVec 2) (u : Bool) (s : State) : Out :=
  let _ := (m, mb, ma, b, a, d, k, u)
  .next (s.retire 4)

/-! ## Traps of decoding and fetching -/

/-- The number of a cause of #ILL (R217). -/
def IllCauseNum (c : IllCause) : Nat :=
  match c with
  | .opc => 1
  | .hdr => 2
  | .unif => 3
  | .field => 4
  | .mark => 5
  | .priv => 6
  | .target => 7
  | .cls => 8
  | .persist => 9

/-- RESERVED_ENCODING: an encoding that cannot execute raises queue-level #ILL with its cause, and nothing of it is
performed (R217, R218). -/
def execReservedEncoding (c : IllCause) (s : State) : Out := .next (s.ill (IllCauseNum c))

/-- INSTRUCTION_FETCH_FAULT: a fetch that does not perform raises queue-level #PF FETCH (R46). -/
def execInstructionFetchFault (s : State) : Out := .next (s.accessTrap 4 7 s.me.present)

end Sys2Proof.Machine
end

