-- ==== Sys2Proof/Machine/Convert.lean ====
section
/-!
DEFINITION. Conversions (R236 to R238), and MX quantising and dequantising (R239, R240).
-/
namespace Sys2Proof.Machine

/-! ## The SR word of an element (R238) -/

/-- The SR word of the element with coordinate base + k of the current cohort (R171, R238). -/
def State.srAt (s : State) (k : Nat) : Word :=
  let ks := s.srKeys
  let key : Srg := { x0 := ks.1.getD 0 0#32, x1 := ks.1.getD 1 0#32, x2 := ks.1.getD 2 0#32, x3 := ks.1.getD 3 0#32 }
  srWord key (s.me.crget 0x16) (pair64 (s.me.crget 0x17) (s.me.crget 0x18) + BitVec.ofNat 64 k) ks.2

/-- The sr_check that an SR conversion makes as it retires, its record, and its #SRW (R174, R176, R238). -/
def srAfter (check : Bool) (s : State) : State :=
  if check then ((s.logSrKey.srCheck (s.me.crget 0x16)).logPlace 1 0x3800).deliverSrw else s

/-- The rounding mode of a code that R162 admits. -/
def modeOf (r : BitVec 3) : RMode := (RMode.ofCode r.toNat).getD .rn

/-! ## CVT (Table 9-7) -/

/-- The codes that write one slot from FP32: format, slot and slots of a register. -/
def cvtSlot (c : Nat) : Option (Fmt × Nat × Nat) :=
  if c < 0x02 then some (.bf16, c % 2, 2)
  else if c < 0x04 then some (.fp16, c % 2, 2)
  else if c < 0x08 then some (.e4m3, c % 4, 4)
  else if c < 0x0C then some (.e5m2, c % 4, 4)
  else if c < 0x10 then none
  else if c < 0x18 then some (.e2m1, c % 8, 8)
  else if c < 0x1C then some (.int8, c % 4, 4)
  else if c < 0x20 then none
  else if c < 0x28 then some (.int4, c % 8, 8)
  else none

/-- The widening codes: the format and the slot read. -/
def cvtWiden (c : Nat) : Option (Fmt × Nat) :=
  if c < 0x28 then none
  else if c < 0x2A then some (.bf16, c % 2)
  else if c < 0x2C then some (.fp16, c % 2)
  else if c < 0x30 then some (.e4m3, c % 4)
  else if c < 0x34 then some (.e5m2, c % 4)
  else if c < 0x38 then some (.int8, c % 4)
  else some (.e2m1, c % 8)

/-- Round one encoding from a format to another (R237). -/
def cvtRound (src dst : Fmt) (mode : RMode) (t : Word) (x : Nat) : Nat :=
  let v := value x src
  round dst mode false (srcQuantum src v) t v

/-- The converted element or word of a lane, from its source word; `t` gives the SR word of coordinate base + k. -/
def cvtLane (c : Nat) (mode : RMode) (t : Nat → Word) (i : Nat) (a : Word) : Word :=
  match cvtSlot c with
  | some (f, k, p) => BitVec.ofNat 32 (cvtRound .fp32 f mode (t (p * i + k)) a.toNat)
  | none =>
    match cvtWiden c with
    | some (f, k) => BitVec.ofNat 32 (roundRN .fp32 (value (elemOf f.width a.toNat k) f))
    | none =>
      match c with
      | 0x0C => BitVec.ofNat 32 (cvtRound .fp32 .si32 mode (t i) a.toNat)
      | 0x0D => BitVec.ofNat 32 (cvtRound .fp32 .ui32 mode (t i) a.toNat)
      | 0x0E => BitVec.ofNat 32 (cvtRound .si32 .fp32 mode (t i) a.toNat)
      | 0x0F => BitVec.ofNat 32 (cvtRound .ui32 .fp32 mode (t i) a.toNat)
      | 0x1C => BitVec.ofNat 32 (cvtRound .bf16 .fp16 mode (t (2 * i)) (elemOf 16 a.toNat 0)
          + 2 ^ 16 * cvtRound .bf16 .fp16 mode (t (2 * i + 1)) (elemOf 16 a.toNat 1))
      | _ => BitVec.ofNat 32 (cvtRound .fp16 .bf16 mode (t (2 * i)) (elemOf 16 a.toNat 0)
          + 2 ^ 16 * cvtRound .fp16 .bf16 mode (t (2 * i + 1)) (elemOf 16 a.toNat 1))

/-- What a conversion leaves in a word: its slot replaced, or the whole (R237). -/
def cvtPut (c : Nat) (old new : Word) : Word :=
  match cvtSlot c with
  | some (f, k, _) => BitVec.ofNat 32 (putElem f.width k old.toNat new.toNat)
  | none => new

/-- CVT: a converted under a rounding mode; a rounding conversion under SR checks the key-use filter (R236 to R238). -/
def execCvt (r : BitVec 3) (c d a : Reg) (ma u : Bool) (s : State) : Out :=
  let k := c.toNat
  let check := modeOf r == .sr && decide (k < 0x28) && s.me.act != 0#64
  .next (laneThen { n := 4, u := u, vs := [a.toNat], ss := [], frees := if ma then [a.toNat] else [], d := d.toNat
                    full := (cvtSlot k).isNone, put := cvtPut k, cnt := some (26, 1)
                    res := fun i => cvtLane k (modeOf r) s.srAt i ((s.me.vget a.toNat).lane i) } (srAfter check) s)

/-! ## MX blocks -/

/-- The quantised words of the active lanes of one block (R239). -/
def mxBlock (f : Fmt) (mode : RMode) (v : VReg) (t : Nat → Word) (ls : List Nat) : List (Nat × Word) :=
  let q := mxQuant f mode (ls.map fun i => ((v.lane i).toNat, t i))
  ls.zip (q.2.map fun e => BitVec.ofNat 32 (q.1 * 256 + e))

/-- MXQ: quantise the active lanes of each block of 32 or 16 lanes (R239). -/
def mxQuantOp (f : Fmt) (l : Bool) (r : BitVec 3) (d a : Reg) (ma : Bool) (s : State) : State :=
  let c := s.me
  let len := if l then 16 else 32
  let v := c.vget a.toNat
  let tab := (List.range (64 / len)).flatMap fun g =>
    mxBlock f (modeOf r) v s.srAt ((lanesOf c.act).filter fun i => i / len == g)
  let check := modeOf r == .sr && c.act != 0#64
  laneThen { n := 4, u := false, vs := [a.toNat], ss := [], frees := if ma then [a.toNat] else [], d := d.toNat
             full := true, put := putWhole, cnt := some (27, 1)
             res := fun i => ((tab.find? fun p => p.1 == i).map (·.2)).getD 0#32 } (srAfter check) s

/-- MXQI8: MXINT8 blocks (R239). -/
def execMxqi8 (l : Bool) (r : BitVec 3) (d a : Reg) (ma : Bool) (s : State) : Out := .next (mxQuantOp .mxint8 l r d a ma s)
/-- MXQE4: MXFP8 E4M3 blocks (R239). -/
def execMxqe4 (l : Bool) (r : BitVec 3) (d a : Reg) (ma : Bool) (s : State) : Out := .next (mxQuantOp .e4m3 l r d a ma s)
/-- MXQE5: MXFP8 E5M2 blocks (R239). -/
def execMxqe5 (l : Bool) (r : BitVec 3) (d a : Reg) (ma : Bool) (s : State) : Out := .next (mxQuantOp .e5m2 l r d a ma s)
/-- MXQE2: MXFP4 blocks (R239). -/
def execMxqe2 (l : Bool) (r : BitVec 3) (d a : Reg) (ma : Bool) (s : State) : Out := .next (mxQuantOp .e2m1 l r d a ma s)

/-- The element format that b[1:0] of MXDQ names (R240). -/
def mxFmt (f : BitVec 2) : Fmt :=
  match f.toNat with
  | 0 => .mxint8
  | 1 => .e4m3
  | 2 => .e5m2
  | _ => .e2m1

/-- MXDQ: dequantise one element per lane to FP32 or BF16 (R240). -/
def mxDequantOp (g : Fmt) (f : BitVec 2) (d a : Reg) (ma : Bool) (s : State) : State :=
  let v := s.me.vget a.toNat
  laneOp { n := 4, u := false, vs := [a.toNat], ss := [], frees := if ma then [a.toNat] else [], d := d.toNat
           full := true, put := putWhole, cnt := some (27, 1)
           res := fun i =>
             let x := (v.lane i).toNat
             BitVec.ofNat 32 (mxDequant (mxFmt f) g (elemOf (mxFmt f).width x 0) (bits x 15 8)) } s

/-- MXDQF: to FP32 (R240). -/
def execMxdqf (f : BitVec 2) (d a : Reg) (ma : Bool) (s : State) : Out := .next (mxDequantOp .fp32 f d a ma s)
/-- MXDQB: to BF16 in the low half (R240). -/
def execMxdqb (f : BitVec 2) (d a : Reg) (ma : Bool) (s : State) : Out := .next (mxDequantOp .bf16 f d a ma s)

end Sys2Proof.Machine
end

