-- ==== Sys2Proof/Machine/Node.lean ====
section
/-!
DEFINITION. Launches and graph nodes (R188 to R191): the fields of a node's descriptor, the bytes of it that the
device owns, and how a predecessor finishes or breaks its node.
-/
namespace Sys2Proof.Machine

/-! ## Launches -/

/-- The launch of the current company. -/
def State.launch? (s : State) : Option Launch := s.cx.launches.find? fun l => l.lseq == s.co.lseq

/-- Change a launch of the current context. -/
def State.mapLaunch (s : State) (lseq : Word) (f : Launch → Launch) : State :=
  { s with cx := { s.cx with launches := s.cx.launches.map fun l => if l.lseq = lseq then f l else l } }

/-- Queue and CSN of the packet of the current company's launch. -/
def State.packetOf (s : State) : Nat × Nat := ((s.launch?).map fun l => (l.qid, l.csn)).getD (0xFFFF, 0)

/-! ## Descriptors (Table 7-5) -/

/-- Local offset of byte `o` of the descriptor at an absolute ASA. -/
def nodeAt (asa o : Nat) : Nat := atriumBase + asa + o
/-- A field of a node's descriptor. -/
def Device.nodeGet (d : Device) (asa o n : Nat) : Nat := d.load (nodeAt asa o) n
/-- Write a field of a node's descriptor, as the device. -/
def Device.nodeSet (d : Device) (asa o n v : Nat) : Device := d.putP (nodeAt asa o) (leBytes n v) 0#64

/-- QBASE, as a local offset: it is relative to the context's allocation (R25). -/
def Device.nodeRing (d : Device) (asid asa : Nat) : Nat := atriumBase + asBase d asid + bits (d.nodeGet asa 0x00 4) 27 6 * 64
/-- QCAP. -/
def Device.nodeCap (d : Device) (asa : Nat) : Nat := d.nodeGet asa 0x04 4
/-- RSIZE. -/
def Device.nodeSize (d : Device) (asa : Nat) : Nat := d.nodeGet asa 0x08 2
/-- EMITTED. -/
def Device.nodeEmitted (d : Device) (asa : Nat) : Nat := d.nodeGet asa 0x18 4
/-- CLAIMED. -/
def Device.nodeClaimed (d : Device) (asa : Nat) : Nat := d.nodeGet asa 0x1C 4
/-- EMITTED − CLAIMED. -/
def Device.nodeHeld (d : Device) (asa : Nat) : Nat := (d.nodeEmitted asa + 2 ^ 32 - d.nodeClaimed asa) % 2 ^ 32
/-- STATE: 0 OPEN, 1 CLOSED, 2 BROKEN. -/
def Device.nodeState (d : Device) (asa : Nat) : Nat := d.nodeGet asa 0x2A 1
/-- Local offset of the slot of record number `n`. -/
def Device.nodeSlot (d : Device) (asid asa n : Nat) : Nat :=
  d.nodeRing asid asa + n % max 1 (d.nodeCap asa) * d.nodeSize asa

/-- How bytes of a descriptor or a ring decode against the carved size, as an offset of own memory says (R23, R25). -/
def Device.storeOut (d : Device) (off n : Nat) : LOut :=
  match decodeOwn d .plain off with
  | .at l => match decodeOwn d .plain (off + n - 1) with
    | .at _ => .at l
    | o => o
  | o => o

/-- Whether bytes of a descriptor or a ring can be reached now. -/
def Device.inCarve (d : Device) (off n : Nat) : Bool :=
  match d.storeOut off n with
  | .at _ => true
  | _ => false

/-- A live node of the current context by the name that an instruction gives: an ASA relative to its allocation (R281). -/
def State.node? (s : State) (name : Nat) : Option Node :=
  if name % 64 ≠ 0 then none else s.cx.nodes.find? fun n => n.asa == asBase s.dev s.co.asid + name

/-- Every live node. -/
def State.allNodes (s : State) : List Node := s.contexts.flatMap fun c => c.nodes

/-- Put back the bytes of live descriptors that a software write reached but the device owns, and the poison of the granules in
which it reached no other byte (R188). -/
def Device.keepOwned (old new : Device) (ns : List Node) (off len : Nat) : Device :=
  ns.foldl (fun d n =>
    let a := nodeAt n.asa 0x18
    if off < a + 0x28 ∧ a < off + len then
      let gs := if a ≤ off then [a / 16, a / 16 + 1, a / 16 + 2] else [a / 16 + 1, a / 16 + 2]
      { d with mem := Store.setRun 0#8 d.mem a (old.bytes a 0x28)
               bad := gs.foldl (fun b g => Store.set false b g (Store.get false old.bad g)) d.bad }
    else d) new

/-- What a software write of a run of own memory leaves of the device: the bytes of live descriptors that the device owns stay
(R188). -/
def State.keptIn (s : State) (d : Device) (off len : Nat) : Device :=
  if regionOf off = .atrium then s.dev.keepOwned d s.allNodes off len else d

/-- A software write of own memory, which leaves the device's bytes of descriptors alone (R188). -/
def State.softWrite (s : State) (off len : Nat) (d : Device) : State := s.setDev (s.keptIn d off len)

/-! ## Finishing and breaking (R189) -/

/-- A predecessor finishes: LIVEPRED falls, and an OPEN node without predecessors is CLOSED. -/
def Device.finishPred (d : Device) (asa : Nat) : Device :=
  let n := d.nodeGet asa 0x28 2 - 1
  let d := d.nodeSet asa 0x28 2 n
  if n = 0 ∧ d.nodeState asa = 0 then d.nodeSet asa 0x2A 1 1 else d

/-- A node breaks: an OPEN node becomes BROKEN. -/
def Device.breakNode (d : Device) (asa : Nat) : Device := if d.nodeState asa = 0 then d.nodeSet asa 0x2A 1 2 else d

/-- A launch of the current context finishes for its node, once. -/
def State.finishFor (s : State) (l : Launch) : State :=
  match l.pnode with
  | some a =>
    if l.finished then s
    else (s.mapLaunch l.lseq fun x => { x with finished := true }).setDev (s.dev.finishPred a)
  | none => s

/-- Whether the records of a launch are discarded at a node: it is no predecessor, or has finished (R282, R355). -/
def Launch.mute (l : Launch) (asa : Nat) : Bool := l.finished || l.pnode != some asa

end Sys2Proof.Machine
end

