-- ==== Sys2Proof/Machine/Link.lean ====
section
/-!
DEFINITION. The fabric side of a device that instructions and queues use: planes (R133, R134), requests in
coalescer order (R136 to R138), ordering markers (R140, R141), the host window (R19, R126).
-/
namespace Sys2Proof.Machine

/-- TYPE codes of Table 5-3. -/
def ptRD : Nat := 0
/-- WR. -/
def ptWR : Nat := 1
/-- ATOM. -/
def ptATOM : Nat := 2
/-- RED. -/
def ptRED : Nat := 3
/-- RSP. -/
def ptRSP : Nat := 4
/-- MARK. -/
def ptMARK : Nat := 5
/-- SIG. -/
def ptSIG : Nat := 6
/-- MCW. -/
def ptMCW : Nat := 7
/-- MCR. -/
def ptMCR : Nat := 8
/-- MCS. -/
def ptMCS : Nat := 9
/-- UNDLV. -/
def ptUNDLV : Nat := 10

/-- A packet with a type, a target and a line, every other field zero. -/
def Packet.basic (type dst line : Nat) : Packet :=
  { type := type, op := 0, src := 0, dst := dst, tag := 0, nops := 0, line := line, xtra := 0, be := 0#64, data := [], poison := 0#64
    entries := [], malformed := false }

end Sys2Proof.Machine

/-- STATUS of a response (R139). -/
def Sys2Proof.Packet.status (p : Sys2Proof.Packet) : Nat := p.xtra % 16

/-- The bytes of an operation entry of a packet: its descriptor, operand and, for compare-and-swap, compare value (Table 5-3). -/
def Sys2Proof.Entry.bytes (op : Nat) (e : Sys2Proof.Entry) : Nat :=
  8 + (if 16 ≤ op ∧ e.size = 6 then 12 else if e.size = 6 then 4 else 2 ^ e.size) + (if op = 7 then 2 ^ e.size else 0)

/-- The bytes of a packet: its header and its payload (Tables 5-2 and 5-3). -/
def Sys2Proof.Packet.bytes (p : Sys2Proof.Packet) : Nat :=
  16 + (if p.type = Sys2Proof.Machine.ptWR ∨ p.type = Sys2Proof.Machine.ptMCW then 72 else if p.type = Sys2Proof.Machine.ptRSP ∨ p.type = Sys2Proof.Machine.ptMCS then p.data.length
    else (p.entries.map (Sys2Proof.Entry.bytes p.op)).sum)

/-- The flits over which a packet spans, 224 bytes in each (R138, Table 5-4, log entry 21). -/
def Sys2Proof.Packet.flits (p : Sys2Proof.Packet) : Nat := (p.bytes + 223) / 224

/-- Whether a packet goes to a multicast group. -/
def Sys2Proof.Packet.multi (p : Sys2Proof.Packet) : Bool := p.type == Sys2Proof.Machine.ptMCW || p.type == Sys2Proof.Machine.ptMCR

namespace Sys2Proof.Machine

/-! ## Planes -/

/-- UP: bit q is 1 while port q is in state UP (R134). -/
def Device.up (d : Device) : Nat :=
  (List.range 64).foldl (fun m q => if ((d.fabric.ports.getD q Port.off).state == 3) then m + 2 ^ q else m) 0

/-- plane_for of R134. -/
def planeFor (line mask : Nat) : Option Nat := ((List.range 64).map fun i => (line % 64 + i) % 64).find? fun q => bit mask q

/-- PMASK of a device (Table 5-1). -/
def Device.pmask (d : Device) (t : Nat) : Nat := d.reg (0x10000 + 8 * t)

/-- The effective mask for a device (R134). -/
def Device.effMask (d : Device) (t : Nat) : Nat := d.pmask t &&& d.up

/-- The planes of a mask, ascending. -/
def planesOf (m : Nat) : List Nat := (List.range 64).filter fun q => bit m q

/-! ## Ports and modules (R147, R151) -/

/-- Put a sequenced flit that ends these packets into the replay buffer (R147). -/
def Port.put (p : Port) (ks : List Packet) : Port :=
  { p with buffer := p.buffer ++ [(p.txnext, ks)], txnext := (p.txnext + 1) % 4096 }

/-- Whether a port of a replay buffer of `cap` flits may send a packet: it is UP, no counter of its key has run out, and there is
room for every flit of the packet (R147, R150). -/
def Port.room (cap : Nat) (p : Port) (k : Packet) : Bool :=
  p.state == 3 && !(p.keyed && decide (2 ^ 47 ≤ max p.gcm p.rxgcm)) && decide (p.buffer.length + k.flits ≤ cap)

/-- The flits of a packet enter the replay buffer; each advances the counter of the transmit key (R147, R149). -/
def Port.carry (p : Port) (k : Packet) : Port :=
  let q := (List.range (k.flits - 1)).foldl (fun q _ => q.put []) p
  { q.put [k] with gcm := if p.keyed then p.gcm + k.flits else p.gcm }

/-- Hand a packet to a plane port: into the replay buffer while it has room, else it waits (R147). -/
def Port.push (p : Port) (k : Packet) : Port :=
  if p.waiting = [] ∧ p.room 512 k then p.carry k else { p with waiting := p.waiting ++ [k] }

/-- Change a port. -/
def Device.onPort (d : Device) (q : Nat) (f : Port → Port) : Device :=
  { d with fabric := { d.fabric with ports := d.fabric.ports.mapIdx fun i p => if i = q then f p else p } }

/-- A plane port, or for 64 to 79 a UCIe module. -/
def Device.portAt (d : Device) (q : Nat) : Port :=
  if q < 64 then d.fabric.ports.getD q Port.off else d.fabric.modules.getD (q - 64) Port.off

/-- Change a plane port or a module. -/
def Device.mapPort (d : Device) (q : Nat) (f : Port → Port) : Device :=
  if q < 64 then d.onPort q f
  else { d with fabric := { d.fabric with modules := d.fabric.modules.mapIdx fun i p => if i + 64 = q then f p else p } }

/-- The module on which a line crosses to a vestibule: module LINE[2:0], or the next that is up (R151). -/
def Device.moduleFor (d : Device) (v line : Nat) : Option Nat :=
  ((List.range 8).map fun i => 8 * v + (line + i) % 8).find? fun m => (d.portAt (64 + m)).state == 3

/-- Send a packet on a plane: over a module to the plane's vestibule, whose end takes it at once, and to the port. Without room on
the module, or behind a packet of its line that waits, it waits (R147, R151, log entry 76). -/
def Device.sendOn (d : Device) (q : Nat) (k : Packet) : Device :=
  match d.moduleFor (q / 32) k.line with
  | some m =>
    if (d.portAt (64 + m)).room 128 k && !(d.fabric.crossing.any fun w => w.1 / 32 == q / 32 && w.2.line % 8 == k.line % 8) then
      (d.mapPort (64 + m) fun p => p.carry k).onPort q fun p => p.push k
    else { d with fabric := { d.fabric with crossing := d.fabric.crossing ++ [(q, k)] } }
  | none => { d with fabric := { d.fabric with crossing := d.fabric.crossing ++ [(q, k)] } }

/-- Packets that wait to cross do so while a module has room. -/
def Device.cross (d : Device) : Device :=
  d.fabric.crossing.foldl (fun d w => d.sendOn w.1 w.2) { d with fabric := { d.fabric with crossing := [] } }

/-- Whether every module of a vestibule is down (R152). -/
def Device.vestDown (d : Device) (v : Nat) : Bool := (List.range 8).all fun k => (d.portAt (64 + 8 * v + k)).state == 4

/-- The vestibule of an offset of second-tier memory (R17). -/
def vestOf (off : Nat) : Nat := off / 4096 % 2

/-- Whether an access of this device's own memory needs a vestibule that is down (R17, R152). -/
def Device.tierDown (d : Device) (off : Nat) : Bool := regionOf off == .tier2 && d.vestDown (vestOf off)

/-! ## Holds (R135, R140, R148) -/

/-- The planes of dead ports whose held flits are not yet resolved (R148). -/
def Device.resolving (d : Device) : Nat :=
  (List.range 64).foldl (fun m q => if (d.fabric.ports.getD q Port.off).resolve then m + 2 ^ q else m) 0

/-- The MCGTAB entry of a group. -/
def mcgtab (g : Nat) : Nat := 0x40000 + 128 * g
/-- GMASK. -/
def Device.gmask (d : Device) (g : Nat) : Nat := d.reg (mcgtab g + 80)

/-- The mask of planes that reach what a packet is for (R134). -/
def Device.maskFor (d : Device) (p : Packet) : Nat := if p.multi then d.gmask p.dst else d.pmask p.dst

/-- The plane for a line to a device, over a vestibule that is up. -/
def Device.planeTo (d : Device) (t line : Nat) : Option Nat :=
  match planeFor line (d.effMask t) with
  | some q => if d.vestDown (q / 32) then none else some q
  | none => none

/-- The plane on which a packet leaves now: by the group's mask for multicast (R134, R152, R285). -/
def Device.planeNow (d : Device) (p : Packet) : Option Nat :=
  if p.multi then
    match planeFor p.line (d.gmask p.dst &&& d.up) with
    | some q => if d.vestDown (q / 32) then none else some q
    | none => none
  else d.planeTo p.dst p.line

/-- The planes of a marker's copies: those of the effective mask whose vestibule is not down (R140, R152). -/
def Device.markPlanes (d : Device) (t : Nat) : List Nat := (planesOf (d.effMask t)).filter fun q => !d.vestDown (q / 32)

/-- How many markers to a device are sent and unanswered. -/
def Device.markersTo (d : Device) (t : Nat) : Nat :=
  (d.fabric.requests.filter fun r => r.packet.type == ptMARK && r.packet.dst == t && !r.held).length

/-- Whether a change of plane mask moves a packet to another plane; it may move any copy of a marker (R135). -/
def Device.moving (d : Device) (p : Packet) : Bool :=
  !p.multi && d.fabric.changing.any fun c =>
    c.1 == p.dst && (p.type == ptMARK || planeFor p.line (c.2 &&& d.up) != planeFor p.line (d.effMask p.dst))

/-- Whether a packet's plane is a dead port's that is not yet resolved (R148). -/
def Device.stuck (d : Device) (p : Packet) : Bool :=
  if p.type = ptMARK then d.pmask p.dst &&& d.resolving != 0
  else match planeFor p.line (d.maskFor p &&& (d.up ||| d.resolving)) with
    | some q => bit d.resolving q
    | none => false

/-- Whether a new packet waits at the sequencer: for a change of plane mask (R135), for the resolution of a dead port (R148), as a
marker beyond the sixteenth, or behind such a packet: one of its line, a marker to its target, or, itself a marker, any to its
target (R140). -/
def Device.holds (d : Device) (p : Packet) : Bool :=
  d.moving p || d.stuck p || (p.type == ptMARK && decide (16 ≤ d.markersTo p.dst)) ||
    d.fabric.waitq.any fun w => w.dst == p.dst && w.multi == p.multi && (w.type == ptMARK || p.type == ptMARK || w.line == p.line)

/-- Mark a request. -/
def Device.mapRequest (d : Device) (tag : Nat) (f : Request → Request) : Device :=
  { d with fabric := { d.fabric with requests := d.fabric.requests.map fun r => if r.tag = tag then f r else r } }

/-- A packet leaves the sequencer on its present plane, a marker on every plane that reaches its target; none where no plane does
(R134, R140). -/
def Device.launch (d : Device) (p : Packet) : Option Device :=
  if p.type = ptMARK then
    match d.markPlanes p.dst with
    | [] => none
    | q :: qs =>
      let k := { p with xtra := p.xtra % 2 ^ 16 + (qs.length + 1) * 2 ^ 16 }
      let e := d.mapRequest p.tag fun r => { r with plane := q, packet := k, copies := q :: qs, held := false, returned := false }
      some ((q :: qs).foldl (fun d q => d.sendOn q k) e)
  else match d.planeNow p with
    | none => none
    | some q =>
      let e := if p.type = ptRSP then d else d.mapRequest p.tag fun r => { r with plane := q, held := false, returned := false }
      some (e.sendOn q p)

/-! ## Requests -/

/-- BRIDGECFG.STRAP, VALID and BRIDGEDEV (Table 5-8). -/
def Device.isBridge (d : Device) : Bool := bit (d.reg 0x30000) 31
/-- BRIDGECFG.VALID. -/
def Device.bridgeSet (d : Device) : Bool := bit (d.reg 0x30000) 30
/-- BRIDGECFG.BRIDGEDEV. -/
def Device.bridgeDev (d : Device) : Nat := bits (d.reg 0x30000) 9 0

/-- A request with its source and tag, and who waits for its answer, in the list of those outstanding. -/
def Device.enlist (d : Device) (p : Packet) (who : Requester) (held : Bool) : Device :=
  let r : Request := { tag := p.tag, plane := 64, packet := p, who := who, copies := [], held := held, returned := false }
  { d with fabric := { d.fabric with requests := d.fabric.requests ++ [r], tag := (d.fabric.tag + 1) % 4096 } }

/-- Send a request to a device or a group and remember who waits for its answer; none where no plane reaches it (R134, R137). The
12-bit tag counts on; 4,096 outstanding requests are no case of the spec's (DESIGN CHOICE, log entry 77). -/
def Device.request (d : Device) (p : Packet) (who : Requester) : Option Device :=
  let k := { p with src := d.num, tag := d.fabric.tag % 4096 }
  if d.holds k then
    let e := d.enlist k who true
    some { e with fabric := { e.fabric with waitq := e.fabric.waitq ++ [k] } }
  else (d.enlist k who false).launch k

/-- Send a request to the host window: on the PCIe link of a bridge, else to the bridge device (R19, R154). The link's first lanes
are ports of vestibule 0 (R133, R153). -/
def Device.hostRequest (d : Device) (p : Packet) (who : Requester) : Option Device :=
  if d.bridgeSet = false then none
  else if d.isBridge then
    if d.fabric.linkUp && !d.vestDown 0 then
      let k := { p with src := d.num, dst := d.num, tag := d.fabric.tag % 4096 }
      let e := d.enlist k who false
      some { e with fabric := { e.fabric with pcie := e.fabric.pcie ++ [k] } }
    else none
  else d.request { p with dst := d.bridgeDev } who

/-- Whether a request went out on this device's own PCIe link. -/
def Device.onPcie (d : Device) (r : Request) : Bool := r.plane == 64 && r.packet.dst == d.num && !r.held

/-- The line of a local offset. -/
def lineOf (off : Nat) : Nat := off / 64

/-- Send a request for a line at a target outside this device. -/
def Device.requestAt (d : Device) (l : Loc) (p : Packet) (who : Requester) : Option Device :=
  match l with
  | .far h off => d.request { p with dst := h, line := lineOf off } who
  | .host off => d.hostRequest { p with line := lineOf (hostBase + off) } who
  | _ => none

/-- Whether a vestibule that is down cuts off a line of a device (R152). -/
def Device.cutOff (d : Device) (t line : Nat) : Bool :=
  match planeFor line (d.effMask t) with
  | some q => d.vestDown (q / 32)
  | none => false

/-- The device that a failure at a target names: this one where a vestibule is down (R20, R152, R154). -/
def Device.failedDev (d : Device) (l : Loc) : Nat :=
  match l with
  | .mem _ => d.num
  | .far h o => if d.cutOff h (lineOf o) then d.num else h
  | .host o => if (d.isBridge && d.fabric.linkUp && d.vestDown 0) || (!d.isBridge && d.cutOff d.bridgeDev (lineOf (hostBase + o)))
      then d.num else d.bridgeDev
  | _ => d.bridgeDev

/-- The device that a failure of a multicast packet without a plane names: the first member, or this one where a vestibule is down
(R20, R152). -/
def Device.failedGroup (d : Device) (p : Packet) : Nat :=
  match planeFor p.line (d.gmask p.dst &&& d.up) with
  | some _ => d.num
  | none => ((List.range 512).find? fun t => bit (d.reg (mcgtab p.dst + 8 * (t / 64))) (t % 64)).getD 0

/-! ## Multicast groups (R143, Table 5-7) -/

/-- GBASE. -/
def Device.gbase (d : Device) (g : Nat) : Nat := bits (d.reg (mcgtab g + 64)) 47 16 * 0x10000
/-- GLEN. -/
def Device.glen (d : Device) (g : Nat) : Nat := d.reg (mcgtab g + 72)
/-- VALID. -/
def Device.gvalid (d : Device) (g : Nat) : Bool := bit (d.reg (mcgtab g + 88)) 0
/-- Whether a device is a member. -/
def Device.isMember (d : Device) (g t : Nat) : Bool := decide (t < 512) && bit (d.reg (mcgtab g + 8 * (t / 64))) (t % 64)
/-- The members, in ascending device number. -/
def Device.members (d : Device) (g : Nat) : List Nat := (List.range 512).filter (d.isMember g)
/-- The first member. -/
def Device.firstMember (d : Device) (g : Nat) : Nat := (d.members g).headD 0

/-! ## Markers and answers (R138, R140, R141) -/

/-- Send an ordering marker to a device: a copy on every plane that reaches it; none where no plane does. -/
def Device.sendMarker (d : Device) (t : Nat) (who : Requester) : Option Device :=
  let no := Store.get 0 d.fabric.markno t
  match d.request { Packet.basic ptMARK t 0 with xtra := no % 2 ^ 16 } who with
  | none => none
  | some e => some { e with fabric := { e.fabric with markno := Store.set 0 e.fabric.markno t ((no + 1) % 2 ^ 16) } }

/-- Send a packet that answers another, on the plane of its line and under the same holds (R135, R138); where no plane reaches
its target it is lost (R155). -/
def Device.answer (d : Device) (p : Packet) : Device :=
  let d := { d with fabric := { d.fabric with sent := d.fabric.sent ++ [(p.dst, p)] } }
  if d.holds p then { d with fabric := { d.fabric with waitq := d.fabric.waitq ++ [p] } } else (d.launch p).getD d

/-- Whether a remote SEMA of a cohort awaits its answer. -/
def Device.waitsForSema (d : Device) (dseq j : Nat) : Bool := d.fabric.requests.any fun r => r.who == .sema dseq j

/-- Forget an answered or failed request, and its packet where it still waits at the sequencer. -/
def Device.dropRequest (d : Device) (tag : Nat) : Device :=
  { d with fabric := { d.fabric with requests := d.fabric.requests.eraseP (fun r => r.tag == tag)
                                     waitq := d.fabric.waitq.filter fun p => p.type == ptRSP || p.tag != tag } }

end Sys2Proof.Machine
end

