-- ==== Sys2Proof/Machine/Ctrl.lean ====
section
/-!
DEFINITION. Device control space (R18): the access codes of every register by offset, the plain store and
load of a register, and the event ring (R360).
-/
namespace Sys2Proof.Machine

/-- Bits [hi:lo] as a mask. -/
def fieldMask (hi lo : Nat) : Nat := 2 ^ (hi + 1) - 2 ^ lo

/-- The RW bits and the RW1C bits of the 8 bytes at an offset, for registers that the driver may write (R6; the
tables of each register). Offsets not named have none. -/
def ctrlBits (off : Nat) : Nat × Nat :=
  match off with
  | 0x1000 => (0, 2 ^ 8)
  | 0x2000 | 0x2008 => (fieldMask 47 16, 0)
  | 0x2100 => (fieldMask 29 28 + fieldMask 11 0, 2 ^ 30)
  | 0x2108 | 0x2110 => (2 ^ 64 - 1, 0)
  | 0x2200 => (fieldMask 47 24, 0)
  | 0x2208 => (fieldMask 55 24, 0)
  | 0x2320 => (0, fieldMask 31 28)
  | 0x4008 => (0, 2 ^ 31)
  | 0x6000 | 0x6008 => (fieldMask 11 0, 2 ^ 30)
  | 0x6010 => (fieldMask 47 16, 0)
  | 0x6018 => (fieldMask 55 1, 0)
  | 0x50000 => (fieldMask 47 18, 0)
  | 0x50008 => (0, 2 ^ 30)
  | 0x50010 => (fieldMask 47 16 + fieldMask 4 0, 0)
  | 0x50018 => (fieldMask 31 0, 0)
  | 0x60008 => (fieldMask 47 30 + fieldMask 5 0, 0)
  | 0x60010 => (fieldMask 31 0, 0)
  | 0x60020 => (0, 2 ^ 63)
  | 0x60040 | 0x60050 | 0x60060 | 0x60070 => (2 ^ 63 + fieldMask 43 0, 2 ^ 62)
  | 0x60048 | 0x60058 | 0x60068 | 0x60078 => (fieldMask 31 0, 0)
  | 0x60100 => (fieldMask 47 16 + fieldMask 4 0, 0)
  | 0x60108 => (fieldMask 3 0, 0)
  | 0x60110 => (fieldMask 31 0, 0)
  | 0x60118 => (2 ^ 63 + fieldMask 43 0, 2 ^ 62)
  | 0x60200 => (fieldMask 47 16 + fieldMask 3 0, 0)
  | 0x60208 => (fieldMask 31 0, 0)
  | 0x60210 => (fieldMask 11 0, 2 ^ 30)
  | 0x70040 => (0, 2 ^ 31)
  | 0x70100 => (fieldMask 1 0, 2 ^ 30)
  | _ => if 0x31000 ≤ off ∧ off < 0x31200 then (2 ^ 63 + fieldMask 57 48 + fieldMask 47 30, 0) else (0, 0)

end Sys2Proof.Machine

namespace Sys2Proof

/-- Whether a write is the host driver's: by itself, or from the host through a BAR or the fabric (R10, R154). -/
def Agent.isDriver (a : Agent) : Bool := a == .driver || a == .host

/-- The bits that a write of `len` bytes at an offset covers of the 8 bytes that hold it. -/
def coverMask (off len : Nat) : Nat := (2 ^ (8 * len) - 1) * 2 ^ (8 * (off % 8)) % 2 ^ 64

/-- The value of a write, in place within the 8 bytes that hold it. -/
def RegWrite.placed (w : RegWrite) : Nat := w.val % 2 ^ (8 * w.len) * 2 ^ (8 * (w.off % 8))
/-- The offset of the 8 bytes that a write reaches. -/
def RegWrite.base (w : RegWrite) : Nat := w.off / 8 * 8
/-- The bits of those 8 bytes that it covers. -/
def RegWrite.cover (w : RegWrite) : Nat := coverMask w.off w.len
/-- Bits of a write that it covers and sets. -/
def RegWrite.ones (w : RegWrite) : Nat := w.placed &&& w.cover
/-- An access of device control space: 1, 2, 4 or 8 bytes, aligned (R18). -/
def RegWrite.ok (w : RegWrite) : Bool :=
  (w.len == 1 || w.len == 2 || w.len == 4 || w.len == 8) && w.off % w.len == 0 && decide (w.off + w.len ≤ 0x40000000)
/-- Whether a write sets bit `i` of the register at an offset. -/
def RegWrite.sets (w : RegWrite) (off i : Nat) : Bool := w.ok && w.base == off && Machine.bit w.ones i

end Sys2Proof

namespace Sys2Proof.Machine

/-- A value after a write with given RW and RW1C bits (R6, R18). -/
def ctrlMerge (old rw w1c cover val : Nat) : Nat :=
  let keep := (2 ^ 64 - 1) ^^^ (rw &&& cover)
  let x := (old &&& keep) ||| (val &&& rw &&& cover)
  x &&& ((2 ^ 64 - 1) ^^^ (val &&& w1c &&& cover))

/-- The plain effect of a write: RW fields stored, RW1C bits cleared, every other field ignored (R6, R18). -/
def Device.regStore (d : Device) (w : RegWrite) : Device :=
  if w.ok then
    let m := ctrlBits w.base
    d.setReg w.base (ctrlMerge (d.reg w.base) m.1 m.2 w.cover w.placed)
  else d

/-- A write with the RW bits of one row of its own: fields that GO takes from the register as the store leaves it (R18). -/
def Device.regStoreAs (d : Device) (w : RegWrite) (rw w1c : Nat) : Device :=
  d.setReg w.base (ctrlMerge (d.reg w.base) rw w1c w.cover w.placed)

/-- Where what stands beside a register of control space is held: the pending FEATACC, of which reads return the installed subset
(Table 19-3), and the bits of a field that the management processor has written. -/
def featPending (off : Nat) : Nat := off + 0x40000000

/-- A write of the fields of a register that become valid once they are written: bit `valid` is set when the writes so far have
covered every bit of them (Tables 1-3 and 5-8; DEDUCED, log entry 68). -/
def Device.writeOnce (d : Device) (w : RegWrite) (fields valid : Nat) : Device :=
  let e := d.regStoreAs w fields 0
  let seen := e.reg (featPending w.base) ||| (w.cover &&& fields)
  let e := e.setReg (featPending w.base) seen
  if seen = fields then e.setReg w.base (e.reg w.base ||| 2 ^ valid) else e

/-! ## The event ring (R360) -/

/-- An event record (Table 13-7). -/
def eventBytes (type qid csn d0 d1 enum : Nat) : List Byte :=
  leBytes 1 type ++ leBytes 1 0 ++ leBytes 2 qid ++ leBytes 4 csn ++ leBytes 8 d0 ++ leBytes 8 d1 ++ leBytes 8 enum

/-- EVBASE.LOG2. -/
def Device.evLog2 (d : Device) : Nat := bits (d.reg 0x50010) 4 0
/-- EVSTAT.WPTR. -/
def Device.evWptr (d : Device) : Nat := bits (d.reg 0x50020) 63 32
/-- Records in the ring that the driver has not consumed. -/
def Device.evHeld (d : Device) : Nat := (d.evWptr + 2 ^ 32 - bits (d.reg 0x50018) 31 0) % 2 ^ 32
/-- Whether the ring is enabled. -/
def Device.evOn (d : Device) : Bool := decide (6 ≤ d.evLog2 ∧ d.evLog2 ≤ 16)
/-- Whether the ring has room for a record. -/
def Device.evRoom (d : Device) : Bool := d.evOn && decide (d.evHeld < 2 ^ d.evLog2)

/-- Write a record into the ring, advance WPTR and raise the MSI-X vector. -/
def Device.evWrite (d : Device) (r : List Byte) : Device :=
  let a := bits (d.reg 0x50010) 47 16 * 0x10000 + 32 * (d.evWptr % 2 ^ d.evLog2)
  let d := d.putP a r 0#64
  let d := d.setField 0x50020 63 32 (d.evWptr + 1)
  let v := 8 * bits (d.reg 0x30000) 12 10 + leNat (r.take 1) - 1
  { d with fabric := { d.fabric with msix := d.fabric.msix ++ [v] } }

/-- Post a device event: written, kept while the ring is full, or lost (R360). -/
def Device.post (d : Device) (type qid csn d0 d1 : Nat) : Device :=
  let r := eventBytes type qid csn d0 d1 d.enum
  let d := { d with enum := d.enum + 1 }
  if d.evRoom ∧ d.events = [] then d.evWrite r
  else if d.evOn ∧ d.events.length < 256 then { d with events := d.events ++ [r] }
  else d.setField 0x50020 15 0 (min (bits (d.reg 0x50020) 15 0 + 1) 0xFFFF)

/-- EVENT_RING_WRITE: the oldest kept event is written once the ring has room (R360). -/
def execEventRingWrite (s : State) : Out :=
  .next (match s.dev.events with
    | [] => s
    | e :: es => if s.dev.evRoom then s.setDev ({ s.dev with events := es }.evWrite e) else s)

/-- Notify the management processor. -/
def Device.notify (d : Device) (source place : Nat) (addr : Option Nat) : Device :=
  { d with mgmt := d.mgmt ++ [{ source := source, place := place, addr := addr }] }

/-! ## Reading registers -/

/-- PORTSTAT of a port (Table 5-5). -/
def Port.stat (p : Port) : Nat :=
  p.rxnext * 2 ^ 52 + p.txnext * 2 ^ 40 + p.retrain * 2 ^ 32 + p.replay * 2 ^ 16 + p.malf * 2 ^ 8
    + (if p.keyed then 128 else 0) + (if p.resolve then 64 else 0) + p.state

/-- A flight header (Table 13-11). -/
def Flight.header (f : Flight) : List Byte :=
  leBytes 1 f.state ++ leBytes 1 (if f.gguard then 1 else 0) ++ leBytes 1 f.npreq ++ leBytes 1 f.cog.length
    ++ leBytes 4 f.treads.length ++ leBytes 8 f.ptgen.toNat ++ leBytes 4 f.glgen.toNat ++ leBytes 4 f.featgen.toNat
    ++ leBytes 4 f.runs ++ leBytes 4 0
    ++ (f.cog.flatMap fun p => leBytes 8 p.1.toNat ++ leBytes 8 p.2.toNat) ++ List.replicate (480 - 16 * f.cog.length) 0#8

/-- The 8 bytes of device control space at an offset, without effects of reading (R18). -/
def Device.ctrlValue (d : Device) (off : Nat) : Nat :=
  if off = 0x2320 then
    (d.reg off &&& fieldMask 31 28) + d.pool2m.length * 2 ^ 13 + d.pool64k.length
  else if 0x20000 ≤ off ∧ off < 0x20200 then (d.fabric.ports.getD ((off - 0x20000) / 8) Port.off).stat
  else if 0x80000 ≤ off ∧ off < 0xA0000 then
    leNat (((Store.get Flight.empty d.flights ((off - 0x80000) / 512)).header.drop ((off - 0x80000) % 512)).take 8)
  else if 0x60300 ≤ off ∧ off < 0x60360 then (if off = 0x60350 then d.reg off % 2 else 0)
  else if off = 0x2300 ∨ off = 0x2308 ∨ off = 0x2310 ∨ off = 0x2318 ∨ off = 0x3080 then 0
  else d.reg off

end Sys2Proof.Machine
end

