-- ==== Sys2Proof/Machine/Cache.lean ====
section
/-!
DEFINITION. The L2s, the L3 and the directory (R61 to R67): which blocks and lines each holds, with the directory's state of every
line that an L2 holds. The bytes themselves stand in memory, as the halls see them (R115).
-/
namespace Sys2Proof.Machine

/-! ## Blocks of a line (R62, R63) -/

/-- The words of a line that a block holds. -/
def L2Block.holds (b : L2Block) (k : Nat) : Bool := decide (b.first ≤ k ∧ k < b.first + b.words)

/-- The bytes of words `[first, first + n)` of a line. -/
def wordBytes (first n : Nat) : DWord := maskOf ((List.range 64).filter fun i => decide (8 * first ≤ i ∧ i < 8 * (first + n)))

/-- Whether a mask of bytes of a line touches word `k`. -/
def touchesWord (m : DWord) (k : Nat) : Bool := (m >>> (8 * k)) &&& 0xFF#64 != 0#64

/-- The blocks of a line that a hall's L2 holds. -/
def Device.l2Of (d : Device) (h line : Nat) : List L2Block := d.l2.filter fun b => b.hall == h && b.line == line

/-- The maximal runs of wanted words that no block holds, from word `k` on, `n` words being left: first word and length. -/
def freeRuns (want : Nat → Bool) : Nat → Nat → List (Nat × Nat)
  | 0, _ => []
  | n + 1, k =>
    let rest := freeRuns want n (k + 1)
    if want k then (match rest with
      | (f, m) :: more => if f = k + 1 then (k, m + 1) :: more else (k, 1) :: rest
      | [] => [(k, 1)])
    else rest

/-- The runs of words for which new blocks are made: from the first to the last word that the request needs and no block holds,
at least `size` words, cut where blocks of the line stand already (R62). -/
def newRuns (held : List L2Block) (need : DWord) (size : Nat) : List (Nat × Nat) :=
  let free (k : Nat) : Bool := !(held.any fun b => b.holds k)
  match (List.range 8).filter (fun k => touchesWord need k && free k) with
  | [] => []
  | lo :: ks =>
    let stop := max (ks.getLastD lo + 1) (lo + size)
    freeRuns (fun k => decide (lo ≤ k ∧ k < stop) && free k) 8 0

/-- Words of data in a hall's L2. -/
def l2Words (bs : List L2Block) (h : Nat) : Nat := ((bs.filter fun b => b.hall == h).map L2Block.words).sum

/-- Words of data that an L2 of 96 MiB holds (R61). -/
def l2Room : Nat := 12582912

/-! ## The L3 (R65) -/

/-- The bank of a line of memory (R65). -/
def lineBank (line : Nat) : Nat := (line % 512) ^^^ (line / 512 % 512)

/-- Lines that a bank may cache: 24 ways of 1024, less 512 for each carved unit (R21, R65). -/
def Device.l3Room (d : Device) : Nat := 24 * 1024 - 512 * (max d.carve (if d.carving then d.carveOld else 0) / 0x1000000)

/-- Take out the oldest line of a bank while it holds more than `n`, writing a dirty one back. -/
def l3Trim (bank n : Nat) : List L3Line → List L3Line
  | [] => []
  | x :: xs =>
    if lineBank x.line == bank && decide (n < ((x :: xs).filter fun y => lineBank y.line == bank).length) then l3Trim bank n xs
    else x :: l3Trim bank n xs

/-- A line of memory is used in the L3, which holds it from then on; a write makes it dirty (R65). -/
def Device.l3Use (d : Device) (line : Nat) (write : Bool) : Device :=
  let old := d.l3.find? fun x => x.line == line
  let x : L3Line := { line := line, dirty := write || old.any (·.dirty) }
  { d with l3 := l3Trim (lineBank line) d.l3Room ((d.l3.filter fun y => y.line != line) ++ [x]) }

/-- Write back and take out the lines of every bank beyond what the carve leaves it (step 1 of R22). -/
def Device.l3Shrink (d : Device) : Device :=
  { d with l3 := (List.range 512).foldl (fun l b => l3Trim b d.l3Room l) d.l3 }

/-! ## Leaving an L2 -/

/-- A line leaves the L2s of the halls that a test names; dirty bytes are written back to the L3 (R63, R66). -/
def Device.l2Drop (d : Device) (line : Nat) (of : Nat → Bool) : Device :=
  let out (b : L2Block) : Bool := b.line == line && of b.hall
  let e := { d with l2 := d.l2.filter fun b => !out b }
  if d.l2.any fun b => out b && b.dirty != 0#64 then e.l3Use line true else e

/-- The directory's state of a line: 0 untracked, 1 + hall mask for S, 0x100 + hall for M (R66). -/
def Device.dirOf (d : Device) (line : Nat) : Nat := Store.get 0 d.dir line

/-- The directory's state of a line after a hall gives it up. -/
def dirLeave (x h : Nat) : Nat :=
  if x = 0x100 + h then 0
  else if 0x100 ≤ x then x
  else
    let m := (x - 1) &&& (15 ^^^ 2 ^ h)
    if m = 0 then 0 else 1 + m

/-- A line is evicted from a hall's L2: dirty bytes go back, and the directory forgets the copy (R63, R66). -/
def Device.l2Evict (d : Device) (h line : Nat) : Device :=
  let e := d.l2Drop line (· == h)
  { e with dir := Store.set 0 e.dir line (dirLeave (e.dirOf line) h) }

/-- Evict the oldest lines of a hall's L2 until its blocks fit; `bs` are the blocks still to look at, oldest first (R61). -/
def Device.l2Fit (h : Nat) : List L2Block → Device → Device
  | [], d => d
  | b :: bs, d => if l2Words d.l2 h ≤ l2Room then d else l2Fit h bs (if b.hall = h then d.l2Evict h b.line else d)

/-- A hall's L2 is written back and invalidated (R439). -/
def Device.l2Flush (d : Device) (h : Nat) : Device :=
  let dirty := (d.l2.filter fun b => b.hall == h && b.dirty != 0#64).map L2Block.line
  let e := dirty.foldl (fun d line => d.l3Use line true) { d with l2 := d.l2.filter fun b => b.hall != h }
  { d with l2 := e.l2, l3 := e.l3, dir := d.dir.filterMap fun p =>
      let y := dirLeave p.2 h
      if y = 0 then none else some (p.1, y) }

/-! ## The directory (R66) -/

/-- Entries of the directory (R66). -/
def dirEntries : Nat := 16777216

/-- Every L2 gives a line up: a bank, or an agent outside the halls that writes, takes it (R66). -/
def Device.dirRecall (d : Device) (line : Nat) : Device :=
  let e := d.l2Drop line fun _ => true
  { e with dir := Store.set 0 e.dir line 0 }

/-- An agent outside the halls reads a line: a copy in M is recalled, copies in S stay (R66). -/
def Device.dirShare (d : Device) (line : Nat) : Device := if 0x100 ≤ d.dirOf line then d.dirRecall line else d

/-- Room for an entry of a line: where every entry is in use, the first line is taken out of every L2 and its entry reused. -/
def Device.dirRoom (d : Device) (line : Nat) : Device :=
  if d.dirOf line = 0 ∧ dirEntries ≤ d.dir.length then
    (match d.dir with
      | e :: _ => d.dirRecall e.1
      | [] => d)
  else d

/-- A hall reads a line: it holds it in S, and a copy in M elsewhere is recalled (R66). -/
def Device.dirRead (d : Device) (h line : Nat) : Device :=
  let x := d.dirOf line
  let d := if 0x100 ≤ x ∧ x ≠ 0x100 + h then d.dirRecall line else d.dirRoom line
  let x := d.dirOf line
  let y := if x = 0x100 + h then x else 1 + ((x - 1) ||| 2 ^ h)
  { d with dir := Store.set 0 d.dir line y }

/-- A hall takes a line in M: copies elsewhere are invalidated or recalled (R64, R66). -/
def Device.dirWrite (d : Device) (h line : Nat) : Device :=
  let d := (d.dirRoom line).l2Drop line (· != h)
  { d with dir := Store.set 0 d.dir line (0x100 + h) }

/-! ## Accesses of the halls -/

/-- The blocks that a request of a hall leaves: every byte of a block that the request finds not valid is fetched beneath the
valid ones, words that no block holds come in new blocks, and the other words of the line are dropped; a store fetches
nothing and marks its own bytes valid and dirty (R62, R63). -/
def Device.l2Take (d : Device) (h line : Nat) (need : DWord) (write : Bool) : Device :=
  let mine (b : L2Block) : Bool := b.hall == h && b.line == line
  let size := if write then 1 else Config.l2Predict d.l2Fills % 8 + 1
  let runs := newRuns (d.l2Of h line) need size
  let use (b : L2Block) : L2Block :=
    let all := wordBytes b.first b.words
    if mine b = false ∨ all &&& need = 0#64 then b
    else if write then { b with valid := b.valid ||| (all &&& need), dirty := b.dirty ||| (all &&& need) }
    else if b.valid &&& need = all &&& need then b else { b with valid := all }
  let new (r : Nat × Nat) : L2Block :=
    let all := wordBytes r.1 r.2
    { hall := h, line := line, first := r.1, words := r.2, valid := if write then all &&& need else all
      dirty := if write then all &&& need else 0#64 }
  let misses : Bool := !write && (!runs.isEmpty || d.l2.any fun b =>
    mine b && b.valid &&& need != wordBytes b.first b.words &&& need)
  let e := { d with l2 := d.l2.map use ++ runs.map new, l2Fills := d.l2Fills + runs.length }
  let e := if misses then e.l3Use line false else e
  e.l2Fit h e.l2

/-- The caches and the directory of another value of the device: their operations change nothing else. -/
def Device.withCaches (d e : Device) : Device := { d with l2 := e.l2, l3 := e.l3, l2Fills := e.l2Fills, dir := e.dir }

/-- A hall reads bytes of a line of memory through its L2 (R61, R66). -/
def Device.hallLoad (d : Device) (h line : Nat) (need : DWord) : Device :=
  d.withCaches ((d.dirRead h line).l2Take h line need false)

/-- A hall writes bytes of a line of memory in its L2 (R63, R64). -/
def Device.hallStore (d : Device) (h line : Nat) (need : DWord) : Device :=
  d.withCaches ((d.dirWrite h line).l2Take h line need true)

/-- An agent outside the halls, or a bank, reads a line of this device (R65, R66). -/
def Device.homeLoad (d : Device) (off : Nat) : Device :=
  d.withCaches (if inMemory off then (d.dirShare (off / 64)).l3Use (off / 64) false else d)

/-- An agent outside the halls, or a bank, writes a line of this device (R65, R66). -/
def Device.homeStore (d : Device) (off : Nat) : Device :=
  d.withCaches (if inMemory off then (d.dirRecall (off / 64)).l3Use (off / 64) true else d)

/-- The lines of a run of this device, each by its first byte. -/
def runLines (off n : Nat) : List Nat :=
  if n = 0 then [] else (List.range ((off + n + 63) / 64 - off / 64)).map fun k => (off / 64 + k) * 64

/-- An agent outside the halls reads a run of this device (R65, R66). -/
def Device.runLoad (d : Device) (off n : Nat) : Device := d.withCaches ((runLines off n).foldl Device.homeLoad d)

/-- An agent outside the halls writes a run of this device (R65, R66). -/
def Device.runStore (d : Device) (off n : Nat) : Device := d.withCaches ((runLines off n).foldl Device.homeStore d)

end Sys2Proof.Machine
end

