-- ==== Sys2Proof/Machine/Rmw.lean ====
section
/-!
DEFINITION. Operations that read, change and write a location indivisibly: atomics and reductions
(Table 10-3, R263, R264), element-wise updates (R71, Table 3-3) and exact cells (R72 to R76).
-/
namespace Sys2Proof.Machine

/-! ## Integer operations -/

/-- The new value of an integer operation of Table 10-3 by code, 8 UMIN and 9 UMAX, on `n` bytes. -/
def intNew (op n old operand compare : Nat) : Nat :=
  let w := 8 * n
  let so := toSigned w old
  let sx := toSigned w operand
  match op with
  | 0 => (old + operand) % 2 ^ w
  | 1 => if so ≤ sx then old else operand
  | 2 => if so ≤ sx then operand else old
  | 3 => old &&& operand
  | 4 => old ||| operand
  | 5 => old ^^^ operand
  | 6 => operand
  | 7 => if old = compare then operand else old
  | 8 => min old operand
  | _ => max old operand

/-- The code of `intNew` for an operation of REDNI (R263). -/
def redCode (b : Nat) : Nat :=
  match b with
  | 0 => 0
  | 1 => 1
  | 2 => 2
  | 3 => 8
  | 4 => 9
  | 5 => 3
  | 6 => 4
  | _ => 5

/-- The format that 0, 1 and 2 name in REDNF (R264). -/
def redFmt (f : Nat) : Fmt :=
  match f with
  | 0 => .fp32
  | 1 => .bf16
  | _ => .fp16

/-- The bytes of the element that an unordered reduction changes (R264). -/
def redBytes (f : Nat) : Nat := if f = 0 then 4 else 2

/-! ## Element-wise updates (Table 3-3) -/

/-- The new element of an update: `x` in its format, the FP32 operands a and b. -/
def bewElem (op : Nat) (g : Fmt) (x a b : Nat) : Nat :=
  let vx := value x g
  let va := value a .fp32
  let r := roundRN g va
  match op with
  | 0 => roundRN g (vx.add va)
  | 1 => roundRN g (vx.mul va)
  | 2 => roundRN g ((vx.mul va).add (value b .fp32))
  | 3 => if vx.isNan then r else if va.isNan then x else if vx.below va then r else x
  | _ => if vx.isNan then r else if va.isNan then x else if va.below vx then r else x

/-- The new bytes of a line: the mask, then a, then b, as words of `data` (R266). -/
def bewLine (op : Nat) (bf : Bool) (line data : List Byte) : List Byte :=
  let m := leNat (data.take 4)
  let a := leNat ((data.drop 4).take 4)
  let b := leNat ((data.drop 8).take 4)
  let g : Fmt := if bf then .bf16 else .fp32
  let n := if bf then 2 else 4
  (List.range (64 / n)).flatMap fun e =>
    let old := (line.drop (n * e)).take n
    if bit m e then leBytes n (bewElem op g (leNat old) a b) else old

/-! ## Exact cells (R72 to R76) -/

/-- 512 bits of two's complement. -/
def cellVal (line : List Byte) : Int := toSigned 512 (leNat line)

/-- A finite addend times 2^224. -/
def cellTerm : Val → Int
  | .fin s m e => let k : Int := (m * 2 ^ (e + 224).toNat : Nat); if s then -k else k
  | _ => 0

/-- The status bits after an addend: bit 0 NAN, 1 PINF, 2 NINF (R73). -/
def cellStat (st : Nat) : Val → Nat
  | .nan => st ||| 1
  | .inf s => if s then st ||| 4 else st ||| 2
  | _ => st

/-- The bytes of a cell after an addend (R73). -/
def cellAdd (line : List Byte) (v : Val) : List Byte := leBytes 64 (ofSigned 512 (cellVal line + cellTerm v))

/-- A cell rounded to a format (R76). -/
def cellRound (g : Fmt) (st : Nat) (line : List Byte) : Nat :=
  if bit st 0 ∨ (bit st 1 ∧ bit st 2) then g.nanOut
  else if bit st 1 then roundRN g (.inf false)
  else if bit st 2 then roundRN g (.inf true)
  else
    let c := cellVal line
    roundRN g (.fin (decide (c < 0)) c.natAbs (-224))

/-! ## Operations on bytes -/

/-- How many bytes an operation covers from its address. -/
def Rmw.bytes : Rmw → Nat
  | .int _ n => n
  | .fadd f => redBytes f
  | _ => 64

/-- The bytes after an operation on the old bytes; cell status is kept apart. -/
def Rmw.new (o : Rmw) (old data : List Byte) : List Byte :=
  match o with
  | .int op n =>
    let x := leNat (data.take n)
    let y := leNat ((data.drop n).take n)
    leBytes n (if op = 7 then intNew op n (leNat old) y x else intNew op n (leNat old) x 0)
  | .fadd f => leBytes (redBytes f) (Machine.fadd (redFmt f) (leNat old) (leNat (data.take (redBytes f))))
  | .cell f => cellAdd old (value (leNat (data.take (redBytes f))) (redFmt f))
  | .cellz => List.replicate 64 0#8
  | .bew op bf => bewLine op bf old data
  | .cellrd _ => old

/-- What an operation returns, from the old bytes and cell status. -/
def Rmw.answer (o : Rmw) (old : List Byte) (st : Nat) : List Byte :=
  match o with
  | .int _ _ => old
  | .cellrd 0 => leBytes 4 (cellRound .fp32 st old)
  | .cellrd 1 => leBytes 4 (cellRound .bf16 st old)
  | .cellrd _ => old
  | _ => []

/-! ## Operations on memory -/

/-- The bank of the L3 that holds a line, or of the atrium store (R21, R65). -/
def bankOf (off : Nat) : Nat :=
  if regionOf off = .atrium then bits (off - atriumBase) 14 6 else bits off 14 6 ^^^ bits off 23 15

/-- Poison every granule of a line (R89). -/
def Device.spoilLine (d : Device) (a : Nat) : Device :=
  { d with bad := (List.range 4).foldl (fun b k => Store.set false b (a / 64 * 4 + k) true) d.bad }

/-- Perform an operation on own memory, at the L2 of hall `h` or at a bank: the device, the bytes it returns and
whether they are poison (R68, R70, R89). -/
def Device.rmw (d : Device) (l2 : Option Nat) (o : Rmw) (a : Nat) (data : List Byte) : Device × List Byte × Bool :=
  let n := o.bytes
  let old := d.bytes a n
  let cellIx := (a - atriumBase) / 64
  let st := Store.get 0 d.cell cellIx
  let lineBad := (List.range 4).any fun k => d.badAt (a / 64 * 64 + 16 * k)
  let bad := if l2.isSome then d.badMask a n != 0#64 else lineBad
  let new := o.new old data
  let d1 := match o, l2 with
    | .cellrd _, _ => d
    | .cell f, _ =>
      let d2 := d.putP a new 0#64
      { d2 with cell := Store.set 0 d2.cell cellIx (cellStat st (value (leNat (data.take (redBytes f))) (redFmt f))) }
    | _, some h => d.putL h [(a, new, 0#64)]
    | _, none => d.putP a new 0#64
  let d2 := if bad && l2.isNone && o != .cellz then d1.spoilLine a else d1
  (d2, o.answer old st, bad)

/-- Perform an operation on a company's local store (R262). -/
def Company.rmw (c : Company) (o : Rmw) (a : Nat) (data : List Byte) : Company × List Byte × Bool :=
  let n := o.bytes
  let old := Store.getRun 0#8 c.ls a n
  let bad := (List.range n).any fun i => Store.get false c.lsBad ((a + i) / 16)
  ({ c with ls := Store.setRun 0#8 c.ls a (o.new old data) }, o.answer old 0, bad)

/-- Write bytes of a company's local store, some of them poisoned (R89). -/
def Company.lsPut (c : Company) (a : Nat) (bs : List Byte) (pm : Mask) : Company :=
  { c with ls := Store.setRun 0#8 c.ls a bs, lsBad := badAfter c.lsBad a bs.length pm }

end Sys2Proof.Machine
end

