-- ==== Sys2Proof/Machine/Memory.lean ====
section
/-!
DEFINITION. Issue of the memory instructions of chapter 10 (R253 to R272): the lane checks and their combination
(R45, R46, R97, R256), the operation that is issued, and each instruction. Perform.lean performs what is issued.
-/
namespace Sys2Proof.Machine

/-! ## Checks -/

/-- Bytes of the company's local-store allocation (Table 7-1). -/
def Company.lsLen (c : Company) : Nat := c.hdr.lsgran * 4096

/-- One access of `n` bytes at offset `o` through window `w` (R45): its address and its outcome. -/
def State.checkLane (s : State) (w : Nat) (a : Acc) (r : Reach) (o n : Nat) : State × Nat × LOut :=
  let x := s.me.window w
  let p := accessWindow s.dev s.co.asid s.co.lsLen s.me.priv x a r o n
  let me := if p.2.1 then s.me.winput w { x with dt := true } else s.me
  ({ s with dev := p.1, me := me }, p.2.2.1, p.2.2.2)

/-- A checked lane: its number, the address that a report names, and its outcome. -/
structure LaneChk where
  lane : Nat
  addr : Nat
  out : LOut
  deriving DecidableEq, Repr

/-- Check the accesses of an instruction, given by lane, offset and length, in order. -/
def State.checkLanes (s : State) (w : Nat) (a : Acc) (r : Reach) : List (Nat × Nat × Nat) → State × List LaneChk
  | [] => (s, [])
  | (lane, o, n) :: rest =>
    let p := s.checkLane w a r o n
    let q := p.1.checkLanes w a r rest
    (q.1, { lane := lane, addr := p.2.1, out := p.2.2 } :: q.2)

/-- How the outcomes of an instruction's lanes combine (R46, R97). -/
inductive Verdict where
  | go
  | wait
  | queue (code sub : Nat) (mask : Mask)
  | inLane (frame : Frame) (mask : Mask)
  deriving DecidableEq, Repr

/-- The fault of a lane; a misaligned lane that would perform faults where `aln` says so. -/
def LaneChk.fault (c : LaneChk) (align : Nat) (aln : Bool) : Option LFault :=
  match c.out with
  | .fault f => some f
  | .at _ => if aln && c.addr % align != 0 then some .aln else none
  | _ => none

/-- The least rank among faults. -/
def leastRank : List LFault → Nat
  | [] => 11
  | f :: fs => min f.rank (leastRank fs)

/-- The CAUSE byte of a lane's in-lane #PF (Table 2-8). -/
def LFault.causeByte : LFault → Nat
  | .pf s level => level * 16 + s
  | _ => 0

/-- Combine the outcomes (R46): misalignment is queue-level where `aln` says so (R256). -/
def verdict (align : Nat) (aln : Bool) (kind size : Nat) (cs : List LaneChk) : Verdict :=
  let fs := cs.filterMap fun c => c.fault align aln
  let k := leastRank fs
  if k < 10 then
    let at' := cs.filter fun c => ((c.fault align aln).map LFault.rank) == some k
    let code := ((fs.find? fun f => f.rank == k).map LFault.code).getD (0, 0)
    .queue code.1 code.2 (maskOf (at'.map (·.lane)))
  else if k = 10 then
    let ls := cs.filterMap fun c => (c.fault align aln).map fun f => (c.lane, f.causeByte, c.addr)
    -- 64 for a cell or element-wise operation, which Table 2-8 does not list (DESIGN CHOICE, log entry 72)
    .inLane { kind := kind, size := size, lanes := ls, ptgen := 0#64 } (maskOf (ls.map (·.1)))
  else if cs.any (fun c => c.out == .wait) then .wait
  else .go

/-- A fault frame with the PTGEN of the ASID as it stands (Table 2-8). -/
def State.framed (s : State) (f : Frame) : Frame := { f with ptgen := Store.get 0#64 s.dev.ptgen s.co.asid }

/-- Enter the handler for an in-lane #PF (R46, R49). Where lanes end in NP and others in PERM, the subcause is NP (DESIGN CHOICE,
log entry 69). -/
def State.pageFault (s : State) (f : Frame) (mask : Mask) : State :=
  s.inLane { cls := 1, code := 4, sub := if f.lanes.any (fun l => l.2.1 % 16 == 1) then 1 else 2, mask := mask, imm := 0,
             pc := s.me.pc, keepEm := false, frame := some (s.framed f) }

/-- Where an outcome reaches. -/
def LOut.loc : LOut → Loc
  | .at l => l
  | _ => .none

/-! ## Issuing an operation -/

/-- What a memory instruction asks for. -/
structure MemJob where
  win : Nat
  acc : Acc
  reach : Reach
  /-- Bytes checked in each lane, their alignment, and whether misalignment is queue-level (Table 10-2). -/
  len : Nat
  align : Nat
  aln : Bool
  /-- KIND of a fault frame (Table 2-8). -/
  fkind : Nat
  u : Bool
  vs : List Nat
  ss : List Nat
  frees : List Nat
  kind : OpKind
  scope : Nat
  acq : Bool
  rel : Bool
  flag : Option Bool
  d : Nat
  /-- Vector names that the instruction writes. -/
  dst : List Nat
  /-- Lanes with their offsets. -/
  offs : List (Nat × Nat)
  data : Nat → List Byte
  /-- The bytes that a write appends to the checksum stream (R398); none for a read. -/
  sum : Option (Nat → List Byte)
  /-- The operation counter and its amount (Table 15-12). -/
  cnt : Option (Nat × Nat)

/-- Append an operation under the next identifier. -/
def State.pushOp (s : State) (o : MemOp) : State :=
  { s with me := { s.me with ops := s.me.ops ++ [{ o with id := s.dev.nextId }] }, dev := { s.dev with nextId := s.dev.nextId + 1 } }

/-- A fence of a scope in the cohort's program order. -/
def fenceOp (scope : Nat) : MemOp :=
  { id := 0, kind := .fence, scope := scope, acq := false, rel := false, lanes := [], d := 0, u := false, em := 0#64,
    flag := none, stage := .issued, passed := false, recs := [] }

/-- What ordering does under an empty em: a fence of the scope (R111). -/
def State.emptyOrder (s : State) (scope : Nat) : State := s.pushOp (fenceOp scope)

/-- Place of a read-modify-write for its ORDER record (Table 15-5): bank, L2 of a hall, or local store; none elsewhere. -/
def placeOf (core hall scope : Nat) : Loc → Option Nat
  | .mem off => some (if regionOf off = .atrium ∨ 2 ≤ scope then bankOf off else 0x200 + hall)
  | .loc _ => some (0x400 + core)
  | _ => none

/-- The ORDER records of an operation, one for each lane at a place of this device: the first closes the chunk, each
further one an empty chunk (R394). -/
def State.orderRecs (s : State) (scope : Nat) : List Loc → State × List Rec
  | [] => (s, [])
  | l :: ls =>
    match placeOf s.core s.hall scope l with
    | some p =>
      let c := s.closeChunk 1 (p * 2 ^ 32)
      let q := c.1.orderRecs scope ls
      (q.1, c.2 :: q.2)
    | none => s.orderRecs scope ls

/-- Whether an operation is a read-modify-write. -/
def OpKind.isRmw : OpKind → Bool
  | .rmw _ _ => true
  | _ => false

/-- Close the chunk for the operation issued last, if it takes its place by arbitration (R394). -/
def State.stashRecs (s : State) : State :=
  match s.me.ops.getLast? with
  | some o =>
    if s.recording && o.kind.isRmw then
      let p := s.orderRecs o.scope (o.lanes.map (·.loc))
      { p.1 with me := { p.1.me with ops := p.1.me.ops.dropLast ++ [{ o with recs := p.2 }] } }
    else s
  | none => s

/-- Append the writes of lanes to the checksum stream (R398). -/
def State.logLanes (s : State) (f : Nat → List Byte) : List LaneChk → State
  | [] => s
  | c :: cs => (s.logWrite c.addr (f c.lane)).logLanes f cs

/-- Allocate the destination names of a load, which its data will fill (R206). -/
def Cohort.claim (c : Cohort) (rs : List Nat) : Cohort := rs.foldl (fun c r => c.vput r (c.vget r)) c

/-- The operation of a job for the lanes that perform. -/
def MemJob.op (j : MemJob) (c : Cohort) (cs : List LaneChk) : MemOp :=
  { id := 0, kind := j.kind, scope := j.scope, acq := j.acq, rel := j.rel
    lanes := cs.map fun x => { lane := x.lane, loc := x.out.loc, addr := x.addr, len := j.len, data := j.data x.lane,
                               poisoned := 0#64, sent := false, result := none }
    d := j.d, u := j.u, em := c.act, flag := j.flag.bind c.flagOf, stage := .issued, passed := false, recs := [] }

/-- Issue the operation of a job whose checks passed, marks freed and destinations claimed. -/
def State.issueOp (s : State) (j : MemJob) (frees : List Nat) (cs : List LaneChk) : State :=
  let op := j.op s.me cs
  let me := (((s.me.unalloc (s.me.misses j.vs)).freeAll frees).claim j.dst).raise op.flag
  let t := (s.setMe me).pushOp op
  match j.sum with
  | some f => t.logLanes f cs
  | none => t

/-- What is left of an instruction whose every lane the handler emulates: its destinations, and the ordering of a release, which
comes before the emulated bytes (R97). -/
def State.orderOnly (s : State) (j : MemJob) : State :=
  let t := s.setMe ((s.me.unalloc (s.me.misses j.vs)).claim j.dst)
  if j.rel then t.emptyOrder j.scope else t

/-- A memory instruction: consumed poison raises #MCE, an empty em only orders, the lanes' outcomes combine, a
destination without a register waits for one, and otherwise the operation is issued and the instruction retires; lanes
that the handler emulates enter it with #ALN (R97). -/
def memIssue (j : MemJob) (s : State) : State :=
  let m := s.me.mce j.u j.vs j.ss
  if m ≠ 0#64 then s.queueTrap 6 1 m 0
  else if s.me.act = 0#64 then
    let t := s.setMe (s.me.freeAll j.frees)
    (if j.acq || j.rel then t.emptyOrder j.scope else t).retire 4
  else
    let p := s.checkLanes j.win j.acc j.reach (j.offs.map fun x => (x.1, x.2, j.len))
    match verdict j.align j.aln j.fkind j.len p.2 with
    | .wait => s
    | .queue code sub mask => p.1.accessTrap code sub mask
    | .inLane f mask => p.1.pageFault f mask
    | .go =>
      let off := p.2.filter fun c => c.addr % j.align != 0
      let on := p.2.filter fun c => c.addr % j.align == 0
      let freed := if off.isEmpty then s.me.freeAll j.frees else s.me
      let fresh := (j.dst.filter fun r => !freed.allocated r).length
      if (s.setMe freed).canAlloc fresh = false then s.waitOn .allocV
      else if off.isEmpty then
        let t := (p.1.issueOp j j.frees on).retire 4
        (match j.cnt with
          | some (i, n) => t.count i n
          | none => t).stashRecs
      else
        let f : Frame := { kind := j.fkind, size := j.len, lanes := off.map fun c => (c.lane, 3, c.addr), ptgen := 0#64 }
        let mask := maskOf (off.map (·.lane))
        if s.me.priv then p.1.queueTrap 4 10 mask 0
        else (if on.isEmpty then p.1.orderOnly j else p.1.issueOp { j with flag := none } [] on).inLane
          { cls := 1, code := 5, sub := 0, mask := mask, imm := 0, pc := s.me.pc, keepEm := false, frame := some (s.framed f) }

/-! ## Operands -/

/-- The words of a lane in a group of `n` vectors, as bytes, lowest first. -/
def Cohort.laneBytes (c : Cohort) (d n i : Nat) : List Byte :=
  (List.range n).flatMap fun k => leBytes 4 ((c.vget (d + k)).lane i).toNat

/-- The names of a group. -/
def groupNames (d n : Nat) : List Nat := (List.range n).map fun k => d + k

/-- The lanes that an instruction accesses with their vector offsets: lane l alone under U = 1 (R208, R254). -/
def Cohort.offsets (c : Cohort) (u : Bool) (a : Reg) : List (Nat × Nat) :=
  (lanesOf (c.readers u)).map fun i => (i, ((c.vget a.toNat).lane i).toNat)

/-- An instruction that its launch's CLASS 0 forbids (R196). -/
def replayable (f : State → State) (s : State) : State := if s.co.hdr.cls = 0 then s.ill 8 else f s

/-! ## Loads and stores (R258 to R260) -/

/-- LD. -/
def execLd (o : MemOps) (s : State) : Out :=
  let n := sizeBytes o.z
  .next (memIssue
    { win := o.w.toNat, acc := .load, reach := .plain, len := n, align := n, aln := false, fkind := 0, u := o.u
      vs := [o.a.toNat], ss := [], frees := if o.ma then [o.a.toNat] else [], kind := .load o.z, scope := o.c.toNat
      acq := o.o, rel := false, flag := some o.f, d := o.d.toNat, dst := groupNames o.d.toNat (sizeRegs o.z)
      offs := s.me.offsets o.u o.a, data := fun _ => [], sum := none, cnt := none } s)

/-- ST. Its sources are read at issue, where the flag that it selects rises and falls. -/
def execSt (o : MemOps) (s : State) : Out :=
  let n := sizeBytes o.z
  let src := groupNames o.d.toNat (sizeRegs o.z)
  let c := s.me
  let data (i : Nat) : List Byte := (c.laneBytes o.d.toNat (sizeRegs o.z) i).take n
  .next (memIssue
    { win := o.w.toNat, acc := .store, reach := .plain, len := n, align := n, aln := false, fkind := 1, u := o.u
      vs := o.a.toNat :: src, ss := [], frees := if o.ma then [o.a.toNat] else [], kind := .store, scope := o.c.toNat
      acq := false, rel := o.o, flag := none, d := o.d.toNat, dst := [], offs := c.offsets o.u o.a
      data := data, sum := some data, cnt := none } s)

/-- Add to cr.supfail, which saturates (R47). -/
def State.supfail (s : State) (n : Nat) : State :=
  { s with cx := { s.cx with supfail := BitVec.ofNat 32 (min (s.cx.supfail.toNat + n) 0xFFFFFFFF) } }

/-- A lane of a write of no bytes: a failed check reaches no target (R47). -/
def LaneChk.suppress (c : LaneChk) : LaneChk :=
  match c.out with
  | .fault _ => { c with out := .at .none }
  | _ => c

/-- ST.B0: the write of no bytes, whose failed checks are counted in cr.supfail (R47, R112, R259). -/
def execStB0 (o : MemOps0) (s : State) : Out :=
  let vs := [o.a.toNat]
  let frees := if o.ma then vs else []
  let m := s.me.mce o.u vs []
  .next (
    if m ≠ 0#64 then s.queueTrap 6 1 m 0
    else if s.me.act = 0#64 then
      let t := s.setMe (s.me.freeAll frees)
      (if o.o then t.emptyOrder o.c.toNat else t).retire 4
    else
      let p := s.checkLanes o.w.toNat .empty .plain ((s.me.offsets o.u o.a).map fun x => (x.1, x.2, 0))
      if p.2.any (fun c => c.out == .wait) then s
      else
        let bad := (p.2.filter fun c => match c.out with
          | .fault _ => true
          | _ => false).length
        let j : MemJob :=
          { win := o.w.toNat, acc := .empty, reach := .plain, len := 0, align := 1, aln := false, fkind := 1, u := o.u
            vs := vs, ss := [], frees := frees, kind := .storeZ, scope := o.c.toNat, acq := false, rel := o.o, flag := none
            d := 0, dst := [], offs := [], data := fun _ => [], sum := some fun _ => [], cnt := none }
        ((p.1.issueOp j frees (p.2.map LaneChk.suppress)).supfail bad).retire 4)

/-- LDU: one access for lane l by the scalar pipe, into scalars (R255, R260). -/
def execLdu (o : LduOps) (s : State) : Out :=
  let n := sizeBytes o.z
  let l := (lowestLane s.me.act).getD 0
  .next (memIssue
    { win := o.w.toNat, acc := .load, reach := .plain, len := n, align := n, aln := true, fkind := 0, u := true
      vs := [], ss := [o.a.toNat], frees := [], kind := .ldu o.z, scope := o.c.toNat, acq := o.o, rel := false
      flag := some o.f, d := o.d.toNat, dst := [], offs := [(l, (s.me.sget o.a.toNat).toNat)], data := fun _ => []
      sum := none, cnt := none } s)

/-! ## Atomics (R261, R262) -/

/-- Whether an operation of Table 10-3 exists as a PCIe AtomicOp (Table 3-2). -/
def hostAtomic (op : Nat) : Bool := op == 0 || op == 6 || op == 7

/-- An ATOM or ATOMR with the operation `op` of Table 10-3. -/
def atomic (op : Nat) (rel acq : Bool) (o : AtomOps) (s : State) : State :=
  let n := if o.z then 8 else 4
  let k := (n / 4) * (if op = 7 then 2 else 1)
  let c := s.me
  let data (i : Nat) : List Byte := c.laneBytes o.d.toNat k i
  replayable (memIssue
    { win := o.w.toNat, acc := .atomic, reach := .rmw (hostAtomic op), len := n, align := n, aln := true, fkind := 2
      u := o.u, vs := o.a.toNat :: groupNames o.d.toNat k, ss := [], frees := if o.ma then [o.a.toNat] else []
      kind := .rmw (.int op n) true, scope := o.c.toNat, acq := acq, rel := rel, flag := some o.f, d := o.d.toNat
      dst := groupNames o.d.toNat (n / 4), offs := c.offsets o.u o.a, data := data, sum := some data, cnt := none }) s

/-- ATOM.ADD. -/
def execAtomAdd (o : AtomOps) (s : State) : Out := .next (atomic 0 false o.q o s)
/-- ATOM.MIN. -/
def execAtomMin (o : AtomOps) (s : State) : Out := .next (atomic 1 false o.q o s)
/-- ATOM.MAX. -/
def execAtomMax (o : AtomOps) (s : State) : Out := .next (atomic 2 false o.q o s)
/-- ATOM.AND. -/
def execAtomAnd (o : AtomOps) (s : State) : Out := .next (atomic 3 false o.q o s)
/-- ATOM.OR. -/
def execAtomOr (o : AtomOps) (s : State) : Out := .next (atomic 4 false o.q o s)
/-- ATOM.XOR. -/
def execAtomXor (o : AtomOps) (s : State) : Out := .next (atomic 5 false o.q o s)
/-- ATOM.XCHG. -/
def execAtomXchg (o : AtomOps) (s : State) : Out := .next (atomic 6 false o.q o s)
/-- ATOM.CAS. -/
def execAtomCas (o : AtomOps) (s : State) : Out := .next (atomic 7 false o.q o s)
/-- ATOM.ADD with .REL or .ACQ.REL. -/
def execAtomrAdd (o : AtomOps) (s : State) : Out := .next (atomic 0 true o.q o s)
/-- ATOM.MIN with .REL or .ACQ.REL. -/
def execAtomrMin (o : AtomOps) (s : State) : Out := .next (atomic 1 true o.q o s)
/-- ATOM.MAX with .REL or .ACQ.REL. -/
def execAtomrMax (o : AtomOps) (s : State) : Out := .next (atomic 2 true o.q o s)
/-- ATOM.AND with .REL or .ACQ.REL. -/
def execAtomrAnd (o : AtomOps) (s : State) : Out := .next (atomic 3 true o.q o s)
/-- ATOM.OR with .REL or .ACQ.REL. -/
def execAtomrOr (o : AtomOps) (s : State) : Out := .next (atomic 4 true o.q o s)
/-- ATOM.XOR with .REL or .ACQ.REL. -/
def execAtomrXor (o : AtomOps) (s : State) : Out := .next (atomic 5 true o.q o s)
/-- ATOM.XCHG with .REL or .ACQ.REL. -/
def execAtomrXchg (o : AtomOps) (s : State) : Out := .next (atomic 6 true o.q o s)
/-- ATOM.CAS with .REL or .ACQ.REL. -/
def execAtomrCas (o : AtomOps) (s : State) : Out := .next (atomic 7 true o.q o s)

/-! ## Reductions (R263) -/

/-- A REDNI with the operation code `b`. -/
def redni (b : Nat) (o : AtomOps) (s : State) : State :=
  let n := if o.z then 8 else 4
  let c := s.me
  let data (i : Nat) : List Byte := c.laneBytes o.d.toNat (n / 4) i
  memIssue
    { win := o.w.toNat, acc := .atomic, reach := .rmw (b == 0), len := n, align := n, aln := true, fkind := 3
      u := o.u, vs := o.a.toNat :: groupNames o.d.toNat (n / 4), ss := [], frees := if o.ma then [o.a.toNat] else []
      kind := .rmw (.int (redCode b) n) false, scope := o.c.toNat, acq := false, rel := o.q, flag := none, d := o.d.toNat
      dst := [], offs := c.offsets o.u o.a, data := data, sum := some data, cnt := none } s

/-- REDNI.ADD. -/
def execRedniAdd (o : AtomOps) (s : State) : Out := .next (redni 0 o s)
/-- REDNI.SMIN. -/
def execRedniSmin (o : AtomOps) (s : State) : Out := .next (redni 1 o s)
/-- REDNI.SMAX. -/
def execRedniSmax (o : AtomOps) (s : State) : Out := .next (redni 2 o s)
/-- REDNI.UMIN. -/
def execRedniUmin (o : AtomOps) (s : State) : Out := .next (redni 3 o s)
/-- REDNI.UMAX. -/
def execRedniUmax (o : AtomOps) (s : State) : Out := .next (redni 4 o s)
/-- REDNI.AND. -/
def execRedniAnd (o : AtomOps) (s : State) : Out := .next (redni 5 o s)
/-- REDNI.OR. -/
def execRedniOr (o : AtomOps) (s : State) : Out := .next (redni 6 o s)
/-- REDNI.XOR. -/
def execRedniXor (o : AtomOps) (s : State) : Out := .next (redni 7 o s)

/-! ## Floating-point reductions and cells (R264, R265, R267) -/

/-- The number of lanes that perform: one under U = 1 (R409). -/
def Cohort.performing (c : Cohort) (u : Bool) : Nat := popcount (c.readers u)

/-- REDNF .ANY of format `f`. -/
def rednfAny (f : Nat) (o : CellOps) (s : State) : State :=
  let n := redBytes f
  let c := s.me
  let data (i : Nat) : List Byte := (c.laneBytes o.d.toNat 1 i).take n
  replayable (memIssue
    { win := o.w.toNat, acc := .atomic, reach := .rmw false, len := n, align := n, aln := true, fkind := 3, u := o.u
      vs := [o.a.toNat, o.d.toNat], ss := [], frees := if o.ma then [o.a.toNat] else [], kind := .rmw (.fadd f) false
      scope := o.c.toNat, acq := false, rel := o.q, flag := none, d := o.d.toNat, dst := [], offs := c.offsets o.u o.a
      data := data, sum := some data, cnt := some (35 + f, c.performing o.u) }) s

/-- REDNF.F32.ANY. -/
def execRednfF32Any (o : CellOps) (s : State) : Out := .next (rednfAny 0 o s)
/-- REDNF.BF16.ANY. -/
def execRednfBf16Any (o : CellOps) (s : State) : Out := .next (rednfAny 1 o s)
/-- REDNF.F16.ANY. -/
def execRednfF16Any (o : CellOps) (s : State) : Out := .next (rednfAny 2 o s)

/-- A cell addition of format `f`. -/
def rednfOrd (f : Nat) (o : CellOps) (s : State) : State :=
  let c := s.me
  let data (i : Nat) : List Byte := (c.laneBytes o.d.toNat 1 i).take (redBytes f)
  memIssue
    { win := o.w.toNat, acc := .atomic, reach := .cell, len := 64, align := 64, aln := true, fkind := 3, u := o.u
      vs := [o.a.toNat, o.d.toNat], ss := [], frees := if o.ma then [o.a.toNat] else [], kind := .rmw (.cell f) false
      scope := o.c.toNat, acq := false, rel := o.q, flag := none, d := o.d.toNat, dst := [], offs := c.offsets o.u o.a
      data := data, sum := some data, cnt := some (32 + f, c.performing o.u) } s

/-- REDNF.F32.ORD. -/
def execRednfF32Ord (o : CellOps) (s : State) : Out := .next (rednfOrd 0 o s)
/-- REDNF.BF16.ORD. -/
def execRednfBf16Ord (o : CellOps) (s : State) : Out := .next (rednfOrd 1 o s)
/-- REDNF.F16.ORD. -/
def execRednfF16Ord (o : CellOps) (s : State) : Out := .next (rednfOrd 2 o s)

/-- REDNF.CELLZ. -/
def execRednfCellz (o : CellzOps) (s : State) : Out :=
  let c := s.me
  .next (memIssue
    { win := o.w.toNat, acc := .atomic, reach := .cell, len := 64, align := 64, aln := true, fkind := 3, u := o.u
      vs := [o.a.toNat], ss := [], frees := if o.ma then [o.a.toNat] else [], kind := .rmw .cellz false
      scope := o.c.toNat, acq := false, rel := o.q, flag := none, d := 0, dst := [], offs := c.offsets o.u o.a
      data := fun _ => [], sum := some fun _ => List.replicate 64 0#8, cnt := none } s)

/-- A rounded or raw readback of a cell. -/
def cellrd (k : Nat) (o : CellOps) (s : State) : State :=
  let c := s.me
  memIssue
    { win := o.w.toNat, acc := .load, reach := .cell, len := 64, align := 64, aln := true, fkind := 0, u := o.u
      vs := [o.a.toNat], ss := [], frees := if o.ma then [o.a.toNat] else [], kind := .rmw (.cellrd k) true
      scope := o.c.toNat, acq := o.q, rel := false, flag := some o.f, d := o.d.toNat
      dst := groupNames o.d.toNat (if k = 2 then 16 else 1), offs := c.offsets o.u o.a, data := fun _ => [], sum := none
      cnt := none } s

/-- CELLRD.F32. -/
def execCellrdF32 (o : CellOps) (s : State) : Out := .next (cellrd 0 o s)
/-- CELLRD.BF16. -/
def execCellrdBf16 (o : CellOps) (s : State) : Out := .next (cellrd 1 o s)
/-- CELLRD.RAW. -/
def execCellrdRaw (o : CellOps) (s : State) : Out := .next (cellrd 2 o s)

/-! ## Element-wise updates (R266) -/

/-- The elements that a mask names on a line (R266). -/
def bewMask (bf : Bool) (m : Word) : Mask := (if bf then m else m &&& 0xFFFF#32).setWidth 64

/-- A BEW with the operation `op` of Table 3-3 and a data group of `k` registers. -/
def bew (op k : Nat) (o : AtomOps) (s : State) : State :=
  let c := s.me
  let data (i : Nat) : List Byte := c.laneBytes o.d.toNat k i
  let cnt := ((lanesOf (c.readers o.u)).map fun i => popcount (bewMask o.z ((c.vget o.d.toNat).lane i))).foldl (· + ·) 0
  memIssue
    { win := o.w.toNat, acc := .atomic, reach := .cell, len := 64, align := 64, aln := true, fkind := 3, u := o.u
      vs := o.a.toNat :: groupNames o.d.toNat k, ss := [], frees := if o.ma then [o.a.toNat] else []
      kind := .rmw (.bew op o.z) false, scope := o.c.toNat, acq := false, rel := o.q, flag := none, d := o.d.toNat
      dst := [], offs := c.offsets o.u o.a, data := data, sum := some data, cnt := some (31, cnt) } s

/-- BEW.ADDS. -/
def execBewAdds (o : AtomOps) (s : State) : Out := .next (bew 0 2 o s)
/-- BEW.MULS. -/
def execBewMuls (o : AtomOps) (s : State) : Out := .next (bew 1 2 o s)
/-- BEW.FMAS. -/
def execBewFmas (o : AtomOps) (s : State) : Out := .next (bew 2 3 o s)
/-- BEW.MAXS. -/
def execBewMaxs (o : AtomOps) (s : State) : Out := .next (bew 3 2 o s)
/-- BEW.MINS. -/
def execBewMins (o : AtomOps) (s : State) : Out := .next (bew 4 2 o s)

/-! ## Fences, prefetch and windows (R269 to R272) -/

/-- FENCE: it divides the cohort's accesses at its scope and retires at issue here; later accesses wait for it (R106,
R269). A flag that it selects rises and falls at issue. -/
def execFence (f : Bool) (c : BitVec 2) (s : State) : Out :=
  let _ := f
  .next ((s.pushOp (fenceOp c.toNat)).retire 4)

/-- Bring a line of own memory into the L2 of a hall, the L3, or both: level 0, 1 or 2; what is no own memory or in E is dropped
(R87, R270). -/
def Device.prefetch (d : Device) (hall level : Nat) : Loc → Device
  | .mem off =>
    if inMemory off ∧ d.ownedLine (off / 64) = false then
      d.withCaches (let e := if level = 0 then d else d.homeLoad off
        if level = 1 then e else e.hallLoad hall (off / 64) (BitVec.allOnes 64))
    else d
  | _ => d

/-- PREF: translates each lane as a prefetch, drops those whose checks fail, and brings the lines of the others to the level
(R87, R270). -/
def execPref (f : Bool) (w : BitVec 3) (a : Reg) (ma : Bool) (l : BitVec 2) (s : State) : Out :=
  let _ := f
  let p := if (s.me.window w.toNat).kind = 1 then
      s.checkLanes w.toNat .prefetch .plain ((s.me.offsets false a).map fun x => (x.1, x.2, 1))
    else (s, [])
  let me := (p.1.me.unalloc (s.me.misses [a.toNat])).freeAll (if ma then [a.toNat] else [])
  let d := p.2.foldl (fun (d : Device) c => d.prefetch s.hall l.toNat c.out.loc) p.1.dev
  .next (if p.2.any (fun c => c.out == .wait) then s else ((p.1.setDev d).setMe me).retire 4)

/-- A global window whose fill found no readable page (R39). The rule gives KIND and LIMIT alone: PA, RP, WP and DT are 0 here, and so
is the BASE of a KIND-0 fill (DESIGN CHOICE, log entry 71). -/
def State.deadWindow (s : State) (kind : Nat) (base : VAddr) : Window :=
  { kind := kind, base := base, pa := 0#58, limit := 0#32, rp := false, wp := false, dt := false
    asid := BitVec.ofNat 12 s.co.asid, gen := ptgenOf s.dev base.toNat s.co.asid }

/-- The contents of a global window filled from a leaf's translation (R39). -/
def State.liveWindow (s : State) (va home off size vaBase : Nat) (w d : Bool) : Window :=
  { kind := 1, base := BitVec.ofNat 56 va
    pa := BitVec.ofNat 58 (home * 2 ^ 48 + off + (va - vaBase))
    limit := BitVec.ofNat 32 (min (vaBase + size - va) 0xFFFFFFFF), rp := true, wp := w, dt := d
    asid := BitVec.ofNat 12 s.co.asid, gen := ptgenOf s.dev va s.co.asid }

/-- A global fill: BASE is translated once as a load, which takes no fault and places no page (R39). -/
def State.fillGlobal (s : State) (x : DWord) : State × Window :=
  let va := x.toNat
  if 2 ^ 56 ≤ va then (s, s.deadWindow 0 0#56)
  else if s.me.act = 0#64 ∨ (isSup va ∧ s.me.priv = false) then (s, s.deadWindow 1 (BitVec.ofNat 56 va))
  else match tlbFind s.dev s.co.asid va .load with
    | some e => (s, s.liveWindow va e.home e.off e.size e.va e.w e.d)
    | none =>
      let p := walkTouch s.co.asid va .load (s.dev.queued + 1) s.dev
      let dead := (s.setDev p.1, s.deadWindow 1 (BitVec.ofNat 56 va))
      match p.2 with
      | .leaf _ raw lv =>
        if bit raw 1 then
          let d := tlbKeep p.1 (tlbOf s.co.asid va raw lv .load)
          let sz := 2 ^ pageBits lv
          (s.setDev d, s.liveWindow va (bits raw 57 48) (leafFrame raw) sz (va / sz * sz) (bit raw 2) (bit raw 6))
        else dead
      | _ => dead

/-- Whether a global fill walks and waits for a line in E (R83). -/
def State.fillWaits (s : State) (va : Nat) : Bool :=
  decide (va < 2 ^ 56) && s.me.act != 0#64 && (!isSup va || s.me.priv) && (tlbFind s.dev s.co.asid va .load).isNone &&
    (walkTouch s.co.asid va .load (s.dev.queued + 1) s.dev).2 == .waits

/-- WSET.G. -/
def execWsetG (f : Bool) (w : BitVec 3) (a : Reg) (s : State) : Out :=
  let _ := f
  .next (
    if s.me.spoison a.toNat || s.me.spoison (a.toNat + 1) then s.queueTrap 6 1 s.me.present 0
    else if s.fillWaits (s.me.sget64 a.toNat).toNat then s
    else
      let p := s.fillGlobal (s.me.sget64 a.toNat)
      (p.1.setMe (p.1.me.winput w.toNat p.2)).retire 4)

/-- A fill of a local-store or atrium-store window: LIMIT is what remains of the allocation (R39). -/
def State.fillStore (s : State) (kind len : Nat) (base : Word) : Window :=
  { s.deadWindow kind (base.setWidth 56) with limit := BitVec.ofNat 32 (len - base.toNat) }

/-- WSET.L. -/
def execWsetL (f : Bool) (w : BitVec 3) (a : Reg) (s : State) : Out :=
  let _ := f
  .next (scalarOp 4 [a.toNat] (fun c => c.winput w.toNat (s.fillStore 2 s.co.lsLen (c.sget a.toNat))) s)
/-- WSET.A. -/
def execWsetA (f : Bool) (w : BitVec 3) (a : Reg) (s : State) : Out :=
  let _ := f
  .next (if asidHeld s.dev s.co.asid ∧ s.me.spoison a.toNat = false then s else
    scalarOp 4 [a.toNat] (fun c => c.winput w.toNat (s.fillStore 3 (asLen s.dev s.co.asid) (c.sget a.toNat))) s)

/-- WINV. -/
def execWinv (f : Bool) (w : BitVec 3) (s : State) : Out :=
  let _ := f
  .next ((s.setMe (s.me.winput w.toNat Window.empty)).retire 4)
/-- WINV.ALL. -/
def execWinvAll (f : Bool) (s : State) : Out :=
  let _ := f
  .next ((s.setMe { s.me with win := [] }).retire 4)

end Sys2Proof.Machine
end

