-- ==== Sys2Proof/Machine/Order.lean ====
section
/-!
DEFINITION. When an issued operation may be performed (R83, R84, R98 to R111, R119, R123, R124), when a fence has
ended (R106, R113), the store buffer of a core (R103), and the conflicts that the directory reports (R67, R395).
-/
namespace Sys2Proof.Machine

/-! ## Bytes and lines that operations reach -/

/-- A run of bytes in one space: 0 own memory, 1 other devices, 2 the host, 3 control space, 4 + DSEQ a local store.
Outside own memory and local stores the run is made of whole lines (R123). -/
structure Span where
  space : Nat
  off : Nat
  len : Nat
  deriving DecidableEq, Repr

/-- The whole lines that `n` bytes from an address lie in: their first address and their length. -/
def lineRun (a n : Nat) : Nat × Nat := (a / 64 * 64, ((a + max 1 n + 63) / 64 - a / 64) * 64)

/-- The run of `n` bytes at a target. -/
def spanOf (dseq : Nat) (n : Nat) : Loc → Option Span
  | .mem o => some { space := 0, off := o, len := n }
  | .far h o => some { space := 1, off := (lineRun (h * 2 ^ 48 + o) n).1, len := (lineRun (h * 2 ^ 48 + o) n).2 }
  | .host o => some { space := 2, off := (lineRun o n).1, len := (lineRun o n).2 }
  | .ctrl o => some { space := 3, off := (lineRun o n).1, len := (lineRun o n).2 }
  | .loc o => some { space := 4 + dseq, off := o, len := n }
  | _ => none

/-- Whether two runs share a byte. -/
def Span.meets (a b : Span) : Bool := a.space == b.space && decide (a.off < b.off + b.len ∧ b.off < a.off + a.len)

/-- The runs of an operation's lanes that are not yet performed or sent. -/
def MemOp.spans (dseq : Nat) (o : MemOp) : List Span :=
  (o.lanes.filter fun l => !l.sent).filterMap fun l => spanOf dseq l.len l.loc

/-- The runs of all an operation's lanes. -/
def MemOp.allSpans (dseq : Nat) (o : MemOp) : List Span := o.lanes.filterMap fun l => spanOf dseq l.len l.loc

/-- Whether two lists of runs meet. -/
def meetAny (xs ys : List Span) : Bool := xs.any fun x => ys.any fun y => x.meets y

/-- Whether an operation returns a value to its cohort, as a load does (R92). -/
def OpKind.returns : OpKind → Bool
  | .load _ | .ldu _ | .fla _ | .mldred _ _ _ | .fetch => true
  | .rmw _ r => r
  | _ => false

/-- Whether an operation is a store, which passes through the store buffer (R102, R103). -/
def OpKind.isStore : OpKind → Bool
  | .store | .storeZ | .spb _ | .mcst _ => true
  | _ => false

/-- Whether an operation writes. -/
def OpKind.writes : OpKind → Bool
  | .store | .spb _ => true
  | .rmw (.cellrd _) _ => false
  | .rmw _ _ => true
  | _ => false

/-- Whether a run is in own memory or a local store, where the store buffer forwards bytes. -/
def Span.near (x : Span) : Bool := x.space == 0 || decide (4 ≤ x.space)

/-- Whether an operation is a plain store, or one of CORE or HALL scope, that the buffer forwards (R103). -/
def MemOp.forwards (o : MemOp) : Bool := o.kind.isStore && (!o.rel || decide (o.scope ≤ 1))

/-- The device to which a target's packets go: host-window accesses go to the bridge device, and on the bridge itself to none (R19,
R126). -/
def Device.homeOf (d : Device) : Loc → Option Nat
  | .far h _ => some h
  | .host _ => if d.bridgeSet && !d.isBridge then some d.bridgeDev else none
  | _ => none

/-- Whether unsent lanes of an operation go to a device. -/
def Device.goesTo (d : Device) (o : MemOp) (t : Nat) : Bool := o.lanes.any fun l => !l.sent && d.homeOf l.loc == some t

/-- Whether a target lies outside the device. -/
def Loc.away : Loc → Bool
  | .far _ _ => true
  | .host _ => true
  | _ => false

/-- Whether an operation has lanes that are still to be handed to the fabric coalescer (R136). -/
def MemOp.sends (o : MemOp) : Bool := o.lanes.any fun l => !l.sent && l.loc.away

/-- The bytes of this device's own member copy that a multicast store has yet to write (R98, R101, R286). -/
def Device.ownCopies (d : Device) (o : MemOp) : List Span :=
  match o.kind with
  | .mcst g => if d.isMember g d.num then
      (o.lanes.filter fun l => l.result.isNone).map fun l => { space := 0, off := d.gbase g + l.addr, len := l.len }
    else []
  | _ => []

/-- The operations issued before an operation of the current cohort. -/
def Cohort.before (c : Cohort) (id : Nat) : List MemOp := c.ops.takeWhile fun o => o.id != id

/-- An operation of the current cohort. -/
def Cohort.op? (c : Cohort) (id : Nat) : Option MemOp := c.ops.find? fun o => o.id == id

/-- The cohorts of the core other than the current one, with their companies' DSEQ. -/
def State.mates (s : State) : List (Nat × Cohort) :=
  (s.co.cohorts.map fun c => (s.co.dseq, c)) ++
    (s.dev.companies.filter fun c => c.coreOf == some s.core).flatMap fun h => h.cohorts.map fun c => (h.dseq, c)

/-- Whether an operation stands in the store buffer. -/
def MemOp.inBuffer (o : MemOp) : Bool :=
  match o.stage with
  | .buffered _ => true
  | _ => false

/-- Its place in core store order. -/
def MemOp.order (o : MemOp) : Nat :=
  match o.stage with
  | .buffered k => k
  | _ => 0

/-- The store buffer of the core apart from the current cohort's stores. -/
def State.matesBuffer (s : State) : List (Nat × MemOp) :=
  s.mates.flatMap fun p => (p.2.ops.filter MemOp.inBuffer).map fun o => (p.1, o)

/-- The store buffer of the core (R103). -/
def State.buffer (s : State) : List (Nat × MemOp) :=
  ((s.me.ops.filter MemOp.inBuffer).map fun o => (s.co.dseq, o)) ++ s.matesBuffer

/-- Whether another cohort of the core holds back a run: it performed an access there ahead of an earlier one (R102). -/
def State.heldByMate (s : State) (xs : List Span) (writes : Bool) : Bool :=
  s.mates.any fun p => p.2.ops.any fun o => o.passed && (writes || o.kind.writes) && meetAny xs (o.allSpans p.1)

/-! ## Copies that hold a run -/

/-- The run of a segment. -/
def Seg.span (dseq : Nat) (g : Seg) : List Span := (spanOf dseq g.len g.loc).toList

/-- The lines of a run. -/
def Span.lines (x : Span) : Span := { x with off := x.off / 64 * 64, len := (x.off + x.len + 63) / 64 * 64 - x.off / 64 * 64 }

/-- The company that issued a piece. -/
def Piece.dseq (p : Piece) : Nat :=
  match p.owner with
  | .cohort d _ => d
  | .packet _ _ => 0

/-- Whether a piece was issued by a cohort. -/
def Piece.ownedBy (p : Piece) (dseq j : Nat) : Bool := p.owner == .cohort dseq j

/-- Whether a copy or fill holds back an access: lines in E of own memory (R83) and bytes of a local store that it will write (R84)
hold every access of another cohort and the later ones of its own; its cohort's later accesses wait for its other destination bytes,
and writes for its source bytes (R119, R121). -/
def Device.copyHolds (d : Device) (owner : Option (Nat × Nat)) (id : Nat) (xs : List Span) (writes : Bool) : Bool :=
  (d.pieces.any fun p =>
    let own : Bool := match owner with
      | some o => p.ownedBy o.1 o.2
      | none => false
    (decide (p.id < id) || !own) &&
      ((p.dst.span p.dseq).any (fun y =>
          xs.any fun x => (if y.space = 0 ∧ regionOf y.off ≠ .atrium then x.meets y.lines
                           else x.meets y && (decide (4 ≤ y.space) || own))) ||
       (writes && own && meetAny xs (p.src.flatMap (Seg.span p.dseq))))) ||
  (writes && d.fills.any fun f => decide (f.id < id) && owner == some (f.dseq, f.j) && meetAny xs (f.src.flatMap (Seg.span f.dseq)))

/-! ## When an operation may be performed -/

/-- Whether an earlier operation of the cohort holds back a later one for every observer (R98, R101, R106, R108, R123). -/
def Device.earlierHolds (d : Device) (dseq : Nat) (o e : MemOp) : Bool :=
  e.kind == .fence || (e.acq && !e.passed) ||
    (e.stage != .performed && (o.spans dseq ++ d.ownCopies o).any fun x => (e.spans dseq).any fun y =>
      x.meets y && !(x.near && e.kind.isStore && !o.kind.isStore && !o.kind.isRmw)) ||
    meetAny (o.spans dseq ++ d.ownCopies o) (d.ownCopies e) ||
    (match o.kind with
      | .fmark t => d.goesTo e t
      | .signal _ => o.lanes.any fun l => match d.homeOf l.loc with
        | some h => d.goesTo e h
        | none => false
      | _ => false) ||
    (match e.kind with
      | .fmark t => e.stage != .performed && d.goesTo o t
      | _ => false)

/-- Whether an earlier operation is performed for the agents of a release's scope (R107, R124). -/
def MemOp.doneFor (e : MemOp) (scope : Nat) : Bool :=
  if 3 ≤ scope then e.passed else e.stage == .performed || (scope == 0 && e.inBuffer)

/-- Whether a release may be performed: every earlier access, and every write taken from the store buffer, is
performed for its scope (R107, R110, R124). -/
def State.releaseReady (s : State) (o : MemOp) : Bool :=
  !o.rel || ((s.me.before o.id).all (fun e => e.doneFor o.scope) &&
    (o.scope == 0 || s.matesBuffer.all fun p => match o.stage with
      | .buffered k => decide (k < p.2.order)
      | _ => false))

/-- Whether every fence and access that must come first has done so (R98 to R111, R119). -/
def State.clear (s : State) (o : MemOp) : Bool :=
  !((s.me.before o.id).any fun e => s.dev.earlierHolds s.co.dseq o e) && s.releaseReady o &&
    !(s.dev.copyHolds (some (s.co.dseq, s.me.j)) o.id (o.spans s.co.dseq) (o.kind.writes || o.kind.isStore))

/-- Whether a load may be performed now. -/
def State.loadReady (s : State) (o : MemOp) : Bool :=
  let xs := o.spans s.co.dseq
  s.clear o && !(s.heldByMate xs false) &&
    !(s.matesBuffer.any fun p => (p.2.spans p.1).any fun y => xs.any fun x => x.meets y && !(x.near && p.2.forwards))

/-- Whether a store may enter the store buffer: the cohort's earlier loads have returned and its earlier stores have
entered (R103), and no other cohort of the core still holds the bytes back (R102). -/
def State.entryReady (s : State) (o : MemOp) : Bool :=
  (s.me.before o.id).all (fun e => e.kind != .fence && !(e.acq && !e.passed)
      && (if e.kind.returns then e.passed else e.stage != .issued || !(e.kind.isStore || e.kind.isRmw)))
    && !(s.heldByMate (o.spans s.co.dseq) true)

/-- Whether a store in the buffer may be performed: no older store there overlaps it (R98, R102). -/
def State.storeReady (s : State) (o : MemOp) : Bool :=
  s.clear o && !(s.matesBuffer.any fun p => decide (p.2.order < o.order) && meetAny (o.spans s.co.dseq) (p.2.spans p.1))

/-- Whether a read-modify-write may be performed: no store in the buffer overlaps it. -/
def State.rmwReady (s : State) (o : MemOp) : Bool :=
  let xs := o.spans s.co.dseq
  s.clear o && !(s.heldByMate xs true) && !(s.matesBuffer.any fun p => meetAny xs (p.2.spans p.1))

/-- Whether an access performed now comes ahead of an earlier one of its cohort (R102). -/
def Cohort.passes (c : Cohort) (o : MemOp) : Bool :=
  (c.before o.id).any fun e => (e.kind.returns && !e.passed) ||
    (o.kind.isRmw && e.stage == .issued && (e.kind.isStore || e.kind.isRmw))

/-! ## Fences -/

/-- Whether a request belongs to an operation of the current cohort up to one of an identifier. -/
def State.asksFor (s : State) (id : Nat) (r : Request) : Bool :=
  match r.who with
  | .op d j i _ => d == s.co.dseq && j == s.me.j && decide (i ≤ id)
  | _ => false

/-- Whether a fence's earlier accesses are performed for its scope, and at POD scope every marker and every earlier request of the
cohort is answered (R106, R141). -/
def State.fenceReady (s : State) (o : MemOp) : Bool :=
  (s.me.before o.id).all (fun e => e.doneFor o.scope || e.passed) && (o.scope == 0 || s.matesBuffer.isEmpty) &&
    !(o.scope == 3 && s.dev.fabric.requests.any (s.asksFor o.id))

/-- The devices that operations of a cohort up to one of an identifier have requests outstanding to. -/
def State.targetsOf (s : State) (id : Nat) : List Nat :=
  ((s.dev.fabric.requests.filter fun r => s.asksFor id r && !r.packet.multi && r.plane != 64).map fun r => r.packet.dst).eraseDups

/-- Send the markers of a POD fence once every earlier access of the cohort is sent: one to each device that it orders (R124,
R141). -/
def State.fenceMarkers (s : State) (o : MemOp) : State :=
  if o.stage == .performed ∨ o.scope ≠ 3 ∨ (s.me.before o.id).any (fun e => e.lanes.any fun l => !l.sent) then s
  else
    let d := (s.targetsOf o.id).foldl (fun d t => (d.sendMarker t (.op s.co.dseq s.me.j o.id [])).getD d) s.dev
    { s with dev := d, me := { s.me with ops := s.me.ops.map fun x => if x.id = o.id then { x with stage := .performed } else x } }

/-- Completion with error status for the failures that a test names (R113). -/
def Cohort.coverIf (c : Cohort) (f : Origin → Bool) : Cohort :=
  { (c.uncovered.filter fun u => f u.2.2).foldl (fun c u => c.ferr u.1 u.2.1) c with
    uncovered := c.uncovered.filter fun u => !f u.2.2 }

/-- The accesses before an operation, which a FENCE.POD or a release at POD scope covers (R113). -/
def Origin.before (id : Nat) : Origin → Bool
  | .access i => decide (i < id)
  | .copy _ => false

/-- Every access: what the FENCE.POD of a save covers (R113, R130). -/
def Origin.isAccess : Origin → Bool
  | .access _ => true
  | .copy _ => false

/-- The writes of copies of a closed batch that a list names (R113, R120). -/
def Origin.inBatch (bs : List Nat) : Origin → Bool
  | .copy (some b) => bs.contains b
  | _ => false

/-- What a release or fence of PKG or POD scope makes of earlier class L writes: their invalidations stand in the queues of every
hall, so that an acquire of that scope reads the newest values (R106, R107, R115). -/
def State.publish (s : State) (scope : Nat) : State := if 2 ≤ scope then { s with dev := s.dev.enterAll } else s

/-- A read as an acquire at a scope: at PKG and POD the hall first applies its queued invalidations (R108, R115). -/
def State.acquire (s : State) (acq : Bool) (scope : Nat) : State :=
  if acq && decide (2 ≤ scope) then s.setDev (s.dev.applyAll s.hall) else s

/-- What a fence does when it retires: it releases what stands before it and acquires for what follows (R106, R109). -/
def State.fenced (s : State) (scope : Nat) : State := (s.publish scope).acquire true scope

/-- Retire the fences of the current cohort whose accesses are performed, oldest first, and forget accesses that no
earlier one is behind any more (R102, R106). -/
def State.settleOps : Nat → State → State
  | 0, s => s
  | n + 1, s =>
    let ops := s.me.ops.filter fun o => !(o.passed && o.kind != .fetch && !(s.me.passes o))
    let s := { s with me := { s.me with ops := ops } }
    match s.me.ops.find? fun o => o.kind == .fence with
    | some o =>
      let s := s.fenceMarkers o
      if s.fenceReady o && (o.scope != 3 || (s.me.op? o.id).any fun x => x.stage == .performed) then
        let me := { s.me with ops := s.me.ops.filter fun x => x.id != o.id }
        let t := (s.setMe (if o.scope = 3 then me.coverIf (Origin.before o.id) else me)).fenced o.scope
        t.settleOps n
      else s
    | none => s

/-- Retire what can retire of the current cohort's fences. -/
def State.settle (s : State) : State := s.settleOps (s.me.ops.length + 1)

/-! ## The directory and conflicts -/

/-- Whether a request of hall `h` for a line is a coherence conflict (R67). -/
def Device.dirConflict (d : Device) (h line : Nat) (write : Bool) : Bool :=
  let x := d.dirOf line
  (decide (0x100 ≤ x) && x != 0x100 + h) || (write && decide (0 < x ∧ x < 0x100) && (x - 1) % 16 / 2 ^ h % 2 * 2 ^ h != (x - 1) % 16)
    || d.ownedLine line

/-- The code of the current cohort as a last writer (R395). -/
def State.writerCode (s : State) : Nat := s.core * 32 + s.me.slot + 1

/-- The conflict place at which a plain access to a line of own memory is reported, if any (R67, R395). -/
def State.conflictPlace (s : State) (off : Nat) (write : Bool) : Option Nat :=
  let line := off / 64
  let w := Store.get 0 s.dev.recUnit.writer line
  let other := w != 0 && w != s.writerCode
  if regionOf off = .atrium then (if other then some (0x3000 + bankOf off) else none)
  else if s.dev.dirConflict s.hall line write then some (0x3000 + bankOf off)
  else if other then
    (if 0x10000 ≤ w then some (0x3000 + bankOf off)
     else if (w - 1) / 32 = s.core then some (0x3400 + s.core)
     else if (w - 1) / 32 / 128 = s.hall then some (0x3200 + s.hall) else some (0x3000 + bankOf off))
  else none

/-- A plain access of the current cohort reaches bytes of a line: a conflict is recorded, and the L2, the directory and the last
writer follow (R63, R66, R67, R395). -/
def State.touchLine (s : State) (off : Nat) (need : DWord) (write : Bool) : State :=
  let line := off / 64
  let t := match s.conflictPlace off write with
    | some p => s.logPlace 2 p
    | none => s
  let d := if regionOf off = .atrium then t.dev else if write then t.dev.hallStore t.hall line need else t.dev.hallLoad t.hall line need
  let u := if write && s.recording then { d.recUnit with writer := Store.set 0 d.recUnit.writer line s.writerCode } else d.recUnit
  t.setDev { d with recUnit := u }

end Sys2Proof.Machine
end

