-- ==== Sys2Proof/Machine/Perform.lean ====
section
/-!
DEFINITION. Performing what cohorts issued: reading and forwarding bytes (R96, R101, R103), LOAD_RETURN,
STORE_PERFORM, BANK_OPERATION, the packets of accesses that leave the device (R136) and what their responses do.
-/
namespace Sys2Proof.Machine

/-! ## Page-pool pops (R54) -/

/-- Send the pool-low event (Table 13-8). -/
def Device.postPool (d : Device) : Device := d.post 2 0xFFFF 0 (d.ctrlValue 0x2320) 0

/-- Note a pop: EMPTY, LOW and the pool-low event (R54). -/
def Device.afterPop (d : Device) (small empty : Bool) : Device :=
  let n := if small then d.pool64k.length else d.pool2m.length
  let d := if empty then d.setReg 0x2320 (d.reg 0x2320 ||| (if small then 2 ^ 31 else 2 ^ 30)) else d
  if n < (if small then 1024 else 64) then (d.setReg 0x2320 (d.reg 0x2320 ||| 2 ^ 28)).postPool
  else d

/-- A load of PGPOP64K: the first frame of the pool, or zero (R54, Table 2-10). -/
def Device.pop64k (d : Device) : Device × Nat :=
  match d.pool64k with
  | f :: fs => (({ d with pool64k := fs }).afterPop true false, 2 ^ 63 + f)
  | [] => (d.afterPop true true, 0)

/-- A load of PGPOP2M. -/
def Device.pop2m (d : Device) : Device × Nat :=
  match d.pool2m with
  | f :: fs => (({ d with pool2m := fs }).afterPop false false, 2 ^ 63 + f)
  | [] => (d.afterPop false true, 0)

/-- A load of up to 8 bytes of control space (R18). -/
def Device.ctrlLoad (d : Device) (off n : Nat) : Device × Nat :=
  let base := off / 8 * 8
  let p := if base = 0x2300 then d.pop64k else if base = 0x2308 then d.pop2m else (d, d.ctrlValue base)
  (p.1, p.2 / 2 ^ (8 * (off - base)) % 2 ^ (8 * n))

/-- Load bytes of control space, in 8-byte parts (R18). -/
def Device.ctrlBytes (d : Device) : Nat → Nat → Nat → Device × List Byte
  | 0, _, _ => (d, [])
  | fuel + 1, off, n =>
    if n = 0 then (d, [])
    else
      let k := min n (8 - off % 8)
      let p := d.ctrlLoad off k
      let q := p.1.ctrlBytes fuel (off + k) (n - k)
      (q.1, leBytes k p.2 ++ q.2)

/-- The row of the opcode table for a write at an offset of control space. -/
def ctrlRow (w : RegWrite) : Instr :=
  match w.base with
  | 0 => .devnumWrite w
  | 0x1000 => .ascarveWrite w
  | 0x2100 => .shootdown w
  | 0x2310 => .pgpush64k w
  | 0x2318 => .pgpush2m w
  | 0x3080 => .memerrclr w
  | 0x4000 => .spillbaseWrite w
  | 0x6000 => .prectlGo w
  | 0x6008 => .restctlGo w
  | 0x30000 => .bridgecfgWrite w
  | 0x50008 =>
    (match bits w.ones 14 12 with
      | 1 => .queueEnable w
      | 2 => .queueDisable w
      | 3 => .queueResume w
      | _ => .registerWrite w)
  | 0x52000 => .ccfwctlGo w
  | 0x60000 =>
    (match bits w.ones 17 16 with
      | 0 => if bits w.cover 17 16 = 3 then .modeOff w else .registerWrite w
      | 1 => .recordStrict w
      | 2 => .recordLossy w
      | _ => .replayMode w)
  | 0x60210 => .ctxretGo w
  | 0x60350 => .jobreqGo w
  | 0x70040 => .featctlGo w
  | 0x70100 => .hallqGo w
  | b =>
    if 0x10000 ≤ b ∧ b < 0x11000 then .pmaskWrite w
    else if 0x20400 ≤ b ∧ b < 0x20600 then .portresolveGo w
    else if 0x40000 ≤ b ∧ b < 0x48000 then .mcgtabWrite w
    else if 0x51000 ≤ b ∧ b < 0x51800 then .fltownWrite w
    else .registerWrite w

/-- The parts of a run of bytes of control space that lie in different 8-byte words. -/
def ctrlParts : Nat → Nat → List Byte → List (Nat × List Byte)
  | 0, _, _ => []
  | fuel + 1, off, bs =>
    if bs.isEmpty then []
    else (off, bs.take (8 - off % 8)) :: ctrlParts fuel (off + (8 - off % 8)) (bs.drop (8 - off % 8))

/-- A store to control space by a program or, through the fabric, the host: each 8-byte part acts at once, as the next turn
(R18). -/
def State.ctrlStore (s : State) (agent : Agent) (off : Nat) (bs : List Byte) : State :=
  let row (p : Nat × List Byte) : Turn := .event (ctrlRow { agent := agent, off := p.1, len := p.2.length, val := leNat p.2 })
  { s with turns := (ctrlParts 17 off bs).map row ++ s.turns }

/-! ## Reading bytes -/

/-- The byte that a store writes at a place, and whether it is poisoned: of several lanes the highest (R60). -/
def MemOp.byteAt (o : MemOp) (dseq space off : Nat) : Option (Byte × Bool) :=
  (o.lanes.reverse.filter fun l => !l.sent).findSome? fun l =>
    match spanOf dseq l.len l.loc with
    | some x =>
      if x.space == space && decide (x.off ≤ off ∧ off < x.off + l.data.length) then
        some (l.data.getD (off - x.off) 0#8, l.poisoned.getLsbD (off - x.off))
      else none
    | none => none

/-- Put a store among stores by descending place in core store order. -/
def insertStore (x : Nat × MemOp) : List (Nat × MemOp) → List (Nat × MemOp)
  | [] => [x]
  | y :: ys => if y.2.order < x.2.order then x :: y :: ys else y :: insertStore x ys

/-- The stores from which a load of the current cohort takes bytes, youngest first: its own earlier ones, and those of
the core's store buffer that the buffer forwards (R101, R103). -/
def State.sources (s : State) (o : MemOp) : List (Nat × MemOp) :=
  let own := (s.me.before o.id).filter fun e => e.kind.isStore
  let queue := ((own.filter fun e => e.stage == .issued).reverse).map fun e => (s.co.dseq, e)
  let buf := ((own.filter MemOp.inBuffer).map fun e => (s.co.dseq, e)) ++ s.matesBuffer.filter fun p => p.2.forwards
  queue ++ buf.foldl (fun acc x => insertStore x acc) []

/-- A byte as a load of the current cohort reads it, and whether it is poisoned. -/
def State.loadByte (s : State) (src : List (Nat × MemOp)) (l : Loc) (i : Nat) : Byte × Bool :=
  match spanOf s.co.dseq 1 l with
  | some x =>
    match src.findSome? fun p => p.2.byteAt p.1 x.space (x.off + i) with
    | some b => b
    | none => match l with
      | .mem o => (s.dev.hallByte s.hall (o + i), s.dev.badAt (o + i))
      | .loc o => (Store.get 0#8 s.co.ls (o + i), Store.get false s.co.lsBad ((o + i) / 16))
      | _ => (0#8, false)
  | none => (0#8, false)

/-- `n` free bytes, as the bits that poison holds. -/
def State.drawBytes (s : State) : Nat → State × List Byte
  | 0 => (s, [])
  | n + 1 =>
    let p := s.drawWord
    let q := p.1.drawBytes n
    (q.1, leBytes 4 p.2.toNat ++ q.2)

/-- Every byte of a lane's result poisoned. -/
def allBad (n : Nat) : Mask := BitVec.ofNat 64 (2 ^ n - 1)

/-- The value that a lane's load returns at a target on this device (R258, R90, Table 2-7). -/
def State.readLane (s : State) (src : List (Nat × MemOp)) (l : LaneOp) : State × (List Byte × Mask) :=
  match l.loc with
  | .ctrl o =>
    let p := s.dev.ctrlBytes 17 o l.len
    (s.setDev p.1, (p.2, 0#64))
  | .poison =>
    let p := s.drawBytes ((l.len + 3) / 4)
    (p.1, (p.2.take l.len, allBad l.len))
  | .mem _ | .loc _ =>
    let bs := (List.range l.len).map (s.loadByte src l.loc)
    (s, (bs.map (·.1), maskOf ((List.range l.len).filter fun i => (bs.getD i (0#8, false)).2)))
  | _ => (s, (List.replicate l.len 0#8, 0#64))

/-! ## Changing operations -/

/-- Change an operation of the current cohort. -/
def State.mapOp (s : State) (id : Nat) (f : MemOp → MemOp) : State :=
  { s with me := { s.me with ops := s.me.ops.map fun o => if o.id = id then f o else o } }

/-- Mark lanes as performed or sent. -/
def MemOp.markSent (o : MemOp) (ls : List Nat) : MemOp :=
  { o with lanes := o.lanes.map fun l => if l.lane ∈ ls then { l with sent := true } else l }

/-- Give a lane its result, which is an acknowledgement for a write. -/
def MemOp.setResult (o : MemOp) (lane : Nat) (r : List Byte × Mask) : MemOp :=
  { o with lanes := o.lanes.map fun l => if l.lane = lane then { l with sent := true, result := some r } else l }

/-- The cohort that issued an operation. -/
def State.ownerOf (s : State) (id : Nat) : Option (Nat × Nat) :=
  if s.me.ops.any (fun o => o.id == id) then some (s.co.dseq, s.me.j)
  else (s.companies.flatMap fun h => h.cohorts.map fun c => (h.dseq, c)).findSome? fun p =>
    if p.2.ops.any (fun o => o.id == id) then some (p.1, p.2.j) else none

/-- Act on an operation with its cohort current; nothing where there is no such operation. -/
def State.onOp (s : State) (id : Nat) (f : State → MemOp → State) : State :=
  match s.ownerOf id with
  | some (d, j) => s.onCohort d j fun t =>
    let u := t.settle
    match u.me.op? id with
    | some o => f u o
    | none => u
  | none => s

/-- The lanes of an operation that reach one line together with a lane, none of them performed (R96, R136). -/
def MemOp.group (o : MemOp) (dseq lane : Nat) : List LaneOp :=
  let key (l : LaneOp) : Option Nat × Nat := match spanOf dseq (max 1 l.len) l.loc with
    | some x => (some x.space, x.off / 64)
    | none => (none, 0)
  match o.lanes.find? fun l => l.lane == lane && !l.sent with
  | some l => o.lanes.filter fun x => !x.sent && key x == key l
  | none => []

/-! ## What a completed operation writes -/

/-- A word of a lane's result: its value and whether a byte of it is poisoned. -/
def wordAt (r : List Byte × Mask) (k : Nat) : Word × Bool :=
  (BitVec.ofNat 32 (leNat ((r.1.drop (4 * k)).take 4)), (List.range 4).any fun i => r.2.getLsbD (4 * k + i))

/-- The word that a load writes, extended as its size code says (Table 8-10). -/
def extend (z : BitVec 3) (w : Word) : Word :=
  match z.toNat with
  | 0 => w &&& 0xFF#32
  | 1 => (w.extractLsb' 0 8).signExtend 32
  | 2 => w &&& 0xFFFF#32
  | 3 => (w.extractLsb' 0 16).signExtend 32
  | _ => w

/-- Write words of lanes into a name, some of them poisoned (R90, R381). -/
def Cohort.fillLanes (c : Cohort) (d : Nat) (m : Mask) (f : Nat → Word × Bool) : Cohort :=
  let old := c.vget d
  let new := old.merge m fun i => (f i).1
  c.vput d { new with poison := new.poison ||| (bitsOf (fun i => m.getLsbD i && (f i).2)) }

/-- The result of a lane; under U = 1 lane l's. -/
def MemOp.resultOf (o : MemOp) (i : Nat) : List Byte × Mask :=
  (((if o.u then o.lanes.head? else o.lanes.find? fun l => l.lane == i).bind (·.result)).getD ([], 0#64))

/-- The lanes that receive a result. -/
def MemOp.targets (o : MemOp) : Mask := if o.u then o.em else maskOf (o.lanes.map (·.lane))

/-- Write `n` vectors from the results of lanes. -/
def Cohort.fillGroup (c : Cohort) (o : MemOp) (n : Nat) (f : Word → Word) : Cohort :=
  (List.range n).foldl (fun c k => c.fillLanes (o.d + k) o.targets fun i =>
    let p := wordAt (o.resultOf i) k
    (f p.1, p.2)) c

/-- Write `n` scalars from the result of lane l (R260). -/
def Cohort.fillScalars (c : Cohort) (o : MemOp) (n : Nat) (f : Word → Word) : Cohort :=
  (List.range n).foldl (fun c k =>
    let p := wordAt (o.resultOf 0) k
    let c := c.sput (o.d + k) (f p.1)
    if p.2 then { c with sp := c.sp ||| (1#64 <<< (o.d + k)) } else c) c

/-- Write `n` whole registers from the bytes that FLA read (R314). -/
def Cohort.fillWhole (c : Cohort) (o : MemOp) (n : Nat) : Cohort :=
  let bs := o.lanes.flatMap fun l => ((l.result.map (·.1)).getD [])
  let ps := o.lanes.flatMap fun l => (List.range l.len).map fun i => ((l.result.map (·.2)).getD 0#64).getLsbD i
  (List.range n).foldl (fun c m => c.fillLanes (o.d + m) c.present fun i =>
    (BitVec.ofNat 32 (leNat ((bs.drop (256 * m + 4 * i)).take 4)), (List.range 4).any fun k => ps.getD (256 * m + 4 * i + k) false)) c

/-- What an operation that has all its results writes (R258, R260, R261, R267, R287, R314). -/
def Cohort.deliver (c : Cohort) (o : MemOp) : Cohort :=
  match o.kind with
  | .load z => c.fillGroup o (sizeRegs z) (extend z)
  | .ldu z => c.fillScalars o (sizeRegs z) (extend z)
  | .rmw (.int _ n) true => c.fillGroup o (n / 4) id
  | .rmw (.cellrd k) _ => c.fillGroup o (if k = 2 then 16 else 1) (fun w => if k = 1 then w &&& 0xFFFF#32 else w)
  | .fla n => c.fillWhole o n
  | .mldred _ _ _ => c.fillGroup o 1 id
  | _ => c

/-- After lanes were performed or answered: the operation is performed once every lane is sent, and ends once every
lane has its result: the data is written, the flag falls, and it is kept while an earlier access of its cohort that it
passed is pending (R96, R102, R211). -/
def State.finish (s : State) (id : Nat) : State :=
  match s.me.op? id with
  | none => s
  | some o =>
    if o.lanes.all fun l => l.result.isSome then
      if o.kind = .fetch then s.mapOp id fun x => { x with passed := true, stage := .performed }
      else
      let me := (if s.me.stat = .ended then s.me else s.me.deliver o).lower o.flag
      if !o.kind.isStore && me.passes o then
        let t := s.setMe me
        t.mapOp id fun x => { x with passed := true, stage := .performed, flag := none, acq := false }
      else s.setMe { me with ops := me.ops.filter fun x => x.id != id }
    else if o.lanes.all fun l => l.sent then s.mapOp id fun x => { x with stage := .performed }
    else s

/-! ## Failures -/

/-- A fabric failure reaches the issuing cohort, to be covered where a later instruction waits for what failed (R20, R113, R378). -/
def State.fail (s : State) (dev : Nat) (mcast : Bool) (what : Option Origin) : State :=
  { s with me := { s.me with
      fab := s.me.fab ++ [(dev, mcast)], uncovered := s.me.uncovered ++ (what.map fun o => (dev, mcast, o)).toList } }

/-- Lanes whose access failed after issue: loads and returned values are poison (R20). -/
def State.failLanes (s : State) (id : Nat) (ls : List Nat) (dev : Nat) (mcast : Bool) : State :=
  match s.me.op? id with
  | none => s
  | some o =>
    let t := ls.foldl (fun t i =>
      let n := ((o.lanes.find? fun l => l.lane == i).map (·.len)).getD 0
      let p := if o.kind.returns then t.drawBytes ((n + 3) / 4) else (t, [])
      p.1.mapOp id fun x => x.setResult i (p.2.take n, if o.kind.returns then allBad n else 0#64)) s
    (t.fail dev mcast (some (.access id))).finish id

/-! ## Packets of operations (R136) -/

/-- Whether lanes of an operation may leave now: the coalescer takes instructions in program order, and the groups of one by their
lowest lane (R136). -/
def State.mayLeave (s : State) (o : MemOp) (ls : List LaneOp) : Bool :=
  let low := ((ls.head?).map (·.lane)).getD 0
  !((s.me.before o.id).any MemOp.sends) && !(o.lanes.any fun l => !l.sent && l.loc.away && decide (l.lane < low))

/-- An acquire or release at POD scope sends a marker to a device ahead of its first packet there (R124, R141). -/
def State.podMarker (s : State) (o : MemOp) (l : Loc) : State :=
  match s.dev.homeOf l with
  | some t =>
    if (o.acq || o.rel) && o.scope == 3 && !(o.lanes.any fun x => x.sent && s.dev.homeOf x.loc == some t) then
      s.setDev ((s.dev.sendMarker t (.op s.co.dseq s.me.j o.id [])).getD s.dev)
    else s
  | none => s

/-- Hand lanes to the coalescer as one packet, or fail them where no plane or link reaches the target (R134). -/
def State.sendLanes (s : State) (o : MemOp) (ls : List LaneOp) (p : Packet) : State :=
  let ids := ls.map (·.lane)
  let loc := ((ls.head?).map (·.loc)).getD .none
  if s.mayLeave o ls = false then s
  else
    let s := s.podMarker o loc
    match s.dev.requestAt loc p (.op s.co.dseq s.me.j o.id ids) with
    | some d => ((s.setDev d).mapOp o.id fun x => x.markSent ids).finish o.id
    | none => s.failLanes o.id ids (s.dev.failedDev loc) false

/-- Lanes whose access needs a vestibule that is down fail (R17, R152). -/
def State.cutLanes (s : State) (o : MemOp) (ls : List LaneOp) : State := s.failLanes o.id (ls.map (·.lane)) s.dev.num false

/-- Whether a target is second-tier memory behind a vestibule that is down. -/
def Device.cut (d : Device) : Loc → Bool
  | .mem o => d.tierDown o
  | _ => false

/-- A POD release has every earlier response: it completes with error status for those that failed (R113). -/
def State.covered (s : State) (o : MemOp) : State :=
  if o.rel && o.scope == 3 then s.setMe (s.me.coverIf (Origin.before o.id)) else s

/-- Offset in its line of a target outside this device. -/
def Loc.inLine : Loc → Nat
  | .far _ o => o % 64
  | .host o => o % 64
  | .mem o => o % 64
  | _ => 0

/-- The byte enables and data of a line that lanes write (R60, R136). -/
def lineData (ls : List (Nat × List Byte)) : DWord × List Byte :=
  let at' (i : Nat) : Option Byte := ls.reverse.findSome? fun l =>
    if l.1 ≤ i ∧ i < l.1 + l.2.length then some (l.2.getD (i - l.1) 0#8) else none
  (bitsOf fun i => (at' i).isSome, (List.range 64).map fun i => (at' i).getD 0#8)

/-- The poisoned bytes of a line that lanes write: of several lanes' bytes at one place, the highest lane's (R60, R89). -/
def linePoison (ls : List (Nat × Nat × Mask)) : DWord :=
  bitsOf fun i => (ls.reverse.findSome? fun l =>
    if l.1 ≤ i ∧ i < l.1 + l.2.1 then some (l.2.2.getLsbD (i - l.1)) else none).getD false

/-- OP of a RED packet for an operation: REDNI, REDNF and BEW by their codes (log entry 14). -/
def Rmw.redOp : Rmw → Nat
  | .int c _ => if c = 8 then 3 else if c = 9 then 4 else if 3 ≤ c then c + 2 else c
  | .fadd f => 8 + f
  | .cell f => 11 + f
  | .cellz => 14
  | .bew op bf => 16 + 2 * op + (if bf then 1 else 0)
  | .cellrd k => 27 + k

/-- The operand and compare value of an entry (Table 5-3): for CAS the new value and the compare value. -/
def Rmw.operands (o : Rmw) (data : List Byte) : Nat × Nat :=
  match o with
  | .int op n => if op = 7 then (leNat ((data.drop n).take n), leNat (data.take n)) else (leNat (data.take n), 0)
  | .bew _ _ => (leNat (data.take 8), leNat ((data.drop 8).take 4))
  | _ => (leNat data, 0)

/-- log2 of the bytes of an entry. -/
def Rmw.sizeLog : Rmw → Nat
  | .int _ n => if n = 8 then 3 else 2
  | .fadd f => if f = 0 then 2 else 1
  | _ => 6

/-- The ATOM or RED packet of lanes on one line (R136, Table 5-3). -/
def rmwPacket (o : Rmw) (ret : Bool) (ls : List LaneOp) : Packet :=
  let entries := ls.map fun l =>
    let p := o.operands l.data
    { off := l.loc.inLine, size := o.sizeLog, lane := l.lane, operand := p.1, compare := p.2 : Entry }
  let op := match o, ret with
    | .int op _, true => op
    | .cellrd k, _ => 24 + k
    | _, _ => o.redOp
  { Packet.basic (if ret then ptATOM else ptRED) 0 0 with op := op, nops := ls.length - 1, entries := entries }

/-! ## LOAD_RETURN -/

/-- Read lanes one after another. -/
def State.readLanes (s : State) (id : Nat) (src : List (Nat × MemOp)) : List LaneOp → State
  | [] => s
  | l :: ls =>
    let p := s.readLane src l
    (p.1.mapOp id fun x => x.setResult l.lane p.2).readLanes id src ls

/-- The line of own memory that a plain access reaches, for its conflict record. -/
def Loc.ownOff : Loc → Option Nat
  | .mem o => Option.some o
  | _ => Option.none

/-- Whether a replay holds a plain access until its conflict is due (R395, R401). -/
def State.conflictHeld (s : State) (l : Loc) (write : Bool) : Bool :=
  match l.ownOff with
  | some o => (match s.conflictPlace o write with
    | some p => s.replayHolds p
    | none => false)
  | none => false

/-- The bytes of their line that lanes reach. -/
def needOf (ls : List LaneOp) : DWord :=
  maskOf ((List.range 64).filter fun i => ls.any fun l => decide (l.loc.inLine ≤ i ∧ i < l.loc.inLine + l.len))

/-- Plain accesses of lanes reach a line of own memory: its L2, the directory and the recorder follow. -/
def State.touch (s : State) (ls : List LaneOp) (write : Bool) : State :=
  match ls.head?.bind fun l => l.loc.ownOff with
  | some o => s.touchLine o (needOf ls) write
  | none => s

/-- Perform a load for the lanes on one line (R96, R103). -/
def State.performLoad (s : State) (o : MemOp) (lane : Nat) : State :=
  match o.group s.co.dseq lane with
  | [] => s
  | l :: ls =>
    if s.loadReady o = false ∨ s.conflictHeld l.loc false then s
    else if s.dev.cut l.loc then s.cutLanes o (l :: ls)
    else match l.loc with
      | .far _ _ | .host _ => s.sendLanes o (l :: ls) (Packet.basic ptRD 0 0)
      | _ =>
        let t := (s.acquire o.acq o.scope).touch (l :: ls) false
        (t.readLanes o.id (t.sources o) (l :: ls)).finish o.id

/-! ## STORE_PERFORM -/

/-- Push the turn in which the device notices a write to a doorbell line (R344). -/
def State.notice (s : State) (off n : Nat) : State :=
  match s.dev.queues.find? fun q => decide (q.dbaddr / 64 * 64 < off + n ∧ off < q.dbaddr / 64 * 64 + 64) with
  | some q => { s with turns := .event (.doorbellWrite q.qid (BitVec.ofNat 64 (s.dev.load q.dbaddr 8))) :: s.turns }
  | none => s

/-- The runs of own memory that lanes write. -/
def memRuns (ls : List LaneOp) : List (Nat × List Byte × Mask) :=
  ls.filterMap fun l => l.loc.ownOff.map fun o => (o, l.data, l.poisoned)

/-- Write the bytes of the lanes of a store that reach one line of own memory, as class P or as class L (R60, R114 to R116). -/
def State.writeMem (s : State) (o : MemOp) (off : Nat) (ls : List LaneOp) : State :=
  let d := if regionOf off = .atrium ∨ (o.rel ∧ 2 ≤ o.scope) then (memRuns ls).foldl (fun d w => d.putP w.1 w.2.1 w.2.2) s.dev
    else s.dev.putL s.hall (memRuns ls)
  (s.setDev ((memRuns ls).foldl (fun d w => s.keptIn d w.1 w.2.1.length) d)).notice (off / 64 * 64) 64

/-- Write a lane's bytes at a target that is no memory of this device. -/
def State.writeLane (s : State) (l : LaneOp) : State :=
  match l.loc with
  | .loc off => s.setCo (s.co.lsPut off l.data l.poisoned)
  | .ctrl off => if l.data.isEmpty then s else s.ctrlStore .program off l.data
  | _ => s

/-- Give lanes their acknowledgements. -/
def State.ackLanes (s : State) (id : Nat) (ls : List LaneOp) : State :=
  s.mapOp id fun x => ls.foldl (fun x l => x.setResult l.lane ([], 0#64)) x

/-- Perform a buffered store for the lanes on one line. -/
def State.performStore (s : State) (o : MemOp) (lane : Nat) : State :=
  match o.group s.co.dseq lane with
  | [] => s
  | l :: ls =>
    if s.storeReady o = false ∨ (o.kind ≠ .storeZ ∧ s.conflictHeld l.loc true) then s
    else if s.dev.cut l.loc ∧ o.kind ≠ .storeZ then s.cutLanes o (l :: ls)
    else
      let s := if o.rel then (s.publish o.scope).covered o else s
      match l.loc with
      | .far _ _ | .host _ =>
        let x := lineData ((l :: ls).map fun y => (y.loc.inLine, y.data))
        s.sendLanes o (l :: ls) { Packet.basic ptWR 0 0 with
          be := x.1, data := x.2, poison := linePoison ((l :: ls).map fun y => (y.loc.inLine, y.data.length, y.poisoned)) }
      | .mem off =>
        let t := if o.kind = .storeZ then s else (s.touch (l :: ls) true).writeMem o off (l :: ls)
        (t.ackLanes o.id (l :: ls)).finish o.id
      | _ => (((l :: ls).foldl State.writeLane s).ackLanes o.id (l :: ls)).finish o.id

/-- A store enters the core's store buffer and takes its place in core store order (R102, R103). -/
def State.enterBuffer (s : State) (o : MemOp) : State :=
  if s.entryReady o then
    let t := s.mapOp o.id fun x => { x with stage := .buffered s.dev.order }
    t.setDev { t.dev with order := t.dev.order + 1 }
  else s

/-- Whether FMARK sends a marker: not to this device, 0x3FF or 512 to 1022 (R288). -/
def Device.marks (d : Device) (t : Nat) : Bool := t != d.num && decide (t < 512)

/-- A completion signal to another device: a marker, then a SIG packet on the plane of its line (R141, R280). -/
def State.sendSignal (s : State) (o : MemOp) (set : Bool) : State :=
  match o.lanes with
  | [] => s
  | l :: _ =>
    if s.clear o = false ∨ s.mayLeave o [l] = false then s
    else
      let e : Entry := { off := l.loc.inLine, size := 2, lane := l.lane, operand := leNat l.data, compare := 0 }
      let d := match s.dev.homeOf l.loc with
        | some t => (s.dev.sendMarker t (.op s.co.dseq s.me.j o.id [])).getD s.dev
        | none => s.dev
      (s.setDev d).sendLanes o [l] { Packet.basic ptSIG 0 0 with op := if set then 6 else 0, entries := [e] }

/-- FMARK's marker, once the cohort's earlier accesses to the device are sent (R123, R288). -/
def State.sendFmark (s : State) (o : MemOp) (t : Nat) : State :=
  if s.clear o = false ∨ (s.me.before o.id).any MemOp.sends then s
  else
    let u := match s.dev.sendMarker t (.op s.co.dseq s.me.j o.id []) with
      | some d => s.setDev d
      | none => s.fail (if (s.dev.effMask t == 0) then t else s.dev.num) false (some (.access o.id))
    u.setMe { u.me with ops := u.me.ops.filter fun x => x.id != o.id }

/-- The MCW of the lanes on one group line (R286); the target is the group, addresses are group offsets. -/
def State.sendMcw (s : State) (o : MemOp) (g lane : Nat) : State :=
  let ls : List LaneOp := match o.lanes.find? fun l => l.lane == lane && !l.sent with
    | some l => o.lanes.filter fun x => !x.sent && x.addr / 64 == l.addr / 64
    | none => []
  match ls with
  | [] => s
  | l :: _ =>
    if s.storeReady o = false ∨ s.mayLeave o ls = false then s
    else
      let x := lineData (ls.map fun y => (y.addr % 64, y.data))
      let p := { Packet.basic ptMCW g (l.addr / 64) with
        be := x.1, data := x.2, poison := linePoison (ls.map fun y => (y.addr % 64, y.data.length, y.poisoned)) }
      let ids := ls.map (·.lane)
      match s.dev.request p (.op s.co.dseq s.me.j o.id ids) with
      | some d => ((s.setDev d).mapOp o.id fun x => x.markSent ids).finish o.id
      | none => s.failLanes o.id ids (s.dev.failedGroup p) true

/-- STORE_PERFORM: a store enters the core's store buffer, and from it the lanes on one line are performed at their
target; a signal and a marker are sent (R102, R103, R141). -/
def execStorePerform (id lane : Nat) (s : State) : Out :=
  .next (s.onOp id fun s o => match o.kind with
    | .signal set => s.sendSignal o set
    | .fmark t => s.sendFmark o t
    | .mcst g => if o.inBuffer then s.sendMcw o g lane else s.enterBuffer o
    | .store | .storeZ | .spb _ => if o.inBuffer then s.performStore o lane else s.enterBuffer o
    | _ => s)

/-! ## BANK_OPERATION -/

/-- Emit the first record that an operation stashed, at a place (R394, R397). -/
def State.emitOrder (s : State) (o : MemOp) (place : Nat) : State :=
  match o.recs with
  | [] => s
  | r :: rs =>
    let p := s.takeSerial place
    (p.1.emitRec { r with payload := place * 2 ^ 32 + p.2 }).mapOp o.id fun x => { x with recs := rs }

/-- Whether a lower lane of the operation names bytes of this lane and is not performed (R257). -/
def MemOp.lowerFirst (o : MemOp) (dseq : Nat) (l : LaneOp) : Bool :=
  o.lanes.any fun x => !x.sent && decide (x.lane < l.lane) && meetAny (spanOf dseq x.len x.loc).toList (spanOf dseq l.len l.loc).toList

/-- A read-modify-write of own memory by the current cohort has changed the device: the directory, the last writer and
doorbells follow (R66, R344, R395). -/
def State.afterRmw (s : State) (l2 : Option Nat) (off n : Nat) (d : Device) : State :=
  let d := if regionOf off = .atrium then d else match l2 with
    | some h => d.hallStore h (off / 64) (maskOf ((List.range n).map fun i => off % 64 + i))
    | none => d.homeStore off
  let u := if s.recording then { d.recUnit with writer := Store.set 0 d.recUnit.writer (off / 64) s.writerCode } else d.recUnit
  (s.softWrite off n { d with recUnit := u }).notice off n

/-- Perform a read-modify-write of one lane on this device. -/
def State.rmwLane (s : State) (o : MemOp) (r : Rmw) (l : LaneOp) : State :=
  let s := (if o.rel then (s.publish o.scope).covered o else s).acquire o.acq o.scope
  let s := match placeOf s.core s.hall o.scope l.loc with
    | some p => s.emitOrder o p
    | none => s
  let done (s : State) (bs : List Byte) (bad : Bool) : State :=
    (s.mapOp o.id fun x => x.setResult l.lane (bs, if bad then allBad bs.length else 0#64)).finish o.id
  match l.loc with
  | .mem off =>
    let l2 := if regionOf off = .atrium ∨ 2 ≤ o.scope then none else some s.hall
    let p := s.dev.rmw l2 r off l.data
    let adds : Bool := o.rel && !o.kind.returns && r == .int 0 4
    let t := s.afterRmw l2 off r.bytes p.1
    let t := if adds then t.setDev { t.dev with semr := Store.set 0 t.dev.semr off (s.co.dseq * 16 + s.me.j + 1) } else t
    done t p.2.1 p.2.2
  | .loc off =>
    let p := s.co.rmw r off l.data
    done (s.setCo p.1) p.2.1 p.2.2
  | .zero => done s (r.answer (List.replicate 64 0#8) 0) false
  | _ =>
    let p := s.drawBytes 16
    done p.1 (r.answer p.2 0) true

/-- Perform one lane of a read-modify-write, or send the packet of its line's lanes (R70, R136, R257). -/
def State.performRmw (s : State) (o : MemOp) (r : Rmw) (ret : Bool) (lane : Nat) : State :=
  match o.lanes.find? fun l => l.lane == lane && !l.sent with
  | none => s
  | some l =>
    let due : Bool := match placeOf s.core s.hall o.scope l.loc with
      | some p => !s.replayHolds p
      | none => true
    if s.rmwReady o = false ∨ o.lowerFirst s.co.dseq l ∨ due = false then s
    else if s.dev.cut l.loc then s.cutLanes o [l]
    else match l.loc with
      | .far _ _ | .host _ =>
        let ls := (o.group s.co.dseq lane).take 16
        (if o.rel then (s.publish o.scope).covered o else s).sendLanes o ls (rmwPacket r ret ls)
      | _ => s.rmwLane o r l

/-- BANK_OPERATION: one lane of an atomic, reduction, cell operation or element-wise update is performed indivisibly at
its place (R68, R70, R99). -/
def execBankOperation (id lane : Nat) (s : State) : Out :=
  .next (s.onOp id fun s o => match o.kind with
    | .rmw r ret => s.performRmw o r ret lane
    | _ => s)

end Sys2Proof.Machine
end

