-- ==== Sys2Proof/Machine/Trace.lean ====
section
/-!
DEFINITION. The trace unit (R405 to R407) and correlation markers (R32).
-/
namespace Sys2Proof.Machine

/-- TRCBASE.LOG2. -/
def Device.trcLog2 (d : Device) : Nat := bits (d.reg 0x60100) 4 0
/-- Whether the trace unit writes anything: EN and a ring (Table 15-9). -/
def Device.trcOn (d : Device) : Bool := bit (d.reg 0x60108) 0 && decide (10 ≤ d.trcLog2 ∧ d.trcLog2 ≤ 26)
/-- Whether the trace ring has room for `n` records. -/
def Device.trcRoom (d : Device) (n : Nat) : Bool :=
  decide ((bits (d.reg 0x60110) 63 32 + 2 ^ 32 - bits (d.reg 0x60110) 31 0) % 2 ^ 32 + n ≤ 2 ^ d.trcLog2)

/-- Whether a type is enabled: packets and launches by PKT, arrivals by SYNC, rails by POWER, the others by EN (R405). -/
def Device.trcEnables (d : Device) (type : Nat) : Bool :=
  let c := d.reg 0x60108
  if 1 ≤ type ∧ type ≤ 4 then bit c 1 else if type = 5 ∨ type = 6 then bit c 2 else if type = 7 then bit c 3
  else decide (8 ≤ type ∧ type ≤ 10)

/-- A trace record's bytes (Table 15-10). -/
def traceBytes (r : TraceRec) (time : DWord) : List Byte :=
  leBytes 1 r.type ++ leBytes 1 r.die ++ leBytes 2 r.engine ++ leBytes 2 r.qid ++ leBytes 2 r.data2 ++ leBytes 4 r.csn
    ++ leBytes 4 r.data1 ++ leBytes 8 time.toNat ++ leBytes 8 r.data0

/-- Write one record into the ring. -/
def Device.trcWrite (d : Device) (bs : List Byte) : Device :=
  let n := bits (d.reg 0x60110) 63 32
  let a := bits (d.reg 0x60100) 47 16 * 0x10000 + 32 * (n % 2 ^ d.trcLog2)
  (d.putP a bs 0#64).setField 0x60110 63 32 (n + 1)

/-- A record with a type and data, of the trace unit itself. -/
def traceRec (type data0 : Nat) : TraceRec :=
  { type := type, die := 4, engine := 5 * 2 ^ 12, qid := 0xFFFF, csn := 0, data0 := data0, data1 := 0, data2 := 0 }

/-- A trace record reaches the trace unit: written after a LOST record where some were lost, or counted as lost while the
ring is full (R405). -/
def State.trace (s : State) (r : TraceRec) : State :=
  if s.dev.trcOn && s.dev.trcEnables r.type then
    let p := s.readClock r.die
    let d := p.1.dev
    let lost := decide (0 < d.traceLost)
    if d.trcRoom (if lost then 2 else 1) then
      let d := if lost then { d.trcWrite (traceBytes (traceRec 10 (min d.traceLost 0xFFFFFFFF)) (d.clocks.getD 4 0#64)) with traceLost := 0 } else d
      p.1.setDev (d.trcWrite (traceBytes r p.2))
    else p.1.setDev { d with traceLost := d.traceLost + 1 }
  else s

/-- TRACE_RECORD. -/
def execTraceRecord (r : TraceRec) (s : State) : Out := .next (s.trace r)

/-- POWER_SAMPLE: two records of six rails each (R407). -/
def execPowerSample (rails : List Nat) (s : State) : Out :=
  let rail (i : Nat) : Nat := min (rails.getD i 0) 0xFFFF
  let one (k : Nat) : TraceRec :=
    { traceRec 7 (rail k + rail (k + 1) * 2 ^ 16 + rail (k + 2) * 2 ^ 32 + rail (k + 3) * 2 ^ 48) with
      data1 := rail (k + 4) + rail (k + 5) * 2 ^ 16, data2 := k }
  .next ((s.trace (one 0)).trace (one 6))

/-- CORRELATION_MARKER_SEND: the trace unit numbers a marker, sends it to the four halls and the two vestibules, and records its
own send (R32). -/
def execCorrelationMarkerSend (s : State) : Out :=
  let n := s.dev.marker
  let t := s.trace (traceRec 8 n)
  .next (t.setDev { t.dev with marker := (n + 1) % 2 ^ 32, onWay := t.dev.onWay ++ [0, 1, 2, 3, 5, 6].map fun die => (die, n) })

/-- CORRELATION_MARKER_RECEIPT: a hall or vestibule receives the oldest marker on its way to it and records its number with its
own counter, 40 to 64 of its cycles after the send (R32); the receipt is logged (Table 15-2). -/
def execCorrelationMarkerReceipt (die delay : Nat) (s : State) : Out :=
  .next (match s.dev.onWay.find? fun m => m.1 == die with
    | some m =>
      if 40 ≤ delay ∧ delay ≤ 64 then
        let t := s.setDev { s.dev with onWay := s.dev.onWay.eraseP fun m => m.1 == die }
        (t.trace { traceRec 8 m.2 with die := die }).logAtrium 13 0 m.2
      else s
    | none => s)

/-- SYNC and SYNCW of a synchronisation object (R406): the last arriver and the longest waiter, each a DSEQ and a
cohort index, the phase and the object's kind. The wait in cycles is a free value. -/
def State.traceSync (s : State) (kind phase : Nat) (last waiter : Nat × Nat) (qid csn : Nat) : State :=
  let who (p : Nat × Nat) : Nat := p.1 % 2 ^ 40 + p.2 * 2 ^ 40
  let r : TraceRec := { type := 5, die := s.hall, engine := 2 * 2 ^ 12 + s.core, qid := qid, csn := csn, data0 := who last
                        data1 := phase % 2 ^ 32, data2 := kind }
  let t := s.trace r
  let p := t.drawWord
  p.1.trace { r with type := 6, data0 := who waiter, data1 := p.2.toNat }

end Sys2Proof.Machine
end

