-- ==== Sys2Proof/Machine/QueueOps.lean ====
section
/-!
DEFINITION. What several rows do with a queue: its descriptor (Table 13-1), queue errors (R359), the completion of a
packet and of a flight's run (R351, R352, R366).
-/
namespace Sys2Proof.Machine

/-- A queue by identifier. -/
def Device.queue? (d : Device) (qid : Nat) : Option Queue := d.queues.find? fun q => q.qid == qid
/-- Change a queue. -/
def Device.mapQueue (d : Device) (qid : Nat) (f : Queue → Queue) : Device :=
  { d with queues := d.queues.map fun q => if q.qid = qid then f q else q }
/-- Local offset of a queue's descriptor (R343). -/
def Device.qdAddr (d : Device) (qid : Nat) : Nat := bits (d.reg 0x50000) 47 18 * 2 ^ 18 + 64 * qid
/-- A flight. -/
def Device.flight (d : Device) (fid : Nat) : Flight := Store.get Flight.empty d.flights fid
/-- Change a flight. -/
def Device.mapFlight (d : Device) (fid : Nat) (f : Flight → Flight) : Device :=
  { d with flights := Store.set Flight.empty d.flights fid (f (d.flight fid)) }

/-- The bytes 0x18 to 0x3F of a descriptor (Table 13-1). -/
def Queue.tail (q : Queue) : List Byte :=
  leBytes 4 q.rptr ++ leBytes 4 q.csn ++ leBytes 4 q.tcur ++ leBytes 2 q.qstate ++ leBytes 2 q.errcode ++ leBytes 4 q.errcsn
    ++ leBytes 4 0 ++ leBytes 8 q.errdata ++ leBytes 8 0

/-- Write a queue's descriptor as a release at POD scope (R343, R345). -/
def Device.writeQueue (d : Device) (qid : Nat) : Device :=
  match d.queue? qid with
  | some q => d.putP (d.qdAddr qid + 0x18) q.tail 0#64
  | none => d

/-- A recording that ends before its FLIGHT_END makes the flight INVALID (R363). -/
def Device.dropRecording (d : Device) (qid : Nat) : Device :=
  match d.queue? qid with
  | some q => match q.recording with
    | some fid => (d.mapFlight fid fun f => { f with state := 3 }).mapQueue qid fun q => { q with recording := none }
    | none => d
  | none => d

/-- A SIGWAIT that is abandoned is no longer a started packet. -/
def dropWait (w : Option SigWait) (ss : List Started) : List Started :=
  match w with
  | some w => ss.filter fun x => x.csn != w.csn
  | none => ss

/-- A queue error: the first is kept and stops the queue, every one posts QERR (R359). -/
def Device.queueError (d : Device) (qid csn cls cause data : Nat) : Device :=
  let code := cls * 256 + cause
  match d.queue? qid with
  | some q =>
    let d := if q.qstate = 2 then d
      else ((d.dropRecording qid).mapQueue qid fun q =>
        { q with qstate := 2, errcode := code, errcsn := csn, errdata := data
                 run := q.run.map fun r => { r with stopped := true } }).writeQueue qid
    d.post 1 qid csn code data
  | none => d.post 1 qid csn code data

/-- Whether a packet has CSIG (Table 13-4). -/
def csigOf (p : List Byte) : Bool := (p.getD 1 0#8).getLsbD 1
/-- Whether a packet has BARRIER. -/
def barrierOf (p : List Byte) : Bool := (p.getD 1 0#8).getLsbD 0

/-- A started packet completes: it stays while its completion signal is due, unless it failed (R352). -/
def Queue.complete (q : Queue) (csn : Nat) : Queue :=
  { q with started := q.started.filterMap fun s =>
      if s.csn = csn then (if csigOf s.packet && !s.failed then some { s with done := true } else none) else some s
           run := q.run.map fun r => { r with pending := r.pending.filter fun c => c != csn } }

/-- Whether a run has nothing more to issue. -/
def Run.issued (r : Run) (treads : Nat) : Bool := decide ((if r.fallback then r.fblen else treads) ≤ r.next)

/-- End a run whose issued treads have all completed: RUNS falls, and the FLIGHT_RUN packet completes if every tread was
issued; a stopped one does not (R346, R351, R359, R366, R367). -/
def Device.endRun (d : Device) (qid : Nat) : Device :=
  match d.queue? qid with
  | some q => match q.run with
    | some r =>
      let all := r.issued (d.flight r.fid).treads.length
      if r.pending.isEmpty && (all || r.stopped) then
        let d := if r.fallback then d else d.mapFlight r.fid fun f => { f with runs := f.runs - 1 }
        let mark (s : Started) : Started := if s.csn = r.csn then { s with failed := s.failed || r.failed } else s
        d.mapQueue qid fun q =>
          if all then Queue.complete { q with run := none, started := q.started.map mark } r.csn
          else { q with run := none, started := q.started.filter fun x => x.csn != r.csn }
      else d
    | none => d
  | none => d

/-- A packet completes, and with it perhaps the run that issued it (R351). -/
def Device.completePacket (d : Device) (qid csn : Nat) : Device := (d.mapQueue qid fun q => q.complete csn).endRun qid

/-- A packet, and the run that issued it, fails: no completion signal is performed (R352). -/
def Device.failPacket (d : Device) (qid csn : Nat) : Device :=
  d.mapQueue qid fun q => { q with
    started := q.started.map fun s => if s.csn = csn then { s with failed := true } else s
    run := q.run.map fun r => if csn ∈ r.pending then { r with failed := true } else r }

/-- A field of `n` bytes of a packet. -/
def pkt (p : List Byte) (off n : Nat) : Nat := leNat ((p.drop off).take n)

/-- The virtual address of the update that a started packet makes: its completion word once it is done, else SIGSET's word. -/
def Device.updateVa (d : Device) (qid csn : Nat) : Nat :=
  match (d.queue? qid).bind fun q => q.started.find? fun x => x.csn == csn with
  | some x => if x.done then pkt x.packet 8 8 else pkt x.packet 0x18 8
  | none => 0

/-- Whether TRCSTOP, holding `x`, holds the next packet of a queue (R408): packets are numbered from 1 (log entry 40). -/
def Queue.stopsAt (q : Queue) (x : Nat) : Bool := bit x 63 && bits x 43 32 == q.qid && (q.csn + 1) % 2 ^ 32 == bits x 31 0

/-- Whether every started packet of a queue has completed, apart from the FLIGHT_RUN whose treads issue now. -/
def Queue.settled (q : Queue) : Bool := q.started.all fun x => x.done || q.run.any fun r => r.csn == x.csn

/-- Whether a queue has a packet to start next: of its run in progress with `treads` treads, or of its ring. -/
def Queue.nextDue (q : Queue) (treads : Nat) : Bool :=
  q.rptr != q.wptr || q.run.any fun r => !r.stopped && !r.issued treads

/-- The packets of a queue that have started and not completed: CSN and first byte. -/
def Device.undone (d : Device) (qid : Nat) : List (Nat × Nat) :=
  match d.queue? qid with
  | some q => (q.started.filter fun x => !x.done).map fun x => (x.csn, (x.packet.getD 0 0#8).toNat)
  | none => []

/-- A packet record of the trace (Table 15-11). -/
def State.tracePacket (s : State) (type qid csn data0 : Nat) : State :=
  s.trace { traceRec type data0 with engine := (((s.dev.queue? qid).bind (·.place)).getD 0), qid := qid, csn := csn }

/-- KSTART or KEND of a launch, by the dispatcher (Table 15-11). -/
def State.traceLaunch (s : State) (type qid csn : Nat) (lseq : Word) (companies : Nat) : State :=
  s.trace { traceRec type lseq.toNat with engine := 2 ^ 12, qid := qid, csn := csn, data1 := companies % 2 ^ 32 }

/-- A packet completes, with PKTC in the trace for it and for a FLIGHT_RUN that ends with it (R351, Table 15-11). -/
def State.packetDone (s : State) (qid csn : Nat) : State :=
  let before := s.dev.undone qid
  let t := s.setDev (s.dev.completePacket qid csn)
  let after := (t.dev.undone qid).map (·.1)
  (before.filter fun x => !(after.contains x.1)).foldl (fun t x => t.tracePacket 2 qid x.1 x.2) t

end Sys2Proof.Machine
end

