-- ==== Sys2Proof/Machine/Copies.lean ====
section
/-!
DEFINITION. Copies: the descriptors and checks of the CPY shapes (R273 to R275), pieces (R81 to R84), batches (R85,
R276), COPY_PIECE, and STREAM_PREFETCH.
-/
namespace Sys2Proof.Machine

/-! ## Runs of a copy -/

/-- A target `k` bytes further. -/
def Loc.plus (l : Loc) (k : Nat) : Loc :=
  match l with
  | .mem o => .mem (o + k)
  | .far h o => .far h (o + k)
  | .host o => .host (o + k)
  | .loc o => .loc (o + k)
  | .ctrl o => .ctrl (o + k)
  | x => x

/-- Cut a run of `n` bytes from address `a` at multiples of 2^`k`: offsets from `a` and lengths. -/
def cutRun (k : Nat) : Nat → Nat → Nat → Nat → List (Nat × Nat)
  | 0, _, _, _ => []
  | fuel + 1, a, o, n =>
    if n = 0 then []
    else
      let m := min n (2 ^ k - (a + o) % 2 ^ k)
      (o, m) :: cutRun k fuel a (o + m) (n - m)

/-- How many parts a run has when it is cut at multiples of 2^`k`. -/
def partCount (k a n : Nat) : Nat := if n = 0 then 0 else (a + n - 1) / 2 ^ k - a / 2 ^ k + 1

/-- A side of a copy: its window, the kind that its shape names, and whether it is written. -/
structure Side where
  win : Nat
  kind : Nat
  write : Bool

/-- The address at which an offset of a window lies, for page and piece boundaries. -/
def Window.addr (w : Window) (o : Nat) : Nat := w.base.toNat + o

/-- Check the pages of one row of a side: the outcome at the start of each 64 KiB part (R274). -/
def State.rowChecks (s : State) (sd : Side) : List (Nat × Nat) → State × List (LaneChk × Nat)
  | [] => (s, [])
  | (o, n) :: rest =>
    let p := s.checkLane sd.win (if sd.write then .store else .load) .plain o 16
    let q := p.1.rowChecks sd rest
    (q.1, ({ lane := 0, addr := p.2.1, out := p.2.2 }, n) :: q.2)

/-- Check every row of a side (R274). -/
def State.sideChecks (s : State) (sd : Side) (len : Nat) : List Nat → State × List (List (LaneChk × Nat))
  | [] => (s, [])
  | o :: os =>
    let w := s.me.window sd.win
    let parts := (cutRun 16 (len / 2 ^ 16 + 2) (w.addr o) 0 len).map fun x => (o + x.1, x.2)
    let p := s.rowChecks sd parts
    let q := p.1.sideChecks sd len os
    (q.1, p.2 :: q.2)

/-- The segments of a checked row. -/
def rowSegs (r : List (LaneChk × Nat)) : List Seg := r.map fun x => { loc := x.1.out.loc, len := x.2 }

/-- Drop the first `k` bytes of a run of segments. -/
def dropSegs : Nat → List Seg → List Seg
  | _, [] => []
  | k, g :: gs => if k = 0 then g :: gs else if g.len ≤ k then dropSegs (k - g.len) gs
      else { loc := g.loc.plus k, len := g.len - k } :: gs

/-- Keep the first `k` bytes of a run of segments. -/
def takeSegs : Nat → List Seg → List Seg
  | _, [] => []
  | k, g :: gs => if k = 0 then [] else if k < g.len then [{ g with len := k }] else g :: takeSegs (k - g.len) gs

/-- Whether two runs of segments share a byte. -/
def segsMeet (dseq : Nat) (xs ys : List Seg) : Bool :=
  let f (g : Seg) : Option Span := match g.loc with
    | .far h o => some { space := 1, off := h * 2 ^ 48 + o, len := g.len }
    | .host o => some { space := 2, off := o, len := g.len }
    | l => spanOf dseq g.len l
  meetAny (xs.filterMap f) (ys.filterMap f)

/-- Whether some two runs of a list share a byte. -/
def someMeet (dseq : Nat) : List (List Seg) → Bool
  | [] => false
  | r :: rs => rs.any (segsMeet dseq r) || someMeet dseq rs

/-! ## Pieces -/

/-- The pieces of one row: cut where the destination crosses 4 KiB (R81), each with the source bytes it copies. -/
def rowPieces (owner : CopyOwner) (batch : Option Nat) (asid cluster dstAddr : Nat) (src dst : List Seg) (len : Nat) : List Piece :=
  (cutRun 12 (len / 4096 + 2) dstAddr 0 len).filterMap fun x =>
    match takeSegs x.2 (dropSegs x.1 dst) with
    | g :: _ => some { id := 0, owner := owner, batch := batch, asid := asid, cluster := cluster, va := x.1, dva := x.1
                       src := takeSegs x.2 (dropSegs x.1 src), dst := { g with len := x.2 }
                       asked := false, buf := [], bad := [], wrote := false }
    | [] => none

/-- Whether a piece takes an entry of the range table: its destination is own memory (R83). -/
def Piece.ranged (p : Piece) : Bool :=
  match p.dst.loc with
  | .mem o => regionOf o != .atrium
  | _ => false

/-- Whether the pool of a cluster and the range table have room for more pieces (R81, R83). -/
def Device.piecesFit (d : Device) (cluster : Nat) (ps : List Piece) : Bool :=
  decide ((d.pieces.filter fun p => p.cluster == cluster).length + ps.length ≤ 1024) &&
    decide ((d.pieces.filter Piece.ranged).length + (ps.filter Piece.ranged).length ≤ 4096)

/-- The destination lines of a piece leave every L2 (R83). -/
def Device.takeE (d : Device) (p : Piece) : Device :=
  match p.dst.loc with
  | .mem o => if regionOf o = .atrium then d
      else d.withCaches ((List.range ((o + p.dst.len + 63) / 64 - o / 64)).foldl (fun d k => d.dirRecall (o / 64 + k)) d)
  | _ => d

/-- Issue pieces, in order. -/
def Device.issuePieces (d : Device) (ps : List Piece) : Device :=
  ps.foldl (fun d p => { (d.takeE p) with pieces := d.pieces ++ [{ p with id := d.nextId }], nextId := d.nextId + 1 }) d

/-- The conflict places of destination lines that a piece in flight of another owner also writes, in the order of the lines (R67,
R83). -/
def Device.overlapPlaces (d : Device) (ps : List Piece) : List Nat :=
  (ps.filter Piece.ranged).flatMap fun p => match p.dst.loc with
    | .mem o => ((runLines o p.dst.len).filter fun a => d.pieces.any fun q =>
        q.owner != p.owner && q.ranged && (match q.dst.loc with
          | .mem b => (runLines b q.dst.len).contains a
          | _ => false)).map fun a => 0x3000 + bankOf a
    | _ => []

/-! ## The CPY shapes (R273 to R275) -/

/-- A copy's descriptor (Table 10-5). -/
structure CpyDesc where
  src : Nat
  dst : Nat
  len : Nat
  rows : Nat
  sstep : Int
  dstep : Int

/-- The start offset of row `r`. -/
def rowStart (o : Nat) (step : Int) (r : Nat) : Int := (o : Int) + (r : Int) * step

/-- Whether every byte of every row lies at an offset of 32 bits (R274). -/
def rowsIn (o : Nat) (step : Int) (rows len : Nat) : Bool :=
  [0, rows - 1].all fun r => decide (0 ≤ rowStart o step r) && decide (rowStart o step r + (len : Int) - 1 ≤ 0xFFFFFFFF)

/-- Whether a descriptor meets the alignment of Table 10-2. -/
def CpyDesc.aligned (c : CpyDesc) : Bool :=
  c.src % 16 == 0 && c.dst % 16 == 0 && c.len % 16 == 0 && c.sstep % 16 == 0 && c.dstep % 16 == 0

/-- The fault frame of a copy: its faulting pages by ascending address, in the slots of lanes 0, 1 and so on (R275). -/
def copyFrame (n0 : Nat) (src dst : List LaneChk) : Option (Frame × Mask) :=
  let pages (cs : List LaneChk) : List (Nat × Nat) := cs.filterMap fun c => match c.out with
    | .fault f => if f.rank = 10 then some (c.addr / 0x10000 * 0x10000, f.causeByte) else none
    | _ => none
  let ins (l : List (Nat × Nat)) (x : Nat × Nat) : List (Nat × Nat) :=
    if l.any (fun y => y.1 == x.1) then l else (l.filter fun y => decide (y.1 < x.1)) ++ x :: l.filter fun y => decide (x.1 < y.1)
  let ps := ((pages src ++ pages dst).foldl ins []).take n0
  if ps.isEmpty then none
  else
    let ls := ps.mapIdx fun i p => (i, p.2, p.1)
    some ({ kind := if (pages dst).isEmpty then 0 else 1, size := 16, lanes := ls, ptgen := 0#64 }, maskOf (ls.map (·.1)))

/-- The least-ranked queue-level outcome among checks (R46). -/
def worst (cs : List LaneChk) : Option LFault :=
  let fs := cs.filterMap fun c => c.fault 1 false
  let k := leastRank fs
  if k < 10 then fs.find? fun f => f.rank == k else none

/-- A copy after its descriptor is read: the checks in the order of R274, then its pieces. -/
def State.copy (s : State) (dw sw dk sk : Nat) (c : CpyDesc) : State :=
  let me := maskOf (lowestLane s.me.act).toList
  let ws := s.me.window sw
  let wd := s.me.window dw
  if c.len = 0 ∨ c.rows = 0 then s.retire 4
  else if ws.kind ≠ sk ∨ wd.kind ≠ dk then s.accessTrap 2 5 me
  else if c.aligned = false then s.accessTrap 5 0 me
  else if rowsIn c.src c.sstep c.rows c.len = false ∨ rowsIn c.dst c.dstep c.rows c.len = false
      ∨ 1024 < c.rows ∨ 1024 * 4096 < c.len then s.accessTrap 2 6 me
  else
    let rs := List.range c.rows
    let so := rs.map fun r => (rowStart c.src c.sstep r).toNat
    let dO := rs.map fun r => (rowStart c.dst c.dstep r).toNat
    let count := (dO.map fun o => partCount 12 (wd.addr o) c.len).foldl (· + ·) 0
    if 1024 < count then s.accessTrap 2 6 me
    else
      let p := s.sideChecks { win := sw, kind := sk, write := false } c.len so
      let q := p.1.sideChecks { win := dw, kind := dk, write := true } c.len dO
      let cs := p.2.flatten.map (·.1)
      let cd := q.2.flatten.map (·.1)
      -- a KIND 2 side is checked over its whole rows before any translation (R41, R274)
      let outside (w : Window) (os : List Nat) : Bool := w.kind == 2 && os.any fun o => decide (s.co.lsLen < w.addr o + c.len)
      if outside ws so || outside wd dO then s.accessTrap 3 0 me
      else match worst (cs ++ cd) with
        | some f => q.1.accessTrap f.code.1 f.code.2 me
        | none =>
          match copyFrame s.me.n0 cs cd with
          | some (f, mask) => q.1.pageFault f mask
          | none =>
            if (cs ++ cd).any fun x => x.out == .wait then s
            else
              let srcs := p.2.map rowSegs
              let dsts := q.2.map rowSegs
              if dsts.any (fun x => segsMeet s.co.dseq srcs.flatten x) || someMeet s.co.dseq dsts then q.1.accessTrap 2 7 me
              else
                let ps := (dO.zip (srcs.zip dsts)).flatMap fun x =>
                  rowPieces (.cohort s.co.dseq s.me.j) none s.co.asid (s.core / 16) (wd.addr x.1) x.2.1 x.2.2 c.len
                let cs := s.dev.overlapPlaces ps
                if s.dev.piecesFit (s.core / 16) ps && !(cs.any s.replayHolds) then
                  (cs.foldl (fun t p => t.logPlace 2 p) (q.1.setDev (q.1.dev.issuePieces ps))).retire 4
                else s

/-- A CPY shape: consumed poison raises #MCE and an empty em moves nothing (R255, R380). -/
def cpy (dw sw : BitVec 3) (dk sk : Nat) (n : Nat) (a : Reg) (s : State) : State :=
  let g (k : Nat) : Word := s.me.sget (a.toNat + k)
  let m := s.me.mce false [] (groupNames a.toNat n)
  if m ≠ 0#64 then s.queueTrap 6 1 m 0
  else if s.me.act = 0#64 then s.retire 4
  else s.copy dw.toNat sw.toNat dk sk
    { src := (g 0).toNat, dst := (g 1).toNat, len := (g 2).toNat, rows := if n = 6 then (g 3).toNat else 1
      sstep := if n = 6 then (g 4).toInt else 0, dstep := if n = 6 then (g 5).toInt else 0 }

/-- CPY.GL. -/
def execCpyGl (f : Bool) (dw sw : BitVec 3) (a : Reg) (s : State) : Out :=
  let _ := f
  .next (cpy dw sw 2 1 3 a s)
/-- CPY.LG. -/
def execCpyLg (f : Bool) (dw sw : BitVec 3) (a : Reg) (s : State) : Out :=
  let _ := f
  .next (cpy dw sw 1 2 3 a s)
/-- CPY.GG. -/
def execCpyGg (f : Bool) (dw sw : BitVec 3) (a : Reg) (s : State) : Out :=
  let _ := f
  .next (cpy dw sw 1 1 3 a s)
/-- CPY.TGL. -/
def execCpyTgl (f : Bool) (dw sw : BitVec 3) (a : Reg) (s : State) : Out :=
  let _ := f
  .next (cpy dw sw 2 1 6 a s)
/-- CPY.TLG. -/
def execCpyTlg (f : Bool) (dw sw : BitVec 3) (a : Reg) (s : State) : Out :=
  let _ := f
  .next (cpy dw sw 1 2 6 a s)

/-! ## Batches (R85, R276) -/

/-- Whether pieces of a closed batch of the current cohort are incomplete. -/
def State.batchOpen (s : State) (n : Nat) : Bool :=
  s.dev.pieces.any fun p => p.ownedBy s.co.dseq s.me.j && p.batch == some n

/-- The closed and incomplete batches of the current cohort, oldest first. -/
def State.openBatches (s : State) : List Nat := s.me.batches.filter s.batchOpen

/-- CPYB: closes the open batch and returns its number; it stalls while 64 closed batches are incomplete. -/
def execCpyb (f : Bool) (d : Reg) (s : State) : Out :=
  let _ := f
  .next (
    if 64 ≤ s.openBatches.length then s
    else
      let n := ((s.me.crget 0x22).toNat + 1) % 2 ^ 16
      let close (o : Origin) : Origin := if o = .copy none then .copy (some n) else o
      let ps := s.dev.pieces.map fun p => if p.ownedBy s.co.dseq s.me.j && p.batch == none then { p with batch := some n } else p
      let me := { ((s.me.crput 0x22 (BitVec.ofNat 32 n)).sput d.toNat (BitVec.ofNat 32 n)) with
        batches := s.openBatches ++ [n], uncovered := s.me.uncovered.map fun u => (u.1, u.2.1, close u.2.2) }
      ((s.setDev { s.dev with pieces := ps }).setMe me).retire 4)

/-- The batches that CPYW waits for (Table 3-6): none where the named batch is too old. -/
def awaited (l n : Nat) (open' : List Nat) : List Nat :=
  let d := (l + 2 ^ 16 - n) % 2 ^ 16
  if d < 64 then open'.filter fun b => decide (d ≤ (l + 2 ^ 16 - b) % 2 ^ 16)
  else if d < 0x8000 then [] else open'

/-- CPYW: waits for batches by distance; its completion covers their failures (R113, R120, R276). -/
def execCpyw (f : Bool) (a : Reg) (s : State) : Out :=
  let _ := f
  let n := (s.me.sget a.toNat).toNat % 2 ^ 16
  let l := (s.me.crget 0x22).toNat % 2 ^ 16
  .next (
    if s.me.spoison a.toNat then s.queueTrap 6 1 s.me.present 0
    else
      let ahead := decide (0x8000 ≤ (l + 2 ^ 16 - n) % 2 ^ 16)
      let me := if ahead then s.me.crput 0x23 0x80000000#32 else s.me
      let names : List Nat := awaited l n s.me.batches
      if (awaited l n s.openBatches).isEmpty then ((s.setMe (me.coverIf (Origin.inBatch names))).retire 4)
      else (s.setMe me).waitOn .cpyw)

/-! ## Performing pieces -/

/-- The hall whose L2 serves a cluster's copy engines (R61, R81). -/
def hallOfCluster (c : Nat) : Nat := c / 8

/-- A byte of a source as an engine reads it, and whether it is poisoned (R84). -/
def State.engineByte (s : State) (hall : Nat) (ls : Store Byte) (lsBad : Store Bool) (l : Loc) (i : Nat) : Byte × Bool :=
  match l with
  | .mem o => (s.dev.hallByte hall (o + i), s.dev.badAt (o + i))
  | .loc o => (Store.get 0#8 ls (o + i), Store.get false lsBad ((o + i) / 16))
  | .ctrl o => (BitVec.ofNat 8 (s.dev.ctrlValue ((o + i) / 8 * 8) / 2 ^ (8 * ((o + i) % 8))), false)
  | .poison => (BitVec.ofNat 8 (Config.freeWord s.free).toNat, true)
  | _ => (0#8, false)

/-- The lines of a run outside the device: target of the line's first byte in the run, offset in the run, length. -/
def linesOf (g : Seg) (base : Nat) : List (Loc × Nat × Nat) :=
  (cutRun 6 (g.len / 64 + 2) g.loc.inLine 0 g.len).map fun x => (g.loc.plus x.1, base + x.1, x.2)

/-- The offsets in a piece at which its segments start. -/
def segStarts : Nat → List Seg → List (Seg × Nat)
  | _, [] => []
  | k, g :: gs => (g, k) :: segStarts (k + g.len) gs

/-- Ask other devices for the lines that a source needs. A read that no plane or link carries fails: poison (R20, R84). -/
def State.askLines (s : State) (who : Requester) : List (Loc × Nat × Nat) → State × List (Nat × Nat × Nat)
  | [] => (s, [])
  | (l, o, n) :: rest =>
    match s.dev.requestAt l (Packet.basic ptRD 0 0) who with
    | some d => (s.setDev d).askLines who rest
    | none =>
      let p := s.askLines who rest
      (p.1, (s.dev.failedDev l, o, n) :: p.2)

/-- Requests of a piece or fill that are outstanding. -/
def Device.waitsFor (d : Device) (who : Requester) : Bool := d.fabric.requests.any fun r => r.who == who

/-- A fabric failure of a copy reaches its issuer: the cohort's #FAB, where a CPYW covers the failure of a write, or the queue's
error (R20, R113, R358). -/
def State.failCopy (s : State) (p : Piece) (write : Bool) (dev va : Nat) : State :=
  match p.owner with
  | .cohort d j => s.onCohort d j fun t => t.fail dev false (if write then some (.copy p.batch) else none)
  | .packet q c => s.setDev ((s.dev.queueError q c 3 7 va).failPacket q c)

/-- Mark bytes of a piece as poisoned. -/
def Piece.spoil (p : Piece) (o n : Nat) : Piece :=
  { p with bad := (List.range n).foldl (fun b i => Store.set false b (o + i) true) p.bad }

/-- Change a piece. -/
def Device.mapPiece (d : Device) (id : Nat) (f : Piece → Piece) : Device :=
  { d with pieces := d.pieces.map fun p => if p.id = id then f p else p }

/-- Whether the accesses that must come first have been performed: the issuing cohort's earlier fences, acquires and
writes, its earlier loads of the destination, and earlier pieces of the same lines (R83, R84, R119). -/
def State.pieceReady (s : State) (p : Piece) : Bool :=
  let dst := p.dst.span p.dseq
  let all := dst ++ p.src.flatMap (Seg.span p.dseq)
  !(s.dev.pieces.any fun q => decide (q.id < p.id) && (q.dst.span q.dseq).any fun y =>
      all.any fun x => if y.space = 0 then x.lines.meets y.lines else x.meets y) &&
  (match p.owner with
    | .cohort d j => match s.companies.find? fun h => h.dseq == d with
      | some h => match h.cohorts.find? fun c => c.j == j with
        | some c => c.ops.all fun o => decide (p.id < o.id) || o.passed ||
            !(o.kind == .fence || o.acq || (o.stage != .performed && (o.kind.writes || o.kind.isStore || meetAny (o.spans d) dst)))
        | none => true
      | none => true
    | .packet _ _ => true)

/-- Write the bytes of a piece at its destination. -/
def State.writePiece (s : State) (p : Piece) (bs : List Byte) (pm : Nat → Bool) : State :=
  match p.dst.loc with
  | .mem o =>
    let d := (cutRun 4 (bs.length / 16 + 2) o 0 bs.length).foldl (fun d x =>
      d.putP (o + x.1) ((bs.drop x.1).take x.2) (maskOf ((List.range x.2).filter fun i => pm (x.1 + i)))) s.dev
    (s.softWrite o bs.length d).notice o bs.length
  | .loc o => s.onCompany p.dseq fun t => t.setCo ((cutRun 4 (bs.length / 16 + 2) o 0 bs.length).foldl (fun c x =>
      c.lsPut (o + x.1) ((bs.drop x.1).take x.2) (maskOf ((List.range x.2).filter fun i => pm (x.1 + i)))) t.co)
  | .ctrl o => s.ctrlStore .program o bs
  | _ => s

/-- A COPY packet completes when its last piece is done and none is left to issue (R351, R357). -/
def State.copyDone (s : State) (owner : CopyOwner) : State :=
  match owner with
  | .packet q c =>
    let more := (s.dev.queue? q).any fun x => x.copies.any fun y => y.1 == c
    if more || s.dev.pieces.any (fun p => p.owner == owner) then s else s.packetDone q c
  | .cohort _ _ => s

/-- Let the packets of other devices that wait for a line be looked at again (R441). -/
def State.wakeInbound (s : State) : State :=
  { s with turns := ((s.dev.fabric.inbound.filter fun i => !i.waiting.isEmpty).map fun i => Turn.event (.markerRelease i.src)) ++ s.turns }

/-- The core and slot of a cohort, as the code of a last writer (R395). -/
def State.codeOf (s : State) (dseq j : Nat) : Nat :=
  match s.companies.find? fun h => h.dseq == dseq with
  | some h => h.coreOf.getD 0 * 32 + ((h.cohorts.find? fun c => c.j == j).map (·.slot)).getD 0 + 1
  | none => 0

/-- A piece of a cohort is the last writer of its destination lines (R67, R395). -/
def State.pieceWrote (s : State) (p : Piece) : State :=
  match p.owner, p.dst.loc with
  | .cohort d j, .mem o =>
    if s.recording then
      let w := (runLines o p.dst.len).foldl (fun w a => Store.set 0 w (a / 64) (s.codeOf d j)) s.dev.recUnit.writer
      s.setDev { s.dev with recUnit := { s.dev.recUnit with writer := w } }
    else s
  | _, _ => s

/-- A piece is done: its lines leave E, and packets that waited for them go on (R83, R441). -/
def State.endPiece (s : State) (p : Piece) : State :=
  let s := s.pieceWrote p
  (s.setDev { s.dev with pieces := s.dev.pieces.filter fun q => q.id != p.id }).wakeInbound.copyDone p.owner

/-- Whether a segment is second-tier memory behind a vestibule that is down: a piece lies in one 4 KiB granule of its destination,
and each part of its source in one page (R17, R152). -/
def Device.cutSeg (d : Device) (g : Seg) : Bool := d.cut g.loc || d.cut (g.loc.plus (g.len - 1))

/-- Whether a byte of a segment is cut off. -/
def Device.cutAt (d : Device) (l : Loc) (i : Nat) : Bool := d.cut (l.plus i)

/-- Reads of a piece that need a vestibule that is down fail (R20, R152). -/
def State.cutSources (s : State) (p : Piece) : State :=
  ((segStarts 0 p.src).filter fun g => s.dev.cutSeg g.1).foldl (fun s g => s.failCopy p false s.dev.num (p.va + g.2)) s

/-- The bytes of a piece, read now where they lie on this device and taken from its buffer where they do not. -/
def State.pieceBytes (s : State) (p : Piece) : List (Byte × Bool) :=
  let h := (s.companies.find? fun h => h.dseq == p.dseq).getD Company.null
  (segStarts 0 p.src).flatMap fun x =>
    (List.range x.1.len).map fun i =>
      if x.1.loc.away then (Store.get 0#8 p.buf (x.2 + i), Store.get false p.bad (x.2 + i))
      else if s.dev.cutAt x.1.loc i then ((s.engineByte (hallOfCluster p.cluster) h.ls h.lsBad .poison i))
      else s.engineByte (hallOfCluster p.cluster) h.ls h.lsBad x.1.loc i

/-- Send the lines of a piece to another device, its poison with them; a line that nothing carries fails (R20, R84, R136). -/
def State.sendPiece (s : State) (p : Piece) (bs : List Byte) (pm : Nat → Bool) : State :=
  (linesOf p.dst 0).foldl (fun s x =>
    let y := lineData [(x.1.inLine, (bs.drop x.2.1).take x.2.2)]
    let m := bitsOf fun i => decide (x.1.inLine ≤ i ∧ i < x.1.inLine + x.2.2) && pm (x.2.1 + (i - x.1.inLine))
    match s.dev.requestAt x.1 { Packet.basic ptWR 0 0 with be := y.1, data := y.2, poison := m } (.piece p.id) with
    | some d => s.setDev d
    | none => s.failCopy p true (s.dev.failedDev x.1) (p.dva + x.2.1)) s

/-- The lines of own memory that an engine reads come into the L2 of its hall (R61). -/
def Device.engineLoads (d : Device) (hall : Nat) (gs : List Seg) : Device :=
  d.withCaches (gs.foldl (fun d g => match g.loc with
    | .mem o => if regionOf o = .atrium then d
        else (runLines o g.len).foldl (fun d a => d.hallLoad hall (a / 64) (BitVec.allOnes 64)) d
    | _ => d) d)

/-- COPY_PIECE: an engine asks for what lies elsewhere, then reads its source and writes its destination (R81 to R84). -/
def State.performPiece (s : State) (p : Piece) : State :=
  if s.pieceReady p = false ∨ s.dev.waitsFor (.piece p.id) then s
  else if p.wrote then s.endPiece p
  else if p.asked = false ∧ p.src.any (fun g => g.loc.away) then
    let ls := ((segStarts 0 p.src).filter fun x => x.1.loc.away).flatMap fun x => linesOf x.1 x.2
    let q := s.askLines (.piece p.id) ls
    let t := q.1.setDev (q.1.dev.mapPiece p.id fun x => q.2.foldl (fun x f => x.spoil f.2.1 f.2.2) { x with asked := true })
    q.2.foldl (fun t f => t.failCopy p false f.1 (p.va + f.2.1)) t
  else
    let bs := s.pieceBytes p
    let pm (i : Nat) : Bool := (bs.getD i (0#8, false)).2
    let s := s.cutSources p
    let s := s.setDev (s.dev.engineLoads (hallOfCluster p.cluster) p.src)
    if p.dst.loc.away then
      let t := s.setDev (s.dev.mapPiece p.id fun x => { x with wrote := true })
      t.sendPiece p (bs.map (·.1)) pm
    else if s.dev.cutSeg p.dst then (s.failCopy p true s.dev.num p.dva).endPiece p
    else (s.writePiece p (bs.map (·.1)) pm).endPiece p

/-- COPY_PIECE. -/
def execCopyPiece (id : Nat) (s : State) : Out :=
  .next (match s.dev.pieces.find? fun p => p.id == id with
    | some p => s.performPiece p
    | none => s)

/-- STREAM_PREFETCH: the L2 of a hall takes a line in S; nothing for a line that is no own memory or in E (R87). -/
def execStreamPrefetch (hall line : Nat) (s : State) : Out :=
  .next (if inMemory (line * 64) ∧ hall < 4 ∧
        s.dev.ownedLine line = false
      then s.setDev (s.dev.hallLoad hall line (BitVec.allOnes 64)) else s)

end Sys2Proof.Machine
end

