-- ==== Sys2Proof/Machine/Approx.lean ====
section
/-!
DEFINITION. The FUNARY functions whose result R234 bounds and does not fix: a free value of the operand, kept where it lies within
the bound of Table 9-6 about a candidate of 100 or more significant bits, else the candidate rounded (log entry 3).
-/
namespace Sys2Proof.Machine

/-! ## Fixed point with 160 fraction bits -/

/-- 1. -/
def fxOne : Int := 2 ^ 160
/-- The natural logarithm of 2. -/
def fxLn2 : Int := 0xb17217f7d1cf79abc9e3b39803f2f6af40f34326
/-- The circle number times 2, with 320 fraction bits. -/
def twoPi : Nat := 0x6487ed5110b4611a62633145c06e0e68948127044533e63a0105df531d89cd9128a5043cc71a026ee
/-- A product. -/
def fxMul (x y : Int) : Int := x * y / fxOne

/-- A power series: `n` terms, each `y / den k` times the one before it, from `t`. -/
def fxSeries (y : Int) (den : Nat → Nat) : Nat → Nat → Int → Int
  | 0, _, _ => 0
  | n + 1, k, t => t + fxSeries y den n (k + 1) (fxMul t y / (den k : Int))

/-- The exponential, for a magnitude of at most 1. -/
def fxExp (x : Int) : Int := fxSeries x (fun k => k + 1) 60 0 fxOne
/-- The sine, for a magnitude of at most 7. -/
def fxSin (x : Int) : Int := fxSeries (-(fxMul x x)) (fun k => (2 * k + 2) * (2 * k + 3)) 50 0 x
/-- The cosine, for a magnitude of at most 7. -/
def fxCos (x : Int) : Int := fxSeries (-(fxMul x x)) (fun k => (2 * k + 1) * (2 * k + 2)) 50 0 fxOne

/-- The terms of the inverse hyperbolic tangent: odd powers over their exponents. -/
def fxOdd (y : Int) : Nat → Nat → Int → Int
  | 0, _, _ => 0
  | n + 1, k, t => t / ((2 * k + 1 : Nat) : Int) + fxOdd y n (k + 1) (fxMul t y)

/-- The base-2 logarithm of a number from 1 to 2. -/
def fxLog2 (y : Int) : Int :=
  let z := (y - fxOne) * fxOne / (y + fxOne)
  2 * fxOdd (fxMul z z) 60 0 z * fxOne / fxLn2

/-- A fixed-point number as a value. -/
def fxVal (x : Int) : Val := .fin (decide (x < 0)) x.natAbs (-160)

/-! ## The bound of a result -/

/-- Whether an FP32 result lies within `k * 2^q` of a candidate. -/
def nearBy (c : Val) (k : Nat) (q : Int) (r : Nat) : Bool :=
  match c, value r .fp32 with
  | .fin s m e, .fin s' m' e' =>
    let e0 := min (min e e') q
    decide ((alignTo e0 s' m' e' - alignTo e0 s m e).natAbs ≤ k * 2 ^ (q - e0).toNat)
  | _, _ => false

/-- A free value within an absolute bound, else the candidate rounded. -/
def keepAbs (c : Val) (q : Int) (r : Word) : Nat := if nearBy c 1 q r.toNat then r.toNat else roundRN .fp32 c

/-- A free value within 2 ulp, one ulp being the quantum of the candidate (R163, R234), else the candidate rounded. -/
def keepUlp (c : Val) (r : Word) : Nat := if nearBy c 2 (srcQuantum .fp32 c) r.toNat then r.toNat else roundRN .fp32 c

/-! ## Candidates -/

/-- 2 to the power of a finite value below 128. -/
def exp2Val (s : Bool) (m : Nat) (e : Int) : Val :=
  if (Val.fin s m e).lt (.fin true 200 0) then .fin false 1 (-200)
  else
    let x := alignTo (-160) s m e
    .fin false (fxExp (fxMul (x % fxOne) fxLn2)).toNat (x / fxOne - 160)

/-- The base-2 logarithm of a positive magnitude. -/
def log2Val (m : Nat) (e : Int) : Val :=
  fxVal (fxLog2 (fxOne * m / 2 ^ Nat.log2 m) + log2Mag m e * fxOne)

/-- A magnitude reduced modulo the full circle. -/
def reduced (m : Nat) (e : Int) : Int := ((m * 2 ^ (e + 320).toNat % twoPi / 2 ^ 160 : Nat) : Int)

/-- `x` squared `n` times. -/
def fxSquares (x : Int) : Nat → Int
  | 0 => x
  | n + 1 => fxSquares (fxMul x x) n

/-- The ratio of the hyperbolic tangent to its argument, for an argument below 2^-12 with the square `y`: terms to the eighth power. -/
def tanhRatio (y : Int) : Int :=
  fxOne - fxMul y (fxOne / 3 - fxMul y (2 * fxOne / 15 - fxMul y (17 * fxOne / 315 - fxMul y (62 * fxOne / 2835))))

/-- The hyperbolic tangent of a magnitude. -/
def tanhVal (s : Bool) (m : Nat) (e : Int) : Val :=
  if log2Mag m e < -12 then
    let y : Int := (m * m * 2 ^ (2 * e + 160).toNat / 2 ^ (-(2 * e + 160)).toNat : Nat)
    .fin s (m * (tanhRatio y).toNat) (e - 160)
  else if 6 ≤ log2Mag m e then .fin s (2 ^ 100 - 1) (-100)
  else
    let q := fxSquares (fxExp (-(alignTo (-160) false m e / 128))) 8
    .fin s ((fxOne - q) * fxOne / (fxOne + q)).toNat (-160)

/-! ## The functions (Table 9-6) -/

/-- FEXP2: special inputs, exact results of integers, else within 2 ulp. -/
def fexp2 (b : Nat) : Nat :=
  match value b .fp32 with
  | .nan => 0x7FC00000
  | .inf s => if s then 0 else 0x7F800000
  | .fin s m e =>
    if !(Val.fin s m e).lt (.fin false 1 7) then 0x7F800000
    else
      match (Val.fin s m e).toInt? with
      | some n => if -149 ≤ n then roundRN .fp32 (.fin false 1 n) else keepUlp (exp2Val s m e) (Config.fexp2 (BitVec.ofNat 32 b))
      | none => keepUlp (exp2Val s m e) (Config.fexp2 (BitVec.ofNat 32 b))

/-- FLOG2: special inputs, exact results of powers of two, else within 2 ulp, or within 2^−22 for b from 0.5 to 2. -/
def flog2 (b : Nat) : Nat :=
  match value b .fp32 with
  | .nan => 0x7FC00000
  | .inf s => if s then 0x7FC00000 else b
  | .fin s m e =>
    if m = 0 then 0xFF800000
    else if s then 0x7FC00000
    else if m = 2 ^ Nat.log2 m then
      let n := log2Mag m e
      roundRN .fp32 (.fin (decide (n < 0)) n.natAbs 0)
    else if log2Mag m e = -1 ∨ log2Mag m e = 0 then keepAbs (log2Val m e) (-22) (Config.flog2 (BitVec.ofNat 32 b))
    else keepUlp (log2Val m e) (Config.flog2 (BitVec.ofNat 32 b))

/-- FSIN: ±0 gives ±0, infinities NaN, else within 2^−21. -/
def fsin (b : Nat) : Nat :=
  match value b .fp32 with
  | .nan => 0x7FC00000
  | .inf _ => 0x7FC00000
  | .fin s m e =>
    let x := fxSin (reduced m e)
    if m = 0 then b else keepAbs (fxVal (if s then -x else x)) (-21) (Config.fsin (BitVec.ofNat 32 b))

/-- FCOS: ±0 gives +1.0, infinities NaN, else within 2^−21. -/
def fcos (b : Nat) : Nat :=
  match value b .fp32 with
  | .nan => 0x7FC00000
  | .inf _ => 0x7FC00000
  | .fin _ m e => if m = 0 then 0x3F800000 else keepAbs (fxVal (fxCos (reduced m e))) (-21) (Config.fcos (BitVec.ofNat 32 b))

/-- FTANH: ±0 gives ±0, infinities ±1.0, else within 2 ulp. -/
def ftanh (b : Nat) : Nat :=
  match value b .fp32 with
  | .nan => 0x7FC00000
  | .inf s => Fmt.signed .fp32 s 0x3F800000
  | .fin s m e => if m = 0 then b else keepUlp (tanhVal s m e) (Config.ftanh (BitVec.ofNat 32 b))

end Sys2Proof.Machine
end

