-- ==== Sys2Proof/Machine/FloatLane.lean ====
section
/-!
DEFINITION. FP32 and packed half-precision lane instructions, floating-point compares, the VMOV and FUNARY
groups, and the packed dot products (R230, R232 to R235, R241).
-/
namespace Sys2Proof.Machine

/-- The counter of the FP32 instructions (Table 15-12). -/
def cntF : Option (Nat × Nat) := some (16, 1)
/-- The counter of HARITH. -/
def cntH : Option (Nat × Nat) := some (17, 2)
/-- The counter of BARITH. -/
def cntB : Option (Nat × Nat) := some (18, 2)

/-- An operation on encodings as one on words. -/
def f1 (f : Nat → Nat) (b : Word) : Word := BitVec.ofNat 32 (f b.toNat)
/-- A binary operation on FP32 encodings. -/
def f2 (f : Fmt → Nat → Nat → Nat) (a b : Word) : Word := BitVec.ofNat 32 (f .fp32 a.toNat b.toNat)
/-- A fused operation on FP32 encodings, the accumulator first. -/
def f3 (f : Fmt → Nat → Nat → Nat → Nat) (d a b : Word) : Word := BitVec.ofNat 32 (f .fp32 a.toNat b.toNat d.toNat)
/-- A binary operation on both elements of a register (R235). -/
def h2 (g : Fmt) (f : Fmt → Nat → Nat → Nat) (a b : Word) : Word :=
  BitVec.ofNat 32 (f g (elemOf 16 a.toNat 0) (elemOf 16 b.toNat 0) % 2 ^ 16
    + 2 ^ 16 * (f g (elemOf 16 a.toNat 1) (elemOf 16 b.toNat 1) % 2 ^ 16))
/-- A fused operation on both elements of a register (R235). -/
def h3 (g : Fmt) (f : Fmt → Nat → Nat → Nat → Nat) (d a b : Word) : Word :=
  BitVec.ofNat 32 (f g (elemOf 16 a.toNat 0) (elemOf 16 b.toNat 0) (elemOf 16 d.toNat 0) % 2 ^ 16
    + 2 ^ 16 * (f g (elemOf 16 a.toNat 1) (elemOf 16 b.toNat 1) (elemOf 16 d.toNat 1) % 2 ^ 16))

/-- An integer dot product of `n` packed elements of width `w`, those of a unsigned when `z` (R241). -/
def doti (n w : Nat) (z : Bool) (d a b : Word) : Word :=
  let term (k : Nat) : Int :=
    (if z then ((elemOf w a.toNat k : Nat) : Int) else toSigned w (elemOf w a.toNat k)) * toSigned w (elemOf w b.toNat k)
  BitVec.ofInt 32 ((List.range n).foldl (fun x k => x + term k) (d.toNat : Int))
/-- A floating-point dot product of `n` packed elements (R241). -/
def dotf (n : Nat) (g : Fmt) (d a b : Word) : Word :=
  let es (x : Word) : List Nat := (List.range n).map fun k => elemOf g.width x.toNat k
  mmaBlock d (es a) 0x7F g (es b) 0x7F g

/-! ## FP32 (Tables 8-2 and 9-4) -/

/-- FADD_16: as the 32-bit form with a = vd and b = vs (R200, R232). -/
def execFadd16 (o : Op16) (s : State) : Out := .next (half2 cntF (f2 fadd) o s)

/-- FSUB_16: as the 32-bit form with a = vd and b = vs (R200, R232). -/
def execFsub16 (o : Op16) (s : State) : Out := .next (half2 cntF (f2 fsub) o s)

/-- FMUL_16: as the 32-bit form with a = vd and b = vs (R200, R232). -/
def execFmul16 (o : Op16) (s : State) : Out := .next (half2 cntF (f2 fmul) o s)

/-- FMAX_16: as the 32-bit form with a = vd and b = vs (R200, R232). -/
def execFmax16 (o : Op16) (s : State) : Out := .next (half2 cntF (f2 fmax) o s)

/-- FMIN_16: as the 32-bit form with a = vd and b = vs (R200, R232). -/
def execFmin16 (o : Op16) (s : State) : Out := .next (half2 cntF (f2 fmin) o s)

/-- FNEG_16: vs with its sign inverted; NaN gives qnan (R200, R233). -/
def execFneg16 (o : Op16) (s : State) : Out := .next (half1 cntF (f1 fneg) o s)

/-- FADD: a + b, rounded once to nearest even (R232). -/
def execFadd (o : Lane2) (s : State) : Out := .next (lane2 cntF (f2 fadd) o s)

/-- FSUB: a − b, rounded once to nearest even (R232). -/
def execFsub (o : Lane2) (s : State) : Out := .next (lane2 cntF (f2 fsub) o s)

/-- FMUL: a × b, rounded once to nearest even (R232). -/
def execFmul (o : Lane2) (s : State) : Out := .next (lane2 cntF (f2 fmul) o s)

/-- FMIN: the lesser, −0 below +0, rounded once to nearest even (R232). -/
def execFmin (o : Lane2) (s : State) : Out := .next (lane2 cntF (f2 fmin) o s)

/-- FMAX: the greater, −0 below +0, rounded once to nearest even (R232). -/
def execFmax (o : Lane2) (s : State) : Out := .next (lane2 cntF (f2 fmax) o s)

/-- FFMA: a × b + vd with one rounding (R232). -/
def execFfma (o : Lane2) (s : State) : Out := .next (lane3 cntF (f3 ffma) o s)

/-- FFMS: a × b − vd with one rounding (R232). -/
def execFfms (o : Lane2) (s : State) : Out := .next (lane3 cntF (f3 ffms) o s)

/-- FNMA: −(a × b) + vd with one rounding (R232). -/
def execFnma (o : Lane2) (s : State) : Out := .next (lane3 cntF (f3 fnma) o s)

/-! ## Compares (Table 9-3) -/

/-- FCMP_EQ: predicate bits where neither is NaN and a = b (R230). -/
def execFcmpEq (o : Lane2) (s : State) : Out := .next (cmpOp cntF (fun a b => fcmp 0 a.toNat b.toNat) o s)

/-- FCMP_NE: predicate bits where either is NaN or a ≠ b (R230). -/
def execFcmpNe (o : Lane2) (s : State) : Out := .next (cmpOp cntF (fun a b => fcmp 1 a.toNat b.toNat) o s)

/-- FCMP_LT: predicate bits where neither is NaN and a < b (R230). -/
def execFcmpLt (o : Lane2) (s : State) : Out := .next (cmpOp cntF (fun a b => fcmp 2 a.toNat b.toNat) o s)

/-- FCMP_LE: predicate bits where neither is NaN and a ≤ b (R230). -/
def execFcmpLe (o : Lane2) (s : State) : Out := .next (cmpOp cntF (fun a b => fcmp 3 a.toNat b.toNat) o s)

/-- FCMP_GT: predicate bits where neither is NaN and a > b (R230). -/
def execFcmpGt (o : Lane2) (s : State) : Out := .next (cmpOp cntF (fun a b => fcmp 4 a.toNat b.toNat) o s)

/-- FCMP_GE: predicate bits where neither is NaN and a ≥ b (R230). -/
def execFcmpGe (o : Lane2) (s : State) : Out := .next (cmpOp cntF (fun a b => fcmp 5 a.toNat b.toNat) o s)

/-- FCMP_ORD: predicate bits where neither is NaN (R230). -/
def execFcmpOrd (o : Lane2) (s : State) : Out := .next (cmpOp cntF (fun a b => fcmp 6 a.toNat b.toNat) o s)

/-- FCMP_UNORD: predicate bits where either is NaN (R230). -/
def execFcmpUnord (o : Lane2) (s : State) : Out := .next (cmpOp cntF (fun a b => fcmp 7 a.toNat b.toNat) o s)

/-! ## VMOV and FUNARY (Tables 9-5 and 9-6) -/

/-- MOV: b, copied bit for bit (R233). -/
def execMov (o : Lane1) (s : State) : Out := .next (lane1 none (fun b => b) o s)

/-- FABS: b with bit 31 cleared; NaN gives qnan (R233). -/
def execFabs (o : Lane1) (s : State) : Out := .next (lane1 cntF (f1 fabs) o s)

/-- FNEG: b with bit 31 inverted; NaN gives qnan (R233). -/
def execFneg (o : Lane1) (s : State) : Out := .next (lane1 cntF (f1 fneg) o s)

/-- FFLOOR: the largest integral value ≤ b; NaN gives qnan (R233). -/
def execFfloor (o : Lane1) (s : State) : Out := .next (lane1 cntF (f1 (fintegral .rd)) o s)

/-- FCEIL: the smallest integral value ≥ b; NaN gives qnan (R233). -/
def execFceil (o : Lane1) (s : State) : Out := .next (lane1 cntF (f1 (fintegral .ru)) o s)

/-- FTRUNC: b rounded toward zero; NaN gives qnan (R233). -/
def execFtrunc (o : Lane1) (s : State) : Out := .next (lane1 cntF (f1 (fintegral .rz)) o s)

/-- FRINT: b rounded to nearest, ties to even; NaN gives qnan (R233). -/
def execFrint (o : Lane1) (s : State) : Out := .next (lane1 cntF (f1 (fintegral .rn)) o s)

/-- FRCP: 1 / b: special inputs, else a free value within 1 ulp (log entry 3) (R234). -/
def execFrcp (o : Lane1) (s : State) : Out := .next (lane1 cntF (f1 frcp) o s)

/-- FRSQ: 1 / √b: special inputs, else a free value within 2 ulp (log entry 3) (R234). -/
def execFrsq (o : Lane1) (s : State) : Out := .next (lane1 cntF (f1 frsq) o s)

/-- FSQRT: √b, correctly rounded (R234). -/
def execFsqrt (o : Lane1) (s : State) : Out := .next (lane1 cntF (f1 fsqrt) o s)

/-- FEXP2: 2^b: the special inputs of Table 9-6, else a free value within the bound (log entry 3) (R234). -/
def execFexp2 (o : Lane1) (s : State) : Out := .next (lane1 cntF (f1 fexp2) o s)

/-- FLOG2: log2 b: the special inputs of Table 9-6, else a free value within the bound (log entry 3) (R234). -/
def execFlog2 (o : Lane1) (s : State) : Out := .next (lane1 cntF (f1 flog2) o s)

/-- FSIN: sin b: the special inputs of Table 9-6, else a free value within the bound (log entry 3) (R234). -/
def execFsin (o : Lane1) (s : State) : Out := .next (lane1 cntF (f1 fsin) o s)

/-- FCOS: cos b: the special inputs of Table 9-6, else a free value within the bound (log entry 3) (R234). -/
def execFcos (o : Lane1) (s : State) : Out := .next (lane1 cntF (f1 fcos) o s)

/-- FTANH: tanh b: the special inputs of Table 9-6, else a free value within the bound (log entry 3) (R234). -/
def execFtanh (o : Lane1) (s : State) : Out := .next (lane1 cntF (f1 ftanh) o s)

/-! ## Packed half precision (R235) -/

/-- HADD2: each element as FADD (R235). -/
def execHadd2 (o : Lane2) (s : State) : Out := .next (lane2 cntH (h2 .fp16 fadd) o s)

/-- HSUB2: each element as FSUB (R235). -/
def execHsub2 (o : Lane2) (s : State) : Out := .next (lane2 cntH (h2 .fp16 fsub) o s)

/-- HMUL2: each element as FMUL (R235). -/
def execHmul2 (o : Lane2) (s : State) : Out := .next (lane2 cntH (h2 .fp16 fmul) o s)

/-- HFMA2: each element a × b + vd with one rounding (R235). -/
def execHfma2 (o : Lane2) (s : State) : Out := .next (lane3 cntH (h3 .fp16 ffma) o s)

/-- HMIN2: each element as FMIN (R235). -/
def execHmin2 (o : Lane2) (s : State) : Out := .next (lane2 cntH (h2 .fp16 fmin) o s)

/-- HMAX2: each element as FMAX (R235). -/
def execHmax2 (o : Lane2) (s : State) : Out := .next (lane2 cntH (h2 .fp16 fmax) o s)

/-- BADD2: each element as FADD (R235). -/
def execBadd2 (o : Lane2) (s : State) : Out := .next (lane2 cntB (h2 .bf16 fadd) o s)

/-- BSUB2: each element as FSUB (R235). -/
def execBsub2 (o : Lane2) (s : State) : Out := .next (lane2 cntB (h2 .bf16 fsub) o s)

/-- BMUL2: each element as FMUL (R235). -/
def execBmul2 (o : Lane2) (s : State) : Out := .next (lane2 cntB (h2 .bf16 fmul) o s)

/-- BFMA2: each element a × b + vd with one rounding (R235). -/
def execBfma2 (o : Lane2) (s : State) : Out := .next (lane3 cntB (h3 .bf16 ffma) o s)

/-- BMIN2: each element as FMIN (R235). -/
def execBmin2 (o : Lane2) (s : State) : Out := .next (lane2 cntB (h2 .bf16 fmin) o s)

/-- BMAX2: each element as FMAX (R235). -/
def execBmax2 (o : Lane2) (s : State) : Out := .next (lane2 cntB (h2 .bf16 fmax) o s)

/-! ## Dot products (Table 9-8) -/

/-- DOT4I8: INT8 by INT8 elements, accumulated into vd (R241). -/
def execDot4i8 (o : Lane2) (s : State) : Out := .next (lane3 (some (20, 4)) (doti 4 8 false) o s)

/-- DOT4Z8: unsigned 8-bit by INT8 elements, accumulated into vd (R241). -/
def execDot4z8 (o : Lane2) (s : State) : Out := .next (lane3 (some (20, 4)) (doti 4 8 true) o s)

/-- DOT8I4: INT4 by INT4 elements, accumulated into vd (R241). -/
def execDot8i4 (o : Lane2) (s : State) : Out := .next (lane3 (some (21, 8)) (doti 8 4 false) o s)

/-- DOT8Z4: unsigned 4-bit by INT4 elements, accumulated into vd (R241). -/
def execDot8z4 (o : Lane2) (s : State) : Out := .next (lane3 (some (21, 8)) (doti 8 4 true) o s)

/-- DOT4E4: E4M3 elements, accumulated into vd (R241). -/
def execDot4e4 (o : Lane2) (s : State) : Out := .next (lane3 (some (22, 4)) (dotf 4 .e4m3) o s)

/-- DOT4E5: E5M2 elements, accumulated into vd (R241). -/
def execDot4e5 (o : Lane2) (s : State) : Out := .next (lane3 (some (23, 4)) (dotf 4 .e5m2) o s)

/-- DOT8E2: E2M1 elements, accumulated into vd (R241). -/
def execDot8e2 (o : Lane2) (s : State) : Out := .next (lane3 (some (24, 8)) (dotf 8 .e2m1) o s)

/-- DOT2BF: BF16 elements, accumulated into vd (R241). -/
def execDot2bf (o : Lane2) (s : State) : Out := .next (lane3 (some (25, 2)) (dotf 2 .bf16) o s)

end Sys2Proof.Machine
end

