-- ==== Sys2Proof/Machine/Sync.lean ====
section
/-!
DEFINITION. Barriers (R277, R278), semaphores (R279), signals (R280) and SEMA_GRANT.
-/
namespace Sys2Proof.Machine

/-- Whether every fence before an instruction that acts as a release has retired, and every access before it is performed for its
scope (R106, R107, R110). -/
def State.drainedFor (s : State) (scope : Nat) : Bool :=
  s.me.ops.all (fun e => e.kind != .fence && e.doneFor scope) && (scope == 0 || s.matesBuffer.isEmpty)

/-! ## The epilogue cohort (R197) -/

/-- The later of two cohorts by company, then index: the higher WID within a launch (R179). -/
def laterOf (a b : Nat × Nat) : Nat × Nat := if a.1 < b.1 ∨ (a.1 = b.1 ∧ a.2 < b.2) then b else a

/-- Payload of an EPI record (Table 15-4). -/
def epiPayload (p : Nat × Nat) (grid : Bool) : Nat := p.1 % 2 ^ 40 + p.2 * 2 ^ 40 + (if grid then 2 ^ 44 else 0)

/-- The epilogue cohort among arrivals in order of time: the highest WID with CLASS 0, the last with CLASS 1, in replay
the one that was recorded (R197, R401). -/
def State.epilogue (s : State) (grid : Bool) (arrived : List (Nat × Nat)) : Nat × Nat :=
  let top := arrived.foldl laterOf (arrived.headD (0, 0))
  let last := arrived.getLast?.getD (0, 0)
  if s.co.hdr.cls = 0 then top
  else if s.recording && s.recMode == 3 then
    (arrived.find? fun p => s.dev.recUnit.expect.any fun e => e.2.kind == 6 && e.2.payload == epiPayload p grid).getD last
  else last

/-- Record the epilogue choice of a CLASS 1 launch, as a record of the epilogue cohort; where its company has retired meanwhile, of the
cohort whose arrival or end completes the phase (Table 15-2; the spec names no cohort then: DESIGN CHOICE, log entry 87). -/
def State.logEpi (s : State) (grid : Bool) (p : Nat × Nat) : State :=
  if s.co.hdr.cls = 0 then s
  else if s.companies.any fun h => h.dseq == p.1 && h.cohorts.any fun c => c.j == p.2 then
    s.onCohort p.1 p.2 fun t => t.log 6 (epiPayload p grid)
  else s.log 6 (epiPayload p grid)

/-- The current cohort passes a barrier, behind which it sees the last change of the stochastic-rounding key and step (R172). -/
def State.srSeen (s : State) : State :=
  { s with cx := { s.cx with srStale := s.cx.srStale.filter fun p => p != (s.co.dseq, s.me.j) } }

/-! ## BAR (R277) -/

/-- Whether every created cohort of the current company that has not ended has arrived. -/
def Company.barFull (h : Company) : Bool :=
  !h.barArrived.isEmpty && (h.created.filter fun j => !(h.ended.contains j)).all fun j => h.barArrived.contains j

/-- Complete the company barrier's phase if it is full: each participant continues with its flag, and the arrivals are
traced (R277, R406). -/
def State.closeBar (s : State) : State :=
  if s.co.barFull then
    let who := s.co.barArrived.map fun j => (s.co.dseq, j)
    let e := s.epilogue false who
    let done := s.co.barArrived.map fun j => (j, decide (j = e.2))
    let t := s.setCo { s.co with barArrived := [], barDone := s.co.barDone ++ done, barPhase := s.co.barPhase + 1 }
    let k := s.packetOf
    (t.logEpi false e).traceSync 1 s.co.barPhase (who.getLast?.getD (0, 0)) (who.headD (0, 0)) k.1 k.2
  else s

/-- A participant whose phase has completed takes its flag and continues; any other waits. -/
def State.leaveBar (s : State) (d : Reg) : State :=
  match s.co.barDone.find? fun p => p.1 == s.me.j with
  | some p =>
    let t := s.setCo { s.co with barDone := s.co.barDone.filter fun q => q.1 != s.me.j }
    ((t.setMe (t.me.sput d.toNat (if p.2 then 1#32 else 0#32))).retire 4).srSeen
  | none => s.waitOn .bar

/-- BAR: a release at CORE scope on arrival, an acquire at CORE scope on completion. -/
def execBar (d : Reg) (s : State) : Out :=
  .next (
    let t := s.settle
    if (t.co.barDone.any fun p => p.1 == t.me.j) || t.co.barArrived.contains t.me.j then t.leaveBar d
    else if t.drainedFor 0 then
      ((t.setCo { t.co with barArrived := t.co.barArrived ++ [t.me.j] }).closeBar).leaveBar d
    else t.waitOn .drain)

/-! ## GBARA and GBARW (R278) -/

/-- The cohorts of a launch that have not ended, over all its companies. -/
def State.liveOf (s : State) (lseq : Word) : List (Nat × Nat) :=
  (s.companies.filter fun h => h.asid == s.co.asid && h.lseq == lseq).flatMap fun h =>
    (h.created.filter fun j => !(h.ended.contains j)).map fun j => (h.dseq, j)

/-- Complete the grid barrier's phase if every cohort of the launch that has not ended has arrived. -/
def State.closeGrid (s : State) : State :=
  match s.launch? with
  | none => s
  | some l =>
    let who := (l.garrived.filter fun x => x.1 == l.gphase).map (·.2)
    if !who.isEmpty && (s.liveOf l.lseq).all fun p => who.contains p then
      let e := s.epilogue true who
      let t := s.mapLaunch l.lseq fun l => { l with gphase := l.gphase + 1, gepi := l.gepi ++ [(l.gphase, e.1, e.2)] }
      (t.logEpi true e).traceSync 2 l.gphase (who.getLast?.getD (0, 0)) (who.headD (0, 0)) l.qid l.csn
    else s

/-- The arrival of the current cohort that no GBARW has taken. -/
def State.openArrival (s : State) (l : Launch) : Option Nat :=
  (l.garrived.filter fun x => x.2 == (s.co.dseq, s.me.j)).getLast?.map (·.1)

/-- An instruction of the grid barrier, which a launch with PERSIST = 0 does not have (R192). -/
def gridOnly (f : Launch → State) (s : State) : State :=
  if s.co.hdr.persist then (match s.launch? with
    | some l => f l
    | none => s.ill 9)
  else s.ill 9

/-- GBARA: arrives at the cohort's next phase, as a release at PKG scope. -/
def execGbara (d : Reg) (s : State) : Out :=
  .next (gridOnly (fun _ =>
    let t := s.settle
    if t.me.gcount ≠ 0 ∧ (((t.launch?).map (·.gphase)).getD 0) < t.me.gcount then t.waitOn .gbarw
    else if t.drainedFor 2 then
      let n := t.me.gcount
      let u := (t.publish 2).setMe { (t.me.sput d.toNat (BitVec.ofNat 32 n)) with gcount := n + 1 }
      let own := (u.co.dseq, u.me.j)
      (((u.mapLaunch u.co.lseq fun l =>
        { l with garrived := (l.garrived.filter fun x => x.2 != own) ++ [(n, own)] }).closeGrid).retire 4)
    else t.waitOn .drain) s)

/-- GBARW: waits for the cohort's arrival, as an acquire at PKG scope; with none outstanding it writes 0. -/
def execGbarw (d : Reg) (s : State) : Out :=
  .next (gridOnly (fun l =>
    match s.openArrival l with
    | none => ((s.acquire true 2).setMe (s.me.sput d.toNat 0#32)).retire 4
    | some n =>
      if n < l.gphase then
        let own := (s.co.dseq, s.me.j)
        let e : Word := if l.gepi.contains (n, own) then 1#32 else 0#32
        let t := (s.acquire true 2).mapLaunch l.lseq fun l => { l with garrived := l.garrived.filter fun x => x.2 != own }
        ((t.setMe (t.me.sput d.toNat e)).retire 4).srSeen
      else s.waitOn .gbarw) s)

/-! ## Semaphores (R279) -/

/-- The job of an access of 4 bytes for lane l at window offset s_a (R255). -/
def syncJob (w : BitVec 3) (a d : Reg) (scope : Nat) (fkind : Nat) (c : Cohort) : MemJob :=
  { win := w.toNat, acc := .atomic, reach := .rmw false, len := 4, align := 4, aln := true, fkind := fkind, u := true
    vs := [], ss := [a.toNat], frees := [], kind := .rmw (.int 0 4) false, scope := scope, acq := false, rel := true
    flag := none, d := d.toNat, dst := [], offs := [((lowestLane c.act).getD 0, (c.sget a.toNat).toNat)]
    data := fun _ => leBytes 4 (c.sget d.toNat).toNat, sum := some fun _ => leBytes 4 (c.sget d.toNat).toNat, cnt := none }

/-- SEMR: adds s_vd to the word as a release; a count of 0 changes nothing and still releases. -/
def execSemr (c : BitVec 2) (w : BitVec 3) (a d : Reg) (s : State) : Out :=
  let j := syncJob w a d c.toNat 3 s.me
  let j := { j with ss := [a.toNat, d.toNat] }
  .next (memIssue (if s.me.sget d.toNat = 0#32 then { j with kind := .storeZ, data := fun _ => [] } else j) s)

/-- The operation that a SEMA waits to perform, for the checks of order. -/
def semaOp (s : State) (m : SemaOp) : MemOp :=
  { id := s.dev.nextId, kind := .rmw (.int 0 4) true, scope := m.scope, acq := true, rel := false
    lanes := [{ lane := 0, loc := m.loc, addr := 0, len := 4, data := [], poisoned := 0#64, sent := false, result := none }]
    d := m.d, u := true, em := 0#64, flag := none, stage := .issued, passed := false, recs := [] }

/-- Request of a SEMA on another device: an ATOM that decrements a positive word and returns the old one (log entry 14). -/
def semaPacket (m : SemaOp) : Packet :=
  { Packet.basic ptATOM 0 0 with op := 31, entries := [{ off := m.loc.inLine, size := 2, lane := 0, operand := 0, compare := 0 }] }

/-- The SEMA is granted with the word's old value: it is written, the SEMA retires, and the grant is logged and traced. -/
def State.semaDone (s : State) (m : SemaOp) (old : Word) (bad : Bool) : State :=
  let me := s.me.sput m.d old
  let me := if bad then { me with sp := me.sp ||| (1#64 <<< m.d) } else me
  let t := ((s.acquire true m.scope).setMe { me with sema := none }).retire 4
  let t := match placeOf t.core t.hall m.scope m.loc with
    | some p => t.logPlace 1 p
    | none => t
  match m.loc with
  | .mem off =>
    let x := Store.get 0 t.dev.semr off - 1
    let k := t.packetOf
    t.traceSync 3 0 (x / 16, x % 16) (t.co.dseq, t.me.j) k.1 k.2
  | _ => t

/-- Whether an answer to a remote SEMA is outstanding. -/
def State.semaAsked (s : State) : Bool := s.dev.waitsForSema s.co.dseq s.me.j

/-- Test the word of a SEMA once, and take it if it is positive (R279). -/
def State.semaTry (s : State) (m : SemaOp) : State :=
  let wait := (s.setMe { s.me with sema := some m }).waitOn .sema
  let due : Bool := match placeOf s.core s.hall m.scope m.loc with
    | some p => !s.replayHolds p
    | none => true
  if s.rmwReady (semaOp s m) = false ∨ due = false then wait
  else match m.loc with
    | .mem off =>
      let l2 := if regionOf off = .atrium ∨ 2 ≤ m.scope then none else some s.hall
      let p := (s.acquire true m.scope).dev.rmw l2 (.int 0 4) off (leBytes 4 0xFFFFFFFF)
      let old := leNat p.2.1
      if 0 < toSigned 32 old then (s.afterRmw l2 off 4 p.1).semaDone m (BitVec.ofNat 32 old) p.2.2 else wait
    | .loc off =>
      let p := s.co.rmw (.int 0 4) off (leBytes 4 0xFFFFFFFF)
      let old := leNat p.2.1
      if 0 < toSigned 32 old then (s.setCo p.1).semaDone m (BitVec.ofNat 32 old) p.2.2 else wait
    | .far _ _ =>
      if s.semaAsked then wait
      else match s.dev.requestAt m.loc (semaPacket m) (.sema s.co.dseq s.me.j) with
        | some d => wait.setDev d
        | none =>
          let p := s.drawWord
          let n := p.1.dev.nextId
          ((p.1.setDev { p.1.dev with nextId := n + 1 }).fail (s.dev.failedDev m.loc) false (some (.access n))).semaDone m p.2 true
    | _ => wait

/-- SEMA: waits until the word is positive, then decrements it as an acquire (R279). -/
def execSema (c : BitVec 2) (w : BitVec 3) (a d : Reg) (s : State) : Out :=
  let j := syncJob w a d c.toNat 2 s.me
  .next (replayable (fun s =>
    let m := s.me.mce true [] [a.toNat]
    if m ≠ 0#64 then s.queueTrap 6 1 m 0
    else if s.me.act = 0#64 then (s.emptyOrder c.toNat).retire 4
    else
      let p := s.checkLanes w.toNat .atomic (.rmw false) (j.offs.map fun x => (x.1, x.2, 4))
      match verdict 4 true 2 4 p.2 with
      | .wait => s
      | .queue code sub mask => p.1.accessTrap code sub mask
      | .inLane f mask => p.1.pageFault f mask
      | .go =>
        let loc := ((p.2.head?).map fun x => x.out.loc).getD .none
        p.1.settle.semaTry { loc := loc, scope := c.toNat, d := d.toNat }) s)

/-- SEMA_GRANT: a waiting SEMA tests its word again (R279). -/
def execSemaGrant (dseq j : Nat) (s : State) : Out :=
  .next (s.onCohort dseq j fun s => match s.me.sema with
    | some m => if s.me.stat = .running ∧ s.me.wait = .sema then s.settle.semaTry m else s
    | none => s)

/-! ## Signals (R280) -/

/-- An operation on another device's word becomes a signal there. -/
def MemOp.asSignal (o : MemOp) (set : Bool) : MemOp :=
  match (o.lanes.head?).map (·.loc) with
  | some (Loc.far _ _) => { o with kind := .signal set }
  | _ => o

/-- SIGNAL: an update that returns nothing, as a release at PKG scope. -/
def signalOp (set : Bool) (w : BitVec 3) (a d : Reg) (s : State) : State :=
  let j := { syncJob w a d 2 3 s.me with kind := .rmw (.int (if set then 6 else 0) 4) false, ss := [a.toNat, d.toNat] }
  if s.me.mce true [] j.ss = 0#64 ∧ s.me.act ≠ 0#64 ∧ (s.me.window w.toNat).kind ≠ 1 then
    s.accessTrap 2 5 (maskOf (lowestLane s.me.act).toList)
  else
    let n := s.dev.nextId
    (memIssue j s).mapOp n fun o => o.asSignal set

/-- SIGNAL.ADD. -/
def execSignalAdd (w : BitVec 3) (a d : Reg) (s : State) : Out := .next (signalOp false w a d s)
/-- SIGNAL.SET. -/
def execSignalSet (w : BitVec 3) (a d : Reg) (s : State) : Out := .next (signalOp true w a d s)

end Sys2Proof.Machine
end

