-- ==== Sys2Proof/Machine/Graph.lean ====
section
/-!
DEFINITION. Graph records: EMIT, EMIT_APPEND, RECV and CLOSE (R281 to R284).
-/
namespace Sys2Proof.Machine

/-- The 16-byte granules of records of `size` bytes, by lane and offset. -/
def granules (size : Nat) (offs : List (Nat × Nat)) : List (Nat × Nat × Nat) :=
  offs.flatMap fun x => (List.range (size / 16)).map fun g => (x.1, x.2 + 16 * g, 16)

/-- The lane parts that read or write checked granules, each under its own number. -/
def granuleOps (cs : List LaneChk) (data : Nat → List Byte) (bad : Nat → Mask) : List LaneOp :=
  cs.mapIdx fun i c => { lane := i, loc := c.out.loc, addr := c.addr, len := 16, data := data i, poisoned := bad i
                         sent := false, result := none }

/-- What an access to a descriptor or a ring does first: it waits for a carve change, or its decode fails (R16, R23, R25). -/
def State.inStore (s : State) (off n : Nat) (wait : State) (f : State) : State :=
  match s.dev.storeOut off n with
  | .wait => wait
  | .fault x => (s.setMe { s.me with emit := none }).accessTrap x.code.1 x.code.2 (maskOf (lowestLane s.me.act).toList)
  | .at _ => f

/-- The names of a graph instruction raise #ADR NODE unless they are live nodes of the context (R281). -/
def State.withNode (s : State) (name : Word) (f : Node → State) : State :=
  match s.node? name.toNat with
  | some n => s.inStore (nodeAt n.asa 0) 64 s (f n)
  | none => s.accessTrap 2 8 (maskOf (lowestLane s.me.act).toList)

/-- The place of a node's bank (Table 15-5). -/
def Node.place (n : Node) : Nat := bankOf (nodeAt n.asa 0)

/-- An operation at a node's bank is recorded. -/
def State.logNode (s : State) (asa : Nat) : State := s.logPlace 1 (bankOf (nodeAt asa 0))

/-! ## Completion of a graph launch (R190, R351) -/

/-- Whether the device may launch one more consumer company of a node, MAXC apart (R190). -/
def State.canConsume (s : State) (asa live : Nat) : Bool :=
  let d := s.dev
  decide (d.nodeGet asa 0x0A 2 ≤ (d.nodeEmitted asa + 2 ^ 32 - d.nodeGet asa 0x24 4) % 2 ^ 32)
    || (d.nodeState asa == 1 && decide (0 < d.nodeHeld asa) && live == 0)

/-- The consumer companies of a launch that are live. -/
def State.consumers (s : State) (asid : Nat) (lseq : Word) : Nat := (s.companies.filter fun h => h.asid == asid && h.lseq == lseq).length

/-- The GRAPH packets of the current context complete whose node is CLOSED or BROKEN with no consumer company live or still to be
launched (R351); the node is live no more where it is CLOSED (R281). -/
def State.graphDone (s : State) : State :=
  s.cx.nodes.foldl (fun s n =>
    let live := s.consumers s.cx.asid n.lseq
    if s.dev.nodeState n.asa ≠ 0 ∧ live = 0 ∧ s.canConsume n.asa live = false ∧ s.cx.launches.any (fun l => l.lseq == n.lseq) then
      let t := s.setCx { s.cx with nodes := if s.dev.nodeState n.asa = 1 then s.cx.nodes.filter fun x => x.asa != n.asa else s.cx.nodes
                                   launches := s.cx.launches.filter fun l => l.lseq != n.lseq }
      (t.traceLaunch 4 n.qid n.csn n.lseq 0).packetDone n.qid n.csn
    else s) s

/-! ## EMIT (R282) -/

/-- Write bytes with poison given as bits, in granules. -/
def Device.putBits (d : Device) (a : Nat) (bs : List Byte) (bad : Nat) : Device :=
  (cutRun 4 (bs.length / 16 + 2) a 0 bs.length).foldl (fun d x =>
    d.putP (a + x.1) ((bs.drop x.1).take x.2) (maskOf ((List.range x.2).filter fun i => bit bad (x.1 + i)))) d

/-- Append records while the ring has room; those of a muted launch or a BROKEN node are dropped. -/
def State.appendRecs (s : State) (asa : Nat) : List (List Byte × Nat) → State
  | [] =>
    let t := (s.setMe { s.me with emit := none }).retire 4
    t.setMe { t.me with chunkN := t.me.chunkN - 1 }
  | r :: rs =>
    let hold := (s.setMe { s.me with emit := some { node := asa, recs := r :: rs } }).waitOn .emit
    if s.replayHolds (bankOf (nodeAt asa 0)) then hold
    else if s.dev.nodeState asa = 2 ∨ ((s.launch?).map fun l => l.mute asa) ≠ some false then
      let n := min (s.dev.nodeGet asa 0x20 4 + 1) 0xFFFFFFFF
      ((s.setDev (s.dev.nodeSet asa 0x20 4 n)).logNode asa).appendRecs asa rs
    else if s.dev.nodeHeld asa = s.dev.nodeCap asa then hold
    else
      let slot := s.dev.nodeSlot s.co.asid asa (s.dev.nodeEmitted asa)
      let d := (s.dev.putBits slot r.1 r.2).nodeSet asa 0x18 4 ((s.dev.nodeEmitted asa + 1) % 2 ^ 32)
      s.inStore slot r.1.length hold (((s.setDev d).logNode asa).appendRecs asa rs)

/-- Read granules one after another (R258). -/
def State.gather (s : State) (src : List (Nat × MemOp)) : List LaneOp → State × List (List Byte × Mask)
  | [] => (s, [])
  | l :: ls =>
    let p := s.readLane src l
    let q := p.1.gather src ls
    (q.1, p.2 :: q.2)

/-- Cut the bytes of granules into records of `k` granules. -/
def toRecords (k : Nat) : Nat → List (List Byte × Mask) → List (List Byte × Nat)
  | 0, _ => []
  | fuel + 1, gs =>
    match gs with
    | [] => []
    | _ =>
      let r := gs.take k
      let bad := (r.mapIdx fun i g => (g.2.toNat % 2 ^ 16) * 2 ^ (16 * i)).foldl (· + ·) 0
      (r.flatMap fun g => g.1.take 16, bad) :: toRecords k fuel (gs.drop k)

/-- Begin to append the records whose granules have been read: the marks free their names, the EMIT counts in the chunk
of its first record. -/
def State.beginEmit (s : State) (asa : Nat) (frees : List Nat) (gs : List (List Byte × Mask)) : State :=
  let k := max 1 (s.dev.nodeSize asa / 16)
  let me := (s.me.unalloc (s.me.misses frees)).freeAll frees
  (s.setMe { me with chunkN := me.chunkN + 1 }).appendRecs asa (toRecords k (gs.length + 1) gs)

/-- The operation by which an EMIT fetches records from another device. -/
def State.fetchOp? (s : State) : Option MemOp := s.me.ops.find? fun o => o.kind == .fetch

/-- The sources of an EMIT are checked; it is a release at PKG scope, and records on another device are fetched first. -/
def State.emitFrom (s : State) (w : BitVec 3) (a : Reg) (ma : Bool) (n : Node) : State :=
  let size := s.dev.nodeSize n.asa
  let p := s.checkLanes w.toNat .load .plain (granules size (s.me.offsets false a))
  match verdict 16 true 0 size p.2 with
  | .wait => s
  | .queue code sub mask => p.1.accessTrap code sub mask
  | .inLane f mask => p.1.pageFault f mask
  | .go =>
    let t := p.1.settle
    let frees := if ma then [a.toNat] else []
    let ls := granuleOps p.2 (fun _ => []) (fun _ => 0#64)
    match t.fetchOp? with
    | some o =>
      if o.passed && t.drainedFor 2 then
        let u := t.setMe { t.me with ops := t.me.ops.filter fun x => x.id != o.id }
        (u.publish 2).beginEmit n.asa frees (o.lanes.map fun l => l.result.getD ([], 0#64))
      else t.waitOn .drain
    | none =>
      if t.drainedFor 2 = false then t.waitOn .drain
      else if ls.any (fun l => l.loc.away) then (t.pushOp { fenceOp 0 with kind := .fetch, lanes := ls }).waitOn .drain
      else
        let q := (t.publish 2).gather [] ls
        q.1.beginEmit n.asa frees q.2

/-- EMIT: one record for each active lane; an empty em orders as FENCE.PKG. -/
def execEmit (f : Bool) (w : BitVec 3) (a d : Reg) (ma : Bool) (s : State) : Out :=
  let _ := f
  .next (match s.me.emit with
    | some e => s.appendRecs e.node e.recs
    | none =>
      let m := s.me.mce false [a.toNat] [d.toNat]
      if m ≠ 0#64 then s.queueTrap 6 1 m 0
      else if s.me.act = 0#64 then ((s.setMe (s.me.freeAll (if ma then [a.toNat] else []))).emptyOrder 2).retire 4
      else s.withNode (s.me.sget d.toNat) fun n => s.emitFrom w a ma n)

/-- EMIT_APPEND: an EMIT that waits on a full ring appends what finds room. -/
def execEmitAppend (dseq j : Nat) (s : State) : Out :=
  .next (s.onCohort dseq j fun s => match s.me.emit with
    | some e => if s.me.stat = .running then s.appendRecs e.node e.recs else s
    | none => s)

/-! ## RECV (R283) -/

/-- Whether no fence or acquire of the cohort is still to be performed. -/
def Cohort.unfenced (c : Cohort) : Bool := c.ops.all fun o => o.kind != .fence && !(o.acq && !o.passed)

/-- The oldest unclaimed record of a node with its poisoned bytes. -/
def State.oldest (s : State) (asa : Nat) : List (Byte × Bool) :=
  let a := s.dev.nodeSlot s.co.asid asa (s.dev.nodeClaimed asa)
  (List.range (s.dev.nodeSize asa)).map fun i => (s.dev.byte (a + i), s.dev.badAt (a + i))

/-- Claim a record and write it to the checked granules as plain stores. -/
def State.claimRec (s : State) (asa : Nat) (d : Reg) (cs : List LaneChk) : State :=
  let r := s.oldest asa
  let data (i : Nat) : List Byte := ((r.drop (16 * i)).take 16).map Prod.fst
  let bad (i : Nat) : Mask := maskOf ((List.range 16).filter fun k => (r.getD (16 * i + k) (0#8, false)).2)
  let t := s.setDev (s.dev.nodeSet asa 0x1C 4 ((s.dev.nodeClaimed asa + 1) % 2 ^ 32))
  let t := (t.acquire true 2).pushOp { fenceOp 0 with kind := .store, lanes := granuleOps cs data bad }
  let t := match cs with
    | c :: _ => t.logWrite c.addr (r.map Prod.fst)
    | [] => t
  (((t.setMe (t.me.sput d.toNat 0#32)).retire 4).logNode asa).graphDone

/-- The outcome of a RECV whose destination is checked, as one operation at the node's bank. -/
def State.recvFrom (s : State) (asa : Nat) (d : Reg) (cs : List LaneChk) : State :=
  let none' (x : Word) : State := ((s.setMe (s.me.sput d.toNat x)).retire 4).logNode asa
  if s.replayHolds (bankOf (nodeAt asa 0)) then s
  else match s.dev.nodeState asa with
    | 2 => s.queueTrap 7 0 (maskOf (lowestLane s.me.act).toList) 0
    | st => if s.dev.nodeHeld asa ≠ 0 then
        s.inStore (s.dev.nodeSlot s.co.asid asa (s.dev.nodeClaimed asa)) (s.dev.nodeSize asa) s (s.claimRec asa d cs)
      else none' (if st = 0 then 1#32 else 2#32)

/-- RECV: claims one record for the cohort, as an acquire at PKG scope. -/
def execRecv (f : Bool) (w : BitVec 3) (a d : Reg) (s : State) : Out :=
  let _ := f
  .next (replayable (fun s =>
    let m := s.me.mce true [] [a.toNat, a.toNat + 1]
    if m ≠ 0#64 then s.queueTrap 6 1 m 0
    else if s.me.act = 0#64 then (s.emptyOrder 2).retire 4
    else s.withNode (s.me.sget a.toNat) fun n =>
      let size := s.dev.nodeSize n.asa
      let o := ((lowestLane s.me.act).getD 0, (s.me.sget (a.toNat + 1)).toNat)
      let p := s.checkLanes w.toNat .store .plain (granules size [o])
      match verdict 16 true 1 size p.2 with
      | .wait => s
      | .queue code sub mask => p.1.accessTrap code sub mask
      | .inLane fr mask => p.1.pageFault fr mask
      | .go =>
        let t := p.1.settle
        if t.me.unfenced then t.recvFrom n.asa d p.2 else t.waitOn .drain) s)

/-! ## CLOSE (R284) -/

/-- CLOSE: the issuing launch finishes for the node, as a release at PKG scope. -/
def execClose (f : Bool) (a : Reg) (s : State) : Out :=
  let _ := f
  .next (
    let m := s.me.mce true [] [a.toNat]
    if m ≠ 0#64 then s.queueTrap 6 1 m 0
    else if s.me.act = 0#64 then (s.emptyOrder 2).retire 4
    else s.withNode (s.me.sget a.toNat) fun n =>
      let t := s.settle
      if t.drainedFor 2 then
        let t := t.publish 2
        (match t.launch? with
          | some l => if l.pnode = some n.asa then (t.finishFor l).graphDone else t
          | none => t).retire 4
      else t.waitOn .drain)

end Sys2Proof.Machine
end

