-- ==== Sys2Proof/Machine/Record.lean ====
section
/-!
DEFINITION. The record unit (R392, R393, R400 to R403), the precise stop of the trace unit (R408), and signed
statements (R411 to R416).
-/
namespace Sys2Proof.Machine

/-! ## The ring of pages (R400, R401) -/

/-- Pages of the ring. -/
def Device.recPages (d : Device) : Nat := bits (d.reg 0x60008) 5 0 * 2 ^ 18
/-- Local offset of a page of the ring. -/
def Device.recAt (d : Device) (n : Nat) : Nat := bits (d.reg 0x60008) 47 30 * 2 ^ 30 + n % max 1 d.recPages * 4096
/-- RECPTR.DEV. -/
def Device.recDev (d : Device) : Nat := bits (d.reg 0x60010) 63 32
/-- RECPTR.DRV. -/
def Device.recDrv (d : Device) : Nat := bits (d.reg 0x60010) 31 0
/-- Whether the ring is full. -/
def Device.recFull (d : Device) : Bool := (d.recDev + 2 ^ 32 - d.recDrv) % 2 ^ 32 == d.recPages

/-- Take the oldest page of a source that holds records out of the open pages. -/
def takePage (source : Nat) : List RecPage → Option (RecPage × List RecPage)
  | [] => none
  | p :: ps =>
    if p.source = source ∧ p.recs.isEmpty = false then some (p, ps)
    else (takePage source ps).map fun q => (q.1, p :: q.2)

/-- Carry the loss of a page to the next page of its source (R400). -/
def carryLoss (source n : Nat) (ps : List RecPage) : List RecPage :=
  match ps.find? fun p => p.source == source with
  | some _ => ps.map fun p => if p.source = source then { p with lost := p.lost + n } else p
  | none => ps ++ [{ source := source, recs := [], time := 0#64, lost := n }]

/-- A recorder completes its oldest page: written to the ring, kept while a strict recording meets a full ring, or
discarded (R400). -/
def Device.completeRec (d : Device) (source : Nat) (lossy : Bool) : Device :=
  match takePage source d.recUnit.pages with
  | none => d
  | some (p, ps) =>
    if d.recFull then
      if lossy then { d with recUnit := { d.recUnit with pages := carryLoss source (p.lost + 1) ps } } else d
    else
      let e := { d with recUnit := { d.recUnit with pages := ps } }
      (e.putP (e.recAt e.recDev) (p.bytes e.recDev) 0#64).setField 0x60010 63 32 (e.recDev + 1)

/-- Clear ACTIVE once a recording that ends has no page left to write (R393). -/
def Device.endIfEmpty (d : Device) : Device :=
  if d.recUnit.closing && d.recUnit.pages.all (fun p => p.recs.isEmpty) then
    ({ d with recUnit := { d.recUnit with closing := false, pages := [], expect := [] } }).setField 0x60000 31 31 0
  else d

/-- End recording or replay: every recorder completes its open pages and ACTIVE clears; a replay ends at once (R393). -/
def Device.endRecording (d : Device) (mode : Nat) : Device :=
  if mode = 3 then ({ d with recUnit := { d.recUnit with expect := [] } }).setField 0x60000 31 31 0
  else
    let d := { d with recUnit := { d.recUnit with closing := true } }
    (d.recUnit.pages.foldl (fun d p => d.completeRec p.source (decide (mode = 2))) d).endIfEmpty

/-- RECORD_PAGE_COMPLETE. -/
def execRecordPageComplete (source : Nat) (s : State) : Out :=
  .next (s.setDev (s.dev.completeRec source (decide (s.recMode = 2))).endIfEmpty)

/-- A replay reads the pages that the driver has supplied, in ring order (R401); a page with a loss or one that is
malformed is a divergence (Table 15-8). -/
def State.readPages : Nat → State → State
  | 0, s => s
  | n + 1, s =>
    let d := s.dev
    if d.recDev = d.recDrv then s
    else
      let t := s.setDev (d.setField 0x60010 63 32 (d.recDev + 1))
      match decodePage (d.bytes (d.recAt d.recDev) 4096) with
      | some (src, lost, rs) =>
        if lost ≠ 0 then t.diverge 3
        else
          let u := { t.dev.recUnit with expect := t.dev.recUnit.expect ++ rs.map fun r => (src, r) }
          State.readPages n (t.setDev { t.dev with recUnit := u })
      | none => t.diverge 4

/-- Whether a replay is active. -/
def State.replaying (s : State) : Bool := s.recLive && s.recMode == 3

/-- Read the pages of the ring that wait. -/
def State.readRing (s : State) : State := if s.replaying then s.readPages s.dev.recPages else s

/-- Recording or replay of a context becomes active (R392, R394, R397). -/
def State.startRecording (s : State) (asid : Nat) : State :=
  let c := s.dev.reg 0x60000
  if bits c 17 16 ≠ 0 ∧ bit c 31 = false ∧ bits c 11 0 = asid then
    let d := ({ s.dev with recUnit := { pages := [], serial := [], writer := [], expect := [], closing := false, atrium := 0 } }).setField 0x60000 31 31 1
    let t := (s.setDev d).mapCohorts asid fun m => { m with chunkN := 0, chunkNo := 0, wlog := [] }
    let t := if bits c 17 16 = 3 then t.onContext asid fun u => u.setCx { u.cx with replayed := true } else t
    t.readRing
  else s

/-! ## Writes to RECCTL (R393, R437) -/

/-- Whether the ring that RECBASE names is a legal one. -/
def Device.recRingOk (d : Device) : Bool :=
  let n := bits (d.reg 0x60008) 5 0
  decide (1 ≤ n ∧ n ≤ 32) && inHbm (bits (d.reg 0x60008) 47 30 * 2 ^ 30) (n * 2 ^ 30)

/-- A write to RECCTL: refused with ERR in the cases of R393 and without FEAT.RECORD (Table 19-4); otherwise stored, and a
MODE of 0 ends what is active. -/
def State.recctl (s : State) (w : RegWrite) : State :=
  let old := s.dev.reg 0x60000
  let active := bit old 31
  let new := ctrlMerge old (fieldMask 17 16 + fieldMask 11 0) (2 ^ 30) w.cover w.placed
  let gives := bit w.cover 16
  let mode := bits new 17 16
  if w.ok = false then s
  else if (gives && mode != 0 && (active || !s.dev.recRingOk || !bit (s.dev.reg 0x70020) 1)) || (active && bits new 11 0 != bits old 11 0) then
    s.setDev (s.dev.setReg 0x60000 (old ||| 2 ^ 30))
  else
    let d := s.dev.setReg 0x60000 new
    s.setDev (if gives && mode == 0 && active then d.endRecording (bits old 17 16) else d)

/-- RECORD_STRICT. -/
def execRecordStrict (w : RegWrite) (s : State) : Out := .next (s.recctl w)
/-- RECORD_LOSSY. -/
def execRecordLossy (w : RegWrite) (s : State) : Out := .next (s.recctl w)
/-- REPLAY_MODE. -/
def execReplayMode (w : RegWrite) (s : State) : Out := .next (s.recctl w)
/-- MODE_OFF. -/
def execModeOff (w : RegWrite) (s : State) : Out := .next (s.recctl w)

/-! ## Breakpoints and stops (R403, R408) -/

/-- CBKPT_TRAP: #CBKPT sets HIT and stops the context, every other cohort at the end of its chunk (R403). -/
def execCbkptTrap (dseq j : Nat) (s : State) : Out :=
  .next (s.onCohort dseq j fun s =>
    match s.breakpoint with
    | some k =>
      let t := s.setDev (s.dev.setField (0x60040 + 16 * k) 62 62 1)
      let t := (t.setMe (t.me.trapRegs 4 17 0 t.me.em 0 t.me.pc)).haltAs t.me.wid t.me.pc
      let me := t.me
      let t := t.mapCohorts t.cx.asid fun c => if c.stopDue = 3 then { c with stopDue := 6 } else c
      t.setMe me
    | none => s)

/-! ## Statements (R412 to R416) -/

/-- The bytes of a statement (Table 15-13). -/
def Statement.bytes (x : Statement) : List Byte :=
  let devid := sha3 (Config.mlDsaPublicKey Config.deviceSecret)
  let head := leBytes 4 1 ++ leBytes 2 x.kind ++ leBytes 2 x.flags ++ leBytes 8 x.retno ++ devid ++ x.head ++ x.body
  let digest := sha3 head
  let sig := (Config.mlDsaSign Config.deviceSecret digest ++ List.replicate 2420 0#8).take 2420
  head ++ digest ++ sig ++ List.replicate 556 0#8

/-- Whether a place is free for one more statement (R416). -/
def Device.signRoom (d : Device) : Bool := decide (d.statements.length < 64)

/-- Hold a statement under the next RETNO (R412). -/
def Device.addStatement (d : Device) (kind flags : Nat) (head body : List Byte) : Device :=
  let n := d.boot.retno + 1
  { d with boot := { d.boot with retno := n }
           statements := d.statements ++ [{ kind := kind, flags := flags, retno := n, head := head, body := body }] }

/-- The 128 counter places as bytes (R410). -/
def Context.cntBytes (c : Context) : List Byte :=
  (List.range 128).flatMap fun i => leBytes 8 (if i = 126 then c.sat.toNat % 2 ^ 64 else if i = 127 then c.sat.toNat / 2 ^ 64
    else (Store.get 0#64 c.cnt i).toNat)

/-- The translations of an ASID are lost as the context bound to it retires, as by a shootdown of its whole space, so that a context to
which the ASID is bound next uses none of them (R28). -/
def Device.unbind (d : Device) (asid : Nat) : Device :=
  { d with tlb := d.tlb.filter fun e => e.global || e.asid != asid
           ptgen := Store.set 0#64 d.ptgen asid (Store.get 0#64 d.ptgen asid + 1#64) }

/-- The current context retires: its counters statement is held, its block is freed, its translations are lost, and recording of it
ends (R28, R392, R414). -/
def State.retireContext (s : State) (byTrap : Bool) : State :=
  let c := s.cx
  let flags := (if c.replayed then 1 else 0) + (if byTrap then 2 else 0) + (if c.sat ≠ 0#128 then 4 else 0)
  let d := s.dev.addStatement 1 flags (leBytes 8 c.ctxid ++ leBytes 2 c.asid ++ leBytes 6 0) c.cntBytes
  let rec' := d.reg 0x60000
  let d := if bit rec' 31 ∧ bits rec' 11 0 = c.asid then d.endRecording (bits rec' 17 16) else d
  { s with dev := d.unbind c.asid, cx := Context.null }

/-- Whether a context has a live launch or one that the dispatcher holds (R414). -/
def State.hasLaunch (s : State) (asid : Nat) : Bool := (s.context? asid).any fun c => !c.launches.isEmpty

/-- Retire the context that CTXRET names, if a statement place is free (R414, R416). -/
def State.ctxret (s : State) : State :=
  let asid := bits (s.dev.reg 0x60210) 11 0
  if s.dev.signRoom then
    let t := s.setDev (s.dev.setField 0x60210 31 31 0)
    let here := t.cx.asid == asid && t.cx.alive
    let u := if here then t.parkCo else t
    u.onContext asid fun u => u.retireContext false
  else s.setDev (s.dev.setField 0x60210 31 31 1)

/-- CTXRET_GO: refused with ERR while BUSY or while the ASID has a launch (R414). -/
def execCtxretGo (w : RegWrite) (s : State) : Out :=
  .next (if w.ok = false then s
    else
      let busy := bit (s.dev.reg 0x60210) 31
      let d := s.dev.regStore w
      if w.sets 0x60210 16 then
        (if busy ∨ s.hasLaunch (bits (d.reg 0x60210) 11 0) then s.setDev (d.setField 0x60210 30 30 1) else (s.setDev d).ctxret)
      else s.setDev d)

/-- The bytes of JOBREQ from an offset in it. -/
def Device.jobBytes (d : Device) (o n : Nat) : List Byte := (List.range n).map fun i =>
  BitVec.ofNat 8 (d.reg (0x60300 + (o + i) / 8 * 8) / 2 ^ (8 * ((o + i) % 8)))

/-- The measurement of the command-core firmware now running (R415). -/
def Device.measurement (d : Device) : List Byte := d.boot.measure.getD ((List.range 32).map Config.bootFirmware)

/-- Make the job statement that JOBREQ asks for, if a place is free (R415, R416). -/
def Device.jobreq (d : Device) : Device :=
  if d.signRoom then
    let peers := d.jobBytes 0x10 64
    let lost := (List.range 512).any fun i => bit (peers.getD (i / 8) 0#8).toNat (i % 8) && d.reg (0x10000 + 8 * i) == 0
    let d := d.addStatement 2 (if lost then 1 else 0) (d.jobBytes 0 16)
      (leBytes 2 d.num ++ leBytes 6 0 ++ peers ++ d.measurement ++ List.replicate 920 0#8)
    d.setReg 0x60350 0
  else d.setReg 0x60350 1

/-- JOBREQ_GO: writes from an agent other than the management processor are ignored (R415). -/
def execJobreqGo (w : RegWrite) (s : State) : Out :=
  .next (if w.ok ∧ w.agent = .mgmt ∧ w.sets 0x60350 0 ∧ s.dev.reg 0x60350 = 0 then s.setDev s.dev.jobreq else s)

/-- SIGBASE.LOG2. -/
def Device.sigLog2 (d : Device) : Nat := bits (d.reg 0x60200) 3 0
/-- Whether the statement ring has a free slot (Table 15-14). -/
def Device.sigRoom (d : Device) : Bool :=
  decide (4 ≤ d.sigLog2 ∧ d.sigLog2 ≤ 12) &&
    decide ((bits (d.reg 0x60208) 63 32 + 2 ^ 32 - bits (d.reg 0x60208) 31 0) % 2 ^ 32 < 2 ^ d.sigLog2)

/-- STATEMENT_WRITE: the oldest held statement is signed and written, and what waited for a place takes it (R416). -/
def execStatementWrite (s : State) : Out :=
  .next (match s.dev.statements with
    | [] => s
    | x :: xs =>
      if s.dev.sigRoom then
        let n := bits (s.dev.reg 0x60208) 63 32
        let a := bits (s.dev.reg 0x60200) 47 16 * 0x10000 + 4096 * (n % 2 ^ s.dev.sigLog2)
        let d := ((s.dev.putP a x.bytes 0#64).setField 0x60208 63 32 (n + 1))
        let t := s.setDev { d with statements := xs }
        if bit (t.dev.reg 0x60210) 31 then t.ctxret
        else if t.dev.reg 0x60350 = 1 then t.setDev t.dev.jobreq
        else match t.dev.retiring with
          | a :: as =>
            let u := t.setDev { t.dev with retiring := as }
            let u := if u.cx.alive && u.cx.asid == a then u.parkCo else u
            u.onContext a fun v => v.retireContext true
          | [] => t
      else s)

end Sys2Proof.Machine
end

