-- ==== Sys2Proof/Machine/Matrix.lean ====
section
/-!
DEFINITION. Gangs and the matrix engine (R296 to R298, R305), MMA with its latch (R299 to R304), and gallery fills
(R77 to R80, R306, R307).
-/
namespace Sys2Proof.Machine

/-! ## Shared operations -/

/-- #MTX with a cause of Table 11-2. -/
def State.mtx (s : State) (cause : Nat) : State := s.queueTrap 8 cause s.me.present 0

/-- COUNT of a gang register (Table 7-4). -/
def gangCount (g : Word) : Nat := bits g.toNat 2 0
/-- The members of a gang register, in order (Table 7-4). -/
def gangMembers (g : Word) : List Nat := (List.range (gangCount g)).map fun m => bits g.toNat (11 + 4 * m) (8 + 4 * m)

/-- Whether GANG accepts a value from cohort `j` of a company (R296). -/
def Company.gangOk (h : Company) (j : Nat) (g : Word) : Bool :=
  let ms := gangMembers g
  g == 0#32 || (decide (1 ≤ gangCount g ∧ gangCount g ≤ 6) && bits g.toNat 7 3 == 0
    && g.toNat / 2 ^ (8 + 4 * gangCount g) == 0 && ms.eraseDups.length == gangCount g
    && ms.all (fun m => h.created.contains m) && ms.contains j)

/-- Raise a trap in cohorts of the current company (R303). -/
def State.trapEach (s : State) (js : List Nat) (code sub : Nat) (mask : Cohort → Mask) : State :=
  js.foldl (fun s j => s.onCohort s.co.dseq j fun t => t.queueTrap code sub (mask t.me) 0) s

/-! ## The engine's FIFO (R297, R298) -/

/-- Change an entry of the engine FIFOs. -/
def Device.mapEngine (d : Device) (dseq : Nat) (g : Word) (f : GangEntry → GangEntry) : Device :=
  { d with engines := d.engines.map fun e => if e.dseq = dseq ∧ e.gang = g then f e else e }

/-- The entry of a company's gang. -/
def Device.engine? (d : Device) (dseq : Nat) (g : Word) : Option GangEntry := d.engines.find? fun e => e.dseq == dseq && e.gang == g

/-- Whether a gang owns its core's engine. -/
def Device.engineOwned (d : Device) (dseq : Nat) (g : Word) : Bool := (d.engine? dseq g).any fun e => e.owns

/-- Remove an entry. -/
def Device.dropEngine (d : Device) (e : GangEntry) : Device :=
  { d with engines := d.engines.filter fun x => !(x.dseq == e.dseq && x.gang == e.gang) }

/-- The cohorts that a gang lists, by index. -/
def Company.listed (h : Company) (g : Word) : List Cohort := h.cohorts.filter fun c => (gangMembers g).contains c.j

/-- Whether every listed member of an entry has left its gang or ended (R298). -/
def Company.allGone (h : Company) (g : Word) : Bool := (h.listed g).all fun c => c.stat == .ended || c.gang != g

/-- Whether an owning entry passes the engine: every member is released and every MMA of the gang has retired (R298). -/
def GangEntry.done (e : GangEntry) (h : Company) : Bool :=
  (gangMembers e.gang).all (fun j => e.released.contains j || h.ended.contains j) && !(h.fired.any fun x => x.gang == e.gang)

/-- The company of an entry, with all its cohorts. -/
def State.companyOf (s : State) (dseq : Nat) : Company := (s.companies.find? fun h => h.dseq == dseq).getD Company.null

/-- Take out of a core's FIFO the owner that passes the engine, and every waiting entry whose members are gone (R298). -/
def State.leaveEngine (s : State) (core : Nat) : State :=
  let stays (e : GangEntry) : Bool :=
    let h := s.companyOf e.dseq
    !(e.core == core && (if e.owns then e.done h else h.allGone e.gang))
  s.setDev { s.dev with engines := s.dev.engines.filter stays }

/-- The cohort whose record the grant of an entry is: the first that waits, else the first member. In replay it is one whose next
record is of this core's engine and due; none while there is no such cohort (R297, R401). -/
def State.grantee (s : State) (core : Nat) (e : GangEntry) : Option Nat :=
  let cs := if e.waiting.isEmpty then gangMembers e.gang else e.waiting
  let due (j : Nat) : Bool :=
    let t := s.focus e.dseq j
    t.replays = false || t.expected.any fun r => r.isAt (0x2800 + core) && t.serialDue r
  cs.find? due

/-- The engine passes to the head of a core's FIFO, in replay to the entry whose grant is due: granted if every listed member that has not
ended agrees, or if it owned the engine before a restore (R305), and otherwise removed with #MTX AGREE in the cohorts that wait in it
(R297). -/
def State.grantHead : Nat → Nat → State → State
  | 0, _, s => s
  | n + 1, core, s =>
    let line := s.dev.engines.filter fun e => e.core == core
    if line.any (·.owns) then s
    else match line.find? fun e => (s.grantee core e).isSome with
    | some e =>
        let h := s.companyOf e.dseq
        let who := (s.grantee core e).getD 0
        if !h.regain.contains e.gang && (h.listed e.gang).any fun c => c.stat != .ended && c.gang != e.gang then
          let t := s.setDev (s.dev.dropEngine e)
          State.grantHead n core (t.onCompany e.dseq fun u => u.trapEach e.waiting 8 4 Cohort.present)
        else
          let t := s.setDev (s.dev.mapEngine e.dseq e.gang fun x =>
            { x with owns := true, released := (gangMembers e.gang).filter fun j => x.released.contains j || h.ended.contains j })
          let t := t.onCompany e.dseq fun u => u.setCo { u.co with regain := u.co.regain.filter fun g => g != e.gang }
          t.onCohort e.dseq who fun u => u.logPlace 1 (0x2800 + core)
    | none => s

/-- ENGINE_PASS: the engine passes to the next entry after its agreement check (R297, R298). -/
def execEnginePass (core : Nat) (s : State) : Out :=
  .next ((s.leaveEngine core).grantHead (s.dev.engines.length + 1) core)

/-- The current cohort leaves its gang: a change of the register, or EXIT (R296). Its place in a wait is abandoned, it
counts as released where the gang owns, and cohorts that wait at a latch of the gang raise #MTX ORPHAN. -/
def State.leaveGang (s : State) : State :=
  let g := s.me.gang
  let j := s.me.j
  if g = 0#32 then s
  else
    let d := s.dev.mapEngine s.co.dseq g fun e =>
      { e with waiting := e.waiting.filter fun x => x != j, released := if (e.owns || s.co.regain.contains g) && !e.released.contains j then e.released ++ [j] else e.released }
    let gone := s.co.latches.filter fun l => l.gang == g
    let t := (s.setDev d).setCo { s.co with latches := s.co.latches.filter fun l => l.gang != g }
    t.trapEach ((gone.flatMap fun l => l.arrived.map (·.j)).filter fun x => x != j) 8 8 Cohort.present

/-- GANG. -/
def execGang (a : Reg) (s : State) : Out :=
  let g := s.me.sget a.toNat
  .next (
    if s.co.gangOk s.me.j g = false then s.mtx 1
    else if s.me.spoison a.toNat then s.queueTrap 6 1 s.me.present 0
    else if g = s.me.gang then s.retire 4
    else
      let t := s.leaveGang
      (t.setMe { t.me with gang := g }).retire 4)

/-- Whether the gang register lists the current cohort (Table 11-2, cause 1). -/
def Cohort.ganged (c : Cohort) : Bool := c.gang != 0#32 && (gangMembers c.gang).contains c.j

/-- MACQ: joins or appends the gang's entry and waits until it owns (R297). -/
def execMacq (s : State) : Out :=
  let g := s.me.gang
  .next (
    if s.me.ganged = false then s.mtx 1
    else
      let d := match s.dev.engine? s.co.dseq g with
        | some _ => s.dev.mapEngine s.co.dseq g fun e =>
            { e with waiting := if e.owns || e.waiting.contains s.me.j then e.waiting else e.waiting ++ [s.me.j] }
        | none => { s.dev with engines := s.dev.engines ++ [{ core := s.core, dseq := s.co.dseq, gang := g, owns := false
                                                              waiting := [s.me.j], released := [] }] }
      let t := (s.setDev d).grantHead (d.engines.length + 1) s.core
      if t.dev.engineOwned t.co.dseq g then
        (t.setDev (t.dev.mapEngine t.co.dseq g fun e => { e with waiting := e.waiting.filter fun x => x != t.me.j })).retire 4
      else if t.me.stat = .running then t.waitOn .macq else t)

/-- MREL: its member is released if its gang owns the engine (R298), or owned it before a restore (R305); it does nothing otherwise. -/
def execMrel (s : State) : Out :=
  .next ((s.setDev (s.dev.mapEngine s.co.dseq s.me.gang fun e =>
      if (e.owns || s.co.regain.contains s.me.gang) && !e.released.contains s.me.j then { e with released := e.released ++ [s.me.j] } else e)).retire 4)

/-! ## Tiles (R293 to R295) -/

/-- A tile of +0 (R293). -/
def Tile.zero : Tile := { w := [], poison := [] }
/-- The tile with element [i][c] `f i c`, poisoned where `p i c`. -/
def Tile.build (f : Nat → Nat → Word) (p : Nat → Nat → Bool) : Tile :=
  { w := (List.range 4096).filterMap fun k => let x := f (k / 64) (k % 64); if x = 0#32 then none else some (k, x)
    poison := (List.range 4096).filterMap fun k => if p (k / 64) (k % 64) then some (k, true) else none }
/-- Element [i][c]. -/
def Tile.at (t : Tile) (i c : Nat) : Word := Store.get 0#32 t.w (64 * i + c)
/-- Whether element [i][c] is poisoned. -/
def Tile.bad (t : Tile) (i c : Nat) : Bool := Store.get false t.poison (64 * i + c)
/-- The rows with a poisoned element in columns `lo` to `hi − 1`. -/
def Tile.badRows (t : Tile) (lo hi : Nat) : Mask :=
  bitsOf fun i => (List.range (hi - lo)).any fun c => t.bad i (lo + c)

/-- A tile as it reads: +0 where the name is unallocated (R293). -/
def Company.tileOf (h : Company) (t : Nat) : Tile := (Store.get none h.tiles t).getD Tile.zero
/-- Write a whole tile; the name is allocated and DIRTY (R293, R294). -/
def Company.tilePut (h : Company) (t : Nat) (x : Tile) : Company :=
  { h with tiles := Store.set none h.tiles t (some x), dirty := Store.set false h.dirty t true }
/-- Free a tile name (R308). -/
def Company.tileFree (h : Company) (t : Nat) : Company :=
  { h with tiles := Store.set none h.tiles t none, dirty := Store.set false h.dirty t false }

/-- The physical tiles a company takes: its floor or what it holds, if more (R293, R326). -/
def Company.tused (h : Company) : Nat := max h.hdr.tfloor h.tiles.length
/-- The free tiles of a core (R293). -/
def State.tfreeOf (s : State) (core : Nat) : Nat :=
  16 - ((s.companies.filter fun c => c.coreOf == some core).map Company.tused).foldl (· + ·) 0
/-- Whether a write to a tile name finds a physical tile; above the floor no older request may wait (R293, R340). -/
def State.canTile (s : State) (t : Nat) : Bool :=
  (Store.get none s.co.tiles t).isSome || decide (s.co.tiles.length < s.co.hdr.tfloor) ||
    (decide (0 < s.tfreeOf s.core) && !s.older s.co s.core .allocT)

/-- Place of a tile of the current core (Table 15-5). -/
def State.tilePlace (s : State) (t : Nat) : Nat := 0x800 + 16 * s.core + t

/-- An operation on tiles: in replay it waits for its SERIAL; a written name without a tile waits for one; what is done is
logged at each tile, once the instruction retires (R293, R295, R401). -/
def State.onTiles (s : State) (write : Option Nat) (ts : List Nat) (f : State → State) : State :=
  if s.replayHoldsAll (ts.map s.tilePlace) then s
  else if write.any fun t => !(s.canTile t) then s.waitOn .allocT
  else
    let u := f s
    if u.me.icount ≠ s.me.icount then ts.foldl (fun u t => u.logPlace 1 (s.tilePlace t)) u else u

/-! ## MMA (R299 to R304) -/

/-- Whether an MX bit is allowed on an element code, and set where it is required (R299, Table 11-5). -/
def mxOk (code : Nat) (mx : Bool) : Bool := if mx then decide (2 ≤ code ∧ code ≤ 4 ∨ code = 7) else code != 7

/-- The checks of R299. -/
def blockOk (x : DWord) : Bool :=
  let k := Block.of x
  bits x.toNat 63 41 == 0 && bits x.toNat 15 13 == 0 && mxOk k.fa k.amx && mxOk k.fb k.bmx
    && (elemFmt k.fa).width == (elemFmt k.fb).width

/-- The checks of R300 for a gang of `n` members and an A group at `a`. -/
def shapeOk (k : Block) (n a : Nat) : Bool :=
  let kk := n * k.kA
  k.kA % k.l == 0 && decide (a + k.group ≤ 64) && decide (16 * k.brow0 + k.w * kk ≤ 8192)
    && (!k.bmx || decide (2 * k.srow + kk / k.l ≤ 1024))

/-- A byte of a slot; a slot that is not VALID reads zeros (R77). -/
def Slot.byteAt (x : Slot) (o : Nat) : Nat := if x.valid then (Store.get 0#8 x.bytes o).toNat else 0

/-- Element `k` of column `c` of B (R302). -/
def Block.b (x : Block) (t : Slot) (c k : Nat) : Nat :=
  let o := 16 * x.brow0 + x.w * k
  if x.w = 16 then t.byteAt (1024 * c + o / 8) + 256 * t.byteAt (1024 * c + o / 8 + 1)
  else t.byteAt (1024 * c + o / 8) / 2 ^ (o % 8) % 2 ^ x.w

/-- The scale of B's block `n` of column `c` (R302). -/
def Block.sb (x : Block) (t : Slot) (c n : Nat) : Nat := if x.bmx then t.byteAt (1024 * c + 2 * x.srow + n) else 0x7F

/-- Element `k` of a member's sub-slice in a lane (R301). -/
def Block.a (x : Block) (c : Cohort) (va i k : Nat) : Nat :=
  let e := 32 / x.w
  elemOf x.w ((c.vget (va + k / e)).lane i).toNat (k % e)

/-- The scale of a member's block `m` in a lane (R301). -/
def Block.sa (x : Block) (c : Cohort) (va i m : Nat) : Nat :=
  if x.amx then elemOf 8 ((c.vget (va + x.regs + m / 4)).lane i).toNat (m % 4) else 0x7F

/-- The element [i][c] after an MMA of members given by their cohort and A group (R304). -/
def Block.elem (x : Block) (ms : List (Cohort × Nat)) (t : Slot) (i c : Nat) (acc : Word) : Word :=
  (List.range (ms.length * x.kA / x.l)).foldl (fun acc n =>
    let k := n * x.l
    let p := ms.getD (k / x.kA) (Cohort.null, 0)
    let k0 := k % x.kA
    mmaBlock acc ((List.range x.l).map fun e => x.a p.1 p.2 i (k0 + e)) (x.sa p.1 p.2 i (k0 / x.l)) (elemFmt x.fa)
      ((List.range x.l).map fun e => x.b t c (k + e)) (x.sb t c n) (elemFmt x.fb)) acc

/-- Whether a run of bytes of a slice touches a poisoned granule of the slot, in any column (R80). -/
def Slot.spoiled (t : Slot) (o n : Nat) : Bool :=
  t.valid && (List.range 64).any fun c => (List.range ((o + n + 15) / 16 - o / 16)).any fun g =>
    Store.get false t.bad ((1024 * c + o) / 16 + g)

/-- Whether the B elements or scales that an MMA reads are poisoned. -/
def Block.badB (x : Block) (t : Slot) (n : Nat) : Bool :=
  let kk := n * x.kA
  t.spoiled (2 * x.brow0) ((x.w * kk + 7) / 8) || (x.bmx && t.spoiled (2 * x.srow) (kk / x.l))

/-- The counter of an MMA (Table 15-12). -/
def Block.counter (x : Block) : Nat := if x.amx && x.fa != 7 then 6 + x.fa else x.fa

/-- The slot of an index of the current company. -/
def Company.slotAt (h : Company) (i : Nat) : Slot :=
  h.slots.getD i { valid := false, poison := false, srcva := 0#56, asid := 0#12, gen := 0#64, filled := false, returned := false
                   bytes := [], bad := [] }

/-- A member's MMA retires: its A group has been read, and its mark frees the group (R303). -/
def State.mmaRetire (s : State) (a n : Nat) (mark : Bool) : State :=
  let g := groupNames a n
  let me := s.me.unalloc (s.me.misses g)
  (s.setMe (if mark then me.freeAll g else me)).retire 4

/-- A latch fires: the operands are checked for poison and read, every member's MMA retires, and the tile operation is in
flight until MMA_TILE_RETIRE (R303, R304). -/
def State.fire (s : State) (l : Latch) : State :=
  let x := Block.of l.block
  let cs := s.coAll.cohorts
  let ms := (gangMembers l.gang).map fun j =>
    ((cs.find? fun c => c.j == j).getD Cohort.null, ((l.arrived.find? fun r => r.j == j).map fun r => r.a.toNat).getD 0)
  let old := s.co.tileOf l.tile
  let slot := s.co.slotAt x.slot
  let here := s.me.present
  let badA := ms.foldl (fun m p => m ||| p.1.eats false (groupNames p.2 x.group)) 0#64
  let badT := old.badRows 0 64 &&& here
  let js := l.arrived.map (·.j)
  if badA ≠ 0#64 then s.trapEach js 6 1 fun _ => badA
  else if badT ≠ 0#64 then s.trapEach js 6 2 fun _ => badT
  else if x.badB slot ms.length then s.trapEach js 6 3 Cohort.present
  else
    let new := Tile.build (fun i c => if here.getLsbD i then x.elem ms slot i c (old.at i c) else old.at i c)
      (fun i c => !here.getLsbD i && old.bad i c)
    let co := { s.co with tiles := Store.set none s.co.tiles l.tile (some old)
                          fired := s.co.fired ++ [{ tile := l.tile, gang := l.gang, result := new }] }
    let t := (s.setCo co).count x.counter (popcount here * 64 * (ms.length * x.kA))
    l.arrived.foldl (fun t r => t.onCohort t.co.dseq r.j fun u => u.mmaRetire r.a.toNat x.group r.mark) t

/-- Whether a fill of a slot of the current company is in progress (R80). -/
def State.filling (s : State) (slot : Nat) : Bool := s.dev.fills.any fun f => f.dseq == s.co.dseq && f.slot == slot

/-- A checked MMA arrives at the latch of its tile (R303). -/
def State.arrive (s : State) (t : Nat) (g : Word) (blk : DWord) (r : Arrival) : State :=
  let others := s.co.latches.filter fun l => l.tile != t
  let alone := s.setCo { s.co with latches := others }
  let here := (s.co.latches.find? fun l => l.tile == t).getD { tile := t, gang := g, block := blk, arrived := [] }
  if (s.coAll.listed g).any fun c => c.stat == .ended || c.gang != g then s.mtx 8
  else if here.arrived.isEmpty && others.any fun l => l.gang == g then s.mtx 4
  else if here.gang ≠ g ∨ here.block ≠ blk then
    (alone.trapEach (here.arrived.map (·.j)) 8 4 Cohort.present).mtx 4
  else
    let l := { here with arrived := here.arrived ++ [r] }
    if (gangMembers g).all fun j => l.arrived.any fun x => x.j == j then
      if s.filling (Block.of blk).slot then s.waitOn .drain
      else alone.onTiles (some t) [t] fun u => u.fire l
    else (s.setCo { s.co with latches := others ++ [l] }).waitOn .latch

/-- MMA: the checks of R303 in their order, then the arrival. -/
def execMma (ma : Bool) (b a : Reg) (t : BitVec 4) (s : State) : Out :=
  let g := s.me.gang
  let blk := s.me.sget64 b.toNat
  let k := Block.of blk
  .next (
    if s.me.em ≠ s.me.present then s.mtx 2
    else if s.me.ganged = false then s.mtx 1
    else if s.dev.engineOwned s.co.dseq g = false then (if s.co.regain.contains g then s.waitOn .macq else s.mtx 3)
    else if blockOk blk = false then s.mtx 5
    else if shapeOk k (gangCount g) a.toNat = false then s.mtx 6
    else if s.co.slots.length ≤ k.slot then s.mtx 7
    else if s.me.spoison b.toNat || s.me.spoison (b.toNat + 1) then s.queueTrap 6 1 s.me.present 0
    else s.arrive t.toNat g blk { j := s.me.j, a := a, mark := ma })

/-- MMA_TILE_RETIRE: a fired tile operation writes its tile (R303). -/
def execMmaTileRetire (dseq : Nat) (t : BitVec 4) (s : State) : Out :=
  .next (s.onCompany dseq fun s =>
    match s.co.fired.find? fun x => x.tile == t.toNat with
    | some x => s.setCo { s.co.tilePut x.tile x.result with fired := s.co.fired.filter fun y => y.tile != x.tile }
    | none => s)

/-! ## Gallery fills -/

/-- The physical slots a company takes: its floor, or its grants that were not returned, if more (R307, R326). -/
def Company.gused (h : Company) : Nat := max h.hdr.gfloor (h.slots.filter fun x => !x.returned).length
/-- The free slots of a core (R307). -/
def State.gfreeOf (s : State) (core : Nat) : Nat :=
  128 - ((s.companies.filter fun c => c.coreOf == some core).map Company.gused).foldl (· + ·) 0

/-- A slot as it is granted (Table 3-5). -/
def Slot.fresh : Slot := Company.null.slotAt 0

/-- GLGEN moves (R79). -/
def State.moveGlgen (s : State) : State := s.setCx { s.cx with glgen := s.cx.glgen + 1#32 }

/-- Grant slots until the company holds `n`, while there are any; above the floor no older request may wait (R307, R340). -/
def State.grantSlots (s : State) (n : Nat) : Nat → State
  | 0 => s
  | fuel + 1 =>
    if n ≤ s.co.slots.length then s
    else if s.co.slots.length < s.co.hdr.gfloor ∨ (0 < s.gfreeOf s.core ∧ s.older s.co s.core .allocG = false) then
      (s.setCo { s.co with slots := s.co.slots ++ [Slot.fresh] }).moveGlgen.grantSlots n fuel
    else s

/-- Change a slot of the current company. -/
def State.mapSlot (s : State) (i : Nat) (f : Slot → Slot) : State :=
  s.setCo { s.co with slots := s.co.slots.mapIdx fun k x => if k = i then f x else x }

/-- A fill of the current company's slot is issued: its descriptor takes SRCVA, ASID and GEN (R306). -/
def State.startFill (s : State) (slot : Nat) (va : Nat) (src : List Seg) (refill : Bool) : State :=
  let x := s.co.slotAt slot
  let f : Fill := { id := s.dev.nextId, dseq := s.co.dseq, j := s.me.j, slot := slot, srcva := BitVec.ofNat 56 va
                    same := x.srcva == BitVec.ofNat 56 va, src := src, asked := false, buf := [], bad := [], refill := refill }
  let t := s.mapSlot slot fun x =>
    { x with srcva := BitVec.ofNat 56 va, asid := BitVec.ofNat 12 s.co.asid, gen := ptgenOf s.dev va s.co.asid }
  t.setDev { t.dev with fills := t.dev.fills ++ [f], nextId := t.dev.nextId + 1 }

/-- GFILL after its checks: grants until the index is granted, then the fill (R307). -/
def State.gfillGo (s : State) (slot va : Nat) (src : List Seg) : State :=
  let t := s.grantSlots (slot + 1) 128
  if t.co.slots.length ≤ slot then t.waitOn .allocG else (t.startFill slot va src false).retire 4

/-- GFILL (R306): checked once, as if by lane 0. -/
def execGfill (w : BitVec 3) (a d : Reg) (s : State) : Out :=
  let x := s.me.window w.toNat
  let o := (s.me.sget a.toNat).toNat
  let va := x.addr o
  .next (
    if s.me.spoison a.toNat || s.me.spoison d.toNat then s.queueTrap 6 1 s.me.present 0
    else if x.kind ≠ 1 then s.accessTrap 2 5 1#64
    else if va % 128 ≠ 0 then s.accessTrap 5 0 1#64
    else
      let p := s.sideChecks { win := w.toNat, kind := 1, write := false } 65536 [o]
      let cs := p.2.flatten.map (·.1)
      match worst cs with
      | some f => p.1.accessTrap f.code.1 f.code.2 1#64
      | none =>
        match copyFrame s.me.n0 cs [] with
        | some (f, mask) => p.1.pageFault f mask
        | none =>
          if cs.any fun c => c.out == .wait then s
          else p.1.gfillGo ((s.me.sget d.toNat).toNat % 128) va (p.2.flatMap rowSegs))

/-- Whether a fill may read its source: its cohort's earlier writes are performed, and earlier fills of the slot have completed (R80);
fences and acquires do not order it (R121). -/
def State.fillReady (s : State) (f : Fill) : Bool :=
  !(s.dev.fills.any fun g => decide (g.id < f.id) && g.dseq == f.dseq && g.slot == f.slot) &&
  !(s.dev.pieces.any fun q => decide (q.id < f.id) && (q.dst.span q.dseq).any fun y =>
      (f.src.flatMap (Seg.span f.dseq)).any fun x => if y.space = 0 then x.lines.meets y.lines else x.meets y) &&
  (((s.companyOf f.dseq).cohorts.filter fun c => c.j == f.j).all fun c => c.ops.all fun o =>
    decide (f.id < o.id) || o.passed || !(o.stage != .performed && (o.kind.writes || o.kind.isStore)))

/-- The bytes of a fill's source, in order, and whether each is poisoned. -/
def State.fillBytes (s : State) (f : Fill) : List (Byte × Bool) :=
  let h := (s.companyOf f.dseq).coreOf.getD 0 / 128
  (segStarts 0 f.src).flatMap fun x =>
    (List.range x.1.len).map fun i =>
      if x.1.loc.away then (Store.get 0#8 f.buf (x.2 + i), Store.get false f.bad (x.2 + i))
      else if s.dev.cutAt x.1.loc i then s.engineByte h [] [] .poison i
      else s.engineByte h [] [] x.1.loc i

/-- Reads of a fill that need a vestibule that is down fail (R20, R152). -/
def State.cutFill (s : State) (f : Fill) : State :=
  if f.src.any s.dev.cutSeg then s.onCohort f.dseq f.j fun u => u.fail u.dev.num false none else s

/-- The source byte that a fill puts at an offset of a slot (R78). -/
def fillSource (o : Nat) : Nat := 128 * (o % 1024 / 2) + 2 * (o / 1024) + o % 2

/-- A fill completes: what lies on this device is read and the slot written at one moment (DESIGN CHOICE, log entry 20; R80 makes only
each granule's read indivisible). The slot holds its bytes, VALID and POISON follow, and GLGEN moves for the first fill since the
grant and for a source that differs (R78, R79, R306). -/
def State.endFill (s : State) (f : Fill) : State :=
  let bs := (s.fillBytes f).toArray
  let at' (o : Nat) : Byte × Bool := bs.getD (fillSource o) (0#8, false)
  let bytes := (List.range 65536).filterMap fun o => if (at' o).1 = 0#8 then none else some (o, (at' o).1)
  let bad := (List.range 4096).filterMap fun g => if (List.range 16).any fun i => (at' (16 * g + i)).2 then some (g, true) else none
  let t := s.setDev { s.dev with fills := s.dev.fills.filter fun g => g.id != f.id }
  t.onCompany f.dseq fun u =>
    let moves := !f.refill && (!(u.co.slotAt f.slot).filled || !f.same)
    let v := u.mapSlot f.slot fun x =>
      { x with valid := true, poison := !bad.isEmpty, filled := true, returned := false, bytes := bytes, bad := bad }
    if moves then v.moveGlgen else v

/-- GALLERY_FILL_COMPLETE: a fill asks for what lies elsewhere, then reads its source and writes its slot. -/
def execGalleryFillComplete (id : Nat) (s : State) : Out :=
  .next (match s.dev.fills.find? fun f => f.id == id with
    | none => s
    | some f =>
      if s.fillReady f = false ∨ s.dev.waitsFor (.fill id) then s
      else if f.asked = false ∧ f.src.any (fun g => g.loc.away) then
        let ls := ((segStarts 0 f.src).filter fun x => x.1.loc.away).flatMap fun x => linesOf x.1 x.2
        let q := s.askLines (.fill id) ls
        let spoil (g : Fill) : Fill := q.2.foldl (fun g x => { g with bad := (List.range x.2.2).foldl (fun b i => Store.set false b (x.2.1 + i) true) g.bad })
          { g with asked := true }
        let t := q.1.setDev { q.1.dev with fills := q.1.dev.fills.map fun g => if g.id = id then spoil g else g }
        q.2.foldl (fun t x => t.onCohort f.dseq f.j fun u => u.fail x.1 false none) t
      else (s.cutFill f).endFill f)

end Sys2Proof.Machine
end

