-- ==== Sys2Proof/Machine/Tiles.lean ====
section
/-!
DEFINITION. Tile moves, conversion and reduction (R308 to R311).
-/
namespace Sys2Proof.Machine

/-- The format of a TCVT code (Table 11-6). -/
def tcvtFmt (f : BitVec 3) : Fmt :=
  match f.toNat with
  | 0 => .bf16
  | 1 => .fp16
  | 2 => .e4m3
  | 3 => .e5m2
  | 4 => .e2m1
  | 5 => .int8
  | _ => .int4

/-- A lane-tile instruction: em must be the present mask (R291). -/
def laneTile (f : State → State) (s : State) : State := if s.me.em ≠ s.me.present then s.mtx 2 else f s

/-- Write `n` vectors from tile data: word and poison by lane and register, in the present lanes, once registers are
found (R206, R309). -/
def State.tileToRegs (s : State) (d n : Nat) (f : Nat → Nat → Word × Bool) : State :=
  let fresh := ((groupNames d n).filter fun r => !s.me.allocated r).length
  if s.canAlloc fresh = false then s.waitOn .allocV
  else (s.setMe ((List.range n).foldl (fun c m => c.fillLanes (d + m) c.present fun i => f i m) s.me)).retire 4

/-- TZERO. -/
def execTzero (t : BitVec 4) (s : State) : Out :=
  .next (s.onTiles (some t.toNat) [t.toNat] fun s => (s.setCo (s.co.tilePut t.toNat Tile.zero)).retire 4)

/-- TFREE. -/
def execTfree (t : BitVec 4) (s : State) : Out :=
  .next (s.onTiles none [t.toNat] fun s => (s.setCo (s.co.tileFree t.toNat)).retire 4)

/-- TFREE.ALL. -/
def execTfreeAll (s : State) : Out :=
  .next (s.onTiles none (List.range 16) fun s => (s.setCo ((List.range 16).foldl Company.tileFree s.co)).retire 4)

/-- TRED.ADD: the element-wise sum; a poisoned element raises #MCE (R311). -/
def execTredAdd (src t : BitVec 4) (s : State) : Out :=
  let x := s.co.tileOf t.toNat
  let y := s.co.tileOf src.toNat
  let bad := x.badRows 0 64 ||| y.badRows 0 64
  .next (s.onTiles (some t.toNat) [src.toNat, t.toNat].eraseDups fun s =>
    if bad ≠ 0#64 then s.queueTrap 6 2 bad 0
    else
      let z := Tile.build (fun i c => BitVec.ofNat 32 (fadd .fp32 (x.at i c).toNat (y.at i c).toNat)) fun _ _ => false
      ((s.setCo (s.co.tilePut t.toNat z)).count 30 4096).retire 4)

/-- TRED.ROW: each present lane receives the exact sum of its row, rounded once (R249, R311). -/
def execTredRow (src : BitVec 4) (d : Reg) (s : State) : Out :=
  .next (laneTile (fun s =>
    let x := s.co.tileOf src.toNat
    let bad := x.badRows 0 64 &&& s.me.present
    s.onTiles none [src.toNat] fun s =>
      if bad ≠ 0#64 then s.queueTrap 6 2 bad 0
      else
      let n := s.me.icount
      let t := s.tileToRegs d.toNat 1 fun i _ => (lrfadd ((List.range 64).map (x.at i)), false)
      if t.me.icount = n then t else t.count 30 (64 * popcount s.me.present)) s)

/-- TMOVR: columns of a tile to vectors; poison moves as data (R309). -/
def execTmovr (c : Reg) (n : BitVec 2) (t : BitVec 4) (d : Reg) (s : State) : Out :=
  .next (laneTile (fun s =>
    let x := s.co.tileOf t.toNat
    s.onTiles none [t.toNat] fun s =>
      s.tileToRegs d.toNat (2 ^ n.toNat) fun i m => (x.at i (c.toNat + m), x.bad i (c.toNat + m))) s)

/-- TMOVW: vectors to columns of a tile, with rows of absent lanes written as 0 (R309). -/
def execTmovw (c : Reg) (n : BitVec 2) (t : BitVec 4) (d : Reg) (s : State) : Out :=
  .next (laneTile (fun s =>
    s.onTiles (some t.toNat) [t.toNat] fun s =>
      let x := s.co.tileOf t.toNat
      let k := 2 ^ n.toNat
      let inside (col : Nat) : Bool := decide (c.toNat ≤ col ∧ col < c.toNat + k)
      let reg (col : Nat) : VReg := s.me.vget (d.toNat + (col - c.toNat))
      let here (i : Nat) : Bool := s.me.present.getLsbD i
      let y := Tile.build
        (fun i col => if inside col then (if here i then (reg col).lane i else 0#32) else x.at i col)
        (fun i col => if inside col then here i && (reg col).poison.getLsbD i else x.bad i col)
      let me := s.me.unalloc (s.me.misses (groupNames d.toNat k))
      ((s.setCo (s.co.tilePut t.toNat y)).setMe me).retire 4) s)

/-- The stochastic-rounding coordinate of element [i][c], less the base (R310). -/
def Cohort.tileCoord (m : Cohort) (i c : Nat) : Nat :=
  ((m.crget 0x19).toNat + i) * (m.crget 0x1B).toNat + (m.crget 0x1A).toNat + c

/-- Word `m` of a lane after TCVT: the packed elements of columns from `c0` (R310). -/
def tcvtWord (f : Fmt) (mode : RMode) (t : Nat → Word) (x : Tile) (i c0 : Nat) : Word :=
  let p := 32 / f.width
  BitVec.ofNat 32 ((List.range p).foldl (fun w k =>
    w + cvtRound .fp32 f mode (t (c0 + k)) (x.at i (c0 + k)).toNat * 2 ^ (f.width * k)) 0)

/-- TCVT: a quarter of a tile to packed elements (R310). -/
def execTcvt (r fmt : BitVec 3) (q : BitVec 2) (t : BitVec 4) (d : Reg) (s : State) : Out :=
  .next (laneTile (fun s =>
    let x := s.co.tileOf t.toNat
    let f := tcvtFmt fmt
    let mode := modeOf r
    let c := 16 * q.toNat
    let p := 32 / f.width
    let bad := x.badRows c (c + 16) &&& s.me.present
    s.onTiles none [t.toNat] fun s =>
      if bad ≠ 0#64 then s.queueTrap 6 2 bad 0
      else
      let n := s.me.icount
      let word (i col : Nat) : Word := if mode = .sr then s.srAt (s.me.tileCoord i col) else 0#32
      let u := s.tileToRegs d.toNat (16 / p) fun i m => (tcvtWord f mode (word i) x i (c + p * m), false)
      if u.me.icount = n then u else srAfter (decide (mode = .sr)) (u.count 29 (16 * popcount s.me.present))) s)

end Sys2Proof.Machine
end

