-- ==== Sys2Proof/Machine/Launch.lean ====
section
/-!
DEFINITION. Launch headers and their checks (R178 to R181, R192), contexts (R392, R412), the dispatcher (R323 to R325) and
the making of companies and cohorts (R182, R355).
-/
namespace Sys2Proof.Machine

/-! ## Launch headers (Table 7-1) -/

/-- A header from its 128 bytes. -/
def headerOf (bs : List Byte) : LHdr :=
  let flags := pkt bs 7 1
  { n0m1 := pkt bs 0 1, w := (List.range 5).map (fun i => pkt bs (1 + i) 1), clevel := pkt bs 6 1 % 8
    persist := bit flags 0, split := bit flags 1, cls := bits flags 3 2
    nm1 := (List.range 5).map (fun i => pkt bs (8 + 8 * i) 8)
    entry0 := BitVec.ofNat 64 (pkt bs 0x30 8), entry1 := BitVec.ofNat 64 (pkt bs 0x38 8)
    nprod := pkt bs 0x40 1, ncons := pkt bs 0x41 1, vfloor0 := pkt bs 0x42 1, vfloor1 := pkt bs 0x43 1
    tfloor := pkt bs 0x44 1, gfloor := pkt bs 0x45 1, lsgran := pkt bs 0x46 2 }

/-- Wi, the width of field i from 1 to 5. -/
def LHdr.width (h : LHdr) (i : Nat) : Nat := h.w.getD (i - 1) 0
/-- Ni − 1. -/
def LHdr.last (h : LHdr) (i : Nat) : Nat := h.nm1.getD (i - 1) 0
/-- lo(i), the lowest bit of field i (R177). -/
def LHdr.lo (h : LHdr) (i : Nat) : Nat := 6 + (h.w.take (i - 1)).foldl (· + ·) 0
/-- lo(CLEVEL). -/
def LHdr.loC (h : LHdr) : Nat := h.lo h.clevel
/-- K, the cohort positions of a company (R179). -/
def LHdr.k (h : LHdr) : Nat := 2 ^ (h.loC - 6)
/-- The fields inside a company. -/
def LHdr.inner (h : LHdr) : List Nat := (List.range (h.clevel - 1)).map (· + 1)
/-- The fields that number companies. -/
def LHdr.outer (h : LHdr) : List Nat := (List.range (6 - h.clevel)).map (· + h.clevel)
/-- The positions whose cohorts are created: fields 1 to CLEVEL − 1 lie below their extents (R178). -/
def LHdr.positions (h : LHdr) : List Nat :=
  (List.range h.k).filter fun j => h.inner.all fun i => decide (j / 2 ^ (h.lo i - 6) % 2 ^ h.width i ≤ h.last i)
/-- The role of a position (R186). -/
def LHdr.role (h : LHdr) (j : Nat) : Nat := if h.split ∧ h.nprod ≤ j then 1 else 0
/-- The vector floor of a position. -/
def LHdr.vfloor (h : LHdr) (j : Nat) : Nat := if h.role j = 0 then h.vfloor0 else h.vfloor1
/-- The vector floors of a company. -/
def LHdr.vsum (h : LHdr) : Nat := (h.positions.map h.vfloor).foldl (· + ·) 0
/-- The companies of a launch. -/
def LHdr.companies (h : LHdr) : Nat := (h.outer.map fun i => h.last i + 1).foldl (· * ·) 1
/-- The company number of the `n`-th company in ascending order (R323). -/
def LHdr.number (h : LHdr) (n : Nat) : Nat :=
  (h.outer.foldl (fun (p : Nat × Nat) i => (p.1 / (h.last i + 1), p.2 + p.1 % (h.last i + 1) * 2 ^ (h.lo i - h.loC))) (n, 0)).2

/-- Companies that one empty core holds (R192). -/
def LHdr.perCore (h : LHdr) : Nat :=
  ((List.range 33).filter fun m => decide (m * h.vsum ≤ 1024) && decide (m * h.tfloor ≤ 16) && decide (m * h.gfloor ≤ 128)
    && decide (m * h.lsgran ≤ 128) && decide (m * h.positions.length ≤ 32)).getLast?.getD 0

/-- Whether an entry point can be none (Table 7-2). -/
def entryBad (e : DWord) : Bool := e.getLsbD 0 || decide (2 ^ 55 ≤ e.toNat)

/-- The least cause for which a header is refused (Table 7-2). -/
def headerCause (bs : List Byte) : Option Nat :=
  let h := headerOf bs
  let sum := h.w.foldl (· + ·) 0
  if h.w.any (fun w => decide (58 < w)) || decide (64 < 6 + sum) then some 1
  else if ([1, 2, 3, 4, 5].any fun i => decide (2 ^ h.width i ≤ h.last i)) || decide (63 < h.n0m1) then some 2
  else if h.clevel = 0 ∨ 5 < h.clevel ∨ 4 < h.loC - 6 then some 3
  else if (if h.split then h.nprod == 0 || h.ncons == 0 || h.nprod + h.ncons != h.k
      else h.nprod != 0 || h.ncons != 0 || h.vfloor1 != 0 || h.entry1 != 0#64) then some 4
  else if 64 < h.vfloor0 ∨ 64 < h.vfloor1 ∨ 16 < h.tfloor ∨ 128 < h.gfloor ∨ 128 < h.lsgran ∨ 1024 < h.vsum then some 5
  else if entryBad h.entry0 || (h.split && entryBad h.entry1) then some 6
  else if 8 ≤ pkt bs 6 1 ∨ 16 ≤ pkt bs 7 1 ∨ 1 < h.cls ∨ pkt bs 0x48 56 ≠ 0 then some 7
  else if h.persist && decide (512 * h.perCore < h.companies) then some 8
  else none

/-! ## Contexts -/

/-- An entry of the IMGTAB table: VALID, base, size in 4 KiB units, cr.tctl at creation (R386). -/
def Device.imgEntry (d : Device) (asid : Nat) : Bool × Nat × Nat × Word :=
  let a := bits (d.reg 0x6010) 47 16 * 0x10000 + 16 * asid
  let w := d.walkRead a 8
  (bit w 0, bits w 47 12 * 4096, d.walkRead (a + 8) 4, BitVec.ofNat 32 (d.walkRead (a + 12) 4 % 8))

/-- Create the context of an ASID: the next CTXID, cr.tctl from IMGTAB, and everything else at reset (R28, R372, R412). -/
def State.createContext (s : State) (asid : Nat) : State :=
  let n := s.dev.boot.ctxid + 1
  let c := { Context.null with asid := asid, alive := true, stat := .live, ctxid := n, tctl := (s.dev.imgEntry asid).2.2.2 }
  let d := { s.dev with boot := { s.dev.boot with ctxid := n }, contexts := insertContext c s.dev.contexts }
  s.setDev d

/-- Whether a context takes part in placement and issue: it is not being saved, saved, stopped or ended (R327, R383). -/
def State.cxLive (s : State) (asid : Nat) : Bool := (s.context? asid).any fun c => c.stat == .live

/-! ## Cohorts and companies -/

/-- A cohort as it starts: em the present mask, s0 and s1 KARG, every other register 0 (R182, R355). -/
def Cohort.start (h : LHdr) (cwid karg : DWord) (j : Nat) : Cohort :=
  let n0 := h.n0m1 + 1
  { Cohort.null with
    j := j, role := h.role j, n0 := n0, wid := cwid ||| BitVec.ofNat 64 (j * 64), stat := .running, atEntry := true
    pc := (if h.role j = 0 then h.entry0 else h.entry1).setWidth 56, em := BitVec.ofNat 64 (2 ^ n0 - 1)
    s := Store.set 0#32 (Store.set 0#32 [] 0 (lo32 karg)) 1 (hi32 karg) }

/-- A company of a launch, with the next DSEQ (R179, R323). -/
def State.makeCompany (s : State) (asid : Nat) (l : Launch) (num : Nat) (p : Place) : State :=
  let cwid := BitVec.ofNat 64 (num * 2 ^ l.hdr.loC)
  let js := l.hdr.positions
  let h := { Company.null with
    dseq := s.dev.dseq, asid := asid, lseq := l.lseq, num := num, cwid := cwid, lhdr := l.lhdr, hdr := l.hdr, karg := l.karg
    pdist := l.pdist, node := l.node, place := p, created := js, cohorts := js.map (Cohort.start l.hdr cwid l.karg) }
  s.setDev { s.dev with dseq := s.dev.dseq + 1, companies := insertCompany h s.dev.companies }

/-- The hall whose queue takes company `num` of a launch; a hall that is quiesced passes its companies on (R324, R439). -/
def Device.hallFor (d : Device) (h : Nat) : Nat :=
  if (d.halls.getD (h % 4) Hall.reset).quiesce then (h + 1) % 4 else h % 4

/-- The companies in a hall's ready queue, oldest first. -/
def State.queueOf (s : State) (hall : Nat) : List Company := s.companies.filter fun h => h.place == .queued hall

/-- Change a launch of a context. -/
def State.mapLaunchOf (s : State) (asid : Nat) (lseq : Word) (f : Launch → Launch) : State :=
  s.onContext asid fun t => t.mapLaunch lseq f

/-- The dispatcher creates the next company of a launch; a full queue stalls it (R323 to R325). -/
def State.createNext (s : State) (asid : Nat) (l : Launch) : State :=
  let num := l.hdr.number l.made
  let hall := s.dev.hallFor (num + l.lseq.toNat)
  if !l.hdr.persist && decide (1024 ≤ (s.queueOf hall).length) then s
  else
    let first := if l.made = 0 then s.dev.dseq else l.first
    let t := s.makeCompany asid l num (if l.hdr.persist then .held else .queued hall)
    let t := t.mapLaunchOf asid l.lseq fun x => { x with made := x.made + 1, first := first }
    if l.made + 1 < l.total then t
    else t.setDev { t.dev with dispatch := t.dev.dispatch.filter fun x => x != (asid, l.lseq) }

/-- COMPANY_CREATE: the dispatcher goes on with the oldest launch whose context is neither being saved nor saved (R323,
R383). -/
def execCompanyCreate (s : State) : Out :=
  .next (match s.dev.dispatch.find? fun x => s.cxLive x.1 with
    | some x => match (s.context? x.1).bind fun c => c.launches.find? fun l => l.lseq == x.2 with
      | some l => s.createNext x.1 l
      | none => s.setDev { s.dev with dispatch := s.dev.dispatch.filter fun y => y != x }
    | none => s)

/-- CONSUMER_LAUNCH: a node, named by its absolute ASA, launches one more consumer company, and LASTL takes EMITTED (R190). -/
def State.consumerLaunch (s : State) (asa : Nat) : State :=
  match s.contexts.find? fun c => c.stat == .live && c.nodes.any fun n => n.asa == asa with
  | none => s
  | some c => match c.nodes.find? fun n => n.asa == asa with
    | none => s
    | some n => match c.launches.find? fun l => l.lseq == n.lseq with
      | none => s
      | some l =>
        let live := s.consumers c.asid n.lseq
        let num := n.count % 2 ^ (64 - l.hdr.loC)
        let hall := s.dev.hallFor (num + l.lseq.toNat)
        if s.dev.inCarve (nodeAt asa 0) 64 ∧ live < s.dev.nodeGet asa 0x0C 2 ∧ s.canConsume asa live ∧ (s.queueOf hall).length < 1024 then
          let t := s.makeCompany c.asid l num (.queued hall)
          let t := t.setDev (t.dev.nodeSet asa 0x24 4 (t.dev.nodeEmitted asa))
          t.onContext c.asid fun u => u.setCx { u.cx with
            nodes := u.cx.nodes.map fun x => if x.asa = asa then { x with count := x.count + 1 } else x
            launches := u.cx.launches.map fun x => if x.lseq = n.lseq then { x with made := x.made + 1 } else x }
        else s

/-- CONSUMER_LAUNCH. -/
def execConsumerLaunch (node : Nat) (s : State) : Out := .next (s.consumerLaunch node)

/-! ## Acceptance (R323, R349) -/

/-- Whether the dispatcher must hold a launch of a context from a queue: strict recording has no page for its record, or a
replay has another queue's ACCEPT next (R349, R400, R401). -/
def State.acceptHeld (s : State) (asid qid : Nat) : Bool :=
  let mine := s.recLive && bits (s.dev.reg 0x60000) 11 0 == asid
  mine && ((s.recMode == 1 && s.dev.recUnit.stuck 32) ||
    (s.recMode == 3 && (match s.dev.recUnit.expect.find? fun p => p.1 == 32 && p.2.kind == 11 with
      | some p => p.2.payload % 2 ^ 12 != qid
      | none => true)))

/-- Record the acceptance of a launch, or in replay pass its record (Table 15-2). -/
def State.logAccept (s : State) (asid qid : Nat) (lseq : Word) : State :=
  if bits (s.dev.reg 0x60000) 11 0 ≠ asid then s
  else if s.recLive && s.recMode == 3 then
    s.setDev { s.dev with recUnit := { s.dev.recUnit with expect := s.dev.recUnit.expect.eraseP fun p => p.1 == 32 && p.2.kind == 11 } }
  else s.logAtrium 11 0 (qid + lseq.toNat * 2 ^ 12)

/-- The dispatcher accepts a launch of an ASID: its context is created where there is none, recording begins, and it takes
the context's next launch sequence number (R349, R392, R412). The launch is given its number by `f`. -/
def State.accept (s : State) (asid qid : Nat) (f : Word → Launch) : State × Word :=
  let t := if (s.context? asid).isSome then s else s.createContext asid
  let idle := (t.context? asid).any fun c => c.launches.isEmpty && c.stat == .live
  let t := if idle then t.startRecording asid else t
  let n := (((t.context? asid).map (·.lseq)).getD 0#32) + 1#32
  let l := f n
  let t := t.onContext asid fun u => u.setCx { u.cx with lseq := n, launches := u.cx.launches ++ [l] }
  let t := if l.node.isSome then t else t.setDev { t.dev with dispatch := t.dev.dispatch ++ [(asid, n)] }
  ((t.logAccept asid qid n).traceLaunch 3 l.qid l.csn n l.total, n)

/-! ## Completion (R184) -/

/-- A launch of the current context completes: it finishes for its node, and its packet completes (R184, R189, R351). -/
def State.launchDone (s : State) (l : Launch) : State :=
  let t := s.finishFor l
  let t := t.setCx { t.cx with launches := t.cx.launches.filter fun x => x.lseq != l.lseq }
  ((t.traceLaunch 4 l.qid l.csn l.lseq 0).packetDone l.qid l.csn).graphDone

/-- Whether the current company can retire: every cohort has ended, and its copies, fills, stores and matrix work are
complete (R184). -/
def State.retireReady (s : State) : Bool :=
  s.coAll.cohorts.all (fun c => c.stat == .ended && c.ops.isEmpty) && s.co.fired.isEmpty &&
    !(s.dev.pieces.any fun p => match p.owner with
      | .cohort d _ => d == s.co.dseq
      | .packet _ _ => false) && !(s.dev.fills.any fun f => f.dseq == s.co.dseq)

/-- The current company is gone from its core, with the places it holds in the engine's FIFO. -/
def State.dropCompany (s : State) : State :=
  { s with
    dev := { s.dev with engines := s.dev.engines.filter fun e => e.dseq != s.co.dseq
                        fills := s.dev.fills.filter fun f => f.dseq != s.co.dseq
                        halls := s.dev.halls.map fun h => if h.block = some s.co.dseq then { h with block := none } else h }
    co := Company.null, me := Cohort.null }

/-- The current company retires: it releases what it holds, GLGEN moves for each slot, and its launch may complete (R79,
R184). -/
def State.retireCompany (s : State) : State :=
  let lseq := s.co.lseq
  let slots := s.co.slots.length
  let t := s.dropCompany
  let t := t.setCx { t.cx with glgen := t.cx.glgen + BitVec.ofNat 32 slots, srStale := t.cx.srStale.filter fun p => p.1 != s.co.dseq }
  let t := t.mapLaunch lseq fun l => { l with retired := l.retired + 1 }
  match t.cx.launches.find? fun l => l.lseq == lseq with
  | some l => if l.node.isSome then t.graphDone else if l.retired = l.total then t.launchDone l else t
  | none => t

end Sys2Proof.Machine
end

