-- ==== Sys2Proof/Machine/Sched.lean ====
section
/-!
DEFINITION. Placement (R325 to R329), the active set (R330 to R333), allocation deadlocks and the forced spill (R336 to
R341), and what a restored company takes up on placement (R391).
-/
namespace Sys2Proof.Machine

/-! ## Whether a company fits (R326) -/

/-- The companies on a core. -/
def State.on (s : State) (core : Nat) : List Company := s.companies.filter fun h => h.coreOf == some core

/-- The lowest run of `n` free 4 KiB granules of a core's local store. -/
def lsRun (used : List (Nat × Nat)) (n : Nat) : Option Nat :=
  (List.range (129 - n)).find? fun b => used.all fun u => decide (b + n ≤ u.1 ∨ u.1 + u.2 ≤ b)

/-- The local-store runs that companies of a core hold. -/
def State.lsUsed (s : State) (core : Nat) : List (Nat × Nat) :=
  ((s.on core).filter fun h => h.hdr.lsgran != 0).map fun h => (h.lsBase, h.hdr.lsgran)

/-- The resident slots of a core that no cohort holds, ascending. -/
def State.freeSlots (s : State) (core : Nat) : List Nat :=
  let used := (s.on core).flatMap fun h => h.cohorts.map (·.slot)
  (List.range 32).filter fun i => !used.contains i

/-- Whether the core's class allows a company: one class at a time while recording (R329). -/
def State.classOk (s : State) (core : Nat) (h : Company) : Bool :=
  !(s.recLive && s.recMode != 3) || (s.on core).all fun x => x.hdr.cls == h.hdr.cls

/-- Whether a company fits on a core (R326, R329, R340, R439): its floors, and what a restored company held. -/
def State.fits (s : State) (h : Company) (core : Nat) : Bool :=
  decide (core < 512) && decide (h.vused ≤ s.vfreeOf core) && decide (h.tused ≤ s.tfreeOf core) && decide (h.gused ≤ s.gfreeOf core)
    && (lsRun (s.lsUsed core) h.hdr.lsgran).isSome && decide (h.cohorts.length ≤ (s.freeSlots core).length)
    && s.classOk core h && !((s.on core).any fun x => x.spill.isSome)
    && !((s.dev.halls.getD (core / 128) Hall.reset).quiesce)

/-- The core on which a replay places a company: its PLACE record (R401). -/
def State.placeRec (s : State) (dseq : Nat) : Option Nat :=
  (s.dev.recUnit.expect.find? fun p => p.2.kind == 0 && p.2.payload % 2 ^ 40 == dseq % 2 ^ 40).map fun p => p.1 * 16 + p.2.core

/-- Whether replay lets a company be placed on a core. -/
def State.placeDue (s : State) (h : Company) (core : Nat) : Bool :=
  !(s.replaying && bits (s.dev.reg 0x60000) 11 0 == h.asid) || s.placeRec h.dseq == some core

/-! ## Placing (R326, R391) -/

/-- A window that a restore leaves as it was, or with LIMIT 0 when its PTGEN is stale (R44). -/
def Device.freshWindow (d : Device) (w : Window) : Window :=
  if w.kind = 1 ∧ w.gen ≠ ptgenOf d w.base.toNat w.asid.toNat then { w with limit := 0#32 } else w

/-- The source of a refill: its segments, none where the translation does not perform; and whether it waits for a carve
change (R307, R391). -/
def State.refillSource (s : State) (va : Nat) : State × Option (List Seg) × Bool :=
  (cutRun 16 2 va 0 65536).foldl (fun (p : State × Option (List Seg) × Bool) x =>
    let q := translate p.1.dev p.1.co.asid false .load .plain (va + x.1)
    let t := p.1.setDev q.1
    match q.2 with
    | .at l => (t, p.2.1.map fun g => g ++ [{ loc := l, len := x.2 }], p.2.2)
    | .wait => (t, p.2.1, true)
    | .fault _ => (t, none, p.2.2)) (s, some [], false)

/-- Refill a slot of the current company from its SRCVA; one that does not translate is poison throughout (R307, R391). -/
def State.refill (s : State) (i : Nat) : State :=
  let x := s.co.slotAt i
  if x.valid = false then s.mapSlot i fun y => { y with returned := false }
  else
    let p := s.refillSource x.srcva.toNat
    match p.2.1 with
    | some src =>
      let f : Fill := { id := p.1.dev.nextId, dseq := p.1.co.dseq, j := 16, slot := i, srcva := x.srcva, same := true, src := src
                        asked := false, buf := [], bad := [], refill := true }
      let t := p.1.mapSlot i fun y => { y with returned := false, gen := ptgenOf p.1.dev x.srcva.toNat p.1.co.asid }
      t.setDev { t.dev with fills := t.dev.fills ++ [f], nextId := t.dev.nextId + 1 }
    | none => p.1.mapSlot i fun y =>
      { y with returned := false, poison := true, bytes := [], bad := (List.range 4096).map fun g => (g, true) }

/-- Whether a refill of a company's slots waits for a carve change (R23, R307). -/
def State.refillWaits (s : State) (h : Company) (only : Slot → Bool) : Bool :=
  (h.slots.filter fun x => x.valid && only x).any fun x =>
    ((s.setCo { Company.null with asid := h.asid }).refillSource x.srcva.toNat).2.2

/-- Rebuild the cohorts of the current, restored company for its core: windows, cr.fframe, and the handler of R391. -/
def State.rebuild (s : State) (c : Cohort) : Cohort :=
  let fva := bits (s.dev.reg 0x2208) 55 24 * 0x1000000 + s.core * 0x8000 + c.slot * 0x400
  let c := { c with win := c.win.map fun (w : Nat × Window) => (w.1, s.dev.freshWindow w.2) }
  let c := (c.crput 0x30 (BitVec.ofNat 32 fva)).crput 0x31 (BitVec.ofNat 32 (fva / 2 ^ 32))
  match c.stat with
  | .stopped _ => { c with stat := .running, wait := .none, active := false, stopDue := 0 }
  | _ => c

/-- What a restored company takes up on placement (R44, R305, R391): tiles with DIRTY clear, slots refilled, gangs at the
engine's tail, and every cohort after the acquire side of a FENCE.POD. -/
def State.takeUp (s : State) : State :=
  let t := s.setCo { s.co with dirty := [], cohorts := s.co.cohorts.map s.rebuild }
  let t := t.setDev (t.dev.applyAll t.hall)
  let t := (List.range t.co.slots.length).foldl State.refill t
  let es := t.dev.engines.filter fun e => e.dseq == t.co.dseq
  let t := t.setDev { t.dev with engines := (t.dev.engines.filter fun e => e.dseq != t.co.dseq) ++ es.map fun e => { e with core := t.core } }
  t.grantHead (t.dev.engines.length + 1) t.core

/-- Give cohorts the resident slots of a list, in ascending index. -/
def seatCohorts : List Cohort → List Nat → List Cohort
  | c :: cs, k :: ks => { c with slot := k, active := false } :: seatCohorts cs ks
  | cs, _ => cs

/-- cr.clause of a cohort that has begun no clause: the word at its entry point, its entry header (Table 8-6); where the fetch does not
perform the register keeps 0 (DESIGN CHOICE, log entry 85). -/
def State.entryClause (s : State) (c : Cohort) : Cohort :=
  if c.atEntry then { c with clause := (s.fetchWord false c.pc.toNat).2.getD c.clause } else c

/-- Place a company that fits on a core: floors are reserved, and of slots granted, its run is zeroed, and each cohort's
placement is recorded (R58, R77, R326, Table 15-2). -/
def State.placeOn (s : State) (dseq core : Nat) : State :=
  s.onCompany dseq fun t =>
    let t := t.parkMe
    let js := t.co.cohorts.map (·.j)
    let base := (lsRun (t.lsUsed core) t.co.hdr.lsgran).getD 0
    let seats := t.freeSlots core
    let co := { t.co with place := .core core, lsBase := base, cohorts := (seatCohorts t.co.cohorts seats).map t.entryClause }
    let t := (t.setCo co).setDev { t.dev with halls := t.dev.halls.map fun h => if h.block = some dseq then { h with block := none } else h }
    let t := if t.co.restored then t.takeUp else t.grantSlots t.co.hdr.gfloor 128
    js.foldl (fun t j => t.onCohort dseq j fun u => u.log 0 (dseq % 2 ^ 40 + j * 2 ^ 40)) t

/-! ## Choosing (R325, R327, R328) -/

/-- The companies of a hall's queue that can be considered: their contexts are live (R327). -/
def State.ready (s : State) (hall : Nat) : List Company := (s.queueOf hall).filter fun h => s.cxLive h.asid

/-- DSEQ of the first company of each persistent launch that is held (R325). -/
def State.heldFirst (s : State) : Option Nat :=
  ((s.companies.filter fun h => h.place == .held && s.cxLive h.asid).map (·.dseq)).head?

/-- The companies of a hall's queue that placement may take now, oldest first: none younger than a blocking head or a held
persistent launch (R325, R327). -/
def State.allowed (s : State) (hall : Nat) : List Company :=
  let q := match (s.dev.halls.getD hall Hall.reset).block with
    | some d => (s.ready hall).filter fun h => decide (h.dseq ≤ d)
    | none => s.ready hall
  match s.heldFirst with
  | some d => q.filter fun h => decide (h.dseq < d)
  | none => q

/-- The cores of a cluster. -/
def coresOf (cluster : Nat) : List Nat := (List.range 16).map (· + 16 * cluster)

/-- The core of a cluster on which a company is placed: that with the most free vector registers, then the lowest (R327). -/
def State.bestCore (s : State) (h : Company) (cluster : Nat) : Option Nat :=
  ((coresOf cluster).filter fun c => s.fits h c).foldl (fun m c => match m with
    | some b => if s.vfreeOf b < s.vfreeOf c then some c else some b
    | none => some c) none

/-- Place a company on a core if the cluster would choose it there: the oldest allowed company that fits in the cluster. -/
def State.placeFrom (s : State) (cluster hall dseq core : Nat) : State :=
  match (s.allowed hall).find? fun h => (s.bestCore h cluster).isSome with
  | some h =>
    if s.replaying then
      (match (s.ready hall).find? fun h => h.dseq == dseq with
        | some h => if s.fits h core && s.placeDue h core && !s.refillWaits h (fun _ => true) then s.placeOn dseq core else s
        | none => s)
    else if h.dseq = dseq ∧ s.bestCore h cluster = some core ∧ s.refillWaits h (fun _ => h.restored) = false then s.placeOn dseq core
    else s
  | none => s

/-- COMPANY_PLACE: a cluster places a company of its own hall's queue (R327). -/
def execCompanyPlace (dseq core : Nat) (s : State) : Out := .next (s.placeFrom (core / 16) (core / 128) dseq core)

/-- HEAD_BLOCK: the head of a queue, there too long, blocks younger placements from it (R327). -/
def execHeadBlock (hall : Nat) (s : State) : Out :=
  .next (match (s.ready hall).head? with
    | some h => s.setDev { s.dev with halls := s.dev.halls.mapIdx fun i x => if i = hall then { x with block := some h.dseq } else x }
    | none => s)

/-- The hall queue from which a cluster steals: that with the most companies, then the lowest-numbered (R328). -/
def State.stealFrom (s : State) : Nat :=
  (List.range 4).foldl (fun b h => if (s.queueOf b).length < (s.queueOf h).length then h else b) 0

/-- COMPANY_STEAL: a cluster whose hall's queue is empty and which has an idle core takes a company elsewhere (R328). -/
def execCompanySteal (cluster dseq core : Nat) (s : State) : Out :=
  .next (if cluster < 32 ∧ core / 16 = cluster ∧ (s.queueOf (cluster / 8)).isEmpty ∧ (coresOf cluster).any (fun c => (s.on c).isEmpty)
      then s.placeFrom cluster s.stealFrom dseq core else s)

/-- Place companies one after another, each on the next core of a list; none if one does not fit. -/
def State.placeAll (s : State) : List Company → List Nat → Option State
  | [], _ => some s
  | h :: hs, c :: cs =>
    if s.fits h c && s.placeDue h c && !s.refillWaits h (fun _ => h.restored) then (s.placeOn h.dseq c).placeAll hs cs else none
  | _ :: _, [] => none

/-- PERSISTENT_PLACE: the oldest held persistent launch is placed whole, in one step (R192, R325). -/
def execPersistentPlace (cores : List Nat) (s : State) : Out :=
  .next (match s.heldFirst.bind fun d => s.companies.find? fun h => h.dseq == d with
    | some h =>
      let all := s.companies.filter fun x => x.asid == h.asid && x.lseq == h.lseq && x.place == .held
      let whole := ((s.context? h.asid).bind fun c => c.launches.find? fun l => l.lseq == h.lseq).any fun l => l.made == l.total
      if whole then (s.placeAll all cores).getD s else s
    | none => s)

/-! ## The active set (R330 to R333) -/

/-- Active cohorts of a core that have not ended. -/
def State.activeOn (s : State) (core : Nat) : List (Nat × Cohort) :=
  (s.on core).flatMap fun h => (h.cohorts.filter fun c => c.active && c.stat != .ended).map fun c => (h.dseq, c)

/-- Whether the wait of a pending cohort is over, as far as the device can tell without issuing it (R331, R332, log entry
2). -/
def State.waitOver (s : State) (h : Company) (c : Cohort) (core : Nat) : Bool :=
  let launch := (s.context? h.asid).bind fun x => x.launches.find? fun l => l.lseq == h.lseq
  match c.wait with
  | .none | .flags | .drain | .cpyw => true
  | .bar => h.barDone.any fun p => p.1 == c.j
  | .gbarw => launch.any fun l => decide (c.gcount ≤ l.gphase)
  | .macq => s.dev.engineOwned h.dseq c.gang
  | .latch => !(h.latches.any fun l => l.arrived.any fun a => a.j == c.j)
  | .allocV => decide (0 < s.vfreeOf core) && !s.older h core .allocV
  | .allocT => decide (0 < s.tfreeOf core) && !s.older h core .allocT
  | .allocG => decide (0 < s.gfreeOf core) && !s.older h core .allocG
  | .sema | .emit | .pool | .time => false

/-- Whether a pending cohort is ready: its company is on a core, no stop is due and its wait is over (R331). -/
def State.pendingReadyAt (s : State) (h : Company) (c : Cohort) : Bool :=
  match h.coreOf with
  | some core => c.stat == .running && !c.active && (c.stopDue == 0 || c.stopDue == 1) && s.waitOver h c core
  | none => false

/-- A cohort enters the active set. -/
def State.activate (s : State) : State :=
  let t := s.setMe { s.me with active := true, wait := .none, since := s.dev.order }
  t.setDev { t.dev with order := t.dev.order + 1 }

/-- ACTIVE_SET_FILL: a ready pending cohort takes a free place of its core's eight (R333). -/
def execActiveSetFill (dseq j : Nat) (s : State) : Out :=
  .next (s.onCohort dseq j fun t =>
    if t.pendingReadyAt t.coAll t.me ∧ (t.activeOn t.core).length < 8 then t.activate else t)

/-- The active cohort of a core that entered earliest. -/
def earliest : List (Nat × Cohort) → Option (Nat × Cohort)
  | [] => none
  | x :: xs => match earliest xs with
    | some y => if y.2.since < x.2.since then some y else some x
    | none => some x

/-- ACTIVE_SET_DISPLACE: a pending cohort that has long been ready takes the place of the cohort that entered earliest
(R333). -/
def execActiveSetDisplace (dseq j : Nat) (s : State) : Out :=
  .next (s.onCohort dseq j fun t =>
    if t.pendingReadyAt t.coAll t.me ∧ 8 ≤ (t.activeOn t.core).length then
      match earliest (t.activeOn t.core) with
      | some x => (t.onCohort x.1 x.2.j fun u => u.setMe { u.me with active := false }).activate
      | none => t
    else t)

/-- WAITTIME_EXPIRY: the cohort executes its faulting instruction again (R50). -/
def execWaittimeExpiry (dseq j : Nat) (s : State) : Out :=
  .next (s.onCohort dseq j fun t =>
    if t.me.stat = .running ∧ t.me.wait = .time then t.setMe { t.me with wait := .none } else t)

/-! ## Exhaustion (R338, R339, R341) -/

/-- Whether a cohort is a stalled requester, and for what (R338). -/
def Cohort.requests (c : Cohort) : Bool := c.stat == .running && (c.wait == .allocV || c.wait == .allocT || c.wait == .allocG)

/-- Whether a company holds, above its floors, a resource of a kind that is awaited (R339). -/
def Company.above (h : Company) (w : Wait) : Bool :=
  match w with
  | .allocV => h.cohorts.any fun c => decide (h.vfloor c.role < c.vcount)
  | .allocT => decide (h.hdr.tfloor < h.tiles.length)
  | .allocG => decide (h.hdr.gfloor < (h.slots.filter fun x => !x.returned).length)
  | _ => false

/-- The youngest of some companies. -/
def youngest (hs : List Company) : Option Company := hs.getLast?

/-- #RES in a company: at the stalled instruction of its lowest stalled cohort, else at the next boundary of its lowest
cohort that has not ended; one in the handler holds it (R341, R374). -/
def State.chargeRes (s : State) (h : Company) (sub : Nat) : State :=
  let live := h.cohorts.filter fun c => c.stat != .ended
  let who := match live.filter Cohort.requests with
    | c :: _ => some (c.j, true)
    | [] => (live.head?).map fun c => (c.j, false)
  match who with
  | some (j, stalled) => s.onCohort h.dseq j fun t =>
      if t.me.handler && !stalled then t.setMe { t.me with heldTrap := some { code := 9, sub := sub, mask := t.me.present, imm := 0 } }
      else t.queueTrap 9 sub t.me.present 0
  | none => s

/-- ALLOCATION_DEADLOCK: the youngest holder of what is awaited is stopped for a spill, or #RES is raised (R339, R341). -/
def State.deadlock (s : State) (core : Nat) : State :=
  let hs := s.on core
  let reqs := hs.filter fun h => h.cohorts.any Cohort.requests
  let kinds := (hs.flatMap fun h => (h.cohorts.filter Cohort.requests).map (·.wait)).eraseDups
  let holders := hs.filter fun h => kinds.any h.above
  if reqs.isEmpty ∨ hs.any (fun h => h.victim) then s
  else match youngest holders with
    | none => match youngest reqs with
      | some h => s.chargeRes h 2
      | none => s
    | some v =>
      if bit (s.dev.reg 0x4000) 0 = false then s.chargeRes v 1
      else if holders.length = 1 ∧ reqs.all (fun h => h.dseq == v.dseq) then s.chargeRes v 2
      else s.onCompany v.dseq fun t =>
        let due (c : Cohort) : Cohort := if c.stat = .ended ∨ c.stopDue ≠ 0 then c else { c with stopDue := 5 }
        (t.setCo { t.co with victim := true, cohorts := t.co.cohorts.map due }).setMe (if t.me.stat = .absent then t.me else due t.me)

/-- ALLOCATION_DEADLOCK. -/
def execAllocationDeadlock (core : Nat) (s : State) : Out := .next (s.deadlock core)

/-! ## The forced spill (R336, R339) -/

/-- Local offset of the area of a company on its core (R336). -/
def State.areaOf (s : State) (h : Company) : Nat :=
  let c := (h.cohorts.foldl (fun (m : Option Cohort) c => match m with
    | some b => if c.j < b.j then some c else some b
    | none => some c) none).getD Cohort.null
  bits (s.dev.reg 0x4000) 47 33 * 2 ^ 33 + (s.core * 32 + c.slot) * 0x80000

/-- Where the area holds a register of a cohort (log entry 6). -/
def spillReg (area j r : Nat) : Nat := area + (j * 64 + r) * 256
/-- Where the area holds a tile. -/
def spillTile (area t : Nat) : Nat := area + 0x40000 + t * 0x4000

/-- The vector names that a spill takes from a cohort: the highest, down to its floor (R339). -/
def Company.spillNames (h : Company) (c : Cohort) : List Nat := (c.v.map (·.1)).drop (h.vfloor c.role)

/-- The bytes of a register, lane by lane. -/
def VReg.bytes (v : VReg) : List Byte := (List.range 64).flatMap fun i => leBytes 4 (v.lane i).toNat
/-- The bytes of a tile, element by element (R388). -/
def Tile.bytes (t : Tile) : List Byte := (List.range 4096).flatMap fun k => leBytes 4 (Store.get 0#32 t.w k).toNat
/-- A tile from its bytes and its poisoned elements. -/
def tileFrom (bs : List Byte) (p : Store Bool) : Tile :=
  let a := bs.toArray
  let word (k : Nat) : Word := BitVec.ofNat 32 (leNat ((List.range 4).map fun i => a.getD (4 * k + i) 0#8))
  { w := (List.range 4096).filterMap fun k => if word k = 0#32 then none else some (k, word k), poison := p }
/-- A register from its bytes and its poisoned lanes. -/
def vregOf (bs : List Byte) (p : Mask) : VReg :=
  let a := bs.toArray
  { VReg.build (fun i => BitVec.ofNat 32 (leNat ((List.range 4).map fun k => a.getD (4 * i + k) 0#8))) with poison := p }

/-- Whether every cohort of the current company stands still with nothing to write, and its matrix work is done. -/
def State.stillCompany (s : State) : Bool :=
  s.coAll.cohorts.all (fun c => c.stat == .ended || (match c.stat with
    | .stopped _ => c.drained
    | _ => false)) && s.co.fired.isEmpty

/-- The spill of the current company, with its cohorts all listed (R339, steps 3 to 6). Of the tiles, those are written that do
not stand in the area already: DIRTY, or loaded by a restore. -/
def State.spillCompany (s : State) : State :=
  let h := s.co
  let area := s.areaOf h
  let regs := h.cohorts.flatMap fun c => (h.spillNames c).map fun r => (c.j, r, c.vget r)
  let names := (h.tiles.map (·.1)).drop h.hdr.tfloor
  let tiles := names.map fun t => (t, h.tileOf t)
  let d := regs.foldl (fun d x => d.putP (spillReg area x.1 x.2.1) x.2.2.bytes 0#64) s.dev
  let d := tiles.foldl (fun d x => if Store.get false h.dirty x.1 || h.restored then d.putP (spillTile area x.1) x.2.bytes 0#64 else d) d
  let kept := h.spill.getD { area := area, regs := [], tiles := [] }
  let sp : Spill := { area := area, regs := kept.regs ++ regs.map fun x => (x.1, x.2.1, x.2.2.poison)
                      tiles := kept.tiles ++ tiles.map fun x => (x.1, x.2.poison) }
  let co := { h with
    cohorts := h.cohorts.map fun c => (h.spillNames c).foldl Cohort.vfree c
    tiles := names.foldl (fun m t => Store.set none m t none) h.tiles
    dirty := names.foldl (fun m t => Store.set false m t false) h.dirty
    slots := h.slots.mapIdx fun i x => if h.hdr.gfloor ≤ i then { x with returned := true } else x
    spill := some sp, victim := false }
  (s.setCo co).setDev (d.setField 0x4008 15 0 (min (bits (d.reg 0x4008) 15 0 + 1) 0xFFFF))

/-- Record a spill or reload for every cohort of the current company that has not ended (R340, Table 15-2). -/
def State.logSpill (s : State) (x : Nat) : State :=
  ((s.co.cohorts.filter fun c => c.stat != .ended).map (·.j)).foldl (fun t j => t.onCohort s.co.dseq j fun u => u.log 8 x) s

/-- Whether a replay bars the spill or reload of the current company: some cohort's next record is not that one (R401). -/
def State.spillBarred (s : State) (x : Nat) : Bool :=
  (s.co.cohorts.filter fun c => c.stat != .ended).any fun c =>
    let t := s.setMe c
    t.replayBars [8] || (t.replays && t.expected.any fun e => e.payload % 2 != x)

/-- FORCED_SPILL (R339). -/
def execForcedSpill (dseq : Nat) (s : State) : Out :=
  .next (s.onCompany dseq fun t =>
    let t := t.parkMe
    if t.co.victim ∧ t.co.coreOf.isSome ∧ t.stillCompany ∧ s.cxLive t.co.asid ∧ t.spillBarred 0 = false then t.spillCompany.logSpill 0 else t)

/-- What a spilled company's area holds goes back to its registers and tiles, DIRTY clear (R340). -/
def State.unspill (s : State) : State :=
  match s.co.spill with
  | none => s
  | some sp =>
    let d := s.dev
    let back (c : Cohort) : Cohort := (sp.regs.filter fun x => x.1 == c.j).foldl (fun c x =>
      let a := spillReg sp.area x.1 x.2.1
      let bad := maskOf ((List.range 64).filter fun i => d.badAt (a + 4 * i))
      c.vput x.2.1 ((vregOf (d.bytes a 256) (x.2.2 ||| bad)).within c.present)) c
    let load (p : Nat × Store Bool) : Tile :=
      let a := spillTile sp.area p.1
      tileFrom (d.bytes a 0x4000) ((List.range 4096).filterMap fun k =>
        if Store.get false p.2 k || d.badAt (a + 4 * k) then some (k, true) else none)
    s.setCo { s.co with
      cohorts := s.co.cohorts.map back
      tiles := sp.tiles.foldl (fun m p => Store.set none m p.1 (some (load p))) s.co.tiles
      spill := none }

/-- Whether the core has what a spilled company's reload needs, and no older request waits for it (R340). -/
def State.reloadGranted (s : State) (sp : Spill) (core : Nat) : Bool :=
  let need := fun (w : Wait) => !s.older s.co core w
  let slots := (s.co.slots.filter fun x => x.returned).length
  decide (sp.regs.length ≤ s.vfreeOf core) && decide (sp.tiles.length ≤ s.tfreeOf core) && decide (slots ≤ s.gfreeOf core)
    && (sp.regs.isEmpty || need .allocV) && (sp.tiles.isEmpty || need .allocT) && (slots == 0 || need .allocG)

/-- RELOAD: a spilled company takes everything back and resumes (R340). -/
def execReload (dseq : Nat) (s : State) : Out :=
  .next (s.onCompany dseq fun t =>
    let t := t.parkMe
    match t.co.spill, t.co.coreOf with
    | some sp, some core =>
      if t.reloadGranted sp core ∧ s.cxLive t.co.asid ∧ t.refillWaits t.co (fun x => x.returned) = false ∧
          t.spillBarred 1 = false then
        let slots := (List.range t.co.slots.length).filter fun i => (t.co.slotAt i).returned
        let u := slots.foldl State.refill t.unspill
        let go (c : Cohort) : Cohort := match c.stat with
          | .stopped _ => { c with stat := .running, wait := .none, active := false, stopDue := 0 }
          | _ => c
        let v := (u.logSpill 1).parkMe
        v.setCo { v.co with cohorts := v.co.cohorts.map go }
      else t
    | _, _ => t)

end Sys2Proof.Machine
end

