-- ==== Sys2Proof/Decode.lean ====
section
/-!
DEFINITION. Decoding of instruction bytes and the encoder, both from the layouts and the opcode map of
08 (Tables 8-1 to 8-10) and the operand tables 9-1, 10-1 and 11-1. Decoding is total: bytes give an
instruction or the cause of #ILL that R217 reports first.
-/
namespace Sys2Proof

/-- The fields of a 32-bit word (Table 8-3) and the literal that follows it. -/
structure Raw where
  m3 : Bool
  mn : Nat
  mnb : BitVec 3
  mb : Bool
  ma : Bool
  b : Reg
  a : Reg
  d : Reg
  maj : Nat
  u : Bool
  lit : Word
  deriving DecidableEq, Repr

/-- A decoded instruction, and whether a field of the word breaks R203 or R204 or a mark breaks R205. -/
structure Parsed where
  i : Instr
  field : Bool
  mark : Bool
  deriving DecidableEq, Repr

/-- Table 8-3: the fields of a word. -/
def Raw.ofWord (w lit : Word) : Raw :=
  { m3 := w.getLsbD 31, mn := (w.extractLsb' 28 3).toNat, mnb := w.extractLsb' 28 3
    mb := w.getLsbD 27, ma := w.getLsbD 26
    b := w.extractLsb' 20 6, a := w.extractLsb' 14 6, d := w.extractLsb' 8 6
    maj := (w.extractLsb' 2 6).toNat, u := w.getLsbD 1, lit := lit }

/-- b[5:3] as a number. -/
def Raw.bhi (r : Raw) : Nat := (r.b.extractLsb' 3 3).toNat
/-- b[5:3]. -/
def Raw.bhib (r : Raw) : BitVec 3 := r.b.extractLsb' 3 3
/-- b[2:0]. -/
def Raw.blo (r : Raw) : BitVec 3 := r.b.extractLsb' 0 3
/-- minor[2], the ordering bit of R219. -/
def Raw.ord (r : Raw) : Bool := r.mnb.getLsbD 2
/-- minor[1:0], the scope of R219. -/
def Raw.scope (r : Raw) : BitVec 2 := r.mnb.extractLsb' 0 2

/-- The b operand of a major of kind A (R204). -/
def Raw.bop (r : Raw) : BOp :=
  if r.m3 then (if r.b = 63#6 then .lit r.lit else .s r.b) else .v r.b

/-- The b operand of a scalar major (R204). -/
def Raw.sop (r : Raw) : SOp := if r.m3 then .lit r.lit else .s r.b

/-- Two-source lane instructions; marks are checked by `Instr.ill`. -/
def Raw.lane2 (r : Raw) (c : Lane2 → Instr) : Parsed :=
  { i := c { d := r.d, a := r.a, b := r.bop, ma := r.ma, mb := r.mb, u := r.u }, field := false, mark := false }

/-- Unary lane instructions: a must be 0, so a mark on it is no mark on a vector (R204, R205). -/
def Raw.lane1 (r : Raw) (c : Lane1 → Instr) : Parsed :=
  { i := c { d := r.d, b := r.bop, mb := r.mb, u := r.u }, field := r.a != 0#6, mark := r.ma }

/-- Shuffles. -/
def Raw.shfl (r : Raw) (c : Shfl → Instr) : Parsed :=
  { i := c { d := r.d, a := r.a, b := r.bop, ma := r.ma, mb := r.mb }, field := false, mark := false }

/-- Lane reductions: b must be 0. -/
def Raw.lred (r : Raw) (c : Reg → Reg → Bool → Instr) : Parsed :=
  { i := c r.d r.a r.ma, field := r.m3 || r.b != 0#6, mark := r.mb }

/-- Scalar instructions: minor[3] = 1 needs b = 63 (R204); no field is a vector. -/
def Raw.salu (r : Raw) (c : Reg → Reg → SOp → Instr) : Parsed :=
  { i := c r.d r.a r.sop, field := r.m3 && r.b != 63#6, mark := r.mb || r.ma }

/-- SMOV: unary, a must be 0. -/
noncomputable def Raw.smov (r : Raw) : Parsed :=
  { i := .smov r.d r.sop, field := (r.m3 && r.b != 63#6) || r.a != 0#6, mark := r.mb || r.ma }

/-- The operands of LD and ST (Table 10-1). -/
def Raw.memOps (r : Raw) : MemOps :=
  { f := r.m3, o := r.ord, c := r.scope, ma := r.ma, z := r.bhib, w := r.blo, a := r.a, d := r.d, u := r.u }

/-- ATOM, ATOMR, REDNI and BEW (Table 10-1). -/
def Raw.atom (r : Raw) (c : AtomOps → Instr) : Parsed :=
  { i := c { f := r.m3, q := r.ord, c := r.scope, ma := r.ma, z := r.b.getLsbD 2, w := r.b.extractLsb' 0 2,
             a := r.a, d := r.d, u := r.u }, field := false, mark := r.mb }

/-- REDNF and CELLRD: b[2] must be 0 (Table 10-1). -/
def Raw.cell (r : Raw) (c : CellOps → Instr) : Parsed :=
  { i := c { f := r.m3, q := r.ord, c := r.scope, ma := r.ma, w := r.b.extractLsb' 0 2, a := r.a, d := r.d, u := r.u },
    field := r.b.getLsbD 2, mark := r.mb }

/-- REDNF.CELLZ: vd must be 0 (R265). -/
noncomputable def Raw.cellz (r : Raw) : Parsed :=
  { i := .rednfCellz { f := r.m3, q := r.ord, c := r.scope, ma := r.ma, w := r.b.extractLsb' 0 2, a := r.a, u := r.u },
    field := r.b.getLsbD 2 || r.d != 0#6, mark := r.mb }

/-- Majors 0x3C to 0x3F: every field is ignored and nothing faults (R220). -/
noncomputable def Raw.hint (r : Raw) : Parsed :=
  { i := .hint (BitVec.ofBool r.m3 ++ r.mnb) r.mb r.ma r.b r.a r.d (BitVec.ofNat 2 r.maj) r.u, field := false, mark := false }

/-- Major 0x01 of Table 8-9. -/
noncomputable def parse01 (r : Raw) : Option Parsed :=
  match r.mn with
  | 0 => some (r.lane2 .iadd)
  | 1 => some (r.lane2 .isub)
  | 2 => some (r.lane2 .imul)
  | 3 => some (r.lane2 .imulhi)
  | 4 => some (r.lane2 .imulhu)
  | 5 => some (r.lane2 .imad)
  | 6 => some (r.lane2 .iadds)
  | 7 => some (r.lane2 .isubs)
  | _ => none

/-- Major 0x02 of Table 8-9. -/
noncomputable def parse02 (r : Raw) : Option Parsed :=
  match r.mn with
  | 0 => some (r.lane2 .and)
  | 1 => some (r.lane2 .or)
  | 2 => some (r.lane2 .xor)
  | 3 => some (r.lane2 .andn)
  | 4 => some (r.lane2 .shl)
  | 5 => some (r.lane2 .shr)
  | 6 => some (r.lane2 .sar)
  | 7 => some (r.lane2 .rotl)
  | _ => none

/-- Major 0x03 of Table 8-9. -/
noncomputable def parse03 (r : Raw) : Option Parsed :=
  match r.mn with
  | 0 => some (r.lane2 .imin)
  | 1 => some (r.lane2 .imax)
  | 2 => some (r.lane2 .umin)
  | 3 => some (r.lane2 .umax)
  | 4 => some (r.lane1 .clz)
  | 5 => some (r.lane1 .popc)
  | 6 => some (r.lane1 .brev)
  | 7 => some (r.lane1 .ineg)
  | _ => none

/-- Major 0x04 of Table 8-9. -/
noncomputable def parse04 (r : Raw) : Option Parsed :=
  match r.mn with
  | 0 => some (r.lane2 .bfx)
  | 1 => some (r.lane2 .bfxs)
  | 2 => some (r.lane2 .bfi)
  | 3 => some (r.lane2 .prmt)
  | 4 => some (r.lane2 .lsa1)
  | 5 => some (r.lane2 .lsa2)
  | 6 => some (r.lane2 .lsa3)
  | 7 => some (r.lane2 .lsa4)
  | _ => none

/-- Major 0x05 of Table 8-9. -/
noncomputable def parse05 (r : Raw) : Option Parsed :=
  match r.mn with
  | 0 => some (r.lane2 .icmpEq)
  | 1 => some (r.lane2 .icmpNe)
  | 2 => some (r.lane2 .icmpLt)
  | 3 => some (r.lane2 .icmpLe)
  | 4 => some (r.lane2 .icmpGt)
  | 5 => some (r.lane2 .icmpGe)
  | 6 => some (r.lane2 .icmpLtu)
  | 7 => some (r.lane2 .icmpGeu)
  | _ => none

/-- Major 0x06 of Table 8-9. -/
noncomputable def parse06 (r : Raw) : Option Parsed :=
  match r.mn with
  | 0 => some (r.lane2 .fcmpEq)
  | 1 => some (r.lane2 .fcmpNe)
  | 2 => some (r.lane2 .fcmpLt)
  | 3 => some (r.lane2 .fcmpLe)
  | 4 => some (r.lane2 .fcmpGt)
  | 5 => some (r.lane2 .fcmpGe)
  | 6 => some (r.lane2 .fcmpOrd)
  | 7 => some (r.lane2 .fcmpUnord)
  | _ => none

/-- Major 0x08 of Table 8-9. -/
noncomputable def parse08 (r : Raw) : Option Parsed :=
  match r.mn with
  | 0 => some (r.lane2 .fadd)
  | 1 => some (r.lane2 .fsub)
  | 2 => some (r.lane2 .fmul)
  | 3 => some (r.lane2 .ffma)
  | 4 => some (r.lane2 .fmin)
  | 5 => some (r.lane2 .fmax)
  | 6 => some (r.lane2 .ffms)
  | 7 => some (r.lane2 .fnma)
  | _ => none

/-- Major 0x09 of Table 8-9. -/
noncomputable def parse09 (r : Raw) : Option Parsed :=
  match r.mn with
  | 0 => some (r.lane1 .frcp)
  | 1 => some (r.lane1 .frsq)
  | 2 => some (r.lane1 .fsqrt)
  | 3 => some (r.lane1 .fexp2)
  | 4 => some (r.lane1 .flog2)
  | 5 => some (r.lane1 .fsin)
  | 6 => some (r.lane1 .fcos)
  | 7 => some (r.lane1 .ftanh)
  | _ => none

/-- Major 0x0A of Table 8-9. -/
noncomputable def parse0A (r : Raw) : Option Parsed :=
  match r.mn with
  | 0 => some (r.lane2 .hadd2)
  | 1 => some (r.lane2 .hsub2)
  | 2 => some (r.lane2 .hmul2)
  | 3 => some (r.lane2 .hfma2)
  | 4 => some (r.lane2 .hmin2)
  | 5 => some (r.lane2 .hmax2)
  | _ => none

/-- Major 0x0B of Table 8-9. -/
noncomputable def parse0B (r : Raw) : Option Parsed :=
  match r.mn with
  | 0 => some (r.lane2 .badd2)
  | 1 => some (r.lane2 .bsub2)
  | 2 => some (r.lane2 .bmul2)
  | 3 => some (r.lane2 .bfma2)
  | 4 => some (r.lane2 .bmin2)
  | 5 => some (r.lane2 .bmax2)
  | _ => none

/-- Major 0x0E of Table 8-9. -/
noncomputable def parse0E (r : Raw) : Option Parsed :=
  match r.mn with
  | 0 => some (r.lane2 .dot4i8)
  | 1 => some (r.lane2 .dot4z8)
  | 2 => some (r.lane2 .dot8i4)
  | 3 => some (r.lane2 .dot8z4)
  | 4 => some (r.lane2 .dot4e4)
  | 5 => some (r.lane2 .dot4e5)
  | 6 => some (r.lane2 .dot8e2)
  | 7 => some (r.lane2 .dot2bf)
  | _ => none

/-- Major 0x0F of Table 8-9. -/
noncomputable def parse0F (r : Raw) : Option Parsed :=
  match r.mn with
  | 0 => some (r.lane1 .mov)
  | 1 => some (r.lane1 .fabs)
  | 2 => some (r.lane1 .fneg)
  | 3 => some (r.lane1 .ffloor)
  | 4 => some (r.lane1 .fceil)
  | 5 => some (r.lane1 .ftrunc)
  | 6 => some (r.lane1 .frint)
  | 7 => some (r.lane1 .iabs)
  | _ => none

/-- Major 0x13 of Table 8-9. -/
noncomputable def parse13 (r : Raw) : Option Parsed :=
  match r.mn with
  | 0 => some (r.shfl .shfli)
  | 1 => some (r.shfl .shflu)
  | 2 => some (r.shfl .shfld)
  | 3 => some (r.shfl .shflx)
  | 4 => some (r.shfl .bcast)
  | _ => none

/-- Major 0x14 of Table 8-9. -/
noncomputable def parse14 (r : Raw) : Option Parsed :=
  match r.mn with
  | 0 => some (r.lred .lradd)
  | 1 => some (r.lred .lrmin)
  | 2 => some (r.lred .lrmax)
  | 3 => some (r.lred .lrand)
  | 4 => some (r.lred .lror)
  | 5 => some (r.lred .lrxor)
  | 6 => some (r.lred .lrfadd)
  | 7 => some (r.lred .lrfmax)
  | _ => none

/-- Major 0x15 of Table 8-9. -/
noncomputable def parse15 (r : Raw) : Option Parsed :=
  match r.mn with
  | 0 => some (r.salu .sadd)
  | 1 => some (r.salu .ssub)
  | 2 => some (r.salu .smul)
  | 3 => some (r.salu .sand)
  | 4 => some (r.salu .sor)
  | 5 => some (r.salu .sxor)
  | 6 => some (r.salu .sshl)
  | 7 => some (r.salu .sshr)
  | _ => none

/-- Major 0x16 of Table 8-9. -/
noncomputable def parse16 (r : Raw) : Option Parsed :=
  match r.mn with
  | 0 => some (r.salu .ssar)
  | 1 => some (r.salu .smin)
  | 2 => some (r.salu .smax)
  | 3 => some (r.salu .sminu)
  | 4 => some (r.salu .smaxu)
  | 5 => some (r.salu .sadd64)
  | 6 => some (r.salu .ssub64)
  | 7 => some (r.smov)
  | _ => none

/-- Major 0x17 of Table 8-9. -/
noncomputable def parse17 (r : Raw) : Option Parsed :=
  match r.mn with
  | 0 => some (r.salu .seq)
  | 1 => some (r.salu .sne)
  | 2 => some (r.salu .slt)
  | 3 => some (r.salu .sle)
  | 4 => some (r.salu .sgt)
  | 5 => some (r.salu .sge)
  | 6 => some (r.salu .sltu)
  | 7 => some (r.salu .sgeu)
  | _ => none

/-- Major 0x1E of Table 8-9: b[5:3] names the operation. -/
noncomputable def parse1E (r : Raw) : Option Parsed :=
  match r.bhi with
  | 0 => some (r.atom .atomAdd)
  | 1 => some (r.atom .atomMin)
  | 2 => some (r.atom .atomMax)
  | 3 => some (r.atom .atomAnd)
  | 4 => some (r.atom .atomOr)
  | 5 => some (r.atom .atomXor)
  | 6 => some (r.atom .atomXchg)
  | _ => some (r.atom .atomCas)

/-- Major 0x1F of Table 8-9: b[5:3] names the operation. -/
noncomputable def parse1F (r : Raw) : Option Parsed :=
  match r.bhi with
  | 0 => some (r.atom .atomrAdd)
  | 1 => some (r.atom .atomrMin)
  | 2 => some (r.atom .atomrMax)
  | 3 => some (r.atom .atomrAnd)
  | 4 => some (r.atom .atomrOr)
  | 5 => some (r.atom .atomrXor)
  | 6 => some (r.atom .atomrXchg)
  | _ => some (r.atom .atomrCas)

/-- Major 0x20 of Table 8-9: b[5:3] names the operation. -/
noncomputable def parse20 (r : Raw) : Option Parsed :=
  match r.bhi with
  | 0 => some (r.atom .redniAdd)
  | 1 => some (r.atom .redniSmin)
  | 2 => some (r.atom .redniSmax)
  | 3 => some (r.atom .redniUmin)
  | 4 => some (r.atom .redniUmax)
  | 5 => some (r.atom .redniAnd)
  | 6 => some (r.atom .redniOr)
  | _ => some (r.atom .redniXor)

/-- Major 0x21 of Table 8-9: b[5:3] names the operation. -/
noncomputable def parse21 (r : Raw) : Option Parsed :=
  match r.bhi with
  | 0 => some (r.cell .rednfF32Any)
  | 1 => some (r.cell .rednfBf16Any)
  | 2 => some (r.cell .rednfF16Any)
  | 3 => some (r.cell .rednfF32Ord)
  | 4 => some (r.cell .rednfBf16Ord)
  | 5 => some (r.cell .rednfF16Ord)
  | 6 => some r.cellz
  | _ => none

/-- Major 0x22 of Table 8-9: b[5:3] names the operation. -/
noncomputable def parse22 (r : Raw) : Option Parsed :=
  match r.bhi with
  | 0 => some (r.atom .bewAdds)
  | 1 => some (r.atom .bewMuls)
  | 2 => some (r.atom .bewFmas)
  | 3 => some (r.atom .bewMaxs)
  | 4 => some (r.atom .bewMins)
  | _ => none

/-- Major 0x23 of Table 8-9: b[5:3] names the operation. -/
noncomputable def parse23 (r : Raw) : Option Parsed :=
  match r.bhi with
  | 0 => some (r.cell .cellrdF32)
  | 1 => some (r.cell .cellrdBf16)
  | 2 => some (r.cell .cellrdRaw)
  | _ => none

/-- Major 0x0C, CVT (R236). -/
noncomputable def parse0C (r : Raw) : Option Parsed :=
  some { i := .cvt r.mnb r.b r.d r.a r.ma r.u, field := r.m3, mark := r.mb }

/-- Major 0x07, SEL: minor[2:0] names the predicate (R231). -/
noncomputable def parse07 (r : Raw) : Option Parsed :=
  some (r.lane2 (.sel r.mnb))

/-- Major 0x0D, MXQ (R239, R240). -/
noncomputable def parse0D (r : Raw) : Option Parsed :=
  match r.mn with
  | 0 => some { i := .mxqi8 r.m3 r.blo r.d r.a r.ma, field := r.bhi != 0, mark := r.mb }
  | 1 => some { i := .mxqe4 r.m3 r.blo r.d r.a r.ma, field := r.bhi != 0, mark := r.mb }
  | 2 => some { i := .mxqe5 r.m3 r.blo r.d r.a r.ma, field := r.bhi != 0, mark := r.mb }
  | 3 => some { i := .mxqe2 r.m3 r.blo r.d r.a r.ma, field := r.bhi != 0, mark := r.mb }
  | 4 => some { i := .mxdqf (r.blo.setWidth 2) r.d r.a r.ma, field := r.m3 || r.b.toNat / 4 != 0, mark := r.mb }
  | 5 => some { i := .mxdqb (r.blo.setWidth 2) r.d r.a r.ma, field := r.m3 || r.b.toNat / 4 != 0, mark := r.mb }
  | _ => none

/-- Major 0x10, PLOGIC (R244). -/
noncomputable def parse10 (r : Raw) : Option Parsed :=
  match r.mn with
  | 0 => some { i := .pand r.d r.a r.b, field := r.m3, mark := (r.mb || r.ma) }
  | 1 => some { i := .por r.d r.a r.b, field := r.m3, mark := (r.mb || r.ma) }
  | 2 => some { i := .pxor r.d r.a r.b, field := r.m3, mark := (r.mb || r.ma) }
  | 3 => some { i := .pandn r.d r.a r.b, field := r.m3, mark := (r.mb || r.ma) }
  | 4 => some { i := .pnot r.d r.b, field := r.m3 || r.a != 0#6, mark := (r.mb || r.ma) }
  | 5 => some { i := .pmov r.d r.b, field := r.m3 || r.a != 0#6, mark := (r.mb || r.ma) }
  | _ => none

/-- Major 0x11, MASK (R245). -/
noncomputable def parse11 (r : Raw) : Option Parsed :=
  match r.mn with
  | 0 => some { i := .emget r.d, field := r.m3 || r.a != 0#6 || r.b != 0#6, mark := (r.mb || r.ma) }
  | 1 => some { i := .emset r.a, field := r.m3 || r.d != 0#6 || r.b != 0#6, mark := (r.mb || r.ma) }
  | 2 => some { i := .emand r.a, field := r.m3 || r.d != 0#6 || r.b != 0#6, mark := (r.mb || r.ma) }
  | 3 => some { i := .emandn r.a, field := r.m3 || r.d != 0#6 || r.b != 0#6, mark := (r.mb || r.ma) }
  | 4 => some { i := .emp r.d, field := r.m3 || r.a != 0#6 || r.b != 0#6, mark := (r.mb || r.ma) }
  | 5 => some { i := .pem r.a, field := r.m3 || r.d != 0#6 || r.b != 0#6, mark := (r.mb || r.ma) }
  | 6 => some { i := .xall r.d, field := r.m3 || r.a != 0#6 || r.b != 0#6, mark := (r.mb || r.ma) }
  | 7 => some { i := .xend r.a, field := r.m3 || r.d != 0#6 || r.b != 0#6, mark := (r.mb || r.ma) }
  | _ => none

/-- Major 0x12, VOTE (R247). -/
noncomputable def parse12 (r : Raw) : Option Parsed :=
  match r.mn with
  | 0 => some { i := .vany r.d r.a, field := r.m3 || r.b != 0#6, mark := (r.mb || r.ma) }
  | 1 => some { i := .vall r.d r.a, field := r.m3 || r.b != 0#6, mark := (r.mb || r.ma) }
  | 2 => some { i := .vbal r.d r.a, field := r.m3 || r.b != 0#6, mark := (r.mb || r.ma) }
  | 3 => some { i := .vcnt r.d r.a, field := r.m3 || r.b != 0#6, mark := (r.mb || r.ma) }
  | 4 => some { i := .vfirst r.d r.a, field := r.m3 || r.b != 0#6, mark := (r.mb || r.ma) }
  | _ => none

/-- Major 0x18, BRANCH (R250). -/
noncomputable def parse18 (r : Raw) : Option Parsed :=
  match r.mn with
  | 0 => some { i := .br r.lit, field := r.m3 || r.d != 0#6 || r.a != 0#6 || r.b != 0#6, mark := (r.mb || r.ma) }
  | 1 => some { i := .brmz r.lit, field := r.m3 || r.d != 0#6 || r.a != 0#6 || r.b != 0#6, mark := (r.mb || r.ma) }
  | 2 => some { i := .brz r.a r.lit, field := r.m3 || r.d != 0#6 || r.b != 0#6, mark := (r.mb || r.ma) }
  | 3 => some { i := .brnz r.a r.lit, field := r.m3 || r.d != 0#6 || r.b != 0#6, mark := (r.mb || r.ma) }
  | 4 => some { i := .brpz r.a r.lit, field := r.m3 || r.d != 0#6 || r.b != 0#6, mark := (r.mb || r.ma) }
  | 5 => some { i := .brpnz r.a r.lit, field := r.m3 || r.d != 0#6 || r.b != 0#6, mark := (r.mb || r.ma) }
  | 6 => some { i := .call r.d r.lit, field := r.m3 || r.a != 0#6 || r.b != 0#6, mark := (r.mb || r.ma) }
  | 7 => some { i := .jmp r.a, field := r.m3 || r.d != 0#6 || r.b != 0#6, mark := (r.mb || r.ma) }
  | _ => none

/-- Major 0x19, CTRL (R252, R320, R321). -/
noncomputable def parse19 (r : Raw) : Option Parsed :=
  match r.mn with
  | 0 => some { i := .exit, field := r.m3 || r.d != 0#6 || r.a != 0#6 || r.b != 0#6, mark := (r.mb || r.ma) }
  | 1 => some { i := .nop, field := r.m3 || r.d != 0#6 || r.a != 0#6 || r.b != 0#6, mark := (r.mb || r.ma) }
  | 2 => some { i := .yield, field := r.m3 || r.d != 0#6 || r.a != 0#6 || r.b != 0#6, mark := (r.mb || r.ma) }
  | 3 => some { i := .bkpt (r.b ++ r.a), field := r.m3 || r.d != 0#6, mark := (r.mb || r.ma) }
  | 4 => some { i := .trap (r.b ++ r.a), field := r.m3 || r.d != 0#6, mark := (r.mb || r.ma) }
  | 5 => some { i := .sys (r.b ++ r.a), field := r.m3 || r.d != 0#6, mark := (r.mb || r.ma) }
  | 6 => some { i := .rett, field := r.m3 || r.d != 0#6 || r.a != 0#6 || r.b != 0#6, mark := (r.mb || r.ma) }
  | 7 => some { i := .halt, field := r.m3 || r.d != 0#6 || r.a != 0#6 || r.b != 0#6, mark := (r.mb || r.ma) }
  | _ => none

/-- Major 0x1A, CREG (R316 to R319). -/
noncomputable def parse1A (r : Raw) : Option Parsed :=
  match r.mn with
  | 0 => some { i := .crrd r.d (r.b ++ r.a), field := r.m3, mark := (r.mb || r.ma) }
  | 1 => some { i := .crwr r.d (r.b ++ r.a), field := r.m3, mark := (r.mb || r.ma) }
  | 2 => some { i := .crrdv r.d (r.b ++ r.a), field := r.m3, mark := (r.mb || r.ma) }
  | 3 => some { i := .srkey r.a, field := r.m3 || r.d != 0#6 || r.b != 0#6, mark := (r.mb || r.ma) }
  | 4 => some { i := .srstep r.a, field := r.m3 || r.d != 0#6 || r.b != 0#6, mark := (r.mb || r.ma) }
  | 5 => some { i := .cntrd r.d (r.b ++ r.a), field := r.m3, mark := (r.mb || r.ma) }
  | 6 => some { i := .clkrd r.d (r.a.setWidth 3), field := r.m3 || r.b != 0#6 || r.a.toNat / 8 != 0, mark := (r.mb || r.ma) }
  | _ => none

/-- Major 0x1B, LD (R219, R258). -/
noncomputable def parse1B (r : Raw) : Option Parsed :=
  some { i := .ld r.memOps, field := false, mark := r.mb }

/-- Major 0x1C, ST (R219, R259): size code 7 is ST.B0, whose vd must be 0. -/
noncomputable def parse1C (r : Raw) : Option Parsed :=
  if r.bhi = 7 then
    some { i := .stB0 { f := r.m3, o := r.ord, c := r.scope, ma := r.ma, w := r.blo, a := r.a, u := r.u },
           field := r.d != 0#6, mark := r.mb }
  else some { i := .st r.memOps, field := false, mark := r.mb }

/-- Major 0x1D, LDU (R260). -/
noncomputable def parse1D (r : Raw) : Option Parsed :=
  some { i := .ldu { f := r.m3, o := r.ord, c := r.scope, z := r.bhib, w := r.blo, a := r.a, d := r.d },
         field := false, mark := r.mb || r.ma }

/-- Major 0x24, MEMX (R269 to R272). -/
noncomputable def parse24 (r : Raw) : Option Parsed :=
  match r.mn with
  | 0 => some { i := .fence r.m3 (r.b.setWidth 2), field := r.d != 0#6 || r.a != 0#6 || r.b.toNat / 4 != 0, mark := (r.mb || r.ma) }
  | 1 => some { i := .pref r.m3 r.blo r.a r.ma (r.d.setWidth 2), field := r.d.toNat / 4 != 0 || r.bhi != 0, mark := r.mb }
  | 2 => some { i := .wsetG r.m3 (r.d.setWidth 3) r.a, field := r.b != 0#6 || r.d.toNat / 8 != 0, mark := (r.mb || r.ma) }
  | 3 => some { i := .wsetL r.m3 (r.d.setWidth 3) r.a, field := r.b != 0#6 || r.d.toNat / 8 != 0, mark := (r.mb || r.ma) }
  | 4 => some { i := .wsetA r.m3 (r.d.setWidth 3) r.a, field := r.b != 0#6 || r.d.toNat / 8 != 0, mark := (r.mb || r.ma) }
  | 5 => if r.d.getLsbD 3 then some { i := .winvAll r.m3, field := r.a != 0#6 || r.b != 0#6 || r.d != 8#6, mark := (r.mb || r.ma) } else some { i := .winv r.m3 (r.d.setWidth 3), field := r.a != 0#6 || r.b != 0#6 || r.d.toNat / 8 != 0, mark := (r.mb || r.ma) }
  | _ => none

/-- Major 0x25, CPY (R273, R276). -/
noncomputable def parse25 (r : Raw) : Option Parsed :=
  match r.mn with
  | 0 => some { i := .cpyGl r.m3 r.bhib r.blo r.a, field := r.d != 0#6, mark := (r.mb || r.ma) }
  | 1 => some { i := .cpyLg r.m3 r.bhib r.blo r.a, field := r.d != 0#6, mark := (r.mb || r.ma) }
  | 2 => some { i := .cpyGg r.m3 r.bhib r.blo r.a, field := r.d != 0#6, mark := (r.mb || r.ma) }
  | 3 => some { i := .cpyTgl r.m3 r.bhib r.blo r.a, field := r.d != 0#6, mark := (r.mb || r.ma) }
  | 4 => some { i := .cpyTlg r.m3 r.bhib r.blo r.a, field := r.d != 0#6, mark := (r.mb || r.ma) }
  | 5 => some { i := .cpyb r.m3 r.d, field := r.a != 0#6 || r.b != 0#6, mark := (r.mb || r.ma) }
  | 6 => some { i := .cpyw r.m3 r.a, field := r.d != 0#6 || r.b != 0#6, mark := (r.mb || r.ma) }
  | _ => none

/-- Major 0x26, SYNC (R277 to R280). -/
noncomputable def parse26 (r : Raw) : Option Parsed :=
  match r.mn with
  | 0 => some { i := .bar r.d, field := r.m3 || r.a != 0#6 || r.b != 0#6, mark := (r.mb || r.ma) }
  | 1 => some { i := .gbara r.d, field := r.m3 || r.a != 0#6 || r.b != 0#6, mark := (r.mb || r.ma) }
  | 2 => some { i := .gbarw r.d, field := r.m3 || r.a != 0#6 || r.b != 0#6, mark := (r.mb || r.ma) }
  | 3 => some { i := .sema (r.bhib.setWidth 2) r.blo r.a r.d, field := r.m3 || r.b.getLsbD 5, mark := (r.mb || r.ma) }
  | 4 => some { i := .semr (r.bhib.setWidth 2) r.blo r.a r.d, field := r.m3 || r.b.getLsbD 5, mark := (r.mb || r.ma) }
  | 5 => if r.b.getLsbD 3 then some { i := .signalSet r.blo r.a r.d, field := r.m3 || r.b.toNat / 16 != 0, mark := (r.mb || r.ma) } else some { i := .signalAdd r.blo r.a r.d, field := r.m3 || r.b.toNat / 16 != 0, mark := (r.mb || r.ma) }
  | _ => none

/-- Major 0x27, GRAPH (R282 to R284). -/
noncomputable def parse27 (r : Raw) : Option Parsed :=
  match r.mn with
  | 0 => some { i := .emit r.m3 r.blo r.a r.d r.ma, field := r.bhi != 0, mark := r.mb }
  | 1 => some { i := .recv r.m3 r.blo r.a r.d, field := r.bhi != 0, mark := (r.mb || r.ma) }
  | 2 => some { i := .close r.m3 r.a, field := r.d != 0#6 || r.b != 0#6, mark := (r.mb || r.ma) }
  | _ => none

/-- Major 0x28, FAB (R286 to R288). -/
noncomputable def parse28 (r : Raw) : Option Parsed :=
  match r.mn with
  | 0 => some { i := .mcst r.m3 r.ma (r.b.getLsbD 5) (r.b.setWidth 5) r.a r.d, field := false, mark := r.mb }
  | 1 => some { i := .mldredBf16Ord r.m3 r.ma (r.b.getLsbD 5) (r.b.setWidth 5) r.a r.d, field := false, mark := r.mb }
  | 2 => some { i := .mldredF32Ord r.m3 r.ma (r.b.getLsbD 5) (r.b.setWidth 5) r.a r.d, field := false, mark := r.mb }
  | 3 => some { i := .mldredBf16Any r.m3 r.ma (r.b.getLsbD 5) (r.b.setWidth 5) r.a r.d, field := false, mark := r.mb }
  | 4 => some { i := .mldredF32Any r.m3 r.ma (r.b.getLsbD 5) (r.b.setWidth 5) r.a r.d, field := false, mark := r.mb }
  | 5 => some { i := .fmark r.m3 r.a, field := r.d != 0#6 || r.b != 0#6, mark := (r.mb || r.ma) }
  | _ => none

/-- Major 0x29, MTX (R296 to R311). -/
noncomputable def parse29 (r : Raw) : Option Parsed :=
  match r.mn with
  | 0 => some { i := .gang r.a, field := r.m3 || r.d != 0#6 || r.b != 0#6, mark := (r.mb || r.ma) }
  | 1 => some { i := .macq, field := r.m3 || r.d != 0#6 || r.a != 0#6 || r.b != 0#6, mark := (r.mb || r.ma) }
  | 2 => some { i := .mrel, field := r.m3 || r.d != 0#6 || r.a != 0#6 || r.b != 0#6, mark := (r.mb || r.ma) }
  | 3 => some { i := .mma r.ma r.b r.a (r.d.setWidth 4), field := r.m3 || r.d.toNat / 16 != 0, mark := r.mb }
  | 4 => some { i := .gfill r.blo r.a r.d, field := r.m3 || r.bhi != 0, mark := (r.mb || r.ma) }
  | 5 => some { i := .tzero (r.d.setWidth 4), field := r.m3 || r.a != 0#6 || r.b != 0#6 || r.d.toNat / 16 != 0, mark := (r.mb || r.ma) }
  | 6 => if r.d.getLsbD 4 then some { i := .tfreeAll, field := r.m3 || r.a != 0#6 || r.b != 0#6 || r.d != 16#6, mark := (r.mb || r.ma) } else some { i := .tfree (r.d.setWidth 4), field := r.m3 || r.a != 0#6 || r.b != 0#6 || r.d.toNat / 16 != 0, mark := (r.mb || r.ma) }
  | 7 => if r.b.getLsbD 0 then some { i := .tredRow (r.a.setWidth 4) r.d, field := r.m3 || r.a.toNat / 16 != 0 || r.b != 1#6, mark := (r.mb || r.ma) } else some { i := .tredAdd (r.a.setWidth 4) (r.d.setWidth 4), field := r.m3 || r.a.toNat / 16 != 0 || r.b != 0#6 || r.d.toNat / 16 != 0, mark := (r.mb || r.ma) }
  | _ => none

/-- Major 0x2A, TILE (R309, R310). -/
noncomputable def parse2A (r : Raw) : Option Parsed :=
  match r.mn with
  | 0 => some { i := .tmovr r.b (r.a.extractLsb' 4 2) (r.a.setWidth 4) r.d, field := r.m3, mark := (r.mb || r.ma) }
  | 1 => some { i := .tmovw r.b (r.a.extractLsb' 4 2) (r.a.setWidth 4) r.d, field := r.m3, mark := (r.mb || r.ma) }
  | 2 => some { i := .tcvt r.bhib r.blo (r.a.extractLsb' 4 2) (r.a.setWidth 4) r.d, field := r.m3, mark := (r.mb || r.ma) }
  | _ => none

/-- Major 0x2B, SPILL (R313 to R315). -/
noncomputable def parse2B (r : Raw) : Option Parsed :=
  match r.mn with
  | 0 => some { i := .spb r.m3 r.bhib r.blo r.a r.d, field := false, mark := (r.mb || r.ma) }
  | 1 => some { i := .fla r.m3 r.bhib r.blo r.a r.d, field := false, mark := (r.mb || r.ma) }
  | 2 => some { i := .vfree r.ma r.b r.a, field := r.m3 || r.d != 0#6, mark := r.mb }
  | _ => none

/-- A 16-bit instruction by its OPC field (Table 8-2). -/
noncomputable def parseHalf (c : Nat) (o : Op16) : Instr :=
  match c with
  | 0 => .mov16 o
  | 1 => .iadd16 o
  | 2 => .isub16 o
  | 3 => .imul16 o
  | 4 => .and16 o
  | 5 => .or16 o
  | 6 => .xor16 o
  | 7 => .shl16 o
  | 8 => .shr16 o
  | 9 => .sar16 o
  | 10 => .fadd16 o
  | 11 => .fsub16 o
  | 12 => .fmul16 o
  | 13 => .fmax16 o
  | 14 => .fmin16 o
  | _ => .fneg16 o

/-- The opcode map (Table 8-9): none where the major or a minor is #ILL cause OPC (R218). -/
noncomputable def parse (r : Raw) : Option Parsed :=
  match r.maj with
  | 0x01 => parse01 r
  | 0x02 => parse02 r
  | 0x03 => parse03 r
  | 0x04 => parse04 r
  | 0x05 => parse05 r
  | 0x06 => parse06 r
  | 0x07 => parse07 r
  | 0x08 => parse08 r
  | 0x09 => parse09 r
  | 0x0A => parse0A r
  | 0x0B => parse0B r
  | 0x0C => parse0C r
  | 0x0D => parse0D r
  | 0x0E => parse0E r
  | 0x0F => parse0F r
  | 0x10 => parse10 r
  | 0x11 => parse11 r
  | 0x12 => parse12 r
  | 0x13 => parse13 r
  | 0x14 => parse14 r
  | 0x15 => parse15 r
  | 0x16 => parse16 r
  | 0x17 => parse17 r
  | 0x18 => parse18 r
  | 0x19 => parse19 r
  | 0x1A => parse1A r
  | 0x1B => parse1B r
  | 0x1C => parse1C r
  | 0x1D => parse1D r
  | 0x1E => parse1E r
  | 0x1F => parse1F r
  | 0x20 => parse20 r
  | 0x21 => parse21 r
  | 0x22 => parse22 r
  | 0x23 => parse23 r
  | 0x24 => parse24 r
  | 0x25 => parse25 r
  | 0x26 => parse26 r
  | 0x27 => parse27 r
  | 0x28 => parse28 r
  | 0x29 => parse29 r
  | 0x2A => parse2A r
  | 0x2B => parse2B r
  | _ => if 0x3C ≤ r.maj then some r.hint else none

/-- The majors in which U = 1 is permitted (kind U of Table 8-9); the hint majors ignore it (R220). -/
def permitsU (maj : Nat) : Bool :=
  (1 ≤ maj && maj ≤ 12) || maj == 14 || maj == 15 || maj == 0x1B || maj == 0x1C ||
    (0x1E ≤ maj && maj ≤ 0x23) || 0x3C ≤ maj

/-- Whether a literal word follows: kind A and S-lit majors with minor[3] = 1 and b = 63, and BRANCH minors
0 to 6 (R204). -/
def hasLiteral (r : Raw) : Bool :=
  (r.m3 && r.b == 63#6 &&
    ((1 ≤ r.maj && r.maj ≤ 11) || r.maj == 14 || r.maj == 15 || r.maj == 0x13 || (0x15 ≤ r.maj && r.maj ≤ 0x17))) ||
  (r.maj == 0x18 && r.mn != 7)

/-- A clause header or cause HDR (R209). -/
noncomputable def parseHeader (w : Word) : Except IllCause Instr :=
  let a := w.extractLsb' 8 4
  let b := w.extractLsb' 12 4
  if w.extractLsb' 29 3 ≠ 0#3 ∨ (12 ≤ a.toNat ∧ a.toNat ≤ 14) ∨ (12 ≤ b.toNat ∧ b.toNat ≤ 14) then .error .hdr
  else .ok (.clauseHeader { p := w.getLsbD 28, wait := w.extractLsb' 16 12, b := b, a := a, y := w.getLsbD 1 })

/-- A 32-bit word and its literal, with the causes of #ILL in the order of R217: OPC, HDR, UNIF, FIELD, MARK. -/
noncomputable def decodeWord (w lit : Word) : Except IllCause Instr :=
  let r := Raw.ofWord w lit
  if r.maj = 0 then parseHeader w
  else
    match parse r with
    | none => .error .opc
    | some p =>
      let c := p.i.ill
      if c = some .opc then .error .opc
      else if r.u && !permitsU r.maj then .error .unif
      else if p.field || c == some .field then .error .field
      else if p.mark || c == some .mark then .error .mark
      else .ok p.i

/-- What bytes that are no instruction are. -/
inductive Reject where
  /-- Too few bytes for the instruction that the first parcel begins (R199). -/
  | short
  /-- An encoding that cannot execute, with the cause R217 reports. -/
  | ill (c : IllCause)
  deriving DecidableEq, Repr

/-- The word a run of two or four bytes holds (R2, R199). -/
def wordOf (bs : List Byte) : Word := BitVec.ofNat 32 (Machine.leNat bs)

/-- Decode the instruction at the start of a run of bytes: the instruction and its length in bytes (R199). -/
noncomputable def decode (bs : List Byte) : Except Reject (Instr × Nat) :=
  match bs with
  | b0 :: b1 :: rest =>
    let p := wordOf [b0, b1]
    if p.getLsbD 0 = false then
      .ok (parseHalf (p.extractLsb' 2 4).toNat { d := p.extractLsb' 6 5, s := p.extractLsb' 11 5, u := p.getLsbD 1 }, 2)
    else
      match rest with
      | b2 :: b3 :: more =>
        let w := wordOf [b0, b1, b2, b3]
        if hasLiteral (Raw.ofWord w 0#32) then
          match more with
          | l0 :: l1 :: l2 :: l3 :: _ =>
            match decodeWord w (wordOf [l0, l1, l2, l3]) with
            | .ok i => .ok (i, 8)
            | .error c => .error (.ill c)
          | _ => .error .short
        else
          match decodeWord w 0#32 with
          | .ok i => .ok (i, 4)
          | .error c => .error (.ill c)
      | _ => .error .short
  | _ => .error .short

/-! ## The encoder -/

/-- The words of an instruction: one parcel, one word, or a word and its literal (R199). -/
inductive Enc where
  | half (p : BitVec 16)
  | one (w : Word)
  | two (w lit : Word)
  deriving DecidableEq, Repr

/-- The bytes of the words of an instruction, lowest address first (R2, R199). -/
def Enc.bytes : Enc → List Byte
  | .half p => Machine.leBytes 2 p.toNat
  | .one w => Machine.leBytes 4 w.toNat
  | .two w l => Machine.leBytes 4 w.toNat ++ Machine.leBytes 4 l.toNat

/-- Table 8-3: a 32-bit word from its fields. -/
def word (minor : BitVec 4) (mb ma : Bool) (b a d maj : BitVec 6) (u : Bool) : Word :=
  minor ++ BitVec.ofBool mb ++ BitVec.ofBool ma ++ b ++ a ++ d ++ maj ++ BitVec.ofBool u ++ 1#1

/-- Table 8-1: a parcel from its fields. -/
def enc16 (c : BitVec 4) (o : Op16) : Enc := .half (o.s ++ o.d ++ c ++ BitVec.ofBool o.u ++ 0#1)

/-- A two-source lane instruction of major `maj` (R204). -/
def encLane2 (maj : BitVec 6) (mn : BitVec 3) (o : Lane2) : Enc :=
  match o.b with
  | .v b => .one (word (0#1 ++ mn) o.mb o.ma b o.a o.d maj o.u)
  | .s b => .one (word (1#1 ++ mn) o.mb o.ma b o.a o.d maj o.u)
  | .lit l => .two (word (1#1 ++ mn) o.mb o.ma 63#6 o.a o.d maj o.u) l

/-- A unary lane instruction of major `maj`. -/
def encLane1 (maj : BitVec 6) (mn : BitVec 3) (o : Lane1) : Enc :=
  encLane2 maj mn { d := o.d, a := 0#6, b := o.b, ma := false, mb := o.mb, u := o.u }

/-- A shuffle. -/
def encShfl (mn : BitVec 3) (o : Shfl) : Enc :=
  encLane2 0x13#6 mn { d := o.d, a := o.a, b := o.b, ma := o.ma, mb := o.mb, u := false }

/-- A scalar instruction of major `maj`. -/
def encSalu (maj : BitVec 6) (mn : BitVec 3) (d a : Reg) (b : SOp) : Enc :=
  match b with
  | .s b => .one (word (0#1 ++ mn) false false b a d maj false)
  | .lit l => .two (word (1#1 ++ mn) false false 63#6 a d maj false) l

/-- LD, ST and LDU. -/
def encMem (maj : BitVec 6) (o : MemOps) : Enc :=
  .one (word (BitVec.ofBool o.f ++ BitVec.ofBool o.o ++ o.c) false o.ma (o.z ++ o.w) o.a o.d maj o.u)

/-- ATOM, ATOMR, REDNI and BEW with operation code `k`. -/
def encAtom (maj : BitVec 6) (k : BitVec 3) (o : AtomOps) : Enc :=
  .one (word (BitVec.ofBool o.f ++ BitVec.ofBool o.q ++ o.c) false o.ma (k ++ BitVec.ofBool o.z ++ o.w) o.a o.d maj o.u)

/-- REDNF and CELLRD with operation code `k`. -/
def encCell (maj : BitVec 6) (k : BitVec 3) (o : CellOps) : Enc :=
  .one (word (BitVec.ofBool o.f ++ BitVec.ofBool o.q ++ o.c) false o.ma (k ++ 0#1 ++ o.w) o.a o.d maj o.u)

/-- Table 8-4: the word of a clause header. -/
def Header.word (h : Header) : Word :=
  0#3 ++ BitVec.ofBool h.p ++ h.wait ++ h.b ++ h.a ++ 0#6 ++ BitVec.ofBool h.y ++ 1#1

/-- A clause header's word as an encoding. -/
def encHeader (h : Header) : Enc := .one h.word

/-- The words of an instruction, from the layouts of Tables 8-1 to 8-4; none for an event, which has no word. -/
def encode (i : Instr) : Option Enc :=
  match i with
  | .registerWrite _ => none
  | .ascarveWrite _ => none
  | .carveChangeDone => none
  | .shootdown _ => none
  | .shootdownComplete => none
  | .pgpush64k _ => none
  | .pgpush2m _ => none
  | .pgpop64k _ => none
  | .pgpop2m _ => none
  | .memerrclr _ => none
  | .devnumWrite _ => none
  | .pmaskWrite _ => none
  | .planeHoldRelease _ => none
  | .portresolveGo _ => none
  | .spillbaseWrite _ => none
  | .queueEnable _ => none
  | .queueDisable _ => none
  | .queueResume _ => none
  | .disableDrainDone => none
  | .doorbellWrite _ _ => none
  | .fltownWrite _ => none
  | .ccfwctlGo _ => none
  | .firmwareCoreSwap _ => none
  | .prectlGo _ => none
  | .restctlGo _ => none
  | .recordStrict _ => none
  | .recordLossy _ => none
  | .replayMode _ => none
  | .modeOff _ => none
  | .ctxretGo _ => none
  | .jobreqGo _ => none
  | .featctlGo _ => none
  | .hallqGo _ => none
  | .hallQuiesceDone => none
  | .hostBar2Access _ => none
  | .hostBar0Access _ => none
  | .powerOn => none
  | .bootStep _ => none
  | .correlationMarkerSend => none
  | .correlationMarkerReceipt _ _ => none
  | .patrolScrub _ _ => none
  | .uncorrectableError _ => none
  | .directoryRequest _ => none
  | .loadReturn _ _ => none
  | .storePerform _ _ => none
  | .bankOperation _ _ => none
  | .streamPrefetch _ _ => none
  | .copyPiece _ => none
  | .galleryFillComplete _ => none
  | .fabricPacketArrival _ _ => none
  | .markerRelease _ => none
  | .responseArrival _ => none
  | .mcsArrival _ => none
  | .undlvArrival _ => none
  | .switchMcw _ _ => none
  | .switchMcr _ _ => none
  | .flitReceive _ _ => none
  | .nakReceive _ _ => none
  | .ackTimeout _ => none
  | .retrainDone _ _ _ => none
  | .moduleFallback _ _ _ _ => none
  | .keyExchangeDone _ => none
  | .keyUpdate _ => none
  | .keyLimitStop _ => none
  | .companyCreate => none
  | .companyPlace _ _ => none
  | .headBlock _ => none
  | .companySteal _ _ _ => none
  | .persistentPlace _ => none
  | .activeSetFill _ _ => none
  | .activeSetDisplace _ _ => none
  | .allocationDeadlock _ => none
  | .forcedSpill _ => none
  | .reload _ => none
  | .companyRetire _ => none
  | .consumerLaunch _ => none
  | .emitAppend _ _ => none
  | .queueBind _ _ => none
  | .queueUnbind _ => none
  | .fencePacket _ => none
  | .sigsetPacket _ => none
  | .sigwaitPacket _ => none
  | .sigwaitRecheck _ => none
  | .flightEndPacket _ => none
  | .flightBeginPacket _ => none
  | .flightRunPacket _ => none
  | .treadIssue _ => none
  | .fallbackPacket _ => none
  | .dispatchPacket _ => none
  | .graphPacket _ => none
  | .copyPacket _ => none
  | .nopPacket _ => none
  | .completionSignal _ _ => none
  | .eventRingWrite => none
  | .inLaneTrapEntry _ _ => none
  | .queueLevelTrap _ => none
  | .fabTrap _ _ => none
  | .preemptStop _ _ => none
  | .overdue _ => none
  | .companySave _ => none
  | .waittimeExpiry _ _ => none
  | .mmaTileRetire _ _ => none
  | .enginePass _ => none
  | .semaGrant _ _ => none
  | .recordPageComplete _ => none
  | .cbkptTrap _ _ => none
  | .traceRecord _ => none
  | .powerSample _ => none
  | .traceStop => none
  | .statementWrite => none
  | .powerLimitSample _ _ => none
  | .thermalThrottle _ => none
  | .thermalShutdown _ => none
  | .clauseHeader h => some (encHeader h)
  | .mov16 o => some (enc16 0#4 o)
  | .iadd16 o => some (enc16 1#4 o)
  | .isub16 o => some (enc16 2#4 o)
  | .imul16 o => some (enc16 3#4 o)
  | .and16 o => some (enc16 4#4 o)
  | .or16 o => some (enc16 5#4 o)
  | .xor16 o => some (enc16 6#4 o)
  | .shl16 o => some (enc16 7#4 o)
  | .shr16 o => some (enc16 8#4 o)
  | .sar16 o => some (enc16 9#4 o)
  | .fadd16 o => some (enc16 10#4 o)
  | .fsub16 o => some (enc16 11#4 o)
  | .fmul16 o => some (enc16 12#4 o)
  | .fmax16 o => some (enc16 13#4 o)
  | .fmin16 o => some (enc16 14#4 o)
  | .fneg16 o => some (enc16 15#4 o)
  | .iadd o => some (encLane2 0x01#6 0#3 o)
  | .isub o => some (encLane2 0x01#6 1#3 o)
  | .imul o => some (encLane2 0x01#6 2#3 o)
  | .imulhi o => some (encLane2 0x01#6 3#3 o)
  | .imulhu o => some (encLane2 0x01#6 4#3 o)
  | .imad o => some (encLane2 0x01#6 5#3 o)
  | .iadds o => some (encLane2 0x01#6 6#3 o)
  | .isubs o => some (encLane2 0x01#6 7#3 o)
  | .and o => some (encLane2 0x02#6 0#3 o)
  | .or o => some (encLane2 0x02#6 1#3 o)
  | .xor o => some (encLane2 0x02#6 2#3 o)
  | .andn o => some (encLane2 0x02#6 3#3 o)
  | .shl o => some (encLane2 0x02#6 4#3 o)
  | .shr o => some (encLane2 0x02#6 5#3 o)
  | .sar o => some (encLane2 0x02#6 6#3 o)
  | .rotl o => some (encLane2 0x02#6 7#3 o)
  | .imin o => some (encLane2 0x03#6 0#3 o)
  | .imax o => some (encLane2 0x03#6 1#3 o)
  | .umin o => some (encLane2 0x03#6 2#3 o)
  | .umax o => some (encLane2 0x03#6 3#3 o)
  | .clz o => some (encLane1 0x03#6 4#3 o)
  | .popc o => some (encLane1 0x03#6 5#3 o)
  | .brev o => some (encLane1 0x03#6 6#3 o)
  | .ineg o => some (encLane1 0x03#6 7#3 o)
  | .bfx o => some (encLane2 0x04#6 0#3 o)
  | .bfxs o => some (encLane2 0x04#6 1#3 o)
  | .bfi o => some (encLane2 0x04#6 2#3 o)
  | .prmt o => some (encLane2 0x04#6 3#3 o)
  | .lsa1 o => some (encLane2 0x04#6 4#3 o)
  | .lsa2 o => some (encLane2 0x04#6 5#3 o)
  | .lsa3 o => some (encLane2 0x04#6 6#3 o)
  | .lsa4 o => some (encLane2 0x04#6 7#3 o)
  | .icmpEq o => some (encLane2 0x05#6 0#3 o)
  | .icmpNe o => some (encLane2 0x05#6 1#3 o)
  | .icmpLt o => some (encLane2 0x05#6 2#3 o)
  | .icmpLe o => some (encLane2 0x05#6 3#3 o)
  | .icmpGt o => some (encLane2 0x05#6 4#3 o)
  | .icmpGe o => some (encLane2 0x05#6 5#3 o)
  | .icmpLtu o => some (encLane2 0x05#6 6#3 o)
  | .icmpGeu o => some (encLane2 0x05#6 7#3 o)
  | .fcmpEq o => some (encLane2 0x06#6 0#3 o)
  | .fcmpNe o => some (encLane2 0x06#6 1#3 o)
  | .fcmpLt o => some (encLane2 0x06#6 2#3 o)
  | .fcmpLe o => some (encLane2 0x06#6 3#3 o)
  | .fcmpGt o => some (encLane2 0x06#6 4#3 o)
  | .fcmpGe o => some (encLane2 0x06#6 5#3 o)
  | .fcmpOrd o => some (encLane2 0x06#6 6#3 o)
  | .fcmpUnord o => some (encLane2 0x06#6 7#3 o)
  | .sel k o => some (encLane2 0x07#6 k o)
  | .fadd o => some (encLane2 0x08#6 0#3 o)
  | .fsub o => some (encLane2 0x08#6 1#3 o)
  | .fmul o => some (encLane2 0x08#6 2#3 o)
  | .ffma o => some (encLane2 0x08#6 3#3 o)
  | .fmin o => some (encLane2 0x08#6 4#3 o)
  | .fmax o => some (encLane2 0x08#6 5#3 o)
  | .ffms o => some (encLane2 0x08#6 6#3 o)
  | .fnma o => some (encLane2 0x08#6 7#3 o)
  | .frcp o => some (encLane1 0x09#6 0#3 o)
  | .frsq o => some (encLane1 0x09#6 1#3 o)
  | .fsqrt o => some (encLane1 0x09#6 2#3 o)
  | .fexp2 o => some (encLane1 0x09#6 3#3 o)
  | .flog2 o => some (encLane1 0x09#6 4#3 o)
  | .fsin o => some (encLane1 0x09#6 5#3 o)
  | .fcos o => some (encLane1 0x09#6 6#3 o)
  | .ftanh o => some (encLane1 0x09#6 7#3 o)
  | .hadd2 o => some (encLane2 0x0A#6 0#3 o)
  | .hsub2 o => some (encLane2 0x0A#6 1#3 o)
  | .hmul2 o => some (encLane2 0x0A#6 2#3 o)
  | .hfma2 o => some (encLane2 0x0A#6 3#3 o)
  | .hmin2 o => some (encLane2 0x0A#6 4#3 o)
  | .hmax2 o => some (encLane2 0x0A#6 5#3 o)
  | .badd2 o => some (encLane2 0x0B#6 0#3 o)
  | .bsub2 o => some (encLane2 0x0B#6 1#3 o)
  | .bmul2 o => some (encLane2 0x0B#6 2#3 o)
  | .bfma2 o => some (encLane2 0x0B#6 3#3 o)
  | .bmin2 o => some (encLane2 0x0B#6 4#3 o)
  | .bmax2 o => some (encLane2 0x0B#6 5#3 o)
  | .cvt r c d a ma u => some (.one (word (0#1 ++ r) false ma c a d 0x0C#6 u))
  | .mxqi8 l r d a ma => some (.one (word (BitVec.ofBool l ++ 0#3) false ma (0#3 ++ r) a d 0x0D#6 false))
  | .mxqe4 l r d a ma => some (.one (word (BitVec.ofBool l ++ 1#3) false ma (0#3 ++ r) a d 0x0D#6 false))
  | .mxqe5 l r d a ma => some (.one (word (BitVec.ofBool l ++ 2#3) false ma (0#3 ++ r) a d 0x0D#6 false))
  | .mxqe2 l r d a ma => some (.one (word (BitVec.ofBool l ++ 3#3) false ma (0#3 ++ r) a d 0x0D#6 false))
  | .mxdqf f d a ma => some (.one (word 4#4 false ma (0#4 ++ f) a d 0x0D#6 false))
  | .mxdqb f d a ma => some (.one (word 5#4 false ma (0#4 ++ f) a d 0x0D#6 false))
  | .dot4i8 o => some (encLane2 0x0E#6 0#3 o)
  | .dot4z8 o => some (encLane2 0x0E#6 1#3 o)
  | .dot8i4 o => some (encLane2 0x0E#6 2#3 o)
  | .dot8z4 o => some (encLane2 0x0E#6 3#3 o)
  | .dot4e4 o => some (encLane2 0x0E#6 4#3 o)
  | .dot4e5 o => some (encLane2 0x0E#6 5#3 o)
  | .dot8e2 o => some (encLane2 0x0E#6 6#3 o)
  | .dot2bf o => some (encLane2 0x0E#6 7#3 o)
  | .mov o => some (encLane1 0x0F#6 0#3 o)
  | .fabs o => some (encLane1 0x0F#6 1#3 o)
  | .fneg o => some (encLane1 0x0F#6 2#3 o)
  | .ffloor o => some (encLane1 0x0F#6 3#3 o)
  | .fceil o => some (encLane1 0x0F#6 4#3 o)
  | .ftrunc o => some (encLane1 0x0F#6 5#3 o)
  | .frint o => some (encLane1 0x0F#6 6#3 o)
  | .iabs o => some (encLane1 0x0F#6 7#3 o)
  | .pand d a b => some (.one (word (0#4) false false (b) (a) (d) 0x10#6 false))
  | .por d a b => some (.one (word (1#4) false false (b) (a) (d) 0x10#6 false))
  | .pxor d a b => some (.one (word (2#4) false false (b) (a) (d) 0x10#6 false))
  | .pandn d a b => some (.one (word (3#4) false false (b) (a) (d) 0x10#6 false))
  | .pnot d b => some (.one (word (4#4) false false (b) (0#6) (d) 0x10#6 false))
  | .pmov d b => some (.one (word (5#4) false false (b) (0#6) (d) 0x10#6 false))
  | .emget d => some (.one (word (0#4) false false (0#6) (0#6) (d) 0x11#6 false))
  | .emset a => some (.one (word (1#4) false false (0#6) (a) (0#6) 0x11#6 false))
  | .emand a => some (.one (word (2#4) false false (0#6) (a) (0#6) 0x11#6 false))
  | .emandn a => some (.one (word (3#4) false false (0#6) (a) (0#6) 0x11#6 false))
  | .emp d => some (.one (word (4#4) false false (0#6) (0#6) (d) 0x11#6 false))
  | .pem a => some (.one (word (5#4) false false (0#6) (a) (0#6) 0x11#6 false))
  | .xall d => some (.one (word (6#4) false false (0#6) (0#6) (d) 0x11#6 false))
  | .xend a => some (.one (word (7#4) false false (0#6) (a) (0#6) 0x11#6 false))
  | .vany d a => some (.one (word (0#4) false false (0#6) (a) (d) 0x12#6 false))
  | .vall d a => some (.one (word (1#4) false false (0#6) (a) (d) 0x12#6 false))
  | .vbal d a => some (.one (word (2#4) false false (0#6) (a) (d) 0x12#6 false))
  | .vcnt d a => some (.one (word (3#4) false false (0#6) (a) (d) 0x12#6 false))
  | .vfirst d a => some (.one (word (4#4) false false (0#6) (a) (d) 0x12#6 false))
  | .shfli o => some (encShfl 0#3 o)
  | .shflu o => some (encShfl 1#3 o)
  | .shfld o => some (encShfl 2#3 o)
  | .shflx o => some (encShfl 3#3 o)
  | .bcast o => some (encShfl 4#3 o)
  | .lradd d a ma => some (.one (word (0#4) false ma (0#6) (a) (d) 0x14#6 false))
  | .lrmin d a ma => some (.one (word (1#4) false ma (0#6) (a) (d) 0x14#6 false))
  | .lrmax d a ma => some (.one (word (2#4) false ma (0#6) (a) (d) 0x14#6 false))
  | .lrand d a ma => some (.one (word (3#4) false ma (0#6) (a) (d) 0x14#6 false))
  | .lror d a ma => some (.one (word (4#4) false ma (0#6) (a) (d) 0x14#6 false))
  | .lrxor d a ma => some (.one (word (5#4) false ma (0#6) (a) (d) 0x14#6 false))
  | .lrfadd d a ma => some (.one (word (6#4) false ma (0#6) (a) (d) 0x14#6 false))
  | .lrfmax d a ma => some (.one (word (7#4) false ma (0#6) (a) (d) 0x14#6 false))
  | .sadd d a b => some (encSalu 0x15#6 0#3 d a b)
  | .ssub d a b => some (encSalu 0x15#6 1#3 d a b)
  | .smul d a b => some (encSalu 0x15#6 2#3 d a b)
  | .sand d a b => some (encSalu 0x15#6 3#3 d a b)
  | .sor d a b => some (encSalu 0x15#6 4#3 d a b)
  | .sxor d a b => some (encSalu 0x15#6 5#3 d a b)
  | .sshl d a b => some (encSalu 0x15#6 6#3 d a b)
  | .sshr d a b => some (encSalu 0x15#6 7#3 d a b)
  | .ssar d a b => some (encSalu 0x16#6 0#3 d a b)
  | .smin d a b => some (encSalu 0x16#6 1#3 d a b)
  | .smax d a b => some (encSalu 0x16#6 2#3 d a b)
  | .sminu d a b => some (encSalu 0x16#6 3#3 d a b)
  | .smaxu d a b => some (encSalu 0x16#6 4#3 d a b)
  | .sadd64 d a b => some (encSalu 0x16#6 5#3 d a b)
  | .ssub64 d a b => some (encSalu 0x16#6 6#3 d a b)
  | .smov d b => some (encSalu 0x16#6 7#3 d 0#6 b)
  | .seq d a b => some (encSalu 0x17#6 0#3 d a b)
  | .sne d a b => some (encSalu 0x17#6 1#3 d a b)
  | .slt d a b => some (encSalu 0x17#6 2#3 d a b)
  | .sle d a b => some (encSalu 0x17#6 3#3 d a b)
  | .sgt d a b => some (encSalu 0x17#6 4#3 d a b)
  | .sge d a b => some (encSalu 0x17#6 5#3 d a b)
  | .sltu d a b => some (encSalu 0x17#6 6#3 d a b)
  | .sgeu d a b => some (encSalu 0x17#6 7#3 d a b)
  | .br off => some (.two (word 0#4 false false 0#6 (0#6) (0#6) 0x18#6 false) off)
  | .brmz off => some (.two (word 1#4 false false 0#6 (0#6) (0#6) 0x18#6 false) off)
  | .brz a off => some (.two (word 2#4 false false 0#6 (a) (0#6) 0x18#6 false) off)
  | .brnz a off => some (.two (word 3#4 false false 0#6 (a) (0#6) 0x18#6 false) off)
  | .brpz a off => some (.two (word 4#4 false false 0#6 (a) (0#6) 0x18#6 false) off)
  | .brpnz a off => some (.two (word 5#4 false false 0#6 (a) (0#6) 0x18#6 false) off)
  | .call d off => some (.two (word 6#4 false false 0#6 (0#6) (d) 0x18#6 false) off)
  | .jmp a => some (.one (word (7#4) false false (0#6) (a) (0#6) 0x18#6 false))
  | .exit => some (.one (word (0#4) false false (0#6) (0#6) (0#6) 0x19#6 false))
  | .nop => some (.one (word (1#4) false false (0#6) (0#6) (0#6) 0x19#6 false))
  | .yield => some (.one (word (2#4) false false (0#6) (0#6) (0#6) 0x19#6 false))
  | .bkpt imm => some (.one (word (3#4) false false (imm.extractLsb' 6 6) (imm.extractLsb' 0 6) (0#6) 0x19#6 false))
  | .trap imm => some (.one (word (4#4) false false (imm.extractLsb' 6 6) (imm.extractLsb' 0 6) (0#6) 0x19#6 false))
  | .sys imm => some (.one (word (5#4) false false (imm.extractLsb' 6 6) (imm.extractLsb' 0 6) (0#6) 0x19#6 false))
  | .rett => some (.one (word (6#4) false false (0#6) (0#6) (0#6) 0x19#6 false))
  | .halt => some (.one (word (7#4) false false (0#6) (0#6) (0#6) 0x19#6 false))
  | .crrd d idx => some (.one (word (0#4) false false (idx.extractLsb' 6 6) (idx.extractLsb' 0 6) (d) 0x1A#6 false))
  | .crwr d idx => some (.one (word (1#4) false false (idx.extractLsb' 6 6) (idx.extractLsb' 0 6) (d) 0x1A#6 false))
  | .crrdv d idx => some (.one (word (2#4) false false (idx.extractLsb' 6 6) (idx.extractLsb' 0 6) (d) 0x1A#6 false))
  | .srkey a => some (.one (word (3#4) false false (0#6) (a) (0#6) 0x1A#6 false))
  | .srstep a => some (.one (word (4#4) false false (0#6) (a) (0#6) 0x1A#6 false))
  | .cntrd d idx => some (.one (word (5#4) false false (idx.extractLsb' 6 6) (idx.extractLsb' 0 6) (d) 0x1A#6 false))
  | .clkrd d g => some (.one (word (6#4) false false (0#6) (0#3 ++ g) (d) 0x1A#6 false))
  | .ld o => some (encMem 0x1B#6 o)
  | .st o => some (encMem 0x1C#6 o)
  | .stB0 o => some (encMem 0x1C#6 { f := o.f, o := o.o, c := o.c, ma := o.ma, z := 7#3, w := o.w, a := o.a, d := 0#6, u := o.u })
  | .ldu o => some (encMem 0x1D#6 { f := o.f, o := o.o, c := o.c, ma := false, z := o.z, w := o.w, a := o.a, d := o.d, u := false })
  | .atomAdd o => some (encAtom 0x1E#6 0#3 o)
  | .atomMin o => some (encAtom 0x1E#6 1#3 o)
  | .atomMax o => some (encAtom 0x1E#6 2#3 o)
  | .atomAnd o => some (encAtom 0x1E#6 3#3 o)
  | .atomOr o => some (encAtom 0x1E#6 4#3 o)
  | .atomXor o => some (encAtom 0x1E#6 5#3 o)
  | .atomXchg o => some (encAtom 0x1E#6 6#3 o)
  | .atomCas o => some (encAtom 0x1E#6 7#3 o)
  | .atomrAdd o => some (encAtom 0x1F#6 0#3 o)
  | .atomrMin o => some (encAtom 0x1F#6 1#3 o)
  | .atomrMax o => some (encAtom 0x1F#6 2#3 o)
  | .atomrAnd o => some (encAtom 0x1F#6 3#3 o)
  | .atomrOr o => some (encAtom 0x1F#6 4#3 o)
  | .atomrXor o => some (encAtom 0x1F#6 5#3 o)
  | .atomrXchg o => some (encAtom 0x1F#6 6#3 o)
  | .atomrCas o => some (encAtom 0x1F#6 7#3 o)
  | .redniAdd o => some (encAtom 0x20#6 0#3 o)
  | .redniSmin o => some (encAtom 0x20#6 1#3 o)
  | .redniSmax o => some (encAtom 0x20#6 2#3 o)
  | .redniUmin o => some (encAtom 0x20#6 3#3 o)
  | .redniUmax o => some (encAtom 0x20#6 4#3 o)
  | .redniAnd o => some (encAtom 0x20#6 5#3 o)
  | .redniOr o => some (encAtom 0x20#6 6#3 o)
  | .redniXor o => some (encAtom 0x20#6 7#3 o)
  | .rednfF32Any o => some (encCell 0x21#6 0#3 o)
  | .rednfBf16Any o => some (encCell 0x21#6 1#3 o)
  | .rednfF16Any o => some (encCell 0x21#6 2#3 o)
  | .rednfF32Ord o => some (encCell 0x21#6 3#3 o)
  | .rednfBf16Ord o => some (encCell 0x21#6 4#3 o)
  | .rednfF16Ord o => some (encCell 0x21#6 5#3 o)
  | .rednfCellz o => some (encCell 0x21#6 6#3 { f := o.f, q := o.q, c := o.c, ma := o.ma, w := o.w, a := o.a, d := 0#6, u := o.u })
  | .bewAdds o => some (encAtom 0x22#6 0#3 o)
  | .bewMuls o => some (encAtom 0x22#6 1#3 o)
  | .bewFmas o => some (encAtom 0x22#6 2#3 o)
  | .bewMaxs o => some (encAtom 0x22#6 3#3 o)
  | .bewMins o => some (encAtom 0x22#6 4#3 o)
  | .cellrdF32 o => some (encCell 0x23#6 0#3 o)
  | .cellrdBf16 o => some (encCell 0x23#6 1#3 o)
  | .cellrdRaw o => some (encCell 0x23#6 2#3 o)
  | .fence f c => some (.one (word (BitVec.ofBool f ++ 0#3) false false (0#4 ++ c) (0#6) (0#6) 0x24#6 false))
  | .pref f w a ma l => some (.one (word (BitVec.ofBool f ++ 1#3) false ma (0#3 ++ w) (a) (0#4 ++ l) 0x24#6 false))
  | .wsetG f w a => some (.one (word (BitVec.ofBool f ++ 2#3) false false (0#6) (a) (0#3 ++ w) 0x24#6 false))
  | .wsetL f w a => some (.one (word (BitVec.ofBool f ++ 3#3) false false (0#6) (a) (0#3 ++ w) 0x24#6 false))
  | .wsetA f w a => some (.one (word (BitVec.ofBool f ++ 4#3) false false (0#6) (a) (0#3 ++ w) 0x24#6 false))
  | .winv f w => some (.one (word (BitVec.ofBool f ++ 5#3) false false (0#6) (0#6) (0#3 ++ w) 0x24#6 false))
  | .winvAll f => some (.one (word (BitVec.ofBool f ++ 5#3) false false (0#6) (0#6) (8#6) 0x24#6 false))
  | .cpyGl f dw sw a => some (.one (word (BitVec.ofBool f ++ 0#3) false false (dw ++ sw) (a) (0#6) 0x25#6 false))
  | .cpyLg f dw sw a => some (.one (word (BitVec.ofBool f ++ 1#3) false false (dw ++ sw) (a) (0#6) 0x25#6 false))
  | .cpyGg f dw sw a => some (.one (word (BitVec.ofBool f ++ 2#3) false false (dw ++ sw) (a) (0#6) 0x25#6 false))
  | .cpyTgl f dw sw a => some (.one (word (BitVec.ofBool f ++ 3#3) false false (dw ++ sw) (a) (0#6) 0x25#6 false))
  | .cpyTlg f dw sw a => some (.one (word (BitVec.ofBool f ++ 4#3) false false (dw ++ sw) (a) (0#6) 0x25#6 false))
  | .cpyb f d => some (.one (word (BitVec.ofBool f ++ 5#3) false false (0#6) (0#6) (d) 0x25#6 false))
  | .cpyw f a => some (.one (word (BitVec.ofBool f ++ 6#3) false false (0#6) (a) (0#6) 0x25#6 false))
  | .bar d => some (.one (word (0#4) false false (0#6) (0#6) (d) 0x26#6 false))
  | .gbara d => some (.one (word (1#4) false false (0#6) (0#6) (d) 0x26#6 false))
  | .gbarw d => some (.one (word (2#4) false false (0#6) (0#6) (d) 0x26#6 false))
  | .sema c w a d => some (.one (word (3#4) false false (0#1 ++ c ++ w) (a) (d) 0x26#6 false))
  | .semr c w a d => some (.one (word (4#4) false false (0#1 ++ c ++ w) (a) (d) 0x26#6 false))
  | .signalAdd w a d => some (.one (word (5#4) false false (0#3 ++ w) (a) (d) 0x26#6 false))
  | .signalSet w a d => some (.one (word (5#4) false false (1#3 ++ w) (a) (d) 0x26#6 false))
  | .emit f w a d ma => some (.one (word (BitVec.ofBool f ++ 0#3) false ma (0#3 ++ w) (a) (d) 0x27#6 false))
  | .recv f w a d => some (.one (word (BitVec.ofBool f ++ 1#3) false false (0#3 ++ w) (a) (d) 0x27#6 false))
  | .close f a => some (.one (word (BitVec.ofBool f ++ 2#3) false false (0#6) (a) (0#6) 0x27#6 false))
  | .mcst f ma z b a d => some (.one (word (BitVec.ofBool f ++ 0#3) false ma (BitVec.ofBool z ++ b) (a) (d) 0x28#6 false))
  | .mldredBf16Ord f ma q b a d => some (.one (word (BitVec.ofBool f ++ 1#3) false ma (BitVec.ofBool q ++ b) (a) (d) 0x28#6 false))
  | .mldredF32Ord f ma q b a d => some (.one (word (BitVec.ofBool f ++ 2#3) false ma (BitVec.ofBool q ++ b) (a) (d) 0x28#6 false))
  | .mldredBf16Any f ma q b a d => some (.one (word (BitVec.ofBool f ++ 3#3) false ma (BitVec.ofBool q ++ b) (a) (d) 0x28#6 false))
  | .mldredF32Any f ma q b a d => some (.one (word (BitVec.ofBool f ++ 4#3) false ma (BitVec.ofBool q ++ b) (a) (d) 0x28#6 false))
  | .fmark f a => some (.one (word (BitVec.ofBool f ++ 5#3) false false (0#6) (a) (0#6) 0x28#6 false))
  | .gang a => some (.one (word (0#4) false false (0#6) (a) (0#6) 0x29#6 false))
  | .macq => some (.one (word (1#4) false false (0#6) (0#6) (0#6) 0x29#6 false))
  | .mrel => some (.one (word (2#4) false false (0#6) (0#6) (0#6) 0x29#6 false))
  | .mma ma b a t => some (.one (word (3#4) false ma (b) (a) (0#2 ++ t) 0x29#6 false))
  | .gfill w a d => some (.one (word (4#4) false false (0#3 ++ w) (a) (d) 0x29#6 false))
  | .tzero t => some (.one (word (5#4) false false (0#6) (0#6) (0#2 ++ t) 0x29#6 false))
  | .tfree t => some (.one (word (6#4) false false (0#6) (0#6) (0#2 ++ t) 0x29#6 false))
  | .tfreeAll => some (.one (word (6#4) false false (0#6) (0#6) (16#6) 0x29#6 false))
  | .tredAdd src t => some (.one (word (7#4) false false (0#6) (0#2 ++ src) (0#2 ++ t) 0x29#6 false))
  | .tredRow src d => some (.one (word (7#4) false false (1#6) (0#2 ++ src) (d) 0x29#6 false))
  | .tmovr c n t d => some (.one (word (0#4) false false (c) (n ++ t) (d) 0x2A#6 false))
  | .tmovw c n t d => some (.one (word (1#4) false false (c) (n ++ t) (d) 0x2A#6 false))
  | .tcvt r fmt q t d => some (.one (word (2#4) false false (r ++ fmt) (q ++ t) (d) 0x2A#6 false))
  | .spb f n w a d => some (.one (word (BitVec.ofBool f ++ 0#3) false false (n ++ w) (a) (d) 0x2B#6 false))
  | .fla f n w a d => some (.one (word (BitVec.ofBool f ++ 1#3) false false (n ++ w) (a) (d) 0x2B#6 false))
  | .vfree ma c a => some (.one (word (2#4) false ma (c) (a) (0#6) 0x2B#6 false))
  | .hint m mb ma b a d k u => some (.one (word m mb ma b a d (15#4 ++ k) u))
  | .mcgtabWrite _ => none
  | .bridgecfgWrite _ => none
  | .portRetrainRequest _ => none
  | .bridgeLinkDown _ => none
  | .mainPowerRemoval => none
  | .reservedEncoding _ => none
  | .instructionFetchFault => none

/-- The bytes of an instruction, empty for an event. -/
def Instr.bytes (i : Instr) : List Byte :=
  match encode i with
  | some e => e.bytes
  | none => []

/-- The instruction the decoder reads from bits numbered as the opcode table numbers them, with zeros above. -/
noncomputable def decodeTableWord (nbits w : Nat) : Option Instr :=
  match decode (Machine.leBytes (nbits / 8) w ++ List.replicate (8 - nbits / 8) 0#8) with
  | .ok (i, _) => some i
  | .error _ => none

end Sys2Proof
end

