-- ==== Sys2Proof/Machine/System.lean ====
section
/-!
DEFINITION. Spill and fill (R313 to R315), control registers (R215, R316 to R319), and the system instructions (R251,
R320 to R322, R374).
-/
namespace Sys2Proof.Machine

/-! ## SPB, FLA and VFREE (R313 to R315) -/

/-- The parts of `n` bytes at offset `o` that are checked and the lines that are accessed, by offset: a global window's
run is cut at 64 KiB pages. -/
def State.wholeParts (s : State) (w o n : Nat) : List (Nat × Nat) :=
  let x := s.me.window w
  if x.kind = 2 then [(0, n)] else cutRun 16 2 (x.addr o) 0 n

/-- Check a run through a window as one access, part by part (R41, R45). -/
def State.checkParts (s : State) (w : Nat) (acc : Acc) (o : Nat) : List (Nat × Nat) → State × List (LaneChk × Nat × Nat)
  | [] => (s, [])
  | (k, n) :: rest =>
    let p := s.checkLane w acc .plain (o + k) n
    let q := p.1.checkParts w acc o rest
    (q.1, ({ lane := 0, addr := p.2.1, out := p.2.2 }, k, n) :: q.2)

/-- The accesses of a checked run, one for each line: target, offset in the run, length. -/
def wholeLines (x : Window) (o : Nat) (ps : List (LaneChk × Nat × Nat)) : List (Loc × Nat × Nat) :=
  ps.flatMap fun p => (cutRun 6 (p.2.2 / 64 + 2) (x.addr o + p.2.1) 0 p.2.2).map fun c =>
    (p.1.out.loc.plus c.1, p.2.1 + c.1, c.2)

/-- The bytes of `n` registers from `d`, all 64 lanes, and which are poisoned (R313). -/
def Cohort.wholeBytes (c : Cohort) (d n : Nat) : List (Byte × Bool) :=
  (List.range n).flatMap fun m => (List.range 64).flatMap fun i =>
    (leBytes 4 ((c.vget (d + m)).lane i).toNat).map fun b => (b, (c.vget (d + m)).poison.getLsbD i)

/-- A whole-register access of `n` registers after its scalar is read: the checks of R313 in their order, then `go` with
the address and the accesses. -/
def State.whole (s : State) (acc : Acc) (fkind w a n : Nat) (go : State → Nat → List (Loc × Nat × Nat) → State) : State :=
  let x := s.me.window w
  let o := (s.me.sget a).toNat
  if s.me.spoison a then s.queueTrap 6 1 s.me.present 0
  else if x.kind ≠ 1 ∧ x.kind ≠ 2 then s.accessTrap 2 5 1#64
  else if o % 16 ≠ 0 then s.accessTrap 5 0 1#64
  else
    let p := s.checkParts w acc o (s.wholeParts w o (256 * n))
    match verdict 1 false fkind 16 (p.2.map (·.1)) with
    | .wait => s
    | .queue code sub mask => p.1.accessTrap code sub mask
    | .inLane f mask => p.1.pageFault { f with lanes := f.lanes.take 1 } mask
    | .go => go p.1 (x.addr o) (wholeLines x o p.2)

/-- The operation of a whole-register access. -/
def wholeOp (kind : OpKind) (d : Nat) (flag : Option Nat) (ls : List (Loc × Nat × Nat)) (bs : List (Byte × Bool)) : MemOp :=
  { id := 0, kind := kind, scope := 0, acq := false, rel := false
    lanes := ls.mapIdx fun k x =>
      let part := (bs.drop x.2.1).take x.2.2
      { lane := k, loc := x.1, addr := x.2.1, len := x.2.2, data := part.map (·.1)
        poisoned := maskOf ((List.range x.2.2).filter fun i => (part.getD i (0#8, false)).2), sent := false, result := none }
    d := d, u := false, em := 0#64, flag := flag, stage := .issued, passed := false, recs := [] }

/-- SPB: `n` registers to memory as one plain store, each name freed once read; its flag rises and falls at issue. -/
def execSpb (f : Bool) (n w : BitVec 3) (a d : Reg) (s : State) : Out :=
  let _ := f
  let k := 2 ^ n.toNat
  .next (s.whole .store 1 w.toNat a.toNat k fun s addr ls =>
    let bs := s.me.wholeBytes d.toNat k
    let t := (s.setMe (s.me.freeAll (groupNames d.toNat k))).pushOp (wholeOp (.spb k) d.toNat none ls bs)
    (t.logWrite addr (bs.map (·.1))).retire 4)

/-- FLA: `n` registers from memory, every present lane. -/
def execFla (f : Bool) (n w : BitVec 3) (a d : Reg) (s : State) : Out :=
  let k := 2 ^ n.toNat
  let names := groupNames d.toNat k
  .next (s.whole .load 0 w.toNat a.toNat k fun s _ ls =>
    let fresh := (names.filter fun r => !s.me.allocated r).length
    if s.canAlloc fresh = false then s.waitOn .allocV
    else
      let flag := s.me.flagOf f
      let t := (s.setMe ((s.me.claim names).raise flag)).pushOp (wholeOp (.fla k) d.toNat flag ls [])
      t.retire 4)

/-- VFREE. -/
def execVfree (ma : Bool) (c a : Reg) (s : State) : Out :=
  let _ := ma
  .next ((s.setMe (s.me.freeAll (groupNames a.toNat (c.toNat + 1)))).retire 4)

/-! ## Control registers (R183, R215, R316, R372) -/

/-- Whether a register is marked S. -/
def crSup (i : Nat) : Bool := i == 0x20 || (decide (0x30 ≤ i ∧ i ≤ 0x32)) || decide (0x50 ≤ i ∧ i ≤ 0x5F)

/-- cr.srwstat (Table 6-7). -/
def Context.srwstat (c : Context) : Word :=
  BitVec.ofNat 32 ((if c.srwWarn then 2 ^ 31 else 0) + (if c.srwEvict then 2 ^ 30 else 0) + c.filter.length)

/-- cr.tstat (Table 11-3). -/
def Company.tstat (h : Company) : Word :=
  BitVec.ofNat 32 ((h.dirty.map fun p => 2 ^ (16 + p.1)).foldl (· + ·) 0 + (h.tiles.map fun p => 2 ^ p.1).foldl (· + ·) 0)

/-- Whether an index is assigned to a register held per cohort in `cr` (Tables 8-6, 10-6, 11-7, 14-3). -/
def crOwn (i : Nat) : Bool :=
  decide (0x16 ≤ i ∧ i ≤ 0x1B) || decide (0x21 ≤ i ∧ i ≤ 0x23) || decide (0x30 ≤ i ∧ i ≤ 0x32) || i == 0x40
    || decide (0x50 ≤ i ∧ i ≤ 0x59) || i == 0x5C || i == 0x5D || decide (0x60 ≤ i ∧ i ≤ 0x6F)

/-- What a control register reads as; cr.wid0 as lane 0 does (R183), an index that is not assigned as zero (R215). -/
def State.crRead (s : State) (i : Nat) : Word :=
  if i = 0 then lo32 s.me.wid
  else if i = 1 then hi32 s.me.wid
  else if i = 2 then BitVec.ofNat 32 (16 * s.me.role + s.me.j)
  else if i = 3 then BitVec.ofNat 32 s.me.n0
  else if i = 4 then s.co.lseq
  else if 0x10 ≤ i ∧ i ≤ 0x13 then s.cx.key.getD (i - 0x10) 0#32
  else if i = 0x14 then s.cx.step
  else if i = 0x15 then s.cx.srwstat
  else if i = 0x20 then s.cx.supfail
  else if i = 0x41 then s.me.clause
  else if i = 0x42 then s.co.tstat
  else if i = 0x5A then s.cx.tctl
  else if i = 0x5B then s.cx.wstat
  else if crOwn i then s.me.crget i
  else 0#32

/-- Clear the bits that a write has as 1, among those marked RW1C. -/
def clearOnes (old new : Word) (mask : Nat) : Word := old &&& ~~~ (new &&& BitVec.ofNat 32 mask)

/-- A write of a control register by CRWR: fields marked RO keep their value, RW1C bits are cleared by ones, and an index
that is not assigned is ignored (R215). -/
def State.crWrite (s : State) (i : Nat) (x : Word) : State :=
  let put (v : Word) : State := s.setMe (s.me.crput i v)
  if i = 0x15 then s.setCx { s.cx with srwWarn := s.cx.srwWarn && !x.getLsbD 31, srwEvict := s.cx.srwEvict && !x.getLsbD 30 }
  else if 0x16 ≤ i ∧ i ≤ 0x1B then put x
  else if i = 0x20 then s.setCx { s.cx with supfail := x }
  else if i = 0x21 then put (clearOnes (s.me.crget i) x 0xC0000000)
  else if i = 0x23 then put (clearOnes (s.me.crget i) x 0x80000000)
  else if i = 0x32 then put x
  else if i = 0x40 then put ((clearOnes (s.me.crget i) x 0x80000000 &&& 0x80000000#32) ||| (x &&& 0xFFFF#32))
  else if i = 0x53 ∨ i = 0x54 then put x
  else if i = 0x5A then s.setCx { s.cx with tctl := x &&& 7#32 }
  else if i = 0x5B then s.setCx { s.cx with wstat := clearOnes s.cx.wstat x 0xE0000000 }
  else if 0x60 ≤ i ∧ i ≤ 0x6F then put (clearOnes (s.me.crget i) x 0xFFFFFFFF)
  else s

/-- An access of a control register: an S register at user privilege raises #ILL PRIV (R215, R217). -/
def crPriv (i : Nat) (f : State → State) (s : State) : State := if crSup i && !s.me.priv then s.ill 6 else f s

/-- CRRD. -/
def execCrrd (d : Reg) (idx : BitVec 12) (s : State) : Out :=
  .next (crPriv idx.toNat (fun s => (s.setMe (s.me.sput d.toNat (s.crRead idx.toNat))).retire 4) s)

/-- CRWR. -/
def execCrwr (d : Reg) (idx : BitVec 12) (s : State) : Out :=
  .next (crPriv idx.toNat (fun s =>
    if s.me.spoison d.toNat then s.queueTrap 6 1 s.me.present 0
    else (s.crWrite idx.toNat (s.me.sget d.toNat)).retire 4) s)

/-- CRRDV: active lanes receive the register, cr.wid0 with their own lane number (R183). -/
def execCrrdv (d : Reg) (idx : BitVec 12) (s : State) : Out :=
  .next (crPriv idx.toNat (fun s =>
    laneOp { n := 4, u := false, vs := [], ss := [], frees := [], d := d.toNat, full := true, cnt := none, put := putWhole
             res := fun i => if idx = 0#12 then s.crRead 0 ||| BitVec.ofNat 32 i else s.crRead idx.toNat } s) s)

/-- A write of the stochastic-rounding key or step: a change empties the key-use filter (R172, R175, R317). -/
def State.setSr (s : State) (key : List Word) (step : Word) : State :=
  if key = s.cx.key ∧ step = s.cx.step then s
  else
    let others := (s.companies.filter fun h => h.asid == s.co.asid).flatMap fun h => h.cohorts.map fun c => (h.dseq, c.j)
    s.setCx { s.cx with key := key, step := step, srOld := (s.cx.key, s.cx.step), filter := [], srStale := others.filter fun p => p != (s.co.dseq, s.me.j) }

/-- SRKEY. -/
def execSrkey (a : Reg) (s : State) : Out :=
  let rs := groupNames a.toNat 4
  .next (
    if rs.any s.me.spoison then s.queueTrap 6 1 s.me.present 0
    else (s.setSr (rs.map s.me.sget) s.cx.step).retire 4)

/-- SRSTEP. -/
def execSrstep (a : Reg) (s : State) : Out :=
  .next (
    if s.me.spoison a.toNat then s.queueTrap 6 1 s.me.present 0
    else (s.setSr s.cx.key (s.me.sget a.toNat)).retire 4)

/-! ## Counters and clocks (R318, R319) -/

/-- What an operation counter reads as: zero for an index that Table 15-12 does not assign (R318, R409, R410). -/
def Context.counter (c : Context) (i : Nat) : DWord :=
  if i = 126 then c.sat.setWidth 64
  else if i = 127 then (c.sat >>> 64).setWidth 64
  else if i ≤ 10 ∨ (16 ≤ i ∧ i ≤ 39) then Store.get 0#64 c.cnt i
  else 0#64

/-- The value that a replay returns for CNTRD or CLKRD: the next VALUE record and the EXT record after it (R401). -/
def State.loggedValue (s : State) : Option DWord :=
  if s.recording && s.recMode == 3 then
    match (s.dev.recUnit.expect.filter fun p => p.1 == s.core / 16 && p.2.core == s.core % 16 && p.2.slot == s.me.slot).map (·.2) with
    | v :: x :: _ => if v.kind = 3 ∧ x.kind = 15 then some (BitVec.ofNat 64 (x.chk * 2 ^ 48 + v.payload)) else none
    | _ => none
  else none

/-- Record a value returned by CNTRD or CLKRD: VALUE, then EXT with its top bits (Table 15-4). -/
def State.logValue (s : State) (v : DWord) : State :=
  if s.recording then
    let p := s.closeChunk 3 (v.toNat % 2 ^ 48)
    (p.1.emitRec p.2).emitRec { kind := 15, core := s.core % 16, slot := s.me.slot, chk := v.toNat / 2 ^ 48, chunk := 0, icnt := 0, payload := 0 }
  else s

/-- Write a value to a pair, retire and log it. -/
def State.returnValue (s : State) (d : Nat) (v : DWord) : State :=
  let x := s.loggedValue.getD v
  ((s.setMe (s.me.sput64 d x)).retire 4).logValue x

/-- CNTRD: REPLAYABLE (Table 7-7). -/
def execCntrd (d : Reg) (idx : BitVec 12) (s : State) : Out :=
  .next (replayable (fun s => s.returnValue d.toNat (s.cx.counter idx.toNat)) s)

/-- CLKRD: REPLAYABLE (Table 7-7). -/
def execClkrd (d : Reg) (g : BitVec 3) (s : State) : Out :=
  .next (replayable (fun s =>
    let p := s.readClock (if g = 7#3 then s.hall else g.toNat)
    p.1.returnValue d.toNat p.2) s)

/-! ## Ending and trapping -/

/-- Whether an ended cohort's operation is still performed: what returns nothing (R251). -/
def MemOp.outlives (o : MemOp) : Bool :=
  match o.kind with
  | .load _ | .ldu _ | .fla _ | .mldred _ _ _ | .fetch => false
  | _ => true

/-- EXIT: ends the cohort, which leaves its gang; in the handler it is #PF HANDLER (R251, R296). -/
def execExit (s : State) : Out :=
  .next (
    if s.me.handler then s.queueTrap 4 8 s.me.present 0
    else
      let t := s.leaveGang.retire 4
      let me := { t.me with stat := .ended, v := [], active := false, ops := t.me.ops.filter MemOp.outlives }
      (((t.setMe me).setCo { t.co with ended := t.co.ended ++ [me.j] }).closeBar).closeGrid)

/-- TRAP. -/
def execTrap (imm : BitVec 12) (s : State) : Out := .next (s.queueTrap 10 0 s.me.present imm.toNat)

/-- SYS. -/
def execSys (imm : BitVec 12) (s : State) : Out :=
  .next (s.inLane { cls := 1, code := 11, sub := 0, mask := s.me.em, imm := imm.toNat, pc := s.me.pc, keepEm := true, frame := none })

/-- BKPT: #BKPT stops the context as HALT does where cr.tctl.BKE is 1, with tpc at the next instruction (R320, R379). -/
def execBkpt (imm : BitVec 12) (s : State) : Out :=
  let t := s.retire 4
  .next (
    if s.cx.tctl.getLsbD 0 then
      (t.setMe (t.me.trapRegs 4 12 0 t.me.em imm.toNat t.me.pc)).haltAs s.me.wid s.me.pc
    else t)

/-- HALT: stops the context and saves it, or stops it in place (R322). -/
def execHalt (s : State) : Out :=
  .next (if s.me.priv then (s.retire 4).haltAs s.me.wid s.me.pc else s.ill 6)

/-! ## RETT (R50, R97, R321, R374) -/

/-- The saved program counter, cr.tpc. -/
def Cohort.tpc (c : Cohort) : VAddr := (c.crget 0x52).setWidth 24 ++ c.crget 0x51
/-- The saved em, cr.tem. -/
def Cohort.tem (c : Cohort) : Mask := pair64 (c.crget 0x53) (c.crget 0x54)

/-- The restore that every RETT makes as it retires: em, clause, privilege and program counter (R374). -/
def Cohort.restore (c : Cohort) : Cohort :=
  { c with em := c.tem &&& c.present, clause := c.crget 0x58, priv := false, handler := false, pc := c.tpc
           icount := c.icount + 1, chunkN := c.chunkN + 1 }

/-- The emulated LD or ST at the saved pc retires as its handler returns: the pc passes it, its offset mark acts, and an
.ACQ acts as a FENCE of its scope (R97). -/
def State.endEmulated (s : State) : State :=
  let p := s.fetchWord false s.me.pc.toNat
  match p.2 with
  | some w =>
    let r := Raw.ofWord w 0#32
    let t := p.1.setMe (p.1.me.freeAll (if r.ma then [r.a.toNat] else []))
    let acq := decide (r.maj = 0x1B) && r.mn / 4 % 2 == 1
    (if acq then t.pushOp (fenceOp (r.mn % 4)) else t).retire 4
  | none => p.1.retire 4

/-- Resume as cr.tcause and cr.fres direct, after the restore (R50, R97, R321, R374). -/
def State.resume (s : State) (cls code fres : Nat) : State :=
  if cls = 1 ∧ code = 4 then
    if fres = 0 then s
    else if fres = 1 then s.waitOn .pool
    else if fres = 2 then s.waitOn .time
    else s.queueTrap 4 8 s.me.present 0
  else if 3 ≤ fres then s.queueTrap 4 8 s.me.present 0
  else if cls = 1 ∧ code = 5 then s.endEmulated
  else if cls = 1 ∧ code = 11 then s.retire 4
  else s

/-- A queue-level trap that was held during the handler is raised at the boundary after its RETT (R374). -/
def State.raiseHeld (s : State) : State :=
  match s.me.heldTrap with
  | some t => (s.setMe { s.me with heldTrap := none }).queueTrap t.code t.sub t.mask t.imm
  | none => s

/-- RETT: waits until every flag is zero, restores, and resumes by the cause of entry. -/
def execRett (s : State) : Out :=
  let c := (s.me.crget 0x50).toNat
  let code := bits c 23 16
  .next (
    if s.me.priv = false then s.ill 6
    else if s.me.handler = false then s.queueTrap 4 8 s.me.present 0
    else if s.me.f.isEmpty = false then s.waitOn .flags
    else
      let t := (s.setMe s.me.restore).log 4 (trapPayload code (bits c 15 0) 1)
      let u := t.resume (bits c 31 24) code (s.me.crget 0x32).toNat
      if u.me.stat = .running then u.raiseHeld else u)

end Sys2Proof.Machine
end

