-- ==== Sys2Proof/Machine/Image.lean ====
section
/-!
DEFINITION. The context image (R386 to R389): its bytes, the save of a company and of a context (R385, R387, R322), and the
restore (R390, R391).
-/
namespace Sys2Proof.Machine

/-! ## The bytes of an image -/

/-- A mask of names. -/
def nameMask (ns : List Nat) : Nat := (ns.map fun n => 2 ^ n).foldl (· + ·) 0

/-- A word of CREG. -/
def Cohort.creg (c : Cohort) (lseq : Word) (i : Nat) : Word :=
  if i = 0 then lo32 c.wid else if i = 1 then hi32 c.wid else if i = 2 then BitVec.ofNat 32 (16 * c.role + c.j)
  else if i = 3 then BitVec.ofNat 32 c.n0 else if i = 4 then lseq else if i = 0x41 then c.clause
  else if crOwn i then c.crget i else 0#32

/-- A window of a cohort record. -/
def Window.bytes (w : Window) : List Byte :=
  leBytes 8 w.base.toNat ++ leBytes 8 w.pa.toNat ++ leBytes 4 w.limit.toNat ++ leBytes 1 w.kind
    ++ leBytes 1 ((if w.rp then 1 else 0) + (if w.wp then 2 else 0) + (if w.dt then 4 else 0)) ++ leBytes 2 w.asid.toNat
    ++ leBytes 8 w.gen.toNat ++ leBytes 32 0

/-- STATE of a cohort record. -/
def Cohort.stateCode (c : Cohort) : Nat :=
  (match c.stat with
    | .stopped k => k
    | _ => 1) + (if c.priv then 4 else 0)

/-- A cohort record (Table 14-10). -/
def Cohort.record (c : Cohort) (lseq : Word) : List Byte :=
  let names := c.v.map (·.1)
  leBytes 8 c.pc.toNat ++ leBytes 8 c.em.toNat ++ leBytes 8 (nameMask names) ++ leBytes 4 c.stateCode ++ leBytes 4 c.clause.toNat
    ++ leBytes 4 c.gang.toNat ++ leBytes 4 0 ++ leBytes 8 c.icount ++ leBytes 16 0
    ++ ((List.range 64).flatMap fun i => leBytes 4 (c.sget i).toNat)
    ++ ((List.range 32).flatMap fun i => leBytes 8 (c.pget i).toNat)
    ++ ((List.range 112).flatMap fun i => leBytes 4 (c.creg lseq i).toNat)
    ++ ((List.range 8).flatMap fun i => (c.window i).bytes)
    ++ ((List.range 64).flatMap fun i => leBytes 8 (if c.allocated i then (c.vget i).poison.toNat else 0))
    ++ leBytes 8 c.sp.toNat ++ leBytes 2040 0
    ++ (names.flatMap fun r => (c.vget r).bytes)

/-- 4 KiB units that hold `n` bytes. -/
def pagesOf (n : Nat) : Nat := (n + 4095) / 4096

/-- The cohorts of a company that have records. -/
def Company.alive (h : Company) : List Cohort := h.cohorts.filter fun c => c.stat != .ended

/-- Bytes of the cohort records. -/
def Company.cohortBytes (h : Company) : Nat := (h.alive.map fun c => 4096 + 256 * c.vcount).foldl (· + ·) 0

/-- RECSIZE of a company placed (R388). -/
def Company.recPages (h : Company) : Nat :=
  1 + h.hdr.lsgran + 4 * h.tiles.length + pagesOf (512 * h.tiles.length) + pagesOf h.cohortBytes

/-- An entry of GANGS: gang, 1 owner or 2 waiting, FIFO position, RELEASED (Table 14-9). -/
def gangEntry (owner : Bool) (pos : Nat) (e : GangEntry) : List Byte :=
  let ms := gangMembers e.gang
  let rel := if owner then nameMask ((List.range ms.length).filter fun m => e.released.contains (ms.getD m 99)) else 0
  leBytes 8 (e.gang.toNat + (if owner then 1 else 2) * 2 ^ 32 + pos % 256 * 2 ^ 40 + rel * 2 ^ 48)

/-- GANGS of a company on a core. -/
def State.gangTable (s : State) (h : Company) : List Byte :=
  let fifo := s.dev.engines.filter fun e => some e.core == h.coreOf
  let mine := (fifo.mapIdx fun i e => (i, e)).filter fun p => p.2.dseq == h.dseq
  let es := mine.map fun p => gangEntry (p.2.owns || h.regain.contains p.2.gang) p.1 p.2
  (es.flatten ++ List.replicate 128 0#8).take 128

/-- An entry of SLOTS. -/
def Slot.entry (x : Slot) : List Byte :=
  leBytes 8 (x.srcva.toNat + (if x.valid then 2 ^ 56 else 0) + (if x.poison then 2 ^ 57 else 0)) ++ leBytes 2 x.asid.toNat ++ leBytes 6 0
    ++ leBytes 8 x.gen.toNat

/-- FLAGS of a launch header. -/
def LHdr.flags (h : LHdr) : Nat := (if h.persist then 1 else 0) + (if h.split then 2 else 0) + 4 * h.cls

/-- The header of a company record (Table 14-9). -/
def State.companyHeader (s : State) (h : Company) (placed : Bool) (hall : Nat) : List Byte :=
  let no (n : Nat) : Nat := if placed then n else 0
  leBytes 8 h.dseq ++ leBytes 4 h.lseq.toNat ++ leBytes 2 (nameMask h.created) ++ leBytes 2 (nameMask h.ended) ++ leBytes 8 h.cwid.toNat
    ++ leBytes 8 h.lhdr.toNat ++ leBytes 2 h.hdr.lsgran ++ leBytes 1 h.hdr.tfloor ++ leBytes 1 h.hdr.gfloor
    ++ leBytes 1 (no h.slots.length) ++ leBytes 1 h.hdr.flags ++ leBytes 2 (no (nameMask (h.tiles.map (·.1))))
    ++ leBytes 2 (no (nameMask (h.dirty.map (·.1)))) ++ leBytes 1 (if placed then 1 else 0) ++ leBytes 1 h.hdr.vfloor0
    ++ leBytes 1 h.hdr.vfloor1 ++ leBytes 1 h.hdr.nprod ++ leBytes 2 hall ++ leBytes 4 (if placed then h.recPages else 1) ++ leBytes 76 0
    ++ (if placed then s.gangTable h else leBytes 128 0)
    ++ (if placed then ((h.slots.flatMap Slot.entry) ++ List.replicate 3072 0#8).take 3072 else leBytes 3072 0) ++ leBytes 768 0

/-- The tile poison map (R388). -/
def Tile.poisonMap (t : Tile) : List Byte :=
  (List.range 512).map fun k => BitVec.ofNat 8 (nameMask ((List.range 8).filter fun b => Store.get false t.poison (8 * k + b)))

/-- Zero bytes up to a multiple of 4 KiB. -/
def padPage (bs : List Byte) : List Byte := bs ++ List.replicate (pagesOf bs.length * 4096 - bs.length) 0#8

/-- A company record (R388). -/
def State.companyRecord (s : State) (h : Company) (hall : Nat) : List Byte :=
  s.companyHeader h true hall ++ Store.getRun 0#8 h.ls 0 h.lsLen ++ (h.tiles.flatMap fun p => (h.tileOf p.1).bytes)
    ++ padPage (h.tiles.flatMap fun p => (h.tileOf p.1).poisonMap) ++ padPage (h.alive.flatMap fun c => c.record h.lseq)

/-- The context header (Table 14-8). -/
def Context.header (c : Context) : List Byte :=
  leBytes 4 1 ++ leBytes 4 c.image.length ++ leBytes 4 c.used ++ leBytes 4 c.tctl.toNat ++ (c.key.flatMap fun k => leBytes 4 k.toNat)
    ++ leBytes 4 c.step.toNat ++ leBytes 4 c.srwstat.toNat ++ leBytes 4 c.supfail.toNat ++ leBytes 4 c.glgen.toNat
    ++ leBytes 4 c.wstat.toNat ++ leBytes 4 c.lseq.toNat ++ leBytes 8 0
    ++ ((c.filter.flatMap fun e => leBytes 4 e.1.toNat ++ leBytes 4 e.2.toNat) ++ List.replicate 512 0#8).take 512
    ++ leBytes 448 0 ++ c.cntBytes ++ leBytes 2048 0

/-! ## Saving (R385, R387) -/

/-- Base and size in 4 KiB units of the image area of the current context. -/
def State.imgArea (s : State) : Nat × Nat := let e := s.dev.imgEntry s.cx.asid; (e.2.1, if e.1 then e.2.2.1 else 0)

/-- Write one record of a company at the end of the image, with the poisoned granules of its local store (R388). -/
def State.addRecord (s : State) (h : Company) (bs : List Byte) (placed : Bool) : State :=
  let a := s.imgArea.1 + s.cx.used * 4096
  let d := s.dev.putP a bs 0#64
  let d := if placed then { d with bad := h.lsBad.foldl (fun b g => if g.2 then Store.set false b (a / 16 + 256 + g.1) true else b) d.bad } else d
  (s.setDev d).setCx { s.cx with used := s.cx.used + bs.length / 4096, image := s.cx.image ++ [h.dseq] }

/-- Write the context header, last (R387). -/
def State.writeHeader (s : State) : State :=
  if s.imgArea.2 = 0 then s else s.setDev (s.dev.putP s.imgArea.1 s.cx.header 0#64)

/-- The companies of the current context. -/
def State.mine (s : State) : List Company := s.companies.filter fun h => h.asid == s.cx.asid

/-- The hall that a company's record names. -/
def Company.hallOf (h : Company) : Nat :=
  match h.place with
  | .core c => c / 128
  | .queued q | .saved q => q
  | _ => 0

/-- 4 KiB units that the current context's unsaved companies add to its image. -/
def State.unsaved (s : State) : Nat :=
  (s.mine.map fun h => match h.place with
    | .core _ => h.recPages
    | .saved _ => 0
    | _ => 1).foldl (· + ·) 0

/-- Whether the whole image of the current context fits its area (R322, R375, R387). -/
def State.imgFits (s : State) : Bool := (s.dev.imgEntry s.cx.asid).1 && decide (max 1 s.cx.used + s.unsaved ≤ s.imgArea.2)

/-- #RES IMAGE, charged to the lowest cohort of a company that did not fit; the header counts what was written (R387). -/
def State.imageFull (s : State) (h : Company) : State :=
  let t := s.writeHeader
  match h.alive.head? with
  | some c => t.onCohort h.dseq c.j fun u => u.queueTrap 9 3 u.me.present 0
  | none => t.onCohort h.dseq ((h.cohorts.map (·.j)).headD 0) fun u => u.queueTrap 9 3 u.me.present 0

/-- A company as it stands while its context is saved: what the area held is back, and its core is free (R340, R385). -/
def Company.shelved (h : Company) : Company :=
  { h with place := .saved h.hallOf, cohorts := h.alive, latches := [], victim := false, late := false, restored := true
           regain := [] }

/-- Save the current company, which is placed and still (R385), each cohort after a FENCE.POD, which covers its failures (R113, R130). -/
def State.saveCompany (s : State) : State :=
  let t := s.parkMe.unspill.publish 3
  let t := t.setCo { t.co with cohorts := t.co.cohorts.map fun c => c.coverIf Origin.isAccess }
  let h := t.co
  let t := t.setCx { t.cx with used := max 1 t.cx.used }
  if t.imgArea.2 < t.cx.used + h.recPages then t.imageFull h
  else
    let u := t.addRecord h (t.companyRecord h h.hallOf) true
    let d := { u.dev with engines := u.dev.engines.filter fun e => e.dseq != h.dseq }
    (u.setDev d).setCo h.shelved

/-- Save the unplaced companies of the current context, oldest first (R383, R387); none remains if all were saved. -/
def State.saveUnplaced : List Company → State → State × Bool
  | [], s => (s, true)
  | h :: hs, s =>
    let s := s.setCx { s.cx with used := max 1 s.cx.used }
    if s.imgArea.2 < s.cx.used + 1 then (s.imageFull h, false)
    else
      let t := s.addRecord h (s.companyHeader h false h.hallOf) false
      let t := t.onCompany h.dseq fun u => u.setCo { u.co with place := .saved h.hallOf }
      State.saveUnplaced hs t

/-- Clear PRECTL.BUSY of a context, with ERR where its save failed (R382, R385). -/
def Device.endPrectl (d : Device) (asid : Nat) (err : Bool) : Device :=
  if bit (d.reg 0x6000) 31 ∧ bits (d.reg 0x6000) 11 0 = asid then
    let d := d.setField 0x6000 31 31 0
    if err then d.setField 0x6000 30 30 1 else d
  else d

/-- Post the halt event of the current context (R322). -/
def State.postHalt (s : State) : State :=
  match s.cx.halter with
  | some h => (s.setDev (s.dev.post 4 h.2.2.1 h.2.2.2 h.1.toNat h.2.1.toNat)).setCx { s.cx with halter := none }
  | none => s

/-- The current context stops in place, without an image (R322). -/
def State.stopInPlace (s : State) : State :=
  let t := s.setCx { s.cx with stat := .inPlace }
  (t.setDev (t.dev.endPrectl t.cx.asid false)).postHalt

/-- The save of the current context ends once no company of it is on a core: unplaced companies, then the header; a HALT without
room stops in place (R322, R385, R387, R390). -/
def State.endSave (s : State) : State :=
  match s.cx.stat with
  | .saving b =>
    if s.mine.any fun h => h.coreOf.isSome then s
    else if b && !s.imgFits then s.stopInPlace
    else
      let p := State.saveUnplaced (s.mine.filter fun h => match h.place with
        | .saved _ => false
        | _ => true) s
      if p.2 then
        let t := p.1.setCx { p.1.cx with used := max 1 p.1.cx.used }
        let t := t.writeHeader
        let dig := sha3 (t.cx.image.flatMap fun d => leBytes 8 d)
        let t := t.setCx { t.cx with stat := .saved, ncomp := t.cx.image.length, digest := dig }
        (t.setDev (t.dev.endPrectl t.cx.asid false)).postHalt
      else p.1
  | _ => s

/-- Whether the saver can take a company: every cohort has stopped or ended, and its operations, copies, fills and matrix
work are complete (R385). -/
def State.savable (s : State) (h : Company) : Bool :=
  h.cohorts.all (fun c => c.ops.isEmpty && (c.stat == .ended || (match c.stat with
    | .stopped _ => true
    | _ => false))) && h.fired.isEmpty && !(s.dev.fills.any fun f => f.dseq == h.dseq) &&
    !(s.dev.pieces.any fun p => match p.owner with
      | .cohort d _ => d == h.dseq
      | .packet _ _ => false)

/-- COMPANY_SAVE: one company of a context that is being saved. A HALT saves once all its companies stand still, and stops in
place without an image that fits (R322). -/
def execCompanySave (dseq : Nat) (s : State) : Out :=
  .next (s.onCompany dseq fun t =>
    let halt : Option Bool := match t.cx.stat with
      | .saving b => some b
      | _ => none
    match halt, t.co.coreOf with
    | some b, some _ =>
      if t.savable t.coAll = false then t
      else if b then
        (if (t.mine.filter fun h => h.coreOf.isSome).all t.savable = false then t
        else if t.imgFits then t.saveCompany.endSave
        else t.stopInPlace)
      else t.saveCompany.endSave
    | _, _ => t)

/-- COMPANY_RETIRE: a company whose cohorts have all ended is gone; a save that waited for it alone ends (R184, R383). -/
def execCompanyRetire (dseq : Nat) (s : State) : Out :=
  .next (s.onCompany dseq fun t =>
    match t.co.place with
    | .core _ => if t.retireReady then t.retireCompany.endSave else t
    | _ => t)

/-! ## Restoring (R390) -/

/-- Whether a run of bytes is zero. -/
def zeroRun (bs : List Byte) (o n : Nat) : Bool := pkt bs o n == 0

/-- The names of a mask of `n` bits. -/
def namesOf (n x : Nat) : List Nat := (List.range n).filter fun i => bit x i

/-- A window from its 64 bytes; none with a field out of range. -/
def windowOf (bs : List Byte) : Option Window :=
  if 2 ^ 56 ≤ pkt bs 0 8 ∨ 2 ^ 58 ≤ pkt bs 8 8 ∨ 3 < pkt bs 0x14 1 ∨ 7 < pkt bs 0x15 1 ∨ 4095 < pkt bs 0x16 2 ∨ zeroRun bs 0x20 32 = false
  then none
  else some { kind := pkt bs 0x14 1, base := BitVec.ofNat 56 (pkt bs 0 8), pa := BitVec.ofNat 58 (pkt bs 8 8)
              limit := BitVec.ofNat 32 (pkt bs 0x10 4), rp := bit (pkt bs 0x15 1) 0, wp := bit (pkt bs 0x15 1) 1
              dt := bit (pkt bs 0x15 1) 2, asid := BitVec.ofNat 12 (pkt bs 0x16 2), gen := BitVec.ofNat 64 (pkt bs 0x18 8) }

/-- A cohort of a record: what the record holds over what the device keeps, with absent lanes zero (R178); none with a field out of range. The rest of the
bytes is what follows it. -/
def Cohort.restoreFrom (c : Cohort) (bs : List Byte) : Option (Cohort × List Byte) :=
  let names := namesOf 64 (pkt bs 0x10 8)
  let code := pkt bs 0x18 4
  let wins := (List.range 8).map fun i => windowOf ((bs.drop (0x400 + 64 * i)).take 64)
  if 2 ^ 56 ≤ pkt bs 0 8 ∨ 7 < code ∨ wins.any (·.isNone) ∨ zeroRun bs 0x24 4 = false ∨ zeroRun bs 0x30 16 = false
      ∨ zeroRun bs 0x808 2040 = false then none
  else
    let regs := names.mapIdx fun k r =>
      (r, some ((vregOf ((bs.drop (4096 + 256 * k)).take 256) (BitVec.ofNat 64 (pkt bs (0x600 + 8 * r) 8))).within c.present))
    let word (o : Nat) : Word := BitVec.ofNat 32 (pkt bs o 4)
    let c1 := { c with
      pc := BitVec.ofNat 56 (pkt bs 0 8), em := BitVec.ofNat 64 (pkt bs 8 8) &&& c.present, v := regs
      priv := bit code 2, clause := word 0x1C, gang := word 0x20, icount := pkt bs 0x28 8
      s := (List.range 64).filterMap fun i => if word (0x40 + 4 * i) = 0#32 then none else some (i, word (0x40 + 4 * i))
      sp := BitVec.ofNat 64 (pkt bs 0x800 8)
      p := ((List.range 31).map (· + 1)).filterMap fun i =>
        let x := BitVec.ofNat 64 (pkt bs (0x140 + 8 * i) 8); if x = 0#64 then none else some (i, x)
      win := (List.range 8).foldl (fun m i => match (wins.getD i none) with
        | some w => Store.set Window.empty m i w
        | none => m) []
      stat := .stopped (code % 4) }
    some (((List.range 112).filter crOwn).foldl (fun x i => x.crput i (word (0x240 + 4 * i))) c1, bs.drop (4096 + 256 * names.length))

/-- The cohorts of a record, one after another. -/
def restoreCohorts : List Cohort → List Byte → Option (List Cohort)
  | [], _ => some []
  | c :: cs, bs => match c.restoreFrom bs with
    | some p => (restoreCohorts cs p.2).map fun r => p.1 :: r
    | none => none

/-- A slot of a record; its bytes come with the refill. -/
def slotOf (bs : List Byte) : Slot :=
  { Slot.fresh with srcva := BitVec.ofNat 56 (pkt bs 0 8 % 2 ^ 56), valid := bit (pkt bs 0 8) 56, poison := bit (pkt bs 0 8) 57
                    asid := BitVec.ofNat 12 (pkt bs 8 2), gen := BitVec.ofNat 64 (pkt bs 16 8), filled := bit (pkt bs 0 8) 56 }

/-- The gangs of a record, owners first, then the waiting ones in FIFO order (R305). -/
def gangsOf (bs : List Byte) (dseq : Nat) : List (Bool × GangEntry) :=
  let all := ((List.range 16).map fun i => pkt bs (0x80 + 8 * i) 8).filter fun x => bits x 39 32 != 0
  let one (x : Nat) : Bool × GangEntry :=
    let g := BitVec.ofNat 32 x
    let ms := gangMembers g
    (bits x 39 32 == 1, { core := 0, dseq := dseq, gang := g, owns := false, waiting := []
                          released := (List.range ms.length).filterMap fun m => if bit (bits x 53 48) m then ms[m]? else none })
  let inOrder := (List.range 256).flatMap fun k => all.filter fun x => bits x 47 40 == k
  ((inOrder.filter fun x => bits x 39 32 == 1) ++ inOrder.filter fun x => bits x 39 32 == 2).map one

/-- Whether the fields of a company record's header lie in range (Table 14-9). -/
def headerInRange (bs : List Byte) : Bool :=
  let sub (a b : Nat) : Bool := (List.range 16).all fun i => !bit a i || bit b i
  sub (pkt bs 0xE 2) (pkt bs 0xC 2) && decide (pkt bs 0x20 2 ≤ 128) && decide (pkt bs 0x22 1 ≤ 16) && decide (pkt bs 0x23 1 ≤ 128)
    && decide (pkt bs 0x24 1 ≤ 128) && decide (pkt bs 0x25 1 < 8) && sub (pkt bs 0x28 2) (pkt bs 0x26 2) && decide (pkt bs 0x2A 1 ≤ 1)
    && decide (pkt bs 0x2B 1 ≤ 64) && decide (pkt bs 0x2C 1 ≤ 64) && decide (pkt bs 0x2E 2 ≤ 3) && zeroRun bs 0x34 76
    && ((List.range 16).all fun i => decide (bits (pkt bs (0x80 + 8 * i) 8) 39 32 ≤ 2) && bits (pkt bs (0x80 + 8 * i) 8) 63 54 == 0)
    && ((List.range 128).all fun i => decide (pkt bs (0x100 + 24 * i) 8 < 2 ^ 58) && decide (pkt bs (0x108 + 24 * i) 2 < 4096)
        && zeroRun bs (0x10A + 24 * i) 6)
    && zeroRun bs 0xD00 768

/-- A company rebuilt from its record at a local offset, with its gangs; none with a field out of range (R390). -/
def Company.restoreFrom (d : Device) (a : Nat) (h : Company) : Option (Company × List (Bool × GangEntry)) :=
  let bs := d.bytes a 4096
  let created := namesOf 16 (pkt bs 0xC 2)
  let ended := namesOf 16 (pkt bs 0xE 2)
  let fl := pkt bs 0x25 1
  let hdr := { h.hdr with lsgran := pkt bs 0x20 2, tfloor := pkt bs 0x22 1, gfloor := pkt bs 0x23 1, vfloor0 := pkt bs 0x2B 1
                          vfloor1 := pkt bs 0x2C 1, nprod := pkt bs 0x2D 1, persist := bit fl 0, split := bit fl 1, cls := bits fl 3 2 }
  let co := { h with lseq := BitVec.ofNat 32 (pkt bs 8 4), created := created, ended := ended, cwid := BitVec.ofNat 64 (pkt bs 0x10 8)
                     lhdr := BitVec.ofNat 64 (pkt bs 0x18 8), hdr := hdr, place := .saved (pkt bs 0x2E 2) }
  if headerInRange bs = false then none
  else if pkt bs 0x2A 1 = 0 then some (co, [])
  else
    let ts := namesOf 16 (pkt bs 0x26 2)
    let ls := d.bytes (a + 4096) (hdr.lsgran * 4096)
    let ta := a + 4096 * (1 + hdr.lsgran)
    let pa := ta + 0x4000 * ts.length
    let ca := pa + 4096 * pagesOf (512 * ts.length)
    let tile (k : Nat) : Tile := tileFrom (d.bytes (ta + 0x4000 * k) 0x4000)
      ((List.range 4096).filterMap fun e => if bit (d.byte (pa + 512 * k + e / 8)).toNat (e % 8) then some (e, true) else none)
    let rest := d.bytes ca (pkt bs 0x30 4 * 4096 - (ca - a))
    match restoreCohorts (h.cohorts.filter fun c => created.contains c.j && !ended.contains c.j) rest with
    | none => none
    | some cs =>
      let new : Company := { co with
        cohorts := cs, ls := (ls.mapIdx fun i b => (i, b)).filter fun p => p.2 != 0#8
        lsBad := (List.range (hdr.lsgran * 256)).filterMap fun g => if d.badAt (a + 4096 + 16 * g) then some (g, true) else none
        tiles := ts.mapIdx fun k t => (t, some (tile k)), dirty := []
        slots := (List.range (pkt bs 0x24 1)).map fun i => slotOf ((bs.drop (0x100 + 24 * i)).take 24)
        regain := ((gangsOf bs h.dseq).filter fun g => g.1).map fun g => g.2.gang
        restored := true }
      if new.recPages = pkt bs 0x30 4 then some (new, gangsOf bs h.dseq) else none

/-- The companies of an image, record after record. -/
def restoreCompanies (d : Device) (saved : List Company) : Nat → Nat → Option (List (Company × List (Bool × GangEntry)))
  | 0, _ => some []
  | n + 1, a => match saved.find? fun h => h.dseq == d.load a 8 with
    | none => none
    | some h => match h.restoreFrom d a with
      | none => none
      | some r => (restoreCompanies d saved n (a + 4096 * d.load (a + 0x30) 4)).map fun rs => r :: rs

/-- The DSEQs of an image's records. -/
def imageSeqs (d : Device) : Nat → Nat → List Nat
  | 0, _ => []
  | n + 1, a => d.load a 8 :: imageSeqs d n (a + 4096 * d.load (a + 0x30) 4)

/-- Whether the fields of a context header lie in range (Table 14-8). -/
def contextInRange (bs : List Byte) : Bool :=
  decide (pkt bs 0xC 4 < 8) && decide (bits (pkt bs 0x24 4) 29 0 ≤ 64) && bits (pkt bs 0x30 4) 28 16 == 0 && zeroRun bs 0x38 8
    && zeroRun bs 0x240 448 && zeroRun bs 0x800 2048

/-- The context as its header holds it; counters are the device's own (R390, R411). -/
def Context.restoreFrom (c : Context) (bs : List Byte) : Context :=
  let word (o : Nat) : Word := BitVec.ofNat 32 (pkt bs o 4)
  { c with tctl := word 0xC, key := (List.range 4).map (fun i => word (0x10 + 4 * i)), step := word 0x20
           srwWarn := bit (pkt bs 0x24 4) 31, srwEvict := bit (pkt bs 0x24 4) 30, supfail := word 0x28, glgen := word 0x2C, wstat := word 0x30
           filter := (List.range (bits (pkt bs 0x24 4) 29 0)).map fun i => (word (0x40 + 8 * i), word (0x44 + 8 * i))
           stat := .live, used := 0, image := [] }

/-- Enter a restored company into the ready queue of its hall, or hold it with its persistent launch (R324, R390). -/
def State.reenter (s : State) (h : Company) : State :=
  s.onCompany h.dseq fun t => t.setCo { h with place := if h.hdr.persist then .held else .queued (t.dev.hallFor h.hallOf) }

/-- Restore the current, saved context; none where its image is refused (R390). -/
def State.restore (s : State) : Option State :=
  let area := s.imgArea
  let bs := s.dev.bytes area.1 4096
  let n := pkt bs 4 4
  if pkt bs 0 4 ≠ 1 ∨ area.2 < pkt bs 8 4 ∨ contextInRange bs = false ∨ n ≠ s.cx.ncomp then none
  else if sha3 ((imageSeqs s.dev n (area.1 + 4096)).flatMap fun d => leBytes 8 d) ≠ s.cx.digest then none
  else match restoreCompanies s.dev s.mine n (area.1 + 4096) with
    | none => none
    | some rs =>
      let t := s.setCx (s.cx.restoreFrom bs)
      let t := rs.foldl (fun t r => t.reenter r.1) t
      some (t.setDev { t.dev with engines := t.dev.engines ++ (rs.flatMap fun r => r.2.map fun g => { g.2 with core := 512 }) })

/-- Resume in place a context that HALT stopped without an image (R322). -/
def State.resumeInPlace (s : State) : State :=
  let go (c : Cohort) : Cohort := match c.stat with
    | .stopped _ => { c with stat := .running, wait := .none, active := false, stopDue := 0 }
    | _ => c
  (s.mapCohorts s.cx.asid go).setCx { s.cx with stat := .live }

/-- RESTCTL_GO (R382, R390). -/
def execRestctlGo (w : RegWrite) (s : State) : Out :=
  .next (if w.ok = false then s
    else
      let d := s.dev.regStore w
      let t := s.setDev d
      let refuse := s.setDev (d.setField 0x6008 30 30 1)
      if w.sets 0x6008 16 then
        let asid := bits (d.reg 0x6008) 11 0
        match (t.context? asid).map (·.stat) with
        | some CxStat.saved =>
          let u := t.parkCo.focusCx asid
          (match u.restore with
            | some v => v.startRecording asid
            | none => refuse)
        | some CxStat.inPlace => (t.onContext asid State.resumeInPlace).startRecording asid
        | _ => refuse
      else t)

end Sys2Proof.Machine
end

