-- ==== Sys2Proof/Machine/Multicast.lean ====
section
/-!
DEFINITION. Multicast stores, in-switch reductions and FMARK (R285 to R288), and LOAD_RETURN. A group's lines are
targets of device number 512 + group in an operation.
-/
namespace Sys2Proof.Machine

/-- The outcome of a lane of a multicast access of `n` bytes (R143, R285). -/
def Device.groupLane (d : Device) (g off n : Nat) : LOut :=
  if d.gvalid g ∧ off + n ≤ d.glen g then .at (.far (512 + g) off) else .fault .phys

/-- The checked lanes of a multicast instruction. -/
def State.groupLanes (s : State) (g n : Nat) (a : Reg) : List LaneChk :=
  (s.me.offsets false a).map fun x => { lane := x.1, addr := x.2, out := s.dev.groupLane g x.2 n }

/-- Issue a multicast instruction: as `memIssue`, with the checks of R285. -/
def groupIssue (g : Nat) (a : Reg) (j : MemJob) (s : State) : State :=
  let m := s.me.mce false j.vs j.ss
  if s.dev.mcastOn = false then s.ill 1
  else if m ≠ 0#64 then s.queueTrap 6 1 m 0
  else if s.me.act = 0#64 then
    let t := s.setMe (s.me.freeAll j.frees)
    (if j.acq then t.emptyOrder j.scope else t).retire 4
  else
    let cs := s.groupLanes g j.len a
    match verdict j.align true j.fkind j.len cs with
    | .queue code sub mask => s.accessTrap code sub mask
    | _ =>
      let freed := s.me.freeAll j.frees
      let fresh := (j.dst.filter fun r => !freed.allocated r).length
      if (s.setMe freed).canAlloc fresh = false then s.waitOn .allocV
      else
        let t := (s.issueOp j j.frees cs).retire 4
        match j.cnt with
        | some (i, n) => t.count i n
        | none => t

/-- The group that a scalar names (R285). -/
def Cohort.groupOf (c : Cohort) (b : BitVec 5) : Nat := (c.sget b.toNat).toNat % 256

/-- MCST: a plain store to every member (R286). Its sources are read at issue, where the flag rises and falls. -/
def execMcst (f ma z : Bool) (b : BitVec 5) (a d : Reg) (s : State) : Out :=
  let _ := f
  let k := if z then 2 else 1
  let g := s.me.groupOf b
  let c := s.me
  let data (i : Nat) : List Byte := c.laneBytes d.toNat k i
  .next (groupIssue g a
    { win := 0, acc := .store, reach := .plain, len := 4 * k, align := 4 * k, aln := true, fkind := 1, u := false
      vs := a.toNat :: groupNames d.toNat k, ss := [b.toNat], frees := if ma then [a.toNat] else [], kind := .mcst g
      scope := 0, acq := false, rel := false, flag := none, d := d.toNat, dst := [], offs := [], data := data
      sum := some data, cnt := none } s)

/-- An MLDRED (R287). -/
def mldred (bf ord f ma q : Bool) (b : BitVec 5) (a d : Reg) (s : State) : State :=
  let n := if bf then 2 else 4
  let g := s.me.groupOf b
  groupIssue g a
    { win := 0, acc := .load, reach := .plain, len := n, align := n, aln := true, fkind := 0, u := false
      vs := [a.toNat], ss := [b.toNat], frees := if ma then [a.toNat] else [], kind := .mldred g bf ord
      scope := 3, acq := q, rel := false, flag := some f, d := d.toNat, dst := [d.toNat], offs := [], data := fun _ => []
      sum := none, cnt := some (if bf then 38 else 39, s.me.performing false) } s

/-- MLDRED.BF16.ORD. -/
def execMldredBf16Ord (f ma q : Bool) (b : BitVec 5) (a d : Reg) (s : State) : Out := .next (mldred true true f ma q b a d s)
/-- MLDRED.F32.ORD. -/
def execMldredF32Ord (f ma q : Bool) (b : BitVec 5) (a d : Reg) (s : State) : Out := .next (mldred false true f ma q b a d s)
/-- MLDRED.BF16.ANY, which CLASS 0 forbids (R196); the cause OPC of a feature that is off comes first (R217). -/
def execMldredBf16Any (f ma q : Bool) (b : BitVec 5) (a d : Reg) (s : State) : Out :=
  .next (if s.dev.mcastOn = false then s.ill 1 else replayable (mldred true false f ma q b a d) s)
/-- MLDRED.F32.ANY, which CLASS 0 forbids (R196); the cause OPC of a feature that is off comes first (R217). -/
def execMldredF32Any (f ma q : Bool) (b : BitVec 5) (a d : Reg) (s : State) : Out :=
  .next (if s.dev.mcastOn = false then s.ill 1 else replayable (mldred false false f ma q b a d) s)

/-- FMARK: an ordering marker to a device, without waiting for its answer (R288). -/
def execFmark (f : Bool) (a : Reg) (s : State) : Out :=
  let _ := f
  let t := (s.me.sget a.toNat).toNat % 1024
  .next (
    if s.me.spoison a.toNat then s.queueTrap 6 1 s.me.present 0
    else (if s.dev.marks t then s.pushOp { fenceOp 0 with kind := .fmark t } else s).retire 4)

/-! ## The reads of an MLDRED -/

/-- The lanes of an MLDRED on one line (F32) or 32-byte run (BF16), none of them sent (R287). -/
def MemOp.runLanes (o : MemOp) (bf : Bool) (lane : Nat) : List LaneOp :=
  let w := if bf then 32 else 64
  match o.lanes.find? fun l => l.lane == lane && !l.sent with
  | some l => o.lanes.filter fun x => !x.sent && x.addr / w == l.addr / w
  | none => []

/-- The partial sum of a lane of an MLDRED .ANY, kept in its data: the word, and after it the number of the lowest member that failed
(R287). Any NaN gives the canonical NaN (R145). -/
def LaneOp.addElem (l : LaneOp) (elem : Nat) (bf : Bool) : LaneOp :=
  let x := if bf then elem * 2 ^ 16 else elem
  let acc := leNat (l.data.take 4)
  let new := if l.data.isEmpty then (if (value x .fp32).isNan then 0x7FC00000 else x) else fadd .fp32 acc x
  { l with data := leBytes 4 new ++ l.data.drop 4 }

/-- Member `t` of an MLDRED .ANY failed: the ABSENT outcome (R287). -/
def LaneOp.absent (t : Nat) (l : LaneOp) : LaneOp :=
  let low := if l.data.length = 6 then min t (leNat (l.data.drop 4)) else t
  { l with data := leBytes 4 0x7FC00000 ++ leBytes 2 low }

/-- The lowest member that failed for a lane of an MLDRED .ANY. -/
def LaneOp.absentDev (l : LaneOp) : Option Nat := if l.data.length = 6 then some (leNat (l.data.drop 4)) else none

/-- Change lanes of an operation. -/
def MemOp.mapLanes (o : MemOp) (ls : List Nat) (f : LaneOp → LaneOp) : MemOp :=
  { o with lanes := o.lanes.map fun l => if l.lane ∈ ls then f l else l }

/-- Whether a member read of a lane is still outstanding. -/
def State.readsLeft (s : State) (id lane : Nat) : Bool :=
  s.dev.fabric.requests.any fun r => match r.who with
    | .op d j i ls => d == s.co.dseq && j == s.me.j && i == id && decide (lane ∈ ls)
    | _ => false

/-- The result of a lane of an MLDRED .ANY: the sum, or the canonical NaN where a member failed, or poison (R287). -/
def LaneOp.anyResult (l : LaneOp) : List Byte × Mask :=
  (l.data.take 4, if l.absentDev.isSome ∨ l.poisoned = 0#64 then 0#64 else allBad 4)

/-- Give the lanes of a line or run of an MLDRED .ANY their results once every member has answered; an ABSENT outcome raises #FAB once,
naming the lowest absent device (R287, R423). -/
def State.closeAny (s : State) (id : Nat) (ls : List Nat) : State :=
  if ls.any (s.readsLeft id) then s
  else
    let low := ((s.me.op? id).bind fun o => o.lanes.find? fun l => decide (l.lane ∈ ls)).bind LaneOp.absentDev
    let t := s.mapOp id fun o => o.mapLanes ls fun l => { l with sent := true, result := some l.anyResult }
    (match low with
      | some d => t.fail d true none
      | none => t).finish id

/-- Read a line of every member with an RD packet on that member's plane (R287). -/
def State.readMembers (s : State) (o : MemOp) (g : Nat) (ls : List LaneOp) (line : Nat) : List Nat → State
  | [] => s
  | t :: ts =>
    let ids := ls.map (·.lane)
    match s.dev.request { Packet.basic ptRD t (s.dev.gbase g / 64 + line) with } (.op s.co.dseq s.me.j o.id ids) with
    | some d => (s.setDev d).readMembers o g ls line ts
    | none => (s.mapOp o.id fun x => x.mapLanes ids (LaneOp.absent t)).readMembers o g ls line ts

/-- Send the MCR, or the member reads, of the lanes on one line or run (R285, R287). Table 5-3 gives an MCR no payload and its header
names a whole line; the model names the 32-byte run of a BF16 read in an operation entry (DESIGN CHOICE, log entry 80). -/
def State.performMldred (s : State) (o : MemOp) (g : Nat) (bf ord : Bool) (lane : Nat) : State :=
  match o.runLanes bf lane with
  | [] => s
  | l :: ls =>
    let ids := (l :: ls).map (·.lane)
    if s.loadReady o = false ∨ s.mayLeave o (l :: ls) = false then s
    else if ord then
      let e : Entry := { off := l.addr % 64 / 32 * 32, size := 5, lane := l.lane, operand := 0, compare := 0 }
      let p := { Packet.basic ptMCR g (l.addr / 64) with op := if bf then 0 else 1, entries := [e] }
      match s.dev.request p (.op s.co.dseq s.me.j o.id ids) with
      | some d => ((s.setDev d).mapOp o.id fun x => x.markSent ids).finish o.id
      | none => s.failLanes o.id ids (s.dev.failedGroup p) true
    else
      ((s.mapOp o.id fun x => x.markSent ids).readMembers o g (l :: ls) (l.addr / 64) (s.dev.members g)).closeAny o.id ids

/-- LOAD_RETURN: the lanes of a load on one line read it at one moment, or their packet leaves; with every lane's
data the destination words are written and the flag falls (R96, R103, R211). -/
def execLoadReturn (id lane : Nat) (s : State) : Out :=
  .next (s.onOp id fun s o => match o.kind with
    | .load _ | .ldu _ | .fla _ | .fetch => s.performLoad o lane
    | .mldred g bf ord => s.performMldred o g bf ord lane
    | _ => s)

end Sys2Proof.Machine
end

