-- ==== Sys2Proof/Machine/Respond.lean ====
section
/-!
DEFINITION. What the answer to a request does at its source (R139, R142, R286, R287): RESPONSE_ARRIVAL, MCS_ARRIVAL,
UNDLV_ARRIVAL, and the sequencer's queue.
-/
namespace Sys2Proof.Machine

/-! ## Answers to operations of cohorts -/

/-- Whether a status is a far-end error (R20, R139). -/
def farError (status : Nat) : Bool := status == 1 || status == 3

/-- The device that a failed request names: this one where its vestibule is down, the first member of a group, the bridge device on
its own link (R20, R152, R154). -/
def Device.blame (d : Device) (r : Request) : Nat :=
  if r.packet.multi then (if d.planeNow r.packet = none then d.failedGroup r.packet else d.firstMember r.packet.dst)
  else if d.onPcie r then d.bridgeDev
  else if d.cutOff r.packet.dst r.packet.line then d.num else r.packet.dst

/-- The part of a line that a lane takes, poisoned when the line is (R139). -/
def sliceOf (p : Packet) (l : LaneOp) : List Byte × Mask :=
  ((p.data.drop l.loc.inLine).take l.len, if p.status = 2 then allBad l.len else 0#64)

/-- The line of a load returns to its lanes. -/
def State.takeLine (s : State) (o : MemOp) (ids : List Nat) (p : Packet) : State :=
  (ids.foldl (fun s i => match o.lanes.find? fun l => l.lane == i with
    | some l => s.mapOp o.id fun x => x.setResult i (sliceOf p l)
    | none => s) s).finish o.id

/-- The old values of an ATOM packet return to its lanes, in entry order. -/
def State.takeOld (s : State) (o : MemOp) (ids : List Nat) (p : Packet) : State :=
  let n := p.data.length / max 1 ids.length
  ((ids.mapIdx fun k i => (k, i)).foldl (fun s x => s.mapOp o.id fun y =>
    y.setResult x.2 ((p.data.drop (n * x.1)).take n, if p.status = 2 then allBad n else 0#64)) s).finish o.id

/-- The results of a switch return to the lanes of an MLDRED .ORD (R145, R287). -/
def State.takeSums (s : State) (o : MemOp) (bf : Bool) (ids : List Nat) (p : Packet) : State :=
  let e (l : LaneOp) : Nat := if bf then l.addr % 32 / 2 else l.addr % 64 / 4
  (ids.foldl (fun s i => match o.lanes.find? fun l => l.lane == i with
    | some l => s.mapOp o.id fun x => x.setResult i ((p.data.drop (4 * e l)).take 4, if p.status = 2 then allBad 4 else 0#64)
    | none => s) s).finish o.id

/-- The payload of a RESP record: the member's index and the line's lowest lane (Table 15-4). -/
def respPayload (ms : List Nat) (t : Nat) (ids : List Nat) : Nat := (ms.takeWhile fun m => m != t).length + ids.headD 0 * 2 ^ 9

/-- A member's line returns to the lanes of an MLDRED .ANY, which add its elements in the order of arrival (R287). -/
def State.takeMember (s : State) (o : MemOp) (g : Nat) (bf : Bool) (ids : List Nat) (r : Request) (p : Packet) : State :=
  let n := if bf then 2 else 4
  let t := s.log 7 (respPayload (s.dev.members g) r.packet.dst ids)
  let t := if farError p.status then t.mapOp o.id fun x => x.mapLanes ids (LaneOp.absent r.packet.dst)
    else t.mapOp o.id fun x => x.mapLanes ids fun l =>
      let y := l.addElem (leNat ((p.data.drop l.loc.inLine).take n)) bf
      if p.status = 2 then { y with poisoned := allBad 4 } else y
  t.closeAny o.id ids

/-- The answer to a packet of an operation of the current cohort. DECODE for a write of no bytes is an acknowledgement, and the
failure is counted in cr.supfail (R16, R47, log entry 81). -/
def State.answerOp (s : State) (id : Nat) (ids : List Nat) (r : Request) (p : Packet) : State :=
  match s.me.op? id with
  | none => s.settle
  | some o =>
    if ids = [] then s.settle
    else
      -- an acquire takes effect when its answer comes (R108, R115)
      let s := s.acquire o.acq o.scope
      match o.kind with
      | .mldred g bf false => s.takeMember o g bf ids r p
      | .mldred _ bf true =>
        if p.status = 4 then
          ((ids.foldl (fun s i => s.mapOp id fun x => x.setResult i (leBytes 4 0x7FC00000, 0#64)) s).fail
            (p.xtra / 16 % 1024) true none).finish id
        else if farError p.status then s.failLanes id ids (s.dev.blame r) true
        else s.takeSums o bf ids p
      | _ =>
        if p.status = 1 ∧ r.packet.type = ptWR ∧ r.packet.be = 0#64 then
          (ids.foldl (fun s i => s.mapOp id fun x => x.setResult i ([], 0#64)) (s.supfail ids.length)).finish id
        else if farError p.status then s.failLanes id ids (s.dev.blame r) false
        else if r.packet.type = ptRD then s.takeLine o ids p
        else if r.packet.type = ptATOM then s.takeOld o ids p
        else (ids.foldl (fun s i => s.mapOp id fun x => x.setResult i ([], 0#64)) s).finish id

/-! ## Answers to copies and fills -/

/-- Whether a request reads or writes the line of a target. -/
def Device.asks (d : Device) (r : Request) (l : Loc) : Bool :=
  match l with
  | .far h o => r.packet.dst == h && r.packet.line == lineOf o
  | .host o => r.packet.line == lineOf (hostBase + o) && (d.onPcie r || r.packet.dst == d.bridgeDev)
  | _ => false

/-- Put the bytes of an answered line into a buffer of a source. -/
def Device.fillBuf (d : Device) (src : List Seg) (r : Request) (p : Packet) (b : Store Byte × Store Bool) : Store Byte × Store Bool :=
  (((segStarts 0 src).filter fun x => x.1.loc.away).flatMap fun x => linesOf x.1 x.2).foldl (fun b x =>
    if d.asks r x.1 then
      (List.range x.2.2).foldl (fun b i =>
        (Store.set 0#8 b.1 (x.2.1 + i) (p.data.getD (x.1.inLine + i) 0#8),
         Store.set false b.2 (x.2.1 + i) (p.status != 0))) b
    else b) b

/-- The virtual address, in a COPY packet's terms, of the line that a request of its piece reads or writes. -/
def Device.pieceVa (d : Device) (x : Piece) (r : Request) : Nat :=
  if r.packet.type = ptRD then
    match (((segStarts 0 x.src).filter fun g => g.1.loc.away).flatMap fun g => linesOf g.1 g.2).find? fun y => d.asks r y.1 with
    | some y => x.va + y.2.1
    | none => x.va
  else match (linesOf x.dst 0).find? fun y => d.asks r y.1 with
    | some y => x.dva + y.2.1
    | none => x.dva

/-- The answer to a read or write of a copy piece (R20, R84). -/
def State.answerPiece (s : State) (id : Nat) (r : Request) (p : Packet) : State :=
  match s.dev.pieces.find? fun x => x.id == id with
  | none => s
  | some x =>
    let t := if r.packet.type = ptRD then
        let b := s.dev.fillBuf x.src r p (x.buf, x.bad)
        s.setDev (s.dev.mapPiece id fun y => { y with buf := b.1, bad := b.2 })
      else s
    if farError p.status then t.failCopy x (r.packet.type == ptWR) (s.dev.blame r) (s.dev.pieceVa x r) else t

/-- The answer to a read of a gallery fill: a failed line is poison, and the failure reaches the issuer (R20, R80). -/
def State.answerFill (s : State) (id : Nat) (r : Request) (p : Packet) : State :=
  match s.dev.fills.find? fun x => x.id == id with
  | none => s
  | some x =>
    let b := s.dev.fillBuf x.src r p (x.buf, x.bad)
    let t := s.setDev { s.dev with fills := s.dev.fills.map fun y => if y.id = id then { y with buf := b.1, bad := b.2 } else y }
    if farError p.status then t.onCohort x.dseq x.j fun u => u.fail (s.dev.blame r) false none else t

/-! ## Other requesters -/

/-- The answer to a remote SEMA: granted if the old word was positive, else it is asked again (R279). -/
def State.answerSema (s : State) (r : Request) (p : Packet) : State :=
  match s.me.sema with
  | none => s
  | some m =>
    let old := leNat (p.data.take 4)
    if farError p.status then
      let q := s.drawWord
      let n := q.1.dev.nextId
      ((q.1.setDev { q.1.dev with nextId := n + 1 }).fail (s.dev.blame r) false (some (.access n))).semaDone m q.2 true
    else if 0 < toSigned 32 old then s.semaDone m (BitVec.ofNat 32 old) (p.status == 2) else s

/-- The update that a queue's packet or completion signal asked of another device is answered (R352, R358). -/
def State.answerQueue (s : State) (qid csn : Nat) (bad : Bool) : State :=
  let d := if bad then (s.dev.queueError qid csn 3 7 (s.dev.updateVa qid csn)).failPacket qid csn else s.dev
  let signalled := match d.queue? qid with
    | some q => q.started.any fun x => x.csn == csn && x.done
    | none => false
  if signalled then s.setDev (d.mapQueue qid fun q => { q with started := q.started.filter fun x => x.csn != csn })
  else (s.setDev d).packetDone qid csn

/-- The source number by which the model knows accesses of this bridge's own host link. -/
def hostSrc : Nat := 1024

/-- The bytes of a line that byte enables name. -/
def enabled (be : DWord) (bs : List Byte) : List Byte := ((List.range 64).filter fun i => be.getLsbD i).map fun i => bs.getD i 0#8

/-- The answer to a host access through BAR2: bytes for a read, Unsupported Request where it failed (R154). -/
def State.answerHost (s : State) (p : Packet) (status : Nat) (data : List Byte) : State :=
  let v := if farError status then none else if p.type = ptRD then some (s.dev.hostRead.getD [] ++ enabled p.be data) else s.dev.hostRead
  s.setDev { s.dev with hostRead := v }

/-- A request is answered: what waits for it goes on. -/
def State.answered (s : State) (r : Request) (p : Packet) : State :=
  let s := s.setDev (s.dev.dropRequest r.tag)
  match r.who with
  | .op d j id ids => s.onCohort d j fun t => t.answerOp id ids r p
  | .piece id => s.answerPiece id r p
  | .fill id => s.answerFill id r p
  | .queue q c => s.answerQueue q c (farError p.status)
  | .host => s.answerHost r.packet p.status p.data
  | .sema d j => s.onCohort d j fun t => t.answerSema r p
  | .relay src tag line =>
    s.setDev (s.dev.answer { Packet.basic ptRSP src line with src := s.dev.num, tag := tag, xtra := p.status, data := p.data })
  | .none => s

/-- A request fails under R20, as if a far-end error had answered it. -/
def State.failRequest (s : State) (r : Request) : State :=
  s.answered r { Packet.basic ptRSP s.dev.num r.packet.line with tag := r.tag, xtra := 3 }

/-- The request that a tag names, if it is outstanding. -/
def Device.requestOf (d : Device) (tag : Nat) : Option Request := d.fabric.requests.find? fun r => r.tag == tag

/-! ## The sequencer's queue (R135, R140, R148) -/

/-- A packet leaves the sequencer, or fails where no plane reaches its target; an answer is then lost (R134, R155). -/
def State.sendNow (s : State) (p : Packet) : State :=
  match s.dev.launch p with
  | some d => s.setDev d
  | none => if p.type = ptRSP then s else match s.dev.requestOf p.tag with
    | some r => s.failRequest r
    | none => s

/-- Send, in order, the waiting packets that nothing holds any more. -/
def State.releaseHeld (s : State) : State :=
  let none' (d : Device) : Device := { d with fabric := { d.fabric with waitq := [] } }
  let keep (d : Device) (p : Packet) : Device := { d with fabric := { d.fabric with waitq := d.fabric.waitq ++ [p] } }
  match s.dev.fabric.waitq with
  | [] => s
  | ps => ps.foldl (fun t p => if t.dev.holds p then t.setDev (keep t.dev p)
      else if p.type = ptRSP ∨ (t.dev.requestOf p.tag).isSome then t.sendNow p else t) (s.setDev (none' s.dev))

/-- Whether a replay holds a member's response to an MLDRED .ANY until its RESP record is due (R131, R401). -/
def State.respHeld (s : State) (r : Request) : Bool :=
  match r.who with
  | .op d j id ids =>
    let t := s.focus d j
    t.recording && t.recMode == 3 && (match t.me.op? id with
      | some o => (match o.kind with
        | .mldred g _ false => (match t.expected with
          | some e => e.kind == 7 && e.payload != respPayload (t.dev.members g) r.packet.dst ids
          | none => true)
        | _ => false)
      | none => false)
  | _ => false

/-- RESPONSE_ARRIVAL: a response completes its request; one that no request awaits is dropped (R139, R155). A marker's answer may let
the next one leave (R140). -/
def State.response (s : State) (p : Packet) : State :=
  match s.dev.requestOf p.tag with
  | some r =>
    if s.respHeld r then { s with turns := s.turns ++ [.event (.responseArrival p)] }
    else (s.answered r p).releaseHeld
  | none => s

/-- RESPONSE_ARRIVAL. -/
def execResponseArrival (p : Packet) (s : State) : Out := .next (s.response p)

/-! ## Multicast status (R286) -/

/-- OR a status bitmap into cr.mcst0 to cr.mcst15. -/
def Cohort.orStatus (c : Cohort) (bs : List Byte) : Cohort :=
  (List.range 16).foldl (fun c i => c.crput (0x60 + i) (c.crget (0x60 + i) ||| BitVec.ofNat 32 (leNat ((bs.drop (4 * i)).take 4)))) c

/-- A bitmap returns to a multicast store: the first failed member is named by #FAB (R127, R286). -/
def State.mcsFor (s : State) (id : Nat) (ids : List Nat) (g : Nat) (p : Packet) : State :=
  let ms := s.dev.members g
  let bad := (List.range ms.length).filter fun i => (p.data.getD (i / 8) 0#8).getLsbD (i % 8)
  let t := s.setMe (s.me.orStatus p.data)
  let t := match bad with
    | i :: _ => t.fail (ms.getD i 0) true (some (.access id))
    | [] => if farError p.status then t.fail (s.dev.firstMember g) true (some (.access id)) else t
  (ids.foldl (fun t i => t.mapOp id fun x => x.setResult i ([], 0#64)) t).finish id

/-- A multicast status reaches its request. -/
def State.mcs (s : State) (p : Packet) : State :=
  match s.dev.requestOf p.tag with
  | some r =>
    let t := s.setDev (s.dev.dropRequest r.tag)
    (match r.who with
      | .op d j id ids => t.onCohort d j fun u => u.mcsFor id ids r.packet.dst p
      | _ => t)
  | none => s

/-- MCS_ARRIVAL. -/
def execMcsArrival (p : Packet) (s : State) : Out := .next (s.mcs p)

/-! ## Undelivered packets (R142) -/

/-- Resend a copy of a marker that came back on a plane, on another plane of the effective mask; it counts toward NCOPY at the
target (R140). -/
def State.resendCopy (s : State) (plane : Nat) (p : Packet) : State :=
  match s.dev.requestOf p.tag with
  | none => s
  | some r =>
    let qs := s.dev.markPlanes p.dst
    match (qs.filter fun q => q != plane) ++ qs with
    | [] => s.failRequest r
    | q :: _ => s.setDev ((s.dev.mapRequest p.tag fun x => { x with copies := x.copies.erase plane ++ [q] }).sendOn q p)

/-- An undelivered packet is resent on its present plane, kept for a change of mask, or fails (R135, R142). -/
def State.undelivered (s : State) (plane : Nat) (p : Packet) : State :=
  if p.type ≠ ptRSP ∧ s.dev.requestOf p.tag = none then s
  else if s.dev.moving p then
    s.setDev (if p.type = ptRSP ∨ p.type = ptMARK then
        let d := s.dev.mapRequest p.tag fun x => if p.type = ptMARK then { x with copies := x.copies.erase plane } else x
        { d with fabric := { d.fabric with back := d.fabric.back ++ [(plane, p)] } }
      else s.dev.mapRequest p.tag fun x => { x with returned := true })
  else if p.type = ptMARK then s.resendCopy plane p
  else s.sendNow p

/-- UNDLV_ARRIVAL: the packet is given as it was sent, with the plane on which it came back above its 32 bits of XTRA. -/
def execUndlvArrival (p : Packet) (s : State) : Out := .next (s.undelivered (p.xtra / 2 ^ 32 % 64) { p with xtra := p.xtra % 2 ^ 32 })

end Sys2Proof.Machine
end

