-- ==== Sys2Proof/Machine/Inbound.lean ====
section
/-!
DEFINITION. Packets that arrive from other devices and the host (R139 to R142, R441, R153, R154): performing them at this
home, markers, and the rows FABRIC_PACKET_ARRIVAL, MARKER_RELEASE, HOST_BAR0_ACCESS and HOST_BAR2_ACCESS.
-/
namespace Sys2Proof.Machine

/-! ## Performing a request at its home -/

/-- Answer a packet with a status and data (R138, R139). -/
def Device.respond (d : Device) (p : Packet) (status : Nat) (data : List Byte) : Device :=
  d.answer { Packet.basic ptRSP p.src p.line with src := d.num, tag := p.tag, xtra := status, data := data }

/-- The runs of consecutive enabled bytes. -/
def beRuns (be : DWord) : List (Nat × Nat) :=
  ((List.range 64).foldl (fun acc i =>
    if be.getLsbD i then
      (match acc with
        | (o, n) :: rest => if o + n = i then (o, n + 1) :: rest else (i, 1) :: acc
        | [] => [(i, 1)])
    else acc) []).reverse

/-- The operation of an entry of an ATOM packet, of 2^`size` bytes. -/
def atomOf (op size : Nat) : Rmw := if op < 24 then .int op (2 ^ size) else .cellrd (op - 24)

/-- The operation of an entry of a RED packet (log entry 14). -/
def redOf (op size : Nat) : Rmw :=
  if op < 8 then .int (redCode op) (2 ^ size)
  else if op < 11 then .fadd (op - 8)
  else if op < 14 then .cell (op - 11)
  else if op = 14 then .cellz
  else .bew ((op - 16) / 2) (op % 2 == 1)

/-- The bytes of an entry's operands, in the order in which the operation takes them. -/
def Rmw.entryData (o : Rmw) (e : Entry) : List Byte :=
  match o with
  | .int op n => if op = 7 then leBytes n e.compare ++ leBytes n e.operand else leBytes n e.operand
  | .bew _ _ => leBytes 8 e.operand ++ leBytes 4 e.compare
  | _ => leBytes 4 e.operand

/-- The last writer of a line is another device (R395). -/
def Device.wroteFrom (d : Device) (src line : Nat) : Device :=
  if bit (d.reg 0x60000) 31 ∧ src ≠ hostSrc then
    { d with recUnit := { d.recUnit with writer := Store.set 0 d.recUnit.writer line (0x10000 + src) } }
  else d

/-- Perform one entry at a bank: what it returns and whether it is poison (R68, R136). -/
def State.entryAt (s : State) (base : Nat) (r : Rmw) (sema : Bool) (src : Nat) (e : Entry) : State × List Byte × Bool :=
  let off := base + e.off
  let p := s.dev.rmw none r off (if sema then leBytes 4 0xFFFFFFFF else r.entryData e)
  if sema && !decide (0 < toSigned 32 (leNat p.2.1)) then (s, p.2)
  else
    let d := p.1.homeStore off
    ((s.softWrite off r.bytes (d.wroteFrom src (off / 64))).notice off r.bytes, p.2)

/-- Perform the entries of a packet one at a time, in order. -/
def State.entriesAt (s : State) (base : Nat) (f : Entry → Rmw) (sema : Bool) (src : Nat) : List Entry → State × List Byte × Bool
  | [] => (s, [], false)
  | e :: es =>
    let p := s.entryAt base (f e) sema src e
    let q := p.1.entriesAt base f sema src es
    (q.1, p.2.1 ++ q.2.1, p.2.2 || q.2.2)

/-- Write the enabled bytes of a line of own memory as class P, with the poison that comes with them (R89, R114). -/
def State.writeLine (s : State) (off src : Nat) (p : Packet) : State :=
  let d := (beRuns p.be).foldl (fun d r => d.putP (off + r.1) ((p.data.drop r.1).take r.2) (p.poison >>> r.1)) s.dev
  (s.softWrite off 64 ((d.homeStore off).wroteFrom src (off / 64))).notice off 64

/-- The naturally aligned parts of 8, 4, 2 and 1 bytes of a run of control space, in order (R18). -/
def legalParts : Nat → Nat → Nat → List (Nat × Nat)
  | 0, _, _ => []
  | fuel + 1, o, n =>
    if n = 0 then []
    else
      let k := if o % 8 = 0 ∧ 8 ≤ n then 8 else if o % 4 = 0 ∧ 4 ≤ n then 4 else if o % 2 = 0 ∧ 2 ≤ n then 2 else 1
      (o, k) :: legalParts fuel (o + k) (n - k)

/-- The stores to control space that the enabled bytes of a line make, in ascending order: lanes that one packet merges act as the
accesses of 1, 2, 4 or 8 bytes that R18 allows. -/
def State.storeCtrl (s : State) (off : Nat) (p : Packet) : State :=
  ((beRuns p.be).flatMap fun r => legalParts 64 r.1 r.2).reverse.foldl
    (fun s r => s.ctrlStore .host (off + r.1) ((p.data.drop r.1).take r.2)) s

/-- The loads of control space that a RD makes: a host access names its bytes; a packet of another device names the line alone and
reads every register of it as its own device would, pops included (R15, R54, log entry 22). -/
def Device.loadCtrl (d : Device) (off : Nat) (p : Packet) : Device × List Byte :=
  let runs := if p.be = 0#64 then [(0, 64)] else beRuns p.be
  runs.foldl (fun x r =>
    let q := x.1.ctrlBytes 64 (off + r.1) r.2
    (q.1, x.2.take r.1 ++ q.2 ++ x.2.drop (r.1 + r.2))) (d, List.replicate 64 0#8)

/-- Answer a request that has been performed: a packet of another device with a response, a host access on its own link (R138,
R154). -/
def State.reply (s : State) (p : Packet) (status : Nat) (data : List Byte) : State :=
  if p.src = hostSrc then s.answerHost p status data else s.setDev (s.dev.respond p status data)

/-- Perform a request from another device or from the host link and answer it (R139). What needs a vestibule that is down fails
(R17, R152). A write of no bytes is acknowledged; DECODE tells its source of a failed decode (R16, log entry 81). -/
def State.performPacket (s : State) (p : Packet) : State :=
  let off := 64 * p.line
  match decodeOwn s.dev .plain off with
    | .at (.mem o) =>
      if s.dev.tierDown o then s.reply p 1 []
      else if p.type = ptWR ∧ p.be = 0#64 then s.reply p 0 []
      else if p.type = ptRD then
        (s.setDev (s.dev.homeLoad o)).reply p (if s.dev.badMask o 64 = 0#64 then 0 else 2) ((List.range 64).map fun i => s.dev.outerByte (o + i))
      else if p.type = ptWR then (s.writeLine o p.src p).reply p 0 []
      else
        let f (e : Entry) : Rmw := if p.type = ptATOM then (if p.op = 31 then .int 0 4 else atomOf p.op e.size)
          else if p.type = ptSIG then .int p.op 4 else redOf p.op e.size
        let x := s.entriesAt o f (p.type == ptATOM && p.op == 31) p.src p.entries
        x.1.reply p (if p.type = ptATOM ∧ x.2.2 then 2 else 0) (if p.type = ptATOM then x.2.1 else [])
    | .at (.ctrl o) =>
      if p.type = ptRD then
        let q := s.dev.loadCtrl o p
        (s.setDev q.1).reply p 0 q.2
      else if p.type = ptWR then (s.storeCtrl o p).reply p 0 []
      else s.reply p 1 []
    | .at (.host o) =>
      match s.dev.hostRequest { p with line := lineOf (hostBase + o) }
          (if p.src = hostSrc then .host else .relay p.src p.tag p.line) with
      | some d => s.setDev d
      | none => s.reply p 1 []
    | _ => s.reply p 1 []

/-! ## Markers (R140) and waiting packets (R441) -/

/-- What has arrived from a source. -/
def Device.inboundOf (d : Device) (src : Nat) : Inbound :=
  (d.fabric.inbound.find? fun i => i.src == src).getD
    { src := src, held := [], count := 0, ncopy := 0, marker := none, queue := [], waiting := [] }

/-- Replace what has arrived from a source. -/
def Device.setInbound (d : Device) (i : Inbound) : Device :=
  { d with fabric := { d.fabric with inbound := (d.fabric.inbound.filter fun x => x.src != i.src) ++ [i] } }

/-- The offset of own memory that a write of a line reaches; none where its decode fails or a vestibule is down (R16, R152). -/
def Device.homeLine (d : Device) (p : Packet) : Option Nat :=
  match decodeOwn d .plain (64 * p.line) with
  | .at (.mem o) => if d.tierDown o then none else some o
  | _ => none

/-- Whether a packet waits at its home: for a line in E, or for a carve change (R23, R83, R441). -/
def Device.mustWait (d : Device) (p : Packet) : Bool :=
  let off := 64 * p.line
  decodeOwn d .plain off == .wait ||
    (inMemory off && d.ownedLine p.line)

/-- A packet newly arrived on a plane: behind a marker copy it is queued, a marker copy is counted, a packet that must
wait holds back the later ones of its line, and any other is performed (R140, R441). -/
def State.route (s : State) (src plane : Nat) (p : Packet) : State :=
  let i := s.dev.inboundOf src
  if plane ∈ i.held then s.setDev (s.dev.setInbound { i with queue := i.queue ++ [(plane, p)] })
  else if p.type = ptMARK then
    let n := p.xtra / 2 ^ 16 % 128
    let t := s.setDev (s.dev.setInbound { i with held := i.held ++ [plane], count := i.count + 1, ncopy := n, marker := some p })
    if i.count + 1 = n then { t with turns := .event (.markerRelease src) :: t.turns } else t
  else if s.dev.mustWait p || i.waiting.any fun w => w.2.line == p.line then
    s.setDev (s.dev.setInbound { i with waiting := i.waiting ++ [(plane, p)] })
  else s.performPacket p

/-- Perform the waiting packets of a source that wait no longer, in order for each line. -/
def State.serve (s : State) (src : Nat) : State :=
  let i := s.dev.inboundOf src
  let t := s.setDev (s.dev.setInbound { i with waiting := [] })
  i.waiting.foldl (fun t w =>
    let j := t.dev.inboundOf src
    if t.dev.mustWait w.2 || j.waiting.any fun x => x.2.line == w.2.line then
      t.setDev (t.dev.setInbound { j with waiting := j.waiting ++ [w] })
    else t.performPacket w.2) t

/-- MARKER_RELEASE: waiting packets are performed, and once every copy of the marker has arrived and nothing of the
source waits, the marker is answered and the queues go on. -/
def execMarkerRelease (src : Nat) (s : State) : Out :=
  let t := s.serve src
  let i := t.dev.inboundOf src
  .next (match i.marker with
    | some m =>
      if i.count = i.ncopy ∧ i.waiting = [] then
        let d := t.dev.setInbound { src := src, held := [], count := 0, ncopy := 0, marker := none, queue := [], waiting := [] }
        i.queue.foldl (fun t q => t.route src q.1 q.2) (t.setDev (d.respond m 0 []))
      else t
    | none => t)

/-! ## Arrival -/

/-- Whether a packet is discarded (R139). -/
def badPacket (p : Packet) : Bool :=
  p.malformed || decide (11 ≤ p.type) ||
    (p.type == ptMARK && (p.xtra / 2 ^ 16 % 128 == 0 || decide (64 < p.xtra / 2 ^ 16 % 128)))

/-- The place at which a packet is ordered: the bank of its line (Table 15-5). -/
def arrivalPlace (p : Packet) : Nat := if inMemory (64 * p.line) ∨ regionOf (64 * p.line) = .atrium then bankOf (64 * p.line) else 0

/-- The payload of a packet's FARR record (Table 15-4). -/
def arrivalPayload (plane : Nat) (p : Packet) : Nat := p.src + p.tag * 2 ^ 10 + arrivalPlace p * 2 ^ 22 + plane * 2 ^ 38

/-- The arrival order of a packet at its place is recorded, or its record passed in replay (R139, R401, Table 15-4). -/
def State.logArrival (s : State) (plane : Nat) (p : Packet) : State :=
  if bit (s.dev.reg 0x60000) 31 then
    let q := s.takeSerial (arrivalPlace p)
    let t := q.1.logAtrium 10 q.2 (arrivalPayload plane p)
    if s.recMode = 3 then
      t.setDev { t.dev with recUnit := { t.dev.recUnit with
        expect := t.dev.recUnit.expect.eraseP fun e => e.1 == 32 && e.2.kind == 10 && e.2.payload == arrivalPayload plane p } }
    else t
  else s

/-- Whether a replay holds a packet of a device that replays as well, until its FARR record is supplied and its serial is due (R401). -/
def State.arrivalHeld (s : State) (plane : Nat) (p : Packet) : Bool :=
  s.recLive && s.recMode == 3 && Config.peerReplays p.src && !(s.dev.recUnit.expect.any fun e =>
    e.1 == 32 && e.2.kind == 10 && e.2.payload == arrivalPayload plane p && e.2.icnt == Store.get 0 s.dev.recUnit.serial (arrivalPlace p))

/-- The packets that a replay holds, with or without one. -/
def State.setLate (s : State) (ps : List (Nat × Packet)) : State := s.setDev { s.dev with fabric := { s.dev.fabric with late := ps } }

/-- The packet that an UNDLV returns on a plane, as UNDLV_ARRIVAL takes it; its type stood above XTRA (log entry 14). -/
def returnedOf (plane : Nat) (p : Packet) : Packet := { p with type := p.xtra / 2 ^ 32, xtra := p.xtra % 2 ^ 32 + plane % 64 * 2 ^ 32 }

/-- FABRIC_PACKET_ARRIVAL: a discarded packet is counted and a discarded request answered with MALF; an answer goes to
its request; any other is recorded and performed, queued, counted as a marker copy, or held by a replay (log entry 89). Whether a packet of TYPE 11 to 31 is a
request the spec does not say: it is answered, as every type but RSP, MCS and UNDLV is (DESIGN CHOICE, log entry 82). An MCW or MCR is
for a switch, and the spec does not say what a device does with one: it answers MALF (DESIGN CHOICE, log entry 83). -/
def execFabricPacketArrival (plane : Nat) (p : Packet) (s : State) : Out :=
  .next (
    if badPacket p then
      let d := s.dev.onPort plane fun x => { x with malf := min (x.malf + 1) 255 }
      s.setDev (if p.type = ptRSP ∨ p.type = ptMCS ∨ p.type = ptUNDLV then d else d.respond p 3 [])
    else if p.type = ptRSP then s.response p
    else if p.type = ptMCS then s.mcs p
    else if p.type = ptUNDLV then s.undelivered plane { p with type := p.xtra / 2 ^ 32, xtra := p.xtra % 2 ^ 32 }
    else if p.type = ptMCW ∨ p.type = ptMCR then s.setDev (s.dev.respond p 3 [])
    else if s.arrivalHeld plane p then (if s.dev.fabric.late.contains (plane, p) then s else s.setLate (s.dev.fabric.late ++ [(plane, p)]))
    else ((s.setLate (s.dev.fabric.late.erase (plane, p))).logArrival plane p).route p.src plane p)

/-! ## The host link (R153, R154) -/

/-- HOSTAPT entry `i`. -/
def Device.hostApt (d : Device) (i : Nat) : Nat := d.reg (0x31000 + 8 * i)

/-- The parts of a run of bytes on lines. -/
def hostLines (off n : Nat) : List (Nat × Nat) := (cutRun 6 (n / 64 + 2) off 0 n).map fun x => (off + x.1, x.2)

/-- One line of a host access through BAR2: a fabric access of the bridge device, ordered at POD scope (R154). At this device it
arrives over the host link and waits as packets do (R23, R441); to another, a marker goes ahead of it; where its address does not
decode it is refused, which for a read is Unsupported Request (R14, R16). -/
def State.hostLine (s : State) (t off : Nat) (p : Packet) : State :=
  match decodePA s.dev .plain t off with
  | .at (.far h _) =>
    let d := (s.dev.sendMarker h .none).getD s.dev
    (match d.request { p with dst := h } .host with
      | some e => s.setDev e
      | none => (s.setDev d).answerHost p 1 [])
  | .fault _ => s.answerHost p 1 []
  | _ => s.route hostSrc 64 { p with src := hostSrc }

/-- The packet of one line of a host access. -/
def hostPacket (write : Bool) (off : Nat) (bs : List Byte) : Packet :=
  let y := lineData [(off % 64, bs)]
  { Packet.basic (if write then ptWR else ptRD) 0 (off / 64) with be := y.1, data := if write then y.2 else [] }

/-- HOST_BAR2_ACCESS: translated by HOSTAPT into fabric accesses of the bridge device. -/
def execHostBar2Access (a : HostAccess) (s : State) : Out :=
  let e := s.dev.hostApt (a.off / 2 ^ 30)
  let ok := s.dev.isBridge && s.dev.fabric.linkUp && bit e 63 && decide (a.off + a.len ≤ 2 ^ 36)
  let t := bits e 57 48
  let base := bits e 47 30 * 2 ^ 30
  let s0 := s.setDev { s.dev with hostRead := none }
  .next (
    if ok then
      (match a.write with
        | some bs => (hostLines (a.off % 2 ^ 30) bs.length).foldl (fun u x =>
            u.hostLine t (base + x.1) (hostPacket true (base + x.1) ((bs.drop (x.1 - a.off % 2 ^ 30)).take x.2))) s
        | none => (hostLines (a.off % 2 ^ 30) a.len).foldl (fun u x => u.hostLine t (base + x.1) (hostPacket false (base + x.1) (List.replicate x.2 0#8))) s0)
    else if a.write.isSome then s else s0)

/-- HOST_BAR0_ACCESS: the bridge's device control space. -/
def execHostBar0Access (a : HostAccess) (s : State) : Out :=
  .next (
    if s.dev.isBridge && s.dev.fabric.linkUp && decide (a.off + a.len ≤ 0x40000000) then
      (match a.write with
        | some bs =>
          let w : RegWrite := { agent := .host, off := a.off, len := a.len, val := leNat bs }
          { s with turns := .event (ctrlRow w) :: s.turns }
        | none =>
          let p := s.dev.ctrlBytes 17 a.off a.len
          s.setDev { p.1 with hostRead := some p.2 })
    else s)

/-- BRIDGE_LINK_DOWN: the bridge's PCIe link goes down, or comes up; a request on a link that is down fails (R20, R154). -/
def execBridgeLinkDown (down : Bool) (s : State) : Out :=
  .next (
    if s.dev.isBridge then
      let t := s.setDev { s.dev with fabric := { s.dev.fabric with linkUp := !down } }
      if down then (s.dev.fabric.requests.filter s.dev.onPcie).foldl (fun t r => t.failRequest r) t else t
    else s)

end Sys2Proof.Machine
end

