-- ==== Sys2Proof/Machine/IntLane.lean ====
section
/-!
DEFINITION. Integer, bitfield, compare and select lane instructions, and the 16-bit integer forms (R200,
R228 to R231, Tables 9-2 and 9-3).
-/
namespace Sys2Proof.Machine

/-- The counter of the integer instructions (Table 15-12). -/
def cntInt : Option (Nat × Nat) := some (19, 1)

/-! ## Operations on words (Table 9-2) -/

/-- SHL: an amount of 32 or more gives 0. -/
def wshl (a b : Word) : Word := if 32 ≤ b.toNat then 0#32 else a <<< b.toNat
/-- SHR: zeros shifted in. -/
def wshr (a b : Word) : Word := if 32 ≤ b.toNat then 0#32 else a >>> b.toNat
/-- SAR: copies of the sign bit shifted in. -/
def wsar (a b : Word) : Word := a.sshiftRight (min 31 b.toNat)
/-- ROTL by b[4:0]. -/
def wrotl (a b : Word) : Word := a.rotateLeft (b.toNat % 32)
/-- The 64-bit signed product. -/
def wmulS (a b : Word) : DWord := a.signExtend 64 * b.signExtend 64
/-- The 64-bit unsigned product. -/
def wmulU (a b : Word) : DWord := a.setWidth 64 * b.setWidth 64
/-- clamp to the signed range of 32 bits. -/
def wclamp (x : Int) : Word := BitVec.ofInt 32 (max (-(2 ^ 31)) (min (2 ^ 31 - 1) x))
/-- The signed lesser. -/
def wimin (a b : Word) : Word := if a.sle b then a else b
/-- The signed greater. -/
def wimax (a b : Word) : Word := if a.sle b then b else a
/-- The unsigned lesser. -/
def wumin (a b : Word) : Word := if a.ule b then a else b
/-- The unsigned greater. -/
def wumax (a b : Word) : Word := if a.ule b then b else a
/-- Leading zero bits; 32 for 0. -/
def wclz (b : Word) : Word := if b = 0#32 then 32#32 else BitVec.ofNat 32 (31 - Nat.log2 b.toNat)
/-- The number of 1 bits. -/
def wpopc (b : Word) : Word := BitVec.ofNat 32 ((List.range 32).countP fun i => b.getLsbD i)
/-- Bit k of the result is bit 31 − k. -/
def wbrev (b : Word) : Word := (List.range 32).foldl (fun x i => if b.getLsbD (31 - i) then x ||| (1#32 <<< i) else x) 0#32
/-- The absolute value mod 2^32 (R233). -/
def wabs (b : Word) : Word := if b.getLsbD 31 then -b else b

/-! ## Bitfields (R229) -/

/-- pos = b[4:0]. -/
def bfPos (b : Word) : Nat := b.toNat % 32
/-- Bits of the field: from pos up to min(pos + len, 32), with len = min(b[13:8], 32). -/
def bfLen (b : Word) : Nat := min (bfPos b + min (bits b.toNat 13 8) 32) 32 - bfPos b
/-- BFX. -/
def wbfx (a b : Word) : Word := BitVec.ofNat 32 (a.toNat / 2 ^ bfPos b % 2 ^ bfLen b)
/-- BFXS. -/
def wbfxs (a b : Word) : Word :=
  if bfLen b = 0 then 0#32 else BitVec.ofInt 32 (toSigned (bfLen b) (a.toNat / 2 ^ bfPos b))
/-- BFI. -/
def wbfi (d a b : Word) : Word :=
  let m : Word := BitVec.ofNat 32 ((2 ^ bfLen b - 1) * 2 ^ bfPos b)
  (d &&& ~~~ m) ||| ((a <<< bfPos b) &&& m)
/-- One byte of PRMT: nibble k of the selector chooses a byte of b:a or its sign. -/
def prmtByte (sel x k : Nat) : Nat :=
  let n := sel / 2 ^ (4 * k) % 16
  let y := x / 2 ^ (8 * (n % 8)) % 256
  if n < 8 then y else if 128 ≤ y then 255 else 0
/-- PRMT. -/
def wprmt (d a b : Word) : Word :=
  let x := b.toNat * 2 ^ 32 + a.toNat
  BitVec.ofNat 32 (prmtByte d.toNat x 0 + 256 * prmtByte d.toNat x 1 + 65536 * prmtByte d.toNat x 2 + 16777216 * prmtByte d.toNat x 3)

/-! ## 16-bit forms (R200, R201) -/

/-- MOV_16: `vd = vs`; with vd equal to vs it is NOP.16, which touches nothing (R200, R201). -/
def execMov16 (o : Op16) (s : State) : Out := .next (if o.d = o.s then s.retire 2 else half1 none (fun b => b) o s)

/-- IADD_16: vd + vs (R200). -/
def execIadd16 (o : Op16) (s : State) : Out := .next (half2 cntInt (fun d x => d + x) o s)

/-- ISUB_16: vd − vs (R200). -/
def execIsub16 (o : Op16) (s : State) : Out := .next (half2 cntInt (fun d x => d - x) o s)

/-- IMUL_16: vd × vs (R200). -/
def execImul16 (o : Op16) (s : State) : Out := .next (half2 cntInt (fun d x => d * x) o s)

/-- AND_16: vd AND vs (R200). -/
def execAnd16 (o : Op16) (s : State) : Out := .next (half2 cntInt (fun d x => d &&& x) o s)

/-- OR_16: vd OR vs (R200). -/
def execOr16 (o : Op16) (s : State) : Out := .next (half2 cntInt (fun d x => d ||| x) o s)

/-- XOR_16: vd XOR vs (R200). -/
def execXor16 (o : Op16) (s : State) : Out := .next (half2 cntInt (fun d x => d ^^^ x) o s)

/-- SHL_16: vd shifted left by vs (R200). -/
def execShl16 (o : Op16) (s : State) : Out := .next (half2 cntInt wshl o s)

/-- SHR_16: vd shifted right by vs (R200). -/
def execShr16 (o : Op16) (s : State) : Out := .next (half2 cntInt wshr o s)

/-- SAR_16: vd shifted right arithmetically by vs (R200). -/
def execSar16 (o : Op16) (s : State) : Out := .next (half2 cntInt wsar o s)

/-! ## Two-source arithmetic and logic (Table 9-2) -/

/-- IADD: (a + b) mod 2^32 (R228). -/
def execIadd (o : Lane2) (s : State) : Out := .next (lane2 cntInt (fun a b => a + b) o s)

/-- ISUB: (a − b) mod 2^32 (R228). -/
def execIsub (o : Lane2) (s : State) : Out := .next (lane2 cntInt (fun a b => a - b) o s)

/-- IMUL: (a × b) mod 2^32 (R228). -/
def execImul (o : Lane2) (s : State) : Out := .next (lane2 cntInt (fun a b => a * b) o s)

/-- IMULHI: the high word of the signed product (R228). -/
def execImulhi (o : Lane2) (s : State) : Out := .next (lane2 cntInt (fun a b => hi32 (wmulS a b)) o s)

/-- IMULHU: the high word of the unsigned product (R228). -/
def execImulhu (o : Lane2) (s : State) : Out := .next (lane2 cntInt (fun a b => hi32 (wmulU a b)) o s)

/-- IADDS: the saturating signed sum (R228). -/
def execIadds (o : Lane2) (s : State) : Out := .next (lane2 cntInt (fun a b => wclamp (a.toInt + b.toInt)) o s)

/-- ISUBS: the saturating signed difference (R228). -/
def execIsubs (o : Lane2) (s : State) : Out := .next (lane2 cntInt (fun a b => wclamp (a.toInt - b.toInt)) o s)

/-- AND: a AND b (R228). -/
def execAnd (o : Lane2) (s : State) : Out := .next (lane2 cntInt (fun a b => a &&& b) o s)

/-- OR: a OR b (R228). -/
def execOr (o : Lane2) (s : State) : Out := .next (lane2 cntInt (fun a b => a ||| b) o s)

/-- XOR: a XOR b (R228). -/
def execXor (o : Lane2) (s : State) : Out := .next (lane2 cntInt (fun a b => a ^^^ b) o s)

/-- ANDN: a AND NOT b (R228). -/
def execAndn (o : Lane2) (s : State) : Out := .next (lane2 cntInt (fun a b => a &&& ~~~ b) o s)

/-- SHL: a shifted left, 0 for amounts of 32 or more (R228). -/
def execShl (o : Lane2) (s : State) : Out := .next (lane2 cntInt (fun a b => wshl a b) o s)

/-- SHR: a shifted right, zeros shifted in (R228). -/
def execShr (o : Lane2) (s : State) : Out := .next (lane2 cntInt (fun a b => wshr a b) o s)

/-- SAR: a shifted right, copies of a[31] shifted in (R228). -/
def execSar (o : Lane2) (s : State) : Out := .next (lane2 cntInt (fun a b => wsar a b) o s)

/-- ROTL: a rotated left by b[4:0] (R228). -/
def execRotl (o : Lane2) (s : State) : Out := .next (lane2 cntInt (fun a b => wrotl a b) o s)

/-- IMIN: the signed lesser (R228). -/
def execImin (o : Lane2) (s : State) : Out := .next (lane2 cntInt (fun a b => wimin a b) o s)

/-- IMAX: the signed greater (R228). -/
def execImax (o : Lane2) (s : State) : Out := .next (lane2 cntInt (fun a b => wimax a b) o s)

/-- UMIN: the unsigned lesser (R228). -/
def execUmin (o : Lane2) (s : State) : Out := .next (lane2 cntInt (fun a b => wumin a b) o s)

/-- UMAX: the unsigned greater (R228). -/
def execUmax (o : Lane2) (s : State) : Out := .next (lane2 cntInt (fun a b => wumax a b) o s)

/-- BFX: a field of a, zero-extended (R229) (R228). -/
def execBfx (o : Lane2) (s : State) : Out := .next (lane2 cntInt (fun a b => wbfx a b) o s)

/-- BFXS: a field of a, sign-extended (R229) (R228). -/
def execBfxs (o : Lane2) (s : State) : Out := .next (lane2 cntInt (fun a b => wbfxs a b) o s)

/-- LSA1: ((a << 1) + b) mod 2^32 (R228). -/
def execLsa1 (o : Lane2) (s : State) : Out := .next (lane2 cntInt (fun a b => (a <<< 1) + b) o s)

/-- LSA2: ((a << 2) + b) mod 2^32 (R228). -/
def execLsa2 (o : Lane2) (s : State) : Out := .next (lane2 cntInt (fun a b => (a <<< 2) + b) o s)

/-- LSA3: ((a << 3) + b) mod 2^32 (R228). -/
def execLsa3 (o : Lane2) (s : State) : Out := .next (lane2 cntInt (fun a b => (a <<< 3) + b) o s)

/-- LSA4: ((a << 4) + b) mod 2^32 (R228). -/
def execLsa4 (o : Lane2) (s : State) : Out := .next (lane2 cntInt (fun a b => (a <<< 4) + b) o s)

/-- IMAD: (a × b + vd) mod 2^32 (R228). -/
def execImad (o : Lane2) (s : State) : Out := .next (lane3 cntInt (fun d a b => a * b + d) o s)

/-- BFI: a field of vd replaced by low bits of a (R229). -/
def execBfi (o : Lane2) (s : State) : Out := .next (lane3 cntInt (fun d a b => wbfi d a b) o s)

/-- PRMT: bytes of b:a selected by the nibbles of vd (R229). -/
def execPrmt (o : Lane2) (s : State) : Out := .next (lane3 cntInt (fun d a b => wprmt d a b) o s)

/-! ## Unary (Tables 9-2 and 9-5) -/

/-- CLZ: leading zero bits of b (R228). -/
def execClz (o : Lane1) (s : State) : Out := .next (lane1 cntInt wclz o s)

/-- POPC: 1 bits of b (R228). -/
def execPopc (o : Lane1) (s : State) : Out := .next (lane1 cntInt wpopc o s)

/-- BREV: b with its bits reversed (R228). -/
def execBrev (o : Lane1) (s : State) : Out := .next (lane1 cntInt wbrev o s)

/-- INEG: (−b) mod 2^32 (R228). -/
def execIneg (o : Lane1) (s : State) : Out := .next (lane1 cntInt (fun b => -b) o s)

/-- IABS: the absolute value mod 2^32 (R233). -/
def execIabs (o : Lane1) (s : State) : Out := .next (lane1 cntInt wabs o s)

/-! ## Compares and SEL (R230, R231) -/

/-- ICMP_EQ: predicate bits where a = b (R230). -/
def execIcmpEq (o : Lane2) (s : State) : Out := .next (cmpOp cntInt (icmp 0) o s)

/-- ICMP_NE: predicate bits where a ≠ b (R230). -/
def execIcmpNe (o : Lane2) (s : State) : Out := .next (cmpOp cntInt (icmp 1) o s)

/-- ICMP_LT: predicate bits where a < b, signed (R230). -/
def execIcmpLt (o : Lane2) (s : State) : Out := .next (cmpOp cntInt (icmp 2) o s)

/-- ICMP_LE: predicate bits where a ≤ b, signed (R230). -/
def execIcmpLe (o : Lane2) (s : State) : Out := .next (cmpOp cntInt (icmp 3) o s)

/-- ICMP_GT: predicate bits where a > b, signed (R230). -/
def execIcmpGt (o : Lane2) (s : State) : Out := .next (cmpOp cntInt (icmp 4) o s)

/-- ICMP_GE: predicate bits where a ≥ b, signed (R230). -/
def execIcmpGe (o : Lane2) (s : State) : Out := .next (cmpOp cntInt (icmp 5) o s)

/-- ICMP_LTU: predicate bits where a < b, unsigned (R230). -/
def execIcmpLtu (o : Lane2) (s : State) : Out := .next (cmpOp cntInt (icmp 6) o s)

/-- ICMP_GEU: predicate bits where a ≥ b, unsigned (R230). -/
def execIcmpGeu (o : Lane2) (s : State) : Out := .next (cmpOp cntInt (icmp 7) o s)

/-- SEL: each active lane takes a where its bit of p0 to p7 is 1, else b; under U = 1 lane l's bit selects (R231). -/
def execSel (k : BitVec 3) (o : Lane2) (s : State) : Out :=
  let c := s.me
  .next (laneOp { n := o.b.len, u := o.u, vs := o.a.toNat :: o.b.vs, ss := o.b.ss
                  frees := (if o.ma then [o.a.toNat] else []) ++ (if o.mb then o.b.vs else [])
                  d := o.d.toNat, full := true, put := putWhole, cnt := cntInt
                  res := fun i => if (c.pget k.toNat).getLsbD i then (c.vget o.a.toNat).lane i else o.b.rd c i } s)

end Sys2Proof.Machine
end

