-- ==== Sys2Proof/Machine/Switch.lean ====
section
/-!
DEFINITION. The answers of plane switches to multicast packets (R143 to R145): SWITCH_MCW and SWITCH_MCR.
-/
namespace Sys2Proof.Machine

/-- One FP32 sum in member order; any NaN gives the canonical NaN (R145). -/
def sumMembers : List Nat → Nat
  | [] => 0
  | x :: xs => xs.foldl (fun a b => fadd .fp32 a b) (if (value x .fp32).isNan then 0x7FC00000 else x)

/-- Element `e` of a member's bytes as FP32. -/
def mcrElem (bf : Bool) (bs : List Byte) (e : Nat) : Nat :=
  if bf then leNat ((bs.drop (2 * e)).take 2) * 2 ^ 16 else leNat ((bs.drop (4 * e)).take 4)

/-- The result of an MCR: its status, the device that an ABSENT names, and 64 bytes (R145). -/
def mcrResult (bf : Bool) (ms : List (Nat × MemberRead)) : Nat × Nat × List Byte :=
  match ms.find? fun m => m.2 == .absent with
  | some m => (4, m.1, (List.range 16).flatMap fun _ => leBytes 4 0x7FC00000)
  | none =>
    if ms.any fun m => m.2 == .poison then (2, 0, List.replicate 64 0#8)
    else
      let ds := ms.map fun m => match m.2 with
        | .data bs => bs
        | _ => []
      (0, 0, (List.range 16).flatMap fun e => leBytes 4 (sumMembers (ds.map fun bs => mcrElem bf bs e)))

/-- What this device answers to a switch's read of its memory: a line that decodes to none is absent. -/
def Device.memberRead (d : Device) (off n : Nat) : MemberRead :=
  match decodeOwn d .plain off with
  | .at (.mem o) =>
    if d.tierDown o then .absent
    else if d.badMask o n ≠ 0#64 then .poison else .data ((List.range n).map fun i => d.outerByte (o + i))
  | _ => .absent

/-- The answer of a switch to the device, as the next turn. -/
def State.fromSwitch (s : State) (i : Instr) : State := { s with turns := .event i :: s.turns }

/-- SWITCH_MCW: the switch has written to every member it could; the members that failed are given by index. This device's own copy
comes back to it as a WR like any other: it is performed here, or waits, or fails with the decode fault (R144). A group that the
switch does not hold as valid is answered with MALF, and nothing is written (R143). -/
def execSwitchMcw (tag : Nat) (failed : List Nat) (s : State) : Out :=
  .next (match s.dev.requestOf tag with
    | none => s
    | some r =>
      if r.packet.type ≠ ptMCW then s
      else
        let g := r.packet.dst
        let basic := { Packet.basic ptMCS s.dev.num r.packet.line with tag := tag }
        if s.dev.gvalid g = false then s.fromSwitch (.mcsArrival { basic with data := List.replicate 64 0#8, xtra := 3 })
        else
          let ms := s.dev.members g
          let me := (ms.takeWhile fun m => m != s.dev.num).length
          let wr := { Packet.basic ptWR s.dev.num (s.dev.gbase g / 64 + r.packet.line) with
            src := s.dev.num, be := r.packet.be, data := r.packet.data, poison := r.packet.poison }
          let mine : Bool := decide (me < ms.length) && !(failed.contains me)
          if mine && s.dev.mustWait wr then s
          else
            let p := s.dev.homeLine wr
            let bad := if mine && p.isNone then me :: failed else failed
            let t := if mine then (match p with
                | some o => s.writeLine o s.dev.num wr
                | none => s)
              else s
            let bitmap := (bad.filter fun i => decide (i < 512)).foldl (fun m i => m ||| 2 ^ i) 0
            t.fromSwitch (.mcsArrival { basic with data := leBytes 64 bitmap }))

/-- SWITCH_MCR: the switch has read every member; what the others answered is given by index. A group that the switch does not hold as
valid is answered with MALF (R143, R145). -/
def execSwitchMcr (tag : Nat) (reads : List MemberRead) (s : State) : Out :=
  .next (match s.dev.requestOf tag with
    | none => s
    | some r =>
      if r.packet.type ≠ ptMCR then s
      else
        let g := r.packet.dst
        let bf : Bool := r.packet.op == 0
        let basic := { Packet.basic ptRSP s.dev.num r.packet.line with tag := tag }
        if s.dev.gvalid g = false then s.fromSwitch (.responseArrival { basic with xtra := 3 })
        else
          let off := s.dev.gbase g + 64 * r.packet.line + ((r.packet.entries.head?).map (·.off)).getD 0
          let rd := Packet.basic ptRD s.dev.num (off / 64)
          if s.dev.isMember g s.dev.num && s.dev.mustWait rd then s
          else
            let ms := (s.dev.members g).mapIdx fun i m =>
              (m, if m = s.dev.num then s.dev.memberRead off (if bf then 32 else 64) else reads.getD i .absent)
            let x := mcrResult bf ms
            let t := if s.dev.isMember g s.dev.num then s.setDev (s.dev.homeLoad off) else s
            t.fromSwitch (.responseArrival { basic with xtra := x.1 + x.2.1 * 16, data := x.2.2 }))

end Sys2Proof.Machine
end

