-- ==== Sys2Proof/Machine/LinkLayer.lean ====
section
/-!
DEFINITION. The link layer of the plane ports and UCIe modules (R146 to R152), plane masks and holds (R134, R135, R148),
and the registers that the management processor writes for them. Ports 64 to 79 are the modules of the vestibules.
-/
/-- A flit that FEC cannot correct, whose CRC fails, or of KIND 4 to 7 is bad: each codeword corrects up to 2 symbols (R146,
Table 5-4). -/
def Sys2Proof.Flit.bad (f : Sys2Proof.Flit) : Bool := decide (2 < f.evenErrors) || decide (2 < f.oddErrors) || !f.crcOk || decide (4 ≤ f.kind)

/-- HDR of a flit (Table 5-4). -/
def Sys2Proof.Flit.hdr (f : Sys2Proof.Flit) : Nat :=
  f.seq % 4096 + f.ack % 4096 * 2 ^ 12 + f.kind % 8 * 2 ^ 24 + (if f.enc then 2 ^ 27 else 0)

namespace Sys2Proof.Machine

/-! ## Ports -/

/-- The flits that a replay buffer holds: 512 at a plane port, 128 at a module (R147, R151). -/
def bufferCap (q : Nat) : Nat := if q < 64 then 512 else 128

/-- Hand the waiting packets to the replay buffer while it has room (R147). -/
def Port.pump : List Packet → Port → Port
  | [], p => p
  | k :: ks, p => if p.room 512 k then Port.pump ks (p.carry k) else { p with waiting := k :: ks }

/-- Hand on what waits. -/
def Port.flow (p : Port) : Port := Port.pump p.waiting { p with waiting := [] }

/-- Whether a sequence number is one that a flit of the replay buffer carries. -/
def Port.holdsSeq (p : Port) (a : Nat) : Bool := p.buffer.any fun f => f.1 == a

/-- Release every flit up to an acknowledged one (R147). -/
def Port.release (p : Port) (ack : Nat) : Port :=
  if p.holdsSeq ack then
    { p with buffer := (p.buffer.dropWhile fun (f : Nat × List Packet) => f.1 != ack).drop 1, resends := 0 : Port }.flow
  else p

/-- A retraining begins (R147). -/
def Port.train (p : Port) : Port := { p with state := 1, retrain := min (p.retrain + 1) 255 }

/-- Resend every held flit; the ninth resend of the same oldest flit retrains the port instead (R147). -/
def Port.resend (p : Port) : Port :=
  if p.buffer.isEmpty then p
  else if 8 ≤ p.resends then p.train
  else { p with replay := min (p.replay + p.buffer.length) 0xFFFF, resends := p.resends + 1 }

/-- The port enters DEAD: flits that it holds wait for PORTRESOLVE (R147, R148). -/
def Port.die (p : Port) : Port := { p with state := 4, resolve := !p.buffer.isEmpty }

/-- A NAK with the SEQ before the expected one (R147). -/
def Port.sendNak (p : Port) : Port := { p with naks := p.naks ++ [(p.rxnext + 4095) % 4096] }

/-- A bad flit, or one out of sequence: one NAK for a run of bad flits (R147). -/
def Port.nak (p : Port) (bad : Bool) : Port :=
  if bad then (if p.inBad then p else { p.sendNak with inBad := true }) else { p.sendNak with inBad := false }

/-- The row that a received packet is. A malformed answer is one that FABRIC_PACKET_ARRIVAL discards (R139). -/
def arrivalOf (plane : Nat) (p : Packet) : Instr :=
  if badPacket p then .fabricPacketArrival plane p
  else if p.type = ptRSP then .responseArrival p
  else if p.type = ptMCS then .mcsArrival p
  else if p.type = ptUNDLV then .undlvArrival (returnedOf plane p)
  else .fabricPacketArrival plane p

/-- Whether a sequence number lies ahead of the expected one: the spec names no window, and the model takes the half of the numbers
that follows (DESIGN CHOICE, log entry 84). -/
def ahead (seq expected : Nat) : Bool := decide (0 < (seq + 4096 - expected) % 4096 ∧ (seq + 4096 - expected) % 4096 < 2048)

/-- Packets that waited at a port without unacknowledged flits when it died go to other planes at once (R148). -/
def State.reroute (s : State) (q : Nat) : State :=
  let p := s.dev.portAt q
  if p.state = 4 ∧ p.resolve = false then
    p.waiting.foldl (fun t k => if k.type = ptMARK then t.resendCopy q k else t.sendNow k) (s.setDev (s.dev.mapPort q fun x => { x with waiting := [] }))
  else s

/-- A good flit of kind 0 or 3 at a port: accepted in sequence, else dropped with a NAK when it is ahead. A data flit of a plane port
advances the receive counter; one whose GCM check fails, or that is not encrypted on a keyed port, kills the port (R147, R149). -/
def State.sequenced (s : State) (q : Nat) (f : Flit) : State :=
  let p := s.dev.portAt q
  if f.seq = p.rxnext then
    if f.kind = 0 ∧ q < 64 ∧ p.keyed ∧ (f.gcmOk = false ∨ f.enc = false) then
      (s.setDev ((s.dev.mapPort q Port.die).notify 0x100 q none)).reroute q
    else
      let t := s.setDev (s.dev.mapPort q fun x =>
        { x with rxnext := (x.rxnext + 1) % 4096, rxgcm := if f.kind = 0 ∧ x.keyed then x.rxgcm + 1 else x.rxgcm })
      if f.kind = 0 ∧ q < 64 then { t with turns := (f.packets.map fun k => Turn.event (arrivalOf q k)) ++ t.turns } else t
  else s.setDev (s.dev.mapPort q fun x => if ahead f.seq x.rxnext then x.nak false else x)

/-- A module counts a flit, and a bad one by its place among them (R152). -/
def Port.tally (p : Port) (bad : Bool) : Port :=
  { p with seen := p.seen + 1, badAt := if bad then (p.seen :: p.badAt).take 16 else p.badAt }

/-- Whether 16 bad flits lie within 2^20 consecutive ones of a module at full width (R152). -/
def Port.failing (p : Port) : Bool :=
  p.width == 64 && p.badAt.length == 16 && decide (p.badAt.headD 0 - p.badAt.getLastD 0 < 2 ^ 20)

/-- A bad flit at a module may make it fall back; which lanes fail is what the module finds, here two free values (R152). -/
def State.tallied (s : State) (q : Nat) (bad : Bool) : State :=
  if q < 64 then s
  else
    let t := s.setDev (s.dev.mapPort q fun x => x.tally bad)
    if bad && (t.dev.portAt q).failing then
      let w := t.drawWord
      { w.1 with turns := .event (.moduleFallback ((q - 64) / 8) ((q - 64) % 8) (w.2.getLsbD 0) (w.2.getLsbD 1)) :: w.1.turns }
    else t

/-- FLIT_RECEIVE: a port that trains, is off or is dead takes nothing, nor does a port behind a vestibule whose modules are all down
(R152). -/
def execFlitReceive (port : Nat) (f : Flit) (s : State) : Out :=
  let p := s.dev.portAt port
  .next (
    if p.state ≠ 2 ∧ p.state ≠ 3 ∨ port < 64 ∧ s.dev.vestDown (port / 32) then s
    else
      let s := s.tallied port f.bad
      if f.bad then s.setDev (s.dev.mapPort port fun x => x.nak true)
      else
        let d := s.dev.mapPort port fun x => ({ x with inBad := false }).release f.ack
        let t := s.setDev (if 64 ≤ port then d.cross else d)
        if f.kind = 0 ∨ f.kind = 3 then t.sequenced port f
        else if f.kind = 2 then t.setDev (t.dev.mapPort port Port.resend) else t)

/-- NAK_RECEIVE: flits up to the NAK's ACK are released and every later one is resent, in order and bit for bit. -/
def execNakReceive (port ack : Nat) (s : State) : Out :=
  .next (if (s.dev.portAt port).state = 3 then s.setDev (s.dev.mapPort port fun p => (p.release ack).resend) else s)

/-- ACK_TIMEOUT: the sender resends from the oldest held flit. -/
def execAckTimeout (port : Nat) (s : State) : Out :=
  .next (if (s.dev.portAt port).state = 3 then s.setDev (s.dev.mapPort port Port.resend) else s)

/-- Move to the state after training: UP where keyed or a module, else KEYING. A plane port sends its RXNEXT in a link-management
flit, which is sequenced and held like any (a module uses the sideband), and resends the held flits from the peer's RXNEXT on (R147,
R150, R151). -/
def Port.trained (p : Port) (isModule : Bool) (rxnext : Nat) : Port :=
  let b := if p.holdsSeq rxnext then p.buffer.dropWhile fun f => f.1 != rxnext else []
  let p := { p with buffer := b, fails := 0, resends := 0, replay := min (p.replay + b.length) 0xFFFF }
  let p := if isModule then p else p.put []
  if isModule || p.keyed then { p with state := 3 }.flow else { p with state := 2 }

/-- RETRAIN_DONE: after training the peer's RXNEXT says where resending begins; the third failure in a row kills the port. -/
def execRetrainDone (port : Nat) (ok : Bool) (rxnext : Nat) (s : State) : Out :=
  let isModule : Bool := decide (64 ≤ port)
  .next (
    if (s.dev.portAt port).state ≠ 1 then s
    else
      let d := s.dev.mapPort port fun p =>
        if ok then p.trained isModule rxnext
        else if 2 ≤ p.fails then { p with fails := 3 }.die
        else { p with fails := p.fails + 1, retrain := min (p.retrain + 1) 255 }
      (s.setDev (if isModule then d.cross else d)).reroute port)

/-- PORT_RETRAIN_REQUEST: the management processor retrains one port while the others carry on (R148, R440). -/
def execPortRetrainRequest (port : Nat) (s : State) : Out :=
  .next (if (s.dev.portAt port).state = 3 ∧ port < 64 then s.setDev (s.dev.mapPort port Port.train) else s)

/-- MODULE_FALLBACK: a module retrains on the half that holds no failing lane, or goes down. What it held was taken by its far end, so
nothing of it is resent; packets that wait to cross move to the next module. When every module of the vestibule is down, what still
waits to cross fails (R151, R152, log entry 76). -/
def execModuleFallback (vestibule mod : Nat) (failLow failHigh : Bool) (s : State) : Out :=
  let q := 64 + 8 * vestibule + mod
  .next (
    if 2 ≤ vestibule ∨ 8 ≤ mod then s
    else
      let d := s.dev.mapPort q fun p =>
        if failLow && failHigh then { p with width := 0, state := 4, buffer := [], waiting := [] }
        else { p with width := 32, high := failLow, badAt := [] }.train
      let d := d.cross.notify 0x200 (8 * vestibule + mod) none
      if d.vestDown vestibule then
        let cut := d.fabric.crossing.filter fun w => w.1 / 32 == vestibule
        let e := { d with fabric := { d.fabric with crossing := d.fabric.crossing.filter fun w => w.1 / 32 != vestibule } }
        cut.foldl (fun t w => if w.2.type = ptRSP then t else match t.dev.requestOf w.2.tag with
          | some r => t.failRequest r
          | none => t) (s.setDev e)
      else s.setDev d)

/-! ## Keys (R149, R150) -/

/-- KEY_EXCHANGE_DONE: new keys and salts are installed in both directions with their counters at 0, and a port in KEYING enters UP.
The values and the number of link-management flits that the exchange took are free (log entry 7); those flits are acknowledged. -/
def execKeyExchangeDone (port : Nat) (s : State) : Out :=
  .next (
    let p := s.dev.portAt port
    if port < 64 ∧ (p.state = 2 ∨ p.update) then
      let n := s.free
      ({ s with free := n + 1 }).setDev (s.dev.mapPort port fun x =>
        { x with keyed := true, update := false, gcm := 0, rxgcm := 0, txkey := Config.portKey (2 * n), rxkey := Config.portKey (2 * n + 1)
                 txsalt := Config.portSalt (2 * n), rxsalt := Config.portSalt (2 * n + 1)
                 txnext := (x.txnext + Config.keyFlits n) % 4096, state := if x.state = 2 then 3 else x.state }.flow)
    else s)

/-- The larger of a port's counters. -/
def Port.counter (p : Port) : Nat := max p.gcm p.rxgcm

/-- KEY_UPDATE: a counter that has reached 2^40 starts a key update. -/
def execKeyUpdate (port : Nat) (s : State) : Out :=
  .next (if port < 64 ∧ 2 ^ 40 ≤ (s.dev.portAt port).counter then s.setDev (s.dev.mapPort port fun x => { x with update := true }) else s)

/-- KEY_LIMIT_STOP: a counter at 2^47 before the new key stops data flits and puts the port in KEYING. -/
def execKeyLimitStop (port : Nat) (s : State) : Out :=
  .next (
    let p := s.dev.portAt port
    if port < 64 ∧ p.state = 3 ∧ 2 ^ 47 ≤ p.counter then s.setDev (s.dev.mapPort port fun x => { x with state := 2, update := true }) else s)

/-! ## Holds (R135, R148) -/

/-- Whether a request was sent on a plane that its line no longer takes, or a copy of a marker on one outside the mask (R135). -/
def Device.onOldPlane (d : Device) (r : Request) : Bool :=
  !r.held && !r.returned &&
    (if r.packet.type = ptMARK then r.copies.any fun q => !bit (d.effMask r.packet.dst) q
     else d.planeTo r.packet.dst r.packet.line != some r.plane)

/-- Whether a request is a packet to a device on the planes. -/
def Request.isTo (r : Request) (t : Nat) : Bool := r.packet.dst == t && !r.packet.multi && r.plane != 64

/-- PLANE_HOLD_RELEASE: once every packet on an old plane is answered or returned, the returned ones are resent in order
and then the held ones are released (R135). -/
def execPlaneHoldRelease (dev : Nat) (s : State) : Out :=
  .next (
    if !(s.dev.fabric.changing.any fun c => c.1 == dev) ∨ s.dev.fabric.requests.any (fun r => r.isTo dev && s.dev.onOldPlane r) then s
    else
      let mine := s.dev.fabric.requests.filter fun r => r.isTo dev && r.returned
      let back := s.dev.fabric.back.filter fun b => b.2.dst == dev
      let t := s.setDev { s.dev with fabric := { s.dev.fabric with changing := s.dev.fabric.changing.filter fun c => c.1 != dev
                                                                   back := s.dev.fabric.back.filter fun b => b.2.dst != dev } }
      let t := mine.foldl (fun t r => t.sendNow r.packet) t
      (back.foldl (fun t b => if b.2.type = ptMARK then t.resendCopy b.1 b.2 else t.sendNow b.2) t).releaseHeld)

/-- PMASK_WRITE: by the management processor alone. A change of plane holds new packets; a mask of zero fails every
request outstanding to the device (R134, R135, R155). -/
def execPmaskWrite (w : RegWrite) (s : State) : Out :=
  .next (
    if w.agent ≠ .mgmt ∨ w.ok = false then s
    else
      let t := (w.base - 0x10000) / 8
      let old := s.dev.pmask t
      let d := s.dev.regStoreAs w (2 ^ 64 - 1) 0
      let out := d.fabric.requests.filter fun r => r.packet.dst == t && !r.packet.multi && (r.plane != 64 || r.held)
      if d.pmask t = 0 then
        let e := { d with fabric := { d.fabric with changing := d.fabric.changing.filter fun c => c.1 != t
                                                    back := d.fabric.back.filter fun b => b.2.dst != t } }
        out.foldl (fun u r => u.failRequest r) (s.setDev e)
      else if d.pmask t ≠ old ∧ out.any d.onOldPlane then
        s.setDev { d with fabric := { d.fabric with changing := d.fabric.changing ++ [(t, old)] } }
      else s.setDev d)

/-- PORTRESOLVE_GO: flits before ENEXT were delivered; the packets of the others, and those that waited at the port, are
resent on present planes in order, and RESOLVE clears (R148). A packet that spans flits is delivered with its last one. -/
def execPortresolveGo (w : RegWrite) (s : State) : Out :=
  let q := (w.base - 0x20400) / 8
  let p := s.dev.portAt q
  .next (
    if w.ok = false ∨ bit w.ones 12 = false ∨ p.resolve = false then s
    else
      let e := bits w.ones 11 0
      let rest := if p.holdsSeq e then p.buffer.dropWhile fun f => f.1 != e
        else if e = p.txnext then [] else p.buffer
      let ks := (rest.flatMap fun f => f.2) ++ p.waiting
      let t := s.setDev (s.dev.mapPort q fun x => { x with resolve := false, buffer := [], waiting := [] })
      (ks.foldl (fun t k => if k.type = ptMARK then t.resendCopy q k else t.sendNow k) t).releaseHeld)

/-! ## Registers of the management processor -/

/-- Whether an operation of some cohort is an MLDRED .ANY of a group. -/
def State.readsGroup (s : State) (g : Nat) (r : Request) : Bool :=
  match r.who with
  | .op d j id _ => ((s.focus d j).me.op? id).any fun o => match o.kind with
    | .mldred k _ ord => k == g && !ord
    | _ => false
  | _ => false

/-- Member reads of an MLDRED end when their member has left the group (R128, R155). -/
def State.dropMembers (s : State) (g : Nat) : State :=
  (s.dev.fabric.requests.filter fun r =>
    r.packet.type == ptRD && !s.dev.isMember g r.packet.dst && s.readsGroup g r).foldl (fun t r => t.failRequest r) s

/-- MCGTAB_WRITE: by the management processor alone; reserved bits stay 0 (R143, Table 5-7). -/
def execMcgtabWrite (w : RegWrite) (s : State) : Out :=
  let o := (w.base - 0x40000) % 128
  let rw := if o < 64 then 2 ^ 64 - 1 else if o = 64 then fieldMask 47 16 else if o = 72 then 2 ^ 64 - 2 ^ 16
    else if o = 80 then 2 ^ 64 - 1 else if o = 88 then 1 else 0
  .next (if w.agent = .mgmt ∧ w.ok then
      let t := s.setDev (s.dev.regStoreAs w rw 0)
      if o < 64 then t.dropMembers ((w.base - 0x40000) / 128) else t
    else s)

/-- BRIDGECFG_WRITE: by the management processor alone; VALID is 1 once BRIDGEDEV and GIDX are written (R153, Table 5-8). -/
def execBridgecfgWrite (w : RegWrite) (s : State) : Out :=
  .next (if w.agent = .mgmt ∧ w.ok ∧ w.base = 0x30000 then s.setDev (s.dev.writeOnce w (fieldMask 12 0) 30) else s)

end Sys2Proof.Machine
end

