-- ==== Sys2Proof/Machine/Mask.lean ====
section
/-!
DEFINITION. Instructions across the lanes of a cohort: predicates, the execution mask, votes, shuffles and
lane reductions (R244 to R249).
-/
namespace Sys2Proof.Machine

/-! ## Predicates (R244) -/

/-- A predicate instruction: all 64 bits, whatever em holds. -/
def plogic (d : Reg) (f : Cohort → Mask) (s : State) : State := (s.setMe (s.me.pput d.toNat (f s.me))).retire 4

/-- PAND (R244). -/
def execPand (d a b : Reg) (s : State) : Out := .next (plogic d (fun c => c.pget a.toNat &&& c.pget b.toNat) s)
/-- POR (R244). -/
def execPor (d a b : Reg) (s : State) : Out := .next (plogic d (fun c => c.pget a.toNat ||| c.pget b.toNat) s)
/-- PXOR (R244). -/
def execPxor (d a b : Reg) (s : State) : Out := .next (plogic d (fun c => c.pget a.toNat ^^^ c.pget b.toNat) s)
/-- PANDN (R244). -/
def execPandn (d a b : Reg) (s : State) : Out := .next (plogic d (fun c => c.pget a.toNat &&& ~~~ c.pget b.toNat) s)
/-- PNOT (R244). -/
def execPnot (d b : Reg) (s : State) : Out := .next (plogic d (fun c => ~~~ c.pget b.toNat) s)
/-- PMOV (R244). -/
def execPmov (d b : Reg) (s : State) : Out := .next (plogic d (fun c => c.pget b.toNat) s)

/-! ## The execution mask (R245, R246, Table 9-10) -/

/-- EMGET: em to a scalar pair. -/
def execEmget (d : Reg) (s : State) : Out := .next (scalarOp 4 [] (fun c => c.sput64 d.toNat c.em) s)
/-- EMSET: em from a scalar pair, AND present. -/
def execEmset (a : Reg) (s : State) : Out :=
  .next (scalarOp 4 [a.toNat, a.toNat + 1] (fun c => c.emput (c.sget64 a.toNat)) s)
/-- EMAND: em AND a predicate. -/
def execEmand (a : Reg) (s : State) : Out := .next (scalarOp 4 [] (fun c => c.emput (c.em &&& c.pget a.toNat)) s)
/-- EMANDN: em AND NOT a predicate. -/
def execEmandn (a : Reg) (s : State) : Out := .next (scalarOp 4 [] (fun c => c.emput (c.em &&& ~~~ c.pget a.toNat)) s)
/-- EMP: em to a predicate. -/
def execEmp (d : Reg) (s : State) : Out := .next (plogic d (fun c => c.em) s)
/-- PEM: em from a predicate, AND present. -/
def execPem (a : Reg) (s : State) : Out := .next (scalarOp 4 [] (fun c => c.emput (c.pget a.toNat)) s)
/-- XALL: em to a scalar pair, then every present lane enabled. -/
def execXall (d : Reg) (s : State) : Out :=
  .next (scalarOp 4 [] (fun c => (c.sput64 d.toNat c.em).emput (BitVec.allOnes 64)) s)
/-- XEND: em from a scalar pair, AND present. -/
def execXend (a : Reg) (s : State) : Out :=
  .next (scalarOp 4 [a.toNat, a.toNat + 1] (fun c => c.emput (c.sget64 a.toNat)) s)

/-! ## Votes (R247) -/

/-- A predicate AND em. -/
def Cohort.ballot (c : Cohort) (a : Reg) : Mask := c.pget a.toNat &&& c.em

/-- 1 for true, 0 for false. -/
def flag32 (b : Bool) : Word := if b then 1#32 else 0#32

/-- VANY. -/
def execVany (d a : Reg) (s : State) : Out :=
  .next (scalarOp 4 [] (fun c => c.sput d.toNat (flag32 (c.ballot a != 0#64))) s)
/-- VALL; 1 when em is empty. -/
def execVall (d a : Reg) (s : State) : Out :=
  .next (scalarOp 4 [] (fun c => c.sput d.toNat (flag32 (c.ballot a == c.em))) s)
/-- VBAL. -/
def execVbal (d a : Reg) (s : State) : Out := .next (scalarOp 4 [] (fun c => c.sput64 d.toNat (c.ballot a)) s)
/-- VCNT. -/
def execVcnt (d a : Reg) (s : State) : Out :=
  .next (scalarOp 4 [] (fun c => c.sput d.toNat (BitVec.ofNat 32 (popcount (c.ballot a)))) s)
/-- VFIRST; 64 if no bit is set. -/
def execVfirst (d a : Reg) (s : State) : Out :=
  .next (scalarOp 4 [] (fun c => c.sput d.toNat (BitVec.ofNat 32 ((lowestLane (c.ballot a)).getD 64))) s)

/-! ## Shuffles (R248, Table 9-11) -/

/-- A shuffle: `src i b` is the source lane of lane `i` whose b is `b`, 64 or more for its own lane; `one` when the
lowest active lane's b serves every lane. -/
def shuffle (one : Bool) (src : Nat → Nat → Nat) (o : Shfl) (s : State) : State :=
  let c := s.me
  let v := c.vget o.a.toNat
  let low := (lowestLane c.act).getD 0
  let from' (i : Nat) : Nat :=
    let k := src i (o.b.rd c (if one then low else i)).toNat
    if 64 ≤ k then i else k
  let word (i : Nat) : Word := if c.present.getLsbD (from' i) then v.lane (from' i) else 0#32
  let hit := bitsOf fun i => c.act.getLsbD i && c.present.getLsbD (from' i) && v.poison.getLsbD (from' i)
  let m := c.mce one o.b.vs o.b.ss ||| hit
  if m ≠ 0#64 then s.queueTrap 6 1 m 0
  else
    laneThen { n := o.b.len, u := false, vs := [], ss := []
               frees := (if o.ma then [o.a.toNat] else []) ++ (if o.mb then o.b.vs else [])
               d := o.d.toNat, full := true, put := putWhole, cnt := none, res := word }
      (fun t => t.setMe (t.me.unalloc (c.misses (o.a.toNat :: o.b.vs)))) s

/-- SHFLI: lane b[5:0]. -/
def execShfli (o : Shfl) (s : State) : Out := .next (shuffle false (fun _ b => b % 64) o s)
/-- SHFLU: lane i − b. -/
def execShflu (o : Shfl) (s : State) : Out := .next (shuffle false (fun i b => if b ≤ i then i - b else 64) o s)
/-- SHFLD: lane i + b. -/
def execShfld (o : Shfl) (s : State) : Out := .next (shuffle false (fun i b => i + b) o s)
/-- SHFLX: lane i XOR b[5:0]. -/
def execShflx (o : Shfl) (s : State) : Out := .next (shuffle false (fun i b => i ^^^ (b % 64)) o s)
/-- BCAST: the lane that the lowest active lane's b names. -/
def execBcast (o : Shfl) (s : State) : Out := .next (shuffle true (fun _ b => b % 64) o s)

/-! ## Lane reductions (R249, Table 9-12) -/

/-- A lane reduction of the active lanes' words into a scalar. -/
def lred (f : List Word → Word) (d a : Reg) (ma : Bool) (s : State) : State :=
  let c := s.me
  let m := c.mce false [a.toNat] []
  if m ≠ 0#64 then s.queueTrap 6 1 m 0
  else
    let x := f ((lanesOf c.act).map (c.vget a.toNat).lane)
    let c1 := (c.unalloc (c.misses [a.toNat])).freeAll (if ma then [a.toNat] else [])
    ((s.setMe (c1.sput d.toNat x)).countLanes false (some (28, 1))).retire 4

/-- LRADD; 0 for an empty em. -/
def execLradd (d a : Reg) (ma : Bool) (s : State) : Out := .next (lred (fun xs => xs.foldl (· + ·) 0#32) d a ma s)
/-- LRMIN, signed; 0x7FFF_FFFF for an empty em. -/
def execLrmin (d a : Reg) (ma : Bool) (s : State) : Out :=
  .next (lred (fun xs => xs.foldl (fun x y => if x.sle y then x else y) 0x7FFFFFFF#32) d a ma s)
/-- LRMAX, signed; 0x8000_0000 for an empty em. -/
def execLrmax (d a : Reg) (ma : Bool) (s : State) : Out :=
  .next (lred (fun xs => xs.foldl (fun x y => if x.sle y then y else x) 0x80000000#32) d a ma s)
/-- LRAND; all ones for an empty em. -/
def execLrand (d a : Reg) (ma : Bool) (s : State) : Out := .next (lred (fun xs => xs.foldl (· &&& ·) 0xFFFFFFFF#32) d a ma s)
/-- LROR; 0 for an empty em. -/
def execLror (d a : Reg) (ma : Bool) (s : State) : Out := .next (lred (fun xs => xs.foldl (· ||| ·) 0#32) d a ma s)
/-- LRXOR; 0 for an empty em. -/
def execLrxor (d a : Reg) (ma : Bool) (s : State) : Out := .next (lred (fun xs => xs.foldl (· ^^^ ·) 0#32) d a ma s)
/-- LRFADD: the exact sum rounded once; +0 for an empty em. -/
def execLrfadd (d a : Reg) (ma : Bool) (s : State) : Out := .next (lred lrfadd d a ma s)
/-- LRFMAX: the greatest by the FMAX rule; −∞ for an empty em. -/
def execLrfmax (d a : Reg) (ma : Bool) (s : State) : Out :=
  .next (lred (fun xs => match xs with
    | [] => 0xFF800000#32
    | x :: ys => ys.foldl (fun p q => BitVec.ofNat 32 (fmax .fp32 p.toNat q.toNat))
        (if (value x.toNat .fp32).isNan ∧ ys = [] then 0x7FC00000#32 else x)) d a ma s)

end Sys2Proof.Machine
end

