-- ==== Sys2Proof/Machine/Registers.lean ====
section
/-!
DEFINITION. Writes to device control space without an engine of their own (R6, R14, R18, R22, R42, R43, R53, R54, R91,
R337), memory errors (R88 to R91) and directory requests (R66, R115).
-/
namespace Sys2Proof.Machine

/-! ## REGISTER_WRITE -/

/-- Whether only the management processor writes the registers at an offset (R369, R415). -/
def mgmtOnly (base : Nat) : Bool := decide (0x52000 ≤ base ∧ base < 0x52030) || decide (0x60300 ≤ base ∧ base < 0x60360)

/-- The RW bits and the RW1C bits of the registers that the management processor alone writes (Table 13-13, R415). -/
def mgmtBits (base : Nat) : Nat × Nat :=
  if base = 0x52000 then (fieldMask 47 12, 2 ^ 62)
  else if base = 0x52008 then (fieldMask 31 0, 0)
  else if base = 0x60350 ∨ base = 0x60358 then (0, 0)
  else (2 ^ 64 - 1, 0)

/-- A write to a register without a row of its own: fields are stored, cleared or ignored by their access codes (R6, R18). -/
def State.plainWrite (s : State) (w : RegWrite) : State :=
  let b := w.base
  if w.ok = false then s
  else if mgmtOnly b then
    (if w.agent = .mgmt then s.setDev (s.dev.regStoreAs w (mgmtBits b).1 (mgmtBits b).2) else s)
  else if b = 0x60000 then s.recctl w
  else if b = 0x60008 ∧ bit (s.dev.reg 0x60000) 31 then s
  else if (b = 0x50000 ∨ b = 0x50008) ∧ w.agent.isDriver = false then s
  else if 0x70020 ≤ b ∧ b < 0x70040 then
    s.setDev (s.dev.setReg (featPending b) (ctrlMerge (s.dev.reg (featPending b)) (2 ^ 64 - 1) 0 w.cover w.placed))
  else
    let t := s.setDev (s.dev.regStore w)
    if b = 0x60010 then t.readRing else t

/-- REGISTER_WRITE. -/
def execRegisterWrite (w : RegWrite) (s : State) : Out := .next (s.plainWrite w)

/-- DEVNUM_WRITE: NUM, by the management processor alone; VALID is 1 once NUM is written (R14, Table 1-3). -/
def execDevnumWrite (w : RegWrite) (s : State) : Out :=
  .next (if w.ok ∧ w.agent = .mgmt ∧ w.base = 0 then s.setDev (s.dev.writeOnce w (fieldMask 9 0) 31) else s)

/-- MEMERRCLR (R91). -/
def execMemerrclr (w : RegWrite) (s : State) : Out :=
  .next (if w.ok ∧ w.base = 0x3080 then
      s.setDev ((List.range 9).foldl (fun d i => if bit w.ones i then d.setReg (0x3000 + 8 * i) 0 else d) s.dev)
    else s)

/-- Whether some company holds spilled contents (R337). -/
def State.anySpilled (s : State) : Bool := s.companies.any fun h => h.spill.isSome

/-- SPILLBASE_WRITE: refused with SPILLSTAT.ERR, or installed (R337; FEAT.SPILL of Table 19-4). -/
def execSpillbaseWrite (w : RegWrite) (s : State) : Out :=
  let old := s.dev.reg 0x4000
  let new := ctrlMerge old (fieldMask 47 33 + 1) 0 w.cover w.placed
  .next (if w.ok = false ∨ w.base ≠ 0x4000 then s
    else if 47 < bits new 47 33 ∨ (bits new 47 33 ≠ bits old 47 33 ∧ s.anySpilled) ∨ (bit new 0 ∧ bit (s.dev.reg 0x70020) 2 = false) then
      s.setDev (s.dev.setField 0x4008 31 31 1)
    else s.setDev (s.dev.setReg 0x4000 new))

/-! ## The carve (R21 to R23) -/

/-- ASCARVE_WRITE: refused with ERR for UNITS 17 to 31 or while BUSY; a change of UNITS sets BUSY (R22). A write that does not cover
the byte of UNITS is no write to UNITS and is not refused, even while BUSY (DESIGN CHOICE, log entry 75). -/
def execAscarveWrite (w : RegWrite) (s : State) : Out :=
  let old := s.dev.reg 0x1000
  let kept := ctrlMerge old 0 (2 ^ 8) w.cover w.placed
  let units := bits (ctrlMerge old (fieldMask 4 0) 0 w.cover w.placed) 4 0
  .next (if w.ok = false ∨ w.base ≠ 0x1000 then s
    else if bit w.cover 0 = false then s.setDev (s.dev.setReg 0x1000 kept)
    else if 16 < units ∨ s.dev.carving then s.setDev (s.dev.setReg 0x1000 (kept ||| 2 ^ 8))
    else
      let d := (s.dev.setReg 0x1000 kept).setField 0x1000 4 0 units
      s.setDev (if units = bits old 4 0 then d else { d.setField 0x1000 31 31 1 with carveOld := s.dev.carve }))

/-- CARVE_CHANGE_DONE: lines of the L3 give way to the new carve, bytes between the old and the new carve become zero with their status bits clear, or are
discarded; BUSY clears and stalled accesses go on (R22, R23). -/
def execCarveChangeDone (s : State) : Out :=
  .next (if s.dev.carving then
      let lo := min s.dev.carveOld s.dev.carve
      let hi := max s.dev.carveOld s.dev.carve
      let d := s.dev.zero (atriumBase + lo) (hi - lo)
      (s.setDev ({ d.l3Shrink with cell := Store.drop d.cell (lo / 64) (hi / 64) }.setField 0x1000 31 31 0)).wakeInbound
    else s)

/-! ## Shootdowns (R42, R43) -/

/-- Whether a shootdown covers a TLB entry. -/
def TlbEntry.covered (e : TlbEntry) (scope asid va len : Nat) : Bool :=
  let mine := !e.global && e.asid == asid
  match scope with
  | 0 => mine && decide (e.va ≤ va ∧ va < e.va + e.size)
  | 1 => mine && decide (0 < len ∧ e.va < va + len ∧ va < e.va + e.size)
  | 2 => mine
  | _ => true

/-- Zero the LIMIT of the global windows of a cohort (R43). -/
def Cohort.cutWindows (c : Cohort) : Cohort :=
  { c with win := c.win.map fun p => if p.2.kind = 1 then (p.1, { p.2 with limit := 0#32 }) else p }

/-- The accesses that have been translated and have not completed: operations, pieces and fills, and the requests of semaphores and
command cores at other homes, which are named past every identifier by their tags (R43). -/
def State.inFlight (s : State) : List Nat :=
  (s.companies.flatMap fun h => h.cohorts.flatMap fun c => (c.ops.filter fun o => o.kind != .fence && !o.passed).map (·.id))
    ++ s.dev.pieces.map (·.id) ++ s.dev.fills.map (·.id)
    ++ s.dev.fabric.requests.filterMap fun r => match r.who with
      | .sema _ _ => some (2 ^ 64 + r.tag)
      | .queue _ _ => some (2 ^ 64 + r.tag)
      | _ => none

/-- The PTGENs after a shootdown. -/
def ptgenAfter (g : Store DWord) (scope asid : Nat) : Store DWord :=
  if scope = 3 then (List.range 4096).filterMap fun a => let v := Store.get 0#64 g a + 1#64; if v = 0#64 then none else some (a, v)
  else Store.set 0#64 g asid (Store.get 0#64 g asid + 1#64)

/-- A shootdown at GO (R43). -/
def State.shoot (s : State) : State :=
  let r := s.dev.reg 0x2100
  let scope := bits r 29 28
  let asid := bits r 11 0
  let cut (t : State) : State :=
    if scope = 3 then (t.contexts.map (·.asid)).foldl (fun t a => t.mapCohorts a Cohort.cutWindows) t
    else t.mapCohorts asid Cohort.cutWindows
  let ids := s.inFlight
  let t := cut s
  let d := { t.dev with
    tlb := t.dev.tlb.filter fun e => !(e.covered scope asid (s.dev.reg 0x2108) (s.dev.reg 0x2110))
    ptgen := ptgenAfter t.dev.ptgen scope asid
    svgen := if scope = 3 then t.dev.svgen + 1#64 else t.dev.svgen
    shoot := ids }
  t.setDev (d.setField 0x2100 31 31 1)

/-- SHOOTDOWN: refused with ERR while BUSY (Table 2-6). -/
def execShootdown (w : RegWrite) (s : State) : Out :=
  .next (if w.ok = false ∨ w.base ≠ 0x2100 then s
    else
      let t := s.setDev (s.dev.regStore w)
      if w.sets 0x2100 12 then (if bit (s.dev.reg 0x2100) 31 then t.setDev (t.dev.setField 0x2100 30 30 1) else t.shoot) else t)

/-- SHOOTDOWN_COMPLETE: BUSY clears once every access translated before GO has completed or failed (R43). -/
def execShootdownComplete (s : State) : Out :=
  .next (if bit (s.dev.reg 0x2100) 31 ∧ !(s.dev.shoot.any fun i => s.inFlight.contains i) then
      s.setDev ({ s.dev with shoot := [] }.setField 0x2100 31 31 0)
    else s)

/-! ## The page pools (R53, R54) -/

/-- A frame is refused: PGPOOLSTAT.REFUSED (R53). -/
def Device.refusePush (d : Device) : Device := d.setField 0x2320 29 29 1

/-- An accepted push wakes the cohorts that wait for the pool (Table 2-9). -/
def State.wakePool (s : State) : State :=
  let wake (c : Cohort) : Cohort := if c.wait = .pool then { c with wait := .none } else c
  s.contexts.foldl (fun s c => s.mapCohorts c.asid wake) s

/-- PGPUSH64K. A value with a bit outside FRAME is refused too (DESIGN CHOICE, log entry 66). -/
def execPgpush64k (w : RegWrite) (s : State) : Out :=
  let f := w.ones
  .next (if w.ok = false ∨ w.base ≠ 0x2310 then s
    else if 4096 ≤ s.dev.pool64k.length ∨ f % 0x10000 ≠ 0 ∨ inHbm f 0x10000 = false then s.setDev s.dev.refusePush
    else
      let d := s.dev.zero f 0x10000
      (s.setDev { d with pool64k := d.pool64k ++ [f] }).wakePool)

/-- PGPUSH2M. A value with a bit outside FRAME is refused too (DESIGN CHOICE, log entry 66). -/
def execPgpush2m (w : RegWrite) (s : State) : Out :=
  let f := w.ones
  .next (if w.ok = false ∨ w.base ≠ 0x2318 then s
    else if 256 ≤ s.dev.pool2m.length ∨ f % 0x200000 ≠ 0 ∨ inHbm f 0x200000 = false then s.setDev s.dev.refusePush
    else
      let d := s.dev.zero f 0x200000
      (s.setDev { d with pool2m := d.pool2m ++ [f] }).wakePool)

/-- PGPOP64K by an agent other than a cohort, whose loads reach it as LOAD_RETURN. -/
def execPgpop64k (agent : Agent) (s : State) : Out :=
  let _ := agent
  let p := s.dev.pop64k
  .next (s.setDev { p.1 with hostRead := some (leBytes 8 p.2) })

/-- PGPOP2M by an agent other than a cohort. -/
def execPgpop2m (agent : Agent) (s : State) : Out :=
  let _ := agent
  let p := s.dev.pop2m
  .next (s.setDev { p.1 with hostRead := some (leBytes 8 p.2) })

/-! ## Memory errors (R88 to R91) -/

/-- PATROL_SCRUB: a location is visited, by the scrub of HBM4, second-tier memory, L3 and galleries or by a read in any structure
of Table 3-7; a correctable error is corrected in place and counted (R88). -/
def execPatrolScrub (index : Nat) (corrected : Bool) (s : State) : Out :=
  .next (if corrected ∧ index < 9 then
      s.setDev (s.dev.setField (0x3000 + 8 * index) 23 0 (min (bits (s.dev.reg (0x3000 + 8 * index)) 23 0 + 1) 0xFFFFFF))
    else s)

/-- An uncorrectable error is counted and reported to the management processor with its structure and place (R91). -/
def Device.countUe (d : Device) (index place : Nat) (addr : Option Nat) : Device :=
  (d.setField (0x3000 + 8 * index) 31 24 (min (bits (d.reg (0x3000 + 8 * index)) 31 24 + 1) 0xFF)).notify index place addr

/-- The physical address of an offset of this device (R15). -/
def Device.physical (d : Device) (off : Nat) : Nat := d.num * 2 ^ 48 + off

/-- Poison the granules of an aligned run of `n` bytes around an offset (R89). -/
def Device.spoil (d : Device) (off n : Nat) : Device :=
  { d with bad := (List.range (n / 16)).foldl (fun b k => Store.set false b (off / n * (n / 16) + k) true) d.bad }

/-- The core of a company, for a report. -/
def State.coreOfDseq (s : State) (dseq : Nat) : Nat := (s.companyOf dseq).coreOf.getD 0

/-- Change the device. -/
def State.mapDev (s : State) (f : Device → Device) : State := s.setDev (f s.dev)

/-- UNCORRECTABLE_ERROR: the poison units that the code word covers are poisoned, and the error is counted and reported
(R89 to R91). -/
def execUncorrectableError (e : ErrorSite) (s : State) : Out :=
  .next (match e with
    | .vreg dseq j r lane =>
      (s.onCohort dseq j fun t =>
        if t.me.allocated r.toNat then
          let v := t.me.vget r.toNat
          t.setMe (t.me.vput r.toNat { v with poison := v.poison ||| (1#64 <<< lane) })
        else t).mapDev fun d => d.countUe 0 (s.coreOfDseq dseq) none
    | .sreg dseq j r =>
      (s.onCohort dseq j fun t => t.setMe { t.me with sp := t.me.sp ||| (1#64 <<< r.toNat) }).mapDev fun d =>
        d.countUe 0 (s.coreOfDseq dseq) none
    | .tile dseq t row col =>
      (s.onCompany dseq fun u => match Store.get none u.co.tiles t.toNat with
        | some x =>
          let y : Tile := { x with poison := Store.set false x.poison (64 * (row % 64) + col % 64) true }
          u.setCo { u.co with tiles := Store.set none u.co.tiles t.toNat (some y) }
        | none => u).mapDev fun d => d.countUe 1 (s.coreOfDseq dseq) none
    | .localStore dseq off =>
      (s.onCompany dseq fun u =>
        if off < u.co.lsLen then u.setCo { u.co with lsBad := Store.set false u.co.lsBad (off / 16) true } else u).mapDev fun d =>
        d.countUe 2 (s.coreOfDseq dseq) none
    | .gallery dseq slot off =>
      (s.onCompany dseq fun u => u.mapSlot slot fun x =>
        { x with poison := true, bad := Store.set false x.bad (off % 65536 / 16) true }).mapDev fun d =>
        d.countUe 3 (s.coreOfDseq dseq) none
    | .l2 hall off =>
      if hall < 4 ∧ (s.dev.l2Of hall (off / 64)).any fun b => b.holds (off % 64 / 8) then
        s.setDev ((s.dev.spoil off 16).countUe 4 hall (some (s.dev.physical off)))
      else s
    | .memory index off =>
      if (index = 5 ∧ (inMemory off ∨ regionOf off = .atrium)) ∨ (index = 6 ∧ regionOf off = .hbm) ∨ (index = 7 ∧ regionOf off = .tier2) then
        s.setDev ((s.dev.spoil off (if index = 5 then 16 else 32)).countUe index (bankOf off) (some (s.dev.physical off)))
      else s
    | .flight fid =>
      if fid < 256 then s.setDev ((s.dev.mapFlight fid fun f => { f with bad := true }).countUe 8 fid none) else s)

/-! ## The directory (R66, R115) -/

/-- DIRECTORY_REQUEST: a hall's request for a line invalidates or recalls other copies, and is held while a copy engine
owns it; or a hall applies an invalidation queued in it. -/
def execDirectoryRequest (r : DirRequest) (s : State) : Out :=
  .next (match r with
    | .request hall line write =>
      if hall < 4 ∧ inMemory (line * 64) ∧
          s.dev.ownedLine line = false then
        s.setDev (if write then s.dev.hallStore hall line 0#64 else s.dev.hallLoad hall line (BitVec.allOnes 64))
      else s
    | .apply hall k => s.setDev (s.dev.applyOne hall k))

end Sys2Proof.Machine
end

