-- ==== Sys2Proof/Machine/Power.lean ====
section
/-!
DEFINITION. Main power and the boot steps (R436), feature negotiation (R437), clocks and heat (R438), and the quiesce of a hall
(R439).
-/
namespace Sys2Proof.Machine

/-! ## Main power and boot (R436) -/

/-- The device as main power finds it, but for what module flash and the strap pin keep (R412, R436). -/
def Device.fresh (d : Device) (on : Bool) : Device :=
  let b := Device.reset.boot
  let e := { Device.reset with
    boot := { b with powered := on, started := d.boot.started, altTried := d.boot.altTried, ctxid := d.boot.ctxid, retno := d.boot.retno }
    fabric := { Fabric.reset with strap := d.fabric.strap } }
  e.setField 0x30000 31 31 (if d.fabric.strap then 1 else 0)

/-- Reset by main power, or its loss: every context is lost, and no statement is written (R436, R438). -/
def State.freshAs (s : State) (on : Bool) : State := { State.reset with dev := s.dev.fresh on, turns := s.turns, free := s.free }

/-- POWER_ON. -/
def execPowerOn (s : State) : Out := .next (s.freshAs true)

/-- MAIN_POWER_REMOVAL. -/
def execMainPowerRemoval (s : State) : Out := .next (s.freshAs false)

/-- Whether Table 19-1 gives a step an alternate path. -/
def stepAlt (n : Nat) : Bool := n == 1 || n == 3 || n == 4 || n == 5 || n == 7 || n == 8 || n == 9
/-- Whether Table 19-1 lets a step be skipped. -/
def stepSkips (n : Nat) : Bool := n == 5 || n == 8 || n == 9

/-- BOOTSTAT.STEP. -/
def Device.bootStep (d : Device) : Nat := bits (d.reg 0x70080) 3 0

/-- A module that has trained. -/
def Port.bootUp (alt : Bool) (p : Port) : Port := { p with state := 3, width := if alt then 32 else 64 }

/-- A plane port that has trained and keyed; one that has failed stays DEAD. -/
def Port.joined (p : Port) : Port := if p.state = 4 then p else { p with state := 3, keyed := true }

/-- What a step that succeeds leaves (Table 19-1). -/
def Device.stepEffect (d : Device) (n : Nat) (alt : Bool) : Device :=
  match n with
  | 3 => { d with fabric := { d.fabric with modules := d.fabric.modules.map (Port.bootUp alt) } }
  | 4 | 5 => if alt then { d with boot := { d.boot with slow := d.boot.slow ++ [n] } } else d
  | 6 => { d with flights := [], dir := [], l2 := [], l3 := [] }
  | 7 => { d with boot := { d.boot with measure := none } }
  | 8 => { d with fabric := { d.fabric with ports := d.fabric.ports.map Port.joined } }
  | 9 => if d.isBridge then { d with fabric := { d.fabric with linkUp := true } } else d
  | 10 => d.setField 0x70080 31 31 1
  | _ => d

/-- A step by one of its paths: STARTED goes to flash, and DONE if it succeeds; a failed one stays in progress. -/
def Device.tryStep (d : Device) (n : Nat) (alt ok : Bool) : Device :=
  let b := d.boot
  let d := (d.setField 0x70080 3 0 n).setField 0x70080 (9 + n) (9 + n) (if alt then 1 else 0)
  if ok then
    { d with boot := { b with started := b.started.filter (· != n), altTried := b.altTried.filter (· != n) } }.stepEffect n alt
  else
    { d with boot := { b with started := (b.started.filter (· != n)) ++ [n]
                              altTried := if alt then (b.altTried.filter (· != n)) ++ [n] else b.altTried.filter (· != n) } }

/-- BOOT_STEP: the next step runs by its normal path, by its alternate one if it failed on the boot before, or is skipped; where
neither is left, boot stops (R436). -/
def execBootStep (ok : Bool) (s : State) : Out :=
  let d := s.dev
  let r := d.reg 0x70080
  let n := d.bootStep + 1
  let hung := d.boot.started.contains d.bootStep && !d.boot.skipped.contains d.bootStep
  .next (
    if bit r 31 || bit r 30 || hung then s
    else if !d.boot.started.contains n then s.setDev (d.tryStep n false ok)
    else if stepAlt n && !d.boot.altTried.contains n then s.setDev (d.tryStep n true ok)
    else if stepSkips n then
      let e := (d.setField 0x70080 3 0 n).setField 0x70080 (9 + n) (9 + n) 1
      s.setDev { e with boot := { e.boot with skipped := e.boot.skipped ++ [n] } }
    else s.setDev ((d.setField 0x70080 3 0 n).setField 0x70080 30 30 1))

/-! ## Features (R437) -/

/-- FEATCTL_GO: the subset in FEATACC is installed, or refused. -/
def execFeatctlGo (w : RegWrite) (s : State) : Out :=
  .next (if w.ok = false ∨ w.base ≠ 0x70040 then s
    else
      let d := s.dev.regStore w
      if w.sets 0x70040 0 then
        let want := (List.range 4).map fun k => d.reg (featPending (0x70020 + 8 * k))
        let offered := (List.range 4).all fun k => want.getD k 0 &&& d.reg (0x70000 + 8 * k) == want.getD k 0
        let busy := d.queues.any (fun q => q.qstate == 1) || s.contexts.any fun c => c.stat != .ended
        if offered = false ∨ bit (want.getD 0 0) 0 = false ∨ busy then s.setDev (d.setField 0x70040 31 31 1)
        else
          let e := (List.range 4).foldl (fun e k => e.setReg (0x70020 + 8 * k) (want.getD k 0)) d
          s.setDev (e.setField 0x50028 31 0 (e.reg 0x50028 + 1))
      else s.setDev d)

/-! ## Clocks and heat (R438) -/

/-- Every hall's arithmetic clock 100 MHz lower, not below 1.2 GHz. -/
def Device.slower (d : Device) : Device := { d with halls := d.halls.map fun h => { h with mhz := max 1200 (h.mhz - 100) } }
/-- Every hall's arithmetic clock 100 MHz higher, not above 2.4 GHz. -/
def Device.faster (d : Device) : Device := { d with halls := d.halls.map fun h => { h with mhz := min 2400 (h.mhz + 100) } }

/-- POWER_LIMIT_SAMPLE: the mean over 1 ms against PWRLIM. -/
def execPowerLimitSample (meanWatts limitWatts : Nat) (s : State) : Out :=
  .next (if limitWatts < meanWatts then s.setDev s.dev.slower
    else if 100 * meanWatts < 95 * limitWatts then s.setDev s.dev.faster else s)

/-- THERMAL_THROTTLE: a junction at 105 °C throttles the clocks. -/
def execThermalThrottle (celsius : Nat) (s : State) : Out := .next (if 105 ≤ celsius then s.setDev s.dev.slower else s)

/-- THERMAL_SHUTDOWN: at 115 °C the management processor is told, and asks the board to remove main power. -/
def execThermalShutdown (celsius : Nat) (s : State) : Out := .next (if 115 ≤ celsius then s.setDev (s.dev.notify 0x300 celsius none) else s)

/-! ## The quiesce of a hall (R439) -/

/-- HALLQ_GO: placement turns away from a hall, and its queue moves to the next. -/
def execHallqGo (w : RegWrite) (s : State) : Out :=
  .next (if w.ok = false ∨ w.base ≠ 0x70100 then s
    else if w.sets 0x70100 2 ∧ bit (s.dev.reg 0x70100) 31 then s.setDev (s.dev.setField 0x70100 30 30 1)
    else
      let d := s.dev.regStore w
      if w.sets 0x70100 2 then
        let h := bits (d.reg 0x70100) 1 0
        let move (c : Company) : Company := if c.place = .queued h then { c with place := .queued ((h + 1) % 4) } else c
        let d := d.setField 0x70100 31 31 1
        let hs := d.halls.mapIdx fun i x => if i = h then { x with quiesce := true, block := none } else x
        (s.setDev { d with halls := hs, companies := d.companies.map move }).setCo (move s.co)
      else s.setDev d)

/-- HALL_QUIESCE_DONE: once no company is resident, the hall's L2 is written back and invalidated, its stacks have retrained
with their contents, and placement resumes. -/
def execHallQuiesceDone (s : State) : Out :=
  let h := ((List.range 4).find? fun i => (s.dev.halls.getD i Hall.reset).quiesce).getD 4
  .next (if bit (s.dev.reg 0x70100) 31 ∧ h < 4 ∧ !(s.companies.any fun c => c.coreOf.any fun k => k / 128 == h) then
      let hs := s.dev.halls.mapIdx fun i x => if i = h then { x with quiesce := false, inval := [] } else x
      s.setDev ({ s.dev.l2Flush h with halls := hs }.setField 0x70100 31 31 0)
    else s)

end Sys2Proof.Machine
end

