-- ==== Sys2Proof/Machine/Command.lean ====
section
/-!
DEFINITION. The command cores: their accesses (R358), the updates that signals make (R352), the checks of packets (R350,
R365), what one packet of each type does once it starts (R351 to R357, R362 to R367), and recording into a flight (R363,
R364).
-/
namespace Sys2Proof.Machine

/-! ## Accesses (R358) -/

/-- The ACCESS cause of an outcome. -/
def accessCause : LFault → Nat
  | .pf 2 _ => 2
  | .pf 4 _ => 3
  | .pf 5 _ => 4
  | .pf 6 _ => 5
  | .pf _ _ => 1
  | _ => 6

/-- What a command core's read gives: its bytes, an ACCESS cause with its address, or a wait for a carve change. -/
inductive CcOut where
  | ok (bs : List Byte)
  | err (cause va : Nat)
  | wait
  deriving DecidableEq, Repr

/-- Read bytes that lie in one 64 KiB page; those of another device or the host are free values (log entry 9). -/
def State.ccPart (s : State) (asid va n : Nat) : State × CcOut :=
  let p := translate s.dev asid false .load .plain va
  let t := s.setDev p.1
  -- the lines leave as packets in the coalescer order; what their answers bring is free (log entry 9)
  let away (l : Loc) : State × CcOut :=
    let d := (cutRun 6 (n / 64 + 2) l.inLine 0 n).foldl (fun (d : Option Device) x =>
      d.bind fun d => d.requestAt (l.plus x.1) (Packet.basic ptRD 0 0) .none) (some t.dev)
    match d with
    | some d => ({ (t.setDev d) with free := t.free + 1 }, .ok ((List.range n).map fun i => fetchByte t l i))
    | none => (t, .err 7 va)
  match p.2 with
  | .at (.mem o) =>
    if (runLines o n).any fun a => t.dev.tierDown a then (t, .err 7 va)
    else if (runLines o n).any fun a => t.dev.ownedLine (a / 64) then (s, .wait)
    else if (List.range n).any fun i => t.dev.badAt (o + i) then (t, .err 3 va)
    else (t.setDev (t.dev.runLoad o n), .ok ((List.range n).map fun i => t.dev.outerByte (o + i)))
  | .at (.ctrl o) =>
    let q := t.dev.ctrlBytes (n + 1) o n
    (t.setDev q.1, .ok q.2)
  | .at (.far h o) => away (.far h o)
  | .at (.host o) => away (.host o)
  | .at .poison => (t, .err 3 va)
  | .at _ => (t, .ok (List.replicate n 0#8))
  | .fault f => (t, .err (accessCause f) va)
  | .wait => (s, .wait)

/-- Read bytes of the virtual space of a queue's ASID. -/
def State.ccRead (s : State) (asid va n : Nat) : State × CcOut :=
  (cutRun 16 (n / 65536 + 2) va 0 n).foldl (fun p x => match p.2 with
    | .ok bs =>
      let q := p.1.ccPart asid (va + x.1) x.2
      (q.1, match q.2 with
        | .ok cs => .ok (bs ++ cs)
        | o => o)
    | o => (p.1, o)) (s, .ok [])

/-- How an update of a word went: performed, sent to its home, failed, or to be tried again. -/
inductive UpOut where
  | done
  | sent
  | err (cause : Nat)
  | wait
  deriving DecidableEq, Repr

/-- Add to a word or exchange it, as an atomic release at POD scope: at the bank of own memory, by marker and SIG packet on
another device, by an atomic of the PCIe link in the host window (R352). -/
def State.update (s : State) (qid csn asid va : Nat) (set : Bool) (val : Nat) : State × UpOut :=
  let p := translate s.dev asid false .atomic (.rmw true) va
  let t := (s.setDev p.1).publish 3
  let op := if set then 6 else 0
  match p.2 with
  | .at (.mem o) =>
    if t.dev.tierDown o then (t, .err 7)
    else if t.dev.ownedLine (o / 64) then (s, .wait)
    else
    let d := (t.dev.rmw none (.int op 4) o (leBytes 4 val)).1
    ((t.softWrite o 4 (d.homeStore o)).notice o 4, .done)
  | .at (.far h o) =>
      let e : Entry := { off := o % 64, size := 2, lane := 0, operand := val, compare := 0 }
      let k := { Packet.basic ptSIG 0 0 with op := op, entries := [e] }
      (match (t.dev.sendMarker h .none).bind fun d => d.requestAt (.far h o) k (.queue qid csn) with
        | some d => (t.setDev d, .sent)
        | none => (t, .err 7))
  | .at (.host o) =>
    let l : LaneOp := { lane := 0, loc := .host o, addr := va, len := 4, data := leBytes 4 val, poisoned := 0#64, sent := false, result := none }
    (match t.dev.requestAt (.host o) (rmwPacket (.int op 4) true [l]) (.queue qid csn) with
      | some d => (t.setDev d, .sent)
      | none => (t, .err 7))
  | .at _ => (t, .done)
  | .fault f => (t, .err (accessCause f))
  | .wait => (s, .wait)

/-! ## Checks of packets (R350) -/

/-- TYPE. -/
def typeOf (p : List Byte) : Nat := (p.getD 0 0#8).toNat
/-- CSOP. -/
def csopOf (p : List Byte) : Bool := (p.getD 1 0#8).getLsbD 2

/-- The bits that a type uses of the bytes 0x18 to 0x3F, as one number (Table 13-5). -/
def typeBits (type : Nat) : Nat :=
  let at' (byte hi lo : Nat) : Nat := fieldMask hi lo * 2 ^ (8 * (byte - 0x18))
  match type with
  | 6 => at' 0x18 1 0
  | 5 => at' 0x18 63 0 + at' 0x20 31 0 + at' 0x24 0 0
  | 4 => at' 0x18 63 0 + at' 0x20 31 0 + at' 0x24 1 0
  | 8 => at' 0x18 7 0
  | 7 => at' 0x18 8 0
  | 9 => at' 0x18 14 0 + at' 0x1C 30 0 + at' 0x20 63 0 + at' 0x28 63 0
  | 1 => at' 0x18 63 0 + at' 0x20 63 0 + at' 0x28 63 0 + at' 0x30 31 0 + at' 0x34 27 6 + at' 0x34 0 0
  | 2 => at' 0x18 27 6 + at' 0x20 63 0 + at' 0x28 63 0 + at' 0x30 31 0
  | 3 => at' 0x18 63 0 + at' 0x20 63 0 + at' 0x28 63 0
  | _ => 0

/-- Whether a field that must be zero is not, or a field is out of its range. -/
def resvdBad (p : List Byte) : Bool :=
  let t := typeOf p
  pkt p 1 3 % 2 ^ 24 / 8 != 0 || (!csigOf p && pkt p 8 8 != 0) ||
    pkt p 0x18 40 &&& typeBits t != pkt p 0x18 40 || (t == 9 && decide (64 < bits (pkt p 0x18 4) 14 8)) ||
    (t == 3 && decide (2 ^ 36 ≤ pkt p 0x28 8))

/-- Whether an address field is misaligned, or the LEN of a COPY. -/
def alignBad (p : List Byte) : Bool :=
  let a (off n : Nat) : Bool := pkt p off 8 % n != 0
  a 8 4 || (match typeOf p with
    | 5 | 4 => a 0x18 4
    | 9 => a 0x20 8 || a 0x28 64
    | 1 => a 0x18 128 || a 0x28 8
    | 3 => a 0x18 16 || a 0x20 16 || a 0x28 16
    | _ => false)

/-- The PKT cause for which a packet is refused (R350); without FEAT.FLIGHT the FLIGHT packets have no TYPE (Table 19-4). -/
def packetCause (d : Device) (p : List Byte) : Option Nat :=
  let t := typeOf p
  if 10 ≤ t ∨ (7 ≤ t ∧ bit (d.reg 0x70020) 3 = false) then some 1
  else if resvdBad p then some 2
  else if alignBad p then some 3
  else if t = 6 ∧ pkt p 0x18 1 < 2 then some 7
  else none

/-- The patch entries of a packet that are valid: the field and the index (Table 13-4). -/
def patchesOf (p : List Byte) : List (Nat × Nat) :=
  ((List.range 4).map fun k => pkt p (0x10 + 2 * k) 2).filterMap fun e => if bit e 15 then some (bits e 14 12, bits e 5 0) else none

/-- Whether PMAP breaks R365. -/
def pmapBad (p : List Byte) : Bool :=
  let fs := (patchesOf p).map (·.1)
  fs.any (fun f => f == 0 || f == 2) || fs.eraseDups.length != fs.length
    || (List.range 4).any fun k => bit (pkt p (0x10 + 2 * k) 2) 15 && bits (pkt p (0x10 + 2 * k) 2) 11 6 != 0

/-- A tread with its valid patch entries filled from the patch vector (R366). -/
def patched (p : List Byte) (vals : List DWord) : List Byte :=
  (patchesOf p).foldl (fun p e => p.take (8 * e.1) ++ leBytes 8 (vals.getD e.2 0#64).toNat ++ p.drop (8 * e.1 + 8)) p

/-! ## Starting, failing and abandoning packets -/

/-- Where a packet comes from: the ring, a tread of a flight, or a fallback list (R366, R367). -/
inductive Src where
  | ring
  | tread (k fid : Nat)
  | fallback (k fid : Nat)
  deriving DecidableEq, Repr

/-- A packet that a command core processes: its queue with RPTR past the packet and TCUR as it was, its CSN and its bytes. -/
structure Item where
  q : Queue
  csn : Nat
  p : List Byte
  src : Src

/-- ERRDATA of class PKT: the ring index of the packet or of its FLIGHT_RUN, or the place in the fallback list (Table 13-6). -/
def Item.where' (i : Item) : Nat :=
  match i.src with
  | .fallback k _ => 2 ^ 63 + k
  | _ => (i.q.rptr + 2 ^ 32 - 1) % 2 ^ 32

/-- A packet fails: its queue enters ERROR, and a run that it belongs to issues no more (R359). -/
def State.packetError (s : State) (qid csn cls cause data : Nat) : State := s.setDev ((s.dev.queueError qid csn cls cause data).endRun qid)

/-- The place of a packet in its run, if it is part of one. -/
def Src.place : Src → Option Nat
  | .ring => none
  | .tread k _ => some k
  | .fallback k _ => some k

/-- A packet that is being started fails: a run that it belongs to stays at it. -/
def State.itemError (s : State) (i : Item) (cls cause data : Nat) : State :=
  let back (q : Queue) : Queue := { q with run := q.run.map fun r => match i.src.place with
    | some k => { r with next := k }
    | none => r }
  (s.setDev (s.dev.mapQueue i.q.qid back)).packetError i.q.qid i.csn cls cause data

/-- A started packet fails for good: it does not complete, and its run fails with it (R359). -/
def State.abandon (s : State) (qid csn cls cause data : Nat) : State :=
  let d := s.dev.mapQueue qid fun q => { q with
    started := q.started.filter fun x => x.csn != csn
    run := q.run.map fun r => if csn ∈ r.pending then { r with pending := r.pending.filter (· != csn), failed := true } else r }
  (s.setDev d).packetError qid csn cls cause data

/-- The packet is among the started ones of its queue, and of the run that it belongs to. -/
def State.begin (s : State) (i : Item) : State :=
  let mine := i.src != .ring
  s.setDev (s.dev.mapQueue i.q.qid fun q =>
    { q with
      started := q.started ++ [{ csn := i.csn, packet := i.p, run := if mine then q.run.map (·.csn) else none, done := false, failed := false }]
      run := if mine then q.run.map fun r => { r with pending := r.pending ++ [i.csn] } else q.run })

/-- The packet starts and completes at once. -/
def State.beginDone (s : State) (i : Item) : State := (s.begin i).packetDone i.q.qid i.csn

/-! ## Recording (R363, R364) -/

/-- Blocks of flight memory in use (R361). -/
def Device.flightBlocks (d : Device) : Nat := (d.flights.map fun f => (f.2.treads.length + 63) / 64).foldl (· + ·) 0

/-- The bytes of a tread: HDR[31:24] holds the type, HDR[23:11] zero (R364). -/
def treadOf (p : List Byte) : List Byte := p.take 2 ++ [0#8, p.getD 0 0#8] ++ p.drop 4

/-- A packet's tread joins the flight, or finds no block (R363). -/
def Device.addTread (d : Device) (fid qid csn : Nat) (p : List Byte) : Device :=
  let f := d.flight fid
  if f.treads.length % 64 = 0 ∧ 2048 ≤ d.flightBlocks then
    (if f.lost ∧ f.state = 3 then d
    else (d.mapFlight fid fun f => { f with state := 3, lost := true }).post 6 qid csn fid f.treads.length)
  else d.mapFlight fid fun f => { f with
    treads := f.treads ++ [treadOf p]
    npreq := (patchesOf p).foldl (fun m e => max m (e.2 + 1)) f.npreq }

/-- A code object's word joins the flight's guards; a 17th distinct one makes the recording invalid (R364). -/
def Flight.addCode (f : Flight) (cova word : DWord) : Flight :=
  if f.cog.any fun x => x.1 == cova then f
  else if 16 ≤ f.cog.length then { f with lost := true }
  else { f with cog := f.cog ++ [(cova, word)] }

/-- Record the tread of a packet if its queue records; what a failed read of COVA gives (R358, R364). -/
def State.record (s : State) (i : Item) : State × CcOut :=
  match i.q.recording with
  | none => (s, .ok [])
  | some fid =>
    if 7 ≤ typeOf i.p then (s, .ok [])
    else
      let cova := pkt i.p 0x28 8
      if (typeOf i.p = 1 ∨ typeOf i.p = 2) ∧ cova ≠ 0 then
        let r := s.ccRead i.q.asid cova 8
        (match r.2 with
          | .ok bs =>
            let d := r.1.dev.mapFlight fid fun f => f.addCode (BitVec.ofNat 64 cova) (BitVec.ofNat 64 (leNat bs))
            (r.1.setDev (d.addTread fid i.q.qid i.csn i.p), r.2)
          | _ => r)
      else (s.setDev (s.dev.addTread fid i.q.qid i.csn i.p), .ok [])

/-! ## What a packet does (R351 to R357) -/

/-- FENCE: every write of earlier work is made visible (R354). -/
def State.actFence (s : State) (i : Item) : Option State := some ((s.publish (pkt i.p 0x18 1 % 4)).beginDone i)

/-- SIGSET: the update is the packet's work (R352). -/
def State.actSigset (s : State) (i : Item) : Option State :=
  let va := pkt i.p 0x18 8
  let r := (s.begin i).update i.q.qid i.csn i.q.asid va (bit (pkt i.p 0x24 1) 0) (pkt i.p 0x20 4)
  match r.2 with
  | .done => some (r.1.packetDone i.q.qid i.csn)
  | .sent => some r.1
  | .err c => some (r.1.abandon i.q.qid i.csn 3 c va)
  | .wait => none

/-- Whether a word satisfies the condition of a SIGWAIT (Table 13-5). -/
def sigHolds (cond : Nat) (word val : Nat) : Bool :=
  let a := toSigned 32 word
  let b := toSigned 32 val
  match cond with
  | 0 => a == b
  | 1 => a != b
  | 2 => decide (b ≤ a)
  | _ => decide (a < b)

/-- SIGWAIT: it starts, and completes at once where its condition is seen (R353). -/
def State.actSigwait (s : State) (i : Item) : Option State :=
  let va := pkt i.p 0x18 8
  let val := pkt i.p 0x20 4
  let cond := pkt i.p 0x24 1 % 4
  let r := s.ccRead i.q.asid va 4
  match r.2 with
  | .ok bs =>
    if sigHolds cond (leNat bs) val then some (r.1.beginDone i)
    else
      let w : SigWait := { csn := i.csn, ix := (i.q.rptr + 2 ^ 32 - 1) % 2 ^ 32, addr := BitVec.ofNat 64 va, val := BitVec.ofNat 32 val, cond := cond }
      let t := r.1.begin i
      some (t.setDev (t.dev.mapQueue i.q.qid fun q => { q with sigwait := some w }))
  | .err c a => some (r.1.itemError i 3 c a)
  | .wait => none

/-- FLTOWN names the ASID of a queue as the owner of a flight (Table 13-10). -/
def Device.ownsFlight (d : Device) (fid asid : Nat) : Bool := bit (d.reg (0x51000 + 8 * fid)) 63 && bits (d.reg (0x51000 + 8 * fid)) 11 0 == asid

/-- FLIGHT_BEGIN (R362). -/
def State.actFlightBegin (s : State) (i : Item) : Option State :=
  let fid := pkt i.p 0x18 1
  let f := s.dev.flight fid
  let bad (c : Nat) : Option State := some (s.itemError i 4 c (fid * 2 ^ 32))
  if s.dev.ownsFlight fid i.q.asid = false then bad 1
  else if f.state = 1 ∨ 0 < f.runs then bad 2
  else if i.q.recording.isSome then bad 3
  else
    let d := s.dev.mapFlight fid fun _ => { Flight.empty with state := 1, gguard := bit (pkt i.p 0x19 1) 0 }
    some ((s.setDev (d.mapQueue i.q.qid fun q => { q with recording := some fid })).beginDone i)

/-- GLGEN of an ASID's context. -/
def State.glgenOf (s : State) (asid : Nat) : Word := ((s.context? asid).map (·.glgen)).getD 0#32

/-- FLIGHT_END (R362). -/
def State.actFlightEnd (s : State) (i : Item) : Option State :=
  let fid := pkt i.p 0x18 1
  if i.q.recording ≠ some fid then some (s.itemError i 4 4 (fid * 2 ^ 32))
  else
    let gl := s.glgenOf i.q.asid
    let d := s.dev.mapFlight fid fun f => { f with
      state := if f.lost ∨ f.state = 3 then 3 else 2, ptgen := Store.get 0#64 s.dev.ptgen i.q.asid, glgen := gl
      featgen := BitVec.ofNat 32 (s.dev.reg 0x50028) }
    some ((s.setDev (d.mapQueue i.q.qid fun q => { q with recording := none })).beginDone i)

/-- Whether the code-object guard fails: some word differs or is not read (Table 13-12). -/
def State.codeGuard (s : State) (asid : Nat) (cog : List (DWord × DWord)) : State × Option Bool :=
  cog.foldl (fun p x => match p.2 with
    | some false =>
      let r := p.1.ccRead asid x.1.toNat 8
      (r.1, match r.2 with
        | .ok bs => some (leNat bs != x.2.toNat)
        | .err _ _ => some true
        | .wait => none)
    | o => (p.1, o)) (s, some false)

/-- The first guard of a flight that fails; none inside where all hold, none outside where a read waits (Table 13-12). -/
def State.guard (s : State) (f : Flight) (asid : Nat) : State × Option (Option Nat) :=
  if f.state ≠ 2 then (s, some (some 0))
  else if f.ptgen ≠ Store.get 0#64 s.dev.ptgen asid then (s, some (some 1))
  else if f.gguard ∧ f.glgen ≠ s.glgenOf asid then (s, some (some 2))
  else if f.featgen.toNat ≠ s.dev.reg 0x50028 then (s, some (some 3))
  else
    let r := s.codeGuard asid f.cog
    (r.1, r.2.map fun bad => if bad then some 4 else if f.bad then some 5 else none)

/-- A run or a fallback begins in its FLIGHT_RUN packet; one with nothing to issue ends at once. -/
def State.beginRun (s : State) (i : Item) (vals : List DWord) (fb : Bool) (next : Nat) : State :=
  let fid := pkt i.p 0x18 1
  let r : Run := { fid := fid, ix := (i.q.rptr + 2 ^ 32 - 1) % 2 ^ 32, csn := i.csn, patch := vals, fallback := fb, next := next
                   fblen := pkt i.p 0x1C 4, fbaddr := BitVec.ofNat 64 (pkt i.p 0x28 8), pending := [], stopped := false, failed := false }
  let d := if fb then s.dev else s.dev.mapFlight fid fun f => { f with runs := f.runs + 1 }
  let t := (s.setDev d).begin i
  let t := t.setDev (t.dev.mapQueue i.q.qid fun q => { q with run := some r })
  let before := t.dev.undone i.q.qid
  let u := t.setDev (t.dev.endRun i.q.qid)
  if (before.length = (u.dev.undone i.q.qid).length) then u else u.tracePacket 2 i.q.qid i.csn 9

/-- FLIGHT_RUN: its checks, the patch vector, the guards, and a fallback where one fails (R366, R367). -/
def State.actFlightRun (s : State) (i : Item) : Option State :=
  let fid := pkt i.p 0x18 1
  let n := pkt i.p 0x19 1 % 128
  let f := s.dev.flight fid
  let at0 := fid * 2 ^ 32
  if i.q.run.isSome then none
  else if s.dev.ownsFlight fid i.q.asid = false then some (s.itemError i 4 1 at0)
  else if i.q.recording.isSome then some (s.itemError i 4 3 at0)
  else if f.state = 1 then some (s.itemError i 4 2 at0)
  else if n < f.npreq then some (s.itemError i 4 6 at0)
  else if bit i.q.tcur 31 then some (s.beginRun i [] true (i.q.tcur % 2 ^ 31))
  else
    let r := s.ccRead i.q.asid (pkt i.p 0x20 8) (8 * n)
    match r.2 with
    | .err c a => some (r.1.itemError i 3 c a)
    | .wait => none
    | .ok bs =>
      let g := r.1.guard f i.q.asid
      match g.2 with
      | none => none
      | some none => some (g.1.beginRun i ((List.range n).map fun k => BitVec.ofNat 64 (pkt bs (8 * k) 8)) false i.q.tcur)
      | some (some k) =>
        let fb := decide (0 < pkt i.p 0x1C 4)
        let d := (g.1.dev.mapFlight fid fun f => { f with state := 3 }).post 5 i.q.qid i.csn (fid + k * 256) (if fb then 1 else 0)
        let t := g.1.setDev d
        some (if fb then t.beginRun i [] true 0 else t.itemError i 4 5 at0)

/-- A launch that a packet asks for (R355, R356). -/
def Item.launch (i : Item) (h : LHdr) (lhdr : Nat) (pnode node : Option Nat) (lseq : Word) : Launch :=
  { lseq := lseq, qid := i.q.qid, csn := i.csn, hdr := h, lhdr := BitVec.ofNat 64 lhdr, karg := BitVec.ofNat 64 (pkt i.p 0x20 8)
    cova := BitVec.ofNat 64 (pkt i.p 0x28 8), pdist := pkt i.p 0x30 4, pnode := pnode, finished := false, node := node, made := 0
    retired := 0, total := if node.isSome then 0 else h.companies, first := 0, gphase := 0, garrived := [], gepi := [], failed := false }

/-- Whether the context of an ASID has ended and not yet left: a new launch waits for it. -/
def State.cxGoing (s : State) (asid : Nat) : Bool := (s.context? asid).any fun c => c.stat == .ended

/-- DISPATCH (R355). -/
def State.actDispatch (s : State) (i : Item) : Option State :=
  let asid := i.q.asid
  let va := pkt i.p 0x18 8
  let pn := pkt i.p 0x34 4
  let asa := asBase s.dev asid + bits pn 27 6 * 64
  let live := (s.context? asid).any fun c => c.nodes.any fun n => n.asa == asa
  let r := s.ccRead asid va 128
  match r.2 with
  | .err c a => some (r.1.itemError i 3 c a)
  | .wait => none
  | .ok bs =>
    match headerCause bs with
    | some c => some (r.1.itemError i 1 c va)
    | none =>
      if bit pn 0 ∧ live = false then some (r.1.itemError i 2 6 i.where')
      else if r.1.cxGoing asid ∨ r.1.acceptHeld asid i.q.qid then none
      else
        let t := r.1.begin i
        some (t.accept asid i.q.qid (i.launch (headerOf bs) va (if bit pn 0 then some asa else none) none)).1

/-- Whether a graph node's descriptor fails its checks (R356, Table 7-5). -/
def State.nodeBad (s : State) (asid asa : Nat) : Bool :=
  let d := s.dev
  let g (o n : Nat) : Nat := d.nodeGet asa o n
  let cap := g 0x04 4
  let len := asLen d asid
  decide (asBase d asid + len < asa + 64) || g 0x00 4 &&& fieldMask 27 6 != g 0x00 4 || decide (cap < 2 ∨ 2 ^ 20 < cap)
    || decide (g 0x08 2 < 16 ∨ 256 < g 0x08 2) || g 0x08 2 % 16 != 0 || decide (g 0x0A 2 = 0 ∨ cap / 2 < g 0x0A 2)
    || decide (g 0x0C 2 = 0 ∨ 4096 < g 0x0C 2) || g 0x0E 2 == 0 || g 0x10 8 % 128 != 0 || g 0x18 40 != 0
    || decide (len < g 0x00 4 + cap * g 0x08 2) || s.allNodes.any fun n => n.asa == asa

/-- GRAPH (R356). -/
def State.actGraph (s : State) (i : Item) : Option State :=
  let asid := i.q.asid
  let asa := asBase s.dev asid + bits (pkt i.p 0x18 4) 27 6 * 64
  if s.nodeBad asid asa then some (s.itemError i 2 6 i.where')
  else match s.dev.storeOut (nodeAt asa 0) 64 with
  | .wait => none
  | .fault _ => some (s.itemError i 3 6 i.where')
  | .at _ =>
    let va := s.dev.nodeGet asa 0x10 8
    let r := s.ccRead asid va 128
    match r.2 with
    | .err c a => some (r.1.itemError i 3 c a)
    | .wait => none
    | .ok bs =>
      match headerCause bs, (headerOf bs).persist with
      | some c, _ => some (r.1.itemError i 1 c va)
      | none, true => some (r.1.itemError i 1 8 va)
      | none, false =>
        if r.1.cxGoing asid ∨ r.1.acceptHeld asid i.q.qid then none
        else
          let p := (r.1.begin i).accept asid i.q.qid (i.launch (headerOf bs) va none (some asa))
          let d := (p.1.dev.nodeSet asa 0x28 2 (p.1.dev.nodeGet asa 0x0E 2)).nodeSet asa 0x2A 1 0
          let n : Node := { asa := asa, lseq := p.2, qid := i.q.qid, csn := i.csn, count := 0 }
          some ((p.1.setDev d).onContext asid fun u => u.setCx { u.cx with nodes := u.cx.nodes ++ [n] })

/-! ## COPY (R357) -/

/-- The segments of one side of a copy; none where they wait for a carve change. The error is an ACCESS cause. -/
def State.copySide (s : State) (asid va n : Nat) (write : Bool) : State × Option (Except (Nat × Nat) (List Seg)) :=
  (cutRun 16 (n / 65536 + 2) va 0 n).foldl (fun p x => match p.2 with
    | some (.ok gs) =>
      let r := translate p.1.dev asid false (if write then .store else .load) .plain (va + x.1)
      (p.1.setDev r.1, match r.2 with
        | .at .poison => some (.error (3, va + x.1))
        | .at l => some (.ok (gs ++ [{ loc := l, len := x.2 }]))
        | .fault f => some (.error (accessCause f, va + x.1))
        | .wait => none)
    | o => (p.1, o)) (s, some (.ok []))

/-- Both sides of a run of a copy. -/
def State.copySides (s : State) (asid src dst n : Nat) : State × Option (Except (Nat × Nat) (List Seg × List Seg)) :=
  let a := s.copySide asid src n false
  match a.2 with
  | some (.ok xs) =>
    let b := a.1.copySide asid dst n true
    (b.1, match b.2 with
      | some (.ok ys) => some (.ok (xs, ys))
      | some (.error e) => some (.error e)
      | none => none)
  | some (.error e) => (a.1, some (.error e))
  | none => (a.1, none)

/-- A COPY packet leaves the list of those with parts to issue. -/
def Device.endCopy (d : Device) (qid csn : Nat) : Device :=
  d.mapQueue qid fun q => { q with copies := q.copies.filter fun c => c.1 != csn }

/-- Issue the next part of the oldest COPY of a queue that has one: at most 1,024 pieces, once the pool has room (R357). -/
def State.nextPart (s : State) (q : Queue) : State :=
  match q.copies with
  | [] => s
  | (csn, src, dst, left) :: _ =>
    let n := min left (1024 * 4096 - dst % 4096)
    let r := s.copySides q.asid src dst n
    match r.2 with
    | none => s
    | some (.error e) => (r.1.setDev (r.1.dev.endCopy q.qid csn)).abandon q.qid csn 3 e.1 e.2
    | some (.ok (xs, ys)) =>
      let ps := (rowPieces (.packet q.qid csn) none q.asid (q.qid % 32) dst xs ys n).map fun p => { p with va := src + p.va, dva := dst + p.dva }
      if r.1.dev.piecesFit (q.qid % 32) ps then
        let d := r.1.dev.issuePieces ps
        r.1.setDev (d.mapQueue q.qid fun x => { x with copies := x.copies.filterMap fun c =>
          if c.1 = csn then (if left ≤ n then none else some (csn, src + n, dst + n, left - n)) else some c })
      else s

/-- COPY: checked at start, then issued in parts. -/
def State.actCopy (s : State) (i : Item) : Option State :=
  let src := pkt i.p 0x18 8
  let dst := pkt i.p 0x20 8
  let len := pkt i.p 0x28 8
  if len = 0 then some (s.beginDone i)
  else
    let r := s.copySides i.q.asid src dst len
    match r.2 with
    | none => none
    | some (.error e) => some (r.1.itemError i 3 e.1 e.2)
    | some (.ok (xs, ys)) =>
      if segsMeet 0 xs ys then some (r.1.itemError i 2 8 i.where')
      else
        let t := r.1.begin i
        some (t.setDev (t.dev.mapQueue i.q.qid fun q => { q with copies := q.copies ++ [(i.csn, src, dst, len)] }))

/-- NOP. -/
def State.actNop (s : State) (i : Item) : Option State := some (s.beginDone i)

end Sys2Proof.Machine
end

