-- ==== Sys2Proof/Machine/Queue.lean ====
section
/-!
DEFINITION. Queues and flights: QCTL (R346), doorbells (R344), binding (R347), the order in which packets start (R351), the
packet rows, treads and fallback packets (R366 to R368), completion signals (R352), FLTOWN (R361) and command-core firmware
(R369).
-/
namespace Sys2Proof.Machine

/-! ## QCTL (R346) -/

/-- An operation is refused: QCTL.ERR. -/
def Device.refuseQctl (d : Device) : Device := d.setField 0x50008 30 30 1

/-- A queue whose WPTR runs more than the ring ahead of RPTR enters ERROR OVER (R344). -/
def Device.checkOver (d : Device) (qid : Nat) : Device :=
  match d.queue? qid with
  | some q =>
    if q.qstate = 1 ∧ 2 ^ q.rlog2 < (q.wptr + 2 ^ 32 - q.rptr) % 2 ^ 32 then d.queueError qid ((q.csn + 1) % 2 ^ 32) 2 5 q.rptr else d
  | none => d

/-- The queue that a descriptor describes, WPTR read from its doorbell. -/
def Device.queueFrom (d : Device) (qid : Nat) (bs : List Byte) : Queue :=
  { qid := qid, rbase := pkt bs 0 8, dbaddr := pkt bs 8 8, asid := pkt bs 0x10 2, rlog2 := pkt bs 0x12 1, qpri := pkt bs 0x13 1
    rptr := pkt bs 0x18 4, wptr := d.walkRead (pkt bs 8 8) 4, csn := pkt bs 0x1C 4, tcur := pkt bs 0x20 4, qstate := 1
    errcode := pkt bs 0x26 2, errcsn := pkt bs 0x28 4, errdata := pkt bs 0x30 8, draining := false, place := none, started := []
    sigwait := none, run := none, recording := none, copies := [] }

/-- Whether ENABLE refuses a descriptor (R346). -/
def Device.descriptorBad (d : Device) (bs : List Byte) : Bool :=
  let rlog2 := pkt bs 0x12 1
  let ring := 64 * 2 ^ rlog2
  pkt bs 0x24 2 != 0 || decide (rlog2 < 6 ∨ 16 < rlog2) || pkt bs 0 8 % ring != 0 || !inHbm (pkt bs 0 8) ring
    || pkt bs 8 8 % 64 != 0 || !inHbm (pkt bs 8 8) 64 || decide (4095 < pkt bs 0x10 2) || decide (3 < pkt bs 0x13 1) || pkt bs 0x14 4 != 0
    || pkt bs 0x2C 4 != 0 || pkt bs 0x38 8 != 0 || !asidBound d (pkt bs 0x10 2)

/-- ENABLE. -/
def Device.enable (d : Device) (qid : Nat) : Device :=
  let bs := (List.range 64).map fun i => d.outerByte (d.qdAddr qid + i)
  if (d.queue? qid).any (fun q => q.qstate != 0) || d.descriptorBad bs then d.refuseQctl
  else
    let q := d.queueFrom qid bs
    let d : Device := { d with queues := (d.queues.filter fun x => x.qid != qid) ++ [q] }
    (d.writeQueue qid).checkOver qid

/-- RPTR and TCUR where a DISABLE leaves them: at an abandoned SIGWAIT, or in an interrupted FLIGHT_RUN (R346). -/
def Queue.halted (q : Queue) (treads : Nat) : Nat × Nat :=
  let pos (r : Run) (next : Nat) : Nat × Nat := (r.ix, (if r.fallback then 2 ^ 31 else 0) + next)
  match q.sigwait, q.run with
  | some w, some r => if w.csn ∈ r.pending then pos r (r.next - 1) else (w.ix, 0)
  | some w, none => (w.ix, 0)
  | none, some r => if r.stopped || r.issued treads then (q.rptr, 0) else pos r r.next
  | none, none => (q.rptr, 0)

/-- A queue that DISABLE has stopped: no packet starts, a SIGWAIT is abandoned, a run issues no more. -/
def Queue.stop (q : Queue) (treads : Nat) : Queue :=
  let h := q.halted treads
  let w := (q.sigwait.map (·.csn)).toList
  let run := q.run.map fun r =>
    { r with stopped := true, next := if w.any (fun c => r.pending.contains c) then r.next - 1 else r.next
             pending := r.pending.filter fun c => !w.contains c }
  { q with draining := true, rptr := h.1, tcur := h.2, sigwait := none, started := dropWait q.sigwait q.started, run := run }

/-- DISABLE. -/
def Device.disable (d : Device) (qid : Nat) : Device :=
  match d.queue? qid with
  | some q =>
    if q.qstate = 0 ∨ bit (d.reg 0x50008) 31 then d.refuseQctl
    else
      let n := ((q.run.map fun r => (d.flight r.fid).treads.length)).getD 0
      ((((d.dropRecording qid).mapQueue qid fun q => q.stop n).endRun qid).setField 0x50008 31 31 1).writeQueue qid
  | none => d.refuseQctl

/-- RESUME. -/
def Device.resume (d : Device) (qid arg : Nat) : Device :=
  match d.queue? qid with
  | some q =>
    if q.qstate = 2 then
      ((d.mapQueue qid fun q => { q with rptr := arg, tcur := 0, errcode := 0, errcsn := 0, errdata := 0, qstate := 1 }).writeQueue qid).checkOver qid
    else d.refuseQctl
  | none => d.refuseQctl

/-- A write to QCTL: ERR as the write leaves it, then the operation on the queue that it names. -/
def State.qctl (s : State) (w : RegWrite) (op : Device → Nat → Device) : State :=
  if w.ok = false ∨ w.base ≠ 0x50008 ∨ w.agent.isDriver = false then s else s.setDev (op (s.dev.regStore w) (bits w.ones 11 0))

/-- QUEUE_ENABLE. -/
def execQueueEnable (w : RegWrite) (s : State) : Out := .next (s.qctl w Device.enable)
/-- QUEUE_DISABLE. -/
def execQueueDisable (w : RegWrite) (s : State) : Out := .next (s.qctl w Device.disable)
/-- QUEUE_RESUME. -/
def execQueueResume (w : RegWrite) (s : State) : Out := .next (s.qctl w fun d qid => d.resume qid (w.ones / 2 ^ 32))

/-- DISABLE_DRAIN_DONE: nothing that started is left, so the queue is DISABLED and BUSY clears (R346). -/
def execDisableDrainDone (s : State) : Out :=
  .next (match s.dev.queues.find? fun q => q.draining && q.started.isEmpty && q.run.isNone with
    | some q =>
      let d := s.dev.mapQueue q.qid fun q => { q with qstate := 0, draining := false, place := none }
      s.setDev ((d.writeQueue q.qid).setField 0x50008 31 31 0)
    | none => s)

/-- DOORBELL_WRITE: the device reads WPTR (R344). -/
def execDoorbellWrite (qid : Nat) (val : DWord) (s : State) : Out :=
  .next (s.setDev ((s.dev.mapQueue qid fun q => { q with wptr := val.toNat % 2 ^ 32 }).checkOver qid))

/-! ## Binding (R347) -/

/-- Whether a queue has a packet that waits to start. -/
def Device.pending (d : Device) (q : Queue) : Bool := q.nextDue (d.flight ((q.run.map (·.fid)).getD 0)).treads.length
/-- Whether a queue waits for a place. -/
def Device.waitsForPlace (d : Device) (q : Queue) : Bool := q.qstate == 1 && !q.draining && q.place.isNone && d.pending q
/-- Whether a queue comes before another in the order of binding. -/
def Queue.before (q r : Queue) : Bool := decide (r.qpri < q.qpri) || (q.qpri == r.qpri && decide (q.qid < r.qid))

/-- QUEUE_BIND: the first waiting queue takes a free place. -/
def execQueueBind (qid place : Nat) (s : State) : Out :=
  .next (match s.dev.queue? qid with
    | some q =>
      if place < 64 ∧ s.dev.waitsForPlace q ∧ !(s.dev.queues.any fun r => r.place == some place) ∧
          !(s.dev.queues.any fun r => s.dev.waitsForPlace r && r.before q) then
        s.setDev (s.dev.mapQueue qid fun q => { q with place := some place })
      else s
    | none => s)

/-- QUEUE_UNBIND: between packets, a queue with nothing to do, or one for whose place a queue of its QPRI or higher waits. -/
def execQueueUnbind (qid : Nat) (s : State) : Out :=
  .next (match s.dev.queue? qid with
    | some q =>
      let idle := !s.dev.pending q && q.started.isEmpty
      let wanted := s.dev.queues.any fun r => s.dev.waitsForPlace r && decide (q.qpri ≤ r.qpri)
      if q.place.isSome ∧ q.sigwait = none ∧ q.copies = [] ∧ (idle ∨ wanted) then
        s.setDev (s.dev.mapQueue qid fun q => { q with place := none })
      else s
    | none => s)

/-! ## Starting packets (R348, R350, R351) -/

/-- Whether a packet of a queue may start now, BARRIER apart: the queue runs in a place, no SIGWAIT is unsatisfied, and TRCSTOP
does not hold the packet (R346, R347, R351, R359, R408). -/
def Device.mayStart (d : Device) (q : Queue) : Bool :=
  q.qstate == 1 && !q.draining && q.place.isSome && q.sigwait.isNone && !q.stopsAt (d.reg 0x60118)

/-- Whether a packet waits for the earlier packets of its queue (R351, R354). -/
def barred (p : List Byte) : Bool := barrierOf p || typeOf p == 6

/-- A packet starts: it is counted in CSN and in the steps of its core, traced and recorded, and does what its type says. None
where it cannot start yet (R351, R363, Table 15-11). -/
def State.start (s : State) (i : Item) (act : State → Item → Option State) : Option State :=
  let qid := i.q.qid
  let core := (i.q.place.getD 0) / 32
  let d := (s.dev.mapQueue qid fun q => { q with csn := i.csn, tcur := 0 }).writeQueue qid
  let d := { d with ccstep := d.ccstep.mapIdx fun k n => if k = core then n + 1 else n }
  let t := (s.setDev d).tracePacket 1 qid i.csn (typeOf i.p)
  let r := t.record i
  match r.2 with
  | .ok _ => act r.1 i
  | .err c a => some (r.1.itemError i 3 c a)
  | .wait => none

/-- The packet at RPTR, with RPTR past it. -/
def Device.headItem (d : Device) (q : Queue) : Item :=
  { q := { q with rptr := (q.rptr + 1) % 2 ^ 32 }, csn := (q.csn + 1) % 2 ^ 32
    p := (List.range 64).map (fun k => d.outerByte (q.rbase + 64 * (q.rptr % 2 ^ q.rlog2) + k)), src := .ring }

/-- Process the packet at a queue's RPTR if `mine` says that it is the row's: it is checked, and starts (R345, R350, R365). -/
def State.processHead (s : State) (qid : Nat) (mine : Nat → Bool) (act : State → Item → Option State) : State :=
  match s.dev.queue? qid with
  | none => s
  | some q =>
    let n := ((q.run.map fun r => (s.dev.flight r.fid).treads.length)).getD 0
    let i := s.dev.headItem q
    if s.dev.mayStart q = false ∨ q.rptr = q.wptr ∨ mine (typeOf i.p) = false ∨ q.run.any (fun r => !r.stopped && !r.issued n)
        ∨ (barred i.p ∧ q.started.any fun x => !x.done) then s
    else
      let t := s.setDev ((s.dev.mapQueue qid fun q => { q with rptr := i.q.rptr }).writeQueue qid)
      match packetCause s.dev i.p with
      | some c => t.itemError i 2 c i.where'
      | none =>
        if i.q.recording.isSome && pmapBad i.p then t.itemError i 2 4 i.where'
        else (t.start i act).getD s

/-- FENCE_PACKET. -/
def execFencePacket (qid : Nat) (s : State) : Out := .next (s.processHead qid (· == 6) State.actFence)
/-- SIGSET_PACKET. -/
def execSigsetPacket (qid : Nat) (s : State) : Out := .next (s.processHead qid (· == 5) State.actSigset)
/-- SIGWAIT_PACKET. -/
def execSigwaitPacket (qid : Nat) (s : State) : Out := .next (s.processHead qid (· == 4) State.actSigwait)
/-- FLIGHT_END_PACKET. -/
def execFlightEndPacket (qid : Nat) (s : State) : Out := .next (s.processHead qid (· == 8) State.actFlightEnd)
/-- FLIGHT_BEGIN_PACKET. -/
def execFlightBeginPacket (qid : Nat) (s : State) : Out := .next (s.processHead qid (· == 7) State.actFlightBegin)
/-- FLIGHT_RUN_PACKET. -/
def execFlightRunPacket (qid : Nat) (s : State) : Out := .next (s.processHead qid (· == 9) State.actFlightRun)
/-- DISPATCH_PACKET. -/
def execDispatchPacket (qid : Nat) (s : State) : Out := .next (s.processHead qid (· == 1) State.actDispatch)
/-- GRAPH_PACKET. -/
def execGraphPacket (qid : Nat) (s : State) : Out := .next (s.processHead qid (· == 2) State.actGraph)

/-- COPY_PACKET: the next part of a COPY that has one left, or the COPY at RPTR. -/
def execCopyPacket (qid : Nat) (s : State) : Out :=
  .next (match s.dev.queue? qid with
    | some q => if q.copies.isEmpty then s.processHead qid (· == 3) State.actCopy else
        let t := s.nextPart q
        if t = s then s.processHead qid (· == 3) State.actCopy else t
    | none => s)

/-- NOP_PACKET; a packet with no TYPE, which is refused, is met here too (R350). -/
def execNopPacket (qid : Nat) (s : State) : Out := .next (s.processHead qid (fun t => t == 0 || decide (10 ≤ t)) State.actNop)

/-- SIGWAIT_RECHECK: the word is read again (R353). -/
def execSigwaitRecheck (qid : Nat) (s : State) : Out :=
  .next (match s.dev.queue? qid with
    | some q => match q.sigwait with
      | some w =>
        let clear (t : State) : State := t.setDev (t.dev.mapQueue qid fun q => { q with sigwait := none })
        let r := s.ccRead q.asid w.addr.toNat 4
        (match r.2 with
          | .ok bs => if sigHolds w.cond (leNat bs) w.val.toNat then (clear r.1).packetDone qid w.csn else r.1
          | .err c a => (clear r.1).abandon qid w.csn 3 c a
          | .wait => s)
      | none => s
    | none => s)

/-! ## Treads and fallback packets (R366 to R368) -/

/-- What a packet of a type does that is no FLIGHT packet. -/
def State.actOf (t : Nat) : State → Item → Option State :=
  match t with
  | 6 => State.actFence
  | 5 => State.actSigset
  | 4 => State.actSigwait
  | 3 => State.actCopy
  | 2 => State.actGraph
  | 1 => State.actDispatch
  | _ => State.actNop

/-- The run of a queue has issued one more packet. -/
def Device.advance (d : Device) (qid : Nat) : Device :=
  d.mapQueue qid fun q => { q with run := q.run.map fun r => { r with next := r.next + 1 } }

/-- Start a packet of a run, with the run's position after it, so that the run can end with it. -/
def State.startInRun (s : State) (i : Item) : State :=
  ((s.setDev (s.dev.advance i.q.qid)).start i (State.actOf (typeOf i.p))).getD s

/-- Where the next packet of a queue's run may start. -/
def State.runDue (s : State) (qid : Nat) : Option (Queue × Run) :=
  match s.dev.queue? qid with
  | some q => match q.run with
    | some r =>
      if s.dev.mayStart q ∧ r.stopped = false ∧ r.issued (s.dev.flight r.fid).treads.length = false then some (q, r) else none
    | none => none
  | none => none

/-- TREAD_ISSUE: the next tread is patched, checked and started; one that an error has struck stops the run (R366, R368). -/
def execTreadIssue (qid : Nat) (s : State) : Out :=
  .next (match s.runDue qid with
    | some (q, r) =>
      if r.fallback then s
      else
        let f := s.dev.flight r.fid
        let p := patched (((f.treads.getD r.next []).take 2) ++ [0#8, 0#8] ++ (f.treads.getD r.next []).drop 4) r.patch
        let i : Item := { q := q, csn := (q.csn + 1) % 2 ^ 32, p := p, src := .tread r.next r.fid }
        let data := r.next + r.fid * 2 ^ 32
        if f.bad then (s.setDev (s.dev.mapFlight r.fid fun f => { f with state := 3 })).itemError i 4 7 data
        else if barred p ∧ q.settled = false then s
        else match packetCause s.dev p with
          | some _ => s.itemError i 4 6 data
          | none => s.startInRun i
    | none => s)

/-- FALLBACK_PACKET: the next packet of the fallback list, read as it starts (R367). -/
def execFallbackPacket (qid : Nat) (s : State) : Out :=
  .next (match s.runDue qid with
    | some (q, r) =>
      if r.fallback = false then s
      else
        let x := s.ccRead q.asid (r.fbaddr.toNat + 64 * r.next) 64
        let i : Item := { q := q, csn := (q.csn + 1) % 2 ^ 32, p := [], src := .fallback r.next r.fid }
        (match x.2 with
          | .err c a => x.1.itemError i 3 c a
          | .wait => s
          | .ok p =>
            let j : Item := { i with p := p }
            if 7 ≤ typeOf p ∧ typeOf p ≤ 9 then x.1.itemError j 4 8 (r.next + r.fid * 2 ^ 32)
            else if barred p ∧ q.settled = false then s
            else match packetCause s.dev p with
              | some c => x.1.itemError j 2 c j.where'
              | none => x.1.startInRun j)
    | none => s)

/-! ## Completion signals (R352) -/

/-- COMPLETION_SIGNAL: a completed packet's work is made visible and its signal performed. -/
def execCompletionSignal (qid csn : Nat) (s : State) : Out :=
  .next (match s.dev.queue? qid with
    | some q => match q.started.find? fun x => x.csn == csn && x.done with
      | some x =>
        if s.dev.waitsFor (.queue qid csn) then s
        else
          let va := pkt x.packet 8 8
          let gone (t : State) : State := t.setDev (t.dev.mapQueue qid fun q => { q with started := q.started.filter fun x => x.csn != csn })
          let r := s.update qid csn q.asid va (csopOf x.packet) (pkt x.packet 4 4)
          (match r.2 with
            | .done => gone r.1
            | .sent => r.1
            | .err c => (gone r.1).packetError qid csn 3 c va
            | .wait => s)
      | none => s
    | none => s)

/-! ## FLTOWN (R361) -/

/-- FLTOWN_WRITE: ignored while the flight records or runs; otherwise the flight becomes EMPTY. -/
def execFltownWrite (w : RegWrite) (s : State) : Out :=
  let fid := (w.base - 0x51000) / 8
  let f := s.dev.flight fid
  .next (if w.ok = false ∨ w.base < 0x51000 ∨ 256 ≤ fid ∨ f.state = 1 ∨ 0 < f.runs then s
    else s.setDev ((s.dev.regStoreAs w (2 ^ 63 + fieldMask 11 0) 0).mapFlight fid fun _ => Flight.empty))

/-! ## Command-core firmware (R369) -/

/-- A GO that is refused: ERR and FWSWAP (R369). -/
def Device.refuseFw (d : Device) : Device := (d.setField 0x52000 62 62 1).post 7 0xFFFF 0 1 0

/-- The 32 bytes of CCFWMEAS. -/
def Device.ccfwMeas (d : Device) : List Byte := (List.range 4).flatMap fun k => leBytes 8 (d.reg (0x52010 + 8 * k))

/-- CCFWCTL_GO: the image is measured, and both cores are to be replaced. -/
def execCcfwctlGo (w : RegWrite) (s : State) : Out :=
  .next (if w.ok = false ∨ w.base ≠ 0x52000 ∨ w.agent ≠ .mgmt then s
    else
      let d := s.dev.regStoreAs w (fieldMask 47 12) (2 ^ 62)
      if bit w.ones 0 then
        let image := bits (d.reg 0x52000) 47 12 * 4096
        let len := bits (d.reg 0x52008) 31 0
        if bit (s.dev.reg 0x52000) 63 ∨ len % 4096 ≠ 0 ∨ len < 4096 ∨ 2 ^ 24 < len ∨ inHbm image len = false then s.setDev s.dev.refuseFw
        else
          let m := sha3 ((List.range len).map fun k => d.outerByte (image + k))
          if m ≠ d.ccfwMeas then s.setDev d.refuseFw
          else s.setDev { d.setField 0x52000 63 63 1 with fwswap := [0, 1], boot := { d.boot with incoming := some m } }
      else s.setDev d)

/-- FIRMWARE_CORE_SWAP: a command core runs the new image from its next step on; the last one ends the replacement. -/
def execFirmwareCoreSwap (core : Bool) (s : State) : Out :=
  let c := if core then 1 else 0
  .next (match s.dev.fwswap with
    | k :: ks =>
      if k ≠ c then s
      else
        let t := (s.setDev { s.dev with fwswap := ks }).logAtrium 12 (s.dev.ccstep.getD c 0 % 2 ^ 32) c
        if ks.isEmpty then
          let m := t.dev.boot.incoming
          let d := { t.dev with boot := { t.dev.boot with measure := m, incoming := none } }.setField 0x52000 63 63 0
          t.setDev (d.post 7 0xFFFF 0 0 (leNat ((m.getD []).take 8)))
        else t
    | [] => s)

end Sys2Proof.Machine
end

