-- ==== Sys2Proof/Machine/ScalarAlu.lean ====
section
/-!
DEFINITION. The scalar ALU: once per cohort, whatever em holds (R242, Table 9-9).
-/
namespace Sys2Proof.Machine

/-- A scalar instruction with a 32-bit result. -/
def salu (f : Word → Word → Word) (d a : Reg) (b : SOp) (s : State) : State :=
  scalarOp b.len (a.toNat :: b.ss) (fun c => c.sput d.toNat (f (c.sget a.toNat) (b.rd c))) s

/-- The 64-bit b operand: a pair, or a literal sign-extended. -/
def SOp64 (b : SOp) (c : Cohort) : DWord :=
  match b with
  | .s r => c.sget64 r.toNat
  | .lit w => w.signExtend 64

/-- The scalars of a 64-bit b operand. -/
def pairOf (b : SOp) : List Nat :=
  match b with
  | .s r => [r.toNat, r.toNat + 1]
  | .lit _ => []

/-- A scalar instruction with a 64-bit result. -/
def salu64 (f : DWord → DWord → DWord) (d a : Reg) (b : SOp) (s : State) : State :=
  scalarOp b.len ([a.toNat, a.toNat + 1] ++ pairOf b) (fun c => c.sput64 d.toNat (f (c.sget64 a.toNat) (SOp64 b c))) s

/-- SADD: (a + b) mod 2^32 (R242). -/
def execSadd (d a : Reg) (b : SOp) (s : State) : Out := .next (salu (fun a b => a + b) d a b s)
/-- SSUB: (a − b) mod 2^32 (R242). -/
def execSsub (d a : Reg) (b : SOp) (s : State) : Out := .next (salu (fun a b => a - b) d a b s)
/-- SMUL: (a × b) mod 2^32 (R242). -/
def execSmul (d a : Reg) (b : SOp) (s : State) : Out := .next (salu (fun a b => a * b) d a b s)
/-- SAND: a AND b (R242). -/
def execSand (d a : Reg) (b : SOp) (s : State) : Out := .next (salu (fun a b => a &&& b) d a b s)
/-- SOR: a OR b (R242). -/
def execSor (d a : Reg) (b : SOp) (s : State) : Out := .next (salu (fun a b => a ||| b) d a b s)
/-- SXOR: a XOR b (R242). -/
def execSxor (d a : Reg) (b : SOp) (s : State) : Out := .next (salu (fun a b => a ^^^ b) d a b s)
/-- SSHL: as SHL (R242). -/
def execSshl (d a : Reg) (b : SOp) (s : State) : Out := .next (salu (fun a b => wshl a b) d a b s)
/-- SSHR: as SHR (R242). -/
def execSshr (d a : Reg) (b : SOp) (s : State) : Out := .next (salu (fun a b => wshr a b) d a b s)
/-- SSAR: as SAR (R242). -/
def execSsar (d a : Reg) (b : SOp) (s : State) : Out := .next (salu (fun a b => wsar a b) d a b s)
/-- SMIN: the signed lesser (R242). -/
def execSmin (d a : Reg) (b : SOp) (s : State) : Out := .next (salu (fun a b => wimin a b) d a b s)
/-- SMAX: the signed greater (R242). -/
def execSmax (d a : Reg) (b : SOp) (s : State) : Out := .next (salu (fun a b => wimax a b) d a b s)
/-- SMINU: the unsigned lesser (R242). -/
def execSminu (d a : Reg) (b : SOp) (s : State) : Out := .next (salu (fun a b => wumin a b) d a b s)
/-- SMAXU: the unsigned greater (R242). -/
def execSmaxu (d a : Reg) (b : SOp) (s : State) : Out := .next (salu (fun a b => wumax a b) d a b s)
/-- SADD64: the pair sum mod 2^64 (R242). -/
def execSadd64 (d a : Reg) (b : SOp) (s : State) : Out := .next (salu64 (fun x y => x + y) d a b s)
/-- SSUB64: the pair difference mod 2^64 (R242). -/
def execSsub64 (d a : Reg) (b : SOp) (s : State) : Out := .next (salu64 (fun x y => x - y) d a b s)
/-- SMOV: b (R242). -/
def execSmov (d : Reg) (b : SOp) (s : State) : Out :=
  .next (scalarOp b.len b.ss (fun c => c.sput d.toNat (b.rd c)) s)
/-- SEQ: 1 if the ICMP condition holds, else 0 (R242). -/
def execSeq (d a : Reg) (b : SOp) (s : State) : Out :=
  .next (salu (fun a b => if icmp 0 a b then 1#32 else 0#32) d a b s)
/-- SNE: 1 if the ICMP condition holds, else 0 (R242). -/
def execSne (d a : Reg) (b : SOp) (s : State) : Out :=
  .next (salu (fun a b => if icmp 1 a b then 1#32 else 0#32) d a b s)
/-- SLT: 1 if the ICMP condition holds, else 0 (R242). -/
def execSlt (d a : Reg) (b : SOp) (s : State) : Out :=
  .next (salu (fun a b => if icmp 2 a b then 1#32 else 0#32) d a b s)
/-- SLE: 1 if the ICMP condition holds, else 0 (R242). -/
def execSle (d a : Reg) (b : SOp) (s : State) : Out :=
  .next (salu (fun a b => if icmp 3 a b then 1#32 else 0#32) d a b s)
/-- SGT: 1 if the ICMP condition holds, else 0 (R242). -/
def execSgt (d a : Reg) (b : SOp) (s : State) : Out :=
  .next (salu (fun a b => if icmp 4 a b then 1#32 else 0#32) d a b s)
/-- SGE: 1 if the ICMP condition holds, else 0 (R242). -/
def execSge (d a : Reg) (b : SOp) (s : State) : Out :=
  .next (salu (fun a b => if icmp 5 a b then 1#32 else 0#32) d a b s)
/-- SLTU: 1 if the ICMP condition holds, else 0 (R242). -/
def execSltu (d a : Reg) (b : SOp) (s : State) : Out :=
  .next (salu (fun a b => if icmp 6 a b then 1#32 else 0#32) d a b s)
/-- SGEU: 1 if the ICMP condition holds, else 0 (R242). -/
def execSgeu (d a : Reg) (b : SOp) (s : State) : Out :=
  .next (salu (fun a b => if icmp 7 a b then 1#32 else 0#32) d a b s)

end Sys2Proof.Machine
end

