-- ==== Sys2Proof/Machine/Traps.lean ====
section
/-!
DEFINITION. Traps and stops that the device completes (R373 to R384): the entry to the handler, #FAB, pre-emption, the overdue
rule, and the end of a context by a queue-level trap.
-/
namespace Sys2Proof.Machine

/-- Run an operation with a context current and all its companies listed, then make the earlier cohort current again. -/
def State.wholeContext (s : State) (asid : Nat) (f : State → State) : State :=
  let t := s.parkCo.focusCx asid
  if t.cx.alive && t.cx.asid == asid then
    let u := f t
    if s.me.stat = .absent then u else u.focus s.co.dseq s.me.j
  else s

/-! ## Entry to the handler (R373) -/

/-- IN_LANE_TRAP_ENTRY: every earlier instruction has retired and every flag is zero. -/
def execInLaneTrapEntry (dseq j : Nat) (s : State) : Out :=
  .next (s.onCohort dseq j fun t =>
    match t.me.stat with
    | .entering e =>
      let u := t.settle
      if u.me.drained then u.enter e else u
    | _ => t)

/-! ## #FAB (R378) -/

/-- Whether a cohort stands at an instruction boundary with nothing of its next instruction begun. -/
def Cohort.atBoundary (c : Cohort) : Bool :=
  c.stat == .running && !(c.wait == .bar || c.wait == .macq || c.wait == .latch || c.wait == .sema || c.wait == .emit)

/-- The failure that one #FAB reports of those that have reached a cohort: the lowest member of a group if there is one, else the
lowest device (R423; where no member failed the spec names none of several: DESIGN CHOICE, log entry 79). -/
def reported (fs : List (Nat × Bool)) : Nat × Bool :=
  let ms := fs.filter fun f => f.2
  let of (gs : List (Nat × Bool)) : Nat := (gs.map Prod.fst).foldl min ((gs.map Prod.fst).headD 0)
  if ms.isEmpty then (of fs, false) else (of ms, true)

/-- #FAB for the failures that have reached the current cohort, together: queue-level with FABQ, else one warning (R378, R423). -/
def State.fabric (s : State) : State :=
  match s.me.fab with
  | [] => s
  | fs =>
    let f := reported fs
    let sub : Nat := if f.2 then 2 else 1
    let t := s.setMe { (s.me.crput 0x59 (BitVec.ofNat 32 (f.1 % 1024))) with fab := [] }
    if s.cx.tctl.getLsbD 2 then
      let mask := maskOf (lowestLane s.me.act).toList
      if s.me.handler then t.setMe { t.me with heldTrap := some { code := 15, sub := sub, mask := mask, imm := 0 } }
      else t.queueTrap 15 sub mask 0
    else (t.warn 29 15 sub).enterWarning 15 sub

/-- FAB_TRAP; in a replay it waits for its record (R401). -/
def execFabTrap (dseq j : Nat) (s : State) : Out :=
  .next (s.onCohort dseq j fun t => if t.me.atBoundary && !t.replayBars [4] then t.fabric else t)

/-! ## Stops (R383 to R385, R322, R408) -/

/-- STATE of a stop at a wait of R332: 3 for the handler's waits, 2 for the others; none where the cohort does not wait. -/
def Cohort.waitCode (c : Cohort) : Option Nat :=
  match c.wait with
  | .none | .drain => none
  | .pool | .time => some 3
  | _ => some 2

/-- Whether an MLDRED of a cohort is in flight, which is no instruction boundary (R128). -/
def Cohort.reducing (c : Cohort) : Bool := c.ops.any fun o => match o.kind with
  | .mldred _ _ _ => !o.passed
  | _ => false

/-- The STATE with which a cohort stops now for the stop that is due, if it does (R52, R383, R384, R403). -/
def Cohort.stopCode (c : Cohort) : Option Nat :=
  let first : Bool := c.stopDue == 1 || c.stopDue == 2 || c.stopDue == 7
  if c.stat ≠ .running ∨ c.stopDue = 0 ∨ (c.handler && first) ∨ c.reducing then none
  else match c.wait == .drain, c.waitCode with
    | false, some k => some k
    | _, _ =>
      if c.stopDue = 1 then none
      else if c.stopDue = 7 then some 0
      else if c.stopDue = 6 ∧ c.chunkN ≠ 0 then none
      else some 1

/-- The cohort that carries a company's #LATE: the lowest that has not ended (R384). -/
def Company.lateJ (h : Company) : Option Nat := ((h.cohorts.filter fun c => c.stat != .ended).map (·.j)).foldl (fun m j => match m with
  | some k => some (min j k)
  | none => some j) none

/-- The current cohort stops: what it waits for is abandoned, its latch arrivals are discarded, and its stop is recorded, after
the #LATE that it carries (R305, R383, R384, Table 15-2). -/
def State.stopWith (s : State) (code : Nat) : State :=
  let halt : Bool := s.cx.stat == .saving true
  let late : Bool := s.co.late && s.me.stopDue == 2 && s.coAll.lateJ == some s.me.j
  let spill : Bool := s.me.stopDue == 5
  let drop (l : Latch) : Latch := { l with arrived := l.arrived.filter fun a => a.j != s.me.j }
  let t := s.setCo { s.co with latches := (s.co.latches.map drop).filter fun l => !l.arrived.isEmpty }
  let t := t.setMe { t.me with stat := .stopped code, sema := none, active := false, stopDue := 0 }
  let t := if late then t.log 4 (trapPayload 14 0 2) else t
  if spill then t else t.log 5 (code + (if halt then 4 else 0))

/-- PREEMPT_STOP: a cohort for which a stop is due stops at its point, wait or boundary. -/
def execPreemptStop (dseq j : Nat) (s : State) : Out :=
  .next (s.onCohort dseq j fun t =>
    match t.me.stopCode with
    | some k =>
      if t.stopBarred then t
      else if t.me.fab.isEmpty || t.me.atBoundary = false || t.replayBars [4] then t.stopWith k else t.fabric
    | none => t)

/-- Count a #LATE in cr.wstat (R377, R384). -/
def Context.countLate (c : Context) : Context :=
  let n := (c.wstat &&& 0xFFFF#32).toNat
  { c with wstat := (c.wstat &&& 0xFFFF0000#32) ||| 0x40000000#32 ||| BitVec.ofNat 32 (min (n + 1) 0xFFFF) }

/-- OVERDUE: the cohorts that still run stop at their next boundary; #LATE is raised once for the company, and recorded at the
stop of its cohort, at once where that has stopped (R384). -/
def execOverdue (dseq : Nat) (s : State) : Out :=
  .next (s.onCompany dseq fun t =>
    let late (c : Cohort) : Bool := c.stat == .running && (c.stopDue == 1 || c.stopDue == 7)
    let all := t.coAll
    if t.cx.stat = .saving false ∧ t.co.coreOf.isSome ∧ t.co.pdist ≠ 0 ∧ t.co.late = false ∧ all.cohorts.any late then
      let k := t.packetOf
      let low := (all.created.head?).getD 0
      let due (c : Cohort) : Cohort := if late c then { c with stopDue := 2 } else c
      let u := t.setCx t.cx.countLate
      let u := (u.setCo { u.co with late := true, cohorts := u.co.cohorts.map due }).setMe (if u.me.stat = .absent then u.me else due u.me)
      let u := u.setDev (u.dev.post 3 k.1 k.2 (t.co.cwid.toNat + low * 64) t.co.pdist)
      (match all.lateJ with
        | some j => u.onCohort dseq j fun v => if v.me.stopDue = 2 then v else v.log 4 (trapPayload 14 0 2)
        | none => u)
    else t)

/-! ## PRECTL (R382, R383) -/

/-- Every cohort of a context that is to be saved has a stop due: at its point, or at a boundary where its company declares no
points (R383, R384). -/
def Company.preempt (h : Company) : Company :=
  { h with cohorts := h.cohorts.map fun c => if c.stat = .ended ∨ c.stopDue ≠ 0 then c else { c with stopDue := if h.pdist = 0 then 2 else 1 } }

/-- Pre-emption of the current context begins. -/
def State.preempt (s : State) : State :=
  let asid := s.cx.asid
  let halt : Bool := s.cx.stat == .saving true
  let mine (d : Nat) : Bool := s.dev.companies.any fun h => h.dseq == d && h.asid == asid
  let d := { s.dev with
    companies := s.dev.companies.map fun (h : Company) => if h.asid = asid then h.preempt else h
    halls := s.dev.halls.map fun (h : Hall) => if h.block.any mine then { h with block := none } else h }
  let cx := { s.cx with stat := .saving halt, used := if halt then s.cx.used else 0, image := if halt then s.cx.image else [] }
  ((s.setDev (d.setField 0x6000 31 31 1)).setCx cx).endSave

/-- PRECTL_GO. -/
def execPrectlGo (w : RegWrite) (s : State) : Out :=
  .next (if w.ok = false ∨ w.base ≠ 0x6000 then s
    else
      let t := s.setDev (s.dev.regStore w)
      if w.sets 0x6000 16 then
        let asid := bits (t.dev.reg 0x6000) 11 0
        let live := (t.context? asid).any fun c => c.stat != .saved && c.stat != .ended
        if bit (s.dev.reg 0x6000) 31 ∨ live = false ∨ (t.dev.imgEntry asid).1 = false then t.setDev (t.dev.setField 0x6000 30 30 1)
        else t.wholeContext asid State.preempt
      else t)

/-! ## TRACE_STOP (R408) -/

/-- TRACE_STOP: once every packet before the held one has completed, but for the FLIGHT_RUN that holds it, its context stops as HALT does (R408). -/
def execTraceStop (s : State) : Out :=
  let x := s.dev.reg 0x60118
  .next (match s.dev.queue? (bits x 43 32) with
    | some q =>
      if q.stopsAt x && q.settled && q.nextDue (s.dev.flight ((q.run.map (·.fid)).getD 0)).treads.length then
        let t := s.setDev (s.dev.setField 0x60118 63 62 1)
        ((t.wholeContext q.asid fun u =>
            if u.cx.stat = .live then
              let v := u.haltAs 0#64 0#56
              (v.setCx { v.cx with halter := some (0#64, 0#56, q.qid, q.csn) }).endSave
            else u).trace
          { traceRec 9 0 with qid := q.qid, csn := q.csn })
      else s
    | none => s)

/-! ## The end of a context by a queue-level trap (R375, R376) -/

/-- The report that names the error: that of the lowest (DSEQ, j) (R376). -/
def Context.firstReport (c : Context) : Option (Nat × Nat × Nat × DWord) :=
  c.reports.foldl (fun m r => match m with
    | some b => if r.1 < b.1 ∨ (r.1 = b.1 ∧ r.2.1 < b.2.1) then some r else some b
    | none => some r) none

/-- A cohort of a context that a trap ends stops at its boundary; its loads are given up, its stores complete (R375). -/
def Cohort.condemn (c : Cohort) : Cohort :=
  let c := { c with ops := c.ops.filter MemOp.outlives, f := [], sema := none, emit := none, active := false, stopDue := 0 }
  match c.stat with
  | .ended | .trapped => c
  | _ => { c with stat := .stopped ((c.waitCode).getD 1), wait := .none }

/-- The errors of the queues of a context that ends (R376). -/
def State.trapQueues (s : State) (dseq code : Nat) (wid : DWord) : State :=
  let asid := s.cx.asid
  let lseq := ((s.companies.find? fun h => h.dseq == dseq).map (·.lseq)).getD 0#32
  let k := ((s.cx.launches.find? fun l => l.lseq == lseq).map fun l => (l.qid, l.csn)).getD (0xFFFF, 0)
  let d := s.dev.queueError k.1 k.2 5 code wid.toNat
  s.setDev ((d.queues.filter fun q => q.asid == asid && q.qid != k.1 && q.qstate == 1 && !q.draining).foldl
    (fun d q => d.queueError q.qid q.csn 5 64 wid.toNat) d)

/-- Steps 1 and 2 of R375, and R376: the current context stops. -/
def State.condemn (s : State) : State :=
  match s.cx.firstReport with
  | none => s
  | some (dseq, _, code, wid) =>
    let asid := s.cx.asid
    let saving : Bool := match s.cx.stat with
      | .saving _ => true
      | _ => false
    let stop (h : Company) : Company :=
      if h.asid = asid then { h with cohorts := h.cohorts.map Cohort.condemn, latches := [], barArrived := [], victim := false } else h
    let t := s.trapQueues dseq code wid
    let t := t.setDev { t.dev with companies := t.dev.companies.map stop }
    t.setCx { t.cx with stat := .ended, used := if saving then t.cx.used else 0, image := if saving then t.cx.image else [] }

/-- Whether the copies, fills, stores and matrix work of the current context are complete (R375, step 3). -/
def State.quietContext (s : State) : Bool :=
  s.mine.all fun h => h.cohorts.all (fun c => c.ops.isEmpty) && h.fired.isEmpty && !(s.dev.fills.any fun f => f.dseq == h.dseq) &&
    !(s.dev.pieces.any fun p => match p.owner with
      | .cohort d _ => d == h.dseq
      | .packet _ _ => false)

/-- The image of a context that a trap ends, where all of it fits (R375, R387). -/
def State.lastImage (s : State) : State :=
  if s.imgFits then
    let t := s.setCx { s.cx with used := max 1 s.cx.used }
    let one (t : State) (h : Company) : State := match h.place with
      | .saved _ => t
      | .core _ =>
        let u := t.onCompany h.dseq fun u => u.parkMe.unspill
        let h := ((u.companies.find? fun x => x.dseq == h.dseq)).getD h
        u.addRecord h (u.companyRecord h h.hallOf) true
      | _ => t.addRecord h (t.companyHeader h false h.hallOf) false
    (t.mine.foldl one t).writeHeader
  else s

/-- Every launch of the current context ends: its node breaks, and its packet completes without its signal (R189, R351, R352). -/
def State.endLaunches (s : State) : State :=
  let nodes := (s.cx.launches.filter fun l => !l.finished).filterMap (·.pnode)
  let s := s.setDev (nodes.foldl Device.breakNode s.dev)
  s.cx.launches.foldl (fun t l =>
    ((t.setDev (t.dev.failPacket l.qid l.csn)).traceLaunch 4 l.qid l.csn l.lseq 0).packetDone l.qid l.csn) s

/-- Step 4 of R375: everything that the current context holds is released, and it retires (R414). -/
def State.releaseContext (s : State) : State :=
  let asid := s.cx.asid
  let ds := s.mine.map (·.dseq)
  let cores := (s.mine.filterMap Company.coreOf).eraseDups
  let t := s.endLaunches
  let d := { t.dev with
    companies := t.dev.companies.filter fun h => h.asid != asid
    engines := t.dev.engines.filter fun e => !ds.contains e.dseq
    dispatch := t.dev.dispatch.filter fun x => x.1 != asid
    halls := t.dev.halls.map fun (h : Hall) => if h.block.any ds.contains then { h with block := none } else h }
  let t := t.setDev (d.endPrectl asid true)
  let t := t.setCx { t.cx with launches := [], nodes := [], reports := [], halter := none }
  let t := cores.foldl (fun t c => t.grantHead (t.dev.engines.length + 1) c) t
  if t.dev.signRoom then t.retireContext true else t.setDev { t.dev with retiring := t.dev.retiring ++ [asid] }

/-- QUEUE_LEVEL_TRAP: the context stops and its queues take their errors; once its work has drained, the image is written and
everything is released. -/
def execQueueLevelTrap (asid : Nat) (s : State) : Out :=
  .next (s.wholeContext asid fun t =>
    if t.cx.stat ≠ .ended then t.condemn
    else if t.dev.retiring.contains asid ∨ t.quietContext = false then t
    else t.lastImage.releaseContext)

end Sys2Proof.Machine
end

