-- ==== Sys2Proof/Machine/Dispatch.lean ====
section
/-!
DEFINITION. The one dispatch from an instruction or event to its meaning: one arm per constructor.
-/
namespace Sys2Proof.Machine

/-- What one instruction or event does to the machine. -/
def exec (i : Instr) (s : State) : Host.Outcome State Fault Refusal :=
  match i with
  | .registerWrite w => Sys2Proof.Machine.execRegisterWrite w s
  | .mcgtabWrite w => Sys2Proof.Machine.execMcgtabWrite w s
  | .bridgecfgWrite w => Sys2Proof.Machine.execBridgecfgWrite w s
  | .ascarveWrite w => Sys2Proof.Machine.execAscarveWrite w s
  | .carveChangeDone => Sys2Proof.Machine.execCarveChangeDone s
  | .shootdown w => Sys2Proof.Machine.execShootdown w s
  | .shootdownComplete => Sys2Proof.Machine.execShootdownComplete s
  | .pgpush64k w => Sys2Proof.Machine.execPgpush64k w s
  | .pgpush2m w => Sys2Proof.Machine.execPgpush2m w s
  | .pgpop64k agent => Sys2Proof.Machine.execPgpop64k agent s
  | .pgpop2m agent => Sys2Proof.Machine.execPgpop2m agent s
  | .memerrclr w => Sys2Proof.Machine.execMemerrclr w s
  | .devnumWrite w => Sys2Proof.Machine.execDevnumWrite w s
  | .pmaskWrite w => Sys2Proof.Machine.execPmaskWrite w s
  | .planeHoldRelease dev => Sys2Proof.Machine.execPlaneHoldRelease dev s
  | .portresolveGo w => Sys2Proof.Machine.execPortresolveGo w s
  | .spillbaseWrite w => Sys2Proof.Machine.execSpillbaseWrite w s
  | .queueEnable w => Sys2Proof.Machine.execQueueEnable w s
  | .queueDisable w => Sys2Proof.Machine.execQueueDisable w s
  | .queueResume w => Sys2Proof.Machine.execQueueResume w s
  | .disableDrainDone => Sys2Proof.Machine.execDisableDrainDone s
  | .doorbellWrite qid val => Sys2Proof.Machine.execDoorbellWrite qid val s
  | .fltownWrite w => Sys2Proof.Machine.execFltownWrite w s
  | .ccfwctlGo w => Sys2Proof.Machine.execCcfwctlGo w s
  | .firmwareCoreSwap core => Sys2Proof.Machine.execFirmwareCoreSwap core s
  | .prectlGo w => Sys2Proof.Machine.execPrectlGo w s
  | .restctlGo w => Sys2Proof.Machine.execRestctlGo w s
  | .recordStrict w => Sys2Proof.Machine.execRecordStrict w s
  | .recordLossy w => Sys2Proof.Machine.execRecordLossy w s
  | .replayMode w => Sys2Proof.Machine.execReplayMode w s
  | .modeOff w => Sys2Proof.Machine.execModeOff w s
  | .ctxretGo w => Sys2Proof.Machine.execCtxretGo w s
  | .jobreqGo w => Sys2Proof.Machine.execJobreqGo w s
  | .featctlGo w => Sys2Proof.Machine.execFeatctlGo w s
  | .hallqGo w => Sys2Proof.Machine.execHallqGo w s
  | .hallQuiesceDone => Sys2Proof.Machine.execHallQuiesceDone s
  | .hostBar2Access a => Sys2Proof.Machine.execHostBar2Access a s
  | .hostBar0Access a => Sys2Proof.Machine.execHostBar0Access a s
  | .powerOn => Sys2Proof.Machine.execPowerOn s
  | .bootStep ok => Sys2Proof.Machine.execBootStep ok s
  | .correlationMarkerSend => Sys2Proof.Machine.execCorrelationMarkerSend s
  | .correlationMarkerReceipt die delay => Sys2Proof.Machine.execCorrelationMarkerReceipt die delay s
  | .patrolScrub index corrected => Sys2Proof.Machine.execPatrolScrub index corrected s
  | .uncorrectableError e => Sys2Proof.Machine.execUncorrectableError e s
  | .directoryRequest r => Sys2Proof.Machine.execDirectoryRequest r s
  | .loadReturn id lane => Sys2Proof.Machine.execLoadReturn id lane s
  | .storePerform id lane => Sys2Proof.Machine.execStorePerform id lane s
  | .bankOperation id lane => Sys2Proof.Machine.execBankOperation id lane s
  | .streamPrefetch hall line => Sys2Proof.Machine.execStreamPrefetch hall line s
  | .copyPiece id => Sys2Proof.Machine.execCopyPiece id s
  | .galleryFillComplete id => Sys2Proof.Machine.execGalleryFillComplete id s
  | .fabricPacketArrival plane p => Sys2Proof.Machine.execFabricPacketArrival plane p s
  | .markerRelease src => Sys2Proof.Machine.execMarkerRelease src s
  | .responseArrival p => Sys2Proof.Machine.execResponseArrival p s
  | .mcsArrival p => Sys2Proof.Machine.execMcsArrival p s
  | .undlvArrival p => Sys2Proof.Machine.execUndlvArrival p s
  | .switchMcw tag failed => Sys2Proof.Machine.execSwitchMcw tag failed s
  | .switchMcr tag reads => Sys2Proof.Machine.execSwitchMcr tag reads s
  | .flitReceive port f => Sys2Proof.Machine.execFlitReceive port f s
  | .nakReceive port ack => Sys2Proof.Machine.execNakReceive port ack s
  | .ackTimeout port => Sys2Proof.Machine.execAckTimeout port s
  | .retrainDone port ok rxnext => Sys2Proof.Machine.execRetrainDone port ok rxnext s
  | .moduleFallback vestibule mod failLow failHigh => Sys2Proof.Machine.execModuleFallback vestibule mod failLow failHigh s
  | .keyExchangeDone port => Sys2Proof.Machine.execKeyExchangeDone port s
  | .keyUpdate port => Sys2Proof.Machine.execKeyUpdate port s
  | .keyLimitStop port => Sys2Proof.Machine.execKeyLimitStop port s
  | .companyCreate => Sys2Proof.Machine.execCompanyCreate s
  | .companyPlace dseq core => Sys2Proof.Machine.execCompanyPlace dseq core s
  | .headBlock hall => Sys2Proof.Machine.execHeadBlock hall s
  | .companySteal cluster dseq core => Sys2Proof.Machine.execCompanySteal cluster dseq core s
  | .persistentPlace cores => Sys2Proof.Machine.execPersistentPlace cores s
  | .activeSetFill dseq j => Sys2Proof.Machine.execActiveSetFill dseq j s
  | .activeSetDisplace dseq j => Sys2Proof.Machine.execActiveSetDisplace dseq j s
  | .allocationDeadlock core => Sys2Proof.Machine.execAllocationDeadlock core s
  | .forcedSpill dseq => Sys2Proof.Machine.execForcedSpill dseq s
  | .reload dseq => Sys2Proof.Machine.execReload dseq s
  | .companyRetire dseq => Sys2Proof.Machine.execCompanyRetire dseq s
  | .consumerLaunch node => Sys2Proof.Machine.execConsumerLaunch node s
  | .emitAppend dseq j => Sys2Proof.Machine.execEmitAppend dseq j s
  | .queueBind qid place => Sys2Proof.Machine.execQueueBind qid place s
  | .queueUnbind qid => Sys2Proof.Machine.execQueueUnbind qid s
  | .fencePacket qid => Sys2Proof.Machine.execFencePacket qid s
  | .sigsetPacket qid => Sys2Proof.Machine.execSigsetPacket qid s
  | .sigwaitPacket qid => Sys2Proof.Machine.execSigwaitPacket qid s
  | .sigwaitRecheck qid => Sys2Proof.Machine.execSigwaitRecheck qid s
  | .flightEndPacket qid => Sys2Proof.Machine.execFlightEndPacket qid s
  | .flightBeginPacket qid => Sys2Proof.Machine.execFlightBeginPacket qid s
  | .flightRunPacket qid => Sys2Proof.Machine.execFlightRunPacket qid s
  | .treadIssue qid => Sys2Proof.Machine.execTreadIssue qid s
  | .fallbackPacket qid => Sys2Proof.Machine.execFallbackPacket qid s
  | .dispatchPacket qid => Sys2Proof.Machine.execDispatchPacket qid s
  | .graphPacket qid => Sys2Proof.Machine.execGraphPacket qid s
  | .copyPacket qid => Sys2Proof.Machine.execCopyPacket qid s
  | .nopPacket qid => Sys2Proof.Machine.execNopPacket qid s
  | .completionSignal qid csn => Sys2Proof.Machine.execCompletionSignal qid csn s
  | .eventRingWrite => Sys2Proof.Machine.execEventRingWrite s
  | .inLaneTrapEntry dseq j => Sys2Proof.Machine.execInLaneTrapEntry dseq j s
  | .queueLevelTrap asid => Sys2Proof.Machine.execQueueLevelTrap asid s
  | .fabTrap dseq j => Sys2Proof.Machine.execFabTrap dseq j s
  | .preemptStop dseq j => Sys2Proof.Machine.execPreemptStop dseq j s
  | .overdue dseq => Sys2Proof.Machine.execOverdue dseq s
  | .companySave dseq => Sys2Proof.Machine.execCompanySave dseq s
  | .waittimeExpiry dseq j => Sys2Proof.Machine.execWaittimeExpiry dseq j s
  | .mmaTileRetire dseq t => Sys2Proof.Machine.execMmaTileRetire dseq t s
  | .enginePass core => Sys2Proof.Machine.execEnginePass core s
  | .semaGrant dseq j => Sys2Proof.Machine.execSemaGrant dseq j s
  | .recordPageComplete source => Sys2Proof.Machine.execRecordPageComplete source s
  | .cbkptTrap dseq j => Sys2Proof.Machine.execCbkptTrap dseq j s
  | .traceRecord r => Sys2Proof.Machine.execTraceRecord r s
  | .powerSample rails => Sys2Proof.Machine.execPowerSample rails s
  | .traceStop => Sys2Proof.Machine.execTraceStop s
  | .statementWrite => Sys2Proof.Machine.execStatementWrite s
  | .powerLimitSample meanWatts limitWatts => Sys2Proof.Machine.execPowerLimitSample meanWatts limitWatts s
  | .thermalThrottle celsius => Sys2Proof.Machine.execThermalThrottle celsius s
  | .thermalShutdown celsius => Sys2Proof.Machine.execThermalShutdown celsius s
  | .clauseHeader h => Sys2Proof.Machine.execClauseHeader h s
  | .mov16 o => Sys2Proof.Machine.execMov16 o s
  | .iadd16 o => Sys2Proof.Machine.execIadd16 o s
  | .isub16 o => Sys2Proof.Machine.execIsub16 o s
  | .imul16 o => Sys2Proof.Machine.execImul16 o s
  | .and16 o => Sys2Proof.Machine.execAnd16 o s
  | .or16 o => Sys2Proof.Machine.execOr16 o s
  | .xor16 o => Sys2Proof.Machine.execXor16 o s
  | .shl16 o => Sys2Proof.Machine.execShl16 o s
  | .shr16 o => Sys2Proof.Machine.execShr16 o s
  | .sar16 o => Sys2Proof.Machine.execSar16 o s
  | .fadd16 o => Sys2Proof.Machine.execFadd16 o s
  | .fsub16 o => Sys2Proof.Machine.execFsub16 o s
  | .fmul16 o => Sys2Proof.Machine.execFmul16 o s
  | .fmax16 o => Sys2Proof.Machine.execFmax16 o s
  | .fmin16 o => Sys2Proof.Machine.execFmin16 o s
  | .fneg16 o => Sys2Proof.Machine.execFneg16 o s
  | .iadd o => Sys2Proof.Machine.execIadd o s
  | .isub o => Sys2Proof.Machine.execIsub o s
  | .imul o => Sys2Proof.Machine.execImul o s
  | .imulhi o => Sys2Proof.Machine.execImulhi o s
  | .imulhu o => Sys2Proof.Machine.execImulhu o s
  | .imad o => Sys2Proof.Machine.execImad o s
  | .iadds o => Sys2Proof.Machine.execIadds o s
  | .isubs o => Sys2Proof.Machine.execIsubs o s
  | .and o => Sys2Proof.Machine.execAnd o s
  | .or o => Sys2Proof.Machine.execOr o s
  | .xor o => Sys2Proof.Machine.execXor o s
  | .andn o => Sys2Proof.Machine.execAndn o s
  | .shl o => Sys2Proof.Machine.execShl o s
  | .shr o => Sys2Proof.Machine.execShr o s
  | .sar o => Sys2Proof.Machine.execSar o s
  | .rotl o => Sys2Proof.Machine.execRotl o s
  | .imin o => Sys2Proof.Machine.execImin o s
  | .imax o => Sys2Proof.Machine.execImax o s
  | .umin o => Sys2Proof.Machine.execUmin o s
  | .umax o => Sys2Proof.Machine.execUmax o s
  | .clz o => Sys2Proof.Machine.execClz o s
  | .popc o => Sys2Proof.Machine.execPopc o s
  | .brev o => Sys2Proof.Machine.execBrev o s
  | .ineg o => Sys2Proof.Machine.execIneg o s
  | .bfx o => Sys2Proof.Machine.execBfx o s
  | .bfxs o => Sys2Proof.Machine.execBfxs o s
  | .bfi o => Sys2Proof.Machine.execBfi o s
  | .prmt o => Sys2Proof.Machine.execPrmt o s
  | .lsa1 o => Sys2Proof.Machine.execLsa1 o s
  | .lsa2 o => Sys2Proof.Machine.execLsa2 o s
  | .lsa3 o => Sys2Proof.Machine.execLsa3 o s
  | .lsa4 o => Sys2Proof.Machine.execLsa4 o s
  | .icmpEq o => Sys2Proof.Machine.execIcmpEq o s
  | .icmpNe o => Sys2Proof.Machine.execIcmpNe o s
  | .icmpLt o => Sys2Proof.Machine.execIcmpLt o s
  | .icmpLe o => Sys2Proof.Machine.execIcmpLe o s
  | .icmpGt o => Sys2Proof.Machine.execIcmpGt o s
  | .icmpGe o => Sys2Proof.Machine.execIcmpGe o s
  | .icmpLtu o => Sys2Proof.Machine.execIcmpLtu o s
  | .icmpGeu o => Sys2Proof.Machine.execIcmpGeu o s
  | .fcmpEq o => Sys2Proof.Machine.execFcmpEq o s
  | .fcmpNe o => Sys2Proof.Machine.execFcmpNe o s
  | .fcmpLt o => Sys2Proof.Machine.execFcmpLt o s
  | .fcmpLe o => Sys2Proof.Machine.execFcmpLe o s
  | .fcmpGt o => Sys2Proof.Machine.execFcmpGt o s
  | .fcmpGe o => Sys2Proof.Machine.execFcmpGe o s
  | .fcmpOrd o => Sys2Proof.Machine.execFcmpOrd o s
  | .fcmpUnord o => Sys2Proof.Machine.execFcmpUnord o s
  | .sel k o => Sys2Proof.Machine.execSel k o s
  | .fadd o => Sys2Proof.Machine.execFadd o s
  | .fsub o => Sys2Proof.Machine.execFsub o s
  | .fmul o => Sys2Proof.Machine.execFmul o s
  | .ffma o => Sys2Proof.Machine.execFfma o s
  | .fmin o => Sys2Proof.Machine.execFmin o s
  | .fmax o => Sys2Proof.Machine.execFmax o s
  | .ffms o => Sys2Proof.Machine.execFfms o s
  | .fnma o => Sys2Proof.Machine.execFnma o s
  | .frcp o => Sys2Proof.Machine.execFrcp o s
  | .frsq o => Sys2Proof.Machine.execFrsq o s
  | .fsqrt o => Sys2Proof.Machine.execFsqrt o s
  | .fexp2 o => Sys2Proof.Machine.execFexp2 o s
  | .flog2 o => Sys2Proof.Machine.execFlog2 o s
  | .fsin o => Sys2Proof.Machine.execFsin o s
  | .fcos o => Sys2Proof.Machine.execFcos o s
  | .ftanh o => Sys2Proof.Machine.execFtanh o s
  | .hadd2 o => Sys2Proof.Machine.execHadd2 o s
  | .hsub2 o => Sys2Proof.Machine.execHsub2 o s
  | .hmul2 o => Sys2Proof.Machine.execHmul2 o s
  | .hfma2 o => Sys2Proof.Machine.execHfma2 o s
  | .hmin2 o => Sys2Proof.Machine.execHmin2 o s
  | .hmax2 o => Sys2Proof.Machine.execHmax2 o s
  | .badd2 o => Sys2Proof.Machine.execBadd2 o s
  | .bsub2 o => Sys2Proof.Machine.execBsub2 o s
  | .bmul2 o => Sys2Proof.Machine.execBmul2 o s
  | .bfma2 o => Sys2Proof.Machine.execBfma2 o s
  | .bmin2 o => Sys2Proof.Machine.execBmin2 o s
  | .bmax2 o => Sys2Proof.Machine.execBmax2 o s
  | .cvt r c d a ma u => Sys2Proof.Machine.execCvt r c d a ma u s
  | .mxqi8 l r d a ma => Sys2Proof.Machine.execMxqi8 l r d a ma s
  | .mxqe4 l r d a ma => Sys2Proof.Machine.execMxqe4 l r d a ma s
  | .mxqe5 l r d a ma => Sys2Proof.Machine.execMxqe5 l r d a ma s
  | .mxqe2 l r d a ma => Sys2Proof.Machine.execMxqe2 l r d a ma s
  | .mxdqf f d a ma => Sys2Proof.Machine.execMxdqf f d a ma s
  | .mxdqb f d a ma => Sys2Proof.Machine.execMxdqb f d a ma s
  | .dot4i8 o => Sys2Proof.Machine.execDot4i8 o s
  | .dot4z8 o => Sys2Proof.Machine.execDot4z8 o s
  | .dot8i4 o => Sys2Proof.Machine.execDot8i4 o s
  | .dot8z4 o => Sys2Proof.Machine.execDot8z4 o s
  | .dot4e4 o => Sys2Proof.Machine.execDot4e4 o s
  | .dot4e5 o => Sys2Proof.Machine.execDot4e5 o s
  | .dot8e2 o => Sys2Proof.Machine.execDot8e2 o s
  | .dot2bf o => Sys2Proof.Machine.execDot2bf o s
  | .mov o => Sys2Proof.Machine.execMov o s
  | .fabs o => Sys2Proof.Machine.execFabs o s
  | .fneg o => Sys2Proof.Machine.execFneg o s
  | .ffloor o => Sys2Proof.Machine.execFfloor o s
  | .fceil o => Sys2Proof.Machine.execFceil o s
  | .ftrunc o => Sys2Proof.Machine.execFtrunc o s
  | .frint o => Sys2Proof.Machine.execFrint o s
  | .iabs o => Sys2Proof.Machine.execIabs o s
  | .pand d a b => Sys2Proof.Machine.execPand d a b s
  | .por d a b => Sys2Proof.Machine.execPor d a b s
  | .pxor d a b => Sys2Proof.Machine.execPxor d a b s
  | .pandn d a b => Sys2Proof.Machine.execPandn d a b s
  | .pnot d b => Sys2Proof.Machine.execPnot d b s
  | .pmov d b => Sys2Proof.Machine.execPmov d b s
  | .emget d => Sys2Proof.Machine.execEmget d s
  | .emset a => Sys2Proof.Machine.execEmset a s
  | .emand a => Sys2Proof.Machine.execEmand a s
  | .emandn a => Sys2Proof.Machine.execEmandn a s
  | .emp d => Sys2Proof.Machine.execEmp d s
  | .pem a => Sys2Proof.Machine.execPem a s
  | .xall d => Sys2Proof.Machine.execXall d s
  | .xend a => Sys2Proof.Machine.execXend a s
  | .vany d a => Sys2Proof.Machine.execVany d a s
  | .vall d a => Sys2Proof.Machine.execVall d a s
  | .vbal d a => Sys2Proof.Machine.execVbal d a s
  | .vcnt d a => Sys2Proof.Machine.execVcnt d a s
  | .vfirst d a => Sys2Proof.Machine.execVfirst d a s
  | .shfli o => Sys2Proof.Machine.execShfli o s
  | .shflu o => Sys2Proof.Machine.execShflu o s
  | .shfld o => Sys2Proof.Machine.execShfld o s
  | .shflx o => Sys2Proof.Machine.execShflx o s
  | .bcast o => Sys2Proof.Machine.execBcast o s
  | .lradd d a ma => Sys2Proof.Machine.execLradd d a ma s
  | .lrmin d a ma => Sys2Proof.Machine.execLrmin d a ma s
  | .lrmax d a ma => Sys2Proof.Machine.execLrmax d a ma s
  | .lrand d a ma => Sys2Proof.Machine.execLrand d a ma s
  | .lror d a ma => Sys2Proof.Machine.execLror d a ma s
  | .lrxor d a ma => Sys2Proof.Machine.execLrxor d a ma s
  | .lrfadd d a ma => Sys2Proof.Machine.execLrfadd d a ma s
  | .lrfmax d a ma => Sys2Proof.Machine.execLrfmax d a ma s
  | .sadd d a b => Sys2Proof.Machine.execSadd d a b s
  | .ssub d a b => Sys2Proof.Machine.execSsub d a b s
  | .smul d a b => Sys2Proof.Machine.execSmul d a b s
  | .sand d a b => Sys2Proof.Machine.execSand d a b s
  | .sor d a b => Sys2Proof.Machine.execSor d a b s
  | .sxor d a b => Sys2Proof.Machine.execSxor d a b s
  | .sshl d a b => Sys2Proof.Machine.execSshl d a b s
  | .sshr d a b => Sys2Proof.Machine.execSshr d a b s
  | .ssar d a b => Sys2Proof.Machine.execSsar d a b s
  | .smin d a b => Sys2Proof.Machine.execSmin d a b s
  | .smax d a b => Sys2Proof.Machine.execSmax d a b s
  | .sminu d a b => Sys2Proof.Machine.execSminu d a b s
  | .smaxu d a b => Sys2Proof.Machine.execSmaxu d a b s
  | .sadd64 d a b => Sys2Proof.Machine.execSadd64 d a b s
  | .ssub64 d a b => Sys2Proof.Machine.execSsub64 d a b s
  | .smov d b => Sys2Proof.Machine.execSmov d b s
  | .seq d a b => Sys2Proof.Machine.execSeq d a b s
  | .sne d a b => Sys2Proof.Machine.execSne d a b s
  | .slt d a b => Sys2Proof.Machine.execSlt d a b s
  | .sle d a b => Sys2Proof.Machine.execSle d a b s
  | .sgt d a b => Sys2Proof.Machine.execSgt d a b s
  | .sge d a b => Sys2Proof.Machine.execSge d a b s
  | .sltu d a b => Sys2Proof.Machine.execSltu d a b s
  | .sgeu d a b => Sys2Proof.Machine.execSgeu d a b s
  | .br off => Sys2Proof.Machine.execBr off s
  | .brmz off => Sys2Proof.Machine.execBrmz off s
  | .brz a off => Sys2Proof.Machine.execBrz a off s
  | .brnz a off => Sys2Proof.Machine.execBrnz a off s
  | .brpz a off => Sys2Proof.Machine.execBrpz a off s
  | .brpnz a off => Sys2Proof.Machine.execBrpnz a off s
  | .call d off => Sys2Proof.Machine.execCall d off s
  | .jmp a => Sys2Proof.Machine.execJmp a s
  | .exit => Sys2Proof.Machine.execExit s
  | .nop => Sys2Proof.Machine.execNop s
  | .yield => Sys2Proof.Machine.execYield s
  | .bkpt imm => Sys2Proof.Machine.execBkpt imm s
  | .trap imm => Sys2Proof.Machine.execTrap imm s
  | .sys imm => Sys2Proof.Machine.execSys imm s
  | .rett => Sys2Proof.Machine.execRett s
  | .halt => Sys2Proof.Machine.execHalt s
  | .crrd d idx => Sys2Proof.Machine.execCrrd d idx s
  | .crwr d idx => Sys2Proof.Machine.execCrwr d idx s
  | .crrdv d idx => Sys2Proof.Machine.execCrrdv d idx s
  | .srkey a => Sys2Proof.Machine.execSrkey a s
  | .srstep a => Sys2Proof.Machine.execSrstep a s
  | .cntrd d idx => Sys2Proof.Machine.execCntrd d idx s
  | .clkrd d g => Sys2Proof.Machine.execClkrd d g s
  | .ld o => Sys2Proof.Machine.execLd o s
  | .st o => Sys2Proof.Machine.execSt o s
  | .stB0 o => Sys2Proof.Machine.execStB0 o s
  | .ldu o => Sys2Proof.Machine.execLdu o s
  | .atomAdd o => Sys2Proof.Machine.execAtomAdd o s
  | .atomMin o => Sys2Proof.Machine.execAtomMin o s
  | .atomMax o => Sys2Proof.Machine.execAtomMax o s
  | .atomAnd o => Sys2Proof.Machine.execAtomAnd o s
  | .atomOr o => Sys2Proof.Machine.execAtomOr o s
  | .atomXor o => Sys2Proof.Machine.execAtomXor o s
  | .atomXchg o => Sys2Proof.Machine.execAtomXchg o s
  | .atomCas o => Sys2Proof.Machine.execAtomCas o s
  | .atomrAdd o => Sys2Proof.Machine.execAtomrAdd o s
  | .atomrMin o => Sys2Proof.Machine.execAtomrMin o s
  | .atomrMax o => Sys2Proof.Machine.execAtomrMax o s
  | .atomrAnd o => Sys2Proof.Machine.execAtomrAnd o s
  | .atomrOr o => Sys2Proof.Machine.execAtomrOr o s
  | .atomrXor o => Sys2Proof.Machine.execAtomrXor o s
  | .atomrXchg o => Sys2Proof.Machine.execAtomrXchg o s
  | .atomrCas o => Sys2Proof.Machine.execAtomrCas o s
  | .redniAdd o => Sys2Proof.Machine.execRedniAdd o s
  | .redniSmin o => Sys2Proof.Machine.execRedniSmin o s
  | .redniSmax o => Sys2Proof.Machine.execRedniSmax o s
  | .redniUmin o => Sys2Proof.Machine.execRedniUmin o s
  | .redniUmax o => Sys2Proof.Machine.execRedniUmax o s
  | .redniAnd o => Sys2Proof.Machine.execRedniAnd o s
  | .redniOr o => Sys2Proof.Machine.execRedniOr o s
  | .redniXor o => Sys2Proof.Machine.execRedniXor o s
  | .rednfF32Any o => Sys2Proof.Machine.execRednfF32Any o s
  | .rednfBf16Any o => Sys2Proof.Machine.execRednfBf16Any o s
  | .rednfF16Any o => Sys2Proof.Machine.execRednfF16Any o s
  | .rednfF32Ord o => Sys2Proof.Machine.execRednfF32Ord o s
  | .rednfBf16Ord o => Sys2Proof.Machine.execRednfBf16Ord o s
  | .rednfF16Ord o => Sys2Proof.Machine.execRednfF16Ord o s
  | .rednfCellz o => Sys2Proof.Machine.execRednfCellz o s
  | .bewAdds o => Sys2Proof.Machine.execBewAdds o s
  | .bewMuls o => Sys2Proof.Machine.execBewMuls o s
  | .bewFmas o => Sys2Proof.Machine.execBewFmas o s
  | .bewMaxs o => Sys2Proof.Machine.execBewMaxs o s
  | .bewMins o => Sys2Proof.Machine.execBewMins o s
  | .cellrdF32 o => Sys2Proof.Machine.execCellrdF32 o s
  | .cellrdBf16 o => Sys2Proof.Machine.execCellrdBf16 o s
  | .cellrdRaw o => Sys2Proof.Machine.execCellrdRaw o s
  | .fence f c => Sys2Proof.Machine.execFence f c s
  | .pref f w a ma l => Sys2Proof.Machine.execPref f w a ma l s
  | .wsetG f w a => Sys2Proof.Machine.execWsetG f w a s
  | .wsetL f w a => Sys2Proof.Machine.execWsetL f w a s
  | .wsetA f w a => Sys2Proof.Machine.execWsetA f w a s
  | .winv f w => Sys2Proof.Machine.execWinv f w s
  | .winvAll f => Sys2Proof.Machine.execWinvAll f s
  | .cpyGl f dw sw a => Sys2Proof.Machine.execCpyGl f dw sw a s
  | .cpyLg f dw sw a => Sys2Proof.Machine.execCpyLg f dw sw a s
  | .cpyGg f dw sw a => Sys2Proof.Machine.execCpyGg f dw sw a s
  | .cpyTgl f dw sw a => Sys2Proof.Machine.execCpyTgl f dw sw a s
  | .cpyTlg f dw sw a => Sys2Proof.Machine.execCpyTlg f dw sw a s
  | .cpyb f d => Sys2Proof.Machine.execCpyb f d s
  | .cpyw f a => Sys2Proof.Machine.execCpyw f a s
  | .bar d => Sys2Proof.Machine.execBar d s
  | .gbara d => Sys2Proof.Machine.execGbara d s
  | .gbarw d => Sys2Proof.Machine.execGbarw d s
  | .sema c w a d => Sys2Proof.Machine.execSema c w a d s
  | .semr c w a d => Sys2Proof.Machine.execSemr c w a d s
  | .signalAdd w a d => Sys2Proof.Machine.execSignalAdd w a d s
  | .signalSet w a d => Sys2Proof.Machine.execSignalSet w a d s
  | .emit f w a d ma => Sys2Proof.Machine.execEmit f w a d ma s
  | .recv f w a d => Sys2Proof.Machine.execRecv f w a d s
  | .close f a => Sys2Proof.Machine.execClose f a s
  | .mcst f ma z b a d => Sys2Proof.Machine.execMcst f ma z b a d s
  | .mldredBf16Ord f ma q b a d => Sys2Proof.Machine.execMldredBf16Ord f ma q b a d s
  | .mldredF32Ord f ma q b a d => Sys2Proof.Machine.execMldredF32Ord f ma q b a d s
  | .mldredBf16Any f ma q b a d => Sys2Proof.Machine.execMldredBf16Any f ma q b a d s
  | .mldredF32Any f ma q b a d => Sys2Proof.Machine.execMldredF32Any f ma q b a d s
  | .fmark f a => Sys2Proof.Machine.execFmark f a s
  | .gang a => Sys2Proof.Machine.execGang a s
  | .macq => Sys2Proof.Machine.execMacq s
  | .mrel => Sys2Proof.Machine.execMrel s
  | .mma ma b a t => Sys2Proof.Machine.execMma ma b a t s
  | .gfill w a d => Sys2Proof.Machine.execGfill w a d s
  | .tzero t => Sys2Proof.Machine.execTzero t s
  | .tfree t => Sys2Proof.Machine.execTfree t s
  | .tfreeAll => Sys2Proof.Machine.execTfreeAll s
  | .tredAdd src t => Sys2Proof.Machine.execTredAdd src t s
  | .tredRow src d => Sys2Proof.Machine.execTredRow src d s
  | .tmovr c n t d => Sys2Proof.Machine.execTmovr c n t d s
  | .tmovw c n t d => Sys2Proof.Machine.execTmovw c n t d s
  | .tcvt r fmt q t d => Sys2Proof.Machine.execTcvt r fmt q t d s
  | .spb f n w a d => Sys2Proof.Machine.execSpb f n w a d s
  | .fla f n w a d => Sys2Proof.Machine.execFla f n w a d s
  | .vfree ma c a => Sys2Proof.Machine.execVfree ma c a s
  | .hint m mb ma b a d k u => Sys2Proof.Machine.execHint m mb ma b a d k u s
  | .portRetrainRequest port => Sys2Proof.Machine.execPortRetrainRequest port s
  | .bridgeLinkDown down => Sys2Proof.Machine.execBridgeLinkDown down s
  | .mainPowerRemoval => Sys2Proof.Machine.execMainPowerRemoval s
  | .reservedEncoding c => Sys2Proof.Machine.execReservedEncoding c s
  | .instructionFetchFault => Sys2Proof.Machine.execInstructionFetchFault s

end Sys2Proof.Machine
end

