-- ==== Sys2Proof/Machine/Fetch.lean ====
section
/-!
DEFINITION. Fetching the instruction at the program counter (R199, R46), when a cohort may issue (R330 to
R332), and placing one instruction where the next step fetches (log entry 10).
-/
namespace Sys2Proof.Machine

/-- The instruction that bytes decode to; an encoding that cannot execute is the row that raises its cause. -/
noncomputable def instrOf (bs : List Byte) : Instr :=
  match decode bs with
  | .ok (i, _) => i
  | .error (.ill c) => .reservedEncoding c
  | .error .short => .instructionFetchFault

/-- Fetch parcels from an address, the first at it (R199). -/
def State.fetchParcels (s : State) (va : Nat) : Nat → State × Option (List Byte)
  | 0 => (s, some [])
  | n + 1 =>
    match s.fetchParcel s.me.priv va with
    | (s, some p) =>
      match s.fetchParcels (va + 2) n with
      | (s, some q) => (s, some (p ++ q))
      | (s, none) => (s, none)
    | (s, none) => (s, none)

/-- Whether the first parcel begins a 32-bit word (R199). -/
def isLong (bs : List Byte) : Bool := (bs.getD 0 0#8).getLsbD 0

/-- Whether a word is one of MCST and MLDRED (Table 8-9). -/
def isGroupWord (w : Word) : Bool := w.extractLsb' 2 6 == 0x28#6 && (w.extractLsb' 28 3).ult 5#3 && w.getLsbD 0

/-- The instruction of a word as the device stands: of one that cannot execute while its feature is off, the cause is OPC, the
first in the order of R217. -/
noncomputable def State.instrAt (s : State) (bs : List Byte) : Instr :=
  match instrOf bs with
  | .reservedEncoding c => if !s.dev.mcastOn && isGroupWord (wordOf bs) then .reservedEncoding .opc else .reservedEncoding c
  | i => i

/-- Fetch the instruction at the pc: 16 bits, a word, or a word and its literal (R199, R204). A parcel whose fetch
does not perform is the row that raises #PF FETCH (R46). -/
noncomputable def State.fetchHere (s : State) : State × Instr :=
  match s.fetchParcels s.me.pc.toNat 1 with
  | (s, none) => (s, .instructionFetchFault)
  | (s, some p) =>
    if isLong p then
      match s.fetchParcels (s.me.pc.toNat + 2) 1 with
      | (s, none) => (s, .instructionFetchFault)
      | (s, some q) =>
        if hasLiteral (Raw.ofWord (wordOf (p ++ q)) 0#32) then
          match s.fetchParcels (s.me.pc.toNat + 4) 2 with
          | (s, none) => (s, .instructionFetchFault)
          | (s, some l) => (s, instrOf (p ++ q ++ l))
        else (s, s.instrAt (p ++ q))
    else (s, instrOf p)

/-- Whether an instruction may stand at the entry point of a role: a clause header, valid or not, or one that is not fetched (R209,
R210). -/
def mayEnter (i : Instr) : Bool :=
  match i with
  | .clauseHeader _ | .reservedEncoding .hdr | .instructionFetchFault => true
  | _ => false

/-- Fetch what the cohort issues next: at the entry point of its role the target is checked, then fetched, then must be a clause
header, and otherwise raises #ILL TARGET (R210; that the trap is raised there, before the first instruction, is DEDUCED, log entry 85). -/
noncomputable def State.fetch (s : State) : State × Instr :=
  if s.me.atEntry && (s.me.pc.getLsbD 0 || (s.me.pc.getLsbD 55 && !s.me.priv)) then (s, .reservedEncoding .target)
  else
    let p := s.fetchHere
    if s.me.atEntry && !mayEnter p.2 then (p.1, .reservedEncoding .target) else p

/-- Whether a stop that is due lets the cohort issue its next instruction: one due at a pre-emption point does until the point
is reached, one due at a boundary does while the handler runs, and one due at the end of a chunk does inside it (R52, R383,
R384, R403). -/
def Cohort.goesOn (c : Cohort) : Bool :=
  decide (c.stopDue ≤ 1) || (c.handler && (c.stopDue == 2 || c.stopDue == 7)) || (c.stopDue == 6 && c.chunkN != 0)

/-- Whether the current cohort may issue: it runs, is in the active set, its company is on a core, no fabric failure or
breakpoint is to be delivered first (in a replay a failure waits for its record), and no stop is due at this boundary (R330, R378, R383, R403). -/
def State.canIssue (s : State) : Bool :=
  s.me.stat == .running && s.me.active && (s.me.goesOn || s.stopBarred) && (s.me.fab.isEmpty || s.replayBars [4]) && s.co.coreOf.isSome && s.breakpoint.isNone

/-- An instruction held at issue counts in ILCNT once (R212); a fence whose accesses are performed retires meanwhile (R106). -/
def State.hold (s : State) (i : Instr) : State :=
  (if s.uncounted i && !s.me.held then { s with me := { s.me.ilcnt with held := true } } else s).settle

/-- The event that performs an operation of a cohort, at its first lane that is not performed (R96, R103, R70). -/
def MemOp.event (o : MemOp) : Option Instr :=
  let lane := ((o.lanes.find? fun l => !l.sent).map (·.lane)).getD 0
  match o.stage, o.kind with
  | .performed, _ => none
  | _, .load _ => some (.loadReturn o.id lane)
  | _, .ldu _ => some (.loadReturn o.id lane)
  | _, .fla _ => some (.loadReturn o.id lane)
  | _, .mldred _ _ _ => some (.loadReturn o.id lane)
  | _, .fetch => if o.lanes.all (·.sent) then none else some (.loadReturn o.id lane)
  | _, .rmw _ _ => some (.bankOperation o.id lane)
  | _, .fence => none
  | _, _ => some (.storePerform o.id lane)

/-- What may happen where no turn is listed and the current cohort cannot issue, in the order in which the model tries it: its
own operations, traps, stops and waits, then its company's and core's work, then copies (log entry 2). -/
def State.idleEvents (s : State) : List Instr :=
  let d := s.co.dseq
  let j := s.me.j
  s.me.ops.filterMap MemOp.event
    ++ [.cbkptTrap d j, .inLaneTrapEntry d j, .fabTrap d j, .preemptStop d j, .semaGrant d j, .emitAppend d j]
    ++ s.co.fired.map (fun x => .mmaTileRetire d (BitVec.ofNat 4 x.tile)) ++ s.dev.fills.map (fun f => .galleryFillComplete f.id)
    ++ s.dev.pieces.map (fun p => .copyPiece p.id) ++ [.enginePass s.core, .activeSetFill d j, .waittimeExpiry d j]
    ++ [.companyRetire d, .forcedSpill d, .reload d, .companySave d]
    ++ (s.dev.fabric.inbound.filter fun i => !i.waiting.isEmpty).map (fun i => .markerRelease i.src)
    ++ s.dev.fabric.late.map (fun x => .fabricPacketArrival x.1 x.2)
    ++ ((List.range 16).filter fun m => !(s.dev.portAt (64 + m)).buffer.isEmpty).map fun m => .flitReceive (64 + m)
        { seq := 0, ack := ((s.dev.portAt (64 + m)).txnext + 4095) % 4096, kind := 1, enc := false, evenErrors := 0, oddErrors := 0
          crcOk := true, gcmOk := true, packets := [] }

/-- Whether a row of the table is an event, one that a turn may name: it has no word and no fetch raises it. -/
def isEvent (i : Instr) : Bool :=
  match i with
  | .reservedEncoding _ => false
  | .instructionFetchFault => false
  | i => (encode i).isNone

/-- Whether a turn applies main power (R436). -/
def isPowerOn (i : Instr) : Bool :=
  match i with
  | .powerOn => true
  | _ => false

/-! ## Placing one instruction -/

/-- The 64 KiB frame that `withFetchWord` uses for code. -/
def codeFrame : Nat := 0x10000

/-- The page of the pc and the next, mapped executable onto two frames of HBM4 (log entry 10). -/
def codePage (asid : Nat) (pc : VAddr) : TlbEntry :=
  { va := pc.toNat / 0x10000 * 0x10000, size := 0x20000, asid := asid, global := false, home := 0x3FF, off := codeFrame,
    r := false, w := false, x := true, d := false }

/-- The bytes of an instruction whose low bits are `w`, with zeros up to the longest instruction. -/
def fetchBytesOf (nbits w : Nat) : List Byte := leBytes (nbits / 8) w ++ List.replicate (8 - nbits / 8) 0#8

/-- Store an instruction where the next step fetches it, and let the current cohort fetch (log entry 10). -/
def placeWord (s : State) (nbits w : Nat) : State :=
  { s with
    dev := { s.dev with
      tlb := codePage s.co.asid s.me.pc :: s.dev.tlb
      mem := Store.setRun 0#8 s.dev.mem (codeFrame + s.me.pc.toNat % 0x10000) (fetchBytesOf nbits w)
      halls := s.dev.halls.map fun h => { h with inval := [] }
      boot := { s.dev.boot with powered := true } }
    cx := { s.cx with alive := true, stat := .live }
    co := { s.co with place := if s.co.coreOf.isSome then s.co.place else .core 0, fired := [] }
    me := { s.me with stat := .running, active := true, atEntry := false, stopDue := 0, wait := .none, ops := [], f := [] }
    turns := [] }

end Sys2Proof.Machine
end

