-- ==== Sys2Proof/Machine/Idle.lean ====
section
/-!
DEFINITION. What the machine does where no turn is listed: the current cohort issues, else the first event that changes anything
happens (log entry 2).
-/
namespace Sys2Proof.Machine

/-- The first event of a list that changes the state; the state as it is where none does. -/
def firstEffect (s : State) : List Instr → Out
  | [] => .next s
  | e :: es => match exec e s with
    | .next t => if t = s then firstEffect s es else .next t
    | o => o

/-- The current cohort issues the instruction at its pc, or an interlock holds it (R212, R330). -/
noncomputable def issue (s : State) : Out :=
  if s.canIssue then
    let p := s.fetch
    if p.1.stalls p.2 then .next (p.1.hold p.2) else exec p.2 p.1
  else .next s

/-- A step where no turn is listed. -/
noncomputable def idle (s : State) : Out :=
  if s.canIssue then
    let p := s.fetch
    if p.1.stalls p.2 then
      let t := p.1.hold p.2
      firstEffect t t.idleEvents
    else exec p.2 p.1
  else firstEffect s s.idleEvents

end Sys2Proof.Machine
end

