-- ==== Sys2Proof/Machine/Step.lean ====
section
/-!
DEFINITION. One step of the machine: the next turn acts; where none is listed the current cohort issues, or
an operation of it is performed (log entry 2).
-/
namespace Sys2Proof.Machine

/-- One step: the head of `turns`, or `idle` where there is none; without main power only its application acts. -/
noncomputable def step (s : State) : Host.Outcome State Fault Refusal :=
  match s.turns with
  | [] => if s.dev.boot.powered then idle s else .fault .noPower
  | .event i :: rest =>
    if s.dev.boot.powered || isPowerOn i then
      if isEvent i then exec i { s with turns := rest } else .next { s with turns := rest }
    else .fault .noPower
  | .issue dseq j :: rest =>
    if s.dev.boot.powered then
      let t := State.focus { s with turns := rest } dseq j
      if t.isAt dseq j then issue t else .next t
    else .fault .noPower

/-- A state whose next step fetches and runs one instruction, given by its low bits. -/
def State.withFetchWord (s : State) (nbits w : Nat) : State := placeWord s nbits w

end Sys2Proof.Machine
end

