-- ==== Sys2Proof/Safety.lean ====
section
/-!
DEFINITION. What counts as a safe run: the hard-wired and sparse parts of the state are in their canonical
form, and a step ends in a next state.
-/
namespace Sys2Proof.Machine

/-- The canonical form of memory (Host.Cell pairs, keys strictly rising, no zero byte listed). -/
abbrev Memory.wf (m : List Host.Cell) : Prop := Store.wf (0#8) m = true

/-- A step that ends in a next state. -/
def Runs (s : State) : Prop := ∃ t, step s = .next t

/-! ## What an instruction leaves as it was -/

/-- A cohort apart from what every retiring instruction moves: the pc, the counts, the run of faults, the hold and the wait. -/
def Cohort.quiet (c : Cohort) : Cohort := { c with pc := 0#56, icount := 0, chunkN := 0, faults := 0, held := false, wait := .none }

/-- An instruction of `n` bytes retired: the pc passed it, it was counted, and the cohort waits for nothing (R389). -/
structure Retired (s t : State) (n : Nat) : Prop where
  pc : t.me.pc = s.me.pc + BitVec.ofNat 56 n
  icount : t.me.icount = s.me.icount + 1
  wait : t.me.wait = .none

/-- Nothing outside the current cohort changed but the operation counters of its context (R409): no byte of memory, no control
register, no other cohort, nothing of the company. -/
structure Inside (s t : State) : Prop where
  dev : t.dev = s.dev
  byte : ∀ a, t.dev.byte a = s.dev.byte a
  co : t.co = s.co
  cx : t.cx = { s.cx with cnt := t.cx.cnt, sat := t.cx.sat }
  turns : t.turns = s.turns
  free : t.free = s.free

/-! ## Lane instructions -/

/-- A lane instruction executes: no active lane consumes poison (R380), and its destination has a register or gets one from the
floor or the pool (R206). -/
structure LaneReady (s : State) (u : Bool) (vs ss frees : List Nat) (d : Nat) : Prop where
  clean : s.me.mce u vs ss = 0#64
  room : s.me.act = 0#64 ∨ (s.me.freeAll frees).allocated d = true ∨ (s.setMe (s.me.freeAll frees)).canAlloc 1 = true

/-- What a lane instruction of `n` bytes with vector destination `d`, sources `vs` and last-read marks on `frees` leaves, where
`res i` is what the word of lane `i` becomes (R205 to R208); a write of the whole word clears its poison (`full`, R381). -/
structure LaneDone (s t : State) (n d : Nat) (vs frees : List Nat) (full : Bool) (res : Nat → Word) : Prop where
  retired : Retired s t n
  inside : Inside s t
  active : ∀ i, i < 64 → s.me.act.getLsbD i = true → (t.me.vget d).lane i = res i
  inactive : ∀ i, i < 64 → s.me.act.getLsbD i = false → (t.me.vget d).lane i = if d ∈ frees then 0#32 else (s.me.vget d).lane i
  poison : (t.me.vget d).poison = (if d ∈ frees then 0#64 else (s.me.vget d).poison) &&& ~~~ (if full then s.me.act else 0#64)
  named : s.me.act ≠ 0#64 → t.me.allocated d = true
  freed : ∀ r ∈ frees, r ≠ d → t.me.allocated r = false
  others : ∀ r, r ≠ d → r ∉ frees → t.me.vget r = s.me.vget r ∧ t.me.allocated r = s.me.allocated r
  diag : t.me.cr = (s.me.unalloc (s.me.misses vs)).cr
  rest : { t.me.quiet with v := s.me.v, cr := s.me.cr } = s.me.quiet

/-- The names that the last-read marks of a two-source instruction free (R205). -/
def marks2 (o : Lane2) : List Nat := (if o.ma then [o.a.toNat] else []) ++ (if o.mb then o.b.vs else [])

/-- Two-source lane instructions: wherever one may execute it ends in a next state in which each active lane of vd holds `f a b`,
with a and b those of the lane, or of the lowest active lane under U = 1. -/
def Lane2Does (mk : Lane2 → Instr) (f : Word → Word → Word) : Prop :=
  ∀ (o : Lane2) (s : State), LaneReady s o.u (o.a.toNat :: o.b.vs) o.b.ss (marks2 o) o.d.toNat →
    ∃ t, exec (mk o) s = .next t ∧ LaneDone s t o.b.len o.d.toNat (o.a.toNat :: o.b.vs) (marks2 o) true
      (fun i => f ((s.me.vget o.a.toNat).lane (s.me.src o.u i)) (o.b.rd s.me (s.me.src o.u i)))

/-- As `Lane2Does`, for an instruction that also reads vd: `f d a b`. -/
def Lane3Does (mk : Lane2 → Instr) (f : Word → Word → Word → Word) : Prop :=
  ∀ (o : Lane2) (s : State), LaneReady s o.u (o.d.toNat :: o.a.toNat :: o.b.vs) o.b.ss (marks2 o) o.d.toNat →
    ∃ t, exec (mk o) s = .next t ∧ LaneDone s t o.b.len o.d.toNat (o.d.toNat :: o.a.toNat :: o.b.vs) (marks2 o) true
      (fun i => f ((s.me.vget o.d.toNat).lane (s.me.src o.u i)) ((s.me.vget o.a.toNat).lane (s.me.src o.u i))
        (o.b.rd s.me (s.me.src o.u i)))

/-- As `Lane2Does`, for a unary instruction: `f b`. -/
def Lane1Does (mk : Lane1 → Instr) (f : Word → Word) : Prop :=
  ∀ (o : Lane1) (s : State), LaneReady s o.u o.b.vs o.b.ss (if o.mb then o.b.vs else []) o.d.toNat →
    ∃ t, exec (mk o) s = .next t ∧ LaneDone s t o.b.len o.d.toNat o.b.vs (if o.mb then o.b.vs else []) true
      (fun i => f (o.b.rd s.me (s.me.src o.u i)))

/-- A 16-bit instruction: vd becomes `f vd vs` in each active lane. -/
def ShortDoes (mk : Op16 → Instr) (f : Word → Word → Word) : Prop :=
  ∀ (o : Op16) (s : State), LaneReady s o.u [o.d.toNat, o.s.toNat] [] [] o.d.toNat →
    ∃ t, exec (mk o) s = .next t ∧ LaneDone s t 2 o.d.toNat [o.d.toNat, o.s.toNat] [] true
      (fun i => f ((s.me.vget o.d.toNat).lane (s.me.src o.u i)) ((s.me.vget o.s.toNat).lane (s.me.src o.u i)))

/-- A unary 16-bit instruction: vd becomes `f vs` in each active lane. -/
def Short1Does (mk : Op16 → Instr) (f : Word → Word) : Prop :=
  ∀ (o : Op16) (s : State), LaneReady s o.u [o.s.toNat] [] [] o.d.toNat →
    ∃ t, exec (mk o) s = .next t ∧ LaneDone s t 2 o.d.toNat [o.s.toNat] [] true
      (fun i => f ((s.me.vget o.s.toNat).lane (s.me.src o.u i)))

/-! ## Predicates, scalars, shuffles and reductions -/

/-- The vector names after last-read marks on `frees`, with cr.diag as reads of `vs` leave it (R205, R206, R225). -/
structure Freed (s t : State) (vs frees : List Nat) : Prop where
  gone : ∀ r ∈ frees, t.me.allocated r = false
  others : ∀ r, r ∉ frees → t.me.vget r = s.me.vget r ∧ t.me.allocated r = s.me.allocated r
  diag : t.me.cr = (s.me.unalloc (s.me.misses vs)).cr

/-- A compare: where no active lane consumes poison, the bit of each active lane of pd says whether `P a b` holds, every other
bit and predicate is kept, and p0 reads all ones (R207, R214, R230). -/
def CompareDoes (mk : Lane2 → Instr) (P : Word → Word → Prop) : Prop :=
  ∀ (o : Lane2) (s : State), s.me.mce o.u (o.a.toNat :: o.b.vs) o.b.ss = 0#64 →
    ∃ t, exec (mk o) s = .next t ∧ Retired s t o.b.len ∧ Inside s t ∧ Freed s t (o.a.toNat :: o.b.vs) (marks2 o) ∧
      (∀ i, i < 64 → s.me.act.getLsbD i = true → o.d.toNat ≠ 0 → ((t.me.pget o.d.toNat).getLsbD i = true ↔
        P ((s.me.vget o.a.toNat).lane (s.me.src o.u i)) (o.b.rd s.me (s.me.src o.u i)))) ∧
      (∀ i, i < 64 → s.me.act.getLsbD i = false → (t.me.pget o.d.toNat).getLsbD i = (s.me.pget o.d.toNat).getLsbD i) ∧
      (∀ p, p ≠ o.d.toNat → t.me.pget p = s.me.pget p) ∧ t.me.pget 0 = BitVec.allOnes 64 ∧
      { t.me.quiet with v := s.me.v, cr := s.me.cr, p := s.me.p } = s.me.quiet

/-- Whether an FP32 word is a NaN. -/
abbrev IsNan (a : Word) : Prop := value a.toNat .fp32 = .nan
/-- Whether an FP32 word is below another as a value. -/
abbrev Below (a b : Word) : Prop := (value a.toNat .fp32).lt (value b.toNat .fp32) = true

/-- An instruction of the cohort that changes only its scalars (R207). -/
structure ScalarFrame (s t : State) (n : Nat) : Prop where
  retired : Retired s t n
  inside : Inside s t
  rest : { t.me.quiet with s := s.me.s, sp := s.me.sp } = s.me.quiet

/-- Scalar `d` holds `x` and no poison; every other scalar is as it was (R207, R381). -/
structure Scalar1 (s t : State) (d : Nat) (x : Word) : Prop where
  value : t.me.sget d = x
  others : ∀ r, r ≠ d → t.me.sget r = s.me.sget r
  poison : ∀ r, r < 64 → t.me.spoison r = (s.me.spoison r && decide (r ≠ d))

/-- The pair from scalar `d` holds `x`, low word first (R5); every other scalar is as it was. -/
structure Scalar2 (s t : State) (d : Nat) (x : DWord) : Prop where
  low : t.me.sget d = x.extractLsb' 0 32
  high : t.me.sget (d + 1) = x.extractLsb' 32 32
  others : ∀ r, r ≠ d → r ≠ d + 1 → t.me.sget r = s.me.sget r
  poison : ∀ r, r < 64 → t.me.spoison r = (s.me.spoison r && decide (r ≠ d ∧ r ≠ d + 1))

/-- A scalar ALU instruction: where its sources hold no poison, sd becomes `f a b`, whatever em holds (R242). -/
def ScalarDoes (mk : Reg → Reg → SOp → Instr) (f : Word → Word → Word) : Prop :=
  ∀ (d a : Reg) (b : SOp) (s : State), (∀ r ∈ a.toNat :: b.ss, s.me.spoison r = false) →
    ∃ t, exec (mk d a b) s = .next t ∧ ScalarFrame s t b.len ∧ Scalar1 s t d.toNat (f (s.me.sget a.toNat) (b.rd s.me))

/-- A 64-bit scalar instruction on pairs; a literal is sign-extended (R242). -/
def ScalarPairDoes (mk : Reg → Reg → SOp → Instr) (f : DWord → DWord → DWord) : Prop :=
  ∀ (d a : Reg) (s : State), s.me.spoison a.toNat = false → s.me.spoison (a.toNat + 1) = false →
    (∀ b : Reg, s.me.spoison b.toNat = false → s.me.spoison (b.toNat + 1) = false →
      ∃ t, exec (mk d a (.s b)) s = .next t ∧ ScalarFrame s t 4 ∧ Scalar2 s t d.toNat
        (f (s.me.sget (a.toNat + 1) ++ s.me.sget a.toNat) (s.me.sget (b.toNat + 1) ++ s.me.sget b.toNat))) ∧
    (∀ w : Word, ∃ t, exec (mk d a (.lit w)) s = .next t ∧ ScalarFrame s t 8 ∧ Scalar2 s t d.toNat
        (f (s.me.sget (a.toNat + 1) ++ s.me.sget a.toNat) (w.signExtend 64)))

/-- An instruction that writes predicate `d` whatever em holds: p0 discards it (R203, R244). -/
structure PredDone (s t : State) (d : Nat) (x : Mask) : Prop where
  retired : Retired s t 4
  inside : Inside s t
  value : t.me.pget d = if d = 0 then BitVec.allOnes 64 else x
  others : ∀ r, r ≠ d → t.me.pget r = s.me.pget r
  rest : { t.me.quiet with p := s.me.p } = s.me.quiet

/-- A shuffle whose lane `i` reads lane `src i` (R248): a source lane that is not present gives 0, poison of a source lane is
consumed, and the marks free a and b. -/
def ShuffleDoes (mk : Shfl → Instr) (one : Bool) (src : Nat → Nat → Nat) : Prop :=
  ∀ (o : Shfl) (s : State),
    let pick (i : Nat) : Nat := src i (o.b.rd s.me (if one then (lowestLane s.me.act).getD 0 else i)).toNat
    let frees := (if o.ma then [o.a.toNat] else []) ++ (if o.mb then o.b.vs else [])
    s.me.mce one o.b.vs o.b.ss = 0#64 →
    (∀ i, i < 64 → s.me.act.getLsbD i = true → s.me.present.getLsbD (pick i) = true →
      (s.me.vget o.a.toNat).poison.getLsbD (pick i) = false) →
    (s.me.act = 0#64 ∨ (s.me.freeAll frees).allocated o.d.toNat = true ∨ (s.setMe (s.me.freeAll frees)).canAlloc 1 = true) →
    ∃ t, exec (mk o) s = .next t ∧ LaneDone s t o.b.len o.d.toNat (o.a.toNat :: o.b.vs) frees true
      (fun i => if s.me.present.getLsbD (pick i) = true then (s.me.vget o.a.toNat).lane (pick i) else 0#32)

/-- A lane reduction: where no active lane holds poison, sd becomes `f` of the words of the active lanes in ascending order (R249). -/
def ReduceDoes (mk : Reg → Reg → Bool → Instr) (f : List Word → Word) : Prop :=
  ∀ (d a : Reg) (ma : Bool) (s : State), s.me.mce false [a.toNat] [] = 0#64 →
    ∃ t, exec (mk d a ma) s = .next t ∧ Retired s t 4 ∧ Inside s t ∧
      Freed s t [a.toNat] (if ma then [a.toNat] else []) ∧
      Scalar1 s t d.toNat (f (((List.range 64).filter fun i => s.me.act.getLsbD i).map fun i => (s.me.vget a.toNat).lane i)) ∧
      { t.me.quiet with v := s.me.v, cr := s.me.cr, s := s.me.s, sp := s.me.sp } = s.me.quiet

/-! ## Number formats -/

/-- The value of an FP32 word (R157). -/
def V32 (a : Word) : Val := value a.toNat .fp32
/-- A value rounded once to FP32, to nearest even (R163, R226). -/
def R32 (v : Val) : Word := BitVec.ofNat 32 (roundRN .fp32 v)
/-- Half `h` of a word as a value of a 16-bit format (R160). -/
def V16 (g : Fmt) (a : Word) (h : Nat) : Val := value (a.extractLsb' (16 * h) 16).toNat g
/-- A value rounded once to a 16-bit format. -/
def R16 (g : Fmt) (v : Val) : BitVec 16 := BitVec.ofNat 16 (roundRN g v)
/-- The canonical NaN of FP32. -/
def qnan : Word := 0x7FC00000#32
/-- A minimum or maximum (R232): of two NaNs qnan, of one NaN the other input, else one of the inputs, beyond which
(`out x y`: `x` lies beyond `y`) neither input lies; `-0` counts as below `+0`. -/
def PicksInput (f : Word → Word → Word) (out : Word → Word → Prop) (zero : Word) : Prop :=
  (∀ a b, IsNan a → IsNan b → f a b = qnan) ∧ (∀ a b, IsNan a → ¬ IsNan b → f a b = b) ∧ (∀ a b, ¬ IsNan a → IsNan b → f a b = a) ∧
  (∀ a b, ¬ IsNan a → ¬ IsNan b → (f a b = a ∨ f a b = b) ∧ ¬ out a (f a b) ∧ ¬ out b (f a b)) ∧
  f 0#32 0x80000000#32 = zero ∧ f 0x80000000#32 0#32 = zero
/-- A rounding to an integral value (R233): NaN gives qnan, infinities, zeros and magnitudes without a fraction stay, and
`± m / 2^k` becomes the encoding of `± n` where `P (± m) (2^k) (± n)`. -/
def RoundsIntegral (f : Word → Word) (P : Int → Int → Int → Prop) : Prop :=
  (∀ b, IsNan b → f b = qnan) ∧ (∀ b, (V32 b).isInf = true → f b = b) ∧
  (∀ b s e, V32 b = .fin s 0 e → f b = b) ∧
  (∀ b s m k, V32 b = .fin s m (Int.ofNat k) → f b = b) ∧
  (∀ b s m k, m ≠ 0 → V32 b = .fin s m (-(Int.ofNat k)) → ∃ n : Nat, f b = R32 (.fin s n 0) ∧
    P (if s then -(m : Int) else m) (2 ^ k : Nat) (if s then -(n : Int) else n))

/-! ## Conversions -/

/-- The key and step that an SR instruction of the current cohort uses: the context's, or, around a change by another cohort, those before it (R172). -/
def SrPair (s : State) (kv : List Word × Word) : Prop :=
  kv = (s.cx.key, s.cx.step) ∨ s.cx.srStale.contains (s.co.dseq, s.me.j) = true ∧ kv = s.cx.srOld

/-- The SR word of coordinate base + k of the current cohort (R171, R238): word 0 of srg of a key and the counter (cr.srtid, coord[31:0],
coord[63:32], step). -/
def srWordOf (s : State) (kv : List Word × Word) (k : Nat) : Word :=
  let coord : DWord := (s.me.crget 0x18 ++ s.me.crget 0x17) + BitVec.ofNat 64 k
  (srg { x0 := kv.1.getD 0 0#32, x1 := kv.1.getD 1 0#32, x2 := kv.1.getD 2 0#32, x3 := kv.1.getD 3 0#32 }
    { x0 := s.me.crget 0x16, x1 := coord.extractLsb' 0 32, x2 := coord.extractLsb' 32 32, x3 := kv.2 }).x0

/-- The rounding mode of a code 0 to 4 (Table 6-2). -/
def modeNamed (r : BitVec 3) : RMode :=
  if r = 0#3 then .rn else if r = 1#3 then .rz else if r = 2#3 then .ru else if r = 3#3 then .rd else .sr

/-- What the key-use filter and the cohort hold after one sr_check of (cr.srtid, cr.lseq) at state `u`, in a context that is not
recorded and whose warnings are not entered (R174, R377). -/
def SrChecked (u t : State) : Prop :=
  let tid := u.me.crget 0x16
  (∀ prev, u.cx.filter.find? (fun e => e.1 == tid) = some (tid, prev) → prev = u.co.lseq → t = u) ∧
  (u.cx.filter.find? (fun e => e.1 == tid) = none → t = { u with cx := { u.cx with
    filter := (if 64 ≤ u.cx.filter.length then u.cx.filter.drop 1 else u.cx.filter) ++ [(tid, u.co.lseq)]
    srwEvict := u.cx.srwEvict || decide (64 ≤ u.cx.filter.length) } }) ∧
  (∀ prev, u.cx.filter.find? (fun e => e.1 == tid) = some (tid, prev) → prev ≠ u.co.lseq →
    t.cx = { u.cx with filter := u.cx.filter.map (fun e => if e.1 = tid then (tid, u.co.lseq) else e), srwWarn := true, wstat := t.cx.wstat } ∧
    t.cx.wstat.getLsbD 31 = true ∧ (t.cx.wstat &&& 0xFFFF#32).toNat = min ((u.cx.wstat &&& 0xFFFF#32).toNat + 1) 0xFFFF ∧
    t.me.crget 0x5C = tid ∧ t.me.crget 0x5D = prev ∧ t = { u with cx := t.cx, me := { u.me with cr := t.me.cr } })

/-- A context that is not recorded, whose cohort has no new key or step to see, and whose warnings are not entered. -/
structure SrPlain (s : State) : Prop where
  recorded : s.recording = false
  seen : s.cx.srStale.contains (s.co.dseq, s.me.j) = false
  masked : s.cx.tctl.getLsbD 1 = false
  noSrw : s.me.srw = none

/-- A conversion with code `c` (R236 to R238): the word of each active lane stands in relation `Q` to the mode, the SR words, the
lane read, the old word and the source word. Under .SR a code that rounds makes one sr_check where a lane is active. -/
def CvtDoes (c : Nat) (full rounds : Bool) (Q : RMode → (Nat → Word) → Nat → Word → Word → Word → Prop) : Prop :=
  ∀ (r : BitVec 3) (code d a : Reg) (ma u : Bool) (s : State), r.toNat ≤ 4 → code.toNat = c →
    LaneReady s u [a.toNat] [] (if ma then [a.toNat] else []) d.toNat →
    ∃ v t res kv, exec (.cvt r code d a ma u) s = .next t ∧ SrPair s kv ∧ LaneDone s v 4 d.toNat [a.toNat] (if ma then [a.toNat] else []) full res ∧
      (∀ i, i < 64 → Q (modeNamed r) (srWordOf s kv) (s.me.src u i) ((s.me.vget d.toNat).lane i)
        ((s.me.vget a.toNat).lane (s.me.src u i)) (res i)) ∧
      (r ≠ 4#3 ∨ rounds = false ∨ s.me.act = 0#64 → t = v) ∧
      (r = 4#3 → rounds = true → s.me.act ≠ 0#64 → SrPlain s → SrChecked v t)

/-- Bits [w k + w − 1 : w k] of `x` are `y`, and the others are those of `old`. -/
def SlotPut (w k : Nat) (old x : Word) (y : Nat) : Prop :=
  x.extractLsb' (w * k) w = BitVec.ofNat w y ∧ ∀ j, j < 32 → (j < w * k ∨ w * k + w ≤ j) → x.getLsbD j = old.getLsbD j

/-- An MX quantisation to a format (R239, R166, R167): each active lane holds its block's scale and its own element. -/
def MxQuantDoes (mk : Bool → BitVec 3 → Reg → Reg → Bool → Instr) (f : Fmt) : Prop :=
  ∀ (l : Bool) (r : BitVec 3) (d a : Reg) (ma : Bool) (s : State), r.toNat ≤ 4 →
    LaneReady s false [a.toNat] [] (if ma then [a.toNat] else []) d.toNat →
    ∃ v t kv, exec (mk l r d a ma) s = .next t ∧ SrPair s kv ∧ LaneDone s v 4 d.toNat [a.toNat] (if ma then [a.toNat] else []) true
      (fun i =>
        let ls := (List.range 64).filter fun k => s.me.act.getLsbD k && k / (if l then 16 else 32) == i / (if l then 16 else 32)
        let q := mxQuant f (modeNamed r) (ls.map fun k => (((s.me.vget a.toNat).lane k).toNat, srWordOf s kv k))
        BitVec.ofNat 32 (q.1 * 256 + q.2.getD (ls.idxOf i) 0)) ∧
      (r ≠ 4#3 ∨ s.me.act = 0#64 → t = v) ∧ (r = 4#3 → s.me.act ≠ 0#64 → SrPlain s → SrChecked v t)

/-! ## Control transfers and traps -/

/-- Device `e` is what translations leave of `d`, one after another: A and D in the leaves that they reach, and the TLB (R36, R37). -/
inductive Looked : Device → Device → Prop
  | same (d : Device) : Looked d d
  | look {d e : Device} (asid : Nat) (priv : Bool) (a : Acc) (r : Reach) (va : Nat) :
      Looked (translate d asid priv a r va).1 e → Looked d e

/-- Only translations happened between two states. -/
structure LookedAt (s u : State) : Prop where
  dev : Looked s.dev u.dev
  rest : { u with dev := s.dev } = s

/-- A transfer lands (R210, R250): the target, computed exactly, is even and in the range that the privilege may reach, and the
fetch there, which leaves `u`, gives a clause header. -/
structure Lands (s : State) (target : Int) (u : State) : Prop where
  low : 0 ≤ target
  high : target < 2 ^ 56
  even : target % 2 = 0
  user : s.me.priv = true ∨ target < 2 ^ 55
  header : ∃ w : Word, s.fetchWord s.me.priv target.toNat = (u, some w) ∧ w.getLsbD 0 = true ∧ w.extractLsb' 2 6 = 0#6

/-- One instruction retired and the next is at `pc`; the scalars apart, nothing else of the cohort changed. -/
structure Jumped (s t : State) (pc : VAddr) : Prop where
  pc : t.me.pc = pc
  icount : t.me.icount = s.me.icount + 1
  wait : t.me.wait = .none
  rest : { t.me.quiet with s := s.me.s, sp := s.me.sp } = s.me.quiet
  looked : Looked s.dev t.dev
  others : t.co = s.co ∧ t.cx = s.cx ∧ t.turns = s.turns ∧ t.free = s.free

/-- A relative branch that reads the scalars `ss` and no poison: taken, it lands or raises; not taken, it retires. -/
def BranchDoes (mk : Word → Instr) (ss : List Nat) (taken : Cohort → Prop) : Prop :=
  ∀ (off : Word) (s : State), (∀ r ∈ ss, s.me.spoison r = false) →
    (¬ taken s.me → exec (mk off) s = .next (s.retire 8)) ∧
    (taken s.me → ∀ u, Lands s (s.me.pc.toNat + off.toInt) u → ∃ t, exec (mk off) s = .next t ∧
      Jumped s t (BitVec.ofInt 56 (s.me.pc.toNat + off.toInt)) ∧ t.me.s = s.me.s ∧ t.me.sp = s.me.sp ∧ t.dev = u.dev)

/-- A queue-level trap stops the cohort at its pc with nothing of the instruction performed, and is reported (R375, R376,
Table 14-3). -/
structure Trapped (s t : State) (code sub : Nat) (mask : Mask) (imm : Nat) : Prop where
  stat : t.me.stat = .trapped
  wait : t.me.wait = .none
  cause : t.me.crget 0x50 = BitVec.ofNat 32 (2 * 2 ^ 24 + code * 2 ^ 16 + sub)
  tpc : t.me.crget 0x51 = s.me.pc.extractLsb' 0 32 ∧ t.me.crget 0x52 = (s.me.pc.extractLsb' 32 24).setWidth 32
  tem : t.me.crget 0x53 = s.me.em.extractLsb' 0 32 ∧ t.me.crget 0x54 = s.me.em.extractLsb' 32 32
  tmask : t.me.crget 0x55 = mask.extractLsb' 0 32 ∧ t.me.crget 0x56 = mask.extractLsb' 32 32
  timm : t.me.crget 0x57 = BitVec.ofNat 32 imm
  tclause : t.me.crget 0x58 = s.me.clause
  others : ∀ i, i < 0x50 ∨ 0x58 < i → t.me.crget i = s.me.crget i
  rest : { t.me with stat := s.me.stat, wait := s.me.wait, cr := s.me.cr } = s.me
  cx : t.cx = { s.cx with reports := s.cx.reports ++ [(s.co.dseq, s.me.j, code, s.me.wid)] }
  frame : t.dev = s.dev ∧ t.co = s.co ∧ t.turns = s.turns ∧ t.free = s.free

/-- The fetch of the supervisor handler gives a clause header in the supervisor range (R373). -/
structure HandlerAt (s : State) (u : State) : Prop where
  sup : (s.dev.reg 0x6018).testBit 55 = true
  header : ∃ w : Word, s.fetchWord true (s.dev.reg 0x6018 % 2 ^ 56) = (u, some w) ∧ w.getLsbD 0 = true ∧ w.extractLsb' 2 6 = 0#6

/-- The cohort entered the supervisor handler (R373): what the trap registers hold, privilege, em and the pc. -/
structure Entered (s t : State) (cls code sub : Nat) (mask : Mask) (imm : Nat) (saved : VAddr) (em : Mask) : Prop where
  stat : t.me.stat = .running
  pc : t.me.pc = BitVec.ofNat 56 (s.dev.reg 0x6018)
  priv : t.me.priv = true
  handler : t.me.handler = true
  em : t.me.em = em
  flags : t.me.f = []
  cause : t.me.crget 0x50 = BitVec.ofNat 32 (cls * 2 ^ 24 + code * 2 ^ 16 + sub)
  tpc : t.me.crget 0x51 = saved.extractLsb' 0 32 ∧ t.me.crget 0x52 = (saved.extractLsb' 32 24).setWidth 32
  tem : t.me.crget 0x53 = s.me.em.extractLsb' 0 32 ∧ t.me.crget 0x54 = s.me.em.extractLsb' 32 32
  tmask : t.me.crget 0x55 = mask.extractLsb' 0 32 ∧ t.me.crget 0x56 = mask.extractLsb' 32 32
  timm : t.me.crget 0x57 = BitVec.ofNat 32 imm
  tclause : t.me.crget 0x58 = s.me.clause
  others : ∀ i, i < 0x50 ∨ 0x58 < i → i ≠ 0x30 → i ≠ 0x31 → t.me.crget i = s.me.crget i
  regs : t.me.v = s.me.v ∧ t.me.s = s.me.s ∧ t.me.sp = s.me.sp ∧ t.me.p = s.me.p ∧ t.me.win = s.me.win ∧ t.me.gang = s.me.gang ∧
    t.me.clause = s.me.clause ∧ t.me.ops = s.me.ops ∧ t.me.icount = s.me.icount
  frame : t.co = s.co ∧ t.cx = s.cx ∧ t.turns = s.turns ∧ t.free = s.free

/-- A halt is under way for the current context (R322): every cohort of its companies that has not ended stops at its next
boundary, and the halt names a cohort, a pc and the queue and packet of its launch. -/
structure Halting (s t : State) (wid : DWord) (pc : VAddr) : Prop where
  stat : t.cx.stat = .saving true
  names : ∃ q c, t.cx.halter = some (wid, pc, q, c) ∧
    ∀ l, s.cx.launches.find? (fun l => l.lseq == s.co.lseq) = some l → q = l.qid ∧ c = l.csn
  cx : { t.cx with stat := s.cx.stat, halter := s.cx.halter } = s.cx
  me : t.me = { s.me with stopDue := if s.me.stat = .ended then s.me.stopDue else 3 }
  mates : t.co.cohorts = s.co.cohorts.map fun c => { c with stopDue := if c.stat = .ended then c.stopDue else 3 }
  away : t.dev.companies = s.dev.companies.map fun h => if h.asid = s.cx.asid then
    { h with cohorts := h.cohorts.map fun c => { c with stopDue := if c.stat = .ended then c.stopDue else 3 } } else h
  rest : { t.co with cohorts := s.co.cohorts } = s.co ∧ { t.dev with companies := s.dev.companies } = s.dev ∧
    t.turns = s.turns ∧ t.free = s.free

/-! ## Control registers -/

/-- The indexes marked S in Tables 8-6 and 14-3. -/
def SReg (i : Nat) : Prop := i = 0x20 ∨ (0x30 ≤ i ∧ i ≤ 0x32) ∨ (0x50 ≤ i ∧ i ≤ 0x5F)

/-- The indexes of the registers that a cohort holds for itself under their own number (Tables 8-6, 10-6, 11-7, 14-3). -/
def OwnReg (i : Nat) : Prop :=
  (0x16 ≤ i ∧ i ≤ 0x1B) ∨ (0x21 ≤ i ∧ i ≤ 0x23) ∨ (0x30 ≤ i ∧ i ≤ 0x32) ∨ i = 0x40 ∨ (0x50 ≤ i ∧ i ≤ 0x59) ∨ i = 0x5C ∨ i = 0x5D ∨
    (0x60 ≤ i ∧ i ≤ 0x6F)

/-- What reading control register `i` gives (Tables 7-3, 8-6, 6-7, 11-3, 14-3): an index that is not assigned gives zero. -/
structure CrHolds (s : State) (i : Nat) (x : Word) : Prop where
  wid : (i = 0 → x = s.me.wid.extractLsb' 0 32) ∧ (i = 1 → x = s.me.wid.extractLsb' 32 32)
  place : (i = 2 → x = BitVec.ofNat 32 (16 * s.me.role + s.me.j)) ∧ (i = 3 → x = BitVec.ofNat 32 s.me.n0) ∧ (i = 4 → x = s.co.lseq)
  key : (∀ k, k < 4 → i = 0x10 + k → x = s.cx.key.getD k 0#32) ∧ (i = 0x14 → x = s.cx.step)
  srwstat : i = 0x15 → s.cx.filter.length < 128 → x.getLsbD 31 = s.cx.srwWarn ∧ x.getLsbD 30 = s.cx.srwEvict ∧
    (x &&& 0x3FFFFFFF#32).toNat = s.cx.filter.length
  context : (i = 0x20 → x = s.cx.supfail) ∧ (i = 0x5A → x = s.cx.tctl) ∧ (i = 0x5B → x = s.cx.wstat)
  clause : i = 0x41 → x = s.me.clause
  own : OwnReg i → x = s.me.crget i
  none : i ∉ [0, 1, 2, 3, 4, 0x10, 0x11, 0x12, 0x13, 0x14, 0x15, 0x20, 0x41, 0x42, 0x5A, 0x5B] → ¬ OwnReg i → x = 0#32

/-- Bits of `old` that `m` marks RW1C are cleared where `x` has ones (R6). -/
def Cleared (old x m new : Word) : Prop := new = old &&& ~~~ (x &&& m)

/-- A CRWR of `x` to register `i` leaves `t` (R215, Tables 8-6 to 8-8, 6-7, 14-4, 14-5): RW fields hold `x`, RW1C bits are cleared by
ones, a read-only register and an index that is not assigned are left as they were. -/
structure CrWritten (s t : State) (i : Nat) (x : Word) : Prop where
  retired : Retired s t 4
  rw : (0x16 ≤ i ∧ i ≤ 0x1B) ∨ i = 0x32 ∨ i = 0x53 ∨ i = 0x54 → t.me.crget i = x
  ordst : i = 0x21 → Cleared (s.me.crget i) x 0xC0000000#32 (t.me.crget i)
  cpystat : i = 0x23 → Cleared (s.me.crget i) x 0x80000000#32 (t.me.crget i)
  diag : i = 0x40 → (t.me.crget i).extractLsb' 0 16 = x.extractLsb' 0 16 ∧ (t.me.crget i).extractLsb' 16 15 = 0#15 ∧
    (t.me.crget i).getLsbD 31 = ((s.me.crget i).getLsbD 31 && !x.getLsbD 31)
  mcst : (0x60 ≤ i ∧ i ≤ 0x6F) → t.me.crget i = s.me.crget i &&& ~~~ x
  others : ∀ k, k ≠ i → t.me.crget k = s.me.crget k
  readonly : ¬ ((0x16 ≤ i ∧ i ≤ 0x1B) ∨ i ∈ [0x21, 0x23, 0x32, 0x40, 0x53, 0x54] ∨ (0x60 ≤ i ∧ i ≤ 0x6F)) → t.me.cr = s.me.cr
  srwstat : i = 0x15 → t.cx = { s.cx with srwWarn := s.cx.srwWarn && !x.getLsbD 31, srwEvict := s.cx.srwEvict && !x.getLsbD 30 }
  supfail : i = 0x20 → t.cx = { s.cx with supfail := x }
  tctl : i = 0x5A → t.cx = { s.cx with tctl := x &&& 7#32 }
  wstat : i = 0x5B → ∃ w, t.cx = { s.cx with wstat := w } ∧ Cleared s.cx.wstat x 0xE0000000#32 w
  context : i ∉ [0x15, 0x20, 0x5A, 0x5B] → t.cx = s.cx
  rest : { t.me.quiet with cr := s.me.cr } = s.me.quiet
  frame : t.dev = s.dev ∧ t.co = s.co ∧ t.turns = s.turns ∧ t.free = s.free

/-! ## Memory instructions -/

/-- A request with nothing but its window, access, size, address vector and operation; the instructions fill in the rest. -/
def asks (w : Nat) (acc : Acc) (n : Nat) (u : Bool) (kind : OpKind) : MemJob :=
  { win := w, acc := acc, reach := .plain, len := n, align := n, aln := true, fkind := 0, u := u, vs := [], ss := [], frees := []
    kind := kind, scope := 0, acq := false, rel := false, flag := none, d := 0, dst := [], offs := [], data := fun _ => [], sum := none
    cnt := none }

/-- The accesses of a request perform: every lane's check (R45, R254) reaches a target at an aligned address; `u` is the state after the
checks and `cs` are the lanes with their targets. -/
structure Accesses (s : State) (j : MemJob) (u : State) (cs : List LaneChk) : Prop where
  checked : s.checkLanes j.win j.acc j.reach (j.offs.map fun x => (x.1, x.2, j.len)) = (u, cs)
  perform : ∀ c ∈ cs, ∃ l, c.out = .at l
  aligned : ∀ c ∈ cs, c.addr % j.align = 0

/-- Every destination name has a register or gets one (R206). -/
def Room (s : State) (frees dst : List Nat) : Prop :=
  (s.setMe (s.me.freeAll frees)).canAlloc (dst.filter fun r => !(s.me.freeAll frees).allocated r).length = true

/-- The lanes of an operation as they are issued. -/
def laneOf (j : MemJob) (c : LaneChk) : LaneOp :=
  { lane := c.lane, loc := c.out.loc, addr := c.addr, len := j.len, data := j.data c.lane, poisoned := 0#64, sent := false, result := none }

/-- The operation of a request. -/
def opOf (s : State) (j : MemJob) (cs : List LaneChk) : MemOp :=
  { id := s.dev.nextId, kind := j.kind, scope := j.scope, acq := j.acq, rel := j.rel, lanes := cs.map (laneOf j), d := j.d, u := j.u
    em := s.me.act, flag := j.flag.bind s.me.flagOf, stage := .issued, passed := false, recs := [] }

/-- An access was issued (R96, R253): one operation follows those in flight, with a lane for each that performs; its flag rose; the marks
freed their names and the destinations have registers; no byte of memory changed but A and D of the leaves reached. -/
structure Issued (s u t : State) (j : MemJob) (cs : List LaneChk) : Prop where
  retired : Retired s t 4
  op : t.me.ops = s.me.ops ++ [opOf s j cs]
  flag : t.me.f = (s.me.raise (j.flag.bind s.me.flagOf)).f
  looked : Looked s.dev u.dev
  dev : t.dev = { u.dev with nextId := s.dev.nextId + 1 }
  freed : ∀ r ∈ j.frees, r ∉ j.dst → t.me.allocated r = false
  claimed : ∀ r ∈ j.dst, t.me.allocated r = true ∧ t.me.vget r = if r ∈ j.frees then VReg.zero else s.me.vget r
  others : ∀ r, r ∉ j.dst → r ∉ j.frees → t.me.vget r = s.me.vget r ∧ t.me.allocated r = s.me.allocated r
  diag : t.me.cr = (s.me.unalloc (s.me.misses j.vs)).cr
  windows : ∀ k, { t.me.window k with dt := (s.me.window k).dt } = s.me.window k
  rest : { t.me.quiet with v := s.me.v, cr := s.me.cr, win := s.me.win, f := s.me.f, ops := s.me.ops } = s.me.quiet
  cx : t.cx = { s.cx with cnt := t.cx.cnt, sat := t.cx.sat }
  frame : t.co = s.co ∧ t.turns = s.turns ∧ t.free = s.free

/-- A memory instruction whose request is `j`, in a state where it may run: where no active lane consumes poison it issues the accesses; with no active lane it only
frees what it marks, and orders as a fence of its scope if it has .ACQ or .REL (R111, R254). -/
def AccessDoes (ok : State → Prop) (i : Instr) (j : Cohort → MemJob) : Prop :=
  ∀ s : State, ok s → s.recording = false → s.me.mce (j s.me).u (j s.me).vs (j s.me).ss = 0#64 →
    (s.me.act ≠ 0#64 → Room s (j s.me).frees (j s.me).dst → ∀ u cs, Accesses s (j s.me) u cs →
      ∃ t, exec i s = .next t ∧ Issued s u t (j s.me) cs) ∧
    (s.me.act = 0#64 → ∃ t, exec i s = .next t ∧ Retired s t 4 ∧
      t.me.ops.map (fun o => (o.kind, o.scope)) = s.me.ops.map (fun o => (o.kind, o.scope)) ++
        (if (j s.me).acq || (j s.me).rel then [(.fence, (j s.me).scope)] else []) ∧
      (∀ r, t.me.vget r = if r ∈ (j s.me).frees then VReg.zero else s.me.vget r) ∧
      { t.me.quiet with v := s.me.v, ops := s.me.ops } = s.me.quiet ∧ { t.dev with nextId := s.dev.nextId } = s.dev ∧
      t.co = s.co ∧ t.cx = s.cx ∧ t.turns = s.turns ∧ t.free = s.free)

/-! ## Performing what was issued -/

/-- An operation of the running current cohort, the only one in flight on its core: nothing orders it, no copy or fill holds its bytes,
and the context is not recorded. -/
structure Alone (s : State) (o : MemOp) : Prop where
  op : s.me.ops = [o]
  here : s.me.stat = .running
  resident : ∃ c, s.co.place = .core c
  plain : o.kind ≠ .fence
  first : o.passed = false
  mates : ∀ p ∈ s.mates, p.2.ops = []
  copies : s.dev.pieces = [] ∧ s.dev.fills = []
  recorded : s.recording = false
  unstashed : o.recs = []

/-- The current cohort runs with nothing in flight on its core, no copy or fill is under way, and nothing records or traces. -/
structure Still (s : State) : Prop where
  ops : s.me.ops = []
  here : s.me.stat = .running
  resident : ∃ c, s.co.place = .core c
  mates : ∀ p ∈ s.mates, p.2.ops = []
  copies : s.dev.pieces = [] ∧ s.dev.fills = []
  recorded : s.recording = false
  traced : s.dev.trcOn = false

/-- The cohorts of the current company have distinct indexes, and the current one is among them. -/
structure Gathered (s : State) : Prop where
  distinct : (s.me.j :: s.co.cohorts.map (·.j)).Nodup
  placed : s.co.place ≠ .absent
  here : s.me.stat ≠ .absent
  present : ∀ c ∈ s.co.cohorts, c.stat ≠ .absent

/-- The cohort of the current company with index `j`. -/
def State.mate? (s : State) (j : Nat) : Option Cohort := if j = s.me.j then some s.me else s.co.cohorts.find? fun c => c.j == j

/-- Every lane of an operation is at own memory on one line, and none is performed. -/
structure OneLine (o : MemOp) (line : Nat) : Prop where
  filled : o.lanes ≠ []
  apart : (o.lanes.map (·.lane)).Nodup
  target : ∀ l ∈ o.lanes, ∃ off, l.loc = .mem off ∧ off / 64 = line ∧ off % 64 + l.len ≤ 64
  todo : ∀ l ∈ o.lanes, l.sent = false

/-- The byte that an operation stores at an offset of own memory: of several lanes the last, which is the highest (R60). -/
def storedAt (ls : List LaneOp) (a : Nat) : Option Byte :=
  ls.reverse.findSome? fun l => match l.loc with
    | .mem off => if off ≤ a ∧ a < off + l.data.length then some (l.data.getD (a - off) 0#8) else none
    | _ => none

/-- The device apart from its caches and the directory. -/
def Device.uncached (d : Device) : Device := { d with l2 := [], l3 := [], l2Fills := 0, dir := [] }

/-- The device apart from the bytes of memory, what each hall sees of them, the caches and the directory. -/
def Device.elsewhere (d : Device) : Device :=
  { d.uncached with mem := [], bad := [], cell := [], halls := d.halls.map fun h => { h with inval := [] }, order := 0 }

/-- The directory has room for a line more, and the L2 of a hall for 8 words more (R61, R66). -/
def Device.roomy (d : Device) (hall : Nat) : Prop := d.dir.length < dirEntries ∧ l2Words d.l2 hall + 8 ≤ l2Room

/-- A hall holds a line in S or keeps it in M, or takes it in M for a write: the directory's state of that line and of every other (R66). -/
structure Fetched (s t : State) (hall line : Nat) (write : Bool) : Prop where
  rest : t = s.setDev (s.dev.withCaches t.dev)
  others : s.dev.roomy hall → ∀ l, l ≠ line → t.dev.dirOf l = s.dev.dirOf l
  state : s.dev.roomy hall → t.dev.dirOf line = if write then 0x100 + hall else if s.dev.dirOf line = 0x100 + hall then 0x100 + hall
    else if 0x100 ≤ s.dev.dirOf line then 1 + 2 ^ hall else 1 + ((s.dev.dirOf line - 1) ||| 2 ^ hall)

/-- The words that a lane's bytes make, lowest first (R2, R258). -/
def wordOfBytes (bs : List Byte) (k : Nat) : Word := BitVec.ofNat 32 (leNat ((bs.drop (4 * k)).take 4))

/-! ## Device control space -/

/-- Only the register at an offset changed, to `v`. -/
structure RegSet (s t : State) (off v : Nat) : Prop where
  value : t.dev.reg off = v
  others : ∀ o, o ≠ off → t.dev.reg o = s.dev.reg o
  rest : t = s.setDev { s.dev with ctrl := t.dev.ctrl }

/-- Bit `i` of the 8 bytes that hold a write is one that it covers (R18). -/
abbrev Covers (w : RegWrite) (i : Nat) : Prop := 8 * (w.off % 8) ≤ i ∧ i < 8 * (w.off % 8 + w.len)

/-- Of the 8 bytes at `base`, a write stored the covered bits that `rw` marks, cleared by ones the covered bits that `w1c` marks, and left
every other bit and register (R6, R18). -/
structure Written (w : RegWrite) (base rw w1c : Nat) (s t : State) : Prop where
  stored : ∀ i, i < 64 → Covers w i → rw.testBit i = true → w1c.testBit i = false → (t.dev.reg base).testBit i = w.val.testBit (i - 8 * (w.off % 8))
  cleared : ∀ i, i < 64 → Covers w i → rw.testBit i = false → w1c.testBit i = true →
    (t.dev.reg base).testBit i = ((s.dev.reg base).testBit i && !w.val.testBit (i - 8 * (w.off % 8)))
  kept : ∀ i, i < 64 → (¬ Covers w i ∨ rw.testBit i = false ∧ w1c.testBit i = false) → (t.dev.reg base).testBit i = (s.dev.reg base).testBit i
  others : ∀ o, o ≠ base → t.dev.reg o = s.dev.reg o
  rest : t = s.setDev { s.dev with ctrl := t.dev.ctrl }

/-! ## Queues -/

/-- The device apart from memory, queues, counts of steps and what the halls see. -/
def Device.unqueued (d : Device) : Device := { d.elsewhere with queues := [], ccstep := [] }

/-- Of the queues only `qid` changed, to `q`, whose descriptor shows it; no other byte of memory changed, and nothing else did but the counts of
steps (R343, R345). -/
structure QueueSet (s t : State) (qid : Nat) (q : Queue) : Prop where
  queue : t.dev.queue? qid = some q
  others : ∀ k, k ≠ qid → t.dev.queue? k = s.dev.queue? k
  shown : ∀ i, i < 40 → t.dev.byte (s.dev.qdAddr qid + 0x18 + i) = q.tail.getD i 0#8
  bytes : ∀ a, a < s.dev.qdAddr qid + 0x18 ∨ s.dev.qdAddr qid + 0x40 ≤ a → t.dev.byte a = s.dev.byte a
  rest : t.dev.unqueued = s.dev.unqueued ∧ { t with dev := s.dev } = s

/-- A queue error struck: QSTATE, ERRCODE, ERRCSN and ERRDATA of the queue, one event more, and no other queue changed (R359). -/
structure QueueFailed (s t : State) (qid : Nat) (q : Queue) (code csn data : Nat) : Prop where
  queue : t.dev.queue? qid = some { q with qstate := 2, errcode := code, errcsn := csn, errdata := data, run := q.run.map fun r => { r with stopped := true } }
  others : ∀ k, k ≠ qid → t.dev.queue? k = s.dev.queue? k
  posted : t.dev.enum = s.dev.enum + 1
  rest : { t with dev := s.dev } = s

/-- The packet `p` at RPTR of queue `q` may start: the queue runs in a place, nothing holds it, it records no flight and runs none, and the packet
passes its checks; nothing is traced (R347, R350, R351). -/
structure Head (s : State) (qid : Nat) (q : Queue) (p : List Byte) : Prop where
  queue : s.dev.queue? qid = some q
  runs : q.qstate = 1 ∧ q.draining = false ∧ q.place.isSome = true ∧ q.sigwait = none ∧ q.run = none ∧ q.recording = none
  stop : q.stopsAt (s.dev.reg 0x60118) = false
  due : q.rptr ≠ q.wptr ∧ q.rptr < 2 ^ 32
  packet : p = (List.range 64).map fun k => s.dev.outerByte (q.rbase + 64 * (q.rptr % 2 ^ q.rlog2) + k)
  checks : packetCause s.dev p = none
  after : (p.getD 1 0#8).getLsbD 0 = true ∨ p.getD 0 0#8 = 6#8 → ∀ x ∈ q.started, x.done = true
  fresh : ∀ x ∈ q.started, x.csn ≠ (q.csn + 1) % 2 ^ 32
  quiet : s.dev.trcOn = false
  aside : ∀ i, i < 64 → ¬ (s.dev.qdAddr qid + 0x18 ≤ q.rbase + 64 * (q.rptr % 2 ^ q.rlog2) + i ∧ q.rbase + 64 * (q.rptr % 2 ^ q.rlog2) + i < s.dev.qdAddr qid + 0x40)

/-- The packet of queue `q` was counted: RPTR past it, CSN one more. -/
def Queue.counted (q : Queue) : Queue := { q with rptr := (q.rptr + 1) % 2 ^ 32, csn := (q.csn + 1) % 2 ^ 32, tcur := 0 }

/-- The started packets once a packet of a queue has completed at once: it stays until its completion signal is performed, if it asks for one (R352). -/
def Queue.ended (q : Queue) (p : List Byte) : Queue :=
  if (p.getD 1 0#8).getLsbD 1 then { q with started := q.started ++ [{ csn := q.csn, packet := p, run := none, done := true, failed := false }] } else q

/-- The started packets once a packet of a queue has begun. -/
def Queue.began (q : Queue) (p : List Byte) : Queue :=
  { q with started := q.started ++ [{ csn := q.csn, packet := p, run := none, done := false, failed := false }] }

/-- A field of `n` bytes of a packet (R2). -/
def field (p : List Byte) (off n : Nat) : Nat := leNat ((p.drop off).take n)

/-! ## Contexts and companies without a current cohort -/

/-- A context is current and no company of it is: all of them stand in the device. -/
structure Bare (s : State) : Prop where
  me : s.me.stat = .absent
  co : s.co.place = .absent
  cx : s.cx.alive = true

/-- A company is current and none of its cohorts is. -/
structure Standing (s : State) : Prop where
  me : s.me.stat = .absent
  co : s.co.place ≠ .absent

end Sys2Proof.Machine
end

