-- ==== Sys2Proof/Certificates/Slice0/Obligations.lean ====
section
/-!
DEFINITION. The statements about the model, for the provers: one definition each, in the order of OBLIGATIONS.json.
-/
open Sys2Proof Sys2Proof.Machine

/-! ## Lane instructions -/

/-- R228, Table 9-2: the arithmetic of two sources. -/
def Obligations.IntegerArithmetic : Prop :=
  Lane2Does .iadd (fun a b => a + b) ∧ Lane2Does .isub (fun a b => a - b) ∧ Lane2Does .imul (fun a b => a * b) ∧
  Lane2Does .imulhi (fun a b => (a.signExtend 64 * b.signExtend 64).extractLsb' 32 32) ∧
  Lane2Does .imulhu (fun a b => (a.setWidth 64 * b.setWidth 64).extractLsb' 32 32) ∧
  Lane2Does .iadds (fun a b => BitVec.ofInt 32 (max (-(2 ^ 31)) (min (2 ^ 31 - 1) (a.toInt + b.toInt)))) ∧
  Lane2Does .isubs (fun a b => BitVec.ofInt 32 (max (-(2 ^ 31)) (min (2 ^ 31 - 1) (a.toInt - b.toInt)))) ∧
  Lane2Does .lsa1 (fun a b => a <<< 1 + b) ∧ Lane2Does .lsa2 (fun a b => a <<< 2 + b) ∧
  Lane2Does .lsa3 (fun a b => a <<< 3 + b) ∧ Lane2Does .lsa4 (fun a b => a <<< 4 + b) ∧
  Lane3Does .imad (fun d a b => a * b + d)

/-- R228, Table 9-2: logic, shifts, minima and maxima, and the unary operations with INEG; R233's IABS and MOV. -/
def Obligations.IntegerLogic : Prop :=
  Lane2Does .and (fun a b => a &&& b) ∧ Lane2Does .or (fun a b => a ||| b) ∧ Lane2Does .xor (fun a b => a ^^^ b) ∧
  Lane2Does .andn (fun a b => a &&& ~~~ b) ∧
  Lane2Does .shl (fun a b => if 32 ≤ b.toNat then 0#32 else a <<< b.toNat) ∧
  Lane2Does .shr (fun a b => if 32 ≤ b.toNat then 0#32 else a >>> b.toNat) ∧
  Lane2Does .sar (fun a b => if 32 ≤ b.toNat then (if a.getLsbD 31 then 0xFFFFFFFF#32 else 0#32) else a.sshiftRight b.toNat) ∧
  Lane2Does .rotl (fun a b => a.rotateLeft (b.toNat % 32)) ∧
  Lane2Does .imin (fun a b => if a.toInt ≤ b.toInt then a else b) ∧ Lane2Does .imax (fun a b => if a.toInt ≤ b.toInt then b else a) ∧
  Lane2Does .umin (fun a b => if a.toNat ≤ b.toNat then a else b) ∧ Lane2Does .umax (fun a b => if a.toNat ≤ b.toNat then b else a) ∧
  Lane1Does .clz (fun b => if b = 0#32 then 32#32 else BitVec.ofNat 32 (31 - Nat.log2 b.toNat)) ∧
  Lane1Does .popc (fun b => BitVec.ofNat 32 ((List.range 32).countP fun k => b.getLsbD k)) ∧
  Lane1Does .brev (fun b => b.reverse) ∧
  Lane1Does .ineg (fun b => 0#32 - b) ∧ Lane1Does .iabs (fun b => if b.toInt < 0 then 0#32 - b else b) ∧ Lane1Does .mov (fun b => b)

/-- R229: with pos = b[4:0] and len = min(b[13:8], 32), the field is bits pos to min(pos + len, 32) − 1. -/
def Obligations.Bitfields : Prop :=
  (∃ f, Lane2Does .bfx f ∧ ∀ a b k, k < 32 → (f a b).getLsbD k =
    (decide (k < min (b.toNat / 256 % 64) 32 ∧ b.toNat % 32 + k < 32) && a.getLsbD (b.toNat % 32 + k))) ∧
  (∃ f, Lane2Does .bfxs f ∧ ∀ a b k, k < 32 → (f a b).getLsbD k =
    (if b.toNat / 256 % 64 = 0 then false
     else a.getLsbD (min (b.toNat % 32 + k) (min (b.toNat % 32 + min (b.toNat / 256 % 64) 32) 32 - 1)))) ∧
  (∃ f, Lane3Does .bfi f ∧ ∀ d a b k, k < 32 → (f d a b).getLsbD k =
    (if b.toNat % 32 ≤ k ∧ k < b.toNat % 32 + min (b.toNat / 256 % 64) 32 then a.getLsbD (k - b.toNat % 32) else d.getLsbD k)) ∧
  (∃ f, Lane3Does .prmt f ∧ ∀ d a b k, k < 32 → (f d a b).getLsbD k =
    (if d.getLsbD (4 * (k / 8) + 3) then (b ++ a).getLsbD (8 * (d.toNat / 2 ^ (4 * (k / 8)) % 8) + 7)
     else (b ++ a).getLsbD (8 * (d.toNat / 2 ^ (4 * (k / 8)) % 8) + k % 8)))

/-- R200, Table 8-2: each 16-bit instruction does what its 32-bit equivalent does with a = vd and b = vs and no mark; MOV_16 with vd = vs is NOP.16,
which only retires (R201). -/
def Obligations.ShortForms : Prop :=
  (∀ (o : Op16) (s : State), o.d = o.s → exec (.mov16 o) s = .next (s.retire 2)) ∧
  (∀ (o : Op16) (s : State), o.d ≠ o.s → LaneReady s o.u [o.s.toNat] [] [] o.d.toNat →
    ∃ t, exec (.mov16 o) s = .next t ∧ LaneDone s t 2 o.d.toNat [o.s.toNat] [] true (fun i => (s.me.vget o.s.toNat).lane (s.me.src o.u i))) ∧
  ShortDoes .iadd16 (fun d x => d + x) ∧ ShortDoes .isub16 (fun d x => d - x) ∧ ShortDoes .imul16 (fun d x => d * x) ∧
  ShortDoes .and16 (fun d x => d &&& x) ∧ ShortDoes .or16 (fun d x => d ||| x) ∧ ShortDoes .xor16 (fun d x => d ^^^ x) ∧
  ShortDoes .shl16 (fun d x => if 32 ≤ x.toNat then 0#32 else d <<< x.toNat) ∧
  ShortDoes .shr16 (fun d x => if 32 ≤ x.toNat then 0#32 else d >>> x.toNat) ∧
  ShortDoes .sar16 (fun d x => if 32 ≤ x.toNat then (if d.getLsbD 31 then 0xFFFFFFFF#32 else 0#32) else d.sshiftRight x.toNat) ∧
  (∃ f, Lane2Does .fadd f ∧ ShortDoes .fadd16 f) ∧ (∃ f, Lane2Does .fsub f ∧ ShortDoes .fsub16 f) ∧
  (∃ f, Lane2Does .fmul f ∧ ShortDoes .fmul16 f) ∧ (∃ f, Lane2Does .fmax f ∧ ShortDoes .fmax16 f) ∧
  (∃ f, Lane2Does .fmin f ∧ ShortDoes .fmin16 f) ∧ (∃ f, Lane1Does .fneg f ∧ Short1Does .fneg16 f)

/-- R230, Table 9-3: a compare writes the predicate bits of the active lanes and keeps the others; p0 stays all ones. -/
def Obligations.Compares : Prop :=
  CompareDoes .icmpEq (fun a b => a = b) ∧ CompareDoes .icmpNe (fun a b => a ≠ b) ∧
  CompareDoes .icmpLt (fun a b => a.toInt < b.toInt) ∧ CompareDoes .icmpLe (fun a b => a.toInt ≤ b.toInt) ∧
  CompareDoes .icmpGt (fun a b => b.toInt < a.toInt) ∧ CompareDoes .icmpGe (fun a b => b.toInt ≤ a.toInt) ∧
  CompareDoes .icmpLtu (fun a b => a.toNat < b.toNat) ∧ CompareDoes .icmpGeu (fun a b => b.toNat ≤ a.toNat) ∧
  CompareDoes .fcmpEq (fun a b => ¬ IsNan a ∧ ¬ IsNan b ∧ ¬ Below a b ∧ ¬ Below b a) ∧
  CompareDoes .fcmpNe (fun a b => IsNan a ∨ IsNan b ∨ Below a b ∨ Below b a) ∧
  CompareDoes .fcmpLt (fun a b => ¬ IsNan a ∧ ¬ IsNan b ∧ Below a b) ∧
  CompareDoes .fcmpLe (fun a b => ¬ IsNan a ∧ ¬ IsNan b ∧ ¬ Below b a) ∧
  CompareDoes .fcmpGt (fun a b => ¬ IsNan a ∧ ¬ IsNan b ∧ Below b a) ∧
  CompareDoes .fcmpGe (fun a b => ¬ IsNan a ∧ ¬ IsNan b ∧ ¬ Below a b) ∧
  CompareDoes .fcmpOrd (fun a b => ¬ IsNan a ∧ ¬ IsNan b) ∧
  CompareDoes .fcmpUnord (fun a b => IsNan a ∨ IsNan b)

/-- R231: SEL takes a where the lane's bit of p0 to p7 is 1 and b where it is 0; under U = 1 lane l's bit selects for all. -/
def Obligations.Select : Prop :=
  ∀ (k : BitVec 3) (o : Lane2) (s : State), LaneReady s o.u (o.a.toNat :: o.b.vs) o.b.ss (marks2 o) o.d.toNat →
    ∃ t, exec (.sel k o) s = .next t ∧ LaneDone s t o.b.len o.d.toNat (o.a.toNat :: o.b.vs) (marks2 o) true
      (fun i => if (s.me.pget k.toNat).getLsbD (s.me.src o.u i) = true then (s.me.vget o.a.toNat).lane (s.me.src o.u i)
        else o.b.rd s.me (s.me.src o.u i))

/-- R232, Table 9-4: the exact result rounded once; FMIN and FMAX return an input bit for bit unless both are NaN. -/
def Obligations.Float32 : Prop :=
  Lane2Does .fadd (fun a b => R32 ((V32 a).add (V32 b))) ∧ Lane2Does .fsub (fun a b => R32 ((V32 a).add (V32 b).neg)) ∧
  Lane2Does .fmul (fun a b => R32 ((V32 a).mul (V32 b))) ∧
  Lane3Does .ffma (fun d a b => R32 (((V32 a).mul (V32 b)).add (V32 d))) ∧
  Lane3Does .ffms (fun d a b => R32 (((V32 a).mul (V32 b)).add (V32 d).neg)) ∧
  Lane3Does .fnma (fun d a b => R32 (((V32 a).mul (V32 b)).neg.add (V32 d))) ∧
  (∃ f, Lane2Does .fmin f ∧ PicksInput f (fun x y => Below x y) 0x80000000#32) ∧
  (∃ f, Lane2Does .fmax f ∧ PicksInput f (fun x y => Below y x) 0#32) ∧
  (∀ a, ¬ IsNan a → (V32 a).isInf = false → R32 ((V32 a).add (V32 a).neg) = 0#32) ∧
  R32 ((V32 0x80000000#32).add (V32 0x80000000#32)) = 0x80000000#32 ∧
  R32 ((V32 0x7F800000#32).add (V32 0xFF800000#32)) = qnan ∧ R32 ((V32 0x7F800000#32).mul (V32 0#32)) = qnan

/-- R163: rounding a value that the format holds gives the encoding back, in every floating-point format of Table 6-1. -/
def Obligations.RoundingIsExact : Prop :=
  ∀ (g : Fmt) (x : Nat), g.isFloat = true → x < 2 ^ g.width → value x g ≠ .nan → roundRN g (value x g) = x

/-- R233, Table 9-5: FABS, FNEG and the four roundings to an integral value. R234, Table 9-6: the special inputs, NaN and the exact results of FEXP2
and FLOG2; they hold whatever the free values of log entry 3 are. -/
def Obligations.FloatUnaryAndApproximations : Prop :=
  (
    Lane1Does .fabs (fun b => if V32 b = .nan then qnan else b &&& 0x7FFFFFFF#32) ∧
    Lane1Does .fneg (fun b => if V32 b = .nan then qnan else b ^^^ 0x80000000#32) ∧
    (∃ f, Lane1Does .ffloor f ∧ RoundsIntegral f (fun x q n => q * n ≤ x ∧ x < q * (n + 1))) ∧
    (∃ f, Lane1Does .fceil f ∧ RoundsIntegral f (fun x q n => q * (n - 1) < x ∧ x ≤ q * n)) ∧
    (∃ f, Lane1Does .ftrunc f ∧ RoundsIntegral f (fun x q n => n = Int.tdiv x q)) ∧
    (∃ f, Lane1Does .frint f ∧ RoundsIntegral f (fun x q n =>
      2 * (x - q * n).natAbs ≤ q ∧ (2 * (x - q * n).natAbs = q → n % 2 = 0)))) ∧
  (
    (∃ f, Lane1Does .frcp f ∧ (∀ b, IsNan b → f b = qnan) ∧ f 0#32 = 0x7F800000#32 ∧ f 0x80000000#32 = 0xFF800000#32 ∧
      f 0x7F800000#32 = 0#32 ∧ f 0xFF800000#32 = 0x80000000#32) ∧
    (∃ f, Lane1Does .frsq f ∧ (∀ b, IsNan b → f b = qnan) ∧ f 0#32 = 0x7F800000#32 ∧ f 0x80000000#32 = 0xFF800000#32 ∧
      (∀ b, Below b 0#32 → f b = qnan) ∧ f 0x7F800000#32 = 0#32) ∧
    (∃ f, Lane1Does .fsqrt f ∧ (∀ b, IsNan b → f b = qnan) ∧ f 0x80000000#32 = 0x80000000#32 ∧ f 0#32 = 0#32 ∧
      (∀ b, Below b 0#32 → f b = qnan) ∧ f 0x7F800000#32 = 0x7F800000#32 ∧ f 0x40800000#32 = 0x40000000#32) ∧
    (∃ f, Lane1Does .fexp2 f ∧ (∀ b, IsNan b → f b = qnan) ∧ f 0xFF800000#32 = 0#32 ∧ f 0x7F800000#32 = 0x7F800000#32 ∧
      (∀ b, ¬ IsNan b → ¬ Below b 0x43000000#32 → f b = 0x7F800000#32) ∧ f 0#32 = 0x3F800000#32 ∧ f 0xC3150000#32 = 1#32) ∧
    (∃ f, Lane1Does .flog2 f ∧ (∀ b, IsNan b → f b = qnan) ∧ f 0#32 = 0xFF800000#32 ∧ f 0x80000000#32 = 0xFF800000#32 ∧
      (∀ b, Below b 0#32 → f b = qnan) ∧ f 0x7F800000#32 = 0x7F800000#32 ∧ f 0x3F800000#32 = 0#32 ∧ f 1#32 = 0xC3150000#32) ∧
    (∃ f, Lane1Does .fsin f ∧ (∀ b, IsNan b → f b = qnan) ∧ f 0#32 = 0#32 ∧ f 0x80000000#32 = 0x80000000#32 ∧
      (∀ b, (V32 b).isInf = true → f b = qnan)) ∧
    (∃ f, Lane1Does .fcos f ∧ (∀ b, IsNan b → f b = qnan) ∧ f 0#32 = 0x3F800000#32 ∧ f 0x80000000#32 = 0x3F800000#32 ∧
      (∀ b, (V32 b).isInf = true → f b = qnan)) ∧
    (∃ f, Lane1Does .ftanh f ∧ (∀ b, IsNan b → f b = qnan) ∧ f 0#32 = 0#32 ∧ f 0x80000000#32 = 0x80000000#32 ∧
      f 0x7F800000#32 = 0x3F800000#32 ∧ f 0xFF800000#32 = 0xBF800000#32))

/-- R235: each half of a register on its own, as the FARITH operation computes it in the element format. R241, Table 9-8: the integer forms
accumulate mod 2^32 and the floating-point forms are mma_block with scales 0x7F (R169). -/
def Obligations.HalvesAndDotProducts : Prop :=
  (
    ∀ (g : Fmt), (g = .fp16 ∨ g = .bf16) →
    let two (op : Val → Val → Val) (a b : Word) : Word := R16 g (op (V16 g a 1) (V16 g b 1)) ++ R16 g (op (V16 g a 0) (V16 g b 0))
    let fma (d a b : Word) : Word :=
      R16 g (((V16 g a 1).mul (V16 g b 1)).add (V16 g d 1)) ++ R16 g (((V16 g a 0).mul (V16 g b 0)).add (V16 g d 0))
    let pick (op : Fmt → Nat → Nat → Nat) (a b : Word) : Word :=
      BitVec.ofNat 16 (op g (a.extractLsb' 16 16).toNat (b.extractLsb' 16 16).toNat)
        ++ BitVec.ofNat 16 (op g (a.extractLsb' 0 16).toNat (b.extractLsb' 0 16).toNat)
    (g = .fp16 → Lane2Does .hadd2 (two Val.add) ∧ Lane2Does .hsub2 (two fun x y => x.add y.neg) ∧ Lane2Does .hmul2 (two Val.mul) ∧
      Lane3Does .hfma2 fma ∧ Lane2Does .hmin2 (pick Machine.fmin) ∧ Lane2Does .hmax2 (pick Machine.fmax)) ∧
    (g = .bf16 → Lane2Does .badd2 (two Val.add) ∧ Lane2Does .bsub2 (two fun x y => x.add y.neg) ∧ Lane2Does .bmul2 (two Val.mul) ∧
      Lane3Does .bfma2 fma ∧ Lane2Does .bmin2 (pick Machine.fmin) ∧ Lane2Does .bmax2 (pick Machine.fmax))) ∧
  (
    let sx (w k : Nat) (x : Word) : Word := (x.extractLsb' (w * k) w).signExtend 32
    let zx (w k : Nat) (x : Word) : Word := (x.extractLsb' (w * k) w).setWidth 32
    let sum (n : Nat) (f : Nat → Word) : Word := ((List.range n).map f).foldr (· + ·) 0#32
    let es (n w : Nat) (x : Word) : List Nat := (List.range n).map fun k => (x.extractLsb' (w * k) w).toNat
    Lane3Does .dot4i8 (fun d a b => d + sum 4 fun k => sx 8 k a * sx 8 k b) ∧
    Lane3Does .dot4z8 (fun d a b => d + sum 4 fun k => zx 8 k a * sx 8 k b) ∧
    Lane3Does .dot8i4 (fun d a b => d + sum 8 fun k => sx 4 k a * sx 4 k b) ∧
    Lane3Does .dot8z4 (fun d a b => d + sum 8 fun k => zx 4 k a * sx 4 k b) ∧
    Lane3Does .dot4e4 (fun d a b => mmaBlock d (es 4 8 a) 0x7F .e4m3 (es 4 8 b) 0x7F .e4m3) ∧
    Lane3Does .dot4e5 (fun d a b => mmaBlock d (es 4 8 a) 0x7F .e5m2 (es 4 8 b) 0x7F .e5m2) ∧
    Lane3Does .dot8e2 (fun d a b => mmaBlock d (es 8 4 a) 0x7F .e2m1 (es 8 4 b) 0x7F .e2m1) ∧
    Lane3Does .dot2bf (fun d a b => mmaBlock d (es 2 16 a) 0x7F .bf16 (es 2 16 b) 0x7F .bf16))

/-! ## Conversions and blocks -/

/-- R236 to R238, Table 9-7: every code of CVT under every rounding mode; .SR draws its words by coordinate and checks the key-use filter once
(R174). R163, R237: the conversions to integers saturate and give 0 for NaN, in every mode. -/
def Obligations.Conversions : Prop :=
  (
    (∀ row ∈ [(0x00, 2, Fmt.bf16), (0x02, 2, .fp16), (0x04, 4, .e4m3), (0x08, 4, .e5m2), (0x10, 8, .e2m1), (0x18, 4, .int8), (0x20, 8, .int4)],
      ∀ k, k < row.2.1 → CvtDoes (row.1 + k) false true (fun mode t i old a x => SlotPut row.2.2.width k old x
        (Machine.round row.2.2 mode false (srcQuantum .fp32 (V32 a)) (t (row.2.1 * i + k)) (V32 a)))) ∧
    (∀ row ∈ [(0x28, 2, Fmt.bf16), (0x2A, 2, .fp16), (0x2C, 4, .e4m3), (0x30, 4, .e5m2), (0x34, 4, .int8), (0x38, 8, .e2m1)],
      ∀ k, k < row.2.1 → CvtDoes (row.1 + k) true false (fun _ _ _ _ a x =>
        x = R32 (value (a.extractLsb' (row.2.2.width * k) row.2.2.width).toNat row.2.2))) ∧
    (∀ row ∈ [(0x0C, Fmt.fp32, Fmt.si32), (0x0D, .fp32, .ui32), (0x0E, .si32, .fp32), (0x0F, .ui32, .fp32)],
      CvtDoes row.1 true true (fun mode t i _ a x => x = BitVec.ofNat 32 (Machine.round row.2.2 mode false
        (srcQuantum row.2.1 (value a.toNat row.2.1)) (t i) (value a.toNat row.2.1)))) ∧
    (∀ row ∈ [(0x1C, Fmt.bf16, Fmt.fp16), (0x1D, .fp16, .bf16)],
      CvtDoes row.1 true true (fun mode t i _ a x => ∀ h, h < 2 → x.extractLsb' (16 * h) 16 = BitVec.ofNat 16 (Machine.round row.2.2 mode false
        (srcQuantum row.2.1 (V16 row.2.1 a h)) (t (2 * i + h)) (V16 row.2.1 a h))))) ∧
  (
    ∀ (mode : RMode) (t : Word) (q : Int),
      Machine.round .si32 mode false q t .nan = 0 ∧ Machine.round .ui32 mode false q t .nan = 0 ∧
      Machine.round .si32 mode false q t (.inf false) = 0x7FFFFFFF ∧ Machine.round .si32 mode false q t (.inf true) = 0x80000000 ∧
      Machine.round .ui32 mode false q t (.inf false) = 0xFFFFFFFF ∧ Machine.round .ui32 mode false q t (.inf true) = 0 ∧
      (∀ m e, 2 ^ 31 ≤ m → 0 ≤ e → Machine.round .si32 mode false q t (.fin false m e) = 0x7FFFFFFF) ∧
      (∀ m e, 2 ^ 32 ≤ m → 0 ≤ e → Machine.round .ui32 mode false q t (.fin false m e) = 0xFFFFFFFF) ∧
      (∀ m e, 1 ≤ m → 0 ≤ e → Machine.round .ui32 mode false q t (.fin true m e) = 0))

/-- R166 to R168, R239, R240: the MX instructions; a scale of 0xFF dequantises to NaN. -/
def Obligations.MxBlocks : Prop :=
  MxQuantDoes .mxqi8 .mxint8 ∧ MxQuantDoes .mxqe4 .e4m3 ∧ MxQuantDoes .mxqe5 .e5m2 ∧ MxQuantDoes .mxqe2 .e2m1 ∧
  (∀ (c : BitVec 2) (d a : Reg) (ma : Bool) (s : State), LaneReady s false [a.toNat] [] (if ma then [a.toNat] else []) d.toNat →
    let f := ([Fmt.mxint8, .e4m3, .e5m2, .e2m1].getD c.toNat .fp32)
    let x (g : Fmt) (w : Word) : Word := BitVec.ofNat 32 (if w.extractLsb' 8 8 = 0xFF#8 then g.nanOut
      else roundRN g ((value (w.extractLsb' 0 f.width).toNat f).scale ((w.extractLsb' 8 8).toNat - 127)))
    (∃ t, exec (.mxdqf c d a ma) s = .next t ∧ LaneDone s t 4 d.toNat [a.toNat] (if ma then [a.toNat] else []) true
      (fun i => x .fp32 ((s.me.vget a.toNat).lane i))) ∧
    (∃ t, exec (.mxdqb c d a ma) s = .next t ∧ LaneDone s t 4 d.toNat [a.toNat] (if ma then [a.toNat] else []) true
      (fun i => x .bf16 ((s.me.vget a.toNat).lane i)))) ∧
  (∀ f mode xs, (∃ p ∈ xs, V32 (BitVec.ofNat 32 p.1) = .nan ∨ (V32 (BitVec.ofNat 32 p.1)).isInf = true) →
    (∀ p ∈ xs, p.1 < 2 ^ 32) → mxQuant f mode xs = (0xFF, xs.map fun _ => 0))

/-! ## Predicates, masks, votes, shuffles and reductions -/

/-- R244: PLOGIC computes all 64 bits, whatever em holds; a write of p0 is discarded. R247: the votes; VALL is 1 and VFIRST 64 when no bit is set. -/
def Obligations.PredicatesAndVotes : Prop :=
  (
    ∀ (d a b : Reg) (s : State),
      let pa := s.me.pget a.toNat
      let pb := s.me.pget b.toNat
      (∃ t, exec (.pand d a b) s = .next t ∧ PredDone s t d.toNat (pa &&& pb)) ∧
      (∃ t, exec (.por d a b) s = .next t ∧ PredDone s t d.toNat (pa ||| pb)) ∧
      (∃ t, exec (.pxor d a b) s = .next t ∧ PredDone s t d.toNat (pa ^^^ pb)) ∧
      (∃ t, exec (.pandn d a b) s = .next t ∧ PredDone s t d.toNat (pa &&& ~~~ pb)) ∧
      (∃ t, exec (.pnot d b) s = .next t ∧ PredDone s t d.toNat (~~~ pb)) ∧
      (∃ t, exec (.pmov d b) s = .next t ∧ PredDone s t d.toNat pb)) ∧
  (
    ∀ (d a : Reg) (s : State),
      let x := s.me.pget a.toNat &&& s.me.em
      (∃ t, exec (.vany d a) s = .next t ∧ ScalarFrame s t 4 ∧ Scalar1 s t d.toNat (if x = 0#64 then 0#32 else 1#32)) ∧
      (∃ t, exec (.vall d a) s = .next t ∧ ScalarFrame s t 4 ∧ Scalar1 s t d.toNat (if x = s.me.em then 1#32 else 0#32)) ∧
      (∃ t, exec (.vbal d a) s = .next t ∧ ScalarFrame s t 4 ∧ Scalar2 s t d.toNat x) ∧
      (∃ t, exec (.vcnt d a) s = .next t ∧ ScalarFrame s t 4 ∧
        Scalar1 s t d.toNat (BitVec.ofNat 32 ((List.range 64).countP fun i => x.getLsbD i))) ∧
      (∃ t n, exec (.vfirst d a) s = .next t ∧ ScalarFrame s t 4 ∧ Scalar1 s t d.toNat (BitVec.ofNat 32 n) ∧
        (∀ i, i < n → x.getLsbD i = false) ∧ (n < 64 ∧ x.getLsbD n = true ∨ n = 64)))

/-- R245, Table 9-10: the MASK instructions; every write of em is ANDed with the present mask. -/
def Obligations.ExecutionMask : Prop :=
  ∀ (r : Reg) (s : State),
    let pair : Mask := s.me.sget (r.toNat + 1) ++ s.me.sget r.toNat
    let clean := s.me.spoison r.toNat = false ∧ s.me.spoison (r.toNat + 1) = false
    (∃ t, exec (.emget r) s = .next t ∧ ScalarFrame s t 4 ∧ Scalar2 s t r.toNat s.me.em) ∧
    (clean → exec (.emset r) s = .next ((s.setMe { s.me with em := pair &&& s.me.present }).retire 4)) ∧
    exec (.emand r) s = .next ((s.setMe { s.me with em := s.me.em &&& s.me.pget r.toNat &&& s.me.present }).retire 4) ∧
    exec (.emandn r) s = .next ((s.setMe { s.me with em := s.me.em &&& ~~~ s.me.pget r.toNat &&& s.me.present }).retire 4) ∧
    (∃ t, exec (.emp r) s = .next t ∧ PredDone s t r.toNat s.me.em) ∧
    exec (.pem r) s = .next ((s.setMe { s.me with em := s.me.pget r.toNat &&& s.me.present }).retire 4) ∧
    (∃ t, exec (.xall r) s = .next t ∧ t.me.em = s.me.present ∧ Scalar2 s t r.toNat s.me.em ∧ Retired s t 4 ∧ Inside s t ∧
      { t.me.quiet with s := s.me.s, sp := s.me.sp, em := s.me.em } = s.me.quiet) ∧
    (clean → exec (.xend r) s = .next ((s.setMe { s.me with em := pair &&& s.me.present }).retire 4))

/-- R248, Table 9-11: the source lanes; one outside 0 to 63 gives the lane's own word. -/
def Obligations.Shuffles : Prop :=
  ShuffleDoes .shfli false (fun _ b => b % 64) ∧ ShuffleDoes .shflu false (fun i b => if b ≤ i then i - b else i) ∧
  ShuffleDoes .shfld false (fun i b => if i + b < 64 then i + b else i) ∧ ShuffleDoes .shflx false (fun i b => i ^^^ (b % 64)) ∧
  ShuffleDoes .bcast true (fun _ b => b % 64)

/-- R249, Table 9-12: the lane reductions, with their results for an empty em. -/
def Obligations.LaneReductions : Prop :=
  ReduceDoes .lradd (fun xs => xs.foldr (· + ·) 0#32) ∧ ReduceDoes .lrand (fun xs => xs.foldr (· &&& ·) 0xFFFFFFFF#32) ∧
  ReduceDoes .lror (fun xs => xs.foldr (· ||| ·) 0#32) ∧ ReduceDoes .lrxor (fun xs => xs.foldr (· ^^^ ·) 0#32) ∧
  (∃ f, ReduceDoes .lrmin f ∧ f [] = 0x7FFFFFFF#32 ∧ ∀ xs, xs ≠ [] → f xs ∈ xs ∧ ∀ x ∈ xs, (f xs).toInt ≤ x.toInt) ∧
  (∃ f, ReduceDoes .lrmax f ∧ f [] = 0x80000000#32 ∧ ∀ xs, xs ≠ [] → f xs ∈ xs ∧ ∀ x ∈ xs, x.toInt ≤ (f xs).toInt) ∧
  (∃ f, ReduceDoes .lrfadd f ∧ f [] = 0#32 ∧ (∀ xs, (∃ x ∈ xs, IsNan x) → f xs = qnan) ∧
    (∀ xs, xs ≠ [] → (∀ x ∈ xs, x = 0x80000000#32) → f xs = 0x80000000#32) ∧ (∀ xs ys, List.Perm xs ys → f xs = f ys) ∧
    f [0x4B800000#32, 0x3F800000#32, 0x3F800000#32] = 0x4B800001#32) ∧
  (∃ f, ReduceDoes .lrfmax f ∧ f [] = 0xFF800000#32 ∧ (∀ xs, xs ≠ [] → (∀ x ∈ xs, IsNan x) → f xs = qnan) ∧
    (∀ xs, (∃ x ∈ xs, ¬ IsNan x) → f xs ∈ xs ∧ ¬ IsNan (f xs) ∧ ∀ x ∈ xs, ¬ IsNan x → ¬ Below (f xs) x))

/-! ## The scalar ALU -/

/-- R242, Table 9-9: the scalar instructions execute once, whatever em holds. -/
def Obligations.ScalarAlu : Prop :=
  ScalarDoes .sadd (fun a b => a + b) ∧ ScalarDoes .ssub (fun a b => a - b) ∧ ScalarDoes .smul (fun a b => a * b) ∧
  ScalarDoes .sand (fun a b => a &&& b) ∧ ScalarDoes .sor (fun a b => a ||| b) ∧ ScalarDoes .sxor (fun a b => a ^^^ b) ∧
  ScalarDoes .sshl (fun a b => if 32 ≤ b.toNat then 0#32 else a <<< b.toNat) ∧
  ScalarDoes .sshr (fun a b => if 32 ≤ b.toNat then 0#32 else a >>> b.toNat) ∧
  ScalarDoes .ssar (fun a b => if 32 ≤ b.toNat then (if a.getLsbD 31 then 0xFFFFFFFF#32 else 0#32) else a.sshiftRight b.toNat) ∧
  ScalarDoes .smin (fun a b => if a.toInt ≤ b.toInt then a else b) ∧ ScalarDoes .smax (fun a b => if a.toInt ≤ b.toInt then b else a) ∧
  ScalarDoes .sminu (fun a b => if a.toNat ≤ b.toNat then a else b) ∧ ScalarDoes .smaxu (fun a b => if a.toNat ≤ b.toNat then b else a) ∧
  ScalarPairDoes .sadd64 (fun a b => a + b) ∧ ScalarPairDoes .ssub64 (fun a b => a - b) ∧
  (∀ (d : Reg) (b : SOp) (s : State), (∀ r ∈ b.ss, s.me.spoison r = false) →
    ∃ t, exec (.smov d b) s = .next t ∧ ScalarFrame s t b.len ∧ Scalar1 s t d.toNat (b.rd s.me)) ∧
  ScalarDoes .seq (fun a b => if a = b then 1#32 else 0#32) ∧ ScalarDoes .sne (fun a b => if a = b then 0#32 else 1#32) ∧
  ScalarDoes .slt (fun a b => if a.toInt < b.toInt then 1#32 else 0#32) ∧
  ScalarDoes .sle (fun a b => if a.toInt ≤ b.toInt then 1#32 else 0#32) ∧
  ScalarDoes .sgt (fun a b => if b.toInt < a.toInt then 1#32 else 0#32) ∧
  ScalarDoes .sge (fun a b => if b.toInt ≤ a.toInt then 1#32 else 0#32) ∧
  ScalarDoes .sltu (fun a b => if a.toNat < b.toNat then 1#32 else 0#32) ∧
  ScalarDoes .sgeu (fun a b => if b.toNat ≤ a.toNat then 1#32 else 0#32)

/-! ## Control -/

/-- R250, Table 9-13: a transfer lands on a clause header whatever em holds; a branch that is not taken passes its literal. R210, R250: a target that
is odd or out of range raises #ILL TARGET, a fetch that does not perform #PF FETCH, a word that is no header #ILL TARGET; no link is written and
the pc stays. -/
def Obligations.Transfers : Prop :=
  (
    BranchDoes .br [] (fun _ => True) ∧ BranchDoes .brmz [] (fun c => c.em = 0#64) ∧
    (∀ a : Reg, BranchDoes (.brz a) [a.toNat] (fun c => c.sget a.toNat = 0#32)) ∧
    (∀ a : Reg, BranchDoes (.brnz a) [a.toNat] (fun c => c.sget a.toNat ≠ 0#32)) ∧
    (∀ a : Reg, BranchDoes (.brpz a) [] (fun c => c.pget a.toNat &&& c.em = 0#64)) ∧
    (∀ a : Reg, BranchDoes (.brpnz a) [] (fun c => c.pget a.toNat &&& c.em ≠ 0#64)) ∧
    (∀ (d : Reg) (off : Word) (s u : State), Lands s (s.me.pc.toNat + off.toInt) u →
      ∃ t, exec (.call d off) s = .next t ∧ Jumped s t (BitVec.ofInt 56 (s.me.pc.toNat + off.toInt)) ∧ t.dev = u.dev ∧
        Scalar2 s t d.toNat (BitVec.ofNat 64 (s.me.pc.toNat + 8))) ∧
    (∀ (a : Reg) (s u : State), s.me.spoison a.toNat = false → s.me.spoison (a.toNat + 1) = false →
      Lands s (s.me.sget (a.toNat + 1) ++ s.me.sget a.toNat).toNat u →
      ∃ t, exec (.jmp a) s = .next t ∧ Jumped s t (BitVec.ofNat 56 (s.me.sget (a.toNat + 1) ++ s.me.sget a.toNat).toNat) ∧
        t.me.s = s.me.s ∧ t.me.sp = s.me.sp ∧ t.dev = u.dev)) ∧
  (
    ∀ (d : Reg) (off : Word) (s : State), s.recording = false →
      let target : Int := s.me.pc.toNat + off.toInt
      let bad := target < 0 ∨ 2 ^ 56 ≤ target ∨ target % 2 = 1 ∨ (s.me.priv = false ∧ 2 ^ 55 ≤ target)
      (bad → ∃ t, exec (.call d off) s = .next t ∧ Trapped s t 1 7 s.me.present 0) ∧
      (¬ bad → s.codeWaits s.me.priv target.toNat 2 = true → exec (.call d off) s = .next s) ∧
      (¬ bad → s.codeWaits s.me.priv target.toNat 2 = false → ∀ u, s.fetchWord s.me.priv target.toNat = (u, none) → LookedAt s u ∧
        ∃ t, exec (.call d off) s = .next t ∧ (s.me.priv = false → Trapped u t 4 7 s.me.present 0) ∧
          (s.me.priv = true → Trapped u t 4 10 s.me.present 0)) ∧
      (¬ bad → ∀ u w, s.fetchWord s.me.priv target.toNat = (u, some w) → (w.getLsbD 0 = false ∨ w.extractLsb' 2 6 ≠ 0#6) →
        LookedAt s u ∧ ∃ t, exec (.call d off) s = .next t ∧ Trapped u t 1 7 s.me.present 0))

/-- R209 to R213, R220, R252: a header whose flags are zero begins its clause and is not counted, one whose flags are not waits; one with P = 1 where
a pre-emption stop is due is the point at which the cohort stops, before WAIT is tested (R383, R391); NOP and HINT only retire; YIELD retires and
gives up its place only to a ready cohort. -/
def Obligations.Clauses : Prop :=
  let word (h : Header) : Word := 0#3 ++ BitVec.ofBool h.p ++ h.wait ++ h.b ++ h.a ++ 0#6 ++ BitVec.ofBool h.y ++ 1#1
  let stops (h : Header) (s : State) : Prop := h.p = true ∧ s.me.stopDue = 1 ∧ s.me.handler = false ∧ s.stopBarred = false
  (∀ (h : Header) (s : State), stops h s → exec (.clauseHeader h) s =
    .next { s with me := { s.me with stopDue := 7, clause := word h, atEntry := false, pc := s.me.pc + 4#56, wait := .none, held := false } }) ∧
  (∀ (h : Header) (s : State), ¬ stops h s →
    (∀ i, i < 12 → h.wait.getLsbD i = true → Store.get 0 s.me.f i = 0) →
    ∃ t, exec (.clauseHeader h) s = .next t ∧ t.me.pc = s.me.pc + 4#56 ∧ t.me.icount = s.me.icount ∧ t.me.wait = .none ∧
      t.me.clause = word h ∧ t.me.atEntry = false ∧
      { t.me.quiet with clause := s.me.clause, atEntry := s.me.atEntry, active := s.me.active, icount := s.me.quiet.icount } = s.me.quiet ∧
      (h.y = false → t.me.active = s.me.active) ∧ t.dev = s.dev ∧ t.co = s.co ∧ t.cx = s.cx ∧ t.turns = s.turns ∧ t.free = s.free) ∧
  (∀ (h : Header) (s : State) i, ¬ stops h s → i < 12 → h.wait.getLsbD i = true →
    Store.get 0 s.me.f i ≠ 0 → exec (.clauseHeader h) s = .next { s with me := { s.me with wait := .flags, active := false } }) ∧
  (∀ s, exec .nop s = .next (s.retire 4)) ∧
  (∀ m mb ma b a d k u s, exec (.hint m mb ma b a d k u) s = .next (s.retire 4)) ∧
  (∀ s, ∃ t, exec .yield s = .next t ∧ Retired s t 4 ∧ { t.me.quiet with active := s.me.active } = s.me.quiet ∧
    t.dev = s.dev ∧ t.co = s.co ∧ t.cx = s.cx ∧ t.turns = s.turns ∧ t.free = s.free ∧
    (∀ k, s.co.place = .core k → (∀ c ∈ s.co.cohorts, c.active = true) → (∀ h ∈ s.dev.companies, h.place ≠ .core k) →
      t.me.active = s.me.active))

/-- R217, R46, R320, R321, R251, R375: TRAP, the encodings that cannot execute, a fetch that does not perform, and the system instructions where they
may not run each raise their queue-level trap. -/
def Obligations.QueueLevelTraps : Prop :=
  ∀ s : State, s.recording = false →
    (∀ imm : BitVec 12, ∃ t, exec (.trap imm) s = .next t ∧ Trapped s t 10 0 s.me.present imm.toNat) ∧
    (∀ row ∈ [(IllCause.opc, 1), (.hdr, 2), (.unif, 3), (.field, 4), (.mark, 5), (.priv, 6), (.target, 7), (.cls, 8), (.persist, 9)],
      ∃ t, exec (.reservedEncoding row.1) s = .next t ∧ Trapped s t 1 row.2 s.me.present 0) ∧
    (s.me.priv = false → ∃ t, exec .instructionFetchFault s = .next t ∧ Trapped s t 4 7 s.me.present 0) ∧
    (s.me.priv = true → ∃ t, exec .instructionFetchFault s = .next t ∧ Trapped s t 4 10 s.me.present 0) ∧
    (s.me.priv = false → ∃ t, exec .halt s = .next t ∧ Trapped s t 1 6 s.me.present 0) ∧
    (s.me.priv = false → ∃ t, exec .rett s = .next t ∧ Trapped s t 1 6 s.me.present 0) ∧
    (s.me.priv = true → s.me.handler = false → ∃ t, exec .rett s = .next t ∧ Trapped s t 4 8 s.me.present 0) ∧
    (s.me.handler = true → ∃ t, exec .exit s = .next t ∧ Trapped s t 4 8 s.me.present 0) ∧
    (s.me.priv = true → ∀ imm : BitVec 12, ∃ t, exec (.sys imm) s = .next t ∧ Trapped s t 4 10 s.me.em 0)

/-- R373, R320: SYS enters the handler with em unchanged once every earlier instruction has retired; until then the entry waits, and
IN_LANE_TRAP_ENTRY makes it. A handler that is no header in the supervisor range raises #ILL TARGET. -/
def Obligations.SupervisorEntry : Prop :=
  ∀ (s u : State) (imm : BitVec 12), s.recording = false → s.me.priv = false → HandlerAt s u →
    (s.me.drained = true → ∃ t, exec (.sys imm) s = .next t ∧ t.dev = u.dev ∧ Looked s.dev t.dev ∧
      Entered s t 1 11 0 s.me.em imm.toNat s.me.pc s.me.em) ∧
    (s.me.drained = false → ∃ e, exec (.sys imm) s = .next { s with me := { s.me with stat := .entering e } } ∧
      e.cls = 1 ∧ e.code = 11 ∧ e.imm = imm.toNat ∧ e.pc = s.me.pc ∧ e.mask = s.me.em) ∧
    (∀ d j e, s.isAt d j = true → s.me.stat = .entering e → s.me.ops = [] → s.me.f = [] → e.frame = none →
      ∃ t, exec (.inLaneTrapEntry d j) s = .next t ∧ t.dev = u.dev ∧
        Entered s t e.cls e.code e.sub e.mask e.imm e.pc (if e.keepEm then s.me.em else e.mask &&& s.me.present))

/-- R374, R321: a RETT in the handler with every flag zero restores em, the clause, the privilege and the pc; after SYS with cr.fres 0 to 2 the
cohort goes on behind the SYS, after any cause but #ALN and SYS with cr.fres 0 at the saved pc. -/
def Obligations.SupervisorReturn : Prop :=
  ∀ s : State, s.recording = false → s.me.priv = true → s.me.handler = true → s.me.f = [] → s.me.heldTrap = none →
    let saved : VAddr := ((s.me.crget 0x52).setWidth 24 ++ s.me.crget 0x51 : BitVec 56)
    let code := (s.me.crget 0x50).toNat / 2 ^ 16 % 2 ^ 8
    let back (t : State) (pc : VAddr) : Prop := t.me.pc = pc ∧ t.me.priv = false ∧ t.me.handler = false ∧
      t.me.em = (s.me.crget 0x54 ++ s.me.crget 0x53) &&& s.me.present ∧ t.me.clause = s.me.crget 0x58 ∧
      { t.me.quiet with em := s.me.em, clause := s.me.clause, priv := s.me.priv, handler := s.me.handler } = s.me.quiet ∧
      t.dev = s.dev ∧ t.co = s.co ∧ t.cx = s.cx ∧ t.turns = s.turns ∧ t.free = s.free
    (s.me.stat = .running → (s.me.crget 0x50).toNat / 2 ^ 24 = 1 → code = 11 → (s.me.crget 0x32).toNat ≤ 2 →
      ∃ t, exec .rett s = .next t ∧ back t (saved + 4#56)) ∧
    (s.me.stat = .running → s.me.wait = .none → (s.me.crget 0x50).toNat / 2 ^ 24 = 1 → code = 4 → s.me.crget 0x32 = 0#32 →
      ∃ t, exec .rett s = .next t ∧ back t saved) ∧
    (s.me.stat = .running → s.me.wait = .none → (s.me.crget 0x50).toNat / 2 ^ 24 = 3 → (s.me.crget 0x32).toNat ≤ 2 →
      ∃ t, exec .rett s = .next t ∧ back t saved)

/-- R320, R322, R379: BKPT is NOP where breakpoints are off; else, and HALT at supervisor privilege, it retires and the context is to stop, with the
trap registers of #BKPT naming the next instruction. -/
def Obligations.Halts : Prop :=
  ∀ s : State, s.co.asid = s.cx.asid → s.me.stat = .running →
    (∀ imm : BitVec 12, s.cx.tctl.getLsbD 0 = false → exec (.bkpt imm) s = .next (s.retire 4)) ∧
    (∀ imm : BitVec 12, s.cx.tctl.getLsbD 0 = true → ∃ u t, exec (.bkpt imm) s = .next t ∧ Halting u t s.me.wid s.me.pc ∧
      { u with me := { u.me with cr := s.me.cr } } = s.retire 4 ∧
      u.me.crget 0x50 = BitVec.ofNat 32 (4 * 2 ^ 24 + 12 * 2 ^ 16) ∧ u.me.crget 0x57 = imm.setWidth 32 ∧
      u.me.crget 0x51 = (s.me.pc + 4#56).extractLsb' 0 32 ∧ u.me.crget 0x52 = ((s.me.pc + 4#56).extractLsb' 32 24).setWidth 32 ∧
      ∀ i, i < 0x50 ∨ 0x58 < i → u.me.crget i = s.me.crget i) ∧
    (s.me.priv = true → ∃ t, exec .halt s = .next t ∧ Halting (s.retire 4) t s.me.wid s.me.pc)

/-- R251: outside a handler EXIT ends its cohort whatever em holds: its registers return, its loads in flight are discarded and what returns nothing
is kept. -/
def Obligations.CohortEnd : Prop :=
  ∀ s : State, s.me.handler = false → s.me.gang = 0#32 → s.co.barArrived = [] → (∀ l ∈ s.cx.launches, l.garrived = []) →
    ∃ t ops, exec .exit s = .next t ∧ t = { s.retire 4 with
      me := { s.me.retire 4 with stat := .ended, v := [], active := false, ops := ops }, co := { s.co with ended := s.co.ended ++ [s.me.j] } } ∧
    List.Sublist ops s.me.ops ∧ (∀ o ∈ ops, ∀ z, o.kind ≠ .load z ∧ o.kind ≠ .ldu z) ∧
    (∀ o ∈ s.me.ops, (o.kind = .store ∨ o.kind = .storeZ ∨ o.kind = .fence ∨ ∃ r b, o.kind = .rmw r b) → o ∈ ops)

/-! ## Control registers, keys, counters and clocks -/

/-- R215, R316, R183: CRRD copies a register to a scalar whatever em holds; CRRDV to the active lanes, cr.wid0 with the number of the lane; an S
register is read at supervisor privilege only. -/
def Obligations.ControlRegisterReads : Prop :=
  ∀ (d : Reg) (idx : BitVec 12) (s : State),
    ((s.me.priv = true ∨ ¬ SReg idx.toNat) → ∃ x, CrHolds s idx.toNat x ∧
      (∃ t, exec (.crrd d idx) s = .next t ∧ ScalarFrame s t 4 ∧ Scalar1 s t d.toNat x) ∧
      (LaneReady s false [] [] [] d.toNat → ∃ t, exec (.crrdv d idx) s = .next t ∧ LaneDone s t 4 d.toNat [] [] true
        (fun i => if idx = 0#12 then x ||| BitVec.ofNat 32 i else x))) ∧
    (s.me.priv = false → SReg idx.toNat → s.recording = false →
      (∃ t, exec (.crrd d idx) s = .next t ∧ Trapped s t 1 6 s.me.present 0) ∧
      (∃ t, exec (.crrdv d idx) s = .next t ∧ Trapped s t 1 6 s.me.present 0))

/-- R215, R316: CRWR writes a register from a scalar whatever em holds; poison traps, and so does an S register at user privilege. -/
def Obligations.ControlRegisterWrites : Prop :=
  ∀ (d : Reg) (idx : BitVec 12) (s : State),
    ((s.me.priv = true ∨ ¬ SReg idx.toNat) → s.me.spoison d.toNat = false →
      ∃ t, exec (.crwr d idx) s = .next t ∧ CrWritten s t idx.toNat (s.me.sget d.toNat)) ∧
    ((s.me.priv = true ∨ ¬ SReg idx.toNat) → s.me.spoison d.toNat = true → s.recording = false →
      ∃ t, exec (.crwr d idx) s = .next t ∧ Trapped s t 6 1 s.me.present 0) ∧
    (s.me.priv = false → SReg idx.toNat → s.recording = false → ∃ t, exec (.crwr d idx) s = .next t ∧ Trapped s t 1 6 s.me.present 0)

/-- R317, R172, R175: SRKEY and SRSTEP write the context's key and step whatever em holds; a change empties the key-use filter and keeps the old pair
for SR instructions that issue around it (log entry 86), a write of the values held leaves it. R318, R319, R410, R196: in a CLASS 1 launch CNTRD
writes an operation counter, zero for an index that is not assigned, to a pair, and CLKRD a die's cycle counter, which only grows (log entry 4:
by a free number of cycles); in CLASS 0 both are #ILL CLASS. -/
def Obligations.KeysCountersAndClocks : Prop :=
  (
    ∀ (a : Reg) (s : State),
      let plain (t : State) : Prop := Retired s t 4 ∧ t.me.quiet = s.me.quiet ∧ t.dev = s.dev ∧ t.co = s.co ∧ t.turns = s.turns ∧ t.free = s.free
      (∀ r, r < 4 → s.me.spoison (a.toNat + r) = false) →
      (∃ t, exec (.srkey a) s = .next t ∧ plain t ∧
        t.cx.key = [s.me.sget a.toNat, s.me.sget (a.toNat + 1), s.me.sget (a.toNat + 2), s.me.sget (a.toNat + 3)] ∧
        (t.cx.key = s.cx.key → t.cx = s.cx) ∧ (t.cx.key ≠ s.cx.key → t.cx.filter = [] ∧ t.cx.srOld = (s.cx.key, s.cx.step)) ∧
        { t.cx with key := s.cx.key, filter := s.cx.filter, srStale := s.cx.srStale, srOld := s.cx.srOld } = s.cx) ∧
      (∃ t, exec (.srstep a) s = .next t ∧ plain t ∧ t.cx.step = s.me.sget a.toNat ∧
        (t.cx.step = s.cx.step → t.cx = s.cx) ∧ (t.cx.step ≠ s.cx.step → t.cx.filter = [] ∧ t.cx.srOld = (s.cx.key, s.cx.step)) ∧
        { t.cx with step := s.cx.step, filter := s.cx.filter, srStale := s.cx.srStale, srOld := s.cx.srOld } = s.cx)) ∧
  (
    ∀ (d : Reg) (s : State), s.recording = false →
      (∀ idx : BitVec 12, s.co.hdr.cls ≠ 0 → ∃ t x, exec (.cntrd d idx) s = .next t ∧ ScalarFrame s t 4 ∧ Scalar2 s t d.toNat x ∧
        t.cx = s.cx ∧ (idx.toNat ≤ 10 ∨ (16 ≤ idx.toNat ∧ idx.toNat ≤ 39) → x = Store.get 0#64 s.cx.cnt idx.toNat) ∧
        ((10 < idx.toNat ∧ idx.toNat < 16) ∨ (39 < idx.toNat ∧ idx.toNat < 126) ∨ 127 < idx.toNat → x = 0#64) ∧ (idx.toNat = 126 → x = s.cx.sat.extractLsb' 0 64) ∧
        (idx.toNat = 127 → x = s.cx.sat.extractLsb' 64 64)) ∧
      (∀ g : BitVec 3, s.co.hdr.cls ≠ 0 → let die := if g = 7#3 then s.hall else g.toNat
        ∃ t x n, exec (.clkrd d g) s = .next t ∧ Retired s t 4 ∧ Scalar2 s t d.toNat x ∧ x = s.dev.clocks.getD die 0#64 + BitVec.ofNat 64 n ∧
          t.dev = { s.dev with clocks := s.dev.clocks.set die x } ∧ t.co = s.co ∧ t.cx = s.cx ∧ t.turns = s.turns ∧
          { t.me.quiet with s := s.me.s, sp := s.me.sp } = s.me.quiet) ∧
      (s.co.hdr.cls = 0 → (∀ idx, ∃ t, exec (.cntrd d idx) s = .next t ∧ Trapped s t 1 8 s.me.present 0) ∧
        (∀ g, ∃ t, exec (.clkrd d g) s = .next t ∧ Trapped s t 1 8 s.me.present 0)))

/-! ## Memory instructions -/

/-- R253 to R260, R96, R111: LD, ST and LDU issue one access for each active lane (LDU and U = 1: for lane l alone) at window + offset; a store
carries the lane's registers, lowest first, and its flag has fallen again at issue. ST.B0 writes no bytes and counts each lane whose check fails
in cr.supfail (R47). -/
def Obligations.LoadsAndStores : Prop :=
  (∀ o : MemOps, AccessDoes (fun _ => True) (.ld o) fun c => { asks o.w.toNat .load (sizeBytes o.z) o.u (.load o.z) with
    vs := [o.a.toNat], frees := if o.ma then [o.a.toNat] else [], scope := o.c.toNat, acq := o.o, flag := some o.f, d := o.d.toNat
    aln := false, dst := groupNames o.d.toNat (sizeRegs o.z), offs := c.offsets o.u o.a }) ∧
  (∀ o : MemOps, AccessDoes (fun _ => True) (.st o) fun c => { asks o.w.toNat .store (sizeBytes o.z) o.u .store with
    vs := o.a.toNat :: groupNames o.d.toNat (sizeRegs o.z), frees := if o.ma then [o.a.toNat] else [], scope := o.c.toNat, rel := o.o
    aln := false, fkind := 1, d := o.d.toNat, offs := c.offsets o.u o.a
    data := fun i => (c.laneBytes o.d.toNat (sizeRegs o.z) i).take (sizeBytes o.z)
    sum := some fun i => (c.laneBytes o.d.toNat (sizeRegs o.z) i).take (sizeBytes o.z) }) ∧
  (∀ o : LduOps, AccessDoes (fun _ => True) (.ldu o) fun c => { asks o.w.toNat .load (sizeBytes o.z) true (.ldu o.z) with
    ss := [o.a.toNat], scope := o.c.toNat, acq := o.o, flag := some o.f, d := o.d.toNat
    offs := [((lowestLane c.act).getD 0, (c.sget o.a.toNat).toNat)] }) ∧
  (∀ (o : MemOps0) (s u : State) (cs : List LaneChk), s.recording = false → s.me.act ≠ 0#64 → s.me.mce o.u [o.a.toNat] [] = 0#64 →
    s.checkLanes o.w.toNat .empty .plain ((s.me.offsets o.u o.a).map fun x => (x.1, x.2, 0)) = (u, cs) → (∀ c ∈ cs, c.out ≠ .wait) →
    ∃ t x, exec (.stB0 o) s = .next t ∧ Retired s t 4 ∧ t.me.ops = s.me.ops ++ [x] ∧ x.kind = .storeZ ∧ x.rel = o.o ∧ x.scope = o.c.toNat ∧
      (∀ l ∈ x.lanes, l.len = 0 ∧ l.data = []) ∧ x.lanes.length = cs.length ∧ Looked s.dev u.dev ∧ t.dev.mem = u.dev.mem ∧
      t.cx = { s.cx with supfail := BitVec.ofNat 32 (min (s.cx.supfail.toNat + (cs.filter fun c => match c.out with
        | .fault _ => true
        | _ => false).length) 0xFFFFFFFF) } ∧ t.co = s.co ∧ t.turns = s.turns ∧ t.free = s.free)

/-- R261 to R267, R196: the atomics of a CLASS 1 launch, the reductions, the cell operations and the element-wise updates issue one read-modify-write
for each active lane, aligned, with the lane's registers as its operands. -/
def Obligations.AtomicsAndReductions : Prop :=
  let free (ma : Bool) (a : Reg) : List Nat := if ma then [a.toNat] else []
  let class1 (s : State) : Prop := s.co.hdr.cls ≠ 0
  let any (_ : State) : Prop := True
  let atom (op : Nat) (rel : Bool) (o : AtomOps) (c : Cohort) : MemJob :=
    let n := if o.z then 8 else 4
    let names := groupNames o.d.toNat (n / 4 * (if op = 7 then 2 else 1))
    let data (i : Nat) : List Byte := names.flatMap fun r => leBytes 4 ((c.vget r).lane i).toNat
    { asks o.w.toNat .atomic n o.u (.rmw (.int op n) true) with
      reach := .rmw (op == 0 || op == 6 || op == 7), fkind := 2, vs := o.a.toNat :: names, frees := free o.ma o.a, scope := o.c.toNat, acq := o.q
      rel := rel, flag := some o.f, d := o.d.toNat, dst := groupNames o.d.toNat (n / 4), offs := c.offsets o.u o.a, data := data, sum := some data }
  let red (op : Nat) (o : AtomOps) (c : Cohort) : MemJob :=
    let n := if o.z then 8 else 4
    let data (i : Nat) : List Byte := (groupNames o.d.toNat (n / 4)).flatMap fun r => leBytes 4 ((c.vget r).lane i).toNat
    { asks o.w.toNat .atomic n o.u (.rmw (.int op n) false) with
      reach := .rmw (op == 0), fkind := 3, vs := o.a.toNat :: groupNames o.d.toNat (n / 4), frees := free o.ma o.a, scope := o.c.toNat, rel := o.q
      d := o.d.toNat, offs := c.offsets o.u o.a, data := data, sum := some data }
  let fred (n : Nat) (r : Reach) (len : Nat) (k : Rmw) (cnt : Nat) (o : CellOps) (c : Cohort) : MemJob :=
    let data (i : Nat) : List Byte := (leBytes 4 ((c.vget o.d.toNat).lane i).toNat).take n
    { asks o.w.toNat .atomic len o.u (.rmw k false) with
      reach := r, fkind := 3, vs := [o.a.toNat, o.d.toNat], frees := free o.ma o.a, scope := o.c.toNat, rel := o.q, d := o.d.toNat
      offs := c.offsets o.u o.a, data := data, sum := some data, cnt := some (cnt, popcount (c.readers o.u)) }
  let rd (k regs : Nat) (o : CellOps) (c : Cohort) : MemJob := { asks o.w.toNat .load 64 o.u (.rmw (.cellrd k) true) with
    reach := .cell, vs := [o.a.toNat], frees := free o.ma o.a, scope := o.c.toNat, acq := o.q, flag := some o.f, d := o.d.toNat
    dst := groupNames o.d.toNat regs, offs := c.offsets o.u o.a }
  let bew (op k : Nat) (o : AtomOps) (c : Cohort) : MemJob :=
    let names := groupNames o.d.toNat k
    let data (i : Nat) : List Byte := names.flatMap fun r => leBytes 4 ((c.vget r).lane i).toNat
    let mask (i : Nat) : Word := if o.z then (c.vget o.d.toNat).lane i else (c.vget o.d.toNat).lane i &&& 0xFFFF#32
    { asks o.w.toNat .atomic 64 o.u (.rmw (.bew op o.z) false) with
      reach := .cell, fkind := 3, vs := o.a.toNat :: names, frees := free o.ma o.a, scope := o.c.toNat, rel := o.q, d := o.d.toNat
      offs := c.offsets o.u o.a, data := data, sum := some data
      cnt := some (31, ((lanesOf (c.readers o.u)).map fun i => popcount ((mask i).setWidth 64)).foldl (· + ·) 0) }
  (∀ row ∈ [(Instr.atomAdd, 0), (.atomMin, 1), (.atomMax, 2), (.atomAnd, 3), (.atomOr, 4), (.atomXor, 5), (.atomXchg, 6), (.atomCas, 7)],
    ∀ o, AccessDoes class1 (row.1 o) (atom row.2 false o)) ∧
  (∀ row ∈ [(Instr.atomrAdd, 0), (.atomrMin, 1), (.atomrMax, 2), (.atomrAnd, 3), (.atomrOr, 4), (.atomrXor, 5), (.atomrXchg, 6), (.atomrCas, 7)],
    ∀ o, AccessDoes class1 (row.1 o) (atom row.2 true o)) ∧
  (∀ row ∈ [(Instr.redniAdd, 0), (.redniSmin, 1), (.redniSmax, 2), (.redniUmin, 8), (.redniUmax, 9), (.redniAnd, 3), (.redniOr, 4), (.redniXor, 5)],
    ∀ o, AccessDoes any (row.1 o) (red row.2 o)) ∧
  (∀ row ∈ [(Instr.rednfF32Any, 0, 4), (.rednfBf16Any, 1, 2), (.rednfF16Any, 2, 2)],
    ∀ o, AccessDoes class1 (row.1 o) (fred row.2.2 (.rmw false) row.2.2 (.fadd row.2.1) (35 + row.2.1) o)) ∧
  (∀ row ∈ [(Instr.rednfF32Ord, 0, 4), (.rednfBf16Ord, 1, 2), (.rednfF16Ord, 2, 2)],
    ∀ o, AccessDoes any (row.1 o) (fred row.2.2 .cell 64 (.cell row.2.1) (32 + row.2.1) o)) ∧
  (∀ o : CellzOps, AccessDoes any (.rednfCellz o) fun c => { asks o.w.toNat .atomic 64 o.u (.rmw .cellz false) with
    reach := .cell, fkind := 3, vs := [o.a.toNat], frees := free o.ma o.a, scope := o.c.toNat, rel := o.q, offs := c.offsets o.u o.a
    sum := some fun _ => List.replicate 64 0#8 }) ∧
  (∀ row ∈ [(Instr.cellrdF32, 0, 1), (.cellrdBf16, 1, 1), (.cellrdRaw, 2, 16)], ∀ o, AccessDoes any (row.1 o) (rd row.2.1 row.2.2 o)) ∧
  (∀ row ∈ [(Instr.bewAdds, 0, 2), (.bewMuls, 1, 2), (.bewFmas, 2, 3), (.bewMaxs, 3, 2), (.bewMins, 4, 2)],
    ∀ o, AccessDoes any (row.1 o) (bew row.2.1 row.2.2 o))

/-! ## Performing accesses -/

/-- R96, R103, R258, Table 8-10: LOAD_RETURN of a load whose lanes are on one line of own memory writes each lane's registers with the bytes that its
hall sees, extended as the size code says; an acquire at PKG or POD scope reads what the home holds (R115); the flag falls and no byte of memory
changes. -/
def Obligations.LoadReturns : Prop :=
  ∀ (s : State) (o : MemOp) (z : BitVec 3) (line : Nat) (l : LaneOp), Alone s o → OneLine o line → l ∈ o.lanes → o.kind = .load z →
    o.u = false → o.stage = .issued → (∀ x ∈ o.lanes, x.lane < 64 ∧ x.len = sizeBytes z) → s.dev.badMask (line * 64) 64 = 0#64 →
    s.dev.tierDown (line * 64) = false →
    let now (a : Nat) : Byte := if o.acq = true ∧ 2 ≤ o.scope then (s.dev.applyAll s.hall).hallByte s.hall a else s.dev.hallByte s.hall a
    ((∀ h ∈ s.dev.halls, ∀ e ∈ h.inval, e.entered = true) → o.acq = true → 2 ≤ o.scope → ∀ a, now a = s.dev.byte a) ∧
    ∃ t, exec (.loadReturn o.id l.lane) s = .next t ∧ t.me.ops = [] ∧ t.me.f = (s.me.lower o.flag).f ∧
      (∀ x off k, x ∈ o.lanes → x.loc = .mem off → k < sizeRegs z →
        (t.me.vget (o.d + k)).lane x.lane = extend z (wordOfBytes ((List.range (sizeBytes z)).map fun i => now (off + i)) k) ∧
        (t.me.vget (o.d + k)).poison.getLsbD x.lane = false) ∧
      (∀ k i, k < sizeRegs z → i < 64 → i ∉ o.lanes.map (·.lane) → (t.me.vget (o.d + k)).lane i = (s.me.vget (o.d + k)).lane i ∧
        (t.me.vget (o.d + k)).poison.getLsbD i = (s.me.vget (o.d + k)).poison.getLsbD i) ∧
      (∀ r, (∀ k, k < sizeRegs z → r ≠ o.d + k) → t.me.vget r = s.me.vget r ∧ t.me.allocated r = s.me.allocated r) ∧
      { t.me with v := s.me.v, ops := s.me.ops, f := s.me.f } = s.me ∧
      (∀ a, t.dev.byte a = s.dev.byte a) ∧ t.dev.elsewhere = s.dev.elsewhere ∧ t.co = s.co ∧ t.cx = s.cx ∧ t.turns = s.turns ∧ t.free = s.free

/-- R102, R103, R60: STORE_PERFORM puts a store into the core's store buffer, in core store order, and from there the lanes on one line of HBM4 or
second-tier memory into memory: each stored byte is that of the highest lane, and every other byte of memory is as it was. -/
def Obligations.StoresPerform : Prop :=
  let covering (s : State) (o : MemOp) : Cohort := if o.rel = true ∧ o.scope = 3 then s.me.coverIf (Origin.before o.id) else s.me
  ∀ (s : State) (o : MemOp) (line : Nat) (l : LaneOp), Alone s o → OneLine o line → l ∈ o.lanes → o.kind = .store → o.flag = none →
    (o.stage = .issued → exec (.storePerform o.id l.lane) s = .next { s with
      me := { s.me with ops := [{ o with stage := .buffered s.dev.order }] }, dev := { s.dev with order := s.dev.order + 1 } }) ∧
    (∀ n, o.stage = .buffered n → line * 64 < 0x020000000000 → s.dev.tierDown (line * 64) = false →
      ∃ t ts, exec (.storePerform o.id l.lane) s = .next t ∧ t.me = { covering s o with ops := [] } ∧
        (∀ a, t.dev.byte a = (storedAt o.lanes a).getD (s.dev.byte a)) ∧ t.dev.elsewhere = s.dev.elsewhere ∧
        t.co = s.co ∧ t.cx = s.cx ∧ t.turns = ts ++ s.turns ∧ t.free = s.free)

/-- R70, R99, R261, R263, Table 10-3: BANK_OPERATION performs one lane of an integer operation on own memory indivisibly: the word becomes the
operation's new value, every other byte is as it was, and an atomic returns the old value to its lane. -/
def Obligations.BankOperations : Prop :=
  let covering (s : State) (o : MemOp) : Cohort := if o.rel = true ∧ o.scope = 3 then s.me.coverIf (Origin.before o.id) else s.me
  ∀ (s : State) (o : MemOp) (l : LaneOp) (op n off : Nat) (ret : Bool), Alone s o → o.lanes = [l] → o.kind = .rmw (.int op n) ret →
    n = 4 ∨ n = 8 → op < 10 → o.stage = .issued → l.sent = false → l.lane < 64 → o.u = false → l.loc = .mem off → off % n = 0 → off < 0x020000000000 →
    l.data.length = (if op = 7 then 2 * n else n) → s.dev.badMask (off / 64 * 64) 64 = 0#64 →
    s.dev.tierDown off = false →
    let old := s.dev.load off n
    let x := leNat (l.data.take n)
    let new := if op = 7 then (if old = x then leNat (l.data.drop n) else old) else
      ([(old + x) % 2 ^ (8 * n), if toSigned (8 * n) old ≤ toSigned (8 * n) x then old else x,
        if toSigned (8 * n) old ≤ toSigned (8 * n) x then x else old, old &&& x, old ||| x, old ^^^ x, x, 0, min old x, max old x]).getD op 0
    ∃ t ts, exec (.bankOperation o.id l.lane) s = .next t ∧ t.me.ops = [] ∧ t.dev.load off n = new ∧
      (∀ a, a < off ∨ off + n ≤ a → t.dev.byte a = s.dev.byte a) ∧
      (ret = true → ∀ k, k < n / 4 → ((t.me.vget (o.d + k)).lane l.lane).toNat = old / 2 ^ (32 * k) % 2 ^ 32) ∧
      (ret = false → t.me.v = s.me.v) ∧ (∀ r, (∀ k, k < n / 4 → r ≠ o.d + k) → t.me.vget r = s.me.vget r) ∧
      t.me.f = (s.me.lower o.flag).f ∧ { t.me with v := s.me.v, ops := s.me.ops, f := s.me.f } = covering s o ∧
      { t.dev.elsewhere with semr := s.dev.semr } = s.dev.elsewhere ∧ t.co = s.co ∧ t.cx = s.cx ∧ t.turns = ts ++ s.turns ∧ t.free = s.free

/-! ## Windows, fences, prefetches and whole registers -/

/-- R39, R271, R272, Table 2-5: WSET.L and WSET.A give a window its kind, base and what remains of the allocation; WSET.G takes the page of a present
leaf with R = 1 (from the TLB, or walked as a load, which marks it accessed), and LIMIT 0 otherwise, and waits where the walk meets a line in E
(R83); a base above 56 bits gives KIND 0. WINV zeroes a window and WINV.ALL all eight. No other window and nothing else of the cohort changes.
R106, R269, R270, R315, R212: FENCE takes its place at its scope among the cohort's accesses, whatever em holds; PREF does no more than translate
and bring lines into the caches, and frees what it marks; VFREE frees its names and passes over names without a register. -/
def Obligations.WindowsFencesAndNames : Prop :=
  (
    ∀ (f : Bool) (w : BitVec 3) (a : Reg) (s : State),
      let set (i : Instr) (d : Device) (x : Window) : Prop :=
        ∃ t, exec i s = .next t ∧ Retired s t 4 ∧ t.me.window w.toNat = x ∧ (∀ k, k ≠ w.toNat → t.me.window k = s.me.window k) ∧
          { t.me.quiet with win := s.me.win } = s.me.quiet ∧ t.dev = d ∧ t.co = s.co ∧ t.cx = s.cx ∧ t.turns = s.turns ∧ t.free = s.free
      let base := s.me.sget a.toNat
      let va := (s.me.sget64 a.toNat).toNat
      let fresh (kind addr : Nat) : Window := { kind := kind, base := BitVec.ofNat 56 addr, pa := 0#58, limit := 0#32, rp := false, wp := false
                                                dt := false, asid := BitVec.ofNat 12 s.co.asid, gen := ptgenOf s.dev addr s.co.asid }
      let page (first size frame home : Nat) (wr dt : Bool) : Window := { fresh 1 va with
        pa := BitVec.ofNat 58 (home * 2 ^ 48 + frame + (va - first))
        limit := BitVec.ofNat 32 (min (first + size - va) 0xFFFFFFFF), rp := true, wp := wr, dt := dt }
      let readable : Prop := va < 2 ^ 56 ∧ s.me.act ≠ 0#64 ∧ (va < 2 ^ 55 ∨ s.me.priv = true)
      set (.winv f w) s.dev Window.empty ∧
      (∃ t, exec (.winvAll f) s = .next t ∧ Retired s t 4 ∧ (∀ k, t.me.window k = Window.empty) ∧ { t.me.quiet with win := s.me.win } = s.me.quiet ∧
        t.dev = s.dev ∧ t.co = s.co ∧ t.cx = s.cx ∧ t.turns = s.turns ∧ t.free = s.free) ∧
      (s.me.spoison a.toNat = false →
        set (.wsetL f w a) s.dev { fresh 2 base.toNat with limit := BitVec.ofNat 32 (s.co.lsLen - base.toNat) } ∧
        (asidHeld s.dev s.co.asid = true → exec (.wsetA f w a) s = .next s) ∧
        (asidHeld s.dev s.co.asid = false → set (.wsetA f w a) s.dev { fresh 3 base.toNat with limit := BitVec.ofNat 32 (asLen s.dev s.co.asid - base.toNat) })) ∧
      (s.me.spoison a.toNat = true ∨ s.me.spoison (a.toNat + 1) = true → s.recording = false →
        ∃ t, exec (.wsetG f w a) s = .next t ∧ Trapped s t 6 1 s.me.present 0) ∧
      (s.me.spoison a.toNat = false → s.me.spoison (a.toNat + 1) = false →
        (2 ^ 56 ≤ va → set (.wsetG f w a) s.dev (fresh 0 0)) ∧
        (va < 2 ^ 56 → s.me.act = 0#64 ∨ (2 ^ 55 ≤ va ∧ s.me.priv = false) → set (.wsetG f w a) s.dev (fresh 1 va)) ∧
        (readable → ∀ e, tlbFind s.dev s.co.asid va .load = some e → set (.wsetG f w a) s.dev (page e.va e.size e.off e.home e.w e.d)) ∧
        (readable → tlbFind s.dev s.co.asid va .load = none →
          let found := (walkTouch s.co.asid va .load (s.dev.queued + 1) s.dev).2
          (∀ addr raw level, found = .leaf addr raw level → bit raw 1 = true →
            let size := if level = 3 then 2 ^ 30 else if level = 2 then 2 ^ 21 else 2 ^ 16
            ∃ d, set (.wsetG f w a) d (page (va / size * size) size (leafFrame raw) (bits raw 57 48) (bit raw 2) (bit raw 6)) ∧ Looked s.dev d) ∧
          (found = .waits → exec (.wsetG f w a) s = .next s) ∧
          (found ≠ .waits → (∀ addr raw level, found = .leaf addr raw level → bit raw 1 = false) → ∃ d, set (.wsetG f w a) d (fresh 1 va) ∧ Looked s.dev d)))) ∧
  (
    (∀ (f : Bool) (c : BitVec 2) (s : State), ∃ t x, exec (.fence f c) s = .next t ∧ Retired s t 4 ∧ t.me.ops = s.me.ops ++ [x] ∧ x.kind = .fence ∧
      x.scope = c.toNat ∧ x.lanes = [] ∧ x.id = s.dev.nextId ∧ { t.me.quiet with ops := s.me.ops } = s.me.quiet ∧
      t.dev = { s.dev with nextId := s.dev.nextId + 1 } ∧ t.co = s.co ∧ t.cx = s.cx ∧ t.turns = s.turns ∧ t.free = s.free) ∧
    (∀ (f : Bool) (w : BitVec 3) (a : Reg) (ma : Bool) (l : BitVec 2) (s : State),
      (s.me.window w.toNat).kind ≠ 1 ∨ (∀ c ∈ (s.checkLanes w.toNat .prefetch .plain ((s.me.offsets false a).map fun x => (x.1, x.2, 1))).2, c.out ≠ .wait) →
      ∃ t, exec (.pref f w a ma l) s = .next t ∧ Retired s t 4 ∧
      (∀ r, t.me.vget r = if ma = true ∧ r = a.toNat then VReg.zero else s.me.vget r) ∧ (ma = true → t.me.allocated a.toNat = false) ∧
      t.me.cr = (s.me.unalloc (s.me.misses [a.toNat])).cr ∧ (∀ k, { t.me.window k with dt := (s.me.window k).dt } = s.me.window k) ∧
      { t.me.quiet with v := s.me.v, cr := s.me.cr, win := s.me.win } = s.me.quiet ∧ (∃ d, Looked s.dev d ∧ t.dev = d.withCaches t.dev) ∧
      ((s.me.window w.toNat).kind ≠ 1 → t.dev = s.dev) ∧ t.co = s.co ∧ t.cx = s.cx ∧ t.turns = s.turns ∧ t.free = s.free) ∧
    (∀ (ma : Bool) (c a : Reg) (s : State), ∃ t, exec (.vfree ma c a) s = .next t ∧ Retired s t 4 ∧
      (∀ r, t.me.vget r = if a.toNat ≤ r ∧ r ≤ a.toNat + c.toNat then VReg.zero else s.me.vget r) ∧
      (∀ r, t.me.allocated r = if a.toNat ≤ r ∧ r ≤ a.toNat + c.toNat then false else s.me.allocated r) ∧
      { t.me.quiet with v := s.me.v } = s.me.quiet ∧ t.dev = s.dev ∧ t.co = s.co ∧ t.cx = s.cx ∧ t.turns = s.turns ∧ t.free = s.free))

/-- R313, R314: SPB stores, and FLA loads, 256 bytes for each register, whatever em holds: the words of lanes 0 to 63 in order, low byte first,
poison included. SPB frees each name; FLA allocates each. The run is checked as one access of lane 0; `u` is the state after the checks and `cs`
are its parts, each with its place and length. -/
def Obligations.WholeRegisters : Prop :=
  ∀ (f : Bool) (n w : BitVec 3) (a d : Reg) (s u : State) (cs : List (LaneChk × Nat × Nat)),
    let x := s.me.window w.toNat
    let o := (s.me.sget a.toNat).toNat
    let k := 2 ^ n.toNat
    let names := (List.range k).map fun m => d.toNat + m
    let checked (acc : Acc) : Prop := s.checkParts w.toNat acc o (if x.kind = 2 then [(0, 256 * k)] else cutRun 16 2 (x.addr o) 0 (256 * k)) = (u, cs) ∧
      ∀ c ∈ cs, ∃ l, c.1.out = .at l
    let issued (t : State) (y : MemOp) : Prop := t.me.ops = s.me.ops ++ [y] ∧ y.lanes.map (fun l => (l.loc, l.addr, l.len)) = wholeLines x o cs ∧ y.id = s.dev.nextId ∧ y.acq = false ∧ y.rel = false ∧ y.scope = 0 ∧
      Looked s.dev u.dev ∧ t.dev = { u.dev with nextId := s.dev.nextId + 1 } ∧ (∀ r, { t.me.window r with dt := (s.me.window r).dt } = s.me.window r) ∧
      t.co = s.co ∧ t.cx = s.cx ∧ t.turns = s.turns ∧ t.free = s.free
    s.me.spoison a.toNat = false → x.kind = 1 ∨ x.kind = 2 → o % 16 = 0 → s.recording = false →
    (checked .store → ∃ t y, exec (.spb f n w a d) s = .next t ∧ Retired s t 4 ∧ issued t y ∧ y.kind = .spb k ∧
      (∀ l ∈ y.lanes, ∀ b, b < l.len → l.addr + b < 256 * k → l.data.getD b 0#8 =
        BitVec.ofNat 8 ((((s.me.vget (d.toNat + (l.addr + b) / 256)).lane ((l.addr + b) % 256 / 4)).toNat) / 256 ^ ((l.addr + b) % 4))) ∧
      (∀ r, t.me.vget r = if r ∈ names then VReg.zero else s.me.vget r) ∧ (∀ r, t.me.allocated r = if r ∈ names then false else s.me.allocated r) ∧
      { t.me.quiet with v := s.me.v, ops := s.me.ops, win := s.me.win } = s.me.quiet) ∧
    (checked .load → (u.canAlloc (names.filter fun r => !s.me.allocated r).length) = true →
      ∃ t y, exec (.fla f n w a d) s = .next t ∧ Retired s t 4 ∧ issued t y ∧ y.kind = .fla k ∧ y.d = d.toNat ∧ y.flag = s.me.flagOf f ∧
      (∀ r, t.me.vget r = s.me.vget r) ∧ (∀ r, t.me.allocated r = (decide (r ∈ names) || s.me.allocated r)) ∧
      t.me.f = (s.me.raise (s.me.flagOf f)).f ∧ { t.me.quiet with v := s.me.v, ops := s.me.ops, win := s.me.win, f := s.me.f } = s.me.quiet)

/-! ## Copies -/

/-- R273, R274, R82, R81, Tables 10-4 and 10-5: a copy whose checks pass issues its pieces, cut where a destination row crosses 4 KiB, and retires; a
copy of no bytes, and one under an empty em, moves nothing. `u` is the state after the checks of the source rows `xs` and of the destination rows
`ys`, each a list of parts with their lengths. R85, R113, R120, R276, Table 3-6: CPYB closes the cohort's open batch under the next number; CPYW
goes on once every batch up to the one named is complete, and covers their failures. It waits while one is not. -/
def Obligations.Copies : Prop :=
  (
    ∀ row ∈ [(Instr.cpyGl, 2, 1, 3), (.cpyLg, 1, 2, 3), (.cpyGg, 1, 1, 3), (.cpyTgl, 2, 1, 6), (.cpyTlg, 1, 2, 6)],
      ∀ (f : Bool) (dw sw : BitVec 3) (a : Reg) (s u v : State) (xs ys : List (List (LaneChk × Nat))),
      let dk := row.2.1
      let sk := row.2.2.1
      let n := row.2.2.2
      let g (k : Nat) : Word := s.me.sget (a.toNat + k)
      let len := (g 2).toNat
      let rows := if n = 6 then (g 3).toNat else 1
      let start (k : Nat) (r : Nat) : Int := (g k).toNat + r * (if n = 6 then (g (4 + k)).toInt else 0)
      let offs (k : Nat) : List Nat := (List.range rows).map fun r => (start k r).toNat
      let addr (w : BitVec 3) (o : Nat) : Nat := (s.me.window w.toNat).base.toNat + o
      let at' (x : LaneChk × Nat) : Seg := { loc := x.1.out.loc, len := x.2 }
      let ps := ((offs 1).zip (xs.zip ys)).flatMap fun x => rowPieces (.cohort s.co.dseq s.me.j) none s.co.asid (s.core / 16) (addr dw x.1)
        (x.2.1.map at') (x.2.2.map at') len
      s.me.mce false [] (groupNames a.toNat n) = 0#64 →
      (s.me.act = 0#64 ∨ len = 0 ∨ rows = 0 → exec (row.1 f dw sw a) s = .next (s.retire 4)) ∧
      (s.recording = false → s.me.act ≠ 0#64 → 0 < len → 0 < rows → (s.me.window sw.toNat).kind = sk → (s.me.window dw.toNat).kind = dk →
        (g 0).toNat % 16 = 0 → (g 1).toNat % 16 = 0 → len % 16 = 0 → (n = 6 → (g 4).toInt % 16 = 0 ∧ (g 5).toInt % 16 = 0) →
        rows ≤ 1024 → len ≤ 1024 * 4096 → (∀ k r, k < 2 → r < rows → 0 ≤ start k r ∧ start k r + len ≤ 2 ^ 32) →
        ((offs 1).map fun o => (addr dw o + len - 1) / 4096 - addr dw o / 4096 + 1).foldl (· + ·) 0 ≤ 1024 →
        (sk = 2 → ∀ o ∈ offs 0, addr sw o + len ≤ s.co.lsLen) → (dk = 2 → ∀ o ∈ offs 1, addr dw o + len ≤ s.co.lsLen) →
        s.sideChecks { win := sw.toNat, kind := sk, write := false } len (offs 0) = (u, xs) →
        u.sideChecks { win := dw.toNat, kind := dk, write := true } len (offs 1) = (v, ys) →
        (∀ x ∈ xs.flatten ++ ys.flatten, ∃ l, x.1.out = .at l) →
        (∀ y ∈ ys, segsMeet s.co.dseq (xs.flatten.map at') (y.map at') = false) → someMeet s.co.dseq (ys.map fun y => y.map at') = false →
        s.dev.piecesFit (s.core / 16) ps = true →
        ∃ t qs, exec (row.1 f dw sw a) s = .next t ∧ Retired s t 4 ∧ qs.map (fun p => { p with id := 0 }) = ps ∧
          qs.map (·.id) = (List.range ps.length).map (fun i => s.dev.nextId + i) ∧
          t.dev = { v.dev with pieces := s.dev.pieces ++ qs, nextId := s.dev.nextId + ps.length, dir := t.dev.dir, l2 := t.dev.l2, l3 := t.dev.l3 } ∧ Looked s.dev v.dev ∧
          (∀ k, { t.me.window k with dt := (s.me.window k).dt } = s.me.window k) ∧ { t.me.quiet with win := s.me.win } = s.me.quiet ∧
          t.co = s.co ∧ t.cx = s.cx ∧ t.turns = s.turns ∧ t.free = s.free)) ∧
  (
    (∀ (f : Bool) (d : Reg) (s : State), s.openBatches.length < 64 →
      let n := ((s.me.crget 0x22).toNat + 1) % 2 ^ 16
      ∃ t, exec (.cpyb f d) s = .next t ∧ Retired s t 4 ∧ t.me.sget d.toNat = BitVec.ofNat 32 n ∧ t.me.crget 0x22 = BitVec.ofNat 32 n ∧
        (∀ r, r ≠ d.toNat → t.me.sget r = s.me.sget r) ∧ (∀ r, r ≠ 0x22 → t.me.crget r = s.me.crget r) ∧ n ∈ t.me.batches ∧
        t.me.uncovered = s.me.uncovered.map (fun u => (u.1, u.2.1, if u.2.2 = .copy none then .copy (some n) else u.2.2)) ∧
        t.dev = { s.dev with pieces := s.dev.pieces.map fun p => if p.ownedBy s.co.dseq s.me.j && p.batch == none then { p with batch := some n } else p } ∧
        { t.me.quiet with s := s.me.s, sp := s.me.sp, cr := s.me.cr, batches := s.me.batches, uncovered := s.me.uncovered } = s.me.quiet ∧
        t.co = s.co ∧ t.cx = s.cx ∧ t.turns = s.turns ∧ t.free = s.free) ∧
    (∀ (f : Bool) (a : Reg) (s : State), s.me.spoison a.toNat = false →
      let n := (s.me.sget a.toNat).toNat % 2 ^ 16
      let l := (s.me.crget 0x22).toNat % 2 ^ 16
      let back (b : Nat) : Nat := (l + 2 ^ 16 - b) % 2 ^ 16
      let due (b : Nat) : Prop := b ∈ s.openBatches ∧ (0x8000 ≤ back n ∨ (back n < 64 ∧ back n ≤ back b))
      let seen (o : Origin) : Prop := ∃ b ∈ s.me.batches, o = .copy (some b) ∧ (0x8000 ≤ back n ∨ (back n < 64 ∧ back n ≤ back b))
      let cr := (if 0x8000 ≤ back n then s.me.crput 0x23 0x80000000#32 else s.me).cr
      ((∀ b, ¬ due b) → ∃ t, exec (.cpyw f a) s = .next t ∧ Retired s t 4 ∧
        ((∀ x ∈ s.me.uncovered, ¬ seen x.2.2) → t.me.cr = cr) ∧ ((∃ x ∈ s.me.uncovered, seen x.2.2) → (t.me.crget 0x21).getLsbD 31 = true) ∧
        (∀ i, i ≠ 0x21 → i ≠ 0x23 → t.me.crget i = s.me.crget i) ∧ (∀ x, x ∈ t.me.uncovered ↔ x ∈ s.me.uncovered ∧ ¬ seen x.2.2) ∧
        { t.me.quiet with cr := s.me.cr, uncovered := s.me.uncovered } = s.me.quiet ∧
        t.dev = s.dev ∧ t.co = s.co ∧ t.cx = s.cx ∧ t.turns = s.turns ∧ t.free = s.free) ∧
      ((∃ b, due b) → ∃ t, exec (.cpyw f a) s = .next t ∧ t.me = { s.me with cr := cr, wait := .cpyw, active := false } ∧ t.dev = s.dev)))

/-! ## Barriers, semaphores and signals -/

/-- R277, R278, R197, R192: BAR and GBARA arrive; the arrival that completes the phase makes every waiting cohort continue, and the epilogue cohort
(with CLASS 0 the participant of the highest WID, else the last) reads 1 and the others 0. GBARA gives the number of its phase; GBARW reads the
phase's flag once the phase has completed, 0 without an arrival, and waits otherwise. R279, R280, R99, R196: SEMA takes one from a word of own
memory that is positive and reads what it held, and waits while it is not; SEMA_GRANT tests the word of a waiting SEMA again. SEMR adds a count
as a release; SIGNAL adds or sets as a release at PKG scope, and a word on another device makes it a signal there. -/
def Obligations.BarriersAndSemaphores : Prop :=
  (
    (∀ (d : Reg) (s : State), Still s → s.me.j ∉ s.co.barArrived → (∀ p ∈ s.co.barDone, p.1 ≠ s.me.j) →
      let a := s.co.barArrived ++ [s.me.j]
      let full : Prop := ∀ j ∈ s.co.created, j ∉ s.co.ended → j ∈ a
      let epi := if s.co.hdr.cls = 0 then a.foldl max 0 else s.me.j
      (¬ full → exec (.bar d) s = .next { s with co := { s.co with barArrived := a }, me := { s.me with wait := .bar, active := false } }) ∧
      (full → ∃ t, exec (.bar d) s = .next t ∧ Retired s t 4 ∧ t.me.sget d.toNat = (if s.me.j = epi then 1#32 else 0#32) ∧
        (∀ r, r ≠ d.toNat → t.me.sget r = s.me.sget r) ∧ { t.me.quiet with s := s.me.s, sp := s.me.sp } = s.me.quiet ∧
        t.co = { s.co with barArrived := [], barPhase := s.co.barPhase + 1
                           barDone := s.co.barDone ++ (s.co.barArrived.map fun j => (j, decide (j = epi))) } ∧
        t.dev = s.dev ∧ t.cx = { s.cx with srStale := s.cx.srStale.filter fun p => p != (s.co.dseq, s.me.j) } ∧ t.turns = s.turns)) ∧
    (∀ (d : Reg) (s : State) (e : Bool), Still s → s.co.barDone.find? (fun p => p.1 == s.me.j) = some (s.me.j, e) →
      ∃ t, exec (.bar d) s = .next t ∧ Retired s t 4 ∧ t.me.sget d.toNat = (if e then 1#32 else 0#32) ∧
        (∀ r, r ≠ d.toNat → t.me.sget r = s.me.sget r) ∧ { t.me.quiet with s := s.me.s, sp := s.me.sp } = s.me.quiet ∧
        t.co = { s.co with barDone := s.co.barDone.filter fun q => q.1 != s.me.j } ∧ t.dev = s.dev ∧
        t.cx = { s.cx with srStale := s.cx.srStale.filter fun p => p != (s.co.dseq, s.me.j) } ∧ t.turns = s.turns) ∧
    (∀ (d : Reg) (s : State) (l : Launch), Still s → s.co.hdr.persist = true → s.launch? = some l → s.me.gcount = l.gphase →
      let own := (s.co.dseq, s.me.j)
      let a := (l.garrived.filter fun x => x.2 != own) ++ [(l.gphase, own)]
      let who := (a.filter fun x => x.1 == l.gphase).map (·.2)
      let top := who.foldl (fun x y => if x.1 < y.1 ∨ (x.1 = y.1 ∧ x.2 < y.2) then y else x) (who.headD (0, 0))
      let full : Prop := ∀ p ∈ s.liveOf l.lseq, p ∈ who
      ∃ t l', exec (.gbara d) s = .next t ∧ Retired s t 4 ∧ t.me.sget d.toNat = BitVec.ofNat 32 l.gphase ∧ t.me.gcount = l.gphase + 1 ∧
        (∀ r, r ≠ d.toNat → t.me.sget r = s.me.sget r) ∧ t.launch? = some l' ∧ (¬ full → l' = { l with garrived := a }) ∧
        (full → l' = { l with garrived := a, gphase := l.gphase + 1, gepi := l.gepi ++ [(l.gphase, if s.co.hdr.cls = 0 then top else own)] }) ∧
        { t.me.quiet with s := s.me.s, sp := s.me.sp, gcount := s.me.gcount } = s.me.quiet ∧ (∀ x, t.dev.byte x = s.dev.byte x) ∧
        t.dev.elsewhere = s.dev.elsewhere ∧ { t.cx with launches := s.cx.launches } = s.cx ∧ t.co = s.co ∧ t.turns = s.turns) ∧
    (∀ (d : Reg) (s : State) (l : Launch), Still s → s.co.hdr.persist = true → s.launch? = some l → l.gphase < s.me.gcount →
      exec (.gbara d) s = .next { s with me := { s.me with wait := .gbarw, active := false } }) ∧
    (∀ (d : Reg) (s : State) (l : Launch), Still s → s.co.hdr.persist = true → s.launch? = some l →
      let own := (s.co.dseq, s.me.j)
      let last := (l.garrived.filter fun x => x.2 == own).getLast?
      let done (x : Word) (l' : Launch) : Prop := ∃ t, exec (.gbarw d) s = .next t ∧ Retired s t 4 ∧ t.me.sget d.toNat = x ∧
        (∀ r, r ≠ d.toNat → t.me.sget r = s.me.sget r) ∧ { t.me.quiet with s := s.me.s, sp := s.me.sp } = s.me.quiet ∧ t.launch? = some l' ∧
        (∀ x, t.dev.byte x = s.dev.byte x) ∧ t.dev.elsewhere = s.dev.elsewhere ∧ { t.cx with launches := s.cx.launches, srStale := s.cx.srStale } = s.cx ∧
        t.co = s.co ∧ t.turns = s.turns ∧ t.free = s.free
      (last = none → done 0#32 l) ∧
      (∀ n, last = some (n, own) → n < l.gphase →
        done (if (n, own) ∈ l.gepi then 1#32 else 0#32) { l with garrived := l.garrived.filter fun x => x.2 != own }) ∧
      (∀ n, last = some (n, own) → l.gphase ≤ n → exec (.gbarw d) s = .next { s with me := { s.me with wait := .gbarw, active := false } })) ∧
    (∀ (d : Reg) (s : State), s.co.hdr.persist = false → s.recording = false → ∃ t u, exec (.gbara d) s = .next t ∧ exec (.gbarw d) s = .next u ∧
      t.me.stat = .trapped ∧ t.me.crget 0x50 = 0x02010009#32 ∧ u = t)) ∧
  (
    let job (w : BitVec 3) (a d : Reg) (scope fkind : Nat) (k : OpKind) (c : Cohort) (data : List Byte) : MemJob :=
      { asks w.toNat .atomic 4 true k with
        reach := .rmw false, fkind := fkind, ss := [a.toNat, d.toNat], scope := scope, rel := true, d := d.toNat
        offs := [((lowestLane c.act).getD 0, (c.sget a.toNat).toNat)], data := fun _ => data, sum := some fun _ => leBytes 4 (c.sget d.toNat).toNat }
    let taken (s u t : State) (m : SemaOp) (off : Nat) : Prop :=
      let old := u.dev.load off 4
      (old ≠ 0 → old < 2 ^ 31 → Retired s t 4 ∧ t.me.sget m.d = BitVec.ofNat 32 old ∧ t.dev.load off 4 = old - 1 ∧
        (∀ x, x < off ∨ off + 4 ≤ x → t.dev.byte x = u.dev.byte x) ∧ t.dev.elsewhere = u.dev.elsewhere ∧ (∀ r, r ≠ m.d → t.me.sget r = s.me.sget r) ∧
        t.me.sema = none ∧ { t.me.quiet with s := s.me.s, sp := s.me.sp, sema := s.me.sema, win := s.me.win } = s.me.quiet) ∧
      (old = 0 ∨ 2 ^ 31 ≤ old → t = { u with me := { u.me with sema := some m, wait := .sema, active := false } })
    (∀ (c : BitVec 2) (w : BitVec 3) (a d : Reg) (s u : State) (k : LaneChk) (off : Nat), Still s → s.co.hdr.cls ≠ 0 → s.me.act ≠ 0#64 →
      s.me.spoison a.toNat = false → s.checkLanes w.toNat .atomic (.rmw false) [((lowestLane s.me.act).getD 0, (s.me.sget a.toNat).toNat, 4)] = (u, [k]) →
      k.out = .at (.mem off) → k.addr % 4 = 0 → off % 4 = 0 → off < 0x020000000000 → u.dev.badMask (off / 64 * 64) 64 = 0#64 →
      ∃ t, exec (.sema c w a d) s = .next t ∧ taken s u t { loc := .mem off, scope := c.toNat, d := d.toNat } off ∧ Looked s.dev u.dev ∧
        t.co = s.co ∧ t.cx = s.cx) ∧
    (∀ (s : State) (m : SemaOp) (off : Nat), Still s → s.me.sema = some m → s.me.wait = .sema → s.me.active = false → m.loc = .mem off →
      off % 4 = 0 → off < 0x020000000000 → s.dev.badMask (off / 64 * 64) 64 = 0#64 →
      ∃ t, exec (.semaGrant s.co.dseq s.me.j) s = .next t ∧ taken s s t m off ∧ t.co = s.co ∧ t.cx = s.cx) ∧
    (∀ (c : BitVec 2) (w : BitVec 3) (a d : Reg), AccessDoes (fun _ => True) (.semr c w a d) fun x =>
      if x.sget d.toNat = 0#32 then job w a d c.toNat 3 .storeZ x [] else job w a d c.toNat 3 (.rmw (.int 0 4) false) x (leBytes 4 (x.sget d.toNat).toNat)) ∧
    (∀ row ∈ [(Instr.signalAdd, 0, false), (.signalSet, 6, true)], ∀ (w : BitVec 3) (a d : Reg) (s u : State) (cs : List LaneChk),
      let j := job w a d 2 3 (.rmw (.int row.2.1 4) false) s.me (leBytes 4 (s.me.sget d.toNat).toNat)
      s.recording = false → s.me.mce true [] [a.toNat, d.toNat] = 0#64 → s.me.act ≠ 0#64 → (∀ o ∈ s.me.ops, o.id < s.dev.nextId) →
      ((s.me.window w.toNat).kind = 1 → Accesses s j u cs → ∃ t x, exec (row.1 w a d) s = .next t ∧ t.me.ops = s.me.ops ++ [x] ∧
        x = { opOf s j cs with kind := match (cs.head?).map fun c => c.out.loc with
          | Option.some (Loc.far _ _) => .signal row.2.2
          | _ => (opOf s j cs).kind } ∧ Issued s u { t with me := { t.me with ops := s.me.ops ++ [opOf s j cs] } } j cs) ∧
      ((s.me.window w.toNat).kind ≠ 1 → exec (row.1 w a d) s = .next (s.accessTrap 2 5 (maskOf (lowestLane s.me.act).toList)))))

/-! ## Graph records -/

/-- R282, R189, R191: records go into the ring in order, each into slot EMITTED mod QCAP before EMITTED counts it; a node that is BROKEN or for which
the launch has finished counts them as dropped; a full ring makes the EMIT wait with the records that are left, and EMIT_APPEND goes on. EMIT
takes one record from each active lane, in ascending order, once it is a release at PKG scope. R283, Table 7-6, R284, R189, R190: RECV claims the
oldest record and stores it, gives 1 from an OPEN and 2 from a CLOSED node without one, and raises #QBRK from a BROKEN node. CLOSE finishes the
launch for the node, once: LIVEPRED falls, and at 0 an OPEN node is CLOSED. CONSUMER_LAUNCH makes the node's next company where R190 lets it, and
LASTL takes EMITTED. -/
def Obligations.EmitsAndGraphNodes : Prop :=
  (
    let append (asa asid : Nat) (d : Device) (r : List Byte × Nat) : Device :=
      (d.putBits (d.nodeSlot asid asa (d.nodeEmitted asa)) r.1 r.2).nodeSet asa 0x18 4 ((d.nodeEmitted asa + 1) % 2 ^ 32)
    let drop (asa : Nat) (d : Device) : Device := d.nodeSet asa 0x20 4 (min (d.nodeGet asa 0x20 4 + 1) 0xFFFFFFFF)
    let ended (s t : State) (d : Device) : Prop := Retired s t 4 ∧ t.dev = d ∧ t.me.emit = none ∧ { t.me.quiet with emit := s.me.emit } = s.me.quiet ∧
      t.co = s.co ∧ t.cx = s.cx ∧ t.turns = s.turns ∧ t.free = s.free
    (∀ (s : State) (asa : Nat) (recs : List (List Byte × Nat)) (l : Launch) (i : Instr), s.recording = false → s.me.stat = .running →
      s.co.place ≠ .absent → s.me.emit = some { node := asa, recs := recs } → s.launch? = some l →
      (∃ f w a d ma, i = .emit f w a d ma) ∨ i = .emitAppend s.co.dseq s.me.j →
      let dev (n : Nat) : Device := (recs.take n).foldl (append asa s.co.asid) s.dev
      let fits (n : Nat) : Prop := (dev n).nodeState asa ≠ 2 ∧ (dev n).nodeHeld asa ≠ (dev n).nodeCap asa ∧
        (dev n).inCarve ((dev n).nodeSlot s.co.asid asa ((dev n).nodeEmitted asa)) (recs.getD n ([], 0)).1.length = true
      (l.mute asa = false → (∀ n, n < recs.length → fits n) →
        ∃ t, exec i s = .next t ∧ ended s t (dev recs.length)) ∧
      (l.mute asa = false → ∀ n, n < recs.length → (∀ m, m < n → fits m) →
        (dev n).nodeState asa ≠ 2 → (dev n).nodeHeld asa = (dev n).nodeCap asa →
        exec i s = .next { s with dev := dev n, me := { s.me with emit := some { node := asa, recs := recs.drop n }, wait := .emit, active := false } }) ∧
      (l.mute asa = true → ∃ t, exec i s = .next t ∧ ended s t ((List.range recs.length).foldl (fun d _ => drop asa d) s.dev))) ∧
    (∀ (f : Bool) (w : BitVec 3) (a d : Reg) (ma : Bool) (s u : State) (n : Node) (cs : List LaneChk), Still s → s.me.emit = none →
      s.me.mce false [a.toNat] [d.toNat] = 0#64 → s.me.act ≠ 0#64 → s.node? (s.me.sget d.toNat).toNat = some n → s.dev.inCarve (nodeAt n.asa 0) 64 = true →
      s.checkLanes w.toNat .load .plain (granules (s.dev.nodeSize n.asa) (s.me.offsets false a)) = (u, cs) →
      (∀ c ∈ cs, (∃ off, c.out = .at (.mem off) ∨ c.out = .at (.loc off)) ∧ c.addr % 16 = 0) →
      ∃ v recs, exec (.emit f w a d ma) s = exec (.emitAppend s.co.dseq s.me.j) v ∧ v.me.emit = some { node := n.asa, recs := recs } ∧
        recs.map (·.1) = (toRecords (max 1 (u.dev.nodeSize n.asa / 16)) (cs.length + 1) (cs.map fun c =>
          ((List.range 16).map fun i => match c.out with
            | .at (.mem off) => u.dev.byte (off + i)
            | .at (.loc off) => Store.get 0#8 s.co.ls (off + i)
            | _ => 0#8, 0#64))).map (·.1) ∧
        (∀ r, v.me.vget r = if ma = true ∧ r = a.toNat then VReg.zero else s.me.vget r) ∧ Looked s.dev u.dev ∧ v.dev.elsewhere = u.dev.elsewhere ∧
        (∀ x, v.dev.byte x = u.dev.byte x) ∧ v.me.pc = s.me.pc ∧ v.co = s.co ∧ v.cx = s.cx ∧ v.turns = s.turns)) ∧
  (
    (∀ (f : Bool) (w : BitVec 3) (a d : Reg) (s u : State) (n : Node) (cs : List LaneChk), Still s → s.co.hdr.cls ≠ 0 →
      s.me.mce true [] [a.toNat, a.toNat + 1] = 0#64 → s.me.act ≠ 0#64 → s.node? (s.me.sget a.toNat).toNat = some n → s.dev.inCarve (nodeAt n.asa 0) 64 = true →
      s.checkLanes w.toNat .store .plain (granules (s.dev.nodeSize n.asa) [((lowestLane s.me.act).getD 0, (s.me.sget (a.toNat + 1)).toNat)]) = (u, cs) →
      (∀ c ∈ cs, (∃ l, c.out = .at l) ∧ c.addr % 16 = 0) →
      let data (i : Nat) : List Byte := (((List.range (u.dev.nodeSize n.asa)).map fun k =>
        u.dev.byte (u.dev.nodeSlot s.co.asid n.asa (u.dev.nodeClaimed n.asa) + k)).drop (16 * i)).take 16
      let gave (x : Word) (t : State) : Prop := Retired s t 4 ∧ t.me.sget d.toNat = x ∧ (∀ r, r ≠ d.toNat → t.me.sget r = s.me.sget r) ∧
        { t.me.quiet with s := s.me.s, sp := s.me.sp, ops := s.me.ops, win := s.me.win } = s.me.quiet ∧ t.co = s.co ∧ t.cx = s.cx ∧ Looked s.dev u.dev
      (u.dev.nodeState n.asa ≠ 2 → u.dev.nodeHeld n.asa ≠ 0 →
        u.dev.inCarve (u.dev.nodeSlot s.co.asid n.asa (u.dev.nodeClaimed n.asa)) (u.dev.nodeSize n.asa) = true → ∃ t y, exec (.recv f w a d) s = .next t.graphDone ∧ gave 0#32 t ∧ t.me.ops = [y] ∧
        y.kind = .store ∧ y.lanes.map (fun l => (l.loc, l.len)) = cs.map (fun c => (c.out.loc, 16)) ∧ y.lanes.map (·.data) = (List.range cs.length).map data ∧
        (∀ x, t.dev.byte x = (u.dev.nodeSet n.asa 0x1C 4 ((u.dev.nodeClaimed n.asa + 1) % 2 ^ 32)).byte x)) ∧
      (u.dev.nodeState n.asa ≠ 2 → u.dev.nodeHeld n.asa = 0 → ∃ t, exec (.recv f w a d) s = .next t ∧
        gave (if u.dev.nodeState n.asa = 0 then 1#32 else 2#32) t ∧ t.me.ops = [] ∧ t.dev = u.dev) ∧
      (u.dev.nodeState n.asa = 2 → ∃ t, exec (.recv f w a d) s = .next t ∧ Trapped u t 7 0 (maskOf (lowestLane s.me.act).toList) 0)) ∧
    (∀ (f : Bool) (a : Reg) (s : State) (n : Node) (l : Launch), Still s → s.me.mce true [] [a.toNat] = 0#64 → s.me.act ≠ 0#64 →
      s.node? (s.me.sget a.toNat).toNat = some n → s.dev.inCarve (nodeAt n.asa 0) 64 = true → s.launch? = some l → l.pnode = some n.asa →
      ∃ t u : State, exec (.close f a) s = .next (t.retire 4) ∧ t = u.graphDone ∧ u.me = s.me ∧ u.co = s.co ∧ u.turns = s.turns ∧
        u.launch? = some { l with finished := true } ∧ { u.cx with launches := s.cx.launches } = s.cx ∧
        (l.finished = true → ∀ x, u.dev.byte x = s.dev.byte x) ∧
        (l.finished = false → ∀ x, u.dev.byte x = (s.dev.finishPred n.asa).byte x)) ∧
    (∀ (s : State) (asa : Nat) (n : Node) (l : Launch), s.cx.alive = true → s.contexts.find? (fun c => c.stat == .live && c.nodes.any fun n => n.asa == asa) = some s.cx →
      s.cx.nodes.find? (fun n => n.asa == asa) = some n → s.cx.launches.find? (fun l => l.lseq == n.lseq) = some l →
      s.dev.inCarve (nodeAt asa 0) 64 = true →
      let live := s.consumers s.cx.asid n.lseq
      let room := (s.dev.nodeEmitted asa + 2 ^ 32 - s.dev.nodeGet asa 0x24 4) % 2 ^ 32
      let hall := s.dev.hallFor (n.count % 2 ^ (64 - l.hdr.loC) + l.lseq.toNat)
      live < s.dev.nodeGet asa 0x0C 2 → s.dev.nodeGet asa 0x0A 2 ≤ room ∨ (s.dev.nodeState asa = 1 ∧ 0 < s.dev.nodeHeld asa ∧ live = 0) →
      (s.queueOf hall).length < 1024 → s.me.stat = .absent ∨ s.co.place ≠ .absent →
      ∃ t h, exec (.consumerLaunch asa) s = .next t ∧ t.dev.companies = insertCompany h s.dev.companies ∧ h.dseq = s.dev.dseq ∧ t.dev.dseq = s.dev.dseq + 1 ∧
        h.asid = s.cx.asid ∧ h.lseq = l.lseq ∧ h.num = n.count % 2 ^ (64 - l.hdr.loC) ∧ h.place = .queued hall ∧ h.created = l.hdr.positions ∧
        h.cohorts.map (fun c => (c.j, c.em, c.pc, c.sget 0, c.sget 1, c.v, c.icount)) = l.hdr.positions.map (fun j => (j, BitVec.ofNat 64 (2 ^ (l.hdr.n0m1 + 1) - 1),
          (if l.hdr.role j = 0 then l.hdr.entry0 else l.hdr.entry1).setWidth 56, l.karg.extractLsb' 0 32, l.karg.extractLsb' 32 32, [], 0)) ∧
        (∀ x, t.dev.byte x = (s.dev.nodeSet asa 0x24 4 (s.dev.nodeEmitted asa)).byte x) ∧
        t.cx.nodes = (s.cx.nodes.map fun x => if x.asa = asa then { x with count := x.count + 1 } else x) ∧
        t.cx.launches = (s.cx.launches.map fun x => if x.lseq = n.lseq then { x with made := x.made + 1 } else x) ∧
        { t.cx with nodes := s.cx.nodes, launches := s.cx.launches } = s.cx ∧ t.me = s.me ∧ t.co = s.co ∧ t.turns = s.turns ∧ t.free = s.free))

/-! ## The fabric -/

/-- R143, R285 to R288: in a device whose FEAT.MCAST is on, MCST and the MLDREDs of a group issue one access for each active lane, at its byte offset
in the group, where every lane is aligned and inside the group; a .ANY form needs a CLASS 1 launch, which R196 says. With no active lane they
free what they mark, and .ACQ orders as a fence of POD scope. FMARK sends an ordering marker to a device of the fabric and waits for nothing. -/
def Obligations.FabricInstructions : Prop :=
  let free (ma : Bool) (a : Reg) : List Nat := if ma then [a.toNat] else []
  let group (s : State) (b : BitVec 5) : Nat := (s.me.sget b.toNat).toNat % 256
  let does (ok : State → Prop) (i : Instr) (b : BitVec 5) (a : Reg) (j : Nat → Cohort → MemJob) : Prop := ∀ s : State, ok s → s.dev.mcastOn = true →
    s.recording = false → s.me.mce false (j (group s b) s.me).vs [b.toNat] = 0#64 →
    let k := j (group s b) s.me
    let cs := (s.me.offsets false a).map fun x => { lane := x.1, addr := x.2, out := .at (.far (512 + group s b) x.2) : LaneChk }
    (s.me.act ≠ 0#64 → Room s k.frees k.dst → s.dev.gvalid (group s b) = true →
      (∀ x ∈ s.me.offsets false a, x.2 + k.len ≤ s.dev.glen (group s b) ∧ x.2 % k.len = 0) →
      ∃ t, exec i s = .next t ∧ Issued s s t k cs) ∧
    (s.me.act = 0#64 → ∃ t, exec i s = .next t ∧ Retired s t 4 ∧
      t.me.ops.map (fun o => (o.kind, o.scope)) = s.me.ops.map (fun o => (o.kind, o.scope)) ++ (if k.acq then [(.fence, 3)] else []) ∧
      (∀ r, t.me.vget r = if r ∈ k.frees then VReg.zero else s.me.vget r) ∧ { t.me.quiet with v := s.me.v, ops := s.me.ops } = s.me.quiet ∧
      { t.dev with nextId := s.dev.nextId } = s.dev ∧ t.co = s.co ∧ t.cx = s.cx ∧ t.turns = s.turns ∧ t.free = s.free)
  (∀ (f ma z : Bool) (b : BitVec 5) (a d : Reg), does (fun _ => True) (.mcst f ma z b a d) b a fun g c =>
    let n := if z then 2 else 1
    { asks 0 .store (4 * n) false (.mcst g) with
      fkind := 1, vs := a.toNat :: groupNames d.toNat n, ss := [b.toNat], frees := free ma a, d := d.toNat
      data := c.laneBytes d.toNat n, sum := some (c.laneBytes d.toNat n) }) ∧
  (∀ row ∈ [(Instr.mldredBf16Ord, true, true, 2), (.mldredF32Ord, false, true, 4), (.mldredBf16Any, true, false, 2), (.mldredF32Any, false, false, 4)],
    ∀ (f ma q : Bool) (b : BitVec 5) (a d : Reg), does (fun s => row.2.2.1 = true ∨ s.co.hdr.cls ≠ 0) (row.1 f ma q b a d) b a fun g c =>
      { asks 0 .load row.2.2.2 false (.mldred g row.2.1 row.2.2.1) with
        vs := [a.toNat], ss := [b.toNat], frees := free ma a, scope := 3, acq := q, flag := some f, d := d.toNat, dst := [d.toNat]
        cnt := some (if row.2.1 then 38 else 39, popcount (c.readers false)) }) ∧
  (∀ (f : Bool) (a : Reg) (s : State), s.me.spoison a.toNat = false →
    let dev := (s.me.sget a.toNat).toNat % 1024
    ∃ t, exec (.fmark f a) s = .next t ∧ Retired s t 4 ∧
      t.me.ops.map (·.kind) = s.me.ops.map (·.kind) ++ (if s.dev.marks dev then [.fmark dev] else []) ∧
      { t.me.quiet with ops := s.me.ops } = s.me.quiet ∧ { t.dev with nextId := s.dev.nextId } = s.dev ∧
      t.co = s.co ∧ t.cx = s.cx ∧ t.turns = s.turns ∧ t.free = s.free)

/-! ## Gangs, the matrix engine and the gallery -/

/-- R296 to R298, Table 7-4: GANG takes a value that lists the cohort among distinct cohorts of its company, or 0, and raises #MTX GANG for any
other; leaving a gang counts as its MREL and gives up its wait. MACQ enters the core's FIFO once for a gang, owns a free engine where every
listed cohort agrees, and otherwise waits; MREL releases a member of the owner, and does nothing else. The engine passes once every member of the
owner is released and its MMAs have retired, and to the next entry where the listed cohorts agree. -/
def Obligations.Gangs : Prop :=
  let count (g : Word) : Nat := g.toNat % 8
  let members (g : Word) : List Nat := (List.range (count g)).map fun m => g.toNat / 2 ^ (8 + 4 * m) % 16
  let accepts (s : State) (g : Word) : Prop := g = 0#32 ∨ (1 ≤ count g ∧ count g ≤ 6 ∧ g.toNat / 8 % 32 = 0 ∧ g.toNat / 2 ^ (8 + 4 * count g) = 0 ∧
    (members g).Nodup ∧ (∀ m ∈ members g, m ∈ s.co.created) ∧ s.me.j ∈ members g)
  let ganged (s : State) : Prop := s.me.gang ≠ 0#32 ∧ s.me.j ∈ members s.me.gang
  let mine (s : State) (e : GangEntry) : Prop := e.dseq = s.co.dseq ∧ e.gang = s.me.gang
  let same (s t : State) : Prop := t.co = s.co ∧ t.cx = s.cx ∧ t.turns = s.turns ∧ t.free = s.free
  let freed (s : State) (e : GangEntry) : GangEntry :=
    if (e.owns = true ∨ s.me.gang ∈ s.co.regain) ∧ s.me.j ∉ e.released then { e with released := e.released ++ [s.me.j] } else e
  let agree (h : Company) (g : Word) : Prop := ∀ c ∈ h.cohorts, c.j ∈ members g → c.stat = .ended ∨ c.gang = g
  (∀ (a : Reg) (s : State), s.recording = false →
    let g := s.me.sget a.toNat
    (¬ accepts s g → ∃ t, exec (.gang a) s = .next t ∧ Trapped s t 8 1 s.me.present 0) ∧
    (accepts s g → s.me.spoison a.toNat = false → g = s.me.gang → exec (.gang a) s = .next (s.retire 4)) ∧
    (accepts s g → s.me.spoison a.toNat = false → g ≠ s.me.gang → (∀ l ∈ s.co.latches, l.gang ≠ s.me.gang) →
      ∃ t, exec (.gang a) s = .next t ∧ Retired s t 4 ∧ t.me.gang = g ∧ { t.me.quiet with gang := s.me.gang } = s.me.quiet ∧ same s t ∧
        (s.me.gang = 0#32 → t.dev = s.dev) ∧
        (s.me.gang ≠ 0#32 → ∀ es, es = s.dev.engines.map (fun e => if mine s e then { freed s e with waiting := e.waiting.filter fun x => x != s.me.j } else e) →
          t.dev = { s.dev with engines := es }))) ∧
  (∀ s : State, s.recording = false → s.co.place = .core s.core → s.me.stat = .running → (∀ h ∈ s.dev.companies, h.dseq ≠ s.co.dseq) →
    let g := s.me.gang
    let new (o : Bool) (w r : List Nat) : GangEntry := { core := s.core, dseq := s.co.dseq, gang := g, owns := o, waiting := w, released := r }
    (¬ ganged s → ∃ t, exec .macq s = .next t ∧ Trapped s t 8 1 s.me.present 0) ∧
    (ganged s → ∀ e, s.dev.engines.find? (fun e => e.core == s.core) = some e → mine s e → (∀ x ∈ s.dev.engines, mine s x → x = e) → e.owns = true →
      ∃ t, exec .macq s = .next t ∧ Retired s t 4 ∧ t.me.quiet = s.me.quiet ∧ same s t ∧
        t.dev = { s.dev with engines := s.dev.engines.map fun e => if mine s e then { e with waiting := e.waiting.filter fun x => x != s.me.j } else e }) ∧
    (ganged s → (∀ e ∈ s.dev.engines, ¬ mine s e) → s.dev.engines.find? (fun e => e.core == s.core) = none → agree s.coAll g → g ∉ s.co.regain →
      ∃ t, exec .macq s = .next t ∧ Retired s t 4 ∧ t.me.quiet = s.me.quiet ∧ same s t ∧
        t.dev = { s.dev with engines := s.dev.engines ++ [new true [] ((members g).filter fun j => s.co.ended.contains j)] }) ∧
    (ganged s → (∀ e ∈ s.dev.engines, ¬ mine s e) → ∀ e, s.dev.engines.find? (fun e => e.core == s.core) = some e → e.owns = true →
      exec .macq s = .next { s with dev := { s.dev with engines := s.dev.engines ++ [new false [s.me.j] []] }, me := { s.me with wait := .macq, active := false } })) ∧
  (∀ s : State, ∃ t, exec .mrel s = .next t ∧ Retired s t 4 ∧ t.me.quiet = s.me.quiet ∧ same s t ∧
      t.dev = { s.dev with engines := s.dev.engines.map fun e => if mine s e then freed s e else e }) ∧
  (∀ (core : Nat) (s : State), s.recording = false →
    let leaves (e : GangEntry) : Bool :=
      let h := s.companyOf e.dseq
      e.core == core && (if e.owns then (members e.gang).all (fun j => e.released.contains j || h.ended.contains j) && h.fired.all (fun x => x.gang != e.gang)
        else h.cohorts.all fun c => !(members e.gang).contains c.j || c.stat == .ended || c.gang != e.gang)
    let es := s.dev.engines.filter fun e => !leaves e
    (∀ e, es.find? (fun e => e.core == core) = e → (∀ x, e = some x → x.owns = true) →
      exec (.enginePass core) s = .next { s with dev := { s.dev with engines := es } }) ∧
    (∀ e, es.find? (fun e => e.core == core) = some e → (∀ x ∈ es, x.core = core → x.owns = false) → e.dseq = s.co.dseq → (∀ h ∈ s.dev.companies, h.dseq ≠ s.co.dseq) →
      s.co.place ≠ .absent → s.me.stat ≠ .absent → e.waiting.head? = some s.me.j → agree s.coAll e.gang → e.gang ∉ s.co.regain →
      exec (.enginePass core) s = .next { s with dev := { s.dev with engines := es.map fun x => if x.dseq = e.dseq ∧ x.gang = e.gang then
        { x with owns := true, released := (members x.gang).filter fun j => x.released.contains j || s.co.ended.contains j } else x } }))

/-- R299 to R304, Tables 11-2, 11-4 and 11-5: MMA's checks in their order; a member that is not the last waits at the latch of its tile; the last one
fires it, every member's MMA retires, a mark frees its A group, and the update of each present row, in ascending blocks of K, is the tile's once
MMA_TILE_RETIRE writes it. -/
def Obligations.MatrixMultiply : Prop :=
  let field (x : DWord) (lo n : Nat) : Nat := x.toNat / 2 ^ lo % 2 ^ n
  let width (c : Nat) : Nat := [16, 16, 8, 8, 4, 8, 4, 8].getD c 0
  let mx (code bit : Nat) : Prop := if bit = 1 then code ∈ [2, 3, 4, 7] else code ≠ 7
  let fmt (x : DWord) : Prop := field x 41 23 = 0 ∧ field x 13 3 = 0 ∧ mx (field x 0 3) (field x 3 1) ∧ mx (field x 4 3) (field x 7 1) ∧
    width (field x 0 3) = width (field x 4 3)
  let blockLen (x : DWord) : Nat := if field x 8 1 = 1 then 16 else 32
  let perMember (x : DWord) : Nat := (field x 9 4 + 1) * (32 / width (field x 0 3))
  let groupLen (x : DWord) : Nat := field x 9 4 + 1 + (if field x 3 1 = 1 then (perMember x / blockLen x + 3) / 4 else 0)
  let shape (x : DWord) (n a : Nat) : Prop := perMember x % blockLen x = 0 ∧ a + groupLen x ≤ 64 ∧
    16 * field x 23 9 + width (field x 0 3) * (n * perMember x) ≤ 8192 ∧ (field x 7 1 = 1 → 2 * field x 32 9 + n * perMember x / blockLen x ≤ 1024)
  let ganged (s : State) : Prop := s.me.gang ≠ 0#32 ∧ s.me.j ∈ gangMembers s.me.gang
  let owned (s : State) : Bool := (s.dev.engines.find? fun e => e.dseq == s.co.dseq && e.gang == s.me.gang).any fun e => e.owns
  (∀ (ma : Bool) (b a : Reg) (t : BitVec 4) (s : State), s.recording = false →
    let g := s.me.gang
    let x := s.me.sget (b.toNat + 1) ++ s.me.sget b.toNat
    let raises (cause : Nat) : Prop := ∃ u, exec (.mma ma b a t) s = .next u ∧ Trapped s u 8 cause s.me.present 0
    (s.me.em ≠ s.me.present → raises 2) ∧ (s.me.em = s.me.present → (¬ ganged s → raises 1) ∧ (ganged s →
      (owned s = false → g ∉ s.co.regain → raises 3) ∧ (owned s = true → (¬ fmt x → raises 5) ∧ (fmt x →
        (¬ shape x (gangCount g) a.toNat → raises 6) ∧ (shape x (gangCount g) a.toNat → s.co.slots.length ≤ field x 16 7 → raises 7)))))) ∧
  (∀ (ma : Bool) (b a : Reg) (t : BitVec 4) (s : State), s.recording = false → Gathered s →
    let g := s.me.gang
    let x := s.me.sget (b.toNat + 1) ++ s.me.sget b.toNat
    let others := s.co.latches.filter fun l => l.tile != t.toNat
    let waiting := ((s.co.latches.find? fun l => l.tile == t.toNat).map (·.arrived)).getD []
    let all := waiting ++ [{ j := s.me.j, a := a, mark := ma }]
    s.me.em = s.me.present → ganged s → owned s = true → fmt x → shape x (gangCount g) a.toNat → field x 16 7 < s.co.slots.length →
    s.me.spoison b.toNat = false → s.me.spoison (b.toNat + 1) = false → (∀ c ∈ s.coAll.cohorts, c.j ∈ gangMembers g → c.stat ≠ .ended ∧ c.gang = g) →
    (∀ l ∈ s.co.latches, l.tile = t.toNat → l.gang = g ∧ l.block = x) → (waiting = [] → ∀ l ∈ others, l.gang ≠ g) →
    (¬ (∀ j ∈ gangMembers g, j ∈ all.map (·.j)) →
      exec (.mma ma b a t) s = .next { s with co := { s.co with latches := others ++ [{ tile := t.toNat, gang := g, block := x, arrived := all }] }
                                              me := { s.me with wait := .latch, active := false } }) ∧
    (∀ ms : List (Cohort × Nat), (∀ j ∈ gangMembers g, j ∈ all.map (·.j)) → (all.map (·.j)).Nodup →
      ms.map (fun p => (some p.1, some p.2)) = (gangMembers g).map (fun j => (s.mate? j, (all.find? fun r => r.j == j).map fun r => r.a.toNat)) →
      (∀ r ∈ all, (s.mate? r.j).isSome = true) →
      (s.dev.fills.any fun f => f.dseq == s.co.dseq && f.slot == field x 16 7) = false → s.canTile t.toNat = true →
      (∀ p ∈ ms, p.1.mce false (groupNames p.2 (groupLen x)) [] = 0#64) →
      (∀ i c, i < 64 → c < 64 → s.me.present.getLsbD i = true → (s.co.tileOf t.toNat).bad i c = false) → (s.co.slotAt (field x 16 7)).bad = [] →
      ∃ u r, exec (.mma ma b a t) s = .next u ∧ Retired s u 4 ∧ u.co.latches = others ∧ u.co.fired = s.co.fired ++ [{ tile := t.toNat, gang := g, result := r }] ∧
        (∀ i c, i < 64 → c < 64 → r.at i c = if s.me.present.getLsbD i then
          (Block.of x).elem ms (s.co.slotAt (field x 16 7)) i c ((s.co.tileOf t.toNat).at i c) else (s.co.tileOf t.toNat).at i c) ∧
        (∀ i c, i < 64 → c < 64 → r.bad i c = (!s.me.present.getLsbD i && (s.co.tileOf t.toNat).bad i c)) ∧
        (∀ k, Store.get none u.co.tiles k = if k = t.toNat then some (s.co.tileOf k) else Store.get none s.co.tiles k) ∧
        (∀ k, u.me.vget k = if ma = true ∧ k ∈ groupNames a.toNat (groupLen x) then VReg.zero else s.me.vget k) ∧
        (∀ y ∈ waiting, ∀ c, s.mate? y.j = some c → ∃ c', u.mate? y.j = some c' ∧ c'.pc = c.pc + 4#56 ∧ c'.wait = .none ∧
          ∀ k, c'.vget k = if y.mark = true ∧ k ∈ groupNames y.a.toNat (groupLen x) then VReg.zero else c.vget k) ∧
        (∀ j, j ∉ all.map (·.j) → u.mate? j = s.mate? j) ∧ { u.me.quiet with v := s.me.v, cr := s.me.cr } = s.me.quiet ∧
        { u.co with tiles := s.co.tiles, latches := s.co.latches, fired := s.co.fired, cohorts := s.co.cohorts } = s.co ∧
        u.cx = { s.cx with cnt := u.cx.cnt, sat := u.cx.sat } ∧ u.dev = s.dev ∧ u.turns = s.turns ∧ u.free = s.free)) ∧
  (∀ (t : BitVec 4) (s : State) (x : FiredMma), s.co.place ≠ .absent → s.me.stat ≠ .absent → s.co.fired.find? (fun x => x.tile == t.toNat) = some x →
    ∃ u, exec (.mmaTileRetire s.co.dseq t) s = .next u ∧ u = { s with co := u.co } ∧
      u.co = { s.co with fired := s.co.fired.filter (fun y => y.tile != t.toNat), tiles := u.co.tiles, dirty := u.co.dirty } ∧
      (∀ n, Store.get none u.co.tiles n = if n = t.toNat then some x.result else Store.get none s.co.tiles n) ∧
      (∀ n, Store.get false u.co.dirty n = if n = t.toNat then true else Store.get false s.co.dirty n)) ∧
  (∀ c as sa fa bs sb fb, IsNan c ∨ sa = 0xFF ∨ sb = 0xFF ∨ (∃ a ∈ as, value a fa = .nan) ∨ (∃ b ∈ bs, value b fb = .nan) →
    mmaBlock c as sa fa bs sb fb = qnan)

/-- R77 to R79, R306, R307: GFILL whose checks pass grants slots until its index is granted (of the company's floor, else of the core's free slots,
or it waits), and its descriptor takes SRCVA, ASID and GEN; the fill, once its source may be read, places source byte 128k + b at offset 2k + b
mod 2 of slice b div 2, sets VALID and POISON, and moves GLGEN for the first fill and for another SRCVA. -/
def Obligations.GalleryFills : Prop :=
  (∀ (w : BitVec 3) (a d : Reg) (s u : State) (xs : List (List (LaneChk × Nat))),
    let o := (s.me.sget a.toNat).toNat
    let va := (s.me.window w.toNat).base.toNat + o
    let n := (s.me.sget d.toNat).toNat % 128
    let k := n + 1 - s.co.slots.length
    let base := s.co.slots ++ List.replicate k Slot.fresh
    s.me.spoison a.toNat = false → s.me.spoison d.toNat = false → (s.me.window w.toNat).kind = 1 → va % 128 = 0 →
    s.sideChecks { win := w.toNat, kind := 1, write := false } 65536 [o] = (u, xs) → (∀ x ∈ xs.flatten, ∃ l, x.1.out = .at l) →
    (n < s.co.slots.length ∨ n < s.co.hdr.gfloor → ∃ t f, exec (.gfill w a d) s = .next t ∧ Retired s t 4 ∧ t.dev = { u.dev with fills := s.dev.fills ++ [f], nextId := s.dev.nextId + 1 } ∧
      Looked s.dev u.dev ∧ f.dseq = s.co.dseq ∧ f.j = s.me.j ∧ f.slot = n ∧ f.src = xs.flatten.map (fun x => { loc := x.1.out.loc, len := x.2 }) ∧ f.refill = false ∧ f.asked = false ∧
      f.same = ((base.getD n Slot.fresh).srcva == BitVec.ofNat 56 va) ∧
      t.co = { s.co with slots := base.mapIdx fun i x => if i = n then
        { x with srcva := BitVec.ofNat 56 va, asid := BitVec.ofNat 12 s.co.asid, gen := ptgenOf u.dev va s.co.asid } else x } ∧
      t.cx = { s.cx with glgen := s.cx.glgen + BitVec.ofNat 32 k } ∧ (∀ k, { t.me.window k with dt := (s.me.window k).dt } = s.me.window k) ∧
      { t.me.quiet with win := s.me.win } = s.me.quiet ∧ t.turns = s.turns ∧ t.free = s.free) ∧
    (s.co.slots.length ≤ n → s.co.hdr.gfloor ≤ s.co.slots.length → u.gfreeOf s.core = 0 ∨ u.older u.co u.core .allocG = true →
      exec (.gfill w a d) s = .next { u with me := { u.me with wait := .allocG, active := false } })) ∧
  (∀ (s : State) (f : Fill), s.dev.fills.find? (fun g => g.id == f.id) = some f →
    (s.fillReady f = false ∨ s.dev.waitsFor (.fill f.id) = true → exec (.galleryFillComplete f.id) s = .next s) ∧
    (s.fillReady f = true → s.dev.waitsFor (.fill f.id) = false → f.asked = true ∨ f.src.any (fun g => g.loc.away) = false → f.src.any s.dev.cutSeg = false →
      f.dseq = s.co.dseq → s.co.place ≠ .absent → s.me.stat ≠ .absent →
      let at' (o : Nat) : Byte × Bool := (s.fillBytes f).getD (128 * (o % 1024 / 2) + 2 * (o / 1024) + o % 2) (0#8, false)
      let moves : Prop := f.refill = false ∧ ((s.co.slotAt f.slot).filled = false ∨ f.same = false)
      ∃ (t : State) (x : Slot), exec (.galleryFillComplete f.id) s = .next t ∧ t.dev = { s.dev with fills := s.dev.fills.filter fun g => g.id != f.id } ∧
        t.co = { s.co with slots := s.co.slots.mapIdx fun k y => if k = f.slot then { y with valid := true, poison := x.poison, filled := true, returned := false, bytes := x.bytes, bad := x.bad } else y } ∧
        (∀ o, o < 65536 → Store.get 0#8 x.bytes o = (at' o).1) ∧
        (∀ g, g < 4096 → (Store.get false x.bad g = true ↔ ∃ o, o / 16 = g ∧ (at' o).2 = true)) ∧ (x.poison = true ↔ ∃ o, o < 65536 ∧ (at' o).2 = true) ∧
        (moves → t.cx = { s.cx with glgen := s.cx.glgen + 1#32 }) ∧ (¬ moves → t.cx = s.cx) ∧ t.me = s.me ∧ t.turns = s.turns ∧ t.free = s.free))

/-! ## Tiles -/

/-- R293, R294, R308 to R311: what the tile instructions write, in a context that is not recorded. TZERO writes zeros, TFREE and TFREE.ALL free
names, TRED.ADD writes sums rounded once and TMOVW columns of a tile, with rows of absent lanes as 0; the written name becomes allocated and
DIRTY. TMOVR, TRED.ROW and TCVT read a tile into vectors of the present lanes; TCVT packs a quarter of the tile, each element rounded under its
mode, with the SR word of its coordinate, and makes one sr_check under .SR. The lane-tile instructions raise #MTX EMFULL unless em is the present
mask; a poisoned element raises #MCE, but TMOVR and TMOVW move poison as data. An unallocated name reads as zeros. -/
def Obligations.TileInstructions : Prop :=
  let tile (s : State) (n : Nat) (f : Nat → Nat → Word) (p : Nat → Nat → Bool) : Prop :=
    (∃ x, Store.get none s.co.tiles n = some x ∧ ∀ i c, i < 64 → c < 64 → x.at i c = f i c ∧ x.bad i c = p i c) ∧ Store.get false s.co.dirty n = true
  let free (s : State) (n : Nat) : Prop := Store.get none s.co.tiles n = none ∧ Store.get false s.co.dirty n = false
  let same (s t : State) (n : Nat) : Prop := Store.get none t.co.tiles n = Store.get none s.co.tiles n ∧ Store.get false t.co.dirty n = Store.get false s.co.dirty n
  let frame (s t : State) : Prop := Retired s t 4 ∧ { t.co with tiles := s.co.tiles, dirty := s.co.dirty } = s.co ∧ t.dev = s.dev ∧
    t.turns = s.turns ∧ t.free = s.free
  let counted (s t : State) : Prop := t.cx = { s.cx with cnt := t.cx.cnt, sat := t.cx.sat }
  let gave (s t : State) (d n : Nat) (f : Nat → Nat → Word × Bool) : Prop := Retired s t 4 ∧
    (∀ m i, m < n → i < 64 → s.me.present.getLsbD i = true → (t.me.vget (d + m)).lane i = (f i m).1 ∧ (t.me.vget (d + m)).poison.getLsbD i = (f i m).2) ∧
    (∀ m i, m < n → i < 64 → s.me.present.getLsbD i = false → (t.me.vget (d + m)).lane i = (s.me.vget (d + m)).lane i ∧
      (t.me.vget (d + m)).poison.getLsbD i = (s.me.vget (d + m)).poison.getLsbD i) ∧
    (∀ m, m < n → t.me.allocated (d + m) = true) ∧ (∀ r, (∀ m, m < n → r ≠ d + m) → t.me.vget r = s.me.vget r ∧ t.me.allocated r = s.me.allocated r) ∧
    { t.me.quiet with v := s.me.v } = s.me.quiet ∧ t.co = s.co ∧ t.dev = s.dev ∧ t.turns = s.turns ∧ t.free = s.free
  let full (s : State) : Prop := s.me.em = s.me.present
  let clean (x : Tile) (m : Mask) (lo hi : Nat) : Prop := ∀ i c, i < 64 → m.getLsbD i = true → lo ≤ c → c < hi → x.bad i c = false
  let room (s : State) (d n : Nat) : Prop := Room s [] (groupNames d n)
  (∀ (t : BitVec 4) (s : State), s.recording = false → s.canTile t.toNat = true → ∃ u, exec (.tzero t) s = .next u ∧ frame s u ∧ u.cx = s.cx ∧
    { u.me.quiet with v := s.me.v } = s.me.quiet ∧ u.me.v = s.me.v ∧ tile u t.toNat (fun _ _ => 0#32) (fun _ _ => false) ∧ ∀ n, n ≠ t.toNat → same s u n) ∧
  (∀ (t : BitVec 4) (s : State), s.recording = false → ∃ u, exec (.tfree t) s = .next u ∧ frame s u ∧ u.cx = s.cx ∧ u.me.quiet = s.me.quiet ∧
    free u t.toNat ∧ ∀ n, n ≠ t.toNat → same s u n) ∧
  (∀ s : State, s.recording = false → ∃ u, exec .tfreeAll s = .next u ∧ frame s u ∧ u.cx = s.cx ∧ u.me.quiet = s.me.quiet ∧ ∀ n, n < 16 → free u n) ∧
  (∀ (src t : BitVec 4) (s : State), s.recording = false → s.canTile t.toNat = true →
    clean (s.co.tileOf t.toNat) (BitVec.allOnes 64) 0 64 → clean (s.co.tileOf src.toNat) (BitVec.allOnes 64) 0 64 →
    ∃ u, exec (.tredAdd src t) s = .next u ∧ frame s u ∧ counted s u ∧ u.me.quiet = s.me.quiet ∧ (∀ n, n ≠ t.toNat → same s u n) ∧
      tile u t.toNat (fun i c => BitVec.ofNat 32 (fadd .fp32 ((s.co.tileOf t.toNat).at i c).toNat ((s.co.tileOf src.toNat).at i c).toNat)) (fun _ _ => false)) ∧
  (∀ (c : Reg) (n : BitVec 2) (t : BitVec 4) (d : Reg) (s : State), s.recording = false → full s → s.canTile t.toNat = true →
    let k := 2 ^ n.toNat
    let x := s.co.tileOf t.toNat
    ∃ u, exec (.tmovw c n t d) s = .next u ∧ frame s u ∧ u.cx = s.cx ∧ u.me.cr = (s.me.unalloc (s.me.misses (groupNames d.toNat k))).cr ∧
      { u.me.quiet with cr := s.me.cr } = s.me.quiet ∧ (∀ n, n ≠ t.toNat → same s u n) ∧
      tile u t.toNat
        (fun i col => if c.toNat ≤ col ∧ col < c.toNat + k then
          (if s.me.present.getLsbD i then (s.me.vget (d.toNat + (col - c.toNat))).lane i else 0#32) else x.at i col)
        (fun i col => if c.toNat ≤ col ∧ col < c.toNat + k then
          s.me.present.getLsbD i && (s.me.vget (d.toNat + (col - c.toNat))).poison.getLsbD i else x.bad i col)) ∧
  (∀ (c : Reg) (n : BitVec 2) (t : BitVec 4) (d : Reg) (s : State), s.recording = false → full s → room s d.toNat (2 ^ n.toNat) →
    ∃ u, exec (.tmovr c n t d) s = .next u ∧ u.cx = s.cx ∧ gave s u d.toNat (2 ^ n.toNat)
      (fun i m => ((s.co.tileOf t.toNat).at i (c.toNat + m), (s.co.tileOf t.toNat).bad i (c.toNat + m)))) ∧
  (∀ (src : BitVec 4) (d : Reg) (s : State), s.recording = false → full s → room s d.toNat 1 → clean (s.co.tileOf src.toNat) s.me.present 0 64 →
    ∃ u, exec (.tredRow src d) s = .next u ∧ counted s u ∧ gave s u d.toNat 1 (fun i _ => (R32 (sumVals ((List.range 64).map fun c => V32 ((s.co.tileOf src.toNat).at i c))), false))) ∧
  (∀ (r fmt : BitVec 3) (q : BitVec 2) (t : BitVec 4) (d : Reg) (s : State), s.recording = false → full s → r.toNat ≤ 4 → fmt.toNat ≤ 6 →
    let f := [Fmt.bf16, .fp16, .e4m3, .e5m2, .e2m1, .int8, .int4].getD fmt.toNat .bf16
    let p := 32 / f.width
    let x := s.co.tileOf t.toNat
    let coord (i c : Nat) : Nat := ((s.me.crget 0x19).toNat + i) * (s.me.crget 0x1B).toNat + (s.me.crget 0x1A).toNat + c
    room s d.toNat (16 / p) → clean x s.me.present (16 * q.toNat) (16 * q.toNat + 16) →
    ∃ u v kv, exec (.tcvt r fmt q t d) s = .next v ∧ SrPair s kv ∧ counted s u ∧ (r ≠ 4#3 → v = u) ∧ (r = 4#3 → SrPlain s → SrChecked u v) ∧
      gave s u d.toNat (16 / p) (fun i m => (BitVec.ofNat 32 ((List.range p).foldl (fun w k =>
        let c := 16 * q.toNat + p * m + k
        w + cvtRound .fp32 f (modeNamed r) (if r = 4#3 then srWordOf s kv (coord i c) else 0#32) (x.at i c).toNat * 2 ^ (f.width * k)) 0), false))) ∧
  (∀ (i : Instr) (s : State), s.recording = false → s.me.em ≠ s.me.present → (∃ c n t d, i = .tmovr c n t d ∨ i = .tmovw c n t d) ∨ (∃ t d, i = .tredRow t d) ∨
      (∃ r f q t d, i = .tcvt r f q t d) → ∃ u, exec i s = .next u ∧ Trapped s u 8 2 s.me.present 0)

/-! ## Writes to device control space -/

/-- R6, R14, R18, R91, R143, R337, R393, R415: a write of a register stores the RW bits it covers, clears by ones the RW1C bits it covers and leaves
the rest. The registers of the management processor ignore others, DEVNUM and BRIDGECFG become valid once each bit of their fields is written,
RECBASE is not written while ACTIVE, EVBELL only by the driver, FEATACC is held until it installs; MEMERRCLR clears counts, and SPILLBASE is
refused with ERR. A width or alignment that R18 does not give does nothing. -/
def Obligations.ControlSpaceWrites : Prop :=
  let all : Nat := 2 ^ 64 - 1
  (∀ (i : RegWrite → Instr) (w : RegWrite) (s : State), (i = .registerWrite ∨ i = .devnumWrite ∨ i = .memerrclr ∨ i = .spillbaseWrite ∨
      i = .mcgtabWrite ∨ i = .bridgecfgWrite) → w.ok = false → exec (i w) s = .next s) ∧
  (∀ (w : RegWrite) (s : State), w.ok = true →
    let b := w.off / 8 * 8
    let mgmt : Prop := (0x52000 ≤ b ∧ b < 0x52030) ∨ (0x60300 ≤ b ∧ b < 0x60360)
    let once (o fields valid : Nat) (u t : State) : Prop :=
      let seen := u.dev.reg (featPending o) ||| (coverMask w.off w.len &&& fields)
      t.dev.reg (featPending o) = seen ∧ t.dev.reg o = (if seen = fields then u.dev.reg o ||| 2 ^ valid else u.dev.reg o) ∧
      (∀ x, x ≠ o → x ≠ featPending o → t.dev.reg x = u.dev.reg x) ∧ t = u.setDev { u.dev with ctrl := t.dev.ctrl }
    let feat : Prop := 0x70020 ≤ b ∧ b < 0x70040
    let locked : Prop := (mgmt ∧ w.agent ≠ .mgmt) ∨ (b = 0x60008 ∧ (s.dev.reg 0x60000).testBit 31 = true) ∨
      ((b = 0x50000 ∨ b = 0x50008) ∧ w.agent ≠ .driver ∧ w.agent ≠ .host)
    (locked → exec (.registerWrite w) s = .next s) ∧
    (¬ locked → mgmt → ∃ t, exec (.registerWrite w) s = .next t ∧ Written w b (mgmtBits b).1 (mgmtBits b).2 s t) ∧
    (feat → ∃ t, exec (.registerWrite w) s = .next t ∧ Written w (featPending b) all 0 s t) ∧
    (¬ locked → ¬ mgmt → ¬ feat → b ≠ 0x60000 → ∃ t, exec (.registerWrite w) s = .next (if b = 0x60010 then t.readRing else t) ∧
      Written w b (ctrlBits b).1 (ctrlBits b).2 s t) ∧
    (b = 0 → w.agent = .mgmt → ∃ t u, exec (.devnumWrite w) s = .next t ∧ Written w 0 (2 ^ 10 - 1) 0 s u ∧ once 0 (2 ^ 10 - 1) 31 u t) ∧
    (b = 0 → w.agent ≠ .mgmt → exec (.devnumWrite w) s = .next s) ∧
    (b = 0x30000 → w.agent = .mgmt → ∃ t u, exec (.bridgecfgWrite w) s = .next t ∧ Written w b (2 ^ 13 - 1) 0 s u ∧ once b (2 ^ 13 - 1) 30 u t) ∧
    (w.agent ≠ .mgmt → exec (.bridgecfgWrite w) s = .next s ∧ exec (.mcgtabWrite w) s = .next s) ∧
    (∀ g, g < 512 → ∀ o, o < 128 → b = 0x40000 + 128 * g + o → w.agent = .mgmt → ∃ t, exec (.mcgtabWrite w) s = .next t ∧
      Written w b (if o < 64 ∨ o = 80 then all else if o = 64 then 2 ^ 48 - 2 ^ 16 else if o = 72 then 2 ^ 64 - 2 ^ 16 else if o = 88 then 1 else 0) 0 s t) ∧
    (b = 0x3080 → ∃ t, exec (.memerrclr w) s = .next t ∧ t = s.setDev { s.dev with ctrl := t.dev.ctrl } ∧
      (∀ i, i < 9 → t.dev.reg (0x3000 + 8 * i) = if Covers w i ∧ w.val.testBit (i - 8 * (w.off % 8)) = true then 0 else s.dev.reg (0x3000 + 8 * i)) ∧
      (∀ o, (∀ i, i < 9 → o ≠ 0x3000 + 8 * i) → t.dev.reg o = s.dev.reg o)) ∧
    (b = 0x4000 → ∃ u, Written w b (2 ^ 48 - 2 ^ 33 + 1) 0 s u ∧
      let bad : Prop := 47 < bits (u.dev.reg b) 47 33 ∨ (bits (u.dev.reg b) 47 33 ≠ bits (s.dev.reg b) 47 33 ∧ ∃ h ∈ s.companies, h.spill ≠ none) ∨
        ((u.dev.reg b).testBit 0 = true ∧ (s.dev.reg 0x70020).testBit 2 = false)
      (bad → ∃ t, exec (.spillbaseWrite w) s = .next t ∧ RegSet s t 0x4008 (putBits (s.dev.reg 0x4008) 31 31 1)) ∧
      (¬ bad → exec (.spillbaseWrite w) s = .next u)))

/-! ## The carve, shootdowns, page pools and memory errors -/

/-- R22, R23, R43, R53, R54: ASCARVE refuses UNITS above 16 and any while BUSY; the end of a change zeroes what was added, discards what was dropped
and lets waiting packets go on. A shootdown drops the covered TLB entries, zeroes LIMIT in global windows of the ASID (all of them for SCOPE 3),
counts the generation and stays BUSY until what was translated has completed. A push zeroes its frame and wakes who waits for it. -/
def Obligations.Pages : Prop :=
  let wake (c : Cohort) : Cohort := if c.wait = .pool then { c with wait := .none } else c
  (∀ (w : RegWrite) (s : State), w.base = 0x1000 → w.ok = true → ∃ u v, Written w 0x1000 0 (2 ^ 8) s u ∧ Written w 0x1000 31 (2 ^ 8) s v ∧
    let new := bits (v.dev.reg 0x1000) 4 0
    let old := bits (s.dev.reg 0x1000) 4 0
    let bad : Prop := 16 < new ∨ (s.dev.reg 0x1000).testBit 31 = true
    (¬ Covers w 0 → exec (.ascarveWrite w) s = .next u) ∧
    (Covers w 0 → bad → ∃ t, exec (.ascarveWrite w) s = .next t ∧ RegSet s t 0x1000 (u.dev.reg 0x1000 ||| 2 ^ 8)) ∧
    (Covers w 0 → ¬ bad → new = old → exec (.ascarveWrite w) s = .next v) ∧
    (Covers w 0 → ¬ bad → new ≠ old → ∃ t, exec (.ascarveWrite w) s = .next t ∧ t.dev.carveOld = s.dev.carve ∧
      RegSet { s with dev := { s.dev with carveOld := s.dev.carve } } t 0x1000 (putBits (v.dev.reg 0x1000) 31 31 1))) ∧
  (∀ s : State, exec .carveChangeDone s = .next s ∨ (s.dev.reg 0x1000).testBit 31 = true) ∧
  (∀ s : State, (s.dev.reg 0x1000).testBit 31 = true →
    let lo := min s.dev.carveOld s.dev.carve
    let hi := max s.dev.carveOld s.dev.carve
    let went (a : Nat) : Prop := 0x020000000000 + lo ≤ a ∧ a < 0x020000000000 + hi
    ∃ t, exec .carveChangeDone s = .next t ∧ t.dev.reg 0x1000 = putBits (s.dev.reg 0x1000) 31 31 0 ∧ (∀ o, o ≠ 0x1000 → t.dev.reg o = s.dev.reg o) ∧
      (∀ a, t.dev.byte a = if went a then 0#8 else s.dev.byte a) ∧ (16 ∣ lo → 16 ∣ hi → ∀ a, t.dev.badAt a = if went a then false else s.dev.badAt a) ∧
      (∀ l, Store.get 0 t.dev.cell l = if lo / 64 ≤ l ∧ l < hi / 64 then 0 else Store.get 0 s.dev.cell l) ∧
      { t.dev with ctrl := s.dev.ctrl, mem := s.dev.mem, bad := s.dev.bad, cell := s.dev.cell, halls := s.dev.halls, l3 := s.dev.l3 } = s.dev ∧
      t.turns = ((s.dev.fabric.inbound.filter fun i => !i.waiting.isEmpty).map fun i => Turn.event (.markerRelease i.src)) ++ s.turns ∧
      { t with dev := s.dev, turns := s.turns } = s) ∧
  (∀ (w : RegWrite) (s : State), w.base = 0x2100 → w.ok = true → ∃ u, Written w 0x2100 (2 ^ 30 - 2 ^ 28 + (2 ^ 12 - 1)) (2 ^ 30) s u ∧
    let go : Prop := Covers w 12 ∧ w.val.testBit (12 - 8 * (w.off % 8)) = true
    let scope := bits (u.dev.reg 0x2100) 29 28
    let asid := bits (u.dev.reg 0x2100) 11 0
    let va := s.dev.reg 0x2108
    let len := s.dev.reg 0x2110
    let drops (e : TlbEntry) : Prop := if scope = 3 then True else e.global = false ∧ e.asid = asid ∧
      (scope = 0 → e.va ≤ va ∧ va < e.va + e.size) ∧ (scope = 1 → 0 < len ∧ e.va < va + len ∧ va < e.va + e.size)
    let cut (c : Cohort) : Cohort := { c with win := c.win.map fun p => if p.2.kind = 1 then (p.1, { p.2 with limit := 0#32 }) else p }
    let mine (a : Nat) : Prop := if scope = 3 then ∃ c ∈ s.contexts, c.asid = a else a = asid
    (¬ go → exec (.shootdown w) s = .next u) ∧
    (go → (s.dev.reg 0x2100).testBit 31 = true → ∃ t, exec (.shootdown w) s = .next t ∧ RegSet u t 0x2100 (putBits (u.dev.reg 0x2100) 30 30 1)) ∧
    (go → (s.dev.reg 0x2100).testBit 31 = false → ∃ t, exec (.shootdown w) s = .next t ∧
      (∀ e, e ∈ t.dev.tlb ↔ e ∈ s.dev.tlb ∧ ¬ drops e) ∧
      (scope ≠ 3 → ∀ a, Store.get 0#64 t.dev.ptgen a = Store.get 0#64 s.dev.ptgen a + if a = asid then 1#64 else 0#64) ∧
      (scope = 3 → (∀ a, a < 4096 → Store.get 0#64 t.dev.ptgen a = Store.get 0#64 s.dev.ptgen a + 1#64) ∧ t.dev.svgen = s.dev.svgen + 1#64) ∧
      (scope ≠ 3 → t.dev.svgen = s.dev.svgen) ∧ t.dev.shoot = s.inFlight ∧
      t.dev.reg 0x2100 = putBits (u.dev.reg 0x2100) 31 31 1 ∧ (∀ o, o ≠ 0x2100 → t.dev.reg o = s.dev.reg o) ∧
      (mine s.co.asid → s.me.stat ≠ .absent → t.me = cut s.me) ∧ (¬ mine s.co.asid → t.me = s.me) ∧
      (mine s.co.asid → t.co = { s.co with cohorts := s.co.cohorts.map cut }) ∧ (¬ mine s.co.asid → t.co = s.co) ∧
      (∀ h ∈ t.dev.companies, ∃ g ∈ s.dev.companies, (mine g.asid → h = { g with cohorts := g.cohorts.map cut }) ∧ (¬ mine g.asid → h = g)) ∧
      t.dev.companies.length = s.dev.companies.length ∧
      { t.dev with tlb := s.dev.tlb, ptgen := s.dev.ptgen, svgen := s.dev.svgen, shoot := s.dev.shoot, ctrl := s.dev.ctrl, companies := s.dev.companies } = s.dev ∧
      t.cx = s.cx ∧ t.turns = s.turns ∧ t.free = s.free)) ∧
  (∀ s : State,
    let ended : Prop := (s.dev.reg 0x2100).testBit 31 = true ∧ ∀ i ∈ s.dev.shoot, i ∉ s.inFlight
    (¬ ended → exec .shootdownComplete s = .next s) ∧
    (ended → ∃ t, exec .shootdownComplete s = .next t ∧ t.dev.shoot = [] ∧
      RegSet { s with dev := { s.dev with shoot := [] } } t 0x2100 (putBits (s.dev.reg 0x2100) 31 31 0))) ∧
  (∀ (big : Bool) (w : RegWrite) (s : State), w.base = (if big then 0x2318 else 0x2310) → w.ok = true →
    let i : Instr := if big then .pgpush2m w else .pgpush64k w
    let n := if big then 0x200000 else 0x10000
    let pool := if big then s.dev.pool2m else s.dev.pool64k
    let f := (w.val * 2 ^ (8 * (w.off % 8))) % 2 ^ (8 * (w.off % 8 + w.len))
    let bad : Prop := (if big then 256 else 4096) ≤ pool.length ∨ f % n ≠ 0 ∨ 0x006000000000 < f + n
    (bad → ∃ t, exec i s = .next t ∧ RegSet s t 0x2320 (putBits (s.dev.reg 0x2320) 29 29 1)) ∧
    (¬ bad → ∃ t, exec i s = .next t ∧ t.dev.pool2m = (if big then pool ++ [f] else s.dev.pool2m) ∧ t.dev.pool64k = (if big then s.dev.pool64k else pool ++ [f]) ∧
      (∀ a, t.dev.byte a = if f ≤ a ∧ a < f + n then 0#8 else s.dev.byte a) ∧ (∀ a, t.dev.badAt a = if f ≤ a ∧ a < f + n then false else s.dev.badAt a) ∧
      { t.dev with mem := s.dev.mem, bad := s.dev.bad, halls := s.dev.halls, pool2m := s.dev.pool2m, pool64k := s.dev.pool64k, companies := s.dev.companies } = s.dev ∧
      (∀ c ∈ s.contexts, c.asid = s.co.asid → t.co.cohorts = s.co.cohorts.map wake ∧ (s.me.stat ≠ .absent → t.me = wake s.me)) ∧
      { t.co with cohorts := s.co.cohorts } = s.co ∧ { t.me with wait := s.me.wait } = s.me ∧ t.cx = s.cx ∧ t.turns = s.turns ∧ t.free = s.free)) ∧
  (∀ (big : Bool) (a : Agent) (s : State),
    let i : Instr := if big then .pgpop2m a else .pgpop64k a
    let pool := if big then s.dev.pool2m else s.dev.pool64k
    let low := if big then 64 else 1024
    let mark := (if pool = [] then (if big then 2 ^ 30 else 2 ^ 31) else 0) ||| 2 ^ 28
    ∃ t, exec i s = .next t ∧ t.dev.hostRead = some (leBytes 8 (match pool with | [] => 0 | f :: _ => 2 ^ 63 + f)) ∧
      t.dev.pool2m = (if big then pool.drop 1 else s.dev.pool2m) ∧ t.dev.pool64k = (if big then s.dev.pool64k else pool.drop 1) ∧
      (low < pool.length → t = s.setDev { s.dev with hostRead := t.dev.hostRead, pool2m := t.dev.pool2m, pool64k := t.dev.pool64k }) ∧
      (pool.length ≤ low → ∃ u, RegSet (s.setDev { s.dev with pool2m := t.dev.pool2m, pool64k := t.dev.pool64k }) u 0x2320 (s.dev.reg 0x2320 ||| mark) ∧
        t = s.setDev { u.dev.postPool with hostRead := t.dev.hostRead }))

/-- R66, R88 to R91, R115: a corrected soft error is counted; an uncorrectable error poisons the unit it covers where that exists, is counted for its
structure and reported to the management processor with its place. A hall's request for a line updates the directory unless a copy owns the line;
a hall comes to see any class L write of another that it has still to see, those of one line in their order. -/
def Obligations.MemoryErrors : Prop :=
  let counted (index place : Nat) (addr : Option Nat) (s t : State) : Prop :=
    t.dev.reg (0x3000 + 8 * index) = putBits (s.dev.reg (0x3000 + 8 * index)) 31 24 (min (bits (s.dev.reg (0x3000 + 8 * index)) 31 24 + 1) 0xFF) ∧
    (∀ o, o ≠ 0x3000 + 8 * index → t.dev.reg o = s.dev.reg o) ∧ t.dev.mgmt = s.dev.mgmt ++ [{ source := index, place := place, addr := addr }] ∧ t.cx = s.cx ∧ t.turns = s.turns ∧ t.free = s.free
  let only (s t : State) : Prop := { t.dev with ctrl := s.dev.ctrl, mgmt := s.dev.mgmt } = s.dev
  (∀ (n : Nat) (c : Bool) (s : State),
    let r := s.dev.reg (0x3000 + 8 * n)
    (c = true → n < 9 → ∃ t, exec (.patrolScrub n c) s = .next t ∧
      RegSet s t (0x3000 + 8 * n) (putBits r 23 0 (min (bits r 23 0 + 1) 0xFFFFFF))) ∧
    (¬ (c = true ∧ n < 9) → exec (.patrolScrub n c) s = .next s)) ∧
  (∀ (s : State) (core : Nat), s.co.place = .core core → s.me.stat ≠ .absent → (∀ h ∈ s.dev.companies, h.dseq ≠ s.co.dseq) →
    (∀ (r : Reg) (lane : Nat), ∃ t, exec (.uncorrectableError (.vreg s.co.dseq s.me.j r lane)) s = .next t ∧ counted 0 core none s t ∧ only s t ∧ t.co = s.co ∧
      (s.me.allocated r.toNat = false → t.me = s.me) ∧
      (s.me.allocated r.toNat = true → { t.me with v := s.me.v } = s.me ∧ (∀ k, k ≠ r.toNat → t.me.vget k = s.me.vget k) ∧
        t.me.vget r.toNat = { s.me.vget r.toNat with poison := (s.me.vget r.toNat).poison ||| (1#64 <<< lane) })) ∧
    (∀ r : Reg, ∃ t, exec (.uncorrectableError (.sreg s.co.dseq s.me.j r)) s = .next t ∧ counted 0 core none s t ∧ only s t ∧ t.co = s.co ∧
      t.me = { s.me with sp := s.me.sp ||| (1#64 <<< r.toNat) }) ∧
    (∀ (tn : BitVec 4) (i c : Nat), i < 64 → c < 64 → ∃ t, exec (.uncorrectableError (.tile s.co.dseq tn i c)) s = .next t ∧ counted 1 core none s t ∧ only s t ∧
      t.me = s.me ∧ { t.co with tiles := s.co.tiles } = s.co ∧ (∀ k, k ≠ tn.toNat → Store.get none t.co.tiles k = Store.get none s.co.tiles k) ∧
      (Store.get none s.co.tiles tn.toNat = none → t.co = s.co) ∧
      (∀ x, Store.get none s.co.tiles tn.toNat = some x → ∃ y, Store.get none t.co.tiles tn.toNat = some y ∧ y.bad i c = true ∧
        (∀ a b, a < 64 → b < 64 → y.at a b = x.at a b ∧ ((a, b) ≠ (i, c) → y.bad a b = x.bad a b)))) ∧
    (∀ o : Nat, ∃ t, exec (.uncorrectableError (.localStore s.co.dseq o)) s = .next t ∧ counted 2 core none s t ∧ only s t ∧ t.me = s.me ∧
      t.co = if o < s.co.lsLen then { s.co with lsBad := Store.set false s.co.lsBad (o / 16) true } else s.co) ∧
    (∀ n o : Nat, ∃ t, exec (.uncorrectableError (.gallery s.co.dseq n o)) s = .next t ∧ counted 3 core none s t ∧ only s t ∧ t.me = s.me ∧
      t.co = { s.co with slots := s.co.slots.mapIdx fun k x =>
        if k = n then { x with poison := true, bad := Store.set false x.bad (o % 65536 / 16) true } else x })) ∧
  (∀ (n o : Nat) (s : State),
    let there : Prop := (n = 5 ∧ (inMemory o = true ∨ regionOf o = .atrium)) ∨ (n = 6 ∧ regionOf o = .hbm) ∨ (n = 7 ∧ regionOf o = .tier2)
    let word := if n = 5 then 16 else 32
    (¬ there → exec (.uncorrectableError (.memory n o)) s = .next s) ∧
    (there → ∃ t, exec (.uncorrectableError (.memory n o)) s = .next t ∧ counted n (bankOf o) (some (s.dev.num * 2 ^ 48 + o)) s t ∧ t.me = s.me ∧ t.co = s.co ∧
      (∀ a, t.dev.badAt a = if a / word = o / word then true else s.dev.badAt a) ∧ { t.dev with ctrl := s.dev.ctrl, mgmt := s.dev.mgmt, bad := s.dev.bad } = s.dev)) ∧
  (∀ (h o : Nat) (s : State),
    let held : Prop := h < 4 ∧ ∃ b ∈ s.dev.l2, b.hall = h ∧ b.line = o / 64 ∧ b.first ≤ o % 64 / 8 ∧ o % 64 / 8 < b.first + b.words
    (¬ held → exec (.uncorrectableError (.l2 h o)) s = .next s) ∧
    (held → ∃ t, exec (.uncorrectableError (.l2 h o)) s = .next t ∧ counted 4 h (some (s.dev.num * 2 ^ 48 + o)) s t ∧ t.me = s.me ∧ t.co = s.co ∧
      (∀ a, t.dev.badAt a = if a / 16 = o / 16 then true else s.dev.badAt a) ∧ { t.dev with ctrl := s.dev.ctrl, mgmt := s.dev.mgmt, bad := s.dev.bad } = s.dev)) ∧
  (∀ (f : Nat) (s : State), (256 ≤ f → exec (.uncorrectableError (.flight f)) s = .next s) ∧
    (f < 256 → ∃ t, exec (.uncorrectableError (.flight f)) s = .next t ∧ counted 8 f none s t ∧ t.me = s.me ∧ t.co = s.co ∧ t.dev.flight f = { s.dev.flight f with bad := true } ∧
      (∀ g, g ≠ f → t.dev.flight g = s.dev.flight g) ∧ { t.dev with ctrl := s.dev.ctrl, mgmt := s.dev.mgmt, flights := s.dev.flights } = s.dev)) ∧
  (∀ (hall line : Nat) (write : Bool) (s : State), hall < 4 →
    let i : Instr := .directoryRequest (.request hall line write)
    (¬ (inMemory (line * 64) = true) ∨ s.dev.ownedLine line = true → exec i s = .next s) ∧
    (inMemory (line * 64) = true → s.dev.ownedLine line = false → ∃ t, exec i s = .next t ∧ Fetched s t hall line write)) ∧
  (∀ (hall k : Nat) (s : State), ∃ t, exec (.directoryRequest (.apply hall k)) s = .next t ∧ t = s.setDev { s.dev with halls := t.dev.halls } ∧
    t.dev.halls.length = s.dev.halls.length ∧ ∀ g x y, s.dev.halls[g]? = some x → t.dev.halls[g]? = some y →
      let first (e : Inval) : Prop := x.inval[k]? = some e ∧ ∀ z ∈ x.inval.take k, ∀ p ∈ z.old, ∀ q ∈ e.old, p.1 / 64 ≠ q.1 / 64
      (∀ e, g = hall → first e → y = { x with inval := x.inval.eraseIdx k }) ∧ (g ≠ hall ∨ (∀ e, ¬ first e) → y = x))

/-- R61 to R66: what the L2s hold. Every block has 1 to 8 words of its line, and two blocks of a line in one hall never overlap; every access keeps
this. Where the hall has room, a load leaves every byte that it needs valid in a block of its line, and a store leaves its own bytes valid and
dirty. -/
def Obligations.CachesHoldBlocks : Prop :=
  let apart (bs : List L2Block) : Prop := (∀ b ∈ bs, 1 ≤ b.words ∧ b.first + b.words ≤ 8) ∧
    bs.Pairwise fun a b => a.hall = b.hall → a.line = b.line → a.first + a.words ≤ b.first ∨ b.first + b.words ≤ a.first
  ∀ (d : Device) (h line off : Nat) (need : DWord), apart d.l2 →
    apart (d.hallLoad h line need).l2 ∧ apart (d.hallStore h line need).l2 ∧ apart (d.homeLoad off).l2 ∧ apart (d.homeStore off).l2 ∧
    (d.roomy h → ∀ i, i < 64 → need.getLsbD i = true →
      (∃ b ∈ (d.hallLoad h line need).l2, b.hall = h ∧ b.line = line ∧ b.valid.getLsbD i = true) ∧
      (∃ b ∈ (d.hallStore h line need).l2, b.hall = h ∧ b.line = line ∧ b.valid.getLsbD i = true ∧ b.dirty.getLsbD i = true))

/-! ## Queues -/

/-- R343 to R347, R351, R352, R359 to R361: QCTL's ENABLE maps a queue whose descriptor is legal, DISABLE stops it where it stands and RESUME lets an
ERROR queue go on; anything else sets QCTL.ERR. A drained queue is DISABLED. A doorbell moves WPTR, and one more than a ring ahead is an OVER
error. A queue takes a free place in order of QPRI, then of number, and gives it back. FLTOWN empties a flight; a kept event enters the ring when
it has room. -/
def Obligations.QueueControl : Prop :=
  let qctl (w : RegWrite) (qid : Nat) : Prop := w.ok = true ∧ w.base = 0x50008 ∧ (w.agent = .driver ∨ w.agent = .host) ∧ bits w.ones 11 0 = qid
  let refused (u t : State) : Prop := RegSet u t 0x50008 (putBits (u.dev.reg 0x50008) 30 30 1)
  let ahead (q : Queue) : Nat := (q.wptr + 2 ^ 32 - q.rptr) % 2 ^ 32
  (∀ (w : RegWrite) (s : State) (qid : Nat), qctl w qid → ∃ u, Written w 0x50008 0 (2 ^ 30) s u ∧
    let bs := (List.range 64).map fun i => u.dev.outerByte (u.dev.qdAddr qid + i)
    let f (o n : Nat) : Nat := field bs o n
    let ring := 64 * 2 ^ f 0x12 1
    let legal : Prop := f 0x24 2 = 0 ∧ 6 ≤ f 0x12 1 ∧ f 0x12 1 ≤ 16 ∧ f 0 8 % ring = 0 ∧ f 0 8 + ring ≤ 0x006000000000 ∧ f 8 8 % 64 = 0 ∧
      f 8 8 + 64 ≤ 0x006000000000 ∧ f 0x10 2 ≤ 4095 ∧ f 0x13 1 ≤ 3 ∧ f 0x14 4 = 0 ∧ f 0x2C 4 = 0 ∧ f 0x38 8 = 0 ∧ asidBound u.dev (f 0x10 2) = true
    let q : Queue := { qid := qid, rbase := f 0 8, dbaddr := f 8 8, asid := f 0x10 2, rlog2 := f 0x12 1, qpri := f 0x13 1, rptr := f 0x18 4
                       wptr := u.dev.walkRead (f 8 8) 4, csn := f 0x1C 4, tcur := f 0x20 4, qstate := 1, errcode := f 0x26 2, errcsn := f 0x28 4
                       errdata := f 0x30 8, draining := false, place := none, started := [], sigwait := none, run := none, recording := none, copies := [] }
    let free : Prop := ∀ x, u.dev.queue? qid = some x → x.qstate = 0
    (free → legal → ahead q ≤ 2 ^ q.rlog2 → ∃ t, exec (.queueEnable w) s = .next t ∧ QueueSet u t qid q) ∧
    (¬ (free ∧ legal) → ∃ t, exec (.queueEnable w) s = .next t ∧ refused u t) ∧
    (∀ x, u.dev.queue? qid = some x → x.qstate ≠ 0 → (u.dev.reg 0x50008).testBit 31 = false → x.run = none → x.recording = none → x.sigwait = none →
      ∃ t v, exec (.queueDisable w) s = .next t ∧ RegSet u v 0x50008 (putBits (u.dev.reg 0x50008) 31 31 1) ∧
        QueueSet v t qid { x with draining := true, tcur := 0 }) ∧
    (∀ x y, u.dev.queue? qid = some x → x.qstate ≠ 0 → (u.dev.reg 0x50008).testBit 31 = false → x.run = none → x.recording = none → x.sigwait = some y →
      ∃ t v, exec (.queueDisable w) s = .next t ∧ RegSet u v 0x50008 (putBits (u.dev.reg 0x50008) 31 31 1) ∧
        QueueSet v t qid { x with draining := true, tcur := 0, rptr := y.ix, sigwait := none, started := x.started.filter fun z => z.csn != y.csn }) ∧
    ((∀ x, u.dev.queue? qid = some x → x.qstate = 0) ∨ (u.dev.reg 0x50008).testBit 31 = true → ∃ t, exec (.queueDisable w) s = .next t ∧ refused u t) ∧
    (∀ x, u.dev.queue? qid = some x → x.qstate = 2 →
      let y := { x with rptr := w.ones / 2 ^ 32, tcur := 0, errcode := 0, errcsn := 0, errdata := 0, qstate := 1 }
      ahead y ≤ 2 ^ y.rlog2 → ∃ t, exec (.queueResume w) s = .next t ∧ QueueSet u t qid y) ∧
    ((∀ x, u.dev.queue? qid = some x → x.qstate ≠ 2) → ∃ t, exec (.queueResume w) s = .next t ∧ refused u t)) ∧
  (∀ s : State, (∀ q ∈ s.dev.queues, q.draining = true → q.started ≠ [] ∨ q.run ≠ none) → exec .disableDrainDone s = .next s) ∧
  (∀ (s : State) (q : Queue), (s.dev.queues.find? fun q => q.draining && q.started.isEmpty && q.run.isNone) = some q → s.dev.queue? q.qid = some q →
    ∃ t v, exec .disableDrainDone s = .next t ∧ RegSet s v 0x50008 (putBits (s.dev.reg 0x50008) 31 31 0) ∧
      QueueSet v t q.qid { q with qstate := 0, draining := false, place := none }) ∧
  (∀ (s : State) (qid : Nat) (q : Queue) (x : DWord), s.dev.queue? qid = some q →
    let y := { q with wptr := x.toNat % 2 ^ 32 }
    (y.qstate ≠ 1 ∨ ahead y ≤ 2 ^ y.rlog2 → ∃ t, exec (.doorbellWrite qid x) s = .next t ∧ t.dev.queue? qid = some y ∧
      (∀ k, k ≠ qid → t.dev.queue? k = s.dev.queue? k) ∧ t = s.setDev { s.dev with queues := t.dev.queues }) ∧
    (y.qstate = 1 → 2 ^ y.rlog2 < ahead y → y.recording = none →
      ∃ t, exec (.doorbellWrite qid x) s = .next t ∧ QueueFailed s t qid y 0x205 ((y.csn + 1) % 2 ^ 32) y.rptr)) ∧
  (∀ (s : State) (qid place : Nat) (q : Queue), s.dev.queue? qid = some q →
    let may : Prop := place < 64 ∧ s.dev.waitsForPlace q = true ∧ (∀ r ∈ s.dev.queues, r.place ≠ some place) ∧
      (∀ r ∈ s.dev.queues, s.dev.waitsForPlace r = true → ¬ (q.qpri < r.qpri ∨ r.qpri = q.qpri ∧ r.qid < q.qid))
    let leaves : Prop := q.place ≠ none ∧ q.sigwait = none ∧ q.copies = [] ∧ ((s.dev.pending q = false ∧ q.started = []) ∨
      ∃ r ∈ s.dev.queues, s.dev.waitsForPlace r = true ∧ q.qpri ≤ r.qpri)
    let set (t : State) (p : Option Nat) : Prop := t.dev.queue? qid = some { q with place := p } ∧ (∀ k, k ≠ qid → t.dev.queue? k = s.dev.queue? k) ∧
      t = s.setDev { s.dev with queues := t.dev.queues }
    (may → ∃ t, exec (.queueBind qid place) s = .next t ∧ set t (some place)) ∧ (¬ may → exec (.queueBind qid place) s = .next s) ∧
    (leaves → ∃ t, exec (.queueUnbind qid) s = .next t ∧ set t none) ∧ (¬ leaves → exec (.queueUnbind qid) s = .next s)) ∧
  (∀ (w : RegWrite) (s : State) (fid : Nat), w.ok = true → fid < 256 → w.base = 0x51000 + 8 * fid →
    let f := s.dev.flight fid
    (f.state = 1 ∨ 0 < f.runs → exec (.fltownWrite w) s = .next s) ∧
    (f.state ≠ 1 → f.runs = 0 → ∃ t u, exec (.fltownWrite w) s = .next t ∧ Written w (0x51000 + 8 * fid) (2 ^ 63 + (2 ^ 12 - 1)) 0 s u ∧
      t.dev.flight fid = Flight.empty ∧ (∀ g, g ≠ fid → t.dev.flight g = s.dev.flight g) ∧ t = u.setDev { u.dev with flights := t.dev.flights })) ∧
  (∀ s : State,
    let log2 := bits (s.dev.reg 0x50010) 4 0
    let w := bits (s.dev.reg 0x50020) 63 32
    let room : Prop := 6 ≤ log2 ∧ log2 ≤ 16 ∧ (w + 2 ^ 32 - bits (s.dev.reg 0x50018) 31 0) % 2 ^ 32 < 2 ^ log2
    (s.dev.events = [] ∨ ¬ room → exec .eventRingWrite s = .next s) ∧
    (∀ e es, s.dev.events = e :: es → room → ∃ t, exec .eventRingWrite s = .next t ∧ t.dev.events = es ∧
      let a := bits (s.dev.reg 0x50010) 47 16 * 0x10000 + 32 * (w % 2 ^ log2)
      (∀ x, t.dev.byte x = if a ≤ x ∧ x < a + e.length then e.getD (x - a) 0#8 else s.dev.byte x) ∧
      t.dev.reg 0x50020 = putBits (s.dev.reg 0x50020) 63 32 (w + 1) ∧ (∀ o, o ≠ 0x50020 → t.dev.reg o = s.dev.reg o) ∧
      t.dev.fabric.msix = s.dev.fabric.msix ++ [8 * bits (s.dev.reg 0x30000) 12 10 + leNat (e.take 1) - 1] ∧ { t with dev := s.dev } = s))

/-- R345, R350 to R359: a packet that starts is counted; NOP and FENCE complete at once, SIGSET adds to its word or sets it, SIGWAIT waits until its
word satisfies the condition, a COPY that moves bytes starts its parts and one of no bytes completes, DISPATCH has its launch accepted, GRAPH
makes its node live. A refused packet, a failed read and a bad header put the queue in ERROR. A completed packet's signal then updates its word. -/
def Obligations.Packets : Prop :=
  let row (n : Nat) (qid : Nat) : Instr := if n = 0 then .nopPacket qid else if n = 1 then .dispatchPacket qid else if n = 2 then .graphPacket qid
    else if n = 3 then .copyPacket qid else if n = 4 then .sigwaitPacket qid else if n = 5 then .sigsetPacket qid else .fencePacket qid
  let holds (c a b : Nat) : Prop := if c = 0 then toSigned 32 a = toSigned 32 b else if c = 1 then toSigned 32 a ≠ toSigned 32 b
    else if c = 2 then toSigned 32 b ≤ toSigned 32 a else toSigned 32 a < toSigned 32 b
  let only (u t : State) (qid : Nat) (q : Queue) : Prop := t.dev.queue? qid = some q ∧ (∀ k, k ≠ qid → t.dev.queue? k = u.dev.queue? k)
  (∀ (s : State) (qid : Nat) (q : Queue) (p : List Byte), Head s qid q p → q.copies = [] → ∃ u, QueueSet s u qid q.counted ∧
    let ty := (p.getD 0 0#8).toNat
    let va := field p 0x18 8
    let c := q.counted
    (ty = 0 → ∃ t, exec (row 0 qid) s = .next t ∧ only u t qid (c.ended p) ∧ t = u.setDev { u.dev with queues := t.dev.queues }) ∧
    (ty = 6 → ∃ t, exec (row 6 qid) s = .next t ∧ only u t qid (c.ended p) ∧ (∀ a, t.dev.byte a = u.dev.byte a) ∧ t.me = u.me ∧ t.co = u.co ∧ t.cx = u.cx) ∧
    (ty = 5 → ∀ d o, translate u.dev q.asid false .atomic (.rmw true) va = (d, .at (.mem o)) → o < 0x020000000000 → d.badAt o = false → o % 4 = 0 →
      d.tierDown o = false → d.ownedLine (o / 64) = false →
      ∃ t, exec (row 5 qid) s = .next t ∧ only u t qid (c.ended p) ∧
        t.dev.load o 4 = (if (field p 0x24 1).testBit 0 then field p 0x20 4 else (d.load o 4 + field p 0x20 4) % 2 ^ 32) ∧
        (∀ a, a < o ∨ o + 4 ≤ a → t.dev.byte a = d.byte a) ∧ t.me = u.me ∧ t.co = u.co ∧ t.cx = u.cx) ∧
    (ty = 4 → ∀ v bs, u.ccRead q.asid va 4 = (v, .ok bs) →
      (holds (field p 0x24 1 % 4) (leNat bs) (field p 0x20 4) → ∃ t, exec (row 4 qid) s = .next t ∧ only v t qid (c.ended p) ∧ t = v.setDev { v.dev with queues := t.dev.queues }) ∧
      (¬ holds (field p 0x24 1 % 4) (leNat bs) (field p 0x20 4) → ∃ t, exec (row 4 qid) s = .next t ∧ t = v.setDev { v.dev with queues := t.dev.queues } ∧
        only v t qid { c.began p with sigwait := some { csn := c.csn, ix := q.rptr, addr := BitVec.ofNat 64 va, val := BitVec.ofNat 32 (field p 0x20 4), cond := field p 0x24 1 % 4 } })) ∧
    (ty = 4 → ∀ v cause a, u.ccRead q.asid va 4 = (v, .err cause a) → ∃ t, exec (row 4 qid) s = .next t ∧ QueueFailed v t qid c (0x300 + cause) c.csn a) ∧
    (ty = 3 → field p 0x28 8 = 0 → ∃ t, exec (row 3 qid) s = .next t ∧ only u t qid (c.ended p) ∧ t = u.setDev { u.dev with queues := t.dev.queues }) ∧
    (ty = 3 → field p 0x28 8 ≠ 0 → ∀ v xs ys, u.copySides q.asid va (field p 0x20 8) (field p 0x28 8) = (v, some (.ok (xs, ys))) →
      (segsMeet 0 xs ys = true → ∃ t, exec (row 3 qid) s = .next t ∧ QueueFailed v t qid c 0x208 c.csn q.rptr) ∧
      (segsMeet 0 xs ys = false → ∃ t, exec (row 3 qid) s = .next t ∧ t = v.setDev { v.dev with queues := t.dev.queues } ∧
        only v t qid { c.began p with copies := [(c.csn, va, field p 0x20 8, field p 0x28 8)] })) ∧
    (ty = 1 → ∀ v cause a, u.ccRead q.asid va 128 = (v, .err cause a) → ∃ t, exec (row 1 qid) s = .next t ∧ QueueFailed v t qid c (0x300 + cause) c.csn a) ∧
    (ty = 1 → ∀ v bs, u.ccRead q.asid va 128 = (v, .ok bs) →
      (∀ k, headerCause bs = some k → ∃ t, exec (row 1 qid) s = .next t ∧ QueueFailed v t qid c (0x100 + k) c.csn va) ∧
      (headerCause bs = none → (field p 0x34 4).testBit 0 = false → v.cxGoing q.asid = false → v.acceptHeld q.asid qid = false →
        ∃ t, exec (row 1 qid) s = .next t ∧ ∃ w, only v w qid (c.began p) ∧ w = v.setDev { v.dev with queues := w.dev.queues } ∧
          t = (w.accept q.asid qid fun n =>
            { lseq := n, qid := qid, csn := c.csn, hdr := headerOf bs, lhdr := BitVec.ofNat 64 va, karg := BitVec.ofNat 64 (field p 0x20 8)
              cova := BitVec.ofNat 64 (field p 0x28 8), pdist := field p 0x30 4, pnode := none, finished := false, node := none, made := 0, retired := 0
              total := (headerOf bs).companies, first := 0, gphase := 0, garrived := [], gepi := [], failed := false }).1)) ∧
    (ty = 2 → u.nodeBad q.asid (asBase u.dev q.asid + bits (field p 0x18 4) 27 6 * 64) = true → ∃ t, exec (row 2 qid) s = .next t ∧
      QueueFailed u t qid c 0x206 c.csn q.rptr)) ∧
  (∀ (s : State) (asid qid : Nat) (c : Context) (l : Launch), s.cx.asid = asid → s.cx.alive = true → s.cx = c → c.launches ≠ [] → (∀ k ∈ s.dev.contexts, k.asid ≠ asid) →
    s.dev.trcOn = false → bits (s.dev.reg 0x60000) 11 0 ≠ asid → l.node = none →
    s.accept asid qid (fun n => { l with lseq := n }) = ({ s with
      cx := { c with lseq := c.lseq + 1#32, launches := c.launches ++ [{ l with lseq := c.lseq + 1#32 }] }
      dev := { s.dev with dispatch := s.dev.dispatch ++ [(asid, c.lseq + 1#32)] } }, c.lseq + 1#32)) ∧
  (∀ (s : State) (qid : Nat) (q : Queue) (w : SigWait), s.dev.queue? qid = some q → q.sigwait = some w → q.run = none → s.dev.trcOn = false →
    (∀ v bs, s.ccRead q.asid w.addr.toNat 4 = (v, .ok bs) → v.dev.queue? qid = some q →
      (¬ holds w.cond (leNat bs) w.val.toNat → exec (.sigwaitRecheck qid) s = .next v) ∧
      (holds w.cond (leNat bs) w.val.toNat → ∃ t, exec (.sigwaitRecheck qid) s = .next t ∧ t = v.setDev { v.dev with queues := t.dev.queues } ∧
        only v t qid { q with sigwait := none, started := q.started.filterMap fun x =>
          if x.csn = w.csn then (if (x.packet.getD 1 0#8).getLsbD 1 && !x.failed then some { x with done := true } else none) else some x }))) ∧
  (∀ (s : State) (qid csn : Nat) (q : Queue) (x : Started), s.dev.queue? qid = some q → (q.started.find? fun x => x.csn == csn && x.done) = some x →
    s.dev.waitsFor (.queue qid csn) = false →
    let va := field x.packet 8 8
    let gone : Queue := { q with started := q.started.filter fun x => x.csn != csn }
    (∀ d o, translate s.dev q.asid false .atomic (.rmw true) va = (d, .at (.mem o)) → o < 0x020000000000 → o % 4 = 0 → d.badAt o = false → d.queue? qid = some q →
      d.tierDown o = false → d.ownedLine (o / 64) = false →
      ∃ t, exec (.completionSignal qid csn) s = .next t ∧ only s t qid gone ∧
        t.dev.load o 4 = (if (x.packet.getD 1 0#8).getLsbD 2 then field x.packet 4 4 else (d.load o 4 + field x.packet 4 4) % 2 ^ 32) ∧
        (∀ a, a < o ∨ o + 4 ≤ a → t.dev.byte a = d.byte a) ∧ t.me = s.me ∧ t.co = s.co ∧ t.cx = s.cx)) ∧
  (∀ (s : State) (qid : Nat) (q : Queue) (p : List Byte) (k : Nat), s.dev.queue? qid = some q → s.dev.mayStart q = true → q.rptr ≠ q.wptr → q.rptr < 2 ^ 32 → q.run = none →
    q.recording = none → p = (List.range 64).map (fun k => s.dev.outerByte (q.rbase + 64 * (q.rptr % 2 ^ q.rlog2) + k)) → packetCause s.dev p = some k →
    ((p.getD 1 0#8).getLsbD 0 = false ∧ p.getD 0 0#8 ≠ 6#8) → (∀ a b, packetCause (s.dev.mapQueue a b |>.writeQueue a) p = packetCause s.dev p) →
    ∀ n, n = (p.getD 0 0#8).toNat → n ≤ 5 → (n = 3 → q.copies = []) →
      ∃ t, exec (row n qid) s = .next t ∧ QueueFailed s t qid { q with rptr := (q.rptr + 1) % 2 ^ 32 } (0x200 + k) ((q.csn + 1) % 2 ^ 32) q.rptr)

/-! ## Power, boot, features and firmware -/

/-- R436, R412: main power on and off leave the reset state but for what flash and the strap keep; a boot step runs by its normal path, by its
alternate one after a failure, is skipped, or halts boot. R437: FEATCTL.GO installs a subset that is offered, or is refused. R438: the clocks
follow PWRLIM and the heat. R439: HALLQ moves a hall's queue to the next hall, and its end flushes the hall. R369: CCFWCTL.GO measures an image. -/
def Obligations.PowerAndBoot : Prop :=
  let fresh (on : Bool) (s t : State) : Prop := t.cx = Context.null ∧ t.co = Company.null ∧ t.me = Cohort.null ∧ t.turns = s.turns ∧ t.free = s.free ∧
    t.dev.contexts = [] ∧ t.dev.companies = [] ∧ t.dev.queues = [] ∧ t.dev.flights = [] ∧ t.dev.statements = [] ∧ (∀ a, t.dev.byte a = 0#8) ∧
    (∀ q, q < 64 → (t.dev.fabric.ports.getD q Port.off).state = 0) ∧ t.dev.reg 0x70000 = 0x1F ∧ t.dev.reg 0x70020 = 1 ∧
    t.dev.reg 0x30000 = (if s.dev.fabric.strap then 2 ^ 31 else 0) ∧ (∀ o, o < 0x40000000 → o ∉ [0x30000, 0x70000, 0x70020] → t.dev.reg o = 0) ∧
    t.dev.boot.powered = on ∧ t.dev.boot.ctxid = s.dev.boot.ctxid ∧ t.dev.boot.retno = s.dev.boot.retno ∧ t.dev.boot.started = s.dev.boot.started ∧
    t.dev.boot.altTried = s.dev.boot.altTried ∧ t.dev.boot.skipped = [] ∧ t.dev.fabric.strap = s.dev.fabric.strap
  (∀ s, (∃ t, exec .powerOn s = .next t ∧ fresh true s t) ∧ ∃ t, exec .mainPowerRemoval s = .next t ∧ fresh false s t) ∧
  (∀ (ok : Bool) (s : State),
    let r := s.dev.reg 0x70080
    let b := s.dev.boot
    let n := bits r 3 0 + 1
    let moved (alt : Bool) : Nat := putBits (putBits r 3 0 n) (9 + n) (9 + n) (if alt then 1 else 0)
    let tried (alt : Bool) : Prop := ∃ t, exec (.bootStep ok) s = .next t ∧ t = s.setDev t.dev ∧
      t.dev.reg 0x70080 = (if ok = true ∧ n = 10 then putBits (moved alt) 31 31 1 else moved alt) ∧ (∀ o, o ≠ 0x70080 → t.dev.reg o = s.dev.reg o) ∧
      t.dev.boot.started = b.started.filter (fun k => k != n) ++ (if ok then [] else [n]) ∧
      t.dev.boot.altTried = b.altTried.filter (fun k => k != n) ++ (if !ok && alt then [n] else []) ∧ t.dev.boot.skipped = b.skipped ∧
      (ok = true → n = 8 → ∀ p ∈ t.dev.fabric.ports, p.state = 4 ∨ (p.state = 3 ∧ p.keyed = true)) ∧ (ok = true → n = 6 → t.dev.flights = []) ∧
      (ok = false → { t.dev with ctrl := s.dev.ctrl, boot := b } = s.dev)
    let stopped : Prop := r.testBit 31 = true ∨ r.testBit 30 = true ∨ (bits r 3 0 ∈ b.started ∧ bits r 3 0 ∉ b.skipped)
    (stopped → exec (.bootStep ok) s = .next s) ∧ (¬ stopped → n ∉ b.started → tried false) ∧
    (¬ stopped → n ∈ b.started → n ∈ [1, 3, 4, 5, 7, 8, 9] → n ∉ b.altTried → tried true) ∧
    (¬ stopped → n ∈ b.started → (n ∉ [1, 3, 4, 5, 7, 8, 9] ∨ n ∈ b.altTried) → n ∈ [5, 8, 9] → ∃ t, exec (.bootStep ok) s = .next t ∧
      RegSet (s.setDev { s.dev with boot := { b with skipped := b.skipped ++ [n] } }) t 0x70080 (moved true)) ∧
    (¬ stopped → n ∈ b.started → (n ∉ [1, 3, 4, 5, 7, 8, 9] ∨ n ∈ b.altTried) → n ∉ [5, 8, 9] → ∃ t u, exec (.bootStep ok) s = .next t ∧
      RegSet s u 0x70080 (putBits r 3 0 n) ∧ RegSet u t 0x70080 (putBits (putBits r 3 0 n) 30 30 1))) ∧
  (∀ (w : RegWrite) (s : State), w.ok = true → w.base = 0x70040 → ∃ u, Written w 0x70040 0 (2 ^ 31) s u ∧
    let go : Prop := Covers w 0 ∧ w.val.testBit (0 - 8 * (w.off % 8)) = true
    let want (k : Nat) : Nat := s.dev.reg (featPending (0x70020 + 8 * k))
    let bad : Prop := (∃ k, k < 4 ∧ want k &&& s.dev.reg (0x70000 + 8 * k) ≠ want k) ∨ (want 0).testBit 0 = false ∨ (∃ q ∈ s.dev.queues, q.qstate = 1) ∨
      ∃ c ∈ s.contexts, c.stat ≠ .ended
    (¬ go → exec (.featctlGo w) s = .next u) ∧
    (go → bad → ∃ t, exec (.featctlGo w) s = .next t ∧ RegSet u t 0x70040 (putBits (u.dev.reg 0x70040) 31 31 1)) ∧
    (go → ¬ bad → ∃ t, exec (.featctlGo w) s = .next t ∧ t = s.setDev { s.dev with ctrl := t.dev.ctrl } ∧ (∀ k, k < 4 → t.dev.reg (0x70020 + 8 * k) = want k) ∧
      t.dev.reg 0x50028 = putBits (s.dev.reg 0x50028) 31 0 (s.dev.reg 0x50028 + 1) ∧
      ∀ o, o ≠ 0x50028 → (∀ k, k < 4 → o ≠ 0x70020 + 8 * k) → t.dev.reg o = u.dev.reg o)) ∧
  (∀ s : State,
    let clocked (f : Nat → Nat) : State := s.setDev { s.dev with halls := s.dev.halls.map fun h => { h with mhz := f h.mhz } }
    (∀ mean limit, exec (.powerLimitSample mean limit) s = .next (if limit < mean then clocked fun x => max 1200 (x - 100)
      else if 100 * mean < 95 * limit then clocked fun x => min 2400 (x + 100) else s)) ∧
    (∀ c, exec (.thermalThrottle c) s = .next (if 105 ≤ c then clocked fun x => max 1200 (x - 100) else s)) ∧
    (∀ c, exec (.thermalShutdown c) s = .next (if 115 ≤ c then s.setDev { s.dev with mgmt := s.dev.mgmt ++ [{ source := 0x300, place := c, addr := none }] } else s))) ∧
  (∀ (w : RegWrite) (s : State), w.ok = true → w.base = 0x70100 → ∃ u, Written w 0x70100 3 (2 ^ 30) s u ∧
    let go : Prop := Covers w 2 ∧ w.val.testBit (2 - 8 * (w.off % 8)) = true
    let h := bits (u.dev.reg 0x70100) 1 0
    let move (c : Company) : Company := if c.place = .queued h then { c with place := .queued ((h + 1) % 4) } else c
    (go → (s.dev.reg 0x70100).testBit 31 = true → ∃ t, exec (.hallqGo w) s = .next t ∧ RegSet s t 0x70100 (putBits (s.dev.reg 0x70100) 30 30 1)) ∧
    (¬ go → exec (.hallqGo w) s = .next u) ∧
    (go → (s.dev.reg 0x70100).testBit 31 = false → ∃ t, exec (.hallqGo w) s = .next t ∧ t.dev.reg 0x70100 = putBits (u.dev.reg 0x70100) 31 31 1 ∧
      (∀ o, o ≠ 0x70100 → t.dev.reg o = s.dev.reg o) ∧ t.dev.companies = s.dev.companies.map move ∧ t.co = move s.co ∧
      t.dev.halls = (s.dev.halls.mapIdx fun i x => if i = h then { x with quiesce := true, block := none } else x) ∧
      { t.dev with ctrl := s.dev.ctrl, companies := s.dev.companies, halls := s.dev.halls } = s.dev ∧ t.me = s.me ∧ t.cx = s.cx)) ∧
  (∀ (s : State) (h : Nat), h < 4 → (s.dev.reg 0x70100).testBit 31 = true → (s.dev.halls.getD h Hall.reset).quiesce = true →
    (∀ i, i < h → (s.dev.halls.getD i Hall.reset).quiesce = false) → (∀ c ∈ s.companies, ∀ k, c.place = .core k → k / 128 ≠ h) →
    ∃ t, exec .hallQuiesceDone s = .next t ∧ t.dev.reg 0x70100 = putBits (s.dev.reg 0x70100) 31 31 0 ∧ (∀ o, o ≠ 0x70100 → t.dev.reg o = s.dev.reg o) ∧
      t.dev.halls = (s.dev.halls.mapIdx fun i x => if i = h then { x with quiesce := false, inval := [] } else x) ∧
      (∀ p ∈ t.dev.dir, p.2 ≠ 0x100 + h ∧ ((p.2 - 1).testBit h = true → 0x100 ≤ p.2)) ∧ { t.dev with ctrl := s.dev.ctrl, halls := s.dev.halls, dir := s.dev.dir, l2 := s.dev.l2, l3 := s.dev.l3 } = s.dev ∧ (∀ b ∈ t.dev.l2, b ∈ s.dev.l2 ∧ b.hall ≠ h) ∧
      { t with dev := s.dev } = s) ∧
  (∀ (w : RegWrite) (s : State), w.ok = true → w.base = 0x52000 → w.agent = .mgmt → ∃ u, Written w 0x52000 (2 ^ 48 - 2 ^ 12) (2 ^ 62) s u ∧
    let go : Prop := Covers w 0 ∧ w.val.testBit (0 - 8 * (w.off % 8)) = true
    let image := bits (u.dev.reg 0x52000) 47 12 * 4096
    let len := bits (u.dev.reg 0x52008) 31 0
    let sum := sha3 ((List.range len).map fun k => u.dev.outerByte (image + k))
    let legal : Prop := (s.dev.reg 0x52000).testBit 63 = false ∧ len % 4096 = 0 ∧ 4096 ≤ len ∧ len ≤ 2 ^ 24 ∧ inHbm image len = true
    (¬ go → exec (.ccfwctlGo w) s = .next u) ∧
    (go → ¬ legal → exec (.ccfwctlGo w) s = .next (s.setDev ((s.dev.setField 0x52000 62 62 1).post 7 0xFFFF 0 1 0))) ∧
    (go → legal → sum ≠ (List.range 4).flatMap (fun k => leBytes 8 (u.dev.reg (0x52010 + 8 * k))) →
      exec (.ccfwctlGo w) s = .next (u.setDev ((u.dev.setField 0x52000 62 62 1).post 7 0xFFFF 0 1 0))) ∧
    (go → legal → sum = (List.range 4).flatMap (fun k => leBytes 8 (u.dev.reg (0x52010 + 8 * k))) → ∃ t, exec (.ccfwctlGo w) s = .next t ∧
      t.dev.fwswap = [0, 1] ∧ t.dev.boot = { s.dev.boot with incoming := some sum } ∧ t.dev.reg 0x52000 = putBits (u.dev.reg 0x52000) 63 63 1)) ∧
  (∀ (core : Bool) (s : State) (k : Nat) (ks : List Nat), s.dev.fwswap = k :: ks → (s.dev.reg 0x60000).testBit 31 = false →
    let c := if core then 1 else 0
    (k ≠ c → exec (.firmwareCoreSwap core) s = .next s) ∧
    (k = c → ks ≠ [] → exec (.firmwareCoreSwap core) s = .next (s.setDev { s.dev with fwswap := ks })) ∧
    (k = c → ks = [] → ∃ d, RegSet (s.setDev { s.dev with fwswap := [], boot := { s.dev.boot with measure := s.dev.boot.incoming, incoming := none } }) (s.setDev d)
        0x52000 (putBits (s.dev.reg 0x52000) 63 63 0) ∧
      exec (.firmwareCoreSwap core) s = .next (s.setDev (d.post 7 0xFFFF 0 0 (leNat ((s.dev.boot.incoming.getD []).take 8))))))

/-! ## Records, traces and statements -/

/-- R392, R393, R400: a write to RECCTL is refused with ERR in the cases of R393, else stored; MODE 0 ends what is active. A completed page goes into
the ring, stays while a strict recording meets a full one, and is counted as lost by the next page of a lossy one. R405 to R408, R32: the trace
unit. R403: #CBKPT. R412 to R416: statements take the next RETNO, wait for one of 64 places and are written in order. -/
def Obligations.RecordsAndTraces : Prop :=
  let rest (s t : State) : Prop := t.me = s.me ∧ t.co = s.co ∧ t.cx = s.cx ∧ t.turns = s.turns
  let wrote (s t : State) (a : Nat) (bs : List Byte) : Prop := ∀ x, t.dev.byte x = if a ≤ x ∧ x < a + bs.length then bs.getD (x - a) 0#8 else s.dev.byte x
  (∀ i ∈ [Instr.recordStrict, .recordLossy, .replayMode, .modeOff], ∀ (w : RegWrite) (s : State), w.ok = true → w.base = 0x60000 →
    ∃ u, Written w 0x60000 (2 ^ 18 - 2 ^ 16 + (2 ^ 12 - 1)) (2 ^ 30) s u ∧
    let old := s.dev.reg 0x60000
    let new := u.dev.reg 0x60000
    let active : Prop := old.testBit 31 = true
    let gives : Prop := Covers w 16
    let ring : Prop := 1 ≤ bits (s.dev.reg 0x60008) 5 0 ∧ bits (s.dev.reg 0x60008) 5 0 ≤ 32 ∧
      inHbm (bits (s.dev.reg 0x60008) 47 30 * 2 ^ 30) (bits (s.dev.reg 0x60008) 5 0 * 2 ^ 30) = true
    let bad : Prop := (gives ∧ bits new 17 16 ≠ 0 ∧ (active ∨ ¬ ring ∨ (s.dev.reg 0x70020).testBit 1 = false)) ∨ (active ∧ bits new 11 0 ≠ bits old 11 0)
    let ends : Prop := gives ∧ bits new 17 16 = 0 ∧ active
    (bad → ∃ t, exec (i w) s = .next t ∧ RegSet s t 0x60000 (old ||| 2 ^ 30)) ∧
    (¬ bad → ¬ ends → exec (i w) s = .next u) ∧
    (¬ bad → ends → bits old 17 16 = 3 → ∃ t, exec (i w) s = .next t ∧ RegSet (u.setDev { u.dev with recUnit := { u.dev.recUnit with expect := [] } }) t 0x60000 (putBits new 31 31 0)) ∧
    (¬ bad → ends → bits old 17 16 ≠ 3 → (∀ p ∈ s.dev.recUnit.pages, p.recs = []) →
      ∃ t, exec (i w) s = .next t ∧ t.dev.recUnit.pages = [] ∧ t.dev.recUnit.closing = false ∧ t.dev.reg 0x60000 = putBits new 31 31 0 ∧
        (∀ o, o ≠ 0x60000 → t.dev.reg o = s.dev.reg o) ∧ (∀ a, t.dev.byte a = s.dev.byte a) ∧ rest s t)) ∧
  (∀ (source : Nat) (s : State) (pre post : List RecPage) (p : RecPage), s.dev.recUnit.closing = false → s.dev.recUnit.pages = pre ++ p :: post →
    p.source = source → p.recs ≠ [] → (∀ q ∈ pre, q.source ≠ source ∨ q.recs = []) →
    let d := s.dev
    let dev := bits (d.reg 0x60010) 63 32
    let pages := bits (d.reg 0x60008) 5 0 * 2 ^ 18
    let full : Prop := (dev + 2 ^ 32 - bits (d.reg 0x60010) 31 0) % 2 ^ 32 = pages
    let slot := bits (d.reg 0x60008) 47 30 * 2 ^ 30 + dev % max 1 pages * 4096
    (¬ full → ∃ t, exec (.recordPageComplete source) s = .next t ∧ wrote s t slot (p.bytes dev) ∧ t.dev.recUnit = { d.recUnit with pages := pre ++ post } ∧
      t.dev.reg 0x60010 = putBits (d.reg 0x60010) 63 32 (dev + 1) ∧ (∀ o, o ≠ 0x60010 → t.dev.reg o = d.reg o) ∧ rest s t) ∧
    (full → s.recMode ≠ 2 → exec (.recordPageComplete source) s = .next s) ∧
    (full → s.recMode = 2 → exec (.recordPageComplete source) s = .next (s.setDev { d with recUnit := { d.recUnit with pages := carryLoss source (p.lost + 1) (pre ++ post) } }))) ∧
  (∀ (s : State) (w : RegWrite), w.ok = true → w.base = 0x60350 → w.agent = .mgmt → Covers w 0 → w.val.testBit (0 - 8 * (w.off % 8)) = true → s.dev.reg 0x60350 = 0 →
    (s.dev.statements.length < 64 → ∃ t x, exec (.jobreqGo w) s = .next t ∧ t.dev.statements = s.dev.statements ++ [x] ∧ x.kind = 2 ∧ x.retno = s.dev.boot.retno + 1 ∧
      x.head = s.dev.jobBytes 0 16 ∧ x.body = leBytes 2 s.dev.num ++ leBytes 6 0 ++ s.dev.jobBytes 0x10 64 ++ s.dev.measurement ++ List.replicate 920 0#8 ∧
      (x.flags = 1 ↔ ∃ i, i < 512 ∧ ((s.dev.jobBytes 0x10 64).getD (i / 8) 0#8).toNat.testBit (i % 8) = true ∧ s.dev.reg (0x10000 + 8 * i) = 0) ∧ t.dev.boot.retno = x.retno ∧ rest s t) ∧
    (64 ≤ s.dev.statements.length → ∃ t, exec (.jobreqGo w) s = .next t ∧ RegSet s t 0x60350 1)) ∧
  (∀ (s : State) (w : RegWrite), w.ok = true → w.base = 0x60210 → Bare s → (s.dev.reg 0x60000).testBit 31 = false → ∃ u, Written w 0x60210 (2 ^ 12 - 1) (2 ^ 30) s u ∧
    let go : Prop := Covers w 16 ∧ w.val.testBit (16 - 8 * (w.off % 8)) = true
    let asid := bits (u.dev.reg 0x60210) 11 0
    (¬ go → exec (.ctxretGo w) s = .next u) ∧
    (go → (s.dev.reg 0x60210).testBit 31 = true ∨ (s.cx.asid = asid ∧ s.cx.launches ≠ [] ∧ ∀ c ∈ s.dev.contexts, c.asid ≠ asid) →
      ∃ t, exec (.ctxretGo w) s = .next t ∧ RegSet u t 0x60210 (putBits (u.dev.reg 0x60210) 30 30 1)) ∧
    (go → (s.dev.reg 0x60210).testBit 31 = false → s.cx.asid = asid → (∀ c ∈ s.contexts, c.asid = asid → c.launches = []) → 64 ≤ s.dev.statements.length →
      ∃ t, exec (.ctxretGo w) s = .next t ∧ RegSet u t 0x60210 (putBits (u.dev.reg 0x60210) 31 31 1)) ∧
    (go → (s.dev.reg 0x60210).testBit 31 = false → s.cx.asid = asid → (∀ c ∈ s.contexts, c.asid = asid → c.launches = []) → s.dev.statements.length < 64 →
      ∃ t x, exec (.ctxretGo w) s = .next t ∧ t.cx = Context.null ∧ t.dev.statements = s.dev.statements ++ [x] ∧ x.kind = 1 ∧ x.retno = s.dev.boot.retno + 1 ∧
        x.head = leBytes 8 s.cx.ctxid ++ leBytes 2 asid ++ leBytes 6 0 ∧ x.body = s.cx.cntBytes ∧ x.flags = (if s.cx.replayed then 1 else 0) + (if s.cx.sat ≠ 0#128 then 4 else 0) ∧
        t.dev.boot.retno = x.retno ∧ t.dev.contexts = s.dev.contexts ∧ t.me = s.me ∧ t.co = s.co ∧ t.turns = s.turns)) ∧
  (∀ (s : State),
    let log2 := bits (s.dev.reg 0x60200) 3 0
    let n := bits (s.dev.reg 0x60208) 63 32
    let room : Prop := 4 ≤ log2 ∧ log2 ≤ 12 ∧ (n + 2 ^ 32 - bits (s.dev.reg 0x60208) 31 0) % 2 ^ 32 < 2 ^ log2
    (s.dev.statements = [] ∨ ¬ room → exec .statementWrite s = .next s) ∧
    (∀ x xs, s.dev.statements = x :: xs → room → (s.dev.reg 0x60210).testBit 31 = false → s.dev.reg 0x60350 ≠ 1 → s.dev.retiring = [] →
      ∃ t, exec .statementWrite s = .next t ∧ wrote s t (bits (s.dev.reg 0x60200) 47 16 * 0x10000 + 4096 * (n % 2 ^ log2)) x.bytes ∧ t.dev.statements = xs ∧
        t.dev.reg 0x60208 = putBits (s.dev.reg 0x60208) 63 32 (n + 1) ∧ (∀ o, o ≠ 0x60208 → t.dev.reg o = s.dev.reg o) ∧ rest s t)) ∧
  (∀ (r : TraceRec) (s : State),
    let c := s.dev.reg 0x60108
    let log2 := bits (s.dev.reg 0x60100) 4 0
    let on : Prop := c.testBit 0 = true ∧ 10 ≤ log2 ∧ log2 ≤ 26
    let enabled : Prop := if 1 ≤ r.type ∧ r.type ≤ 4 then c.testBit 1 = true else if r.type = 5 ∨ r.type = 6 then c.testBit 2 = true
      else if r.type = 7 then c.testBit 3 = true else 8 ≤ r.type ∧ r.type ≤ 10
    let n := bits (s.dev.reg 0x60110) 63 32
    let held := (n + 2 ^ 32 - bits (s.dev.reg 0x60110) 31 0) % 2 ^ 32
    (¬ (on ∧ enabled) → exec (.traceRecord r) s = .next s) ∧
    (on → enabled → s.dev.traceLost = 0 → held + 1 ≤ 2 ^ log2 → ∃ t k, exec (.traceRecord r) s = .next t ∧
      wrote s t (bits (s.dev.reg 0x60100) 47 16 * 0x10000 + 32 * (n % 2 ^ log2)) (traceBytes r (s.dev.clocks.getD r.die 0#64 + BitVec.ofNat 64 k)) ∧
      t.dev.reg 0x60110 = putBits (s.dev.reg 0x60110) 63 32 (n + 1) ∧ (∀ o, o ≠ 0x60110 → t.dev.reg o = s.dev.reg o) ∧ rest s t) ∧
    (on → enabled → 2 ^ log2 < held + 1 → ∃ t, exec (.traceRecord r) s = .next t ∧ t.dev.traceLost = s.dev.traceLost + 1 ∧ (∀ x, t.dev.byte x = s.dev.byte x) ∧
      t.dev.ctrl = s.dev.ctrl ∧ rest s t)) ∧
  (∀ (rails : List Nat) (s u t : State),
    let rail (i : Nat) : Nat := min (rails.getD i 0) 0xFFFF
    let one (k : Nat) : TraceRec := { type := 7, die := 4, engine := 5 * 2 ^ 12, qid := 0xFFFF, csn := 0
                                      data0 := rail k + rail (k + 1) * 2 ^ 16 + rail (k + 2) * 2 ^ 32 + rail (k + 3) * 2 ^ 48
                                      data1 := rail (k + 4) + rail (k + 5) * 2 ^ 16, data2 := k }
    exec (.traceRecord (one 0)) s = .next u → exec (.traceRecord (one 6)) u = .next t → exec (.powerSample rails) s = .next t) ∧
  (∀ (s u : State), exec (.traceRecord { type := 8, die := 4, engine := 5 * 2 ^ 12, qid := 0xFFFF, csn := 0, data0 := s.dev.marker, data1 := 0, data2 := 0 }) s = .next u →
    exec .correlationMarkerSend s = .next (u.setDev { u.dev with
      marker := (s.dev.marker + 1) % 2 ^ 32, onWay := u.dev.onWay ++ [0, 1, 2, 3, 5, 6].map fun die => (die, s.dev.marker) })) ∧
  (∀ (die delay : Nat) (s : State), (s.dev.reg 0x60000).testBit 31 = false →
    ((∀ m ∈ s.dev.onWay, m.1 ≠ die) ∨ delay < 40 ∨ 64 < delay → exec (.correlationMarkerReceipt die delay) s = .next s) ∧
    (∀ (pre post : List (Nat × Nat)) (n : Nat) (u : State), s.dev.onWay = pre ++ (die, n) :: post → (∀ m ∈ pre, m.1 ≠ die) → 40 ≤ delay → delay ≤ 64 →
      exec (.traceRecord { type := 8, die := die, engine := 5 * 2 ^ 12, qid := 0xFFFF, csn := 0, data0 := n, data1 := 0, data2 := 0 })
        (s.setDev { s.dev with onWay := pre ++ post }) = .next u →
      exec (.correlationMarkerReceipt die delay) s = .next u)) ∧
  (∀ (s : State) (q : Queue),
    let x := s.dev.reg 0x60118
    s.dev.queue? (bits x 43 32) = some q → s.dev.trcOn = false →
    let due : Prop := x.testBit 63 = true ∧ bits x 43 32 = q.qid ∧ (q.csn + 1) % 2 ^ 32 = bits x 31 0 ∧ (∀ y ∈ q.started, y.done = true) ∧ q.run = none ∧ q.rptr ≠ q.wptr
    (due → Bare s → s.cx.asid = q.asid → s.cx.stat = .live → (∃ h ∈ s.dev.companies, h.asid = q.asid ∧ h.coreOf.isSome = true) →
      ∃ t, exec .traceStop s = .next t ∧ t.dev.reg 0x60118 = putBits x 63 62 1 ∧ (∀ o, o ≠ 0x60118 → t.dev.reg o = s.dev.reg o) ∧
        t.cx = { s.cx with stat := .saving true, halter := some (0#64, 0#56, q.qid, q.csn) } ∧ t.dev.companies = s.dev.companies.map fun h => if h.asid = q.asid then
          { h with cohorts := h.cohorts.map fun c => if c.stat = .ended then c else { c with stopDue := 3 } } else h) ∧
    (x.testBit 63 = false ∨ (∃ y ∈ q.started, y.done = false ∧ q.run = none) → exec .traceStop s = .next s)) ∧
  (∀ (s : State) (d j : Nat), s.isAt d j = true → (s.breakpoint = none → exec (.cbkptTrap d j) s = .next s) ∧
    (∀ k, s.breakpoint = some k → s.co.asid = s.cx.asid → s.me.stat = .running → ∃ t, exec (.cbkptTrap d j) s = .next t ∧
      t.dev.reg (0x60040 + 16 * k) = putBits (s.dev.reg (0x60040 + 16 * k)) 62 62 1 ∧ t.me.stopDue = 3 ∧ t.me.crget 0x50 = 0x04110000#32 ∧ t.me.pc = s.me.pc ∧
      t.cx.stat = .saving true ∧ (∀ c ∈ t.co.cohorts, c.stat = .ended ∨ c.stopDue = 6)))

/-! ## Flights -/

/-- R361 to R368: FLIGHT_BEGIN empties a flight that its ASID owns and records into it, or is the FLIGHT error 1 or 2; FLIGHT_END makes it VALID, or
INVALID where something was lost. FLIGHT_RUN begins a run where the guards hold and a fallback where one fails, and is the FLIGHT error 1, 2 or 6
else. A run issues its treads, patched, and a fallback its packets, in order; a tread struck by an error is the FLIGHT error 7, a FLIGHT packet
in a fallback the error 8. -/
def Obligations.Flights : Prop :=
  let only (u t : State) (qid : Nat) (q : Queue) : Prop := t.dev.queue? qid = some q ∧ (∀ k, k ≠ qid → t.dev.queue? k = u.dev.queue? k)
  let owns (s : State) (fid asid : Nat) : Prop := (s.dev.reg (0x51000 + 8 * fid)).testBit 63 = true ∧ bits (s.dev.reg (0x51000 + 8 * fid)) 11 0 = asid
  let flight (u t : State) (fid : Nat) (f : Flight) : Prop := t.dev.flight fid = f ∧ (∀ g, g ≠ fid → t.dev.flight g = u.dev.flight g)
  (∀ (s : State) (qid : Nat) (q : Queue) (p : List Byte), Head s qid q p → ∃ u, QueueSet s u qid q.counted ∧
    let ty := (p.getD 0 0#8).toNat
    let c := q.counted
    let fid := field p 0x18 1
    let f := s.dev.flight fid
    (ty = 7 → ¬ owns s fid q.asid → ∃ t, exec (.flightBeginPacket qid) s = .next t ∧ QueueFailed u t qid c 0x401 c.csn (fid * 2 ^ 32)) ∧
    (ty = 7 → owns s fid q.asid → f.state = 1 ∨ 0 < f.runs → ∃ t, exec (.flightBeginPacket qid) s = .next t ∧ QueueFailed u t qid c 0x402 c.csn (fid * 2 ^ 32)) ∧
    (ty = 7 → owns s fid q.asid → f.state ≠ 1 → f.runs = 0 → ∃ t, exec (.flightBeginPacket qid) s = .next t ∧ only u t qid { c.ended p with recording := some fid } ∧
      flight u t fid { Flight.empty with state := 1, gguard := (field p 0x19 1).testBit 0 } ∧
      t = u.setDev { u.dev with queues := t.dev.queues, flights := t.dev.flights }) ∧
    (ty = 8 → ∃ t, exec (.flightEndPacket qid) s = .next t ∧ QueueFailed u t qid c 0x404 c.csn (fid * 2 ^ 32)) ∧
    (ty = 9 → ¬ owns s fid q.asid → ∃ t, exec (.flightRunPacket qid) s = .next t ∧ QueueFailed u t qid c 0x401 c.csn (fid * 2 ^ 32)) ∧
    (ty = 9 → owns s fid q.asid → f.state = 1 → ∃ t, exec (.flightRunPacket qid) s = .next t ∧ QueueFailed u t qid c 0x402 c.csn (fid * 2 ^ 32)) ∧
    (ty = 9 → owns s fid q.asid → f.state ≠ 1 → field p 0x19 1 % 128 < f.npreq →
      ∃ t, exec (.flightRunPacket qid) s = .next t ∧ QueueFailed u t qid c 0x406 c.csn (fid * 2 ^ 32)) ∧
    (ty = 9 → owns s fid q.asid → f.state ≠ 1 → f.npreq ≤ field p 0x19 1 % 128 → q.tcur.testBit 31 = false →
      ∀ v bs, u.ccRead q.asid (field p 0x20 8) (8 * (field p 0x19 1 % 128)) = (v, .ok bs) →
      let run (fb : Bool) (next : Nat) : Run := { fid := fid, ix := q.rptr, csn := c.csn, fallback := fb, next := next, fblen := field p 0x1C 4, fbaddr := BitVec.ofNat 64 (field p 0x28 8)
                                                  pending := [], stopped := false, failed := false
                                                  patch := if fb then [] else (List.range (field p 0x19 1 % 128)).map fun k => BitVec.ofNat 64 (field bs (8 * k) 8) }
      (∀ w, v.guard f q.asid = (w, some none) → w.dev.queue? qid = some c → q.tcur < f.treads.length → w.dev.flight fid = f →
        ∃ t, exec (.flightRunPacket qid) s = .next t ∧ only w t qid { c.began p with run := some (run false q.tcur) } ∧
          flight w t fid { f with runs := f.runs + 1 } ∧ t = w.setDev { w.dev with queues := t.dev.queues, flights := t.dev.flights }) ∧
      (∀ w k, v.guard f q.asid = (w, some (some k)) → w.dev.queue? qid = some c → w.dev.trcOn = false → 0 < field p 0x1C 4 → w.dev.flight fid = f →
        ∃ t, exec (.flightRunPacket qid) s = .next t ∧ only w t qid { c.began p with run := some (run true 0) } ∧ flight w t fid { f with state := 3 } ∧
          t.dev.enum = w.dev.enum + 1 ∧ { t with dev := w.dev } = w))) ∧
  (∀ (s : State) (qid fid : Nat) (q : Queue) (p : List Byte), s.dev.queue? qid = some q → s.dev.mayStart q = true → q.rptr ≠ q.wptr → q.rptr < 2 ^ 32 → q.run = none →
    q.recording = some fid → p = (List.range 64).map (fun k => s.dev.outerByte (q.rbase + 64 * (q.rptr % 2 ^ q.rlog2) + k)) → packetCause s.dev p = none →
    pmapBad p = false → (∀ x ∈ q.started, x.done = true ∧ x.csn ≠ (q.csn + 1) % 2 ^ 32) → s.dev.trcOn = false → p.getD 0 0#8 = 8#8 → field p 0x18 1 = fid →
    ∃ u t, QueueSet s u qid q.counted ∧ exec (.flightEndPacket qid) s = .next t ∧ only u t qid { q.counted.ended p with recording := none } ∧
      flight u t fid { s.dev.flight fid with
        state := if (s.dev.flight fid).lost = true ∨ (s.dev.flight fid).state = 3 then 3 else 2
        ptgen := Store.get 0#64 s.dev.ptgen q.asid, glgen := ((s.context? q.asid).map (·.glgen)).getD 0#32, featgen := BitVec.ofNat 32 (s.dev.reg 0x50028) } ∧
      t = u.setDev { u.dev with queues := t.dev.queues, flights := t.dev.flights }) ∧
  (∀ (s : State) (qid : Nat) (q : Queue) (r : Run), s.dev.queue? qid = some q → s.dev.mayStart q = true → q.run = some r → r.stopped = false → q.recording = none →
    let csn := (q.csn + 1) % 2 ^ 32
    let issued (s t : State) (p : List Byte) : Prop := t.dev.queue? qid = some { q with
      csn := csn, tcur := 0, run := some { r with next := r.next + 1 }
      started := q.started ++ if (p.getD 1 0#8).getLsbD 1 then [{ csn := csn, packet := p, run := some r.csn, done := true, failed := false }] else [] } ∧
      (∀ k, k ≠ qid → t.dev.queue? k = s.dev.queue? k) ∧ t.dev.flights = s.dev.flights ∧ t.me = s.me ∧ t.co = s.co ∧ t.cx = s.cx ∧ t.turns = s.turns ∧
      (∀ a, a < s.dev.qdAddr qid + 0x18 ∨ s.dev.qdAddr qid + 0x40 ≤ a → t.dev.byte a = s.dev.byte a)
    let nop (p : List Byte) : Prop := p.getD 0 0#8 = 0#8 ∧ (p.getD 1 0#8).getLsbD 0 = false ∧ packetCause s.dev p = none
    let fresh : Prop := (∀ x ∈ q.started, x.csn ≠ csn) ∧ csn ∉ r.pending
    let f := s.dev.flight r.fid
    (r.fallback = false → r.next < f.treads.length → f.bad = true → r.pending ≠ [] →
      ∃ t, exec (.treadIssue qid) s = .next t ∧ QueueFailed s t qid q 0x407 csn (r.next + r.fid * 2 ^ 32)) ∧
    (r.fallback = false → r.next + 1 < f.treads.length → f.bad = false → fresh → s.dev.trcOn = false →
      let p := patched ((f.treads.getD r.next []).take 2 ++ [0#8, 0#8] ++ (f.treads.getD r.next []).drop 4) r.patch
      nop p → ∃ t, exec (.treadIssue qid) s = .next t ∧ issued s t p) ∧
    (r.fallback = true → ∀ v p, s.ccRead q.asid (r.fbaddr.toNat + 64 * r.next) 64 = (v, .ok p) → v.dev.queue? qid = some q →
      (r.next + 1 < r.fblen → fresh → v.dev.trcOn = false → nop p → ∃ t, exec (.fallbackPacket qid) s = .next t ∧ issued v t p) ∧
      (r.next < r.fblen → 7 ≤ (p.getD 0 0#8).toNat ∧ (p.getD 0 0#8).toNat ≤ 9 → r.pending ≠ [] →
        ∃ t, exec (.fallbackPacket qid) s = .next t ∧ QueueFailed v t qid q 0x408 csn (r.next + r.fid * 2 ^ 32))) ∧
    (r.fallback = true → exec (.treadIssue qid) s = .next s) ∧ (r.fallback = false → exec (.fallbackPacket qid) s = .next s))

/-! ## Placement and the active set -/

/-- R323 to R329: the dispatcher makes companies in order; a cluster places the oldest allowed company that fits on its best core, from its own hall
or stolen; a held persistent launch is placed whole. R327: a queue's head blocks it. R330 to R333: a ready cohort takes one of eight active
places, or that of the earliest. R338 to R341: an allocation deadlock picks its victim, which spills what lies above its floors and reloads it
later. R50, R184. -/
def Obligations.Scheduling : Prop :=
  let ascending (h : Company) : Prop := (h.cohorts.map (·.j)).Pairwise (· < ·) ∧ ∀ c ∈ h.cohorts, c.stat ≠ .absent
  let placed (s t : State) (core : Nat) : Prop := t.coAll.place = .core core ∧ t.coAll.lsBase = (lsRun (s.lsUsed core) s.co.hdr.lsgran).getD 0 ∧
    t.coAll.cohorts = (seatCohorts s.co.cohorts (s.freeSlots core)).map (fun c =>
      if c.atEntry = true then { c with clause := (s.fetchWord false c.pc.toNat).2.getD c.clause } else c) ∧ t.coAll.slots.length = s.co.hdr.gfloor ∧ (∀ x ∈ t.coAll.slots, x = Slot.fresh) ∧
    { t.coAll with place := s.co.place, lsBase := s.co.lsBase, cohorts := s.co.cohorts, slots := s.co.slots } = s.co ∧ t.dev.companies = s.dev.companies ∧
    t.dev.halls = s.dev.halls.map (fun h => if h.block = some s.co.dseq then { h with block := none } else h) ∧ (∀ a, t.dev.byte a = s.dev.byte a) ∧
    t.dev.ctrl = s.dev.ctrl ∧ { t.cx with glgen := s.cx.glgen } = s.cx ∧ t.turns = s.turns
  let waiting (s : State) : Prop := Standing s ∧ ascending s.co ∧ s.recording = false ∧ s.replaying = false ∧ s.co.restored = false ∧ s.co.slots = [] ∧
    s.co.hdr.gfloor ≤ 128 ∧ (s.co.asid = s.cx.asid ∧ s.cx.alive = true) ∧ ∀ h ∈ s.dev.companies, h.dseq ≠ s.co.dseq
  (∀ (s : State) (asid : Nat) (l : Launch), Bare s → s.cx.asid = asid → s.cx.stat = .live → (∀ c ∈ s.dev.contexts, c.asid ≠ asid) →
    (s.dev.dispatch.find? fun x => s.cxLive x.1) = some (asid, l.lseq) → (s.cx.launches.find? fun x => x.lseq == l.lseq) = some l →
    let num := l.hdr.number l.made
    let base := (num + l.lseq.toNat) % 4
    let hall := if (s.dev.halls.getD base Hall.reset).quiesce = true then (base + 1) % 4 else base
    let cwid := BitVec.ofNat 64 (num * 2 ^ l.hdr.loC)
    (l.hdr.persist = false → 1024 ≤ (s.queueOf hall).length → exec .companyCreate s = .next s) ∧
    (l.hdr.persist = true ∨ (s.queueOf hall).length < 1024 → ∃ t, exec .companyCreate s = .next t ∧
      t.dev.companies = insertCompany { Company.null with
        dseq := s.dev.dseq, asid := asid, lseq := l.lseq, num := num, cwid := cwid, lhdr := l.lhdr, hdr := l.hdr, karg := l.karg, pdist := l.pdist, node := l.node
        place := if l.hdr.persist = true then .held else .queued hall, created := l.hdr.positions
        cohorts := l.hdr.positions.map (Cohort.start l.hdr cwid l.karg) } s.dev.companies ∧
      t.dev.dseq = s.dev.dseq + 1 ∧ t.cx = { s.cx with launches := s.cx.launches.map fun x => if x.lseq = l.lseq then
        { x with made := x.made + 1, first := if l.made = 0 then s.dev.dseq else l.first } else x } ∧
      t.dev.dispatch = (if l.made + 1 < l.total then s.dev.dispatch else s.dev.dispatch.filter fun x => x ≠ (asid, l.lseq)) ∧
      (∀ a, t.dev.byte a = s.dev.byte a) ∧ t.dev.ctrl = s.dev.ctrl ∧ t.me = s.me ∧ t.co = s.co ∧ t.turns = s.turns)) ∧
  (∀ (h : LHdr) (cwid karg : DWord) (j : Nat), j < 16 → let c := Cohort.start h cwid karg j
    c.em = BitVec.ofNat 64 (2 ^ (h.n0m1 + 1) - 1) ∧ c.sget 0 = lo32 karg ∧ c.sget 1 = hi32 karg ∧ (∀ r, 2 ≤ r → r < 64 → c.sget r = 0#32) ∧ c.stat = .running ∧ c.atEntry = true ∧
      c.pc = (if h.split = true ∧ h.nprod ≤ j then h.entry1 else h.entry0).setWidth 56 ∧ c.wid = cwid ||| BitVec.ofNat 64 (j * 64)) ∧
  (∀ (s : State) (core : Nat) (h : Company), waiting s → ((s.allowed (core / 128)).find? fun x => (s.bestCore x (core / 16)).isSome) = some h → h.dseq = s.co.dseq →
    s.bestCore h (core / 16) = some core → ∃ t, exec (.companyPlace s.co.dseq core) s = .next t ∧ placed s t core) ∧
  (∀ (s : State) (dseq core : Nat), (∀ h ∈ s.allowed (core / 128), s.bestCore h (core / 16) = none) → exec (.companyPlace dseq core) s = .next s) ∧
  (∀ (s : State) (cluster core : Nat) (h : Company), waiting s → cluster < 32 → core / 16 = cluster → s.queueOf (cluster / 8) = [] →
    (∃ c, c / 16 = cluster ∧ s.on c = []) → ((s.allowed s.stealFrom).find? fun x => (s.bestCore x cluster).isSome) = some h → h.dseq = s.co.dseq →
    s.bestCore h cluster = some core → ∃ t, exec (.companySteal cluster s.co.dseq core) s = .next t ∧ placed s t core) ∧
  (∀ (s : State) (cluster dseq core : Nat), s.queueOf (cluster / 8) ≠ [] → exec (.companySteal cluster dseq core) s = .next s) ∧
  (∀ (s : State) (core : Nat) (l : Launch), waiting s → s.heldFirst = some s.co.dseq →
    (s.companies.filter fun x => x.asid == s.co.asid && x.lseq == s.co.lseq && x.place == .held) = [s.co] → (∀ c ∈ s.dev.contexts, c.asid ≠ s.co.asid) →
    (s.cx.launches.find? fun x => x.lseq == s.co.lseq) = some l → l.made = l.total →
    (s.fits s.co core = true → ∃ t, exec (.persistentPlace [core]) s = .next t ∧ placed s t core) ∧ (s.fits s.co core = false → exec (.persistentPlace [core]) s = .next s)) ∧
  (∀ (s : State) (hall : Nat), (s.ready hall = [] → exec (.headBlock hall) s = .next s) ∧
    (∀ h hs, s.ready hall = h :: hs → exec (.headBlock hall) s = .next (s.setDev { s.dev with halls := s.dev.halls.mapIdx fun i x => if i = hall then { x with block := some h.dseq } else x }))) ∧
  (∀ (s : State) (d j core : Nat), s.isAt d j = true → s.co.place = .core core → s.me.stat = .running → s.me.active = false → s.me.stopDue = 0 → s.me.wait = .none →
    let taken : State → Prop := fun t => t.me = { s.me with active := true, since := s.dev.order } ∧ t.dev = { s.dev with order := s.dev.order + 1 }
    ((s.activeOn core).length < 8 → ∃ t, exec (.activeSetFill d j) s = .next t ∧ taken t ∧ t.co = s.co ∧ t.cx = s.cx ∧ t.turns = s.turns) ∧
    (8 ≤ (s.activeOn core).length → exec (.activeSetFill d j) s = .next s) ∧ ((s.activeOn core).length < 8 → exec (.activeSetDisplace d j) s = .next s) ∧
    (8 ≤ (s.activeOn core).length → Gathered s → ∀ x, earliest (s.activeOn core) = some (d, x) → x.j ≠ j → (∃ c ∈ s.co.cohorts, c.j = x.j) →
      ∃ t, exec (.activeSetDisplace d j) s = .next t ∧ taken t ∧ (∀ i, i ≠ j → t.mate? i = (s.mate? i).map fun c => if i = x.j then { c with active := false } else c) ∧
        { t.co with cohorts := [] } = { s.co with cohorts := [] } ∧ t.cx = s.cx ∧ t.turns = s.turns)) ∧
  (∀ (s : State) (d j : Nat), s.isAt d j = true → exec (.waittimeExpiry d j) s = .next (if s.me.stat = .running ∧ s.me.wait = .time then s.setMe { s.me with wait := .none } else s)) ∧
  (∀ (s : State) (core : Nat), (∀ h ∈ s.on core, ∀ c ∈ h.cohorts, c.requests = false) → exec (.allocationDeadlock core) s = .next s) ∧
  (∀ (s : State) (core : Nat) (h : Company), Standing s → s.recording = false → (∃ x ∈ s.on core, ∃ c ∈ x.cohorts, c.requests = true) → (∀ x ∈ s.on core, x.victim = false) →
    (let hs := s.on core
     let above (x : Company) : Prop := ∃ y ∈ hs, ∃ c ∈ y.cohorts, c.requests = true ∧ x.above c.wait = true
     above h ∧ (∃ pre post, hs = pre ++ h :: post ∧ ∀ x ∈ post, ¬ above x) ∧ (∃ x ∈ hs, ∃ c ∈ x.cohorts, c.requests = true ∧ x.dseq ≠ h.dseq)) →
    h = s.co → (s.dev.reg 0x4000).testBit 0 = true →
      exec (.allocationDeadlock core) s = .next (s.setCo { s.co with
        victim := true, cohorts := s.co.cohorts.map fun c => if c.stat = .ended ∨ c.stopDue ≠ 0 then c else { c with stopDue := 5 } })) ∧
  (∀ (s : State) (core : Nat), Standing s → ascending s.co → s.recording = false → s.co.place = .core core → s.cxLive s.co.asid = true →
    let h := s.co
    (h.victim = false ∨ s.stillCompany = false → exec (.forcedSpill h.dseq) s = .next s) ∧
    (h.victim = true → s.stillCompany = true → h.spill = none → ∃ t sp, exec (.forcedSpill h.dseq) s = .next t ∧ t.coAll.spill = some sp ∧ sp.area = s.areaOf h ∧
      (sp.regs.map fun x => (x.1, x.2.1)) = (h.cohorts.flatMap fun c => (h.spillNames c).map fun r => (c.j, r)) ∧ sp.tiles.map (·.1) = (h.tiles.map (·.1)).drop h.hdr.tfloor ∧
      t.coAll.cohorts = h.cohorts.map (fun c => (h.spillNames c).foldl Cohort.vfree c) ∧ t.coAll.victim = false ∧ t.coAll.place = h.place ∧
      (t.coAll.slots.map fun x => { x with returned := false }) = (h.slots.map fun x => { x with returned := false }) ∧
      (∀ i, i < h.slots.length → ((t.coAll.slots.getD i Slot.fresh).returned = true ↔ h.hdr.gfloor ≤ i ∨ (h.slots.getD i Slot.fresh).returned = true)) ∧
      t.dev.reg 0x4008 = putBits (s.dev.reg 0x4008) 15 0 (min (bits (s.dev.reg 0x4008) 15 0 + 1) 0xFFFF) ∧ (∀ o, o ≠ 0x4008 → t.dev.reg o = s.dev.reg o) ∧
      t.cx = s.cx ∧ t.turns = s.turns) ∧
    (∀ sp, h.spill = some sp → s.reloadGranted sp core = true → (∀ x ∈ h.slots, x.returned = false) → ∃ t, exec (.reload h.dseq) s = .next t ∧ t.coAll.spill = none ∧
      t.coAll.place = h.place ∧ t.coAll.slots = h.slots ∧ (t.coAll.cohorts.map fun c => (c.j, c.pc, c.stat)) = (h.cohorts.map fun c => (c.j, c.pc, match c.stat with
        | .stopped _ => .running
        | x => x)) ∧ (∀ a, t.dev.byte a = s.dev.byte a) ∧ t.cx = s.cx ∧ t.turns = s.turns) ∧
    (∀ sp, h.spill = some sp → s.reloadGranted sp core = false → exec (.reload h.dseq) s = .next s)) ∧
  (∀ (s : State) (core : Nat) (l : Launch), Standing s → s.co.place = .core core → s.cx.stat = .live → (s.cx.launches.find? fun x => x.lseq == s.co.lseq) = some l → l.node = none →
    let ready : Prop := (∀ c ∈ s.co.cohorts, c.stat = .ended ∧ c.ops = []) ∧ s.co.fired = [] ∧ (∀ p ∈ s.dev.pieces, ∀ j, p.owner ≠ .cohort s.co.dseq j) ∧ (∀ f ∈ s.dev.fills, f.dseq ≠ s.co.dseq)
    (¬ ready → exec (.companyRetire s.co.dseq) s = .next s) ∧
    (ready → l.retired + 1 ≠ l.total → ∃ t, exec (.companyRetire s.co.dseq) s = .next t ∧ t.co = Company.null ∧ t.me = Cohort.null ∧ t.dev.companies = s.dev.companies ∧
      t.cx = { s.cx with glgen := s.cx.glgen + BitVec.ofNat 32 s.co.slots.length, srStale := s.cx.srStale.filter fun p => p.1 ≠ s.co.dseq
                         launches := s.cx.launches.map fun x => if x.lseq = s.co.lseq then { x with retired := x.retired + 1 } else x } ∧
      t.dev.engines = s.dev.engines.filter (fun e => e.dseq ≠ s.co.dseq) ∧ (∀ a, t.dev.byte a = s.dev.byte a) ∧ t.dev.ctrl = s.dev.ctrl ∧ t.turns = s.turns))

/-! ## Packets of other devices, the host and the engines -/

/-- R136 to R145, R153 to R155, R286, R287, R441: a packet that arrives is discarded with MALF, performed and answered, or counted as a marker copy;
an answer completes its request, once; a bitmap is ORed into cr.mcst0 to cr.mcst15; an undelivered packet leaves again on the present plane. A
switch writes to its members and adds what they hold. R81 to R84, R87: a copy piece moves its bytes, a prefetch takes its line. R153, R154: the
host's accesses. -/
def Obligations.FabricArrivals : Prop :=
  let basic (type dst line : Nat) : Packet := { type := type, op := 0, src := 0, dst := dst, tag := 0, nops := 0, line := line, xtra := 0, be := 0#64, data := [], poison := 0#64, entries := [], malformed := false }
  let resp (s : State) (p : Packet) (status : Nat) (data : List Byte) : Packet := { basic 4 p.src p.line with src := s.dev.num, tag := p.tag, xtra := status, data := data }
  let answered (s t : State) (p : Packet) (status : Nat) (data : List Byte) : Prop := t.dev.fabric.sent = s.dev.fabric.sent ++ [(p.src, resp s p status data)]
  let rest (s t : State) : Prop := t.me = s.me ∧ t.co = s.co ∧ t.cx = s.cx
  let kept (s t : State) : Prop := (∀ a, t.dev.byte a = s.dev.byte a) ∧ t.dev.ctrl = s.dev.ctrl ∧ t.turns = s.turns ∧ rest s t
  let good (p : Packet) : Prop := p.malformed = false ∧ p.type < 11
  let en (be : DWord) (bs : List Byte) : List Byte := ((List.range 64).filter fun i => be.getLsbD i).map fun i => bs.getD i 0#8
  let gone (s : State) (tag : Nat) : State := s.setDev { s.dev with fabric := { s.dev.fabric with requests := s.dev.fabric.requests.eraseP fun x => x.tag == tag } }
  (∀ (s : State) (plane : Nat) (p : Packet),
    (¬ good p → ¬ (p.type = 4 ∨ p.type = 9 ∨ p.type = 10) → plane < s.dev.fabric.ports.length → ∃ t, exec (.fabricPacketArrival plane p) s = .next t ∧ answered s t p 3 [] ∧ kept s t ∧
      (t.dev.fabric.ports.getD plane Port.off).malf = min ((s.dev.fabric.ports.getD plane Port.off).malf + 1) 255) ∧
    (good p → p.type = 7 ∨ p.type = 8 → ∃ t, exec (.fabricPacketArrival plane p) s = .next t ∧ answered s t p 3 [] ∧ kept s t) ∧
    (good p → (s.dev.reg 0x60000).testBit 31 = false → (∀ i ∈ s.dev.fabric.inbound, i.src ≠ p.src) → (∀ x ∈ s.dev.fabric.late, x ≠ (plane, p)) → s.dev.pieces = [] →
      (p.type = 5 → p.xtra / 2 ^ 16 % 128 = 1 → ∃ t, exec (.fabricPacketArrival plane p) s = .next t ∧ t.turns = .event (.markerRelease p.src) :: s.turns ∧ t.dev = { s.dev with fabric := { s.dev.fabric with
        inbound := s.dev.fabric.inbound ++ [{ src := p.src, held := [plane], count := 1, ncopy := 1, marker := some p, queue := [], waiting := [] }] } } ∧ rest s t) ∧
      (∀ o, decodeOwn s.dev .plain (64 * p.line) = .at (.mem o) → s.dev.tierDown o = false → p.src < 1024 →
        (p.type = 0 → ∃ t, exec (.fabricPacketArrival plane p) s = .next t ∧ kept s t ∧
          answered s t p (if s.dev.badMask o 64 = 0#64 then 0 else 2) ((List.range 64).map fun i => s.dev.outerByte (o + i))) ∧
        (p.type = 1 → o < 0x020000000000 → p.data.length = 64 → ∃ t, exec (.fabricPacketArrival plane p) s = .next t ∧ answered s t p 0 [] ∧ rest s t ∧
          ∀ a, t.dev.byte a = if o ≤ a ∧ a < o + 64 ∧ p.be.getLsbD (a - o) = true then p.data.getD (a - o) 0#8 else s.dev.byte a) ∧
        (∀ e, p.type = 2 → p.op = 0 → p.entries = [e] → e.size = 2 → o < 0x020000000000 → e.off < 64 → e.off % 4 = 0 → s.dev.badAt (o + e.off) = false →
          ∃ t, exec (.fabricPacketArrival plane p) s = .next t ∧ rest s t ∧ answered s t p 0 (leBytes 4 (s.dev.load (o + e.off) 4)) ∧
            t.dev.load (o + e.off) 4 = (s.dev.load (o + e.off) 4 + e.operand) % 2 ^ 32 ∧ ∀ a, a < o + e.off ∨ o + e.off + 4 ≤ a → t.dev.byte a = s.dev.byte a)))) ∧
  (∀ (s : State) (p : Packet), (∀ r ∈ s.dev.fabric.requests, r.tag ≠ p.tag) →
    exec (.responseArrival p) s = .next s ∧ exec (.mcsArrival p) s = .next s ∧ (p.type ≠ 4 → exec (.undlvArrival p) s = .next s) ∧
    (∀ failed reads, exec (.switchMcw p.tag failed) s = .next s ∧ exec (.switchMcr p.tag reads) s = .next s)) ∧
  (∀ (s : State) (p : Packet) (r : Request), (s.dev.fabric.requests.find? fun x => x.tag == p.tag) = some r → s.dev.fabric.waitq = [] →
    let u := gone s p.tag
    (r.who = .none → exec (.responseArrival p) s = .next u) ∧
    (r.who = .host → exec (.responseArrival p) s = .next (u.setDev { u.dev with hostRead :=
      if p.xtra % 16 = 1 ∨ p.xtra % 16 = 3 then none else if r.packet.type = 0 then some (s.dev.hostRead.getD [] ++ en r.packet.be p.data) else s.dev.hostRead })) ∧
    (∀ src tag line, r.who = .relay src tag line → ∃ t, exec (.responseArrival p) s = .next t ∧
      t.dev.fabric.sent = s.dev.fabric.sent ++ [(src, { basic 4 src line with src := s.dev.num, tag := tag, xtra := p.xtra % 16, data := p.data })] ∧ kept s t) ∧
    (∀ d j id ids, r.who = .op d j id ids → s.isAt d j = true → ∃ t, exec (.mcsArrival p) s = .next t ∧ t.dev = u.dev ∧ t.co = s.co ∧ t.cx = s.cx ∧ t.turns = s.turns ∧
      (∀ i, i < 16 → t.me.crget (0x60 + i) = s.me.crget (0x60 + i) ||| BitVec.ofNat 32 (leNat ((p.data.drop (4 * i)).take 4))) ∧
      (∀ i, i < 0x60 ∨ 0x70 ≤ i → t.me.crget i = s.me.crget i)) ∧
    (p.type < 7 → p.type ≠ 4 → p.type ≠ 5 → p.xtra < 2 ^ 32 → ∀ q, s.dev.planeTo p.dst p.line = some q → exec (.undlvArrival p) s = .next (
      if ∃ c ∈ s.dev.fabric.changing, c.1 = p.dst ∧ planeFor p.line (c.2 &&& s.dev.up) ≠ planeFor p.line (s.dev.effMask p.dst) then
        s.setDev { s.dev with fabric := { s.dev.fabric with requests := s.dev.fabric.requests.map fun x => if x.tag = p.tag then { x with returned := true } else x } }
      else s.setDev (Device.sendOn { s.dev with fabric := { s.dev.fabric with requests := s.dev.fabric.requests.map fun x => if x.tag = p.tag then { x with plane := q, held := false, returned := false } else x } } q p)))) ∧
  (∀ (s : State) (tag : Nat) (r : Request), (s.dev.fabric.requests.find? fun x => x.tag == tag) = some r →
    let g := r.packet.dst
    let ms := s.dev.members g
    let off := s.dev.gbase g + 64 * r.packet.line
    (∀ failed, r.packet.type = 7 → s.dev.gvalid g = false →
      exec (.switchMcw tag failed) s = .next { s with turns := .event (.mcsArrival { basic 9 s.dev.num r.packet.line with tag := tag, xtra := 3, data := List.replicate 64 0#8 }) :: s.turns }) ∧
    (∀ reads, r.packet.type = 8 → s.dev.gvalid g = false →
      exec (.switchMcr tag reads) s = .next { s with turns := .event (.responseArrival { basic 4 s.dev.num r.packet.line with tag := tag, xtra := 3 }) :: s.turns }) ∧
    (∀ failed, r.packet.type = 7 → s.dev.gvalid g = true → regionOf off = .hbm → s.dev.pieces = [] → r.packet.data.length = 64 →
      let status : Packet := { basic 9 s.dev.num r.packet.line with tag := tag
                                                                    data := leBytes 64 ((failed.filter fun i => decide (i < 512)).foldl (fun m i => m ||| 2 ^ i) 0) }
      (s.dev.num ∉ ms → exec (.switchMcw tag failed) s = .next { s with turns := .event (.mcsArrival status) :: s.turns }) ∧
      (∀ k, k < ms.length → ms.getD k 0 = s.dev.num → (∀ i, i < k → ms.getD i 0 ≠ s.dev.num) →
        ∃ t, exec (.switchMcw tag failed) s = .next t ∧ t.turns = .event (.mcsArrival status) :: s.turns ∧ rest s t ∧ t.dev.ctrl = s.dev.ctrl ∧
          ∀ a, t.dev.byte a = if k ∉ failed ∧ off ≤ a ∧ a < off + 64 ∧ r.packet.be.getLsbD (a - off) = true then r.packet.data.getD (a - off) 0#8 else s.dev.byte a)) ∧
    (r.packet.type = 8 → s.dev.gvalid g = true → s.dev.num ∉ ms → ∀ reads : List MemberRead, reads.length = ms.length →
      let sent (status : Nat) (data : List Byte) : State := { s with turns := .event (.responseArrival { basic 4 s.dev.num r.packet.line with tag := tag, xtra := status, data := data }) :: s.turns }
      let elem (bs : List Byte) (e : Nat) : Nat := if r.packet.op = 0 then leNat ((bs.drop (2 * e)).take 2) * 2 ^ 16 else leNat ((bs.drop (4 * e)).take 4)
      (∀ k, reads[k]? = some .absent → (∀ i, i < k → reads[i]? ≠ some .absent) →
        exec (.switchMcr tag reads) s = .next (sent (4 + ms.getD k 0 * 16) ((List.range 16).flatMap fun _ => leBytes 4 0x7FC00000))) ∧
      ((∀ x ∈ reads, x ≠ .absent) → (∃ x ∈ reads, x = .poison) → exec (.switchMcr tag reads) s = .next (sent 2 (List.replicate 64 0#8))) ∧
      (∀ bss : List (List Byte), reads = bss.map MemberRead.data → exec (.switchMcr tag reads) s = .next (sent 0 ((List.range 16).flatMap fun e => leBytes 4 (sumMembers (bss.map fun bs => elem bs e))))))) ∧
  (∀ (s : State) (hall line : Nat),
    (hall < 4 → inMemory (line * 64) = true → s.dev.ownedLine line = false → ∃ t, exec (.streamPrefetch hall line) s = .next t ∧ Fetched s t hall line false) ∧
    (4 ≤ hall ∨ inMemory (line * 64) = false ∨ s.dev.ownedLine line = true → exec (.streamPrefetch hall line) s = .next s)) ∧
  (∀ (s : State) (p : Piece) (o w n d j : Nat), s.dev.pieces = [p] → p.owner = .cohort d j → s.pieceReady p = true → (∀ r ∈ s.dev.fabric.requests, r.who ≠ .piece p.id) → p.wrote = false →
    p.src = [{ loc := .mem o, len := n }] → p.dst = { loc := .mem w, len := n } → (∀ v, s.dev.vestDown v = false) → w + n ≤ 0x020000000000 → (∀ h ∈ s.dev.halls, h.inval = []) → n ≤ 4096 →
    ∃ t, exec (.copyPiece p.id) s = .next t ∧ t.dev.pieces = [] ∧ (∀ a, t.dev.byte a = if w ≤ a ∧ a < w + n then s.dev.byte (o + (a - w)) else s.dev.byte a) ∧
      t.dev.ctrl = s.dev.ctrl ∧ rest s t) ∧
  (∀ (s : State) (id : Nat), (∀ p ∈ s.dev.pieces, p.id ≠ id) → exec (.copyPiece id) s = .next s) ∧
  (∀ (s : State) (a : HostAccess),
    let e := s.dev.reg (0x31000 + 8 * (a.off / 2 ^ 30))
    let link : Prop := (s.dev.reg 0x30000).testBit 31 = true ∧ s.dev.fabric.linkUp = true
    let ok : Prop := link ∧ e.testBit 63 = true ∧ a.off + a.len ≤ 2 ^ 36
    let off := bits e 47 30 * 2 ^ 30 + a.off % 2 ^ 30
    let own : Prop := bits e 57 48 = 0x3FF ∨ bits e 57 48 = s.dev.num
    let line : Prop := 0 < a.len ∧ a.off % 64 + a.len ≤ 64
    (¬ ok → exec (.hostBar2Access a) s = .next (if a.write.isSome then s else s.setDev { s.dev with hostRead := none })) ∧
    (∀ o, ok → own → line → decodeOwn s.dev .plain off = .at (.mem o) → s.dev.tierDown o = false → s.dev.pieces = [] →
      (∀ i ∈ s.dev.fabric.inbound, i.src ≠ 1024) →
      (a.write = none → ∃ t, exec (.hostBar2Access a) s = .next t ∧
        t = s.setDev ({ s.dev with hostRead := some ((List.range a.len).map fun i => s.dev.outerByte (o + i)) }.withCaches t.dev)) ∧
      (∀ bs, a.write = some bs → bs.length = a.len → o < 0x020000000000 → (s.dev.reg 0x60000).testBit 31 = false → ∃ t, exec (.hostBar2Access a) s = .next t ∧ rest s t ∧ t.dev.ctrl = s.dev.ctrl ∧
        ∀ x, t.dev.byte x = if o ≤ x ∧ x < o + bs.length then bs.getD (x - o) 0#8 else s.dev.byte x)) ∧
    (¬ (link ∧ a.off + a.len ≤ 0x40000000) → exec (.hostBar0Access a) s = .next s) ∧
    (link → a.off + a.len ≤ 0x40000000 → (∀ bs, a.write = some bs → exec (.hostBar0Access a) s = .next { s with
        turns := .event (ctrlRow { agent := .host, off := a.off, len := a.len, val := leNat bs }) :: s.turns }) ∧
      (a.write = none → ∃ t, exec (.hostBar0Access a) s = .next t ∧ t.dev.hostRead = some (s.dev.ctrlBytes 17 a.off a.len).2 ∧ rest s t ∧ t.turns = s.turns)))

/-! ## Ports and links -/

/-- R146 to R152, R154, R440: what a port takes, releases, resends and drops, when it retrains, dies or changes its key, and what an UCIe module
falls back to. R134, R135, R148: a write of PMASK is the management processor's alone; with no request outstanding a hold ends at once, and
PORTRESOLVE clears RESOLVE of a dead port that held nothing. R154: a bridge learns that its PCIe link went down. -/
def Obligations.PortsAndLinks : Prop :=
  let only (s t : State) (q : Nat) (p : Port) : Prop := t.dev.portAt q = p ∧ (∀ r, r ≠ q → t.dev.portAt r = s.dev.portAt r) ∧
    t = s.setDev { s.dev with fabric := { s.dev.fabric with ports := t.dev.fabric.ports, modules := t.dev.fabric.modules } }
  let resent (p : Port) : Port := if p.buffer = [] then p else if 8 ≤ p.resends then { p with state := 1, retrain := min (p.retrain + 1) 255 }
    else { p with replay := min (p.replay + p.buffer.length) 0xFFFF, resends := p.resends + 1 }
  let nak (p : Port) (bad : Bool) : Port := if bad = true ∧ p.inBad = true then p else { p with naks := p.naks ++ [(p.rxnext + 4095) % 4096], inBad := bad }
  let tally (q : Nat) (p : Port) (bad : Bool) : Port := if 64 ≤ q then { p with seen := p.seen + 1, badAt := if bad then (p.seen :: p.badAt).take 16 else p.badAt } else p
  let spoiled (f : Flit) : Prop := 2 < f.evenErrors ∨ 2 < f.oddErrors ∨ f.crcOk = false ∨ 4 ≤ f.kind
  let trained (q : Nat) (p : Port) (b : List (Nat × List Packet)) : Port :=
    let r : Port := { p with buffer := b, fails := 0, resends := 0, replay := min (p.replay + b.length) 0xFFFF, state := if 64 ≤ q ∨ p.keyed = true then 3 else 2 }
    if 64 ≤ q then r else { r with buffer := b ++ [(p.txnext, [])], txnext := (p.txnext + 1) % 4096 }
  let dead (p : Port) : Port := { p with state := 4, resolve := p.buffer != [] }
  (∀ (s : State) (q : Nat), q < 64 ∧ q < s.dev.fabric.ports.length ∨ 64 ≤ q ∧ q - 64 < s.dev.fabric.modules.length → s.dev.fabric.crossing = [] →
    let p := s.dev.portAt q
    (p.state ≠ 3 → exec (.ackTimeout q) s = .next s ∧ exec (.portRetrainRequest q) s = .next s ∧ ∀ a, exec (.nakReceive q a) s = .next s) ∧
    (p.state = 3 → ∃ t, exec (.ackTimeout q) s = .next t ∧ only s t q (resent p)) ∧
    (p.state = 3 → ∀ a, (∀ f ∈ p.buffer, f.1 ≠ a) → ∃ t, exec (.nakReceive q a) s = .next t ∧ only s t q (resent p)) ∧
    (p.state = 3 → p.waiting = [] → ∀ pre post a ks, p.buffer = pre ++ (a, ks) :: post → (∀ f ∈ pre, f.1 ≠ a) →
      ∃ t, exec (.nakReceive q a) s = .next t ∧ only s t q (resent { p with buffer := post, resends := 0 })) ∧
    (p.state = 3 → q < 64 → ∃ t, exec (.portRetrainRequest q) s = .next t ∧ only s t q { p with state := 1, retrain := min (p.retrain + 1) 255 }) ∧
    (p.state ≠ 1 → ∀ ok n, exec (.retrainDone q ok n) s = .next s) ∧
    (p.state = 1 → ∀ n, (∀ f ∈ p.buffer, f.1 ≠ n) → p.waiting = [] → ∃ t, exec (.retrainDone q true n) s = .next t ∧
      only s t q (trained q p [])) ∧
    (p.state = 1 → ∀ n pre post ks, p.buffer = pre ++ (n, ks) :: post → (∀ f ∈ pre, f.1 ≠ n) → p.waiting = [] → ∃ t, exec (.retrainDone q true n) s = .next t ∧
      only s t q (trained q p ((n, ks) :: post))) ∧
    (p.state = 1 → p.waiting = [] → ∀ n, ∃ t, exec (.retrainDone q false n) s = .next t ∧
      only s t q (if 2 ≤ p.fails then dead { p with fails := 3 } else { p with fails := p.fails + 1, retrain := min (p.retrain + 1) 255 })) ∧
    (∀ f : Flit, p.state ≠ 2 ∧ p.state ≠ 3 ∨ q < 64 ∧ s.dev.vestDown (q / 32) = true → exec (.flitReceive q f) s = .next s) ∧
    (∀ f : Flit, p.state = 2 ∨ p.state = 3 → (∀ v, s.dev.vestDown v = false) → spoiled f → (q < 64 ∨ p.badAt.length < 15 →
        ∃ t, exec (.flitReceive q f) s = .next t ∧ only s t q (nak (tally q p true) true)) ∧
      (64 ≤ q → p.width = 64 → 15 ≤ p.badAt.length → p.seen - p.badAt.getD 14 0 < 2 ^ 20 → ∃ t a b, exec (.flitReceive q f) s = .next t ∧
        t.turns = .event (.moduleFallback ((q - 64) / 8) ((q - 64) % 8) a b) :: s.turns ∧ t.dev.portAt q = nak (tally q p true) true)) ∧
    (∀ f : Flit, p.state = 2 ∨ p.state = 3 → (∀ v, s.dev.vestDown v = false) → ¬ spoiled f → p.waiting = [] → (∀ x ∈ p.buffer, x.1 ≠ f.ack) →
      let c : Port := { tally q p false with inBad := false }
      (f.kind = 1 → ∃ t, exec (.flitReceive q f) s = .next t ∧ only s t q c) ∧
      (f.kind = 2 → ∃ t, exec (.flitReceive q f) s = .next t ∧ only s t q (resent c)) ∧
      (f.kind = 0 → f.seq = p.rxnext → (p.keyed = true → f.gcmOk = true ∧ f.enc = true) → q < 64 → ∃ t u, exec (.flitReceive q f) s = .next t ∧
        only s u q { c with rxnext := (p.rxnext + 1) % 4096, rxgcm := if p.keyed = true then p.rxgcm + 1 else p.rxgcm } ∧ t = { u with turns := f.packets.map (fun k => Turn.event (
          if badPacket k = true then .fabricPacketArrival q k else if k.type = 4 then .responseArrival k else if k.type = 9 then .mcsArrival k
          else if k.type = 10 then .undlvArrival { k with type := k.xtra / 2 ^ 32, xtra := k.xtra % 2 ^ 32 + q * 2 ^ 32 } else .fabricPacketArrival q k)) ++ u.turns }) ∧
      (f.kind = 3 ∨ f.kind = 0 ∧ 64 ≤ q ∧ p.keyed = false → f.seq = p.rxnext →
        ∃ t, exec (.flitReceive q f) s = .next t ∧ only s t q { c with rxnext := (p.rxnext + 1) % 4096 }) ∧
      (f.kind = 0 → f.seq = p.rxnext → q < 64 → p.keyed = true → f.gcmOk = false ∨ f.enc = false → ∃ t u, exec (.flitReceive q f) s = .next t ∧ only s u q (dead c) ∧
        t = u.setDev { u.dev with mgmt := u.dev.mgmt ++ [{ source := 0x100, place := q, addr := none }] }) ∧
      (f.kind = 0 ∨ f.kind = 3 → f.seq ≠ p.rxnext → ∃ t, exec (.flitReceive q f) s = .next t ∧
        only s t q (if 0 < (f.seq + 4096 - p.rxnext) % 4096 ∧ (f.seq + 4096 - p.rxnext) % 4096 < 2048 then nak c false else c))) ∧
    (q < 64 → p.state = 2 ∨ p.update = true → p.waiting = [] → ∃ t u a b x y n, exec (.keyExchangeDone q) s = .next t ∧ t = { u with free := s.free + 1 } ∧
      only s u q { p with keyed := true, update := false, gcm := 0, rxgcm := 0, txkey := a, rxkey := b, txsalt := x, rxsalt := y
                          txnext := (p.txnext + n) % 4096, state := if p.state = 2 then 3 else p.state }) ∧
    (p.state ≠ 2 → p.update = false → exec (.keyExchangeDone q) s = .next s) ∧
    (q < 64 → 2 ^ 40 ≤ max p.gcm p.rxgcm → ∃ t, exec (.keyUpdate q) s = .next t ∧ only s t q { p with update := true }) ∧
    (max p.gcm p.rxgcm < 2 ^ 40 → exec (.keyUpdate q) s = .next s) ∧
    (q < 64 → p.state = 3 → 2 ^ 47 ≤ max p.gcm p.rxgcm → ∃ t, exec (.keyLimitStop q) s = .next t ∧ only s t q { p with state := 2, update := true }) ∧
    (max p.gcm p.rxgcm < 2 ^ 47 → exec (.keyLimitStop q) s = .next s)) ∧
  (∀ (s : State) (v m : Nat) (low high : Bool), v < 2 → m < 8 → s.dev.fabric.modules.length = 16 → s.dev.fabric.crossing = [] →
    let q := 64 + 8 * v + m
    let p := s.dev.portAt q
    ∃ t u, exec (.moduleFallback v m low high) s = .next t ∧ t = u.setDev { u.dev with mgmt := u.dev.mgmt ++ [{ source := 0x200, place := 8 * v + m, addr := none }] } ∧
      only s u q (if low = true ∧ high = true then { p with width := 0, state := 4, buffer := [], waiting := [] }
        else { p with width := 32, high := low, badAt := [], state := 1, retrain := min (p.retrain + 1) 255 })) ∧
  (∀ (s : State) (w : RegWrite) (dev : Nat), w.ok = true → w.base = 0x10000 + 8 * dev → s.dev.fabric.requests = [] → s.dev.fabric.back = [] →
    (w.agent ≠ .mgmt → exec (.pmaskWrite w) s = .next s) ∧
    (w.agent = .mgmt → ∃ u t, Written w w.base (2 ^ 64 - 1) 0 s u ∧ exec (.pmaskWrite w) s = .next t ∧
      t = u.setDev { u.dev with fabric := { u.dev.fabric with changing := if u.dev.reg w.base = 0 then s.dev.fabric.changing.filter fun c => c.1 ≠ dev else s.dev.fabric.changing } })) ∧
  (∀ (s : State) (dev : Nat), s.dev.fabric.requests = [] → s.dev.fabric.back = [] → s.dev.fabric.waitq = [] → ∃ t, exec (.planeHoldRelease dev) s = .next t ∧
    t = s.setDev { s.dev with fabric := { s.dev.fabric with changing := s.dev.fabric.changing.filter fun c => c.1 ≠ dev } }) ∧
  (∀ (s : State) (w : RegWrite) (q : Nat), q < 64 → q < s.dev.fabric.ports.length → w.ok = true → w.base = 0x20400 + 8 * q → s.dev.fabric.requests = [] → s.dev.fabric.waitq = [] →
    (w.ones.testBit 12 = true → (s.dev.portAt q).resolve = true → (s.dev.portAt q).buffer = [] → (s.dev.portAt q).waiting = [] →
      ∃ t, exec (.portresolveGo w) s = .next t ∧ only s t q { s.dev.portAt q with resolve := false }) ∧
    (w.ones.testBit 12 = false ∨ (s.dev.portAt q).resolve = false → exec (.portresolveGo w) s = .next s)) ∧
  (∀ (s : State) (down : Bool), ((s.dev.reg 0x30000).testBit 31 = false → exec (.bridgeLinkDown down) s = .next s) ∧
    ((s.dev.reg 0x30000).testBit 31 = true → (∀ r ∈ s.dev.fabric.requests, r.plane ≠ 64) →
      ∃ t, exec (.bridgeLinkDown down) s = .next t ∧ t = s.setDev { s.dev with fabric := { s.dev.fabric with linkUp := !down } }))

/-! ## Stops and saves -/

/-- R382 to R385, R390: PRECTL begins the save of a live context with an image area, else ERR; RESTCTL resumes what stopped in place, else ERR. R52,
R383: a cohort stops at its point, wait or boundary with the STATE that is due. R384: #LATE once for a company. R378: #FAB is queue-level with
FABQ, held in the handler. R423: one #FAB names the lowest member that failed. R385 to R388, R322, R130: a company whose cohorts stand is saved,
its failures covered, or stops in place. R375, R376: a context that a trap ended stops and lets go. -/
def Obligations.StopsAndSaves : Prop :=
  let go (w : RegWrite) : Prop := Covers w 16 ∧ w.val.testBit (16 - 8 * (w.off % 8)) = true
  let alone (s : State) (asid : Nat) : Prop := Bare s ∧ s.cx.asid = asid ∧ ∀ c ∈ s.dev.contexts, c.asid ≠ asid
  let resumed (st : CStat) : CStat := match st with
    | .stopped _ => .running
    | x => x
  (∀ (w : RegWrite) (s : State), w.ok = true → w.base = 0x6000 → ∃ u, Written w 0x6000 (2 ^ 12 - 1) (2 ^ 30) s u ∧
    let asid := bits (u.dev.reg 0x6000) 11 0
    (¬ go w → exec (.prectlGo w) s = .next u) ∧
    (go w → (s.dev.reg 0x6000).testBit 31 = true ∨ (∀ c ∈ s.contexts, c.asid ≠ asid) ∨ (u.dev.imgEntry asid).1 = false →
      ∃ t, exec (.prectlGo w) s = .next t ∧ RegSet u t 0x6000 (putBits (u.dev.reg 0x6000) 30 30 1)) ∧
    (go w → (s.dev.reg 0x6000).testBit 31 = false → alone s asid → s.cx.stat = .live → (u.dev.imgEntry asid).1 = true →
      (∃ h ∈ s.dev.companies, h.asid = asid ∧ h.coreOf.isSome = true) →
      ∃ t, exec (.prectlGo w) s = .next t ∧ t.dev.reg 0x6000 = putBits (u.dev.reg 0x6000) 31 31 1 ∧ (∀ o, o ≠ 0x6000 → t.dev.reg o = s.dev.reg o) ∧
        t.cx = { s.cx with stat := .saving false, used := 0, image := [] } ∧ (∀ a, t.dev.byte a = s.dev.byte a) ∧ t.me = s.me ∧ t.co = s.co ∧ t.turns = s.turns ∧
        t.dev.companies = s.dev.companies.map fun h => if h.asid = asid then
          { h with cohorts := h.cohorts.map fun c => if c.stat = .ended ∨ c.stopDue ≠ 0 then c else { c with stopDue := if h.pdist = 0 then 2 else 1 } } else h)) ∧
  (∀ (w : RegWrite) (s : State), w.ok = true → w.base = 0x6008 → ∃ u, Written w 0x6008 (2 ^ 12 - 1) (2 ^ 30) s u ∧
    let asid := bits (u.dev.reg 0x6008) 11 0
    (¬ go w → exec (.restctlGo w) s = .next u) ∧
    (go w → (∀ c ∈ s.contexts, c.asid = asid → c.stat ≠ .saved ∧ c.stat ≠ .inPlace) → ∃ t, exec (.restctlGo w) s = .next t ∧ RegSet u t 0x6008 (putBits (u.dev.reg 0x6008) 30 30 1)) ∧
    (go w → alone s asid → s.cx.stat = .inPlace → bits (s.dev.reg 0x60000) 11 0 ≠ asid →
      ∃ t, exec (.restctlGo w) s = .next t ∧ t.dev.ctrl = u.dev.ctrl ∧ t.cx = { s.cx with stat := .live } ∧ (∀ a, t.dev.byte a = s.dev.byte a) ∧ t.me = s.me ∧ t.turns = s.turns ∧
        (t.dev.companies.map fun h => (h.dseq, h.cohorts.map fun c => (c.j, c.pc, c.stat))) = s.dev.companies.map fun h =>
          (h.dseq, h.cohorts.map fun c => (c.j, c.pc, if h.asid = asid then resumed c.stat else c.stat)))) ∧
  (∀ (s : State) (d j : Nat), s.isAt d j = true → s.recording = false → s.co.late = false → s.me.fab = [] →
    let c := s.me
    let waits : Option Nat := if c.wait = .none ∨ c.wait = .drain then none else if c.wait = .pool ∨ c.wait = .time then some 3 else some 2
    let due : Prop := c.stat = .running ∧ c.stopDue ≠ 0 ∧ ¬ (c.handler = true ∧ (c.stopDue = 1 ∨ c.stopDue = 2 ∨ c.stopDue = 7)) ∧
      (∀ o ∈ c.ops, ∀ g b k, o.kind = .mldred g b k → o.passed = true) ∧ (waits = none → c.stopDue ≠ 1 ∧ ¬ (c.stopDue = 6 ∧ c.chunkN ≠ 0))
    (¬ due → exec (.preemptStop d j) s = .next s) ∧
    (due → ∃ t, exec (.preemptStop d j) s = .next t ∧ t.me = { c with stat := .stopped (waits.getD (if c.stopDue = 7 then 0 else 1)), sema := none, active := false, stopDue := 0 } ∧
      t.co.latches = (s.co.latches.map fun l => { l with arrived := l.arrived.filter fun a => a.j ≠ j }).filter (fun l => !l.arrived.isEmpty) ∧
      { t.co with latches := s.co.latches } = s.co ∧ t.dev = s.dev ∧ t.cx = s.cx ∧ t.turns = s.turns)) ∧
  (∀ s : State, Standing s → (s.co.cohorts.map (·.j)).Pairwise (· < ·) → (∀ c ∈ s.co.cohorts, c.stat ≠ .absent) → s.recording = false →
    let late (c : Cohort) : Prop := c.stat = .running ∧ (c.stopDue = 1 ∨ c.stopDue = 7)
    let begins : Prop := s.cx.stat = .saving false ∧ s.co.coreOf.isSome = true ∧ s.co.pdist ≠ 0 ∧ s.co.late = false ∧ ∃ c ∈ s.co.cohorts, late c
    (¬ begins → exec (.overdue s.co.dseq) s = .next s) ∧
    (begins → ∃ t, exec (.overdue s.co.dseq) s = .next t ∧
      t.coAll = { s.co with late := true, cohorts := s.co.cohorts.map fun c => if c.stat = .running ∧ (c.stopDue = 1 ∨ c.stopDue = 7) then { c with stopDue := 2 } else c } ∧
      t.cx = { s.cx with wstat := (s.cx.wstat &&& 0xFFFF0000#32) ||| 0x40000000#32 ||| BitVec.ofNat 32 (min ((s.cx.wstat &&& 0xFFFF#32).toNat + 1) 0xFFFF) } ∧
      t.dev.enum = s.dev.enum + 1 ∧ t.dev.companies = s.dev.companies ∧ t.turns = s.turns)) ∧
  (∀ (s : State) (d j : Nat), s.isAt d j = true →
    let boundary : Prop := s.me.stat = .running ∧ ¬ (s.me.wait = .bar ∨ s.me.wait = .macq ∨ s.me.wait = .latch ∨ s.me.wait = .sema ∨ s.me.wait = .emit)
    let low : Mask := maskOf (lowestLane s.me.act).toList
    let sub (m : Bool) : Nat := if m = true then 2 else 1
    (¬ boundary ∨ s.me.fab = [] → exec (.fabTrap d j) s = .next s) ∧
    let names (dev : Nat) (m : Bool) : Prop := (dev, m) ∈ s.me.fab ∧ (m = false → ∀ f ∈ s.me.fab, f.2 = false) ∧ ∀ f ∈ s.me.fab, f.2 = m → dev ≤ f.1
    (∀ dev m, boundary → names dev m → s.cx.tctl.getLsbD 2 = true → s.recording = false →
      let u := s.setMe { s.me.crput 0x59 (BitVec.ofNat 32 (dev % 1024)) with fab := [] }
      (s.me.handler = true → exec (.fabTrap d j) s = .next (u.setMe { u.me with heldTrap := some { code := 15, sub := sub m, mask := low, imm := 0 } })) ∧
      (s.me.handler = false → ∃ t, exec (.fabTrap d j) s = .next t ∧ t.me.stat = .trapped ∧ t.me.wait = .none ∧ t.me.fab = [] ∧ t.me.pc = s.me.pc ∧
        t.me.crget 0x59 = BitVec.ofNat 32 (dev % 1024) ∧ t.cx = { s.cx with reports := s.cx.reports ++ [(s.co.dseq, j, 15, s.me.wid)] } ∧ t.dev = s.dev ∧ t.co = s.co ∧ t.turns = s.turns)) ∧
    (∀ dev m, boundary → names dev m → s.cx.tctl.getLsbD 2 = false → s.cx.tctl.getLsbD 1 = false → s.recording = false →
      exec (.fabTrap d j) s = .next { s with
        me := { s.me.crput 0x59 (BitVec.ofNat 32 (dev % 1024)) with fab := [] }
        cx := { s.cx with wstat := (s.cx.wstat &&& 0xFFFF0000#32) ||| (1#32 <<< 29) ||| BitVec.ofNat 32 (min ((s.cx.wstat &&& 0xFFFF#32).toNat + 1) 0xFFFF) } })) ∧
  (∀ (s : State) (core : Nat), Standing s → s.co.place = .core core →
    let h := s.co
    let stands : Prop := (∀ c ∈ h.cohorts, c.ops = [] ∧ (c.stat = .ended ∨ ∃ k, c.stat = .stopped k)) ∧ h.fired = [] ∧ (∀ f ∈ s.dev.fills, f.dseq ≠ h.dseq) ∧
      (∀ p ∈ s.dev.pieces, ∀ j, p.owner ≠ .cohort h.dseq j)
    (¬ stands ∨ s.cx.stat = .live → exec (.companySave h.dseq) s = .next s) ∧
    (stands → s.cx.stat = .saving true → s.imgFits = false → (∀ x ∈ s.dev.companies, x.asid ≠ s.cx.asid) → (s.dev.reg 0x6000).testBit 31 = false →
      ∃ t, exec (.companySave h.dseq) s = .next t ∧ t.cx = { s.cx with stat := .inPlace, halter := none } ∧ t.co = s.co ∧ t.me = s.me ∧ t.turns = s.turns ∧
        t.dev.enum = s.dev.enum + if s.cx.halter.isSome then 1 else 0) ∧
    let h := { h with cohorts := h.cohorts.map fun c => c.coverIf Origin.isAccess }
    (stands → s.cx.stat = .saving false → h.spill = none → max 1 s.cx.used + h.recPages ≤ (s.publish 3).imgArea.2 → h.asid = s.cx.asid → (∃ x ∈ s.dev.companies, x.asid = s.cx.asid ∧ x.coreOf.isSome = true) →
      let bs := (s.publish 3).companyRecord h (core / 128)
      let a := (s.publish 3).imgArea.1 + max 1 s.cx.used * 4096
      ∃ t, exec (.companySave h.dseq) s = .next t ∧ (∀ x, t.dev.byte x = if a ≤ x ∧ x < a + bs.length then bs.getD (x - a) 0#8 else s.dev.byte x) ∧
        t.cx = { s.cx with used := max 1 s.cx.used + bs.length / 4096, image := s.cx.image ++ [h.dseq] } ∧
        t.co = { h with place := .saved (core / 128), cohorts := h.alive, latches := [], victim := false, late := false, restored := true, regain := [] } ∧
        t.dev.engines = s.dev.engines.filter (fun e => e.dseq ≠ h.dseq) ∧ t.dev.companies = s.dev.companies ∧ t.dev.ctrl = s.dev.ctrl ∧ t.me = s.me ∧ t.turns = s.turns)) ∧
  (∀ (s : State) (asid : Nat), alone s asid →
    (s.cx.stat ≠ .ended → s.cx.reports = [] → exec (.queueLevelTrap asid) s = .next s) ∧
    (∀ d j code wid rest, s.cx.stat = .live → s.cx.reports = (d, j, code, wid) :: rest → (∀ r ∈ rest, d < r.1 ∨ d = r.1 ∧ j ≤ r.2.1) → s.dev.queues = [] →
      ∃ t, exec (.queueLevelTrap asid) s = .next t ∧ t.cx = { s.cx with stat := .ended } ∧ t.dev.enum = s.dev.enum + 1 ∧ t.me = s.me ∧ t.co = s.co ∧ t.turns = s.turns ∧
        (∀ h ∈ t.dev.companies, h.asid = asid → ∀ c ∈ h.cohorts, c.stat = .ended ∨ c.stat = .trapped ∨ ∃ k, c.stat = .stopped k) ∧
        (t.dev.companies.map fun h => (h.dseq, h.place)) = s.dev.companies.map fun h => (h.dseq, h.place)) ∧
    (s.cx.stat = .ended → asid ∈ s.dev.retiring → exec (.queueLevelTrap asid) s = .next s) ∧
    (s.cx.stat = .ended → asid ∉ s.dev.retiring → (∀ h ∈ s.dev.companies, h.asid ≠ asid) → s.imgFits = false → s.cx.launches = [] → (s.dev.reg 0x6000).testBit 31 = false → s.dev.signRoom = false →
      ∃ t, exec (.queueLevelTrap asid) s = .next t ∧ t.cx = { s.cx with nodes := [], reports := [], halter := none } ∧ t.dev.retiring = s.dev.retiring ++ [asid] ∧
        t.dev.dispatch = s.dev.dispatch.filter (fun x => x.1 ≠ asid) ∧ t.dev.companies = s.dev.companies ∧ t.dev.ctrl = s.dev.ctrl ∧ (∀ a, t.dev.byte a = s.dev.byte a) ∧
        t.me = s.me ∧ t.co = s.co ∧ t.turns = s.turns))

/-! ## The machine as a whole -/

/-- R199 to R204, R222: the decoder reads from the words of a well-formed instruction that instruction and their length, with every operand at every
value that its encoding admits. -/
def Obligations.DecodeReadsEncode : Prop :=
  ∀ i : Instr, WellFormed i → ∀ e, encode i = some e → decode e.bytes = .ok (i, e.bytes.length)

/-- R252, R312, R432: words that the spec assembles decode to the statements that it gives for them. -/
def Obligations.DecodeWords : Prop :=
  let word (w : Nat) : List Byte := leBytes 4 w
  decode (word 0x0000FF01) = .ok (.clauseHeader { p := false, wait := 0#12, b := 15#4, a := 15#4, y := false }, 4) ∧
  decode (word 0x20000069) = .ok (.crrdv 0#6 0#12, 4) ∧
  decode (word 0x83F00005 ++ word 0xFFFFFFF8) = .ok (.iadd { d := 0#6, a := 0#6, b := .lit 0xFFFFFFF8#32, ma := false, mb := false, u := false }, 8) ∧
  decode (word 0xA3F00115 ++ word 0) = .ok (.icmpLt { d := 1#6, a := 0#6, b := .lit 0#32, ma := false, mb := false, u := false }, 8) ∧
  decode (word 0x00000A45) = .ok (.emget 10#6, 4) ∧
  decode (word 0x20004045) = .ok (.emand 1#6, 4) ∧
  decode (word 0x10000061 ++ word 0xC) = .ok (.brmz 0xC#32, 8) ∧
  decode (word 0x7000000D) = .ok (.ineg { d := 0#6, b := .v 0#6, mb := false, u := false }, 4) ∧
  decode (word 0x10028045) = .ok (.emset 10#6, 4) ∧
  decode (word 0x00000065) = .ok (.exit, 4) ∧
  decode (word 0x4011C6A5) = .ok (.gfill 1#3 7#6 6#6, 4) ∧
  decode (word 0x308404A5) = .ok (.mma false 8#6 16#6 4#4, 4) ∧
  decode (word 0x220114A9) = .ok (.tcvt 4#3 0#3 0#2 4#4 20#6, 4) ∧
  decode (word 0x0000C0A5) = .ok (.gang 3#6, 4) ∧
  decode (word 0x0300506D) = .ok (.ld { f := false, o := false, c := 0#2, ma := false, z := 6#3, w := 0#3, a := 1#6, d := 16#6, u := false }, 4) ∧
  decode (word 0x03009471) = .ok (.st { f := false, o := false, c := 0#2, ma := false, z := 6#3, w := 0#3, a := 2#6, d := 20#6, u := false }, 4) ∧
  decode (word 0x1006C969) = .ok (.crwr 9#6 0x1B#12, 4) ∧
  decode (word 0x1000FF01) = .ok (.clauseHeader { p := true, wait := 0#12, b := 15#4, a := 15#4, y := false }, 4)

/-- R199, R46, R330, and the model's order of turns (log entry 2): where no turn is listed and the current cohort may issue, a step fetches the
parcels at its pc, one, two or four of them as the first word says, and runs the instruction that they decode to on the state that the fetch
leaves, unless an interlock holds it; at the entry point of its role it must be a clause header, and what is not raises #ILL TARGET there (R210;
log entry 85); a listed turn runs first. Without main power a step is a fault. -/
def Obligations.StepRunsDecoded : Prop :=
  let fits (s : State) (i : Instr) : Prop := s.me.atEntry = true →
    (∃ h, i = .clauseHeader h) ∧ s.me.pc.getLsbD 0 = false ∧ (s.me.pc.getLsbD 55 = true → s.me.priv = true)
  (∀ (s u : State) (bs : List Byte) (i : Instr) (n : Nat), s.turns = [] → s.dev.boot.powered = true → s.canIssue = true →
    s.fetchParcels s.me.pc.toNat (n / 2) = (u, some bs) → decode bs = .ok (i, n) → WellFormed i → (∀ c, i ≠ .reservedEncoding c) →
    u = s.setDev u.dev ∧ Looked s.dev u.dev ∧
    (fits s i → u.stalls i = false → step s = exec i u) ∧
    (fits s i → u.stalls i = true → step s = firstEffect (u.hold i) (u.hold i).idleEvents) ∧
    (s.me.atEntry = true → (∀ h, i ≠ .clauseHeader h) → s.me.pc.getLsbD 0 = false → i ≠ .instructionFetchFault →
      (s.me.pc.getLsbD 55 = true → s.me.priv = true) → u.stalls (.reservedEncoding .target) = false →
      step s = exec (.reservedEncoding .target) u)) ∧
  (∀ (s : State) (i : Instr) (rest : List Turn), s.turns = .event i :: rest → s.dev.boot.powered = true → isEvent i = true →
    step s = exec i { s with turns := rest }) ∧
  (∀ (s u : State) (bs : List Byte) (i : Instr) (n : Nat) (rest : List Turn), s.turns = .issue s.co.dseq s.me.j :: rest → s.dev.boot.powered = true →
    s.isAt s.co.dseq s.me.j = true → State.canIssue { s with turns := rest } = true →
    State.fetchParcels { s with turns := rest } s.me.pc.toNat (n / 2) = (u, some bs) → decode bs = .ok (i, n) → WellFormed i →
    (∀ c, i ≠ .reservedEncoding c) → fits s i → u.stalls i = false → step s = exec i u) ∧
  (∀ s : State, s.dev.boot.powered = false → s.turns = [] → step s = .fault .noPower)

/-- R58, R60, R73, R116: a run of bytes that is written reads back at its addresses, every other byte of memory reads as before, for a store by the
device (P), by a hall (L) and for zeroing; and memory keeps its canonical form. -/
def Obligations.MemoryReadsBack : Prop :=
  ∀ (d : Device) (h a : Nat) (bs : List Byte) (p : Mask),
    (∀ x, (d.putP a bs p).byte x = if a ≤ x ∧ x < a + bs.length then bs.getD (x - a) 0#8 else d.byte x) ∧
    (∀ x, (d.putL h [(a, bs, p)]).byte x = if a ≤ x ∧ x < a + bs.length then bs.getD (x - a) 0#8 else d.byte x) ∧
    (∀ n x, (d.zero a n).byte x = if a ≤ x ∧ x < a + n then 0#8 else d.byte x) ∧
    (Memory.wf d.mem → Memory.wf (d.putP a bs p).mem ∧ (∀ ws, Memory.wf (d.putL h ws).mem) ∧ ∀ n, Memory.wf (d.zero a n).mem) ∧
    Memory.wf State.reset.dev.mem

/-- R14, R21, R51, R134, R343, R404 and the tables of each register: after reset FEATOFF holds 0x1F and FEATACC 1, every other register of device
control space reads 0 and every plane port is OFF; main power is applied and no context, company, cohort, queue or flight exists. -/
def Obligations.Reset : Prop :=
  let s := State.reset
  s.dev.reg 0x70000 = 0x1F ∧ s.dev.reg 0x70020 = 1 ∧ (∀ o, o < 0x40000000 → o ≠ 0x70000 → o ≠ 0x70020 → s.dev.reg o = 0) ∧
  (∀ q, q < 64 → (s.dev.fabric.ports.getD q Port.off).state = 0) ∧ s.dev.boot.powered = true ∧ s.contexts = [] ∧ s.companies = [] ∧
  s.dev.queues = [] ∧ s.dev.flights = [] ∧ s.dev.pool64k = [] ∧ s.dev.pool2m = [] ∧ s.dev.events = [] ∧ s.dev.tlb = [] ∧
  (∀ a, Store.get 0#64 s.dev.ptgen a = 0#64) ∧ (∀ a, s.dev.byte a = 0#8) ∧ s.me.stat = .absent ∧ s.turns = []
end

