-- ==== Sys2Proof/Laws/Store.lean ====
section
/-!
SUPPORT. Sparse data: what a write leaves to be read, and that every operation keeps the canonical form.
-/
namespace Sys2Proof.Machine

variable {α : Type}

theorem Store.get_enter_same (d : α) (m : Store α) (i : Nat) (x : α) : Store.get d (Store.enter m i x) i = x := by
  induction m with
  | nil => simp [Store.enter, Store.get]
  | cons p m ih =>
    obtain ⟨k, v⟩ := p
    simp only [Store.enter]
    split
    · simp [Store.get]
    · split
      · simp [Store.get]
      · simp only [Store.get]; rw [if_neg (by assumption), ih]

theorem Store.get_enter_other (d : α) (m : Store α) {i j : Nat} (x : α) (h : j ≠ i) :
    Store.get d (Store.enter m i x) j = Store.get d m j := by
  induction m with
  | nil => simp [Store.enter, Store.get, h]
  | cons p m ih =>
    obtain ⟨k, v⟩ := p
    simp only [Store.enter]
    split
    · rename_i e; subst e; simp [Store.get, h]
    · split
      · simp [Store.get, h]
      · simp only [Store.get]; rw [ih]

theorem Store.get_without_same (d : α) (m : Store α) (i : Nat) : Store.get d (m.filter fun p => p.1 != i) i = d := by
  induction m with
  | nil => rfl
  | cons p m ih =>
    obtain ⟨k, v⟩ := p
    by_cases e : k = i
    · simp [e, ih]
    · have e' : ¬ i = k := fun h => e h.symm
      simp [e, Store.get, e', ih]

theorem Store.get_without_other (d : α) (m : Store α) {i j : Nat} (h : j ≠ i) :
    Store.get d (m.filter fun p => p.1 != i) j = Store.get d m j := by
  induction m with
  | nil => rfl
  | cons p m ih =>
    obtain ⟨k, v⟩ := p
    by_cases e : k = i
    · subst e; simp [Store.get, h, ih]
    · simp [e, Store.get, ih]

variable [DecidableEq α]

/-- A key reads as what was written to it last. -/
@[simp] theorem Store.get_set_same (d : α) (m : Store α) (i : Nat) (x : α) : Store.get d (Store.set d m i x) i = x := by
  unfold Store.set
  split
  · rename_i e; rw [Store.get_without_same, e]
  · exact Store.get_enter_same d m i x

/-- A write leaves every other key as it was. -/
theorem Store.get_set_other (d : α) (m : Store α) {i j : Nat} (x : α) (h : j ≠ i) :
    Store.get d (Store.set d m i x) j = Store.get d m j := by
  unfold Store.set
  split
  · exact Store.get_without_other d m h
  · exact Store.get_enter_other d m x h

theorem Store.get_set (d : α) (m : Store α) (i j : Nat) (x : α) :
    Store.get d (Store.set d m i x) j = if j = i then x else Store.get d m j := by
  by_cases h : j = i
  · subst h; simp
  · rw [Store.get_set_other d m x h, if_neg h]

/-- After a run is written, a key inside it reads its value and every other key reads as before. -/
theorem Store.get_setRun (d : α) (xs : List α) : ∀ (m : Store α) (i j : Nat), Store.get d (Store.setRun d m i xs) j =
    if i ≤ j ∧ j < i + xs.length then xs.getD (j - i) d else Store.get d m j := by
  induction xs with
  | nil => intro m i j; rw [if_neg (by simp)]; rfl
  | cons x xs ih =>
    intro m i j
    rw [Store.setRun, ih, Store.get_set]
    by_cases h1 : i + 1 ≤ j ∧ j < i + 1 + xs.length
    · rw [if_pos h1, if_pos (by simp only [List.length_cons]; omega)]
      have e : j - i = (j - (i + 1)) + 1 := by omega
      rw [e]; rfl
    · rw [if_neg h1]
      by_cases h2 : j = i
      · subst h2; rw [if_pos rfl, if_pos (by simp only [List.length_cons]; omega)]; simp
      · rw [if_neg h2, if_neg (by simp only [List.length_cons]; omega)]

omit [DecidableEq α] in
theorem Store.get_drop (d : α) (m : Store α) (lo hi j : Nat) :
    Store.get d (Store.drop m lo hi) j = if lo ≤ j ∧ j < hi then d else Store.get d m j := by
  induction m with
  | nil => simp [Store.drop, Store.get]
  | cons p m ih =>
    obtain ⟨k, v⟩ := p
    unfold Store.drop at ih ⊢
    by_cases hk : k < lo ∨ hi ≤ k
    · simp only [List.filter_cons, hk, decide_true, if_true, Store.get, ih]
      by_cases e : j = k
      · subst e; rw [if_pos rfl, if_neg (by omega), if_pos rfl]
      · rw [if_neg e]; simp only [if_neg e]
    · simp only [List.filter_cons, hk, decide_false, Bool.false_eq_true, if_false, ih, Store.get]
      by_cases e : j = k
      · subst e; rw [if_pos (by omega), if_pos (by omega)]
      · rw [if_neg e]

/-! ## The canonical form -/

omit [DecidableEq α] in
theorem Store.above_enter {k : Nat} (m : Store α) (i : Nat) (x : α) (h : Store.above k m = true) (hi : k < i) :
    Store.above k (Store.enter m i x) = true := by
  cases m with
  | nil => simpa [Store.enter, Store.above] using hi
  | cons p m =>
    obtain ⟨k', v⟩ := p
    simp only [Store.enter]
    split
    · simpa [Store.above] using hi
    · split
      · simpa [Store.above] using hi
      · simpa [Store.above] using h

theorem Store.wf_cons {d : α} {k : Nat} {v : α} {m : Store α} :
    Store.wf d ((k, v) :: m) = true ↔ v ≠ d ∧ Store.above k m = true ∧ Store.wf d m = true := by
  simp [Store.wf, and_assoc]

theorem Store.wf_enter {d : α} (m : Store α) (i : Nat) (x : α) (hx : x ≠ d) (h : Store.wf d m = true) :
    Store.wf d (Store.enter m i x) = true := by
  induction m with
  | nil => simp [Store.enter, Store.wf, Store.above, hx]
  | cons p m ih =>
    obtain ⟨k, v⟩ := p
    obtain ⟨h1, h2, h3⟩ := Store.wf_cons.1 h
    simp only [Store.enter]
    split
    · rename_i e; subst e; exact Store.wf_cons.2 ⟨hx, h2, h3⟩
    · split
      · exact Store.wf_cons.2 ⟨hx, by simpa [Store.above], h⟩
      · exact Store.wf_cons.2 ⟨h1, Store.above_enter m i x h2 (by omega), ih h3⟩

omit [DecidableEq α] in
theorem Store.above_trans {k k' : Nat} {m : Store α} (hk : k < k') (h : Store.above k' m = true) : Store.above k m = true := by
  cases m with
  | nil => rfl
  | cons p m => obtain ⟨i, v⟩ := p; simp only [Store.above, decide_eq_true_eq] at h ⊢; omega

theorem Store.above_filter {d : α} {k : Nat} (q : Nat × α → Bool) :
    ∀ (m : Store α), Store.wf d m = true → Store.above k m = true → Store.above k (m.filter q) = true := by
  intro m
  induction m with
  | nil => intro _ _; rfl
  | cons p m ih =>
    obtain ⟨i, v⟩ := p
    intro hw ha
    obtain ⟨_, h2, h3⟩ := Store.wf_cons.1 hw
    simp only [Store.above, decide_eq_true_eq] at ha
    rw [List.filter_cons]
    split
    · simpa [Store.above] using ha
    · exact ih h3 (Store.above_trans ha h2)

/-- Leaving entries out keeps the canonical form. -/
theorem Store.wf_filter {d : α} (q : Nat × α → Bool) : ∀ (m : Store α), Store.wf d m = true → Store.wf d (m.filter q) = true := by
  intro m
  induction m with
  | nil => intro _; rfl
  | cons p m ih =>
    obtain ⟨k, v⟩ := p
    intro h
    obtain ⟨h1, h2, h3⟩ := Store.wf_cons.1 h
    rw [List.filter_cons]
    split
    · exact Store.wf_cons.2 ⟨h1, Store.above_filter q m h3 h2, ih h3⟩
    · exact ih h3

/-- Writing one key keeps the canonical form. -/
theorem Store.wf_set {d : α} (m : Store α) (i : Nat) (x : α) (h : Store.wf d m = true) : Store.wf d (Store.set d m i x) = true := by
  unfold Store.set
  split
  · exact Store.wf_filter _ m h
  · exact Store.wf_enter m i x (by assumption) h

/-- Writing a run keeps the canonical form. -/
theorem Store.wf_setRun {d : α} (xs : List α) : ∀ (m : Store α) (i : Nat), Store.wf d m = true → Store.wf d (Store.setRun d m i xs) = true := by
  induction xs with
  | nil => intro m i h; exact h
  | cons x xs ih => intro m i h; exact ih _ _ (Store.wf_set m i x h)

/-- Dropping a range keeps the canonical form. -/
theorem Store.wf_drop {d : α} (m : Store α) (lo hi : Nat) (h : Store.wf d m = true) : Store.wf d (Store.drop m lo hi) = true :=
  Store.wf_filter _ m h

end Sys2Proof.Machine
end

