-- ==== Sys2Proof/Laws/State.lean ====
section
/-!
SUPPORT. One lemma per field per named update of the state, true by rfl, and what the register operations leave to be read.
-/
namespace Sys2Proof.Machine

/-! ## Replacing a part of the state -/

@[simp] theorem State.setMe_me (s : State) (c : Cohort) : (s.setMe c).me = c := rfl
@[simp] theorem State.setMe_co (s : State) (c : Cohort) : (s.setMe c).co = s.co := rfl
@[simp] theorem State.setMe_cx (s : State) (c : Cohort) : (s.setMe c).cx = s.cx := rfl
@[simp] theorem State.setMe_dev (s : State) (c : Cohort) : (s.setMe c).dev = s.dev := rfl
@[simp] theorem State.setMe_turns (s : State) (c : Cohort) : (s.setMe c).turns = s.turns := rfl
@[simp] theorem State.setMe_free (s : State) (c : Cohort) : (s.setMe c).free = s.free := rfl
@[simp] theorem State.setCo_me (s : State) (c : Company) : (s.setCo c).me = s.me := rfl
@[simp] theorem State.setCo_co (s : State) (c : Company) : (s.setCo c).co = c := rfl
@[simp] theorem State.setCo_cx (s : State) (c : Company) : (s.setCo c).cx = s.cx := rfl
@[simp] theorem State.setCo_dev (s : State) (c : Company) : (s.setCo c).dev = s.dev := rfl
@[simp] theorem State.setCo_turns (s : State) (c : Company) : (s.setCo c).turns = s.turns := rfl
@[simp] theorem State.setCo_free (s : State) (c : Company) : (s.setCo c).free = s.free := rfl
@[simp] theorem State.setCx_me (s : State) (c : Context) : (s.setCx c).me = s.me := rfl
@[simp] theorem State.setCx_co (s : State) (c : Context) : (s.setCx c).co = s.co := rfl
@[simp] theorem State.setCx_cx (s : State) (c : Context) : (s.setCx c).cx = c := rfl
@[simp] theorem State.setCx_dev (s : State) (c : Context) : (s.setCx c).dev = s.dev := rfl
@[simp] theorem State.setCx_turns (s : State) (c : Context) : (s.setCx c).turns = s.turns := rfl
@[simp] theorem State.setCx_free (s : State) (c : Context) : (s.setCx c).free = s.free := rfl
@[simp] theorem State.setDev_me (s : State) (d : Device) : (s.setDev d).me = s.me := rfl
@[simp] theorem State.setDev_co (s : State) (d : Device) : (s.setDev d).co = s.co := rfl
@[simp] theorem State.setDev_cx (s : State) (d : Device) : (s.setDev d).cx = s.cx := rfl
@[simp] theorem State.setDev_dev (s : State) (d : Device) : (s.setDev d).dev = d := rfl
@[simp] theorem State.setDev_turns (s : State) (d : Device) : (s.setDev d).turns = s.turns := rfl
@[simp] theorem State.setDev_free (s : State) (d : Device) : (s.setDev d).free = s.free := rfl

/-! ## Retiring -/

@[simp] theorem State.retire_dev (s : State) (n : Nat) : (s.retire n).dev = s.dev := rfl
@[simp] theorem State.retire_cx (s : State) (n : Nat) : (s.retire n).cx = s.cx := rfl
@[simp] theorem State.retire_co (s : State) (n : Nat) : (s.retire n).co = s.co := rfl
@[simp] theorem State.retire_turns (s : State) (n : Nat) : (s.retire n).turns = s.turns := rfl
@[simp] theorem State.retire_free (s : State) (n : Nat) : (s.retire n).free = s.free := rfl
@[simp] theorem State.retire_me (s : State) (n : Nat) : (s.retire n).me = s.me.retire n := rfl
@[simp] theorem Cohort.retire_pc (c : Cohort) (n : Nat) : (c.retire n).pc = c.pc + BitVec.ofNat 56 n := rfl
@[simp] theorem Cohort.retire_icount (c : Cohort) (n : Nat) : (c.retire n).icount = c.icount + 1 := rfl
@[simp] theorem Cohort.retire_wait (c : Cohort) (n : Nat) : (c.retire n).wait = .none := rfl
@[simp] theorem Cohort.retire_v (c : Cohort) (n : Nat) : (c.retire n).v = c.v := rfl
@[simp] theorem Cohort.retire_s (c : Cohort) (n : Nat) : (c.retire n).s = c.s := rfl
@[simp] theorem Cohort.retire_sp (c : Cohort) (n : Nat) : (c.retire n).sp = c.sp := rfl
@[simp] theorem Cohort.retire_p (c : Cohort) (n : Nat) : (c.retire n).p = c.p := rfl
@[simp] theorem Cohort.retire_em (c : Cohort) (n : Nat) : (c.retire n).em = c.em := rfl
@[simp] theorem Cohort.retire_cr (c : Cohort) (n : Nat) : (c.retire n).cr = c.cr := rfl
@[simp] theorem Cohort.retire_win (c : Cohort) (n : Nat) : (c.retire n).win = c.win := rfl
@[simp] theorem Cohort.retire_f (c : Cohort) (n : Nat) : (c.retire n).f = c.f := rfl
@[simp] theorem Cohort.retire_ops (c : Cohort) (n : Nat) : (c.retire n).ops = c.ops := rfl
@[simp] theorem Cohort.retire_stat (c : Cohort) (n : Nat) : (c.retire n).stat = c.stat := rfl
@[simp] theorem Cohort.retire_n0 (c : Cohort) (n : Nat) : (c.retire n).n0 = c.n0 := rfl

/-! ## Counting -/

@[simp] theorem State.count_me (s : State) (i n : Nat) : (s.count i n).me = s.me := by
  unfold State.count; dsimp only; (repeat' split) <;> rfl
@[simp] theorem State.count_co (s : State) (i n : Nat) : (s.count i n).co = s.co := by
  unfold State.count; dsimp only; (repeat' split) <;> rfl
@[simp] theorem State.count_dev (s : State) (i n : Nat) : (s.count i n).dev = s.dev := by
  unfold State.count; dsimp only; (repeat' split) <;> rfl
@[simp] theorem State.count_turns (s : State) (i n : Nat) : (s.count i n).turns = s.turns := by
  unfold State.count; dsimp only; (repeat' split) <;> rfl
@[simp] theorem State.count_free (s : State) (i n : Nat) : (s.count i n).free = s.free := by
  unfold State.count; dsimp only; (repeat' split) <;> rfl
/-- Counting moves nothing of the context but its counters and their saturation bits (R409, R410). -/
theorem State.count_cx (s : State) (i n : Nat) :
    (s.count i n).cx = { s.cx with cnt := (s.count i n).cx.cnt, sat := (s.count i n).cx.sat } := by
  unfold State.count; dsimp only; (repeat' split) <;> rfl

/-! ## Registers -/

@[simp] theorem Cohort.sget_sput (c : Cohort) (i j : Nat) (x : Word) : (c.sput i x).sget j = if j = i then x else c.sget j :=
  Store.get_set ..
@[simp] theorem Cohort.crget_crput (c : Cohort) (i j : Nat) (x : Word) : (c.crput i x).crget j = if j = i then x else c.crget j :=
  Store.get_set ..
@[simp] theorem Cohort.window_winput (c : Cohort) (i j : Nat) (w : Window) :
    (c.winput i w).window j = if j = i then w else c.window j :=
  Store.get_set ..
@[simp] theorem Cohort.vget_vput (c : Cohort) (i j : Nat) (x : VReg) : (c.vput i x).vget j = if j = i then x else c.vget j := by
  unfold Cohort.vget Cohort.vput
  rw [Store.get_set]
  split <;> rfl
@[simp] theorem Cohort.allocated_vput (c : Cohort) (i j : Nat) (x : VReg) :
    (c.vput i x).allocated j = if j = i then true else c.allocated j := by
  unfold Cohort.allocated Cohort.vput
  rw [Store.get_set]
  split <;> rfl
@[simp] theorem Cohort.vget_vfree (c : Cohort) (i j : Nat) : (c.vfree i).vget j = if j = i then VReg.zero else c.vget j := by
  unfold Cohort.vget Cohort.vfree
  rw [Store.get_set]
  split <;> rfl
@[simp] theorem Cohort.allocated_vfree (c : Cohort) (i j : Nat) :
    (c.vfree i).allocated j = if j = i then false else c.allocated j := by
  unfold Cohort.allocated Cohort.vfree
  rw [Store.get_set]
  split <;> rfl
/-- p0 reads all ones and a write of it is discarded; any other predicate reads what was written (R214). -/
theorem Cohort.pget_pput (c : Cohort) (i j : Nat) (x : Mask) :
    (c.pput i x).pget j = if j = 0 then BitVec.allOnes 64 else if j = i then x else c.pget j := by
  unfold Cohort.pput Cohort.pget
  by_cases h : i = 0
  · subst h
    by_cases k : j = 0
    · simp [k]
    · simp [k]
  · by_cases k : j = 0
    · simp [k]
    · rw [if_neg h, if_neg k, if_neg k, if_neg k, Store.get_set]

/-- What reading a lane after a masked write gives (R207). -/
theorem VReg.lane_merge (v : VReg) (m : Mask) (f : Nat → Word) {i : Nat} (h : i < 64) :
    (v.merge m f).lane i = if m.getLsbD i = true then f i else v.lane i := by
  unfold VReg.merge
  simp only [VReg.lane, List.getD_eq_getElem?_getD, List.getElem?_map, List.getElem?_range h, Option.map_some, Option.getD_some]

@[simp] theorem VReg.poison_merge (v : VReg) (m : Mask) (f : Nat → Word) : (v.merge m f).poison = v.poison &&& ~~~ m := rfl

theorem VReg.lane_zero (i : Nat) : VReg.zero.lane i = 0#32 := by
  unfold VReg.zero VReg.lane
  rw [List.getD_eq_getElem?_getD, List.getElem?_replicate]
  split <;> rfl

@[simp] theorem VReg.poison_zero : VReg.zero.poison = 0#64 := rfl

/-- The halves of a 64-bit datum. -/
theorem lo32_eq (x : DWord) : lo32 x = x.extractLsb' 0 32 := by
  unfold lo32; apply BitVec.eq_of_getLsbD_eq; intro i hi
  simp only [BitVec.getLsbD_setWidth, BitVec.getLsbD_extractLsb', hi, decide_true, Bool.true_and, Nat.zero_add]
theorem hi32_eq (x : DWord) : hi32 x = x.extractLsb' 32 32 := by
  unfold hi32; apply BitVec.eq_of_getLsbD_eq; intro i hi
  simp only [BitVec.getLsbD_setWidth, BitVec.getLsbD_ushiftRight, BitVec.getLsbD_extractLsb', hi, decide_true, Bool.true_and]

end Sys2Proof.Machine
end

