-- ==== Sys2Proof/Laws/Ops.lean ====
section
/-!
SUPPORT. Operations of Machine/Ops.lean in a context that is not recorded, and for the current cohort.
-/
namespace Sys2Proof.Machine

/-! ## Recording -/

/-- Whether a context is recorded depends on the record unit and the context alone (R392). -/
theorem State.recording_congr {s t : State} (h1 : t.dev = s.dev) (h2 : t.cx.asid = s.cx.asid) : t.recording = s.recording := by
  unfold State.recording State.recLive State.recMode; rw [h1, h2]

theorem State.log_off (s : State) (k p : Nat) (h : s.recording = false) : s.log k p = s := by
  unfold State.log; rw [if_neg (by simp [h])]
theorem State.logPlace_off (s : State) (k p : Nat) (h : s.recording = false) : s.logPlace k p = s := by
  unfold State.logPlace; rw [if_neg (by simp [h])]
theorem State.logWrite_off (s : State) (a : Nat) (bs : List Byte) (h : s.recording = false) : s.logWrite a bs = s := by
  unfold State.logWrite; rw [if_neg (by simp [h])]
theorem State.logSrKey_off (s : State) (h : s.cx.srStale.contains (s.co.dseq, s.me.j) = false) : s.logSrKey = s := by
  unfold State.logSrKey State.srNear; dsimp only; rw [if_neg (by rw [h]; simp)]

/-! ## The current cohort, company and context -/

theorem State.focus_at (s : State) (d j : Nat) (h : s.isAt d j = true) : s.focus d j = s := by
  unfold State.isAt at h
  unfold State.focus
  simp only [Bool.and_eq_true, bne_iff_ne, beq_iff_eq, ne_eq] at h
  rw [if_pos ⟨h.1.1.1, h.1.1.2, h.1.2, h.2⟩]

/-- An operation on the current cohort happens where it stands. -/
theorem State.onCohort_at (s : State) (d j : Nat) (f : State → State) (h : s.isAt d j = true) : s.onCohort d j f = f s := by
  unfold State.onCohort
  rw [State.focus_at s d j h]
  simp [h]

end Sys2Proof.Machine
end

