-- ==== Sys2Proof/Laws/Control.lean ====
section
/-!
SUPPORT. What translating and fetching leave of the state, and what a queue-level trap leaves.
-/
namespace Sys2Proof.Machine

/-! ## Translating and fetching -/

theorem Looked.trans {a b c : Device} (h : Looked a b) (k : Looked b c) : Looked a c := by
  induction h with
  | same => exact k
  | look asid priv acc r va _ ih => exact .look asid priv acc r va (ih k)

theorem LookedAt.refl (s : State) : LookedAt s s := ⟨.same _, rfl⟩

theorem LookedAt.trans {s u t : State} (h : LookedAt s u) (k : LookedAt u t) : LookedAt s t := by
  refine ⟨h.dev.trans k.dev, ?_⟩
  have h1 : t = { u with dev := t.dev } := by rw [← k.rest]
  have h2 : u = { s with dev := u.dev } := by rw [← h.rest]
  rw [h1, h2]

/-- A translation of the current state's device is all that a parcel's fetch does (R46). -/
theorem State.fetchParcel_looked (s : State) (p : Bool) (va : Nat) : LookedAt s (s.fetchParcel p va).1 := by
  unfold State.fetchParcel
  have h : LookedAt s { s with dev := (translate s.dev s.co.asid p .fetch .plain va).1 } := ⟨.look _ _ _ _ _ (.same _), rfl⟩
  dsimp only
  split <;> exact h

theorem State.fetchWord_looked (s : State) (p : Bool) (va : Nat) : LookedAt s (s.fetchWord p va).1 := by
  unfold State.fetchWord
  have h := s.fetchParcel_looked p va
  generalize s.fetchParcel p va = x at h
  obtain ⟨a, b⟩ := x
  cases b with
  | none => exact h
  | some q =>
    have k := a.fetchParcel_looked p (va + 2)
    dsimp only
    generalize a.fetchParcel p (va + 2) = y at k
    obtain ⟨c, d⟩ := y
    cases d <;> exact h.trans k

/-- The word of a header (R209), by its bits. -/
theorem isHeader_iff (w : Word) : isHeader w = true ↔ w.getLsbD 0 = true ∧ w.extractLsb' 2 6 = 0#6 := by
  unfold isHeader; rw [Bool.and_eq_true, beq_iff_eq]; exact And.comm

/-! ## Trap registers -/

theorem vaddr_lo (pc : VAddr) : BitVec.ofNat 32 pc.toNat = pc.extractLsb' 0 32 := by
  apply BitVec.eq_of_toNat_eq; simp [BitVec.extractLsb'_toNat]
theorem vaddr_hi (pc : VAddr) : BitVec.ofNat 32 (pc.toNat / 2 ^ 32) = (pc.extractLsb' 32 24).setWidth 32 := by
  apply BitVec.eq_of_toNat_eq
  have := pc.isLt
  simp only [BitVec.toNat_ofNat, BitVec.extractLsb'_toNat, BitVec.toNat_setWidth, Nat.shiftRight_eq_div_pow]
  omega

/-- What the trap registers hold after an entry or a stop (Table 14-3). -/
theorem Cohort.trapRegs_get (c : Cohort) (cls code sub : Nat) (m : Mask) (imm : Nat) (pc : VAddr) (i : Nat) :
    (c.trapRegs cls code sub m imm pc).crget i =
      if i = 0x58 then c.clause else if i = 0x57 then BitVec.ofNat 32 imm else if i = 0x56 then m.extractLsb' 32 32
      else if i = 0x55 then m.extractLsb' 0 32 else if i = 0x54 then c.em.extractLsb' 32 32 else if i = 0x53 then c.em.extractLsb' 0 32
      else if i = 0x52 then (pc.extractLsb' 32 24).setWidth 32 else if i = 0x51 then pc.extractLsb' 0 32
      else if i = 0x50 then tcause cls code sub else c.crget i := by
  unfold Cohort.trapRegs
  simp only [Cohort.crget_crput, lo32_eq, hi32_eq, vaddr_lo, vaddr_hi]

theorem Cohort.crput_rest {c d : Cohort} (i : Nat) (x : Word) (h : { d with cr := c.cr } = c) : { (d.crput i x) with cr := c.cr } = c := h

/-- The trap registers are all that they write. -/
theorem Cohort.trapRegs_rest (c : Cohort) (cls code sub : Nat) (m : Mask) (imm : Nat) (pc : VAddr) :
    { (c.trapRegs cls code sub m imm pc) with cr := c.cr } = c := by
  unfold Cohort.trapRegs
  iterate 9 apply Cohort.crput_rest
  rfl

/-- A cohort that differs from another in control registers alone. -/
theorem Cohort.cr_only {c d : Cohort} (h : { c with cr := d.cr } = d) : c = { d with cr := c.cr } :=
  congrArg (fun x : Cohort => { x with cr := c.cr }) h

/-- A queue-level trap in a context that is not recorded (R375). -/
theorem State.queueTrap_does (s : State) (code sub : Nat) (m : Mask) (imm : Nat) (h : s.recording = false) :
    Trapped s (s.queueTrap code sub m imm) code sub m imm := by
  have g := Cohort.trapRegs_get s.me 2 code sub m imm s.me.pc
  have k := Cohort.trapRegs_rest s.me 2 code sub m imm s.me.pc
  unfold State.queueTrap
  generalize s.me.trapRegs 2 code sub m imm s.me.pc = c at g k
  dsimp only
  rw [State.log_off]
  rotate_left
  · rw [← h]; exact State.recording_congr rfl rfl
  have k2 : { c with stat := s.me.stat, wait := s.me.wait, cr := s.me.cr } = s.me := by rw [← k]
  have k3 : s.me.j = c.j ∧ s.me.wid = c.wid := by rw [← k]; exact ⟨rfl, rfl⟩
  refine ⟨rfl, rfl, ?_, ?_, ?_, ?_, ?_, ?_, ?_, k2, ?_, rfl, rfl, rfl, rfl⟩
  · exact (g _).trans (by simp [tcause])
  · exact ⟨(g _).trans (by simp), (g _).trans (by simp)⟩
  · exact ⟨(g _).trans (by simp), (g _).trans (by simp)⟩
  · exact ⟨(g _).trans (by simp), (g _).trans (by simp)⟩
  · exact (g _).trans (by simp)
  · exact (g _).trans (by simp)
  · intro i hi
    refine (g _).trans ?_
    rw [if_neg (by omega), if_neg (by omega), if_neg (by omega), if_neg (by omega), if_neg (by omega), if_neg (by omega),
      if_neg (by omega), if_neg (by omega), if_neg (by omega)]
  · rw [k3.1, k3.2]

/-- A #PF, #ADR or fetch trap is NESTED at supervisor privilege (R51). -/
theorem State.accessTrap_user (s : State) (code sub : Nat) (m : Mask) (h : s.me.priv = false) :
    s.accessTrap code sub m = s.queueTrap code sub m 0 := by
  unfold State.accessTrap; rw [if_neg (by simp [h])]
theorem State.accessTrap_nested (s : State) (code sub : Nat) (m : Mask) (h : s.me.priv = true) (hc : code = 2 ∨ code = 4) :
    s.accessTrap code sub m = s.queueTrap 4 10 m 0 := by
  unfold State.accessTrap; rw [if_pos ⟨h, hc⟩]

/-- The device after only A and D of leaves, what the halls see of them, and the TLB may have changed. -/
def Device.unwalked (d e : Device) : Device := { e with mem := d.mem, bad := d.bad, cell := d.cell, halls := d.halls, tlb := d.tlb }

theorem unwalked_store (d e : Device) (a n v : Nat) : d.unwalked (e.store a n v) = d.unwalked e := by
  unfold Device.store Device.putP Device.put
  split <;> rfl
theorem unwalked_touchLeaf (d e : Device) (acc : Acc) (addr raw : Nat) : d.unwalked (touchLeaf e acc addr raw) = d.unwalked e := by
  unfold touchLeaf
  split
  · rfl
  · exact unwalked_store ..

/-- A walk changes leaves and what the halls see of them, nothing else (R36). -/
theorem unwalked_walkTouch (d : Device) (asid va : Nat) (acc : Acc) : ∀ n e, d.unwalked (walkTouch asid va acc n e).1 = d.unwalked e := by
  intro n
  induction n with
  | zero => intro e; rfl
  | succ n ih =>
    intro e
    unfold walkTouch
    split
    · split
      · rfl
      · split
        · exact unwalked_touchLeaf ..
        · rw [ih]; rfl
    · rfl

/-- Translating writes memory (A and D of leaves) and the TLB, and nothing else of the device (R36, R37). -/
theorem unwalked_translate (d : Device) (asid : Nat) (priv : Bool) (acc : Acc) (r : Reach) (va : Nat) :
    d.unwalked (translate d asid priv acc r va).1 = d := by
  have k := unwalked_walkTouch d asid va acc (d.queued + 1) d
  have keep : ∀ e x, d.unwalked (tlbKeep e x) = d.unwalked e := by intro e x; unfold tlbKeep; split <;> rfl
  unfold translate
  generalize walkTouch asid va acc (d.queued + 1) d = p at k
  split
  · rfl
  split
  · rfl
  split
  · rfl
  dsimp only
  split
  · exact k
  · exact k
  · exact k
  · cases permits acc _ _ _
    · exact k
    · exact (keep ..).trans k

theorem Looked.frame {d e : Device} (h : Looked d e) : d.unwalked e = d := by
  induction h with
  | same => rfl
  | @look d e asid priv acc r va _ ih =>
    have k := unwalked_translate d asid priv acc r va
    generalize (translate d asid priv acc r va).1 = f at *
    unfold Device.unwalked at *
    rw [← ih] at k
    exact k

/-- Translating leaves the control registers and the record unit (R36, R37). -/
theorem Looked.ctrl {d e : Device} (h : Looked d e) : e.ctrl = d.ctrl ∧ e.recUnit = d.recUnit :=
  ⟨(congrArg Device.ctrl h.frame : _), (congrArg Device.recUnit h.frame : _)⟩

theorem LookedAt.recording {s u : State} (h : LookedAt s u) : u.recording = s.recording := by
  have e : u = { s with dev := u.dev } := by rw [← h.rest]
  have hr : ∀ o, u.dev.reg o = s.dev.reg o := fun o => by unfold Device.reg; rw [h.dev.ctrl.1]
  have hc : u.cx = s.cx := by rw [e]
  unfold State.recording State.recLive State.recMode
  rw [hr, h.dev.ctrl.2, hc]

end Sys2Proof.Machine
end

