-- ==== Sys2Proof/Laws/Lane.lean ====
section
/-!
SUPPORT. What the shared operations of lane and scalar instructions do, said once.
-/
namespace Sys2Proof.Machine

@[simp] theorem Cohort.freeAll_cons (c : Cohort) (r : Nat) (rs : List Nat) : c.freeAll (r :: rs) = (c.vfree r).freeAll rs := rfl
@[simp] theorem Cohort.freeAll_nil (c : Cohort) : c.freeAll [] = c := rfl

/-- A freed name reads zeros; every other name reads as before (R205, R206). -/
theorem Cohort.vget_freeAll (rs : List Nat) : ∀ (c : Cohort) (j : Nat), (c.freeAll rs).vget j = if j ∈ rs then VReg.zero else c.vget j := by
  induction rs with
  | nil => intro c j; simp
  | cons r rs ih =>
    intro c j
    rw [Cohort.freeAll_cons, ih, Cohort.vget_vfree]
    by_cases h : j ∈ rs
    · simp [h]
    · by_cases k : j = r
      · simp [k]
      · simp [h, k]

theorem Cohort.allocated_freeAll (rs : List Nat) : ∀ (c : Cohort) (j : Nat), (c.freeAll rs).allocated j = if j ∈ rs then false else c.allocated j := by
  induction rs with
  | nil => intro c j; simp
  | cons r rs ih =>
    intro c j
    rw [Cohort.freeAll_cons, ih, Cohort.allocated_vfree]
    by_cases h : j ∈ rs
    · simp [h]
    · by_cases k : j = r
      · simp [k]
      · simp [h, k]

/-- Freeing names moves nothing of the cohort but its vector names. -/
theorem Cohort.freeAll_eq (rs : List Nat) : ∀ (c : Cohort), c.freeAll rs = { c with v := (c.freeAll rs).v } := by
  induction rs with
  | nil => intro c; rfl
  | cons r rs ih => intro c; rw [Cohort.freeAll_cons]; have := ih (c.vfree r); rw [this]; rfl

/-- UNALLOC moves nothing of the cohort but cr.diag. -/
theorem Cohort.unalloc_eq (c : Cohort) (b : Bool) : c.unalloc b = { c with cr := (c.unalloc b).cr } := by
  unfold Cohort.unalloc; split <;> rfl

@[simp] theorem Cohort.vget_unalloc (c : Cohort) (b : Bool) (j : Nat) : (c.unalloc b).vget j = c.vget j := by
  rw [Cohort.unalloc_eq]; rfl
@[simp] theorem Cohort.allocated_unalloc (c : Cohort) (b : Bool) (j : Nat) : (c.unalloc b).allocated j = c.allocated j := by
  rw [Cohort.unalloc_eq]; rfl

theorem Cohort.writeLanes_eq (c : Cohort) (d : Nat) (m : Mask) (full : Bool) (f : Nat → Word) :
    c.writeLanes d m full f = { c with v := (c.writeLanes d m full f).v } := by
  unfold Cohort.writeLanes; split <;> rfl

/-- A write of the lanes of a mask (R207, R381). -/
theorem Cohort.vget_writeLanes (c : Cohort) (d : Nat) (m : Mask) (full : Bool) (f : Nat → Word) (j : Nat) :
    (c.writeLanes d m full f).vget j = if j = d ∧ m ≠ 0#64 then
      (if full then (c.vget d).merge m f else { (c.vget d).merge m f with poison := (c.vget d).poison }) else c.vget j := by
  unfold Cohort.writeLanes
  by_cases h : m = 0#64
  · rw [if_pos h, if_neg (by simp [h])]
  · rw [if_neg h]
    simp only [Cohort.vget_vput]
    by_cases k : j = d <;> simp [k, h]

theorem Cohort.allocated_writeLanes (c : Cohort) (d : Nat) (m : Mask) (full : Bool) (f : Nat → Word) (j : Nat) :
    (c.writeLanes d m full f).allocated j = if j = d ∧ m ≠ 0#64 then true else c.allocated j := by
  unfold Cohort.writeLanes
  by_cases h : m = 0#64
  · rw [if_pos h, if_neg (by simp [h])]
  · rw [if_neg h]
    simp only [Cohort.allocated_vput]
    by_cases k : j = d <;> simp [k, h]

@[simp] theorem State.countLanes_me (s : State) (u : Bool) (k : Option (Nat × Nat)) : (s.countLanes u k).me = s.me := by
  unfold State.countLanes; split <;> simp
@[simp] theorem State.countLanes_co (s : State) (u : Bool) (k : Option (Nat × Nat)) : (s.countLanes u k).co = s.co := by
  unfold State.countLanes; split <;> simp
@[simp] theorem State.countLanes_dev (s : State) (u : Bool) (k : Option (Nat × Nat)) : (s.countLanes u k).dev = s.dev := by
  unfold State.countLanes; split <;> simp
@[simp] theorem State.countLanes_turns (s : State) (u : Bool) (k : Option (Nat × Nat)) : (s.countLanes u k).turns = s.turns := by
  unfold State.countLanes; split <;> simp
@[simp] theorem State.countLanes_free (s : State) (u : Bool) (k : Option (Nat × Nat)) : (s.countLanes u k).free = s.free := by
  unfold State.countLanes; split <;> simp
theorem State.countLanes_cx (s : State) (u : Bool) (k : Option (Nat × Nat)) :
    (s.countLanes u k).cx = { s.cx with cnt := (s.countLanes u k).cx.cnt, sat := (s.countLanes u k).cx.sat } := by
  unfold State.countLanes; split
  · exact State.count_cx ..
  · rfl

/-- A lane instruction that may execute does: `laneThen` with a job that replaces whole words. -/
theorem laneThen_ready (j : LaneJob) (after : State → State) (s : State) (h : LaneReady s j.u j.vs j.ss j.frees j.d) :
    laneThen j after s = after (((s.setMe (s.me.laneStep j)).countLanes j.u j.cnt).retire j.n) := by
  unfold laneThen
  have h1 : ¬ (s.me.mce j.u j.vs j.ss ≠ 0#64) := by simp [h.clean]
  simp only [h1, if_false]
  rw [if_neg]
  rintro ⟨a, b, c⟩
  rcases h.room with r | r | r
  · exact a r
  · rw [b] at r; cases r
  · rw [c] at r; cases r

theorem laneStep_done (j : LaneJob) (s : State) :
    LaneDone s (((s.setMe (s.me.laneStep j)).countLanes j.u j.cnt).retire j.n) j.n j.d j.vs j.frees j.full
      (fun i => j.put ((s.me.vget j.d).lane i) (j.res (s.me.src j.u i))) := by
  have hfr : ((s.me.unalloc (s.me.misses j.vs)).freeAll j.frees).vget j.d = if j.d ∈ j.frees then VReg.zero else s.me.vget j.d := by
    rw [Cohort.vget_freeAll, Cohort.vget_unalloc]
  have e : s.me.laneStep j = (((s.me.unalloc (s.me.misses j.vs)).freeAll j.frees).writeLanes j.d s.me.act j.full
      fun i => j.put ((s.me.vget j.d).lane i) (j.res (s.me.src j.u i))) := by
    rfl
  generalize hF : (fun i => j.put ((s.me.vget j.d).lane i) (j.res (s.me.src j.u i))) = F at e ⊢
  have hv : ∀ r, (s.me.laneStep j).vget r = if r = j.d ∧ s.me.act ≠ 0#64 then
      (if j.full then (if j.d ∈ j.frees then VReg.zero else s.me.vget j.d).merge s.me.act F else
        { (if j.d ∈ j.frees then VReg.zero else s.me.vget j.d).merge s.me.act F with
          poison := (if j.d ∈ j.frees then VReg.zero else s.me.vget j.d).poison })
      else if r ∈ j.frees then VReg.zero else s.me.vget r := by
    intro r; rw [e, Cohort.vget_writeLanes, Cohort.vget_freeAll _ _ r, Cohort.vget_unalloc, hfr]
  have hl : ∀ (b : Bool) (x : VReg) (q : Mask) (i : Nat), (if b then x else { x with poison := q }).lane i = x.lane i := by
    intro b x q i; cases b <;> rfl
  have ha : ∀ r, (s.me.laneStep j).allocated r = if r = j.d ∧ s.me.act ≠ 0#64 then true else if r ∈ j.frees then false else s.me.allocated r := by
    intro r; rw [e, Cohort.allocated_writeLanes, Cohort.allocated_freeAll, Cohort.allocated_unalloc]
  have vr : ∀ (c : Cohort) (k r : Nat), (c.retire k).vget r = c.vget r := fun _ _ _ => rfl
  have ar : ∀ (c : Cohort) (k r : Nat), (c.retire k).allocated r = c.allocated r := fun _ _ _ => rfl
  have hc : s.me.laneStep j = { s.me with v := (s.me.laneStep j).v, cr := (s.me.unalloc (s.me.misses j.vs)).cr } := by
    rw [e, Cohort.writeLanes_eq, Cohort.freeAll_eq, Cohort.unalloc_eq]
  refine ⟨⟨?_, ?_, ?_⟩, ⟨?_, ?_, ?_, ?_, ?_, ?_⟩, ?_, ?_, ?_, ?_, ?_, ?_, ?_, ?_⟩
  · simp only [State.retire_me, State.countLanes_me, State.setMe_me, Cohort.retire_pc]; rw [hc]
  · simp only [State.retire_me, State.countLanes_me, State.setMe_me, Cohort.retire_icount]; rw [hc]
  · rfl
  · simp
  · simp
  · simp
  · simp only [State.retire_cx]; rw [State.countLanes_cx]; rfl
  · simp
  · simp
  · intro i hi hb
    simp only [State.retire_me, State.countLanes_me, State.setMe_me, vr, hv]
    have hz : s.me.act ≠ 0#64 := by intro hz; rw [hz] at hb; simp at hb
    rw [if_pos (by simp [hz]), hl, VReg.lane_merge _ _ _ hi, if_pos hb]
  · intro i hi hb
    simp only [State.retire_me, State.countLanes_me, State.setMe_me, vr, hv]
    by_cases hz : s.me.act = 0#64
    · rw [if_neg (by simp [hz])]; split
      · exact VReg.lane_zero i
      · rfl
    · rw [if_pos (by simp [hz]), hl, VReg.lane_merge _ _ _ hi, if_neg (by simp [hb])]
      split
      · exact VReg.lane_zero i
      · rfl
  · simp only [State.retire_me, State.countLanes_me, State.setMe_me, vr, hv]
    have hn : ~~~(0#64) = BitVec.allOnes 64 := rfl
    by_cases hz : s.me.act = 0#64
    · rw [if_neg (by simp [hz]), hz, ite_self, hn, BitVec.and_allOnes]; split <;> rfl
    · rw [if_pos (by simp [hz])]
      cases j.full
      · simp only [Bool.false_eq_true, if_false, hn, BitVec.and_allOnes]; split <;> rfl
      · simp only [if_true, VReg.poison_merge]; split <;> rfl
  · intro hz
    simp only [State.retire_me, State.countLanes_me, State.setMe_me, ar, ha]; rw [if_pos (by simp [hz])]
  · intro r hr hd
    simp only [State.retire_me, State.countLanes_me, State.setMe_me, ar, ha]; rw [if_neg (by simp [hd]), if_pos hr]
  · intro r hd hr
    simp only [State.retire_me, State.countLanes_me, State.setMe_me, ar, ha, vr, hv]
    rw [if_neg (by simp [hd]), if_neg hr, if_neg (by simp [hd]), if_neg hr]; exact ⟨rfl, rfl⟩
  · simp only [State.retire_me, State.countLanes_me, State.setMe_me, Cohort.retire_cr]; rw [hc]
  · simp only [State.retire_me, State.countLanes_me, State.setMe_me]; rw [hc]; rfl

/-- What `laneOp` does where it may execute. -/
theorem laneOp_done (j : LaneJob) (s : State) (h : LaneReady s j.u j.vs j.ss j.frees j.d) :
    LaneDone s (laneOp j s) j.n j.d j.vs j.frees j.full
      (fun i => j.put ((s.me.vget j.d).lane i) (j.res (s.me.src j.u i))) := by
  unfold laneOp; rw [laneThen_ready j id s h]; exact laneStep_done j s

theorem lane2_does {mk : Lane2 → Instr} {k : Option (Nat × Nat)} {f : Word → Word → Word}
    (h : ∀ o s, exec (mk o) s = .next (lane2 k f o s)) : Lane2Does mk f :=
  fun o s hr => ⟨_, h o s, laneOp_done _ s hr⟩

theorem lane3_does {mk : Lane2 → Instr} {k : Option (Nat × Nat)} {f : Word → Word → Word → Word}
    (h : ∀ o s, exec (mk o) s = .next (lane3 k f o s)) : Lane3Does mk f :=
  fun o s hr => ⟨_, h o s, laneOp_done _ s hr⟩

theorem lane1_does {mk : Lane1 → Instr} {k : Option (Nat × Nat)} {f : Word → Word}
    (h : ∀ o s, exec (mk o) s = .next (lane1 k f o s)) : Lane1Does mk f :=
  fun o s hr => ⟨_, h o s, laneOp_done _ s hr⟩

theorem half2_does {mk : Op16 → Instr} {k : Option (Nat × Nat)} {f : Word → Word → Word}
    (h : ∀ o s, exec (mk o) s = .next (half2 k f o s)) : ShortDoes mk f :=
  fun o s hr => ⟨_, h o s, laneOp_done _ s hr⟩

theorem half1_does {mk : Op16 → Instr} {k : Option (Nat × Nat)} {f : Word → Word}
    (h : ∀ o s, exec (mk o) s = .next (half1 k f o s)) : Short1Does mk f :=
  fun o s hr => ⟨_, h o s, laneOp_done _ s hr⟩

end Sys2Proof.Machine
end

