-- ==== Sys2Proof/Laws/Scalar.lean ====
section
/-!
SUPPORT. What the shared operations on predicates, scalars, shuffles and reductions do, said once.
-/
namespace Sys2Proof.Machine

/-- The mask of a list of lanes. -/
theorem maskOf_getLsbD (ls : List Nat) (i : Nat) (h : i < 64) : (maskOf ls).getLsbD i = decide (i ∈ ls) := by
  have key : ∀ (ls : List Nat) (m : Mask), (ls.foldl (fun m i => m ||| (1#64 <<< i)) m).getLsbD i = (m.getLsbD i || decide (i ∈ ls)) := by
    intro ls
    induction ls with
    | nil => intro m; simp
    | cons l ls ih =>
      intro m
      rw [List.foldl_cons, ih]
      by_cases e : i = l
      · subst e; simp [h]
      · have e' : ¬ (i < l) → i - l ≠ 0 := by omega
        by_cases k : i < l
        · simp [e, k]
        · simp [e, k, e' k, h]
  unfold maskOf
  rw [key]; simp

/-- Bit `i` of `bitsOf f` is `f i`. -/
theorem bitsOf_getLsbD (f : Nat → Bool) (i : Nat) (h : i < 64) : (bitsOf f).getLsbD i = f i := by
  unfold bitsOf; rw [maskOf_getLsbD _ _ h]; simp [h]

theorem Cohort.vget_pput (c : Cohort) (d : Nat) (x : Mask) (r : Nat) : (c.pput d x).vget r = c.vget r := by
  unfold Cohort.pput; split <;> rfl
theorem Cohort.allocated_pput (c : Cohort) (d : Nat) (x : Mask) (r : Nat) : (c.pput d x).allocated r = c.allocated r := by
  unfold Cohort.pput; split <;> rfl
theorem Cohort.pput_eq (c : Cohort) (d : Nat) (x : Mask) : c.pput d x = { c with p := (c.pput d x).p } := by
  unfold Cohort.pput; split <;> rfl
theorem Cohort.pget_zero (c : Cohort) : c.pget 0 = BitVec.allOnes 64 := by simp [Cohort.pget]
theorem Cohort.pget_of_p {c e : Cohort} (h : c.p = e.p) (r : Nat) : c.pget r = e.pget r := by unfold Cohort.pget; rw [h]

/-- What a write of the active lanes' bits of a predicate leaves (R207, R230). -/
theorem Cohort.pget_writeBits (c : Cohort) (d : Nat) (f : Nat → Bool) (p i : Nat) (h : i < 64) :
    ((c.writeBits d f).pget p).getLsbD i =
      if p = 0 then true else if p = d ∧ c.act.getLsbD i = true then f i else (c.pget p).getLsbD i := by
  unfold Cohort.writeBits
  rw [Cohort.pget_pput]
  by_cases h0 : p = 0
  · rw [if_pos h0, if_pos h0, BitVec.getLsbD_allOnes]; simp [h]
  · rw [if_neg h0, if_neg h0]
    by_cases hd : p = d
    · subst hd
      simp only [BitVec.getLsbD_or, BitVec.getLsbD_and, BitVec.getLsbD_not, bitsOf_getLsbD _ _ h, if_true, true_and]
      cases c.act.getLsbD i <;> simp [h]
    · rw [if_neg hd, if_neg (by simp [hd])]

/-- Freeing names and UNALLOC. -/
theorem freed_of (s : State) (vs frees : List Nat) (t : State)
    (hv : t.me.v = ((s.me.unalloc (s.me.misses vs)).freeAll frees).v) (hc : t.me.cr = (s.me.unalloc (s.me.misses vs)).cr) :
    Freed s t vs frees := by
  have hg : ∀ r, t.me.vget r = ((s.me.unalloc (s.me.misses vs)).freeAll frees).vget r := by
    intro r; unfold Cohort.vget; rw [hv]
  have ha : ∀ r, t.me.allocated r = ((s.me.unalloc (s.me.misses vs)).freeAll frees).allocated r := by
    intro r; unfold Cohort.allocated; rw [hv]
  refine ⟨?_, ?_, hc⟩
  · intro r hr; rw [ha, Cohort.allocated_freeAll, if_pos hr]
  · intro r hr
    rw [hg, ha, Cohort.allocated_freeAll, if_neg hr, Cohort.vget_freeAll, if_neg hr]; simp

/-- Counting and retiring touch nothing else. -/
theorem inside_of (s : State) (c : Cohort) (u : Bool) (k : Option (Nat × Nat)) (n : Nat) :
    Inside s (((s.setMe c).countLanes u k).retire n) := by
  refine ⟨?_, ?_, ?_, ?_, ?_, ?_⟩
  · simp
  · simp
  · simp
  · simp only [State.retire_cx]; rw [State.countLanes_cx]; rfl
  · simp
  · simp

theorem inside_plain (s : State) (c : Cohort) (n : Nat) : Inside s ((s.setMe c).retire n) :=
  ⟨rfl, fun _ => rfl, rfl, rfl, rfl, rfl⟩

theorem cmpOp_does {mk : Lane2 → Instr} {k : Option (Nat × Nat)} {f : Word → Word → Bool} {P : Word → Word → Prop}
    (h : ∀ o s, exec (mk o) s = .next (cmpOp k f o s)) (hf : ∀ a b, f a b = true ↔ P a b) : CompareDoes mk P := by
  intro o s hm
  refine ⟨_, h o s, ?_⟩
  unfold cmpOp
  simp only [hm, ne_eq, not_true_eq_false, if_false]
  change Retired s (((s.setMe _).countLanes o.u k).retire o.b.len) _ ∧ _
  have hc1 : (s.me.unalloc (s.me.misses (o.a.toNat :: o.b.vs))).freeAll
      ((if o.ma then [o.a.toNat] else []) ++ (if o.mb then o.b.vs else [])) =
      (s.me.unalloc (s.me.misses (o.a.toNat :: o.b.vs))).freeAll (marks2 o) := rfl
  rw [hc1]; clear hc1
  generalize hc1 : (s.me.unalloc (s.me.misses (o.a.toNat :: o.b.vs))).freeAll (marks2 o) = c1
  generalize hg : (fun i => f ((s.me.vget o.a.toNat).lane (s.me.src o.u i)) (o.b.rd s.me (s.me.src o.u i))) = g
  have e1 : c1 = { s.me with v := c1.v, cr := (s.me.unalloc (s.me.misses (o.a.toNat :: o.b.vs))).cr } := by
    rw [← hc1, Cohort.freeAll_eq, Cohort.unalloc_eq]
  have e2 : c1.writeBits o.d.toNat g = { s.me with v := c1.v, cr := (s.me.unalloc (s.me.misses (o.a.toNat :: o.b.vs))).cr, p := (c1.writeBits o.d.toNat g).p } := by
    have : c1.writeBits o.d.toNat g = { c1 with p := (c1.writeBits o.d.toNat g).p } := Cohort.pput_eq ..
    rw [this, e1]
  have hp : ∀ p, c1.pget p = s.me.pget p := by intro p; apply Cohort.pget_of_p; rw [e1]
  have ha : c1.act = s.me.act := by unfold Cohort.act Cohort.present; rw [e1]
  have hw : ∀ p i, i < 64 → ((((s.setMe (c1.writeBits o.d.toNat g)).countLanes o.u k).retire o.b.len).me.pget p).getLsbD i =
      if p = 0 then true else if p = o.d.toNat ∧ s.me.act.getLsbD i = true then g i else (s.me.pget p).getLsbD i := by
    intro p i hi
    have : (((s.setMe (c1.writeBits o.d.toNat g)).countLanes o.u k).retire o.b.len).me.pget p = (c1.writeBits o.d.toNat g).pget p := by
      apply Cohort.pget_of_p; simp
    rw [this, Cohort.pget_writeBits _ _ _ _ _ hi, ha, hp]
  refine ⟨⟨?_, ?_, ?_⟩, inside_of .., ?_, ?_, ?_, ?_, ?_, ?_⟩
  · simp only [State.retire_me, State.countLanes_me, State.setMe_me, Cohort.retire_pc]; rw [e2]
  · simp only [State.retire_me, State.countLanes_me, State.setMe_me, Cohort.retire_icount]; rw [e2]
  · rfl
  · apply freed_of
    · simp only [State.retire_me, State.countLanes_me, State.setMe_me, Cohort.retire_v]; rw [e2, hc1]
    · simp only [State.retire_me, State.countLanes_me, State.setMe_me, Cohort.retire_cr]; rw [e2]
  · intro i hi hb hd
    rw [hw _ _ hi, if_neg hd, if_pos ⟨rfl, hb⟩, ← hg]; exact hf _ _
  · intro i hi hb
    rw [hw _ _ hi]
    by_cases hd : o.d.toNat = 0
    · rw [hd, if_pos rfl, Cohort.pget_zero, BitVec.getLsbD_allOnes]; simp [hi]
    · rw [if_neg hd, if_neg (by simp [hb])]
  · intro p hpd
    apply BitVec.eq_of_getLsbD_eq
    intro i hi
    rw [hw _ _ hi]
    by_cases h0 : p = 0
    · rw [h0, if_pos rfl, Cohort.pget_zero, BitVec.getLsbD_allOnes]; simp [hi]
    · rw [if_neg h0, if_neg (by simp [hpd])]
  · exact Cohort.pget_zero _
  · simp only [State.retire_me, State.countLanes_me, State.setMe_me]; rw [e2]; rfl

/-! ## Scalars -/

theorem one_shl_getLsbD (d r : Nat) (h : r < 64) : (1#64 <<< d).getLsbD r = decide (r = d) := by
  by_cases e : r = d
  · subst e; simp [h]
  · by_cases k : r < d
    · simp [e, k]
    · have : r - d ≠ 0 := by omega
      simp [e, k, this]

theorem Cohort.spoison_sput (c : Cohort) (d : Nat) (x : Word) (r : Nat) (h : r < 64) :
    (c.sput d x).spoison r = (c.spoison r && decide (r ≠ d)) := by
  unfold Cohort.spoison Cohort.sput
  simp only [BitVec.getLsbD_and, BitVec.getLsbD_not, one_shl_getLsbD _ _ h]; simp [h]

theorem Cohort.sput_eq (c : Cohort) (d : Nat) (x : Word) : c.sput d x = { c with s := (c.sput d x).s, sp := (c.sput d x).sp } := rfl

/-- What a scalar operation does where its sources hold no poison. -/
theorem scalarOp_ready (n : Nat) (ss : List Nat) (f : Cohort → Cohort) (s : State) (h : ∀ r ∈ ss, s.me.spoison r = false) :
    scalarOp n ss f s = (s.setMe (f s.me)).retire n := by
  unfold scalarOp
  rw [if_neg]
  simpa using h

theorem scalarFrame_of (s : State) (x : Store Word) (m : Mask) (n : Nat) :
    ScalarFrame s ((s.setMe { s.me with s := x, sp := m }).retire n) n :=
  ⟨⟨rfl, rfl, rfl⟩, inside_plain s _ n, rfl⟩

theorem scalar1_of (s : State) (d n : Nat) (x : Word) : ScalarFrame s ((s.setMe (s.me.sput d x)).retire n) n ∧
    Scalar1 s ((s.setMe (s.me.sput d x)).retire n) d x := by
  refine ⟨scalarFrame_of s (s.me.sput d x).s (s.me.sput d x).sp n, ?_, ?_, ?_⟩
  · change (s.me.sput d x).sget d = x; simp
  · intro r hr; change (s.me.sput d x).sget r = _; simp [hr]
  · intro r hr; exact Cohort.spoison_sput s.me d x r hr

theorem scalar2_of (s : State) (d n : Nat) (x : DWord) : ScalarFrame s ((s.setMe (s.me.sput64 d x)).retire n) n ∧
    Scalar2 s ((s.setMe (s.me.sput64 d x)).retire n) d x := by
  have e : s.me.sput64 d x = { s.me with s := (s.me.sput64 d x).s, sp := (s.me.sput64 d x).sp } := rfl
  have hs : ∀ r, ((s.setMe (s.me.sput64 d x)).retire n).me.sget r = (s.me.sput64 d x).sget r := fun _ => rfl
  have hp : ∀ r, ((s.setMe (s.me.sput64 d x)).retire n).me.spoison r = (s.me.sput64 d x).spoison r := fun _ => rfl
  refine ⟨?_, ?_, ?_, ?_, ?_⟩
  · rw [e]; exact scalarFrame_of s _ _ n
  · rw [hs]; simp [Cohort.sput64, lo32_eq]
  · rw [hs]; simp [Cohort.sput64, hi32_eq]
  · intro r hr hr'; rw [hs]; simp [Cohort.sput64, hr, hr']
  · intro r hr; rw [hp]
    unfold Cohort.sput64
    rw [Cohort.spoison_sput _ _ _ _ hr, Cohort.spoison_sput _ _ _ _ hr]
    by_cases h1 : r = d <;> by_cases h2 : r = d + 1 <;> simp [h1, h2]

theorem salu_does {mk : Reg → Reg → SOp → Instr} {f : Word → Word → Word}
    (h : ∀ d a b s, exec (mk d a b) s = .next (salu f d a b s)) : ScalarDoes mk f := by
  intro d a b s hp
  refine ⟨_, h d a b s, ?_⟩
  unfold salu
  rw [scalarOp_ready _ _ _ _ hp]
  exact scalar1_of ..

/-- What the scalars hold is all that the statement of a pair reads. -/
theorem Scalar2.congr {s u t : State} {d : Nat} {x : DWord} (h : Scalar2 s u d x) (hs : t.me.s = u.me.s) (hp : t.me.sp = u.me.sp) :
    Scalar2 s t d x := by
  have e : ∀ r, t.me.sget r = u.me.sget r := fun r => by unfold Cohort.sget; rw [hs]
  have k : ∀ r, t.me.spoison r = u.me.spoison r := fun r => by unfold Cohort.spoison; rw [hp]
  exact ⟨(e _).trans h.low, (e _).trans h.high, fun r a b => (e r).trans (h.others r a b), fun r a => (k r).trans (h.poison r a)⟩
theorem Scalar1.congr {s u t : State} {d : Nat} {x : Word} (h : Scalar1 s u d x) (hs : t.me.s = u.me.s) (hp : t.me.sp = u.me.sp) :
    Scalar1 s t d x := by
  have e : ∀ r, t.me.sget r = u.me.sget r := fun r => by unfold Cohort.sget; rw [hs]
  have k : ∀ r, t.me.spoison r = u.me.spoison r := fun r => by unfold Cohort.spoison; rw [hp]
  exact ⟨(e _).trans h.value, fun r a => (e r).trans (h.others r a), fun r a => (k r).trans (h.poison r a)⟩

theorem salu64_does {mk : Reg → Reg → SOp → Instr} {f : DWord → DWord → DWord}
    (h : ∀ d a b s, exec (mk d a b) s = .next (salu64 f d a b s)) : ScalarPairDoes mk f := by
  intro d a s h0 h1
  refine ⟨fun b h2 h3 => ⟨_, h d a (.s b) s, ?_⟩, fun w => ⟨_, h d a (.lit w) s, ?_⟩⟩
  · unfold salu64
    rw [scalarOp_ready _ _ _ _ (by simp [pairOf, h0, h1, h2, h3])]
    exact scalar2_of ..
  · unfold salu64
    rw [scalarOp_ready _ _ _ _ (by simp [pairOf, h0, h1])]
    exact scalar2_of ..

theorem plogic_done (d : Reg) (f : Cohort → Mask) (s : State) : PredDone s (plogic d f s) d.toNat (f s.me) := by
  unfold plogic
  have e := Cohort.pput_eq s.me d.toNat (f s.me)
  have hp : ∀ r, ((s.setMe (s.me.pput d.toNat (f s.me))).retire 4).me.pget r = (s.me.pput d.toNat (f s.me)).pget r :=
    fun r => Cohort.pget_of_p rfl r
  refine ⟨⟨?_, ?_, rfl⟩, inside_plain .., ?_, ?_, ?_⟩
  · simp only [State.retire_me, State.setMe_me, Cohort.retire_pc]; rw [e]
  · simp only [State.retire_me, State.setMe_me, Cohort.retire_icount]; rw [e]
  · rw [hp, Cohort.pget_pput]; simp
  · intro r hr; rw [hp, Cohort.pget_pput, if_neg hr]
    by_cases h0 : r = 0
    · rw [h0, Cohort.pget_zero, if_pos rfl]
    · rw [if_neg h0]
  · simp only [State.retire_me, State.setMe_me]; rw [e]; rfl

/-! ## Shuffles and reductions -/

theorem Cohort.unalloc_cr (c e : Cohort) (h : c.cr = e.cr) (b : Bool) : (c.unalloc b).cr = (e.unalloc b).cr := by
  unfold Cohort.unalloc Cohort.crget Cohort.crput; cases b <;> simp [h]

/-- A lane instruction that names no vector source, followed by the note of reads of `vs` (R225). -/
theorem laneDone_unalloc (s t : State) (n d : Nat) (vs frees : List Nat) (full : Bool) (res : Nat → Word)
    (h : LaneDone s t n d [] frees full res) :
    LaneDone s (t.setMe (t.me.unalloc (s.me.misses vs))) n d vs frees full res := by
  have e := Cohort.unalloc_eq t.me (s.me.misses vs)
  have hcr : t.me.cr = s.me.cr := by rw [h.diag]; simp [Cohort.misses, Cohort.unalloc]
  refine ⟨⟨?_, ?_, ?_⟩, ⟨h.inside.dev, h.inside.byte, h.inside.co, h.inside.cx, h.inside.turns, h.inside.free⟩, ?_, ?_, ?_, ?_, ?_, ?_, ?_, ?_⟩
  · simp only [State.setMe_me]; rw [e]; exact h.retired.pc
  · simp only [State.setMe_me]; rw [e]; exact h.retired.icount
  · simp only [State.setMe_me]; rw [e]; exact h.retired.wait
  · intro i hi hb; simp only [State.setMe_me, Cohort.vget_unalloc]; exact h.active i hi hb
  · intro i hi hb; simp only [State.setMe_me, Cohort.vget_unalloc]; exact h.inactive i hi hb
  · simp only [State.setMe_me, Cohort.vget_unalloc]; exact h.poison
  · simp only [State.setMe_me, Cohort.allocated_unalloc]; exact h.named
  · simp only [State.setMe_me, Cohort.allocated_unalloc]; exact h.freed
  · intro r h1 h2; simp only [State.setMe_me, Cohort.vget_unalloc, Cohort.allocated_unalloc]; exact h.others r h1 h2
  · exact Cohort.unalloc_cr _ _ hcr _
  · simp only [State.setMe_me]; rw [e]; exact h.rest

theorem bitsOf_zero (f : Nat → Bool) (h : ∀ i, i < 64 → f i = false) : bitsOf f = 0#64 := by
  apply BitVec.eq_of_getLsbD_eq
  intro i hi; rw [bitsOf_getLsbD _ _ hi, h i hi]; simp

theorem shuffle_does {mk : Shfl → Instr} {one : Bool} {src pick : Nat → Nat → Nat}
    (h : ∀ o s, exec (mk o) s = .next (shuffle one src o s))
    (hs : ∀ i b, i < 64 → (if 64 ≤ src i b then i else src i b) = pick i b) : ShuffleDoes mk one pick := by
  intro o s pk frees hm hp hr
  refine ⟨_, h o s, ?_⟩
  unfold shuffle
  dsimp only
  obtain ⟨F, hF⟩ : ∃ F : Nat → Nat, (fun i => if 64 ≤ src i (o.b.rd s.me (if one then (lowestLane s.me.act).getD 0 else i)).toNat then i
    else src i (o.b.rd s.me (if one then (lowestLane s.me.act).getD 0 else i)).toNat) = F := ⟨_, rfl⟩
  have hF' : ∀ i, (if 64 ≤ src i (o.b.rd s.me (if one then (lowestLane s.me.act).getD 0 else i)).toNat then i
    else src i (o.b.rd s.me (if one then (lowestLane s.me.act).getD 0 else i)).toNat) = F i := fun i => congrFun hF i
  simp only [hF']
  have hpk : ∀ i, i < 64 → F i = pk i := by intro i hi; rw [← hF]; exact hs i _ hi
  have hz : bitsOf (fun i => s.me.act.getLsbD i && s.me.present.getLsbD (F i) && (s.me.vget o.a.toNat).poison.getLsbD (F i)) = 0#64 := by
    apply bitsOf_zero
    intro i hi
    cases ha : s.me.act.getLsbD i
    · rfl
    · cases hq : s.me.present.getLsbD (F i)
      · rfl
      · rw [hpk i hi] at hq ⊢; rw [hp i hi ha hq]; rfl
  rw [hm, hz]
  simp only [BitVec.or_zero, ne_eq, not_true_eq_false, if_false]
  rw [laneThen_ready _ _ _ ⟨by simp [Cohort.mce, Cohort.eats], hr⟩]
  have := laneDone_unalloc s _ _ _ (o.a.toNat :: o.b.vs) _ _ _ (laneStep_done (LaneJob.mk o.b.len false [] [] frees o.d.toNat true none
    (fun i => if s.me.present.getLsbD (F i) then (s.me.vget o.a.toNat).lane (F i) else 0#32) putWhole) s)
  refine ⟨this.retired, this.inside, ?_, this.inactive, this.poison, this.named, this.freed, this.others, this.diag, this.rest⟩
  intro i hi hb
  have := this.active i hi hb
  rw [← hpk i hi]
  exact this

theorem lred_does {mk : Reg → Reg → Bool → Instr} {f : List Word → Word}
    (h : ∀ d a ma s, exec (mk d a ma) s = .next (lred f d a ma s)) : ReduceDoes mk f := by
  intro d a ma s hm
  refine ⟨_, h d a ma s, ?_⟩
  unfold lred
  simp only [hm, ne_eq, not_true_eq_false, if_false]
  generalize hx : f ((lanesOf s.me.act).map (s.me.vget a.toNat).lane) = x
  have hx' : f (((List.range 64).filter fun i => s.me.act.getLsbD i).map fun i => (s.me.vget a.toNat).lane i) = x := hx
  rw [hx']
  generalize hc1 : (s.me.unalloc (s.me.misses [a.toNat])).freeAll (if ma then [a.toNat] else []) = c1
  have e1 : c1 = { s.me with v := c1.v, cr := (s.me.unalloc (s.me.misses [a.toNat])).cr } := by
    rw [← hc1, Cohort.freeAll_eq, Cohort.unalloc_eq]
  have e2 : c1.sput d.toNat x =
      { s.me with v := c1.v, cr := (s.me.unalloc (s.me.misses [a.toNat])).cr, s := (s.me.sput d.toNat x).s, sp := (s.me.sput d.toNat x).sp } := by
    rw [e1]; rfl
  have hg : ∀ r, (((s.setMe (c1.sput d.toNat x)).countLanes false (some (28, 1))).retire 4).me.sget r = (s.me.sput d.toNat x).sget r := by
    intro r; simp only [State.retire_me, State.countLanes_me, State.setMe_me]; rw [e2]; rfl
  have hp : ∀ r, (((s.setMe (c1.sput d.toNat x)).countLanes false (some (28, 1))).retire 4).me.spoison r = (s.me.sput d.toNat x).spoison r := by
    intro r; simp only [State.retire_me, State.countLanes_me, State.setMe_me]; rw [e2]; rfl
  refine ⟨⟨?_, ?_, rfl⟩, inside_of .., ?_, ⟨?_, ?_, ?_⟩, ?_⟩
  · simp only [State.retire_me, State.countLanes_me, State.setMe_me, Cohort.retire_pc]; rw [e2]
  · simp only [State.retire_me, State.countLanes_me, State.setMe_me, Cohort.retire_icount]; rw [e2]
  · apply freed_of
    · simp only [State.retire_me, State.countLanes_me, State.setMe_me, Cohort.retire_v]; rw [e2, hc1]
    · simp only [State.retire_me, State.countLanes_me, State.setMe_me, Cohort.retire_cr]; rw [e2]
  · rw [hg]; simp
  · intro r hr; rw [hg]; simp [hr]
  · intro r hr; rw [hp]; exact Cohort.spoison_sput _ _ _ _ hr
  · simp only [State.retire_me, State.countLanes_me, State.setMe_me]; rw [e2]; rfl

end Sys2Proof.Machine
end

