-- ==== Sys2Proof/Laws/Access.lean ====
section
/-!
SUPPORT. What checking the lanes of a memory instruction leaves, and what issuing its accesses leaves.
-/
namespace Sys2Proof.Machine

/-! ## Checking lanes -/

theorem Looked.translate (d : Device) (asid : Nat) (priv : Bool) (a : Acc) (r : Reach) (va : Nat) :
    Looked d (Machine.translate d asid priv a r va).1 := .look asid priv a r va (.same _)

theorem Looked.run (d : Device) (asid : Nat) (priv : Bool) (a : Acc) (r : Reach) (va n : Nat) :
    Looked d (translateRun d asid priv a r va n).1 := by
  unfold translateRun
  have h := Looked.translate d asid priv a r va
  generalize Machine.translate d asid priv a r va = p at h
  have k := h.trans (Looked.translate p.1 asid priv a r (va + n - 1))
  dsimp only
  (repeat' split) <;> first | exact h | exact k | exact .same d

theorem Looked.window (d : Device) (asid ls : Nat) (priv : Bool) (w : Window) (a : Acc) (r : Reach) (o n : Nat) :
    Looked d (accessWindow d asid ls priv w a r o n).1 := by
  unfold accessWindow
  dsimp only
  split
  · split
    · split <;> exact .same d
    · exact Looked.run d asid priv a r _ n
  · split
    · exact .same d
    · split <;> exact .same d

/-- What checks leave: translations happened, and windows differ in DT alone (R40). -/
structure LaneChecked (s u : State) : Prop where
  dev : Looked s.dev u.dev
  windows : ∀ k, { u.me.window k with dt := (s.me.window k).dt } = s.me.window k
  rest : u = { s with dev := u.dev, me := { s.me with win := u.me.win } }

theorem State.checkLane_does (s : State) (w : Nat) (a : Acc) (r : Reach) (o n : Nat) : LaneChecked s (s.checkLane w a r o n).1 := by
  unfold State.checkLane
  dsimp only
  have h := Looked.window s.dev s.co.asid s.co.lsLen s.me.priv (s.me.window w) a r o n
  generalize accessWindow s.dev s.co.asid s.co.lsLen s.me.priv (s.me.window w) a r o n = p at h
  by_cases hp : p.2.1 = true
  · rw [if_pos hp]
    refine ⟨h, ?_, rfl⟩
    intro k
    show { (s.me.winput w { s.me.window w with dt := true }).window k with dt := (s.me.window k).dt } = s.me.window k
    rw [Cohort.window_winput]
    split
    · rename_i e; subst e; rfl
    · rfl
  · rw [if_neg hp]
    exact ⟨h, fun _ => rfl, rfl⟩

theorem LaneChecked.trans {s u t : State} (h : LaneChecked s u) (k : LaneChecked u t) : LaneChecked s t := by
  refine ⟨h.dev.trans k.dev, ?_, ?_⟩
  · intro i
    have h1 := h.windows i
    have k1 := congrArg (fun x : Window => { x with dt := (s.me.window i).dt }) (k.windows i)
    exact k1.trans h1
  · have e1 := h.rest
    have e2 := k.rest
    generalize t.dev = d2 at *
    generalize t.me.win = w2 at *
    rw [e2, e1]

theorem State.checkLanes_does (w : Nat) (a : Acc) (r : Reach) : ∀ (l : List (Nat × Nat × Nat)) (s : State),
    LaneChecked s (s.checkLanes w a r l).1
  | [], _ => ⟨.same _, fun _ => rfl, rfl⟩
  | (_, o, n) :: rest, s => (s.checkLane_does w a r o n).trans (State.checkLanes_does w a r rest _)

/-! ## Verdicts -/

theorem verdict_go (align : Nat) (aln : Bool) (k n : Nat) (cs : List LaneChk) (hp : ∀ c ∈ cs, ∃ l, c.out = .at l)
    (ha : ∀ c ∈ cs, c.addr % align = 0) : verdict align aln k n cs = .go := by
  have hf : cs.filterMap (fun c => c.fault align aln) = [] := by
    rw [List.filterMap_eq_nil_iff]
    intro c hc
    obtain ⟨l, hl⟩ := hp c hc
    unfold LaneChk.fault
    rw [hl]
    simp [ha c hc]
  have hw : cs.any (fun c => c.out == .wait) = false := by
    rw [Bool.eq_false_iff]; intro h
    obtain ⟨c, hc, h'⟩ := List.any_eq_true.1 h
    obtain ⟨l, hl⟩ := hp c hc
    rw [hl] at h'; simp at h'
  unfold verdict
  simp only [hf, leastRank]
  rw [if_neg (by omega), if_neg (by omega), hw]
  rfl

/-! ## Issuing -/

theorem Cohort.claim_get (rs : List Nat) : ∀ (c : Cohort) (r : Nat), (c.claim rs).vget r = c.vget r ∧
    (c.claim rs).allocated r = (decide (r ∈ rs) || c.allocated r) := by
  unfold Cohort.claim
  induction rs with
  | nil => intro c r; simp
  | cons x rs ih =>
    intro c r
    simp only [List.foldl_cons]
    refine ⟨(ih _ r).1.trans ?_, (ih _ r).2.trans ?_⟩
    · rw [Cohort.vget_vput]; split
      · rename_i e; rw [e]
      · rfl
    · rw [Cohort.allocated_vput]
      by_cases e : r = x
      · simp [e]
      · simp [e]

theorem Cohort.claim_rest (c : Cohort) (rs : List Nat) : c.claim rs = { c with v := (c.claim rs).v } := by
  unfold Cohort.claim
  induction rs generalizing c with
  | nil => rfl
  | cons x rs ih => simp only [List.foldl_cons]; rw [ih]; rfl

theorem Cohort.raise_rest (c : Cohort) (f : Option Nat) : c.raise f = { c with f := (c.raise f).f } := by
  unfold Cohort.raise; split <;> rfl

theorem State.logLanes_off (f : Nat → List Byte) : ∀ (cs : List LaneChk) (s : State), s.recording = false → s.logLanes f cs = s
  | [], _, _ => rfl
  | c :: cs, s, h => by
    unfold State.logLanes
    rw [State.logWrite_off _ _ _ h]
    exact State.logLanes_off f cs s h

theorem State.stashRecs_off (s : State) (h : s.recording = false) : s.stashRecs = s := by
  unfold State.stashRecs
  split
  · rw [if_neg (by simp [h])]
  · rfl

/-- The cohort that an issued request leaves, before its operation is appended. -/
def MemJob.leaves (j : MemJob) (c : Cohort) : Cohort :=
  (((c.unalloc (c.misses j.vs)).freeAll j.frees).claim j.dst).raise (j.flag.bind c.flagOf)

theorem MemJob.leaves_rest (j : MemJob) (c : Cohort) :
    j.leaves c = { c with v := (j.leaves c).v, cr := (c.unalloc (c.misses j.vs)).cr, f := (c.raise (j.flag.bind c.flagOf)).f } := by
  unfold MemJob.leaves
  have h1 := Cohort.unalloc_eq c (c.misses j.vs)
  generalize c.unalloc (c.misses j.vs) = c1 at h1
  have h2 := Cohort.freeAll_eq j.frees c1
  generalize c1.freeAll j.frees = c2 at h2
  have h3 := Cohort.claim_rest c2 j.dst
  generalize c2.claim j.dst = c3 at h3
  have h4 := Cohort.raise_rest c3 (j.flag.bind c.flagOf)
  have hf : c3.f = c.f := by rw [h3, h2, h1]
  have h5 : (c3.raise (j.flag.bind c.flagOf)).f = (c.raise (j.flag.bind c.flagOf)).f := by
    unfold Cohort.raise; split <;> simp [hf]
  rw [h5] at h4
  rw [h4]
  generalize (c.raise (j.flag.bind c.flagOf)).f = x
  rw [h3]
  generalize c3.v = y
  rw [h2, h1]

theorem MemJob.leaves_get (j : MemJob) (c : Cohort) (r : Nat) :
    (j.leaves c).vget r = (if r ∈ j.frees then VReg.zero else c.vget r) ∧
    (j.leaves c).allocated r = (decide (r ∈ j.dst) || (if r ∈ j.frees then false else c.allocated r)) := by
  unfold MemJob.leaves
  have e : ∀ (x : Cohort) (f : Option Nat), (x.raise f).vget r = x.vget r ∧ (x.raise f).allocated r = x.allocated r := by
    intro x f; unfold Cohort.raise; split <;> exact ⟨rfl, rfl⟩
  have e2 : ∀ (b : Bool), (c.unalloc b).vget r = c.vget r ∧ (c.unalloc b).allocated r = c.allocated r := by
    intro b; unfold Cohort.unalloc; split <;> exact ⟨rfl, rfl⟩
  rw [(e _ _).1, (e _ _).2, (Cohort.claim_get j.dst _ r).1, (Cohort.claim_get j.dst _ r).2, Cohort.vget_freeAll, Cohort.allocated_freeAll,
    (e2 _).1, (e2 _).2]
  exact ⟨rfl, rfl⟩

/-- The state that an issued request leaves before its counter moves. -/
def MemJob.state (j : MemJob) (s u : State) (cs : List LaneChk) : State :=
  { u with
    dev := { u.dev with nextId := s.dev.nextId + 1 }
    me := ({ j.leaves u.me with ops := s.me.ops ++ [opOf s j cs] } : Cohort).retire 4 }

theorem LaneChecked.me {s u : State} (h : LaneChecked s u) : u.me = { s.me with win := u.me.win } := by
  have := congrArg State.me h.rest
  exact this

theorem Looked.nextId {d e : Device} (h : Looked d e) : e.nextId = d.nextId := (congrArg Device.nextId h.frame : _)

theorem State.issueOp_eq (s u : State) (j : MemJob) (cs : List LaneChk) (h : LaneChecked s u) (hr : s.recording = false) :
    (u.issueOp j j.frees cs).retire 4 = j.state s u cs := by
  have hm := h.me
  have hn := h.dev.nextId
  have hact : u.me.act = s.me.act := by rw [hm]; rfl
  have hfl : u.me.flagOf = s.me.flagOf := by rw [hm]; rfl
  have hops : (j.leaves u.me).ops = s.me.ops := by rw [MemJob.leaves_rest, hm]
  have hrec : u.recording = false := by
    have e := h.rest
    have hc := h.dev.ctrl
    rw [← hr]
    have hcx : u.cx.asid = s.cx.asid := by rw [e]
    unfold State.recording State.recLive State.recMode Device.reg
    rw [hc.1, hc.2, hcx]
  have key : u.issueOp j j.frees cs = (u.setMe (j.leaves u.me)).pushOp (j.op u.me cs) := by
    unfold State.issueOp
    dsimp only
    have hl : ((((u.me.unalloc (u.me.misses j.vs)).freeAll j.frees).claim j.dst).raise (j.op u.me cs).flag) = j.leaves u.me := rfl
    rw [hl]
    generalize j.leaves u.me = c
    split
    · apply State.logLanes_off
      rw [← hrec]
      exact State.recording_congr (s := u) (t := u) rfl rfl
    · rfl
  rw [key]
  unfold MemJob.state
  generalize j.leaves u.me = c at hops ⊢
  unfold State.pushOp
  have ho : ({ j.op u.me cs with id := u.dev.nextId } : MemOp) = opOf s j cs := by
    unfold MemJob.op opOf
    rw [hact, hfl, hn]
    rfl
  have ho' : ({ j.op u.me cs with id := (u.setMe c).dev.nextId } : MemOp) = opOf s j cs := ho
  rw [ho']
  have hops' : (u.setMe c).me.ops = s.me.ops := hops
  rw [hops']
  have hn' : (u.setMe c).dev.nextId = s.dev.nextId := hn
  rw [hn']
  rfl

/-- What a request leaves, whatever its counter. -/
theorem MemJob.state_issued (j : MemJob) (s u : State) (cs : List LaneChk) (h : LaneChecked s u) : Issued s u (j.state s u cs) j cs := by
  have hm := h.me
  have hl := j.leaves_rest u.me
  have hw : (j.leaves u.me).win = u.me.win := by rw [hl]
  have e1 : ∀ b, (u.me.unalloc b).cr = (s.me.unalloc b).cr := by
    intro b; rw [hm]; unfold Cohort.unalloc; cases b <;> rfl
  have e2 : u.me.misses j.vs = s.me.misses j.vs := by rw [hm]; rfl
  have e3 : u.me.flagOf = s.me.flagOf := by rw [hm]; rfl
  have e4 : ∀ f, (u.me.raise f).f = (s.me.raise f).f := by
    intro f; rw [hm]; unfold Cohort.raise; cases f <;> rfl
  have hcr : (j.leaves u.me).cr = (s.me.unalloc (s.me.misses j.vs)).cr := by
    rw [← e1, ← e2]; have := congrArg Cohort.cr hl; exact this
  have hf : (j.leaves u.me).f = (s.me.raise (j.flag.bind s.me.flagOf)).f := by
    rw [← e4, ← e3]; have := congrArg Cohort.f hl; exact this
  have hq : { (j.leaves u.me) with v := s.me.v, cr := s.me.cr, win := s.me.win, f := s.me.f } = s.me := by rw [hl, hm]
  have hg : ∀ r, (j.leaves u.me).vget r = (if r ∈ j.frees then VReg.zero else s.me.vget r) ∧
      (j.leaves u.me).allocated r = (decide (r ∈ j.dst) || (if r ∈ j.frees then false else s.me.allocated r)) := by
    intro r
    have := j.leaves_get u.me r
    have e1 : u.me.vget r = s.me.vget r := by rw [hm]; rfl
    have e2 : u.me.allocated r = s.me.allocated r := by rw [hm]; rfl
    rw [e1, e2] at this; exact this
  have hrest := h.rest
  unfold MemJob.state
  generalize j.leaves u.me = c at hw hcr hf hq hg
  have hpc : c.pc = s.me.pc := by rw [← hq]
  have hic : c.icount = s.me.icount := by rw [← hq]
  refine ⟨⟨?_, ?_, rfl⟩, rfl, hf, h.dev, rfl, ?_, ?_, ?_, hcr, ?_, ?_, ?_, ?_⟩
  · show c.pc + 4#56 = _; rw [hpc]
  · show c.icount + 1 = _; rw [hic]
  · intro r h1 h2
    have := (hg r).2
    rw [if_pos h1] at this
    exact this.trans (by simp [h2])
  · intro r h1
    refine ⟨?_, (hg r).1⟩
    exact (hg r).2.trans (by simp [h1])
  · intro r h1 h2
    have h3 := hg r
    rw [if_neg h2, if_neg h2] at h3
    exact ⟨h3.1, h3.2.trans (by simp [h1])⟩
  · intro k
    have := h.windows k
    have hk : (Cohort.retire { c with ops := s.me.ops ++ [opOf s j cs] } 4).window k = u.me.window k := by
      unfold Cohort.window; exact congrArg (fun w => Store.get Window.empty w k) hw
    rw [← hk] at this
    exact this
  · have := congrArg (fun x : Cohort => ({ x with ops := s.me.ops } : Cohort).quiet) hq
    exact this
  · show u.cx = _; rw [hrest]
  · show u.co = _ ∧ u.turns = _ ∧ u.free = _
    rw [hrest]; exact ⟨rfl, rfl, rfl⟩

theorem Issued.count {s u t : State} {j : MemJob} {cs : List LaneChk} (h : Issued s u t j cs) (i n : Nat) : Issued s u (t.count i n) j cs := by
  have e1 := State.count_me t i n
  have e2 := State.count_dev t i n
  have e3 := State.count_co t i n
  have e4 := State.count_turns t i n
  have e5 := State.count_free t i n
  have e6 := State.count_cx t i n
  have k := h.cx
  generalize t.count i n = x at *
  obtain ⟨h1, h2, h3, h4, h5, h6, h7, h8, h9, h10, h11, -, h13⟩ := h
  refine ⟨⟨?_, ?_, ?_⟩, ?_, ?_, h4, ?_, ?_, ?_, ?_, ?_, ?_, ?_, ?_, ?_⟩
  · rw [e1]; exact h1.pc
  · rw [e1]; exact h1.icount
  · rw [e1]; exact h1.wait
  · rw [e1]; exact h2
  · rw [e1]; exact h3
  · rw [e2]; exact h5
  · rw [e1]; exact h6
  · rw [e1]; exact h7
  · rw [e1]; exact h8
  · rw [e1]; exact h9
  · rw [e1]; exact h10
  · rw [e1]; exact h11
  · generalize x.cx.cnt = a at e6 ⊢
    generalize x.cx.sat = b at e6 ⊢
    rw [e6, k]
  · rw [e3, e4, e5]; exact h13

/-- A request that every check lets pass is issued (R45, R46, R253). -/
theorem memIssue_go (j : MemJob) (s u : State) (cs : List LaneChk) (hr : s.recording = false) (hm : s.me.mce j.u j.vs j.ss = 0#64)
    (ha : s.me.act ≠ 0#64) (room : Room s j.frees j.dst) (h : Accesses s j u cs) : Issued s u (memIssue j s) j cs := by
  have hc : LaneChecked s u := by
    have := State.checkLanes_does j.win j.acc j.reach (j.offs.map fun x => (x.1, x.2, j.len)) s
    rw [h.checked] at this; exact this
  have hoff : (cs.filter fun c => c.addr % j.align != 0) = [] := by
    rw [List.filter_eq_nil_iff]; intro c hc; simp [h.aligned c hc]
  have hon : (cs.filter fun c => c.addr % j.align == 0) = cs := by
    rw [List.filter_eq_self]; intro c hc; simp [h.aligned c hc]
  unfold memIssue
  dsimp only
  rw [if_neg (by simp [hm]), if_neg ha, h.checked]
  dsimp only
  rw [verdict_go _ _ _ _ _ h.perform h.aligned]
  dsimp only
  rw [hoff, hon]
  simp only [List.isEmpty_nil, if_true]
  unfold Room at room
  rw [room]
  simp only [Bool.true_eq_false, if_false]
  rw [State.issueOp_eq s u j cs hc hr]
  have hi := j.state_issued s u cs hc
  have hrec : ∀ t, Issued s u t j cs → t.recording = false := by
    intro t ht
    have e := ht.dev
    have hd := ht.looked.ctrl
    have hx := ht.cx
    have hcx : t.cx.asid = s.cx.asid := by rw [hx]
    rw [← hr]
    unfold State.recording State.recLive State.recMode Device.reg
    rw [hcx, e, ← hd.1, ← hd.2]
  split
  · rw [State.stashRecs_off _ (hrec _ (hi.count _ _))]; exact hi.count _ _
  · rw [State.stashRecs_off _ (hrec _ hi)]; exact hi

/-- An instruction whose meaning is one request does what the request asks. -/
theorem access_does {ok : State → Prop} {i : Instr} {j : Cohort → MemJob} (h : ∀ s, ok s → exec i s = .next (memIssue (j s.me) s)) :
    AccessDoes ok i j := by
  intro s hk hr hm
  refine ⟨fun ha room u cs hc => ⟨_, h s hk, memIssue_go _ s u cs hr hm ha room hc⟩, fun ha => ⟨_, h s hk, ?_⟩⟩
  generalize j s.me = j at hm
  have hf := Cohort.freeAll_eq j.frees s.me
  have hv := Cohort.vget_freeAll j.frees s.me
  unfold memIssue
  dsimp only
  rw [if_neg (by simp [hm]), if_pos ha]
  generalize s.me.freeAll j.frees = c at hf hv
  generalize c.v = x at hf
  subst hf
  by_cases ho : (j.acq || j.rel) = true
  · rw [if_pos ho, if_pos ho]
    refine ⟨⟨rfl, rfl, rfl⟩, ?_, hv, rfl, rfl, rfl, rfl, rfl, rfl⟩
    show (s.me.ops ++ _).map _ = _
    rw [List.map_append]; rfl
  · rw [if_neg ho, if_neg ho]
    refine ⟨⟨rfl, rfl, rfl⟩, ?_, hv, rfl, rfl, rfl, rfl, rfl, rfl⟩
    rw [List.append_nil]; rfl

end Sys2Proof.Machine
end

