-- ==== Sys2Proof/Laws/Perform.lean ====
section
/-!
SUPPORT. Performing an operation that is alone in flight on its core.
-/
namespace Sys2Proof.Machine

variable {s : State} {o : MemOp}

theorem settle_none (s : State) (h : s.me.ops = []) : s.settle = s := by
  unfold State.settle
  rw [h]
  unfold State.settleOps
  rw [h]
  dsimp only [List.filter_nil, List.find?_nil]
  rw [← h]

theorem Alone.settle (h : Alone s o) : s.settle = s := by
  have e : (s.me.ops.filter fun x => !(x.passed && x.kind != .fetch && !(s.me.passes x))) = s.me.ops := by
    rw [h.op]; simp [h.first]
  have f : (s.me.ops.find? fun x => x.kind == .fence) = none := by
    rw [h.op]; simp [h.plain]
  unfold State.settle State.settleOps
  rw [e]
  dsimp only
  rw [f]

theorem Alone.isAt (h : Alone s o) : s.isAt s.co.dseq s.me.j = true := by
  obtain ⟨c, hc⟩ := h.resident
  unfold State.isAt
  rw [hc, h.here]
  simp

theorem Alone.op? (h : Alone s o) : s.me.op? o.id = some o := by
  unfold Cohort.op?; rw [h.op]; simp

/-- An event on the operation acts on it where it stands. -/
theorem Alone.onOp (h : Alone s o) (f : State → MemOp → State) : s.onOp o.id f = f s o := by
  have h1 : s.ownerOf o.id = some (s.co.dseq, s.me.j) := by
    unfold State.ownerOf; rw [h.op]; simp
  unfold State.onOp
  rw [h1]
  dsimp only
  rw [State.onCohort_at _ _ _ _ h.isAt]
  rw [h.settle, h.op?]

theorem Alone.before (h : Alone s o) : s.me.before o.id = [] := by
  unfold Cohort.before; rw [h.op]; simp

theorem Alone.matesBuffer (h : Alone s o) : s.matesBuffer = [] := by
  unfold State.matesBuffer
  rw [List.flatMap_eq_nil_iff]
  intro p hp; rw [h.mates p hp]; rfl

theorem Alone.heldByMate (h : Alone s o) (xs : List Span) (w : Bool) : s.heldByMate xs w = false := by
  unfold State.heldByMate
  rw [Bool.eq_false_iff]; intro k
  obtain ⟨p, hp, hp'⟩ := List.any_eq_true.1 k
  rw [h.mates p hp] at hp'; simp at hp'

theorem Alone.copyHolds (h : Alone s o) (w : Option (Nat × Nat)) (i : Nat) (xs : List Span) (b : Bool) : s.dev.copyHolds w i xs b = false := by
  unfold Device.copyHolds; rw [h.copies.1, h.copies.2]; cases b <;> simp

theorem Alone.clear (h : Alone s o) : s.clear o = true := by
  unfold State.clear State.releaseReady
  rw [h.before, h.matesBuffer, h.copyHolds]
  simp

theorem Alone.loadReady (h : Alone s o) : s.loadReady o = true := by
  unfold State.loadReady; dsimp only
  rw [h.clear, h.heldByMate, h.matesBuffer]; simp
theorem Alone.entryReady (h : Alone s o) : s.entryReady o = true := by
  unfold State.entryReady
  rw [h.before, h.heldByMate]; simp
theorem Alone.storeReady (h : Alone s o) : s.storeReady o = true := by
  unfold State.storeReady
  rw [h.clear, h.matesBuffer]; simp
theorem Alone.rmwReady (h : Alone s o) : s.rmwReady o = true := by
  unfold State.rmwReady; dsimp only
  rw [h.clear, h.heldByMate, h.matesBuffer]; simp

theorem State.replayHolds_off (s : State) (p : Nat) (h : s.recording = false) : s.replayHolds p = false := by
  unfold State.replayHolds State.replayHoldsAll State.replays; rw [h]; rfl
theorem State.conflictHeld_off (s : State) (l : Loc) (w : Bool) (h : s.recording = false) : s.conflictHeld l w = false := by
  unfold State.conflictHeld
  split
  · split
    · exact s.replayHolds_off _ h
    · rfl
  · rfl

/-- The lanes of an operation on one line are performed together. -/
theorem OneLine.group {line : Nat} (h : OneLine o line) (dseq : Nat) {l : LaneOp} (hl : l ∈ o.lanes) : o.group dseq l.lane = o.lanes := by
  have key : ∀ x ∈ o.lanes, (match spanOf dseq (max 1 x.len) x.loc with
      | Option.some y => (Option.some y.space, y.off / 64)
      | Option.none => (Option.none, 0)) = (Option.some 0, line) := by
    intro x hx
    obtain ⟨off, h1, h2, -⟩ := h.target x hx
    rw [h1]
    simp only [spanOf, h2]
  unfold MemOp.group
  dsimp only
  have hf : ∃ x, (o.lanes.find? fun x => x.lane == l.lane && !x.sent) = some x ∧ x ∈ o.lanes := by
    cases e : o.lanes.find? fun x => x.lane == l.lane && !x.sent with
    | none =>
      rw [List.find?_eq_none] at e
      exact absurd (e l hl) (by simp [h.todo l hl])
    | some x => exact ⟨x, rfl, List.mem_of_find?_eq_some e⟩
  obtain ⟨x, hx, hm⟩ := hf
  rw [hx]
  dsimp only
  rw [List.filter_eq_self]
  intro y hy
  have hty := h.todo y hy
  simp only [hty, Bool.not_false, Bool.true_and, beq_iff_eq]
  exact (key y hy).trans (key x hm).symm

end Sys2Proof.Machine
end

