-- ==== Sys2Proof/Laws/Deliver.lean ====
section
/-!
SUPPORT. What performing an operation does: reading lanes, writing bytes, delivering results, and bytes as numbers.
-/
namespace Sys2Proof.Machine

theorem lower_rest (c : Cohort) (f : Option Nat) : c.lower f = { c with f := (c.lower f).f } := by
  unfold Cohort.lower; split <;> rfl

/-- A touch without recording changes only the caches and the directory. -/
theorem touch_off (s : State) (ls : List LaneOp) (w : Bool) (h : s.recording = false) :
    s.touch ls w = s.setDev (s.dev.withCaches (s.touch ls w).dev) := by
  have key : ∀ o m, s.touchLine o m w = s.setDev (s.dev.withCaches (s.touchLine o m w).dev) := by
    intro o m
    have e : ∀ p, s.logPlace 2 p = s := fun p => s.logPlace_off _ _ h
    unfold State.touchLine
    simp only [e]
    cases s.conflictPlace o w
    all_goals
      dsimp only
      rw [h, Bool.and_false]
      simp only [Bool.false_eq_true, if_false]
      split
      · rfl
      · cases w <;> rfl
  unfold State.touch
  split
  · exact key ..
  · rfl

/-- Reading lanes of own memory changes nothing but the operation. -/
theorem readLanes_mem (id : Nat) : ∀ (ls : List LaneOp) (s : State), (∀ l ∈ ls, ∃ off, l.loc = .mem off) →
    s.readLanes id [] ls = s.mapOp id fun x => ls.foldl (fun x l => x.setResult l.lane (s.readLane [] l).2) x := by
  intro ls
  induction ls with
  | nil =>
    intro s _
    unfold State.readLanes State.mapOp
    simp
  | cons l ls ih =>
    intro s h
    obtain ⟨off, ho⟩ := h l (by simp)
    have h1 : (s.readLane [] l).1 = s := by unfold State.readLane; rw [ho]
    unfold State.readLanes
    dsimp only
    rw [h1, ih _ (fun x hx => h x (by simp [hx]))]
    have h2 : ∀ (f : MemOp → MemOp) x, x ∈ ls → ((s.mapOp id f).readLane [] x).2 = (s.readLane [] x).2 := by
      intro f x hx
      obtain ⟨o2, e2⟩ := h x (by simp [hx])
      unfold State.readLane; rw [e2]; rfl
    have h3 : ∀ (f : MemOp → MemOp) (x : MemOp), ls.foldl (fun x l => x.setResult l.lane ((s.mapOp id f).readLane [] l).2) x = ls.foldl (fun x l => x.setResult l.lane (s.readLane [] l).2) x := by
      intro f
      have : ∀ (ks : List LaneOp) (x : MemOp), (∀ k ∈ ks, k ∈ ls) → ks.foldl (fun x l => x.setResult l.lane ((s.mapOp id f).readLane [] l).2) x = ks.foldl (fun x l => x.setResult l.lane (s.readLane [] l).2) x := by
        intro ks
        induction ks with
        | nil => intro x _; rfl
        | cons k ks ik =>
          intro x hk
          rw [List.foldl_cons, List.foldl_cons, h2 f k (hk k (by simp)), ik _ (fun y hy => hk y (by simp [hy]))]
      exact fun x => this ls x (fun _ h => h)
    unfold State.mapOp at *
    dsimp only at *
    congr 2
    rw [List.map_map]
    apply List.map_congr_left
    intro x _
    dsimp only [Function.comp]
    by_cases hx : x.id = id
    · have hid : (x.setResult l.lane (s.readLane [] l).2).id = id := hx
      simp only [hx, hid, if_true, List.foldl_cons]
      exact h3 _ _
    · simp only [hx, if_false]

/-- Every lane of a list given its result. -/
theorem setResults (f : LaneOp → List Byte × Mask) (g : Nat → List Byte × Mask) : ∀ (ls : List LaneOp) (x : MemOp), (∀ l ∈ ls, f l = g l.lane) →
    ls.foldl (fun x l => x.setResult l.lane (f l)) x = { x with lanes := x.lanes.map fun l => if l.lane ∈ ls.map (·.lane) then { l with sent := true, result := some (g l.lane) } else l } := by
  intro ls
  induction ls with
  | nil => intro x _; simp
  | cons k ls ih =>
    intro x h
    rw [List.foldl_cons, ih _ (fun l hl => h l (by simp [hl]))]
    unfold MemOp.setResult
    dsimp only
    congr 1
    rw [List.map_map]
    apply List.map_congr_left
    intro y _
    dsimp only [Function.comp]
    by_cases e : y.lane = k.lane
    · have hk := h k (by simp)
      simp only [e, hk, if_true, List.map_cons, List.mem_cons, true_or]
      split <;> rfl
    · simp only [e, if_false, List.map_cons, List.mem_cons, false_or]

/-- Filling lanes: words, poison, and every other name. -/
theorem fillLanes_get (c : Cohort) (d : Nat) (m : Mask) (f : Nat → Word × Bool) (r : Nat) :
    (c.fillLanes d m f).vget r = (if r = d then { (c.vget d).merge m (fun i => (f i).1) with poison := ((c.vget d).merge m (fun i => (f i).1)).poison ||| bitsOf (fun i => m.getLsbD i && (f i).2) } else c.vget r)
    ∧ (r ≠ d → (c.fillLanes d m f).allocated r = c.allocated r) ∧ { (c.fillLanes d m f) with v := c.v } = c := by
  unfold Cohort.fillLanes
  refine ⟨by simp only [Cohort.vget_vput], fun h => by simp only [Cohort.allocated_vput, h, if_false], rfl⟩

theorem fillGroup_get (o : MemOp) (f : Word → Word) : ∀ (n : Nat) (c : Cohort), { c.fillGroup o n f with v := c.v } = c ∧
    (∀ r, (∀ k, k < n → r ≠ o.d + k) → (c.fillGroup o n f).vget r = c.vget r ∧ (c.fillGroup o n f).allocated r = c.allocated r) ∧
    (∀ k, k < n → (c.fillGroup o n f).vget (o.d + k) = { (c.vget (o.d + k)).merge o.targets (fun i => f (wordAt (o.resultOf i) k).1) with
      poison := ((c.vget (o.d + k)).merge o.targets (fun i => f (wordAt (o.resultOf i) k).1)).poison ||| bitsOf (fun i => o.targets.getLsbD i && (wordAt (o.resultOf i) k).2) }) := by
  intro n
  induction n with
  | zero => intro c; exact ⟨rfl, fun r _ => ⟨rfl, rfl⟩, fun k h => absurd h (by omega)⟩
  | succ n ih =>
    intro c
    obtain ⟨i1, i2, i3⟩ := ih c
    have e : c.fillGroup o (n + 1) f = (c.fillGroup o n f).fillLanes (o.d + n) o.targets (fun i => (f (wordAt (o.resultOf i) n).1, (wordAt (o.resultOf i) n).2)) := by
      unfold Cohort.fillGroup
      rw [List.range_succ, List.foldl_append]
      rfl
    rw [e]
    generalize c.fillGroup o n f = u at i1 i2 i3
    refine ⟨?_, ?_, ?_⟩
    · obtain ⟨-, -, q⟩ := fillLanes_get u (o.d + n) o.targets (fun i => (f (wordAt (o.resultOf i) n).1, (wordAt (o.resultOf i) n).2)) 0
      generalize u.fillLanes (o.d + n) o.targets (fun i => (f (wordAt (o.resultOf i) n).1, (wordAt (o.resultOf i) n).2)) = w at q
      rw [← i1, ← q]
    · intro r hr
      obtain ⟨q1, q2, -⟩ := fillLanes_get u (o.d + n) o.targets (fun i => (f (wordAt (o.resultOf i) n).1, (wordAt (o.resultOf i) n).2)) r
      have hn := hr n (by omega)
      obtain ⟨p1, p2⟩ := i2 r (fun k hk => hr k (by omega))
      exact ⟨by rw [q1, if_neg hn, p1], by rw [q2 hn, p2]⟩
    · intro k hk
      obtain ⟨q1, -, -⟩ := fillLanes_get u (o.d + n) o.targets (fun i => (f (wordAt (o.resultOf i) n).1, (wordAt (o.resultOf i) n).2)) (o.d + k)
      rw [q1]
      by_cases h : k = n
      · subst h
        rw [if_pos rfl, (i2 (o.d + k) (fun j hj => by omega)).1]
      · rw [if_neg (by omega), i3 k (by omega)]

/-- What a hall sees once it has applied its queue: what the home holds, but for writes that have not entered the queue (R115). -/
theorem hallByte_applyAll (d : Device) (h a : Nat) (he : ∀ x ∈ d.halls, ∀ e ∈ x.inval, e.entered = true) :
    (d.applyAll h).hallByte h a = d.byte a := by
  unfold Device.hallByte Device.applyAll
  rw [List.getElem?_mapIdx]
  cases hx : d.halls[h]? with
  | none => rfl
  | some x =>
    have : x.inval.filter (fun e => !e.entered) = [] := by
      rw [List.filter_eq_nil_iff]
      intro e m
      simp [he x (List.mem_of_getElem? hx) e m]
    simp only [Option.map_some, if_true, this, Inval.find]
    rfl

theorem acquire_dev (s : State) (a : Bool) (k : Nat) : s.acquire a k = { s with dev := { s.dev with halls := (s.acquire a k).dev.halls } } := by
  unfold State.acquire; split <;> rfl

theorem badMask_clear {d : Device} {line off i : Nat} (h : d.badMask (line * 64) 64 = 0#64) (h1 : off / 64 = line) (h2 : off % 64 + i < 64) :
    d.badAt (off + i) = false := by
  have := congrArg (fun m : Mask => m.getLsbD (off % 64 + i)) h
  unfold Device.badMask at this
  rw [maskOf_getLsbD _ _ h2] at this
  simp at this
  have := this h2
  have e : line * 64 + (off % 64 + i) = off + i := by omega
  rwa [e] at this

/-- What the lanes read. -/
theorem readLane_val {s : State} {l : LaneOp} {off line : Nat} (h : l.loc = .mem off) (h1 : off / 64 = line) (h2 : off % 64 + l.len ≤ 64)
    (hb : s.dev.badMask (line * 64) 64 = 0#64) :
    (s.readLane [] l).2 = ((List.range l.len).map fun i => s.dev.hallByte s.hall (off + i), 0#64) := by
  have key : ∀ i, i < l.len → s.loadByte [] (.mem off) i = (s.dev.hallByte s.hall (off + i), false) := by
    intro i hi
    unfold State.loadByte spanOf
    simp only [List.findSome?_nil]
    rw [badMask_clear hb h1 (by omega)]
  unfold State.readLane
  rw [h]
  dsimp only
  refine Prod.ext ?_ ?_
  · dsimp only
    rw [List.map_map]
    apply List.map_congr_left
    intro i hi
    rw [List.mem_range] at hi
    dsimp only [Function.comp]
    rw [key i hi]
  · dsimp only
    have : ((List.range l.len).filter fun i => (((List.range l.len).map (s.loadByte [] (.mem off))).getD i (0#8, false)).2) = [] := by
      rw [List.filter_eq_nil_iff]
      intro i hi
      rw [List.mem_range] at hi
      rw [List.getD_eq_getElem?_getD, List.getElem?_map, List.getElem?_range hi]
      simp [key i hi]
    rw [this]; rfl

theorem find_lane {ls : List LaneOp} (h : (ls.map (·.lane)).Nodup) {l : LaneOp} (hl : l ∈ ls) : ls.find? (fun x => x.lane == l.lane) = some l := by
  induction ls with
  | nil => cases hl
  | cons k ls ih =>
    rw [List.map_cons, List.nodup_cons] at h
    rw [List.find?_cons]
    rcases List.mem_cons.1 hl with e | e
    · subst e; simp
    · have : (k.lane == l.lane) = false := by
        rw [beq_eq_false_iff_ne]
        intro q; apply h.1; rw [q]; exact List.mem_map.2 ⟨l, e, rfl⟩
      rw [this]; exact ih h.2 e

/-- The only operation of its core ends once every lane has its result. -/
theorem finish_alone {u : State} {o : MemOp} (h : u.me.ops = [o]) (hs : u.me.stat = .running) (hr : ∀ x ∈ o.lanes, x.result.isSome)
    (hk : o.kind ≠ .fetch) (hd : (u.me.deliver o).ops = [o]) : u.finish o.id = u.setMe { (u.me.deliver o).lower o.flag with ops := [] } := by
  unfold State.finish Cohort.op?
  rw [h]
  simp only [List.find?_cons, beq_self_eq_true]
  have h1 : (o.lanes.all fun l => l.result.isSome) = true := by rw [List.all_eq_true]; exact hr
  have h2 : ((u.me.deliver o).lower o.flag).ops = [o] := by rw [lower_rest]; exact hd
  have h3 : ((u.me.deliver o).lower o.flag).passes o = false := by
    unfold Cohort.passes Cohort.before; rw [h2]; simp
  have h4 : ¬ u.me.stat = .ended := by rw [hs]; simp
  simp only [h1, if_true, hk, if_false, h4, h3, h2, Bool.and_false, Bool.false_eq_true]
  simp

theorem lane_merge' (v : VReg) (m : Mask) (f : Nat → Word) (p : Mask) {i : Nat} (h : i < 64) :
    ({ v.merge m f with poison := p } : VReg).lane i = if m.getLsbD i then f i else v.lane i := VReg.lane_merge v m f h

/-- Same but for bytes of memory, what the halls see, the directory; and how many turns more. -/
structure Wrote (s t : State) : Prop where
  dev : t.dev.elsewhere = s.dev.elsewhere
  co : t.co = s.co
  cx : t.cx = s.cx
  free : t.free = s.free
  turns : ∃ ts, t.turns = ts ++ s.turns

theorem Wrote.trans {s u t : State} (h : Wrote s u) (k : Wrote u t) : Wrote s t := by
  obtain ⟨ts, h5⟩ := h.turns
  obtain ⟨us, k5⟩ := k.turns
  exact ⟨k.dev.trans h.dev, k.co.trans h.co, k.cx.trans h.cx, k.free.trans h.free, us ++ ts, by rw [k5, h5, List.append_assoc]⟩

theorem put_elsewhere (d : Device) (a : Nat) (bs : List Byte) (pm : Mask) : (d.put a bs pm).elsewhere = d.elsewhere := by
  unfold Device.put; split <;> rfl
theorem put_byte (d : Device) (a : Nat) (bs : List Byte) (pm : Mask) (x : Nat) :
    (d.put a bs pm).byte x = if a ≤ x ∧ x < a + bs.length then bs.getD (x - a) 0#8 else d.byte x := by
  unfold Device.put
  split
  · rename_i h
    rw [List.isEmpty_iff] at h; subst h
    rw [if_neg (by simp)]
  · exact Store.get_setRun ..
theorem halls_elsewhere (d : Device) (hs : List Hall) (n : Nat) (h : hs.map (fun h => { h with inval := [] }) = d.halls.map fun h => { h with inval := [] }) :
    ({ d with halls := hs, order := n } : Device).elsewhere = d.elsewhere := by
  unfold Device.elsewhere Device.uncached; dsimp only; rw [h]
theorem putP_elsewhere (d : Device) (a : Nat) (bs : List Byte) (pm : Mask) : (d.putP a bs pm).elsewhere = d.elsewhere := by
  unfold Device.putP
  rw [put_elsewhere]
  refine halls_elsewhere d _ d.order ?_
  rw [List.map_map]; rfl
theorem putP_byte (d : Device) (a : Nat) (bs : List Byte) (pm : Mask) (x : Nat) :
    (d.putP a bs pm).byte x = if a ≤ x ∧ x < a + bs.length then bs.getD (x - a) 0#8 else d.byte x := by
  unfold Device.putP; rw [put_byte]; rfl
theorem late_elsewhere (d : Device) (h : Nat) (ws : List (Nat × Nat)) : (d.late h ws).elsewhere = d.elsewhere := by
  unfold Device.late
  refine halls_elsewhere d _ (d.order + 1) ?_
  apply List.ext_getElem
  · simp only [List.length_map, List.length_mapIdx]
  · intro i a b
    simp only [List.getElem_map, List.getElem_mapIdx]

/-- The byte that runs leave at an address: that of the last run there. -/
def runAt (ws : List (Nat × List Byte × Mask)) (x : Nat) : Option Byte :=
  ws.reverse.findSome? fun w => if w.1 ≤ x ∧ x < w.1 + w.2.1.length then some (w.2.1.getD (x - w.1) 0#8) else none

theorem runAt_cons (w : Nat × List Byte × Mask) (ws : List (Nat × List Byte × Mask)) (x : Nat) :
    runAt (w :: ws) x = (runAt ws x).or (if w.1 ≤ x ∧ x < w.1 + w.2.1.length then some (w.2.1.getD (x - w.1) 0#8) else none) := by
  unfold runAt
  rw [List.reverse_cons, List.findSome?_append]
  simp only [List.findSome?_cons, List.findSome?_nil]
  congr 1
  split <;> simp_all

theorem foldRuns (f : Device → Nat → List Byte → Mask → Device) (he : ∀ d a bs pm, (f d a bs pm).elsewhere = d.elsewhere)
    (hb : ∀ d a bs pm x, (f d a bs pm).byte x = if a ≤ x ∧ x < a + bs.length then bs.getD (x - a) 0#8 else d.byte x) :
    ∀ (ws : List (Nat × List Byte × Mask)) (d : Device), (ws.foldl (fun d w => f d w.1 w.2.1 w.2.2) d).elsewhere = d.elsewhere ∧
      ∀ x, (ws.foldl (fun d w => f d w.1 w.2.1 w.2.2) d).byte x = (runAt ws x).getD (d.byte x) := by
  intro ws
  induction ws with
  | nil => intro d; exact ⟨rfl, fun _ => rfl⟩
  | cons w ws ih =>
    intro d
    obtain ⟨i1, i2⟩ := ih (f d w.1 w.2.1 w.2.2)
    rw [List.foldl_cons]
    refine ⟨i1.trans (he ..), fun x => ?_⟩
    rw [i2, runAt_cons, hb]
    cases runAt ws x with
    | some b => rfl
    | none => simp only [Option.none_or, Option.getD_none]; split <;> rfl

/-- A class L write of runs: their bytes, and nothing elsewhere (R60, R64, R115). -/
theorem putL_does (d : Device) (h : Nat) (ws : List (Nat × List Byte × Mask)) :
    (d.putL h ws).elsewhere = d.elsewhere ∧ ∀ x, (d.putL h ws).byte x = (runAt ws x).getD (d.byte x) := by
  obtain ⟨a, b⟩ := foldRuns Device.put put_elsewhere put_byte ws (d.late h (ws.map fun w => (w.1, w.2.1.length)))
  exact ⟨a.trans (late_elsewhere ..), b⟩

/-- Class P writes of runs (R116). -/
theorem putPs_does (d : Device) (ws : List (Nat × List Byte × Mask)) :
    (ws.foldl (fun d w => d.putP w.1 w.2.1 w.2.2) d).elsewhere = d.elsewhere ∧
    ∀ x, (ws.foldl (fun d w => d.putP w.1 w.2.1 w.2.2) d).byte x = (runAt ws x).getD (d.byte x) :=
  foldRuns Device.putP putP_elsewhere putP_byte ws d

theorem putL_elsewhere (d : Device) (h a : Nat) (bs : List Byte) (pm : Mask) : (d.putL h [(a, bs, pm)]).elsewhere = d.elsewhere :=
  (putL_does d h _).1
theorem putL_byte (d : Device) (h a : Nat) (bs : List Byte) (pm : Mask) (x : Nat) :
    (d.putL h [(a, bs, pm)]).byte x = if a ≤ x ∧ x < a + bs.length then bs.getD (x - a) 0#8 else d.byte x := by
  rw [(putL_does d h _).2, runAt_cons]
  show (Option.or none _).getD _ = _
  rw [Option.none_or]
  split <;> rfl

theorem notice_eq (s : State) (a n : Nat) : ∃ ts, s.notice a n = { s with turns := ts ++ s.turns } := by
  unfold State.notice
  split
  · exact ⟨[_], rfl⟩
  · exact ⟨[], rfl⟩

theorem regionOf_low {off : Nat} (h : off < 0x020000000000) : regionOf off ≠ .atrium := by
  unfold regionOf hbmEnd tier2Base atriumBase controlBase
  repeat' split
  all_goals first | decide | omega

theorem runAt_lanes (ls : List LaneOp) (x : Nat) : runAt (memRuns ls) x = storedAt ls x := by
  unfold runAt storedAt memRuns
  rw [← List.filterMap_reverse]
  induction ls.reverse with
  | nil => rfl
  | cons l ls ih =>
    rw [List.findSome?_cons, ← ih, List.filterMap_cons]
    unfold Loc.ownOff
    cases l.loc <;> rfl

/-- Storing the lanes of a list in own memory (R60). -/
theorem writeMem_does (s : State) (o : MemOp) (off : Nat) (ls : List LaneOp)
    (h : ∀ l ∈ ls, ∃ a, l.loc = .mem a ∧ regionOf a ≠ .atrium) :
    (s.writeMem o off ls).me = s.me ∧ Wrote s (s.writeMem o off ls) ∧ ∀ x, (s.writeMem o off ls).dev.byte x = (storedAt ls x).getD (s.dev.byte x) := by
  unfold State.writeMem
  dsimp only
  generalize hd : (if regionOf off = .atrium ∨ (o.rel = true ∧ 2 ≤ o.scope) then (memRuns ls).foldl (fun d w => d.putP w.1 w.2.1 w.2.2) s.dev
    else s.dev.putL s.hall (memRuns ls)) = d
  have d1 : d.elsewhere = s.dev.elsewhere ∧ ∀ x, d.byte x = (storedAt ls x).getD (s.dev.byte x) := by
    rw [← hd]; split
    · obtain ⟨a, b⟩ := putPs_does s.dev (memRuns ls)
      exact ⟨a, fun x => by rw [b, runAt_lanes]⟩
    · obtain ⟨a, b⟩ := putL_does s.dev s.hall (memRuns ls)
      exact ⟨a, fun x => by rw [b, runAt_lanes]⟩
  have keep : (memRuns ls).foldl (fun d w => s.keptIn d w.1 w.2.1.length) d = d := by
    have hm : ∀ w ∈ memRuns ls, regionOf w.1 ≠ .atrium := by
      intro w hw
      unfold memRuns at hw
      rw [List.mem_filterMap] at hw
      obtain ⟨l, hl, e⟩ := hw
      obtain ⟨a, ha, hr⟩ := h l hl
      rw [ha] at e
      cases e
      exact hr
    generalize memRuns ls = ws at hm
    clear hd d1
    induction ws with
    | nil => rfl
    | cons w ws ih =>
      rw [List.foldl_cons]
      have : s.keptIn d w.1 w.2.1.length = d := by unfold State.keptIn; rw [if_neg (hm w (by simp))]
      rw [this]
      exact ih fun x hx => hm x (by simp [hx])
  rw [keep]
  obtain ⟨ts, et⟩ := notice_eq (s.setDev d) (off / 64 * 64) 64
  rw [et]
  exact ⟨rfl, ⟨d1.1, rfl, rfl, rfl, ts, rfl⟩, d1.2⟩

theorem publish_off (s : State) (k : Nat) : (s.publish k).me = s.me ∧ Wrote s (s.publish k) ∧ ∀ x, (s.publish k).dev.byte x = s.dev.byte x := by
  unfold State.publish
  split
  · refine ⟨rfl, ⟨?_, rfl, rfl, rfl, [], rfl⟩, fun x => rfl⟩
    refine halls_elsewhere s.dev _ s.dev.order ?_
    rw [List.map_map]; rfl
  · exact ⟨rfl, ⟨rfl, rfl, rfl, rfl, [], rfl⟩, fun x => rfl⟩

theorem leNat_lt (bs : List Byte) : leNat bs < 256 ^ bs.length := by
  induction bs with
  | nil => simp [leNat]
  | cons b bs ih =>
    have := b.isLt
    unfold leNat
    rw [List.length_cons, Nat.pow_succ]
    omega
theorem leNat_leBytes (n : Nat) : ∀ x, leNat (leBytes n x) = x % 256 ^ n := by
  induction n with
  | zero => intro x; simp [leBytes, leNat, Nat.mod_one]
  | succ n ih =>
    intro x
    unfold leBytes leNat
    rw [ih, BitVec.toNat_ofNat, Nat.pow_succ' (m := 256), Nat.mod_mul (a := 256)]
theorem leBytes_length (n : Nat) : ∀ x, (leBytes n x).length = n := by
  induction n with
  | zero => intro x; rfl
  | succ n ih => intro x; unfold leBytes; rw [List.length_cons, ih]
theorem leBytes_leNat (bs : List Byte) : leBytes bs.length (leNat bs) = bs := by
  induction bs with
  | nil => rfl
  | cons b bs ih =>
    have := b.isLt
    unfold leNat
    rw [List.length_cons]
    unfold leBytes
    have e : (b.toNat + 256 * leNat bs) / 256 = leNat bs := by omega
    rw [e, ih]
    congr 1
    apply BitVec.eq_of_toNat_eq
    rw [BitVec.toNat_ofNat]; omega

theorem load_lt (d : Device) (a n : Nat) : d.load a n < 256 ^ n := by
  unfold Device.load
  have := leNat_lt (d.bytes a n)
  unfold Device.bytes at this ⊢
  simpa using this

/-- The new value of Table 10-3, whatever the operation, fits. -/
theorem intNew_fits (op n old x : Nat) (hn : 0 < n) (h1 : old < 256 ^ n) (h2 : x < 256 ^ n) (y : Nat) : intNew op n old x y < 256 ^ n := by
  have e : 256 ^ n = 2 ^ (8 * n) := by rw [Nat.pow_mul]
  rw [e] at h1 h2 ⊢
  unfold intNew
  dsimp only
  split
  · exact Nat.mod_lt _ (Nat.two_pow_pos _)
  · split <;> assumption
  · split <;> assumption
  · exact Nat.and_lt_two_pow _ h2
  · exact Nat.or_lt_two_pow h1 h2
  · exact Nat.xor_lt_two_pow h1 h2
  · exact h2
  · split <;> assumption
  · omega
  · omega

/-- Bytes written and read back make the number (R2). -/
theorem load_of_bytes {d : Device} {a n x : Nat} (hx : x < 256 ^ n) (h : ∀ i, i < n → d.byte (a + i) = (leBytes n x).getD i 0#8) : d.load a n = x := by
  unfold Device.load Device.bytes
  have : (List.range n).map (fun i => d.byte (a + i)) = leBytes n x := by
    apply List.ext_getElem
    · simp [leBytes_length]
    · intro i h1 h2
      rw [leBytes_length] at h2
      simp only [List.getElem_map, List.getElem_range]
      rw [h i h2, List.getD_eq_getElem?_getD, List.getElem?_eq_getElem (by rw [leBytes_length]; exact h2)]
      rfl
  rw [this, leNat_leBytes, Nat.mod_eq_of_lt hx]

theorem acquire_off (s : State) (a : Bool) (k : Nat) : (s.acquire a k).me = s.me ∧ Wrote s (s.acquire a k) ∧ (∀ x, (s.acquire a k).dev.byte x = s.dev.byte x)
    ∧ (s.acquire a k).dev.bad = s.dev.bad := by
  unfold State.acquire
  split
  · refine ⟨rfl, ⟨?_, rfl, rfl, rfl, [], rfl⟩, fun x => rfl, rfl⟩
    refine halls_elsewhere s.dev _ s.dev.order ?_
    apply List.ext_getElem
    · simp
    · intro i a b
      simp only [List.getElem_map, List.getElem_mapIdx]
      split <;> rfl
  · exact ⟨rfl, ⟨rfl, rfl, rfl, rfl, [], rfl⟩, fun x => rfl, rfl⟩

theorem badAt_line {d : Device} {off : Nat} (h : d.badMask (off / 64 * 64) 64 = 0#64) (a : Nat) (ha : a / 64 = off / 64) : d.badAt a = false := by
  have := badMask_clear (line := off / 64) (off := off / 64 * 64) (i := a % 64) h (by omega) (by omega)
  have e : off / 64 * 64 + a % 64 = a := by omega
  rwa [e] at this

/-- The new bytes of an integer operation. -/
theorem intBytes (op n old : Nat) (data : List Byte) (hn : 0 < n) (hop : op < 10) (ho : old < 256 ^ n)
    (hd : data.length = if op = 7 then 2 * n else n) :
    let x := leNat (data.take n)
    let new := if op = 7 then (if old = x then leNat (data.drop n) else old) else
      ([(old + x) % 2 ^ (8 * n), if toSigned (8 * n) old ≤ toSigned (8 * n) x then old else x,
        if toSigned (8 * n) old ≤ toSigned (8 * n) x then x else old, old &&& x, old ||| x, old ^^^ x, x, 0, min old x, max old x]).getD op 0
    (if op = 7 then intNew op n old (leNat ((data.drop n).take n)) x else intNew op n old x 0) = new ∧ new < 256 ^ n := by
  intro x new
  have hx : x < 256 ^ n := by
    have := leNat_lt (data.take n)
    have hl : (data.take n).length = n := by rw [List.length_take, hd]; split <;> omega
    rwa [hl] at this
  have key : (if op = 7 then intNew op n old (leNat ((data.drop n).take n)) x else intNew op n old x 0) = new := by
    show _ = if op = 7 then _ else _
    by_cases h7 : op = 7
    · subst h7
      simp only [if_true]
      have : (data.drop n).take n = data.drop n := by
        rw [List.take_of_length_le]; rw [List.length_drop, hd]; simp; omega
      rw [this]; rfl
    · simp only [h7, if_false]
      match op, hop, h7 with
      | 0, _, _ => rfl
      | 1, _, _ => rfl
      | 2, _, _ => rfl
      | 3, _, _ => rfl
      | 4, _, _ => rfl
      | 5, _, _ => rfl
      | 6, _, _ => rfl
      | 8, _, _ => rfl
      | 9, _, _ => rfl
  refine ⟨key, ?_⟩
  rw [← key]
  split
  · rename_i h7
    have hl : ((data.drop n).take n).length = n := by rw [List.length_take, List.length_drop, hd, if_pos h7]; omega
    have := leNat_lt ((data.drop n).take n)
    rw [hl] at this
    exact intNew_fits _ _ _ _ hn ho this _
  · exact intNew_fits _ _ _ _ hn ho hx _

/-- An integer operation on clean own memory. -/
theorem rmw_int {d : Device} (l2 : Option Nat) (op n off : Nat) (data : List Byte) (hn : n = 4 ∨ n = 8) (ha : off % n = 0)
    (hb : ∀ a, a / 64 = off / 64 → d.badAt a = false) :
    let p := d.rmw l2 (.int op n) off data
    p.2 = (d.bytes off n, false) ∧ p.1.elsewhere = d.elsewhere ∧
      ∀ x, p.1.byte x = if off ≤ x ∧ x < off + n then (leBytes n (if op = 7 then intNew op n (d.load off n) (leNat ((data.drop n).take n)) (leNat (data.take n)) else
        intNew op n (d.load off n) (leNat (data.take n)) 0)).getD (x - off) 0#8 else d.byte x := by
  intro p
  have b1 : ((List.range 4).any fun k => d.badAt (off / 64 * 64 + 16 * k)) = false := by
    rw [List.any_eq_false]; intro k hk; rw [List.mem_range] at hk
    rw [hb _ (by omega)]; simp
  have b2 : (d.badMask off n != 0#64) = false := by
    unfold Device.badMask
    rw [List.filter_eq_nil_iff.2]
    · rfl
    · intro i hi; rw [List.mem_range] at hi
      rw [hb _ (by rcases hn with h | h <;> subst h <;> omega)]; simp
  have hbad : (if l2.isSome then d.badMask off n != 0#64 else ((List.range 4).any fun k => d.badAt (off / 64 * 64 + 16 * k))) = false := by
    split <;> assumption
  have e : p = ((match l2 with | some h => d.putL h [(off, (Rmw.int op n).new (d.bytes off n) data, 0#64)] | none => d.putP off ((Rmw.int op n).new (d.bytes off n) data) 0#64), d.bytes off n, false) := by
    show d.rmw l2 (.int op n) off data = _
    unfold Device.rmw Rmw.bytes
    dsimp only
    rw [hbad]
    cases l2 <;> rfl
  have hl : ((Rmw.int op n).new (d.bytes off n) data).length = n := by unfold Rmw.new; dsimp only; rw [leBytes_length]
  rw [e]
  refine ⟨rfl, ?_, ?_⟩
  · cases l2
    · exact putP_elsewhere ..
    · exact putL_elsewhere ..
  · intro x
    have : ∀ (q : Device), (q.byte x = if off ≤ x ∧ x < off + ((Rmw.int op n).new (d.bytes off n) data).length then ((Rmw.int op n).new (d.bytes off n) data).getD (x - off) 0#8 else d.byte x) →
        q.byte x = if off ≤ x ∧ x < off + n then (leBytes n (if op = 7 then intNew op n (d.load off n) (leNat ((data.drop n).take n)) (leNat (data.take n)) else
        intNew op n (d.load off n) (leNat (data.take n)) 0)).getD (x - off) 0#8 else d.byte x := by
      intro q hq; rw [hq, hl]; rfl
    apply this
    cases l2
    · exact putP_byte ..
    · exact putL_byte ..

theorem afterRmw_does (s : State) (l2 : Option Nat) (off n : Nat) (d : Device) (h : regionOf off ≠ .atrium) (hr : s.recording = false) :
    (s.afterRmw l2 off n d).me = s.me ∧ (∀ x, (s.afterRmw l2 off n d).dev.byte x = d.byte x) ∧ (s.afterRmw l2 off n d).dev.elsewhere = d.elsewhere ∧
    (s.afterRmw l2 off n d).co = s.co ∧ (s.afterRmw l2 off n d).cx = s.cx ∧ (s.afterRmw l2 off n d).free = s.free ∧ ∃ ts, (s.afterRmw l2 off n d).turns = ts ++ s.turns := by
  unfold State.afterRmw
  dsimp only
  rw [hr, if_neg h]
  simp only [Bool.false_eq_true, if_false]
  unfold State.softWrite State.keptIn
  simp only [h, if_false]
  cases l2
  all_goals
    dsimp only
    generalize hq : ({ (_ : Device) with recUnit := _ } : Device) = q
    obtain ⟨ts, e⟩ := notice_eq (s.setDev q) off n
    rw [e]
    subst hq
    exact ⟨rfl, fun _ => rfl, rfl, rfl, rfl, rfl, ts, rfl⟩

theorem leNat_drop (bs : List Byte) : ∀ j, leNat (bs.drop j) = leNat bs / 256 ^ j := by
  induction bs with
  | nil => intro j; simp [leNat]
  | cons b bs ih =>
    intro j
    cases j with
    | zero => simp
    | succ j =>
      have := b.isLt
      rw [List.drop_succ_cons, ih, Nat.pow_succ' (m := 256), ← Nat.div_div_eq_div_mul]
      have e : (b.toNat + 256 * leNat bs) / 256 = leNat bs := by omega
      show _ = (b.toNat + 256 * leNat bs) / 256 / 256 ^ j
      rw [e]
theorem leNat_take (bs : List Byte) : ∀ j, leNat (bs.take j) = leNat bs % 256 ^ j := by
  induction bs with
  | nil => intro j; simp [leNat]
  | cons b bs ih =>
    intro j
    cases j with
    | zero => simp [leNat, Nat.mod_one]
    | succ j =>
      have := b.isLt
      rw [List.take_succ_cons]
      show b.toNat + 256 * leNat (bs.take j) = (b.toNat + 256 * leNat bs) % 256 ^ (j + 1)
      rw [ih, Nat.pow_succ' (m := 256), Nat.mod_mul (a := 256)]
      have e : (b.toNat + 256 * leNat bs) / 256 = leNat bs := by omega
      have e2 : (b.toNat + 256 * leNat bs) % 256 = b.toNat := by omega
      rw [e, e2]

end Sys2Proof.Machine
end

