-- ==== Sys2Proof/Laws/Encoding.lean ====
section
/-!
SUPPORT. The encoder against the decoder: the fields of a word are read back as they were written, one lemma per layout of Tables
8-1 to 8-4. Laws/PerInstr.lean uses them for every constructor.
-/
namespace Sys2Proof


theorem byte_ofNat (w : Word) : BitVec.ofNat 8 w.toNat = w.extractLsb' 0 8 := by
  apply BitVec.eq_of_toNat_eq; simp

theorem leBytes4 (w : Word) :
    Machine.leBytes 4 w.toNat = [w.extractLsb' 0 8, w.extractLsb' 8 8, w.extractLsb' 16 8, w.extractLsb' 24 8] := by
  simp only [Machine.leBytes, List.cons.injEq, and_true]
  refine ⟨?_, ?_, ?_, ?_⟩ <;> apply BitVec.eq_of_toNat_eq <;> simp [Nat.shiftRight_eq_div_pow, Nat.div_div_eq_div_mul]

theorem wordOf4 (w : Word) :
    wordOf [w.extractLsb' 0 8, w.extractLsb' 8 8, w.extractLsb' 16 8, w.extractLsb' 24 8] = w := by
  apply BitVec.eq_of_toNat_eq
  have := w.isLt
  simp [wordOf, Machine.leNat, Nat.shiftRight_eq_div_pow]
  omega

theorem wordOf2 (w : Word) : (wordOf [w.extractLsb' 0 8, w.extractLsb' 8 8]).getLsbD 0 = w.getLsbD 0 := by
  have := w.isLt
  simp [wordOf, Machine.leNat, Nat.shiftRight_eq_div_pow, BitVec.getLsbD, Nat.testBit_zero] 
  omega

theorem decode_one (w : Word) (h : w.getLsbD 0 = true) (hl : hasLiteral (Raw.ofWord w 0#32) = false) :
    decode (Enc.one w).bytes = match decodeWord w 0#32 with
      | .ok i => .ok (i, 4)
      | .error c => .error (.ill c) := by
  rw [Enc.bytes, leBytes4]
  simp only [decode, wordOf2, wordOf4, h, hl]
  cases decodeWord w 0#32 <;> rfl

theorem decode_two (w l : Word) (h : w.getLsbD 0 = true) (hl : hasLiteral (Raw.ofWord w 0#32) = true) :
    decode (Enc.two w l).bytes = match decodeWord w l with
      | .ok i => .ok (i, 8)
      | .error c => .error (.ill c) := by
  rw [Enc.bytes, leBytes4, leBytes4]
  simp only [List.cons_append, List.nil_append, decode, wordOf2, wordOf4, h, hl]
  cases decodeWord w l <;> rfl


theorem extract_left {n m : Nat} (x : BitVec n) (y : BitVec m) (k l : Nat) (h : m ≤ k) :
    (x ++ y).extractLsb' k l = x.extractLsb' (k - m) l := by
  ext i hi
  simp only [BitVec.getElem_extractLsb', BitVec.getLsbD_append]
  rw [if_neg (by omega)]
  congr 1; omega

theorem extract_right {n m : Nat} (x : BitVec n) (y : BitVec m) (k l : Nat) (h : k + l ≤ m) :
    (x ++ y).extractLsb' k l = y.extractLsb' k l := by
  ext i hi
  simp only [BitVec.getElem_extractLsb', BitVec.getLsbD_append]
  rw [if_pos (by omega)]

theorem word_bit (mn : BitVec 4) (mb ma : Bool) (b a d maj : BitVec 6) (u : Bool) (i : Nat) :
    (word mn mb ma b a d maj u).getLsbD i = (mn ++ BitVec.ofBool mb ++ BitVec.ofBool ma ++ b ++ a ++ d ++ maj ++ BitVec.ofBool u ++ 1#1 : BitVec (4 + 1 + 1 + 6 + 6 + 6 + 6 + 1 + 1)).getLsbD i := rfl

theorem word_extract (mn : BitVec 4) (mb ma : Bool) (b a d maj : BitVec 6) (u : Bool) (i n : Nat) :
    (word mn mb ma b a d maj u).extractLsb' i n = (mn ++ BitVec.ofBool mb ++ BitVec.ofBool ma ++ b ++ a ++ d ++ maj ++ BitVec.ofBool u ++ 1#1 : BitVec (4 + 1 + 1 + 6 + 6 + 6 + 6 + 1 + 1)).extractLsb' i n := rfl

theorem word_bit0 (mn : BitVec 4) (mb ma : Bool) (b a d maj : BitVec 6) (u : Bool) : (word mn mb ma b a d maj u).getLsbD 0 = true := by
  simp only [word_bit, BitVec.getLsbD_append]; simp

theorem word_mn (mn : BitVec 4) (mb ma : Bool) (b a d maj : BitVec 6) (u : Bool) : (word mn mb ma b a d maj u).extractLsb' 28 3 = mn.extractLsb' 0 3 := by
  rw [word_extract]
  rw [extract_left _ _ _ _ (by decide)]
  rw [extract_left _ _ _ _ (by decide)]
  rw [extract_left _ _ _ _ (by decide)]
  rw [extract_left _ _ _ _ (by decide)]
  rw [extract_left _ _ _ _ (by decide)]
  rw [extract_left _ _ _ _ (by decide)]
  rw [extract_left _ _ _ _ (by decide)]
  rw [extract_left _ _ _ _ (by decide)]

theorem word_b (mn : BitVec 4) (mb ma : Bool) (b a d maj : BitVec 6) (u : Bool) : (word mn mb ma b a d maj u).extractLsb' 20 6 = b := by
  rw [word_extract]
  rw [extract_left _ _ _ _ (by decide)]
  rw [extract_left _ _ _ _ (by decide)]
  rw [extract_left _ _ _ _ (by decide)]
  rw [extract_left _ _ _ _ (by decide)]
  rw [extract_left _ _ _ _ (by decide)]
  rw [extract_right _ _ _ _ (by decide)]
  exact BitVec.extractLsb'_eq_self

theorem word_a (mn : BitVec 4) (mb ma : Bool) (b a d maj : BitVec 6) (u : Bool) : (word mn mb ma b a d maj u).extractLsb' 14 6 = a := by
  rw [word_extract]
  rw [extract_left _ _ _ _ (by decide)]
  rw [extract_left _ _ _ _ (by decide)]
  rw [extract_left _ _ _ _ (by decide)]
  rw [extract_left _ _ _ _ (by decide)]
  rw [extract_right _ _ _ _ (by decide)]
  exact BitVec.extractLsb'_eq_self

theorem word_d (mn : BitVec 4) (mb ma : Bool) (b a d maj : BitVec 6) (u : Bool) : (word mn mb ma b a d maj u).extractLsb' 8 6 = d := by
  rw [word_extract]
  rw [extract_left _ _ _ _ (by decide)]
  rw [extract_left _ _ _ _ (by decide)]
  rw [extract_left _ _ _ _ (by decide)]
  rw [extract_right _ _ _ _ (by decide)]
  exact BitVec.extractLsb'_eq_self

theorem word_maj (mn : BitVec 4) (mb ma : Bool) (b a d maj : BitVec 6) (u : Bool) : (word mn mb ma b a d maj u).extractLsb' 2 6 = maj := by
  rw [word_extract]
  rw [extract_left _ _ _ _ (by decide)]
  rw [extract_left _ _ _ _ (by decide)]
  rw [extract_right _ _ _ _ (by decide)]
  exact BitVec.extractLsb'_eq_self

theorem ofWord_word (mn : BitVec 4) (mb ma : Bool) (b a d maj : BitVec 6) (u : Bool) (lit : Word) :
    Raw.ofWord (word mn mb ma b a d maj u) lit =
      { m3 := mn.getLsbD 3, mn := (mn.extractLsb' 0 3).toNat, mnb := mn.extractLsb' 0 3, mb := mb, ma := ma, b := b, a := a, d := d,
        maj := maj.toNat, u := u, lit := lit } := by
  unfold Raw.ofWord
  rw [word_mn, word_b, word_a, word_d, word_maj]
  simp only [word_bit, BitVec.getLsbD_append]
  simp only [Nat.reduceSub, Nat.reduceLT, reduceIte, BitVec.getLsbD_ofBool, Nat.lt_irrefl, decide_true, Bool.true_and]


theorem decodeWord_ok (w lit : Word) (p : Parsed) (h0 : (Raw.ofWord w lit).maj ≠ 0) (hp : parse (Raw.ofWord w lit) = some p)
    (hi : p.i.ill = none) (hu : ((Raw.ofWord w lit).u && !permitsU (Raw.ofWord w lit).maj) = false)
    (hf : p.field = false) (hk : p.mark = false) : decodeWord w lit = .ok p.i := by
  simp only [decodeWord]
  rw [if_neg h0, hp]
  simp [hi, hu, hf, hk]

theorem one_ok {w : Word} {i : Instr} (h : w.getLsbD 0 = true) (hl : hasLiteral (Raw.ofWord w 0#32) = false)
    (hd : decodeWord w 0#32 = .ok i) : decode (Enc.one w).bytes = .ok (i, (Enc.one w).bytes.length) := by
  rw [decode_one w h hl, hd, Enc.bytes, leBytes4]; rfl

theorem two_ok {w l : Word} {i : Instr} (h : w.getLsbD 0 = true) (hl : hasLiteral (Raw.ofWord w 0#32) = true)
    (hd : decodeWord w l = .ok i) : decode (Enc.two w l).bytes = .ok (i, (Enc.two w l).bytes.length) := by
  rw [decode_two w l h hl, hd, Enc.bytes, leBytes4, leBytes4]; rfl

theorem low3 (x : BitVec 1) (mn : BitVec 3) : (x ++ mn).extractLsb' 0 3 = mn := by
  rw [extract_right _ _ _ _ (by decide)]; exact BitVec.extractLsb'_eq_self
theorem top1 (x : BitVec 1) (mn : BitVec 3) : (x ++ mn).getLsbD 3 = x.getLsbD 0 := by
  simp only [BitVec.getLsbD_append]; simp

/-- The majors of kind A, in which b may be a literal (R204). -/
def litMajor (maj : Nat) : Bool := (1 ≤ maj && maj ≤ 11) || maj == 14 || maj == 15 || maj == 0x13


theorem litMajor_ne (m : Nat) (h : litMajor m = true) : m ≠ 0 := by
  intro e; subst e; simp [litMajor] at h

theorem litMajor_has (r : Raw) (h : litMajor r.maj = true) : hasLiteral r = (r.m3 && r.b == 63#6) := by
  simp only [litMajor, Bool.or_eq_true, Bool.and_eq_true, decide_eq_true_eq, beq_iff_eq] at h
  have hb : (r.maj == 0x18) = false := by simp only [beq_eq_false_iff_ne]; omega
  have ha : ((1 ≤ r.maj && r.maj ≤ 11) || r.maj == 14 || r.maj == 15 || r.maj == 0x13 || (0x15 ≤ r.maj && r.maj ≤ 0x17)) = true := by
    simp only [Bool.or_eq_true, Bool.and_eq_true, decide_eq_true_eq, beq_iff_eq]; omega
  simp only [hasLiteral, ha, hb, Bool.and_true, Bool.false_and, Bool.or_false]

theorem round_A (maj : BitVec 6) (mn : BitVec 3) (d a : Reg) (b : BOp) (ma mb u : Bool) (i : Instr)
    (hp : ∀ r : Raw, r.maj = maj.toNat → r.mn = mn.toNat → r.mnb = mn → r.d = d → r.a = a → r.bop = b → r.ma = ma → r.mb = mb → r.u = u →
      parse r = some { i := i, field := false, mark := false })
    (h0 : litMajor maj.toNat = true) (hu : (u && !permitsU maj.toNat) = false)
    (hi : i.ill = none) (hb : b ≠ .s 63#6) :
    ∀ e, e = encLane2 maj mn { d := d, a := a, b := b, ma := ma, mb := mb, u := u } → decode e.bytes = .ok (i, e.bytes.length) := by
  intro e he
  subst he
  have hm := litMajor_ne _ h0
  cases b with
  | v r =>
    refine one_ok (word_bit0 ..) ?_ ?_
    · rw [ofWord_word, litMajor_has _ h0]; simp only [top1]; rfl
    · refine decodeWord_ok _ _ { i := i, field := false, mark := false } ?_ ?_ hi ?_ rfl rfl
      · rw [ofWord_word]; exact hm
      · rw [ofWord_word]; refine hp _ rfl ?_ ?_ rfl rfl ?_ rfl rfl rfl
        · simp only [low3]
        · simp only [low3]
        · simp only [Raw.bop, top1]; rfl
      · rw [ofWord_word]; exact hu
  | s r =>
    have hr : (r == 63#6) = false := by
      simp only [beq_eq_false_iff_ne]; intro h; exact hb (by rw [h])
    refine one_ok (word_bit0 ..) ?_ ?_
    · rw [ofWord_word, litMajor_has _ h0]; simp only [hr, Bool.and_false]
    · refine decodeWord_ok _ _ { i := i, field := false, mark := false } ?_ ?_ hi ?_ rfl rfl
      · rw [ofWord_word]; exact hm
      · rw [ofWord_word]; refine hp _ rfl ?_ ?_ rfl rfl ?_ rfl rfl rfl
        · simp only [low3]
        · simp only [low3]
        · have : r ≠ 63#6 := by simpa using hr
          simp only [Raw.bop, top1]; simp [this]
      · rw [ofWord_word]; exact hu
  | lit l =>
    refine two_ok (word_bit0 ..) ?_ ?_
    · rw [ofWord_word, litMajor_has _ h0]; simp only [top1]; simp
    · refine decodeWord_ok _ _ { i := i, field := false, mark := false } ?_ ?_ hi ?_ rfl rfl
      · rw [ofWord_word]; exact hm
      · rw [ofWord_word]; refine hp _ rfl ?_ ?_ rfl rfl ?_ rfl rfl rfl
        · simp only [low3]
        · simp only [low3]
        · simp only [Raw.bop, top1]; simp
      · rw [ofWord_word]; exact hu

theorem BOp.ill_ne {b : BOp} {mb : Bool} (h : b.ill mb = none) : b ≠ .s 63#6 := by
  intro e; subst e; simp [BOp.ill] at h


/-! ## Parts of fields -/

@[simp] theorem minor13_0 (x : Bool) (y : BitVec 3) : (BitVec.ofBool x ++ y : BitVec 4).extractLsb' 0 3 = y := by
  revert x y; decide

@[simp] theorem minor13_1 (x : Bool) (y : BitVec 3) : (BitVec.ofBool x ++ y : BitVec 4)[3] = x := by
  revert x y; decide

@[simp] theorem minor13_2 (x : Bool) (y : BitVec 3) : (BitVec.ofBool x ++ y : BitVec 4).getLsbD 3 = x := by
  revert x y; decide

@[simp] theorem minor03_0 (y : BitVec 3) : (0#1 ++ y : BitVec 4).extractLsb' 0 3 = y := by
  revert y; decide

@[simp] theorem minor03_1 (y : BitVec 3) : (0#1 ++ y : BitVec 4)[3] = false := by
  revert y; decide

@[simp] theorem minor03_2 (y : BitVec 3) : (0#1 ++ y : BitVec 4).getLsbD 3 = false := by
  revert y; decide

@[simp] theorem minor112_0 (x y : Bool) (z : BitVec 2) : (BitVec.ofBool x ++ BitVec.ofBool y ++ z : BitVec 4).extractLsb' 0 3 = BitVec.ofBool y ++ z := by
  revert x y z; decide

@[simp] theorem minor112_1 (x y : Bool) (z : BitVec 2) : (BitVec.ofBool x ++ BitVec.ofBool y ++ z : BitVec 4)[3] = x := by
  revert x y z; decide

@[simp] theorem minor112_2 (x y : Bool) (z : BitVec 2) : (BitVec.ofBool x ++ BitVec.ofBool y ++ z : BitVec 4).getLsbD 3 = x := by
  revert x y z; decide

@[simp] theorem order12_0 (y : Bool) (z : BitVec 2) : (BitVec.ofBool y ++ z : BitVec 3).extractLsb' 0 2 = z := by
  revert y z; decide

@[simp] theorem order12_1 (y : Bool) (z : BitVec 2) : (BitVec.ofBool y ++ z : BitVec 3)[2] = y := by
  revert y z; decide

@[simp] theorem order12_2 (y : Bool) (z : BitVec 2) : (BitVec.ofBool y ++ z : BitVec 3).getLsbD 2 = y := by
  revert y z; decide

@[simp] theorem field33_0 (x y : BitVec 3) : (x ++ y : BitVec 6).extractLsb' 0 3 = y := by
  revert x y; decide

@[simp] theorem field33_1 (x y : BitVec 3) : (x ++ y : BitVec 6).extractLsb' 3 3 = x := by
  revert x y; decide

@[simp] theorem field33_2 (x y : BitVec 3) : (x ++ y : BitVec 6).setWidth 3 = y := by
  revert x y; decide

@[simp] theorem field33_3 (x y : BitVec 3) : (x ++ y : BitVec 6).toNat / 8 = x.toNat := by
  revert x y; decide

@[simp] theorem field33_4 (x y : BitVec 3) : (x ++ y : BitVec 6)[5] = x[2] := by
  revert x y; decide

@[simp] theorem field33_5 (x y : BitVec 3) : (x ++ y : BitVec 6)[3] = x[0] := by
  revert x y; decide

@[simp] theorem field33_6 (x y : BitVec 3) : (x ++ y : BitVec 6)[4] = x[1] := by
  revert x y; decide

@[simp] theorem field42_0 (x : BitVec 4) (y : BitVec 2) : (x ++ y : BitVec 6).extractLsb' 0 3 = x.extractLsb' 0 1 ++ y := by
  revert x y; decide
@[simp] theorem field42_1 (x : BitVec 4) (y : BitVec 2) : (x ++ y : BitVec 6).extractLsb' 3 3 = x.extractLsb' 1 3 := by
  revert x y; decide
@[simp] theorem field42_2 (x : BitVec 4) (y : BitVec 2) : (x ++ y : BitVec 6).setWidth 2 = y := by
  revert x y; decide
@[simp] theorem field42_3 (x : BitVec 4) (y : BitVec 2) : (x ++ y : BitVec 6).toNat / 4 = x.toNat := by
  revert x y; decide
@[simp] theorem field42_4 (x : BitVec 4) (y : BitVec 2) : (x ++ y : BitVec 6).extractLsb' 0 2 = y := by
  revert x y; decide
@[simp] theorem field42_5 (x : BitVec 4) (y : BitVec 2) : (x ++ y : BitVec 6)[2] = x[0] := by
  revert x y; decide
@[simp] theorem field42_6 (x : BitVec 4) (y : BitVec 2) : (x ++ y : BitVec 6)[5] = x[3] := by
  revert x y; decide

@[simp] theorem field24_0 (x : BitVec 2) (y : BitVec 4) : (x ++ y : BitVec 6).extractLsb' 4 2 = x := by
  revert x y; decide

@[simp] theorem field24_1 (x : BitVec 2) (y : BitVec 4) : (x ++ y : BitVec 6).setWidth 4 = y := by
  revert x y; decide

@[simp] theorem field24_2 (x : BitVec 2) (y : BitVec 4) : (x ++ y : BitVec 6).toNat / 16 = x.toNat := by
  revert x y; decide

@[simp] theorem field24_3 (x : BitVec 2) (y : BitVec 4) : (x ++ y : BitVec 6)[4] = x[0] := by
  revert x y; decide

@[simp] theorem field15_0 (x : Bool) (y : BitVec 5) : (BitVec.ofBool x ++ y : BitVec 6)[5] = x := by
  revert x y; decide

@[simp] theorem field15_1 (x : Bool) (y : BitVec 5) : (BitVec.ofBool x ++ y : BitVec 6).setWidth 5 = y := by
  revert x y; decide

@[simp] theorem field312_0 (x : BitVec 3) (y : Bool) (z : BitVec 2) : (x ++ BitVec.ofBool y ++ z : BitVec 6).extractLsb' 3 3 = x := by
  revert x y z; decide

@[simp] theorem field312_1 (x : BitVec 3) (y : Bool) (z : BitVec 2) : (x ++ BitVec.ofBool y ++ z : BitVec 6)[2] = y := by
  revert x y z; decide

@[simp] theorem field312_2 (x : BitVec 3) (y : Bool) (z : BitVec 2) : (x ++ BitVec.ofBool y ++ z : BitVec 6).extractLsb' 0 2 = z := by
  revert x y z; decide

@[simp] theorem field302_0 (x : BitVec 3) (z : BitVec 2) : (x ++ 0#1 ++ z : BitVec 6).extractLsb' 3 3 = x := by
  revert x z; decide

@[simp] theorem field302_1 (x : BitVec 3) (z : BitVec 2) : (x ++ 0#1 ++ z : BitVec 6)[2] = false := by
  revert x z; decide

@[simp] theorem field302_2 (x : BitVec 3) (z : BitVec 2) : (x ++ 0#1 ++ z : BitVec 6).extractLsb' 0 2 = z := by
  revert x z; decide

@[simp] theorem field123_0 (x : BitVec 2) (y : BitVec 3) : (0#1 ++ x ++ y : BitVec 6).extractLsb' 3 3 = 0#1 ++ x := by
  revert x y; decide

@[simp] theorem field123_1 (x : BitVec 2) (y : BitVec 3) : (0#1 ++ x ++ y : BitVec 6).extractLsb' 0 3 = y := by
  revert x y; decide

@[simp] theorem field123_2 (x : BitVec 2) (y : BitVec 3) : (0#1 ++ x ++ y : BitVec 6)[5] = false := by
  revert x y; decide

@[simp] theorem low12_0 (x : BitVec 2) : (0#1 ++ x : BitVec 3).setWidth 2 = x := by
  revert x; decide

@[simp] theorem signal33_0 (y : BitVec 3) : (1#3 ++ y : BitVec 6).toNat / 16 = 0 := by
  revert y; decide

@[simp] theorem signal03_0 (y : BitVec 3) : (0#3 ++ y : BitVec 6).toNat / 16 = 0 := by
  revert y; decide

@[simp] theorem signal03_1 (y : BitVec 3) : (0#3 ++ y : BitVec 6).toNat / 4 = y.toNat / 4 := by
  revert y; decide

@[simp] theorem idx_split (x : BitVec 12) : (x.extractLsb' 6 6 ++ x.extractLsb' 0 6 : BitVec (6 + 6)) = x := by
  apply BitVec.eq_of_toNat_eq
  have := x.isLt
  rw [BitVec.toNat_append, BitVec.extractLsb'_toNat, BitVec.extractLsb'_toNat, Nat.shiftLeft_eq, Nat.shiftRight_eq_div_pow, Nat.shiftRight_eq_div_pow]
  rw [Nat.mul_comm, ← Nat.two_pow_add_eq_or_of_lt (by omega)]
  omega

/-! ## One lemma per layout -/

theorem round_W (mn : BitVec 4) (mb ma : Bool) (b a d maj : BitVec 6) (u : Bool) (i : Instr)
    (hp : parse { m3 := mn.getLsbD 3, mn := (mn.extractLsb' 0 3).toNat, mnb := mn.extractLsb' 0 3, mb := mb, ma := ma, b := b, a := a,
                  d := d, maj := maj.toNat, u := u, lit := 0#32 } = some { i := i, field := false, mark := false })
    (h0 : maj.toNat ≠ 0)
    (hl : hasLiteral { m3 := mn.getLsbD 3, mn := (mn.extractLsb' 0 3).toNat, mnb := mn.extractLsb' 0 3, mb := mb, ma := ma, b := b,
                       a := a, d := d, maj := maj.toNat, u := u, lit := 0#32 } = false)
    (hu : (u && !permitsU maj.toNat) = false) (hi : i.ill = none) :
    decode (Enc.one (word mn mb ma b a d maj u)).bytes = .ok (i, (Enc.one (word mn mb ma b a d maj u)).bytes.length) := by
  refine one_ok (word_bit0 ..) ?_ (decodeWord_ok _ _ { i := i, field := false, mark := false } ?_ ?_ hi ?_ rfl rfl)
  · rw [ofWord_word]; exact hl
  · rw [ofWord_word]; exact h0
  · rw [ofWord_word]; exact hp
  · rw [ofWord_word]; exact hu

theorem round_W2 (mn : BitVec 4) (mb ma : Bool) (b a d maj : BitVec 6) (u : Bool) (l : Word) (i : Instr)
    (hp : parse { m3 := mn.getLsbD 3, mn := (mn.extractLsb' 0 3).toNat, mnb := mn.extractLsb' 0 3, mb := mb, ma := ma, b := b, a := a,
                  d := d, maj := maj.toNat, u := u, lit := l } = some { i := i, field := false, mark := false })
    (h0 : maj.toNat ≠ 0)
    (hl : hasLiteral { m3 := mn.getLsbD 3, mn := (mn.extractLsb' 0 3).toNat, mnb := mn.extractLsb' 0 3, mb := mb, ma := ma, b := b,
                       a := a, d := d, maj := maj.toNat, u := u, lit := 0#32 } = true)
    (hu : (u && !permitsU maj.toNat) = false) (hi : i.ill = none) :
    decode (Enc.two (word mn mb ma b a d maj u) l).bytes = .ok (i, (Enc.two (word mn mb ma b a d maj u) l).bytes.length) := by
  refine two_ok (word_bit0 ..) ?_ (decodeWord_ok _ _ { i := i, field := false, mark := false } ?_ ?_ hi ?_ rfl rfl)
  · rw [ofWord_word]; exact hl
  · rw [ofWord_word]; exact h0
  · rw [ofWord_word]; exact hp
  · rw [ofWord_word]; exact hu

theorem round_S (maj : BitVec 6) (mn : BitVec 3) (d a : Reg) (b : SOp) (i : Instr)
    (hp : ∀ r : Raw, r.maj = maj.toNat → r.mn = mn.toNat → r.d = d → r.a = a → r.sop = b → r.ma = false → r.mb = false →
      (r.m3 = true → r.b = 63#6) → parse r = some { i := i, field := false, mark := false })
    (h0 : maj = 0x15#6 ∨ maj = 0x16#6 ∨ maj = 0x17#6) (hi : i.ill = none) :
    ∀ e, e = encSalu maj mn d a b → decode e.bytes = .ok (i, e.bytes.length) := by
  intro e he
  subst he
  cases b with
  | s r =>
    refine round_W _ _ _ _ _ _ _ _ _ (hp _ rfl ?_ rfl rfl ?_ rfl rfl ?_) ?_ ?_ rfl hi
    · simp only [low3]
    · simp only [Raw.sop, top1]; rfl
    · simp only [top1]; intro h; cases h
    · rcases h0 with rfl | rfl | rfl <;> decide
    · simp only [top1]; rcases h0 with rfl | rfl | rfl <;> simp [hasLiteral]
  | lit l =>
    refine round_W2 _ _ _ _ _ _ _ _ _ _ (hp _ rfl ?_ rfl rfl ?_ rfl rfl ?_) ?_ ?_ rfl hi
    · simp only [low3]
    · simp only [Raw.sop, top1]; rfl
    · intro _; rfl
    · rcases h0 with rfl | rfl | rfl <;> decide
    · simp only [top1]; rcases h0 with rfl | rfl | rfl <;> simp [hasLiteral]

theorem round_hint (m : BitVec 4) (mb ma : Bool) (b a d : Reg) (k : BitVec 2) (u : Bool) :
    decode (Enc.one (word m mb ma b a d (15#4 ++ k) u)).bytes =
      .ok (.hint m mb ma b a d k u, (Enc.one (word m mb ma b a d (15#4 ++ k) u)).bytes.length) := by
  have hm : (BitVec.ofBool m[3] ++ m.extractLsb' 0 3 : BitVec (1 + 3)) = m := by revert m; decide
  have hk : k = 0#2 ∨ k = 1#2 ∨ k = 2#2 ∨ k = 3#2 := by revert k; decide
  refine round_W _ _ _ _ _ _ _ _ _ ?_ ?_ ?_ ?_ rfl <;> rcases hk with rfl | rfl | rfl | rfl <;>
    simp [parse, Raw.hint, hm, hasLiteral, permitsU]

theorem half_bits (x : BitVec 16) : wordOf (Machine.leBytes 2 x.toNat) = (0#16 ++ x : BitVec (16 + 16)) := by
  apply BitVec.eq_of_toNat_eq
  have h := x.isLt
  rw [BitVec.toNat_append]
  simp [wordOf, Machine.leBytes, Machine.leNat]
  omega

theorem header_bit (h : Header) (i : Nat) : h.word.getLsbD i = (0#3 ++ BitVec.ofBool h.p ++ h.wait ++ h.b ++ h.a ++ 0#6
    ++ BitVec.ofBool h.y ++ 1#1 : BitVec (3 + 1 + 12 + 4 + 4 + 6 + 1 + 1)).getLsbD i := rfl

theorem round_half (c : BitVec 4) (o : Op16) :
    decode (enc16 c o).bytes = .ok (parseHalf c.toNat o, (enc16 c o).bytes.length) := by
  have e : (enc16 c o).bytes = Machine.leBytes 2 (o.s ++ o.d ++ c ++ BitVec.ofBool o.u ++ 0#1 : BitVec (5 + 5 + 4 + 1 + 1)).toNat := rfl
  have hb := half_bits (o.s ++ o.d ++ c ++ BitVec.ofBool o.u ++ 0#1 : BitVec (5 + 5 + 4 + 1 + 1))
  rw [e]
  generalize hx : (o.s ++ o.d ++ c ++ BitVec.ofBool o.u ++ 0#1 : BitVec (5 + 5 + 4 + 1 + 1)) = x at hb ⊢
  simp only [Machine.leBytes] at hb ⊢
  simp only [decode, hb]
  have h0 : (0#16 ++ x : BitVec (16 + 16)).getLsbD 0 = false := by
    subst hx; simp only [BitVec.getLsbD_append]; simp
  have h1 : (0#16 ++ x : BitVec (16 + 16)).getLsbD 1 = o.u := by
    subst hx; simp only [BitVec.getLsbD_append]; simp
  have hc : (0#16 ++ x : BitVec (16 + 16)).extractLsb' 2 4 = c := by
    subst hx
    rw [extract_right _ _ _ _ (by decide), extract_left _ _ _ _ (by decide), extract_left _ _ _ _ (by decide),
      extract_right _ _ _ _ (by decide)]
    exact BitVec.extractLsb'_eq_self
  have hd : (0#16 ++ x : BitVec (16 + 16)).extractLsb' 6 5 = o.d := by
    subst hx
    rw [extract_right _ _ _ _ (by decide), extract_left _ _ _ _ (by decide), extract_left _ _ _ _ (by decide),
      extract_left _ _ _ _ (by decide), extract_right _ _ _ _ (by decide)]
    exact BitVec.extractLsb'_eq_self
  have hs : (0#16 ++ x : BitVec (16 + 16)).extractLsb' 11 5 = o.s := by
    subst hx
    rw [extract_right _ _ _ _ (by decide), extract_left _ _ _ _ (by decide), extract_left _ _ _ _ (by decide),
      extract_left _ _ _ _ (by decide), extract_left _ _ _ _ (by decide)]
    exact BitVec.extractLsb'_eq_self
  rw [if_pos h0, hc, hd, hs, h1]
  rfl

theorem round_header (h : Header) (w : WellFormed (.clauseHeader h)) :
    decode (encHeader h).bytes = .ok (.clauseHeader h, (encHeader h).bytes.length) := by
  have e : h.word = (0#3 ++ BitVec.ofBool h.p ++ h.wait ++ h.b ++ h.a ++ 0#6 ++ BitVec.ofBool h.y ++ 1#1 :
      BitVec (3 + 1 + 12 + 4 + 4 + 6 + 1 + 1)) := rfl
  have h0 : h.word.getLsbD 0 = true := by rw [header_bit]; simp only [BitVec.getLsbD_append]; simp
  have hm : (h.word.extractLsb' 2 6) = 0#6 := by
    rw [e, extract_left _ _ _ _ (by decide), extract_left _ _ _ _ (by decide), extract_right _ _ _ _ (by decide)]
    exact BitVec.extractLsb'_eq_self
  have ha : (h.word.extractLsb' 8 4) = h.a := by
    rw [e, extract_left _ _ _ _ (by decide), extract_left _ _ _ _ (by decide), extract_left _ _ _ _ (by decide),
      extract_right _ _ _ _ (by decide)]
    exact BitVec.extractLsb'_eq_self
  have hb : (h.word.extractLsb' 12 4) = h.b := by
    rw [e, extract_left _ _ _ _ (by decide), extract_left _ _ _ _ (by decide), extract_left _ _ _ _ (by decide),
      extract_left _ _ _ _ (by decide), extract_right _ _ _ _ (by decide)]
    exact BitVec.extractLsb'_eq_self
  have hw : (h.word.extractLsb' 16 12) = h.wait := by
    rw [e, extract_left _ _ _ _ (by decide), extract_left _ _ _ _ (by decide), extract_left _ _ _ _ (by decide),
      extract_left _ _ _ _ (by decide), extract_left _ _ _ _ (by decide), extract_right _ _ _ _ (by decide)]
    exact BitVec.extractLsb'_eq_self
  have ht : (h.word.extractLsb' 29 3) = 0#3 := by
    rw [e, extract_left _ _ _ _ (by decide), extract_left _ _ _ _ (by decide), extract_left _ _ _ _ (by decide),
      extract_left _ _ _ _ (by decide), extract_left _ _ _ _ (by decide), extract_left _ _ _ _ (by decide),
      extract_left _ _ _ _ (by decide)]
    exact BitVec.extractLsb'_eq_self
  have hp : h.word.getLsbD 28 = h.p := by rw [header_bit]; simp only [BitVec.getLsbD_append]; simp
  have hy : h.word.getLsbD 1 = h.y := by rw [header_bit]; simp only [BitVec.getLsbD_append]; simp
  have hn : (Raw.ofWord h.word 0#32).maj = 0 := by simp only [Raw.ofWord, hm]; rfl
  refine one_ok h0 ?_ ?_
  · simp only [hasLiteral, hn]; simp
  · simp only [decodeWord]
    rw [if_pos hn]
    simp only [parseHeader, ha, hb, hw, ht, hp, hy]
    have hok : ¬ (h.a.toNat ∈ [12, 13, 14] ∨ h.b.toNat ∈ [12, 13, 14]) := by
      intro hh
      have w' : (if h.a.toNat ∈ [12, 13, 14] ∨ h.b.toNat ∈ [12, 13, 14] then some IllCause.hdr else none) = none := w
      rw [if_pos hh] at w'; cases w'
    simp only [List.mem_cons, List.not_mem_nil, or_false, not_or] at hok
    rw [if_neg]
    rintro (h | h | h)
    · exact h rfl
    · omega
    · omega

theorem parse_01 {r : Raw} (h : r.maj = 0x01) : parse r = parse01 r := by
  cases r; cases h; rfl
theorem parse_02 {r : Raw} (h : r.maj = 0x02) : parse r = parse02 r := by
  cases r; cases h; rfl
theorem parse_03 {r : Raw} (h : r.maj = 0x03) : parse r = parse03 r := by
  cases r; cases h; rfl
theorem parse_04 {r : Raw} (h : r.maj = 0x04) : parse r = parse04 r := by
  cases r; cases h; rfl
theorem parse_05 {r : Raw} (h : r.maj = 0x05) : parse r = parse05 r := by
  cases r; cases h; rfl
theorem parse_06 {r : Raw} (h : r.maj = 0x06) : parse r = parse06 r := by
  cases r; cases h; rfl
theorem parse_07 {r : Raw} (h : r.maj = 0x07) : parse r = parse07 r := by
  cases r; cases h; rfl
theorem parse_08 {r : Raw} (h : r.maj = 0x08) : parse r = parse08 r := by
  cases r; cases h; rfl
theorem parse_09 {r : Raw} (h : r.maj = 0x09) : parse r = parse09 r := by
  cases r; cases h; rfl
theorem parse_0A {r : Raw} (h : r.maj = 0x0A) : parse r = parse0A r := by
  cases r; cases h; rfl
theorem parse_0B {r : Raw} (h : r.maj = 0x0B) : parse r = parse0B r := by
  cases r; cases h; rfl
theorem parse_0C {r : Raw} (h : r.maj = 0x0C) : parse r = parse0C r := by
  cases r; cases h; rfl
theorem parse_0D {r : Raw} (h : r.maj = 0x0D) : parse r = parse0D r := by
  cases r; cases h; rfl
theorem parse_0E {r : Raw} (h : r.maj = 0x0E) : parse r = parse0E r := by
  cases r; cases h; rfl
theorem parse_0F {r : Raw} (h : r.maj = 0x0F) : parse r = parse0F r := by
  cases r; cases h; rfl
theorem parse_10 {r : Raw} (h : r.maj = 0x10) : parse r = parse10 r := by
  cases r; cases h; rfl
theorem parse_11 {r : Raw} (h : r.maj = 0x11) : parse r = parse11 r := by
  cases r; cases h; rfl
theorem parse_12 {r : Raw} (h : r.maj = 0x12) : parse r = parse12 r := by
  cases r; cases h; rfl
theorem parse_13 {r : Raw} (h : r.maj = 0x13) : parse r = parse13 r := by
  cases r; cases h; rfl
theorem parse_14 {r : Raw} (h : r.maj = 0x14) : parse r = parse14 r := by
  cases r; cases h; rfl
theorem parse_15 {r : Raw} (h : r.maj = 0x15) : parse r = parse15 r := by
  cases r; cases h; rfl
theorem parse_16 {r : Raw} (h : r.maj = 0x16) : parse r = parse16 r := by
  cases r; cases h; rfl
theorem parse_17 {r : Raw} (h : r.maj = 0x17) : parse r = parse17 r := by
  cases r; cases h; rfl
theorem parse_18 {r : Raw} (h : r.maj = 0x18) : parse r = parse18 r := by
  cases r; cases h; rfl
theorem parse_19 {r : Raw} (h : r.maj = 0x19) : parse r = parse19 r := by
  cases r; cases h; rfl
theorem parse_1A {r : Raw} (h : r.maj = 0x1A) : parse r = parse1A r := by
  cases r; cases h; rfl
theorem parse_1B {r : Raw} (h : r.maj = 0x1B) : parse r = parse1B r := by
  cases r; cases h; rfl
theorem parse_1C {r : Raw} (h : r.maj = 0x1C) : parse r = parse1C r := by
  cases r; cases h; rfl
theorem parse_1D {r : Raw} (h : r.maj = 0x1D) : parse r = parse1D r := by
  cases r; cases h; rfl
theorem parse_1E {r : Raw} (h : r.maj = 0x1E) : parse r = parse1E r := by
  cases r; cases h; rfl
theorem parse_1F {r : Raw} (h : r.maj = 0x1F) : parse r = parse1F r := by
  cases r; cases h; rfl
theorem parse_20 {r : Raw} (h : r.maj = 0x20) : parse r = parse20 r := by
  cases r; cases h; rfl
theorem parse_21 {r : Raw} (h : r.maj = 0x21) : parse r = parse21 r := by
  cases r; cases h; rfl
theorem parse_22 {r : Raw} (h : r.maj = 0x22) : parse r = parse22 r := by
  cases r; cases h; rfl
theorem parse_23 {r : Raw} (h : r.maj = 0x23) : parse r = parse23 r := by
  cases r; cases h; rfl
theorem parse_24 {r : Raw} (h : r.maj = 0x24) : parse r = parse24 r := by
  cases r; cases h; rfl
theorem parse_25 {r : Raw} (h : r.maj = 0x25) : parse r = parse25 r := by
  cases r; cases h; rfl
theorem parse_26 {r : Raw} (h : r.maj = 0x26) : parse r = parse26 r := by
  cases r; cases h; rfl
theorem parse_27 {r : Raw} (h : r.maj = 0x27) : parse r = parse27 r := by
  cases r; cases h; rfl
theorem parse_28 {r : Raw} (h : r.maj = 0x28) : parse r = parse28 r := by
  cases r; cases h; rfl
theorem parse_29 {r : Raw} (h : r.maj = 0x29) : parse r = parse29 r := by
  cases r; cases h; rfl
theorem parse_2A {r : Raw} (h : r.maj = 0x2A) : parse r = parse2A r := by
  cases r; cases h; rfl
theorem parse_2B {r : Raw} (h : r.maj = 0x2B) : parse r = parse2B r := by
  cases r; cases h; rfl

theorem Lane2.cmp_ne {o : Lane2} (h : o.cmpIll = none) : o.b ≠ .s 63#6 := by
  unfold Lane2.cmpIll at h
  split at h
  · exact BOp.ill_ne h
  · cases h

theorem st_size {o : MemOps} (h : WellFormed (.st o)) : o.z.toNat ≠ 7 := by
  intro e
  have e : o.z = 7#3 := BitVec.eq_of_toNat_eq e
  have h' : opcFieldUnless (o.z != 1#3 && o.z != 3#3) (o.z != 7#3 && scopeOk o.o o.c && fits o.d (sizeRegs o.z)) = none := h
  rw [e] at h'; cases h'

end Sys2Proof
end

