-- ==== Sys2Proof/Laws/Mates.lean ====
section
/-!
SUPPORT. What running an operation with another cohort of the company current does.
-/
namespace Sys2Proof.Machine

theorem insertCohort_mem (c x : Cohort) : ∀ l : List Cohort, x ∈ insertCohort c l ↔ x = c ∨ x ∈ l
  | [] => by simp [insertCohort]
  | y :: l => by
    unfold insertCohort
    split
    · simp
    · simp only [List.mem_cons, insertCohort_mem c x l]
      constructor
      · rintro (h | h | h)
        · exact .inr (.inl h)
        · exact .inl h
        · exact .inr (.inr h)
      · rintro (h | h | h)
        · exact .inr (.inl h)
        · exact .inl h
        · exact .inr (.inr h)

theorem insertCohort_perm (c : Cohort) : ∀ l : List Cohort, (insertCohort c l).Perm (c :: l)
  | [] => .refl _
  | y :: l => by
    unfold insertCohort
    split
    · exact .refl _
    · exact ((insertCohort_perm c l).cons y).trans (.swap _ _ _)

/-- With distinct indexes the cohort of an index is the one that is in the list. -/
theorem find_cohort {l : List Cohort} (hn : (l.map (·.j)).Nodup) {c : Cohort} (h : c ∈ l) : l.find? (fun x => x.j == c.j) = some c := by
  induction l with
  | nil => cases h
  | cons x l ih =>
    rw [List.map_cons, List.nodup_cons] at hn
    by_cases hx : x.j = c.j
    · rcases List.mem_cons.1 h with rfl | h
      · simp
      · exact absurd (hx ▸ List.mem_map.2 ⟨c, h, rfl⟩) hn.1
    · rcases List.mem_cons.1 h with rfl | h
      · exact absurd rfl hx
      · rw [List.find?_cons_of_neg (by simpa using hx)]; exact ih hn.2 h

theorem find_cohort_perm {l m : List Cohort} (hp : l.Perm m) (hn : (l.map (·.j)).Nodup) (j : Nat) :
    l.find? (fun x => x.j == j) = m.find? (fun x => x.j == j) := by
  have hm : (m.map (·.j)).Nodup := (hp.map _).nodup_iff.1 hn
  cases h : l.find? (fun x => x.j == j) with
  | none =>
    symm
    rw [List.find?_eq_none] at h ⊢
    intro x hx; exact h x (hp.mem_iff.2 hx)
  | some c =>
    have h1 : c.j = j := by have := List.find?_some h; simpa using this
    have h2 := List.mem_of_find?_eq_some h
    rw [← h1]; symm
    exact find_cohort hm (hp.mem_iff.1 h2)

theorem find_cons (c : Cohort) (l : List Cohort) (j : Nat) : (c :: l).find? (fun x => x.j == j) = if j = c.j then some c else l.find? fun x => x.j == j := by
  rw [List.find?_cons]
  by_cases h : c.j = j
  · rw [if_pos h.symm]; simp [h]
  · rw [if_neg (fun h' => h h'.symm)]
    have : (c.j == j) = false := by simpa using h
    rw [this]

theorem find_without (l : List Cohort) (k j : Nat) :
    (l.filter fun x => x.j != k).find? (fun x => x.j == j) = if j = k then none else l.find? fun x => x.j == j := by
  induction l with
  | nil => simp
  | cons x l ih =>
    by_cases hx : x.j = k
    · have h1 : (x.j != k) = false := by simp [hx]
      rw [List.filter_cons, h1, find_cons]
      simp only [Bool.false_eq_true, if_false]
      rw [ih]
      by_cases hj : j = k
      · rw [if_pos hj, if_pos hj]
      · rw [if_neg hj, if_neg hj, if_neg (fun h => hj (h.trans hx))]
    · have h1 : (x.j != k) = true := by simp [hx]
      rw [List.filter_cons, h1, if_pos rfl, find_cons, find_cons, ih]
      by_cases hj : j = x.j
      · rw [if_pos hj, if_pos hj, if_neg (fun h => hx (hj ▸ h))]
      · rw [if_neg hj, if_neg hj]

theorem nodup_without {l : List Cohort} (h : (l.map (·.j)).Nodup) (k : Nat) : ((l.filter fun x => x.j != k).map (·.j)).Nodup :=
  h.sublist ((List.filter_sublist (p := fun x : Cohort => x.j != k)).map _)

/-- Making another cohort of the company current. -/
theorem State.focus_mate {s : State} (h : Gathered s) {j : Nat} {c : Cohort} (hj : j ≠ s.me.j) (hc : s.mate? j = some c) :
    ∃ X, s.focus s.co.dseq j = { s with me := c, co := { s.co with cohorts := X } } ∧ c.j = j ∧
      (∀ k, X.find? (fun x => x.j == k) = if k = j then none else s.mate? k) ∧ (j :: X.map (·.j)).Nodup ∧
      (∀ x ∈ X, x.stat ≠ .absent) ∧ c.stat ≠ .absent := by
  have hp := insertCohort_perm s.me s.co.cohorts
  have hn : ((insertCohort s.me s.co.cohorts).map (·.j)).Nodup := (hp.map _).nodup_iff.2 h.distinct
  have hf : ∀ k, (insertCohort s.me s.co.cohorts).find? (fun x => x.j == k) = s.mate? k := by
    intro k; rw [find_cohort_perm hp hn, find_cons]; rfl
  have hcj : c.j = j := by
    unfold State.mate? at hc; rw [if_neg hj] at hc
    have := List.find?_some hc; simpa using this
  have hcm : c ∈ s.co.cohorts := by
    unfold State.mate? at hc; rw [if_neg hj] at hc
    exact List.mem_of_find?_eq_some hc
  refine ⟨(insertCohort s.me s.co.cohorts).filter fun x => x.j != j, ?_, hcj, ?_, ?_, ?_, h.present c hcm⟩
  · unfold State.focus
    rw [if_neg (by rintro ⟨-, -, -, h⟩; exact hj h.symm)]
    have : s.focusCo s.co.dseq = s := by unfold State.focusCo; rw [if_pos ⟨h.placed, rfl⟩]
    rw [this]
    dsimp only
    rw [if_pos ⟨h.placed, rfl⟩]
    unfold State.parkMe
    rw [if_neg h.here]
    dsimp only
    rw [hf j, hc]
  · intro k; rw [find_without, hf]
  · rw [List.nodup_cons]
    refine ⟨?_, nodup_without hn j⟩
    intro hm
    obtain ⟨x, hx, he⟩ := List.mem_map.1 hm
    have := (List.mem_filter.1 hx).2
    simp [he] at this
  · intro x hx
    rcases (insertCohort_mem s.me x s.co.cohorts).1 (List.mem_filter.1 hx).1 with rfl | hm
    · exact h.here
    · exact h.present x hm

/-- An operation that changes only the cohort it runs in, run in another cohort of the company: that cohort changes, nothing else does. -/
theorem State.onMate {s : State} (h : Gathered s) {j : Nat} {c : Cohort} (f : State → State) (g : Cohort → Cohort) (hf : ∀ t : State, f t = t.setMe (g t.me))
    (hg : ∀ c, (g c).j = c.j ∧ (c.stat ≠ .absent → (g c).stat ≠ .absent)) (hj : j ≠ s.me.j) (hc : s.mate? j = some c) :
    ∃ X, s.onCohort s.co.dseq j f = { s with co := { s.co with cohorts := X } } ∧ Gathered { s with co := { s.co with cohorts := X } } ∧
      (∀ k, State.mate? { s with co := { s.co with cohorts := X } } k = if k = j then some (g c) else s.mate? k) := by
  obtain ⟨X, e, cj, xf, xn, xp, cp⟩ := State.focus_mate h hj hc
  generalize hy : ({ s with me := g c, co := { s.co with cohorts := X } } : State) = y
  have ym : y.me = g c := by rw [← hy]
  have yco : y.co = { s.co with cohorts := X } := by rw [← hy]
  have yj : y.me.j = j := by rw [ym, (hg c).1, cj]
  have yd : y.co.dseq = s.co.dseq := by rw [yco]
  have hG : Gathered y := by
    refine ⟨?_, ?_, ?_, ?_⟩
    · rw [yj, yco]; exact xn
    · rw [yco]; exact h.placed
    · rw [ym]; exact (hg c).2 cp
    · rw [yco]; exact xp
  have ymate : ∀ k, y.mate? k = if k = j then some (g c) else s.mate? k := by
    intro k; unfold State.mate?
    rw [yj]
    by_cases hk : k = j
    · rw [if_pos hk, if_pos hk, ym]
    · rw [if_neg hk, if_neg hk, yco]
      have := xf k; rw [if_neg hk] at this; exact this
  have hme : y.mate? s.me.j = some s.me := by
    rw [ymate, if_neg (fun h' => hj h'.symm)]; unfold State.mate?; rw [if_pos rfl]
  obtain ⟨Z, e2, -, zf, zn, zp, -⟩ := State.focus_mate hG (j := s.me.j) (c := s.me) (by rw [yj]; exact fun h' => hj h'.symm) hme
  refine ⟨Z, ?_, ?_, ?_⟩
  · unfold State.onCohort
    rw [e]
    have h1 : State.isAt { s with me := c, co := { s.co with cohorts := X } } s.co.dseq j = true := by
      unfold State.isAt
      simp [h.placed, cp, cj]
    dsimp only
    rw [if_pos h1, hf]
    have h2 : ¬ (s.isAt s.co.dseq j = true ∨ s.me.stat = .absent) := by
      rintro (h' | h')
      · unfold State.isAt at h'; simp only [Bool.and_eq_true, beq_iff_eq] at h'; exact hj h'.2.symm
      · exact h.here h'
    rw [if_neg h2]
    have h3 : State.setMe { s with me := c, co := { s.co with cohorts := X } } (g c) = y := hy
    rw [h3]
    rw [yd] at e2
    rw [e2, ← hy]
  · refine ⟨zn, h.placed, h.here, zp⟩
  · intro k
    unfold State.mate?
    dsimp only
    by_cases hk : k = s.me.j
    · rw [if_pos hk, if_neg (fun h' => hj (h'.symm.trans hk)), hk, if_pos rfl]
    · rw [if_neg hk]
      have := zf k
      rw [if_neg hk, ymate] at this
      rw [this]
      unfold State.mate?
      rw [if_neg hk]

end Sys2Proof.Machine
end

