-- ==== Sys2Proof/Laws/PerInstr.lean ====
section
/-!
SUPPORT. The statements made per instruction: RoundTrip, that the decoder reads back what the encoder writes.
-/
set_option linter.unusedSimpArgs false

namespace Sys2Proof

/-- The decoder reads from the words of a well-formed instruction that instruction, and their length. -/
def Laws.RoundTrip.Statement (i : Instr) : Prop :=
  WellFormed i → ∀ e, encode i = some e → decode e.bytes = .ok (i, e.bytes.length)

theorem Laws.RoundTrip.registerWrite (w : RegWrite) : Laws.RoundTrip.Statement (.registerWrite w) := by
  intro _ e h
  cases h

theorem Laws.RoundTrip.mcgtabWrite (w : RegWrite) : Laws.RoundTrip.Statement (.mcgtabWrite w) := by
  intro _ e h
  cases h

theorem Laws.RoundTrip.bridgecfgWrite (w : RegWrite) : Laws.RoundTrip.Statement (.bridgecfgWrite w) := by
  intro _ e h
  cases h

theorem Laws.RoundTrip.ascarveWrite (w : RegWrite) : Laws.RoundTrip.Statement (.ascarveWrite w) := by
  intro _ e h
  cases h

theorem Laws.RoundTrip.carveChangeDone  : Laws.RoundTrip.Statement (.carveChangeDone) := by
  intro _ e h
  cases h

theorem Laws.RoundTrip.shootdown (w : RegWrite) : Laws.RoundTrip.Statement (.shootdown w) := by
  intro _ e h
  cases h

theorem Laws.RoundTrip.shootdownComplete  : Laws.RoundTrip.Statement (.shootdownComplete) := by
  intro _ e h
  cases h

theorem Laws.RoundTrip.pgpush64k (w : RegWrite) : Laws.RoundTrip.Statement (.pgpush64k w) := by
  intro _ e h
  cases h

theorem Laws.RoundTrip.pgpush2m (w : RegWrite) : Laws.RoundTrip.Statement (.pgpush2m w) := by
  intro _ e h
  cases h

theorem Laws.RoundTrip.pgpop64k (agent : Agent) : Laws.RoundTrip.Statement (.pgpop64k agent) := by
  intro _ e h
  cases h

theorem Laws.RoundTrip.pgpop2m (agent : Agent) : Laws.RoundTrip.Statement (.pgpop2m agent) := by
  intro _ e h
  cases h

theorem Laws.RoundTrip.memerrclr (w : RegWrite) : Laws.RoundTrip.Statement (.memerrclr w) := by
  intro _ e h
  cases h

theorem Laws.RoundTrip.devnumWrite (w : RegWrite) : Laws.RoundTrip.Statement (.devnumWrite w) := by
  intro _ e h
  cases h

theorem Laws.RoundTrip.pmaskWrite (w : RegWrite) : Laws.RoundTrip.Statement (.pmaskWrite w) := by
  intro _ e h
  cases h

theorem Laws.RoundTrip.planeHoldRelease (dev : Nat) : Laws.RoundTrip.Statement (.planeHoldRelease dev) := by
  intro _ e h
  cases h

theorem Laws.RoundTrip.portresolveGo (w : RegWrite) : Laws.RoundTrip.Statement (.portresolveGo w) := by
  intro _ e h
  cases h

theorem Laws.RoundTrip.spillbaseWrite (w : RegWrite) : Laws.RoundTrip.Statement (.spillbaseWrite w) := by
  intro _ e h
  cases h

theorem Laws.RoundTrip.queueEnable (w : RegWrite) : Laws.RoundTrip.Statement (.queueEnable w) := by
  intro _ e h
  cases h

theorem Laws.RoundTrip.queueDisable (w : RegWrite) : Laws.RoundTrip.Statement (.queueDisable w) := by
  intro _ e h
  cases h

theorem Laws.RoundTrip.queueResume (w : RegWrite) : Laws.RoundTrip.Statement (.queueResume w) := by
  intro _ e h
  cases h

theorem Laws.RoundTrip.disableDrainDone  : Laws.RoundTrip.Statement (.disableDrainDone) := by
  intro _ e h
  cases h

theorem Laws.RoundTrip.doorbellWrite (qid : Nat) (val : DWord) : Laws.RoundTrip.Statement (.doorbellWrite qid val) := by
  intro _ e h
  cases h

theorem Laws.RoundTrip.fltownWrite (w : RegWrite) : Laws.RoundTrip.Statement (.fltownWrite w) := by
  intro _ e h
  cases h

theorem Laws.RoundTrip.ccfwctlGo (w : RegWrite) : Laws.RoundTrip.Statement (.ccfwctlGo w) := by
  intro _ e h
  cases h

theorem Laws.RoundTrip.firmwareCoreSwap (core : Bool) : Laws.RoundTrip.Statement (.firmwareCoreSwap core) := by
  intro _ e h
  cases h

theorem Laws.RoundTrip.prectlGo (w : RegWrite) : Laws.RoundTrip.Statement (.prectlGo w) := by
  intro _ e h
  cases h

theorem Laws.RoundTrip.restctlGo (w : RegWrite) : Laws.RoundTrip.Statement (.restctlGo w) := by
  intro _ e h
  cases h

theorem Laws.RoundTrip.recordStrict (w : RegWrite) : Laws.RoundTrip.Statement (.recordStrict w) := by
  intro _ e h
  cases h

theorem Laws.RoundTrip.recordLossy (w : RegWrite) : Laws.RoundTrip.Statement (.recordLossy w) := by
  intro _ e h
  cases h

theorem Laws.RoundTrip.replayMode (w : RegWrite) : Laws.RoundTrip.Statement (.replayMode w) := by
  intro _ e h
  cases h

theorem Laws.RoundTrip.modeOff (w : RegWrite) : Laws.RoundTrip.Statement (.modeOff w) := by
  intro _ e h
  cases h

theorem Laws.RoundTrip.ctxretGo (w : RegWrite) : Laws.RoundTrip.Statement (.ctxretGo w) := by
  intro _ e h
  cases h

theorem Laws.RoundTrip.jobreqGo (w : RegWrite) : Laws.RoundTrip.Statement (.jobreqGo w) := by
  intro _ e h
  cases h

theorem Laws.RoundTrip.featctlGo (w : RegWrite) : Laws.RoundTrip.Statement (.featctlGo w) := by
  intro _ e h
  cases h

theorem Laws.RoundTrip.hallqGo (w : RegWrite) : Laws.RoundTrip.Statement (.hallqGo w) := by
  intro _ e h
  cases h

theorem Laws.RoundTrip.hallQuiesceDone  : Laws.RoundTrip.Statement (.hallQuiesceDone) := by
  intro _ e h
  cases h

theorem Laws.RoundTrip.hostBar2Access (a : HostAccess) : Laws.RoundTrip.Statement (.hostBar2Access a) := by
  intro _ e h
  cases h

theorem Laws.RoundTrip.hostBar0Access (a : HostAccess) : Laws.RoundTrip.Statement (.hostBar0Access a) := by
  intro _ e h
  cases h

theorem Laws.RoundTrip.powerOn  : Laws.RoundTrip.Statement (.powerOn) := by
  intro _ e h
  cases h

theorem Laws.RoundTrip.bootStep (ok : Bool) : Laws.RoundTrip.Statement (.bootStep ok) := by
  intro _ e h
  cases h

theorem Laws.RoundTrip.correlationMarkerSend  : Laws.RoundTrip.Statement (.correlationMarkerSend) := by
  intro _ e h
  cases h

theorem Laws.RoundTrip.correlationMarkerReceipt (die delay : Nat) : Laws.RoundTrip.Statement (.correlationMarkerReceipt die delay) := by
  intro _ e h
  cases h

theorem Laws.RoundTrip.patrolScrub (index : Nat) (corrected : Bool) : Laws.RoundTrip.Statement (.patrolScrub index corrected) := by
  intro _ e h
  cases h

theorem Laws.RoundTrip.uncorrectableError (e : ErrorSite) : Laws.RoundTrip.Statement (.uncorrectableError e) := by
  intro _ e h
  cases h

theorem Laws.RoundTrip.directoryRequest (r : DirRequest) : Laws.RoundTrip.Statement (.directoryRequest r) := by
  intro _ e h
  cases h

theorem Laws.RoundTrip.loadReturn (id lane : Nat) : Laws.RoundTrip.Statement (.loadReturn id lane) := by
  intro _ e h
  cases h

theorem Laws.RoundTrip.storePerform (id lane : Nat) : Laws.RoundTrip.Statement (.storePerform id lane) := by
  intro _ e h
  cases h

theorem Laws.RoundTrip.bankOperation (id lane : Nat) : Laws.RoundTrip.Statement (.bankOperation id lane) := by
  intro _ e h
  cases h

theorem Laws.RoundTrip.streamPrefetch (hall line : Nat) : Laws.RoundTrip.Statement (.streamPrefetch hall line) := by
  intro _ e h
  cases h

theorem Laws.RoundTrip.copyPiece (id : Nat) : Laws.RoundTrip.Statement (.copyPiece id) := by
  intro _ e h
  cases h

theorem Laws.RoundTrip.galleryFillComplete (id : Nat) : Laws.RoundTrip.Statement (.galleryFillComplete id) := by
  intro _ e h
  cases h

theorem Laws.RoundTrip.fabricPacketArrival (plane : Nat) (p : Packet) : Laws.RoundTrip.Statement (.fabricPacketArrival plane p) := by
  intro _ e h
  cases h

theorem Laws.RoundTrip.markerRelease (src : Nat) : Laws.RoundTrip.Statement (.markerRelease src) := by
  intro _ e h
  cases h

theorem Laws.RoundTrip.responseArrival (p : Packet) : Laws.RoundTrip.Statement (.responseArrival p) := by
  intro _ e h
  cases h

theorem Laws.RoundTrip.mcsArrival (p : Packet) : Laws.RoundTrip.Statement (.mcsArrival p) := by
  intro _ e h
  cases h

theorem Laws.RoundTrip.undlvArrival (p : Packet) : Laws.RoundTrip.Statement (.undlvArrival p) := by
  intro _ e h
  cases h

theorem Laws.RoundTrip.switchMcw (tag : Nat) (failed : List Nat) : Laws.RoundTrip.Statement (.switchMcw tag failed) := by
  intro _ e h
  cases h

theorem Laws.RoundTrip.switchMcr (tag : Nat) (reads : List MemberRead) : Laws.RoundTrip.Statement (.switchMcr tag reads) := by
  intro _ e h
  cases h

theorem Laws.RoundTrip.flitReceive (port : Nat) (f : Flit) : Laws.RoundTrip.Statement (.flitReceive port f) := by
  intro _ e h
  cases h

theorem Laws.RoundTrip.nakReceive (port ack : Nat) : Laws.RoundTrip.Statement (.nakReceive port ack) := by
  intro _ e h
  cases h

theorem Laws.RoundTrip.ackTimeout (port : Nat) : Laws.RoundTrip.Statement (.ackTimeout port) := by
  intro _ e h
  cases h

theorem Laws.RoundTrip.retrainDone (port : Nat) (ok : Bool) (rxnext : Nat) : Laws.RoundTrip.Statement (.retrainDone port ok rxnext) := by
  intro _ e h
  cases h

theorem Laws.RoundTrip.moduleFallback (vestibule mod : Nat) (failLow failHigh : Bool) : Laws.RoundTrip.Statement (.moduleFallback vestibule mod failLow failHigh) := by
  intro _ e h
  cases h

theorem Laws.RoundTrip.keyExchangeDone (port : Nat) : Laws.RoundTrip.Statement (.keyExchangeDone port) := by
  intro _ e h
  cases h

theorem Laws.RoundTrip.keyUpdate (port : Nat) : Laws.RoundTrip.Statement (.keyUpdate port) := by
  intro _ e h
  cases h

theorem Laws.RoundTrip.keyLimitStop (port : Nat) : Laws.RoundTrip.Statement (.keyLimitStop port) := by
  intro _ e h
  cases h

theorem Laws.RoundTrip.companyCreate  : Laws.RoundTrip.Statement (.companyCreate) := by
  intro _ e h
  cases h

theorem Laws.RoundTrip.companyPlace (dseq core : Nat) : Laws.RoundTrip.Statement (.companyPlace dseq core) := by
  intro _ e h
  cases h

theorem Laws.RoundTrip.headBlock (hall : Nat) : Laws.RoundTrip.Statement (.headBlock hall) := by
  intro _ e h
  cases h

theorem Laws.RoundTrip.companySteal (cluster dseq core : Nat) : Laws.RoundTrip.Statement (.companySteal cluster dseq core) := by
  intro _ e h
  cases h

theorem Laws.RoundTrip.persistentPlace (cores : List Nat) : Laws.RoundTrip.Statement (.persistentPlace cores) := by
  intro _ e h
  cases h

theorem Laws.RoundTrip.activeSetFill (dseq j : Nat) : Laws.RoundTrip.Statement (.activeSetFill dseq j) := by
  intro _ e h
  cases h

theorem Laws.RoundTrip.activeSetDisplace (dseq j : Nat) : Laws.RoundTrip.Statement (.activeSetDisplace dseq j) := by
  intro _ e h
  cases h

theorem Laws.RoundTrip.allocationDeadlock (core : Nat) : Laws.RoundTrip.Statement (.allocationDeadlock core) := by
  intro _ e h
  cases h

theorem Laws.RoundTrip.forcedSpill (dseq : Nat) : Laws.RoundTrip.Statement (.forcedSpill dseq) := by
  intro _ e h
  cases h

theorem Laws.RoundTrip.reload (dseq : Nat) : Laws.RoundTrip.Statement (.reload dseq) := by
  intro _ e h
  cases h

theorem Laws.RoundTrip.companyRetire (dseq : Nat) : Laws.RoundTrip.Statement (.companyRetire dseq) := by
  intro _ e h
  cases h

theorem Laws.RoundTrip.consumerLaunch (node : Nat) : Laws.RoundTrip.Statement (.consumerLaunch node) := by
  intro _ e h
  cases h

theorem Laws.RoundTrip.emitAppend (dseq j : Nat) : Laws.RoundTrip.Statement (.emitAppend dseq j) := by
  intro _ e h
  cases h

theorem Laws.RoundTrip.queueBind (qid place : Nat) : Laws.RoundTrip.Statement (.queueBind qid place) := by
  intro _ e h
  cases h

theorem Laws.RoundTrip.queueUnbind (qid : Nat) : Laws.RoundTrip.Statement (.queueUnbind qid) := by
  intro _ e h
  cases h

theorem Laws.RoundTrip.fencePacket (qid : Nat) : Laws.RoundTrip.Statement (.fencePacket qid) := by
  intro _ e h
  cases h

theorem Laws.RoundTrip.sigsetPacket (qid : Nat) : Laws.RoundTrip.Statement (.sigsetPacket qid) := by
  intro _ e h
  cases h

theorem Laws.RoundTrip.sigwaitPacket (qid : Nat) : Laws.RoundTrip.Statement (.sigwaitPacket qid) := by
  intro _ e h
  cases h

theorem Laws.RoundTrip.sigwaitRecheck (qid : Nat) : Laws.RoundTrip.Statement (.sigwaitRecheck qid) := by
  intro _ e h
  cases h

theorem Laws.RoundTrip.flightEndPacket (qid : Nat) : Laws.RoundTrip.Statement (.flightEndPacket qid) := by
  intro _ e h
  cases h

theorem Laws.RoundTrip.flightBeginPacket (qid : Nat) : Laws.RoundTrip.Statement (.flightBeginPacket qid) := by
  intro _ e h
  cases h

theorem Laws.RoundTrip.flightRunPacket (qid : Nat) : Laws.RoundTrip.Statement (.flightRunPacket qid) := by
  intro _ e h
  cases h

theorem Laws.RoundTrip.treadIssue (qid : Nat) : Laws.RoundTrip.Statement (.treadIssue qid) := by
  intro _ e h
  cases h

theorem Laws.RoundTrip.fallbackPacket (qid : Nat) : Laws.RoundTrip.Statement (.fallbackPacket qid) := by
  intro _ e h
  cases h

theorem Laws.RoundTrip.dispatchPacket (qid : Nat) : Laws.RoundTrip.Statement (.dispatchPacket qid) := by
  intro _ e h
  cases h

theorem Laws.RoundTrip.graphPacket (qid : Nat) : Laws.RoundTrip.Statement (.graphPacket qid) := by
  intro _ e h
  cases h

theorem Laws.RoundTrip.copyPacket (qid : Nat) : Laws.RoundTrip.Statement (.copyPacket qid) := by
  intro _ e h
  cases h

theorem Laws.RoundTrip.nopPacket (qid : Nat) : Laws.RoundTrip.Statement (.nopPacket qid) := by
  intro _ e h
  cases h

theorem Laws.RoundTrip.completionSignal (qid csn : Nat) : Laws.RoundTrip.Statement (.completionSignal qid csn) := by
  intro _ e h
  cases h

theorem Laws.RoundTrip.eventRingWrite  : Laws.RoundTrip.Statement (.eventRingWrite) := by
  intro _ e h
  cases h

theorem Laws.RoundTrip.inLaneTrapEntry (dseq j : Nat) : Laws.RoundTrip.Statement (.inLaneTrapEntry dseq j) := by
  intro _ e h
  cases h

theorem Laws.RoundTrip.queueLevelTrap (asid : Nat) : Laws.RoundTrip.Statement (.queueLevelTrap asid) := by
  intro _ e h
  cases h

theorem Laws.RoundTrip.fabTrap (dseq j : Nat) : Laws.RoundTrip.Statement (.fabTrap dseq j) := by
  intro _ e h
  cases h

theorem Laws.RoundTrip.preemptStop (dseq j : Nat) : Laws.RoundTrip.Statement (.preemptStop dseq j) := by
  intro _ e h
  cases h

theorem Laws.RoundTrip.overdue (dseq : Nat) : Laws.RoundTrip.Statement (.overdue dseq) := by
  intro _ e h
  cases h

theorem Laws.RoundTrip.companySave (dseq : Nat) : Laws.RoundTrip.Statement (.companySave dseq) := by
  intro _ e h
  cases h

theorem Laws.RoundTrip.waittimeExpiry (dseq j : Nat) : Laws.RoundTrip.Statement (.waittimeExpiry dseq j) := by
  intro _ e h
  cases h

theorem Laws.RoundTrip.mmaTileRetire (dseq : Nat) (t : BitVec 4) : Laws.RoundTrip.Statement (.mmaTileRetire dseq t) := by
  intro _ e h
  cases h

theorem Laws.RoundTrip.enginePass (core : Nat) : Laws.RoundTrip.Statement (.enginePass core) := by
  intro _ e h
  cases h

theorem Laws.RoundTrip.semaGrant (dseq j : Nat) : Laws.RoundTrip.Statement (.semaGrant dseq j) := by
  intro _ e h
  cases h

theorem Laws.RoundTrip.recordPageComplete (source : Nat) : Laws.RoundTrip.Statement (.recordPageComplete source) := by
  intro _ e h
  cases h

theorem Laws.RoundTrip.cbkptTrap (dseq j : Nat) : Laws.RoundTrip.Statement (.cbkptTrap dseq j) := by
  intro _ e h
  cases h

theorem Laws.RoundTrip.traceRecord (r : TraceRec) : Laws.RoundTrip.Statement (.traceRecord r) := by
  intro _ e h
  cases h

theorem Laws.RoundTrip.powerSample (rails : List Nat) : Laws.RoundTrip.Statement (.powerSample rails) := by
  intro _ e h
  cases h

theorem Laws.RoundTrip.traceStop  : Laws.RoundTrip.Statement (.traceStop) := by
  intro _ e h
  cases h

theorem Laws.RoundTrip.statementWrite  : Laws.RoundTrip.Statement (.statementWrite) := by
  intro _ e h
  cases h

theorem Laws.RoundTrip.powerLimitSample (meanWatts limitWatts : Nat) : Laws.RoundTrip.Statement (.powerLimitSample meanWatts limitWatts) := by
  intro _ e h
  cases h

theorem Laws.RoundTrip.thermalThrottle (celsius : Nat) : Laws.RoundTrip.Statement (.thermalThrottle celsius) := by
  intro _ e h
  cases h

theorem Laws.RoundTrip.thermalShutdown (celsius : Nat) : Laws.RoundTrip.Statement (.thermalShutdown celsius) := by
  intro _ e h
  cases h

theorem Laws.RoundTrip.clauseHeader (h : Header) : Laws.RoundTrip.Statement (.clauseHeader h) := by
  intro hw e k
  have k : encHeader h = e := Option.some.inj k
  subst k
  exact round_header h hw

theorem Laws.RoundTrip.mov16 (o : Op16) : Laws.RoundTrip.Statement (.mov16 o) := by
  intro hw e h
  have h : enc16 0#4 o = e := Option.some.inj h
  subst h
  exact round_half _ _

theorem Laws.RoundTrip.iadd16 (o : Op16) : Laws.RoundTrip.Statement (.iadd16 o) := by
  intro hw e h
  have h : enc16 1#4 o = e := Option.some.inj h
  subst h
  exact round_half _ _

theorem Laws.RoundTrip.isub16 (o : Op16) : Laws.RoundTrip.Statement (.isub16 o) := by
  intro hw e h
  have h : enc16 2#4 o = e := Option.some.inj h
  subst h
  exact round_half _ _

theorem Laws.RoundTrip.imul16 (o : Op16) : Laws.RoundTrip.Statement (.imul16 o) := by
  intro hw e h
  have h : enc16 3#4 o = e := Option.some.inj h
  subst h
  exact round_half _ _

theorem Laws.RoundTrip.and16 (o : Op16) : Laws.RoundTrip.Statement (.and16 o) := by
  intro hw e h
  have h : enc16 4#4 o = e := Option.some.inj h
  subst h
  exact round_half _ _

theorem Laws.RoundTrip.or16 (o : Op16) : Laws.RoundTrip.Statement (.or16 o) := by
  intro hw e h
  have h : enc16 5#4 o = e := Option.some.inj h
  subst h
  exact round_half _ _

theorem Laws.RoundTrip.xor16 (o : Op16) : Laws.RoundTrip.Statement (.xor16 o) := by
  intro hw e h
  have h : enc16 6#4 o = e := Option.some.inj h
  subst h
  exact round_half _ _

theorem Laws.RoundTrip.shl16 (o : Op16) : Laws.RoundTrip.Statement (.shl16 o) := by
  intro hw e h
  have h : enc16 7#4 o = e := Option.some.inj h
  subst h
  exact round_half _ _

theorem Laws.RoundTrip.shr16 (o : Op16) : Laws.RoundTrip.Statement (.shr16 o) := by
  intro hw e h
  have h : enc16 8#4 o = e := Option.some.inj h
  subst h
  exact round_half _ _

theorem Laws.RoundTrip.sar16 (o : Op16) : Laws.RoundTrip.Statement (.sar16 o) := by
  intro hw e h
  have h : enc16 9#4 o = e := Option.some.inj h
  subst h
  exact round_half _ _

theorem Laws.RoundTrip.fadd16 (o : Op16) : Laws.RoundTrip.Statement (.fadd16 o) := by
  intro hw e h
  have h : enc16 10#4 o = e := Option.some.inj h
  subst h
  exact round_half _ _

theorem Laws.RoundTrip.fsub16 (o : Op16) : Laws.RoundTrip.Statement (.fsub16 o) := by
  intro hw e h
  have h : enc16 11#4 o = e := Option.some.inj h
  subst h
  exact round_half _ _

theorem Laws.RoundTrip.fmul16 (o : Op16) : Laws.RoundTrip.Statement (.fmul16 o) := by
  intro hw e h
  have h : enc16 12#4 o = e := Option.some.inj h
  subst h
  exact round_half _ _

theorem Laws.RoundTrip.fmax16 (o : Op16) : Laws.RoundTrip.Statement (.fmax16 o) := by
  intro hw e h
  have h : enc16 13#4 o = e := Option.some.inj h
  subst h
  exact round_half _ _

theorem Laws.RoundTrip.fmin16 (o : Op16) : Laws.RoundTrip.Statement (.fmin16 o) := by
  intro hw e h
  have h : enc16 14#4 o = e := Option.some.inj h
  subst h
  exact round_half _ _

theorem Laws.RoundTrip.fneg16 (o : Op16) : Laws.RoundTrip.Statement (.fneg16 o) := by
  intro hw e h
  have h : enc16 15#4 o = e := Option.some.inj h
  subst h
  exact round_half _ _

theorem Laws.RoundTrip.iadd (o : Lane2) : Laws.RoundTrip.Statement (.iadd o) := by
  intro hw e h
  have h : encLane2 0x01#6 0#3 o = e := Option.some.inj h
  exact round_A 0x01#6 0#3 o.d o.a o.b o.ma o.mb o.u _
    (by intro r h1 h2 h3 h4 h5 h6 h7 h8 h9; rw [parse_01 h1]; simp [parse01, h2, h3, Raw.lane2, h4, h5, h6, h7, h8, h9]) (by decide) (by simp [permitsU])
    hw (BOp.ill_ne hw) e h.symm

theorem Laws.RoundTrip.isub (o : Lane2) : Laws.RoundTrip.Statement (.isub o) := by
  intro hw e h
  have h : encLane2 0x01#6 1#3 o = e := Option.some.inj h
  exact round_A 0x01#6 1#3 o.d o.a o.b o.ma o.mb o.u _
    (by intro r h1 h2 h3 h4 h5 h6 h7 h8 h9; rw [parse_01 h1]; simp [parse01, h2, h3, Raw.lane2, h4, h5, h6, h7, h8, h9]) (by decide) (by simp [permitsU])
    hw (BOp.ill_ne hw) e h.symm

theorem Laws.RoundTrip.imul (o : Lane2) : Laws.RoundTrip.Statement (.imul o) := by
  intro hw e h
  have h : encLane2 0x01#6 2#3 o = e := Option.some.inj h
  exact round_A 0x01#6 2#3 o.d o.a o.b o.ma o.mb o.u _
    (by intro r h1 h2 h3 h4 h5 h6 h7 h8 h9; rw [parse_01 h1]; simp [parse01, h2, h3, Raw.lane2, h4, h5, h6, h7, h8, h9]) (by decide) (by simp [permitsU])
    hw (BOp.ill_ne hw) e h.symm

theorem Laws.RoundTrip.imulhi (o : Lane2) : Laws.RoundTrip.Statement (.imulhi o) := by
  intro hw e h
  have h : encLane2 0x01#6 3#3 o = e := Option.some.inj h
  exact round_A 0x01#6 3#3 o.d o.a o.b o.ma o.mb o.u _
    (by intro r h1 h2 h3 h4 h5 h6 h7 h8 h9; rw [parse_01 h1]; simp [parse01, h2, h3, Raw.lane2, h4, h5, h6, h7, h8, h9]) (by decide) (by simp [permitsU])
    hw (BOp.ill_ne hw) e h.symm

theorem Laws.RoundTrip.imulhu (o : Lane2) : Laws.RoundTrip.Statement (.imulhu o) := by
  intro hw e h
  have h : encLane2 0x01#6 4#3 o = e := Option.some.inj h
  exact round_A 0x01#6 4#3 o.d o.a o.b o.ma o.mb o.u _
    (by intro r h1 h2 h3 h4 h5 h6 h7 h8 h9; rw [parse_01 h1]; simp [parse01, h2, h3, Raw.lane2, h4, h5, h6, h7, h8, h9]) (by decide) (by simp [permitsU])
    hw (BOp.ill_ne hw) e h.symm

theorem Laws.RoundTrip.imad (o : Lane2) : Laws.RoundTrip.Statement (.imad o) := by
  intro hw e h
  have h : encLane2 0x01#6 5#3 o = e := Option.some.inj h
  exact round_A 0x01#6 5#3 o.d o.a o.b o.ma o.mb o.u _
    (by intro r h1 h2 h3 h4 h5 h6 h7 h8 h9; rw [parse_01 h1]; simp [parse01, h2, h3, Raw.lane2, h4, h5, h6, h7, h8, h9]) (by decide) (by simp [permitsU])
    hw (BOp.ill_ne hw) e h.symm

theorem Laws.RoundTrip.iadds (o : Lane2) : Laws.RoundTrip.Statement (.iadds o) := by
  intro hw e h
  have h : encLane2 0x01#6 6#3 o = e := Option.some.inj h
  exact round_A 0x01#6 6#3 o.d o.a o.b o.ma o.mb o.u _
    (by intro r h1 h2 h3 h4 h5 h6 h7 h8 h9; rw [parse_01 h1]; simp [parse01, h2, h3, Raw.lane2, h4, h5, h6, h7, h8, h9]) (by decide) (by simp [permitsU])
    hw (BOp.ill_ne hw) e h.symm

theorem Laws.RoundTrip.isubs (o : Lane2) : Laws.RoundTrip.Statement (.isubs o) := by
  intro hw e h
  have h : encLane2 0x01#6 7#3 o = e := Option.some.inj h
  exact round_A 0x01#6 7#3 o.d o.a o.b o.ma o.mb o.u _
    (by intro r h1 h2 h3 h4 h5 h6 h7 h8 h9; rw [parse_01 h1]; simp [parse01, h2, h3, Raw.lane2, h4, h5, h6, h7, h8, h9]) (by decide) (by simp [permitsU])
    hw (BOp.ill_ne hw) e h.symm

theorem Laws.RoundTrip.and (o : Lane2) : Laws.RoundTrip.Statement (.and o) := by
  intro hw e h
  have h : encLane2 0x02#6 0#3 o = e := Option.some.inj h
  exact round_A 0x02#6 0#3 o.d o.a o.b o.ma o.mb o.u _
    (by intro r h1 h2 h3 h4 h5 h6 h7 h8 h9; rw [parse_02 h1]; simp [parse02, h2, h3, Raw.lane2, h4, h5, h6, h7, h8, h9]) (by decide) (by simp [permitsU])
    hw (BOp.ill_ne hw) e h.symm

theorem Laws.RoundTrip.or (o : Lane2) : Laws.RoundTrip.Statement (.or o) := by
  intro hw e h
  have h : encLane2 0x02#6 1#3 o = e := Option.some.inj h
  exact round_A 0x02#6 1#3 o.d o.a o.b o.ma o.mb o.u _
    (by intro r h1 h2 h3 h4 h5 h6 h7 h8 h9; rw [parse_02 h1]; simp [parse02, h2, h3, Raw.lane2, h4, h5, h6, h7, h8, h9]) (by decide) (by simp [permitsU])
    hw (BOp.ill_ne hw) e h.symm

theorem Laws.RoundTrip.xor (o : Lane2) : Laws.RoundTrip.Statement (.xor o) := by
  intro hw e h
  have h : encLane2 0x02#6 2#3 o = e := Option.some.inj h
  exact round_A 0x02#6 2#3 o.d o.a o.b o.ma o.mb o.u _
    (by intro r h1 h2 h3 h4 h5 h6 h7 h8 h9; rw [parse_02 h1]; simp [parse02, h2, h3, Raw.lane2, h4, h5, h6, h7, h8, h9]) (by decide) (by simp [permitsU])
    hw (BOp.ill_ne hw) e h.symm

theorem Laws.RoundTrip.andn (o : Lane2) : Laws.RoundTrip.Statement (.andn o) := by
  intro hw e h
  have h : encLane2 0x02#6 3#3 o = e := Option.some.inj h
  exact round_A 0x02#6 3#3 o.d o.a o.b o.ma o.mb o.u _
    (by intro r h1 h2 h3 h4 h5 h6 h7 h8 h9; rw [parse_02 h1]; simp [parse02, h2, h3, Raw.lane2, h4, h5, h6, h7, h8, h9]) (by decide) (by simp [permitsU])
    hw (BOp.ill_ne hw) e h.symm

theorem Laws.RoundTrip.shl (o : Lane2) : Laws.RoundTrip.Statement (.shl o) := by
  intro hw e h
  have h : encLane2 0x02#6 4#3 o = e := Option.some.inj h
  exact round_A 0x02#6 4#3 o.d o.a o.b o.ma o.mb o.u _
    (by intro r h1 h2 h3 h4 h5 h6 h7 h8 h9; rw [parse_02 h1]; simp [parse02, h2, h3, Raw.lane2, h4, h5, h6, h7, h8, h9]) (by decide) (by simp [permitsU])
    hw (BOp.ill_ne hw) e h.symm

theorem Laws.RoundTrip.shr (o : Lane2) : Laws.RoundTrip.Statement (.shr o) := by
  intro hw e h
  have h : encLane2 0x02#6 5#3 o = e := Option.some.inj h
  exact round_A 0x02#6 5#3 o.d o.a o.b o.ma o.mb o.u _
    (by intro r h1 h2 h3 h4 h5 h6 h7 h8 h9; rw [parse_02 h1]; simp [parse02, h2, h3, Raw.lane2, h4, h5, h6, h7, h8, h9]) (by decide) (by simp [permitsU])
    hw (BOp.ill_ne hw) e h.symm

theorem Laws.RoundTrip.sar (o : Lane2) : Laws.RoundTrip.Statement (.sar o) := by
  intro hw e h
  have h : encLane2 0x02#6 6#3 o = e := Option.some.inj h
  exact round_A 0x02#6 6#3 o.d o.a o.b o.ma o.mb o.u _
    (by intro r h1 h2 h3 h4 h5 h6 h7 h8 h9; rw [parse_02 h1]; simp [parse02, h2, h3, Raw.lane2, h4, h5, h6, h7, h8, h9]) (by decide) (by simp [permitsU])
    hw (BOp.ill_ne hw) e h.symm

theorem Laws.RoundTrip.rotl (o : Lane2) : Laws.RoundTrip.Statement (.rotl o) := by
  intro hw e h
  have h : encLane2 0x02#6 7#3 o = e := Option.some.inj h
  exact round_A 0x02#6 7#3 o.d o.a o.b o.ma o.mb o.u _
    (by intro r h1 h2 h3 h4 h5 h6 h7 h8 h9; rw [parse_02 h1]; simp [parse02, h2, h3, Raw.lane2, h4, h5, h6, h7, h8, h9]) (by decide) (by simp [permitsU])
    hw (BOp.ill_ne hw) e h.symm

theorem Laws.RoundTrip.imin (o : Lane2) : Laws.RoundTrip.Statement (.imin o) := by
  intro hw e h
  have h : encLane2 0x03#6 0#3 o = e := Option.some.inj h
  exact round_A 0x03#6 0#3 o.d o.a o.b o.ma o.mb o.u _
    (by intro r h1 h2 h3 h4 h5 h6 h7 h8 h9; rw [parse_03 h1]; simp [parse03, h2, h3, Raw.lane2, h4, h5, h6, h7, h8, h9]) (by decide) (by simp [permitsU])
    hw (BOp.ill_ne hw) e h.symm

theorem Laws.RoundTrip.imax (o : Lane2) : Laws.RoundTrip.Statement (.imax o) := by
  intro hw e h
  have h : encLane2 0x03#6 1#3 o = e := Option.some.inj h
  exact round_A 0x03#6 1#3 o.d o.a o.b o.ma o.mb o.u _
    (by intro r h1 h2 h3 h4 h5 h6 h7 h8 h9; rw [parse_03 h1]; simp [parse03, h2, h3, Raw.lane2, h4, h5, h6, h7, h8, h9]) (by decide) (by simp [permitsU])
    hw (BOp.ill_ne hw) e h.symm

theorem Laws.RoundTrip.umin (o : Lane2) : Laws.RoundTrip.Statement (.umin o) := by
  intro hw e h
  have h : encLane2 0x03#6 2#3 o = e := Option.some.inj h
  exact round_A 0x03#6 2#3 o.d o.a o.b o.ma o.mb o.u _
    (by intro r h1 h2 h3 h4 h5 h6 h7 h8 h9; rw [parse_03 h1]; simp [parse03, h2, h3, Raw.lane2, h4, h5, h6, h7, h8, h9]) (by decide) (by simp [permitsU])
    hw (BOp.ill_ne hw) e h.symm

theorem Laws.RoundTrip.umax (o : Lane2) : Laws.RoundTrip.Statement (.umax o) := by
  intro hw e h
  have h : encLane2 0x03#6 3#3 o = e := Option.some.inj h
  exact round_A 0x03#6 3#3 o.d o.a o.b o.ma o.mb o.u _
    (by intro r h1 h2 h3 h4 h5 h6 h7 h8 h9; rw [parse_03 h1]; simp [parse03, h2, h3, Raw.lane2, h4, h5, h6, h7, h8, h9]) (by decide) (by simp [permitsU])
    hw (BOp.ill_ne hw) e h.symm

theorem Laws.RoundTrip.clz (o : Lane1) : Laws.RoundTrip.Statement (.clz o) := by
  intro hw e h
  have h : encLane1 0x03#6 4#3 o = e := Option.some.inj h
  exact round_A 0x03#6 4#3 o.d 0#6 o.b false o.mb o.u _
    (by intro r h1 h2 h3 h4 h5 h6 h7 h8 h9; rw [parse_03 h1]; simp [parse03, h2, h3, Raw.lane1, h4, h5, h6, h7, h8, h9]) (by decide) (by simp [permitsU])
    hw (BOp.ill_ne hw) e h.symm

theorem Laws.RoundTrip.popc (o : Lane1) : Laws.RoundTrip.Statement (.popc o) := by
  intro hw e h
  have h : encLane1 0x03#6 5#3 o = e := Option.some.inj h
  exact round_A 0x03#6 5#3 o.d 0#6 o.b false o.mb o.u _
    (by intro r h1 h2 h3 h4 h5 h6 h7 h8 h9; rw [parse_03 h1]; simp [parse03, h2, h3, Raw.lane1, h4, h5, h6, h7, h8, h9]) (by decide) (by simp [permitsU])
    hw (BOp.ill_ne hw) e h.symm

theorem Laws.RoundTrip.brev (o : Lane1) : Laws.RoundTrip.Statement (.brev o) := by
  intro hw e h
  have h : encLane1 0x03#6 6#3 o = e := Option.some.inj h
  exact round_A 0x03#6 6#3 o.d 0#6 o.b false o.mb o.u _
    (by intro r h1 h2 h3 h4 h5 h6 h7 h8 h9; rw [parse_03 h1]; simp [parse03, h2, h3, Raw.lane1, h4, h5, h6, h7, h8, h9]) (by decide) (by simp [permitsU])
    hw (BOp.ill_ne hw) e h.symm

theorem Laws.RoundTrip.ineg (o : Lane1) : Laws.RoundTrip.Statement (.ineg o) := by
  intro hw e h
  have h : encLane1 0x03#6 7#3 o = e := Option.some.inj h
  exact round_A 0x03#6 7#3 o.d 0#6 o.b false o.mb o.u _
    (by intro r h1 h2 h3 h4 h5 h6 h7 h8 h9; rw [parse_03 h1]; simp [parse03, h2, h3, Raw.lane1, h4, h5, h6, h7, h8, h9]) (by decide) (by simp [permitsU])
    hw (BOp.ill_ne hw) e h.symm

theorem Laws.RoundTrip.bfx (o : Lane2) : Laws.RoundTrip.Statement (.bfx o) := by
  intro hw e h
  have h : encLane2 0x04#6 0#3 o = e := Option.some.inj h
  exact round_A 0x04#6 0#3 o.d o.a o.b o.ma o.mb o.u _
    (by intro r h1 h2 h3 h4 h5 h6 h7 h8 h9; rw [parse_04 h1]; simp [parse04, h2, h3, Raw.lane2, h4, h5, h6, h7, h8, h9]) (by decide) (by simp [permitsU])
    hw (BOp.ill_ne hw) e h.symm

theorem Laws.RoundTrip.bfxs (o : Lane2) : Laws.RoundTrip.Statement (.bfxs o) := by
  intro hw e h
  have h : encLane2 0x04#6 1#3 o = e := Option.some.inj h
  exact round_A 0x04#6 1#3 o.d o.a o.b o.ma o.mb o.u _
    (by intro r h1 h2 h3 h4 h5 h6 h7 h8 h9; rw [parse_04 h1]; simp [parse04, h2, h3, Raw.lane2, h4, h5, h6, h7, h8, h9]) (by decide) (by simp [permitsU])
    hw (BOp.ill_ne hw) e h.symm

theorem Laws.RoundTrip.bfi (o : Lane2) : Laws.RoundTrip.Statement (.bfi o) := by
  intro hw e h
  have h : encLane2 0x04#6 2#3 o = e := Option.some.inj h
  exact round_A 0x04#6 2#3 o.d o.a o.b o.ma o.mb o.u _
    (by intro r h1 h2 h3 h4 h5 h6 h7 h8 h9; rw [parse_04 h1]; simp [parse04, h2, h3, Raw.lane2, h4, h5, h6, h7, h8, h9]) (by decide) (by simp [permitsU])
    hw (BOp.ill_ne hw) e h.symm

theorem Laws.RoundTrip.prmt (o : Lane2) : Laws.RoundTrip.Statement (.prmt o) := by
  intro hw e h
  have h : encLane2 0x04#6 3#3 o = e := Option.some.inj h
  exact round_A 0x04#6 3#3 o.d o.a o.b o.ma o.mb o.u _
    (by intro r h1 h2 h3 h4 h5 h6 h7 h8 h9; rw [parse_04 h1]; simp [parse04, h2, h3, Raw.lane2, h4, h5, h6, h7, h8, h9]) (by decide) (by simp [permitsU])
    hw (BOp.ill_ne hw) e h.symm

theorem Laws.RoundTrip.lsa1 (o : Lane2) : Laws.RoundTrip.Statement (.lsa1 o) := by
  intro hw e h
  have h : encLane2 0x04#6 4#3 o = e := Option.some.inj h
  exact round_A 0x04#6 4#3 o.d o.a o.b o.ma o.mb o.u _
    (by intro r h1 h2 h3 h4 h5 h6 h7 h8 h9; rw [parse_04 h1]; simp [parse04, h2, h3, Raw.lane2, h4, h5, h6, h7, h8, h9]) (by decide) (by simp [permitsU])
    hw (BOp.ill_ne hw) e h.symm

theorem Laws.RoundTrip.lsa2 (o : Lane2) : Laws.RoundTrip.Statement (.lsa2 o) := by
  intro hw e h
  have h : encLane2 0x04#6 5#3 o = e := Option.some.inj h
  exact round_A 0x04#6 5#3 o.d o.a o.b o.ma o.mb o.u _
    (by intro r h1 h2 h3 h4 h5 h6 h7 h8 h9; rw [parse_04 h1]; simp [parse04, h2, h3, Raw.lane2, h4, h5, h6, h7, h8, h9]) (by decide) (by simp [permitsU])
    hw (BOp.ill_ne hw) e h.symm

theorem Laws.RoundTrip.lsa3 (o : Lane2) : Laws.RoundTrip.Statement (.lsa3 o) := by
  intro hw e h
  have h : encLane2 0x04#6 6#3 o = e := Option.some.inj h
  exact round_A 0x04#6 6#3 o.d o.a o.b o.ma o.mb o.u _
    (by intro r h1 h2 h3 h4 h5 h6 h7 h8 h9; rw [parse_04 h1]; simp [parse04, h2, h3, Raw.lane2, h4, h5, h6, h7, h8, h9]) (by decide) (by simp [permitsU])
    hw (BOp.ill_ne hw) e h.symm

theorem Laws.RoundTrip.lsa4 (o : Lane2) : Laws.RoundTrip.Statement (.lsa4 o) := by
  intro hw e h
  have h : encLane2 0x04#6 7#3 o = e := Option.some.inj h
  exact round_A 0x04#6 7#3 o.d o.a o.b o.ma o.mb o.u _
    (by intro r h1 h2 h3 h4 h5 h6 h7 h8 h9; rw [parse_04 h1]; simp [parse04, h2, h3, Raw.lane2, h4, h5, h6, h7, h8, h9]) (by decide) (by simp [permitsU])
    hw (BOp.ill_ne hw) e h.symm

theorem Laws.RoundTrip.icmpEq (o : Lane2) : Laws.RoundTrip.Statement (.icmpEq o) := by
  intro hw e h
  have h : encLane2 0x05#6 0#3 o = e := Option.some.inj h
  exact round_A 0x05#6 0#3 o.d o.a o.b o.ma o.mb o.u _
    (by intro r h1 h2 h3 h4 h5 h6 h7 h8 h9; rw [parse_05 h1]; simp [parse05, h2, h3, Raw.lane2, h4, h5, h6, h7, h8, h9]) (by decide) (by simp [permitsU])
    hw (Lane2.cmp_ne hw) e h.symm

theorem Laws.RoundTrip.icmpNe (o : Lane2) : Laws.RoundTrip.Statement (.icmpNe o) := by
  intro hw e h
  have h : encLane2 0x05#6 1#3 o = e := Option.some.inj h
  exact round_A 0x05#6 1#3 o.d o.a o.b o.ma o.mb o.u _
    (by intro r h1 h2 h3 h4 h5 h6 h7 h8 h9; rw [parse_05 h1]; simp [parse05, h2, h3, Raw.lane2, h4, h5, h6, h7, h8, h9]) (by decide) (by simp [permitsU])
    hw (Lane2.cmp_ne hw) e h.symm

theorem Laws.RoundTrip.icmpLt (o : Lane2) : Laws.RoundTrip.Statement (.icmpLt o) := by
  intro hw e h
  have h : encLane2 0x05#6 2#3 o = e := Option.some.inj h
  exact round_A 0x05#6 2#3 o.d o.a o.b o.ma o.mb o.u _
    (by intro r h1 h2 h3 h4 h5 h6 h7 h8 h9; rw [parse_05 h1]; simp [parse05, h2, h3, Raw.lane2, h4, h5, h6, h7, h8, h9]) (by decide) (by simp [permitsU])
    hw (Lane2.cmp_ne hw) e h.symm

theorem Laws.RoundTrip.icmpLe (o : Lane2) : Laws.RoundTrip.Statement (.icmpLe o) := by
  intro hw e h
  have h : encLane2 0x05#6 3#3 o = e := Option.some.inj h
  exact round_A 0x05#6 3#3 o.d o.a o.b o.ma o.mb o.u _
    (by intro r h1 h2 h3 h4 h5 h6 h7 h8 h9; rw [parse_05 h1]; simp [parse05, h2, h3, Raw.lane2, h4, h5, h6, h7, h8, h9]) (by decide) (by simp [permitsU])
    hw (Lane2.cmp_ne hw) e h.symm

theorem Laws.RoundTrip.icmpGt (o : Lane2) : Laws.RoundTrip.Statement (.icmpGt o) := by
  intro hw e h
  have h : encLane2 0x05#6 4#3 o = e := Option.some.inj h
  exact round_A 0x05#6 4#3 o.d o.a o.b o.ma o.mb o.u _
    (by intro r h1 h2 h3 h4 h5 h6 h7 h8 h9; rw [parse_05 h1]; simp [parse05, h2, h3, Raw.lane2, h4, h5, h6, h7, h8, h9]) (by decide) (by simp [permitsU])
    hw (Lane2.cmp_ne hw) e h.symm

theorem Laws.RoundTrip.icmpGe (o : Lane2) : Laws.RoundTrip.Statement (.icmpGe o) := by
  intro hw e h
  have h : encLane2 0x05#6 5#3 o = e := Option.some.inj h
  exact round_A 0x05#6 5#3 o.d o.a o.b o.ma o.mb o.u _
    (by intro r h1 h2 h3 h4 h5 h6 h7 h8 h9; rw [parse_05 h1]; simp [parse05, h2, h3, Raw.lane2, h4, h5, h6, h7, h8, h9]) (by decide) (by simp [permitsU])
    hw (Lane2.cmp_ne hw) e h.symm

theorem Laws.RoundTrip.icmpLtu (o : Lane2) : Laws.RoundTrip.Statement (.icmpLtu o) := by
  intro hw e h
  have h : encLane2 0x05#6 6#3 o = e := Option.some.inj h
  exact round_A 0x05#6 6#3 o.d o.a o.b o.ma o.mb o.u _
    (by intro r h1 h2 h3 h4 h5 h6 h7 h8 h9; rw [parse_05 h1]; simp [parse05, h2, h3, Raw.lane2, h4, h5, h6, h7, h8, h9]) (by decide) (by simp [permitsU])
    hw (Lane2.cmp_ne hw) e h.symm

theorem Laws.RoundTrip.icmpGeu (o : Lane2) : Laws.RoundTrip.Statement (.icmpGeu o) := by
  intro hw e h
  have h : encLane2 0x05#6 7#3 o = e := Option.some.inj h
  exact round_A 0x05#6 7#3 o.d o.a o.b o.ma o.mb o.u _
    (by intro r h1 h2 h3 h4 h5 h6 h7 h8 h9; rw [parse_05 h1]; simp [parse05, h2, h3, Raw.lane2, h4, h5, h6, h7, h8, h9]) (by decide) (by simp [permitsU])
    hw (Lane2.cmp_ne hw) e h.symm

theorem Laws.RoundTrip.fcmpEq (o : Lane2) : Laws.RoundTrip.Statement (.fcmpEq o) := by
  intro hw e h
  have h : encLane2 0x06#6 0#3 o = e := Option.some.inj h
  exact round_A 0x06#6 0#3 o.d o.a o.b o.ma o.mb o.u _
    (by intro r h1 h2 h3 h4 h5 h6 h7 h8 h9; rw [parse_06 h1]; simp [parse06, h2, h3, Raw.lane2, h4, h5, h6, h7, h8, h9]) (by decide) (by simp [permitsU])
    hw (Lane2.cmp_ne hw) e h.symm

theorem Laws.RoundTrip.fcmpNe (o : Lane2) : Laws.RoundTrip.Statement (.fcmpNe o) := by
  intro hw e h
  have h : encLane2 0x06#6 1#3 o = e := Option.some.inj h
  exact round_A 0x06#6 1#3 o.d o.a o.b o.ma o.mb o.u _
    (by intro r h1 h2 h3 h4 h5 h6 h7 h8 h9; rw [parse_06 h1]; simp [parse06, h2, h3, Raw.lane2, h4, h5, h6, h7, h8, h9]) (by decide) (by simp [permitsU])
    hw (Lane2.cmp_ne hw) e h.symm

theorem Laws.RoundTrip.fcmpLt (o : Lane2) : Laws.RoundTrip.Statement (.fcmpLt o) := by
  intro hw e h
  have h : encLane2 0x06#6 2#3 o = e := Option.some.inj h
  exact round_A 0x06#6 2#3 o.d o.a o.b o.ma o.mb o.u _
    (by intro r h1 h2 h3 h4 h5 h6 h7 h8 h9; rw [parse_06 h1]; simp [parse06, h2, h3, Raw.lane2, h4, h5, h6, h7, h8, h9]) (by decide) (by simp [permitsU])
    hw (Lane2.cmp_ne hw) e h.symm

theorem Laws.RoundTrip.fcmpLe (o : Lane2) : Laws.RoundTrip.Statement (.fcmpLe o) := by
  intro hw e h
  have h : encLane2 0x06#6 3#3 o = e := Option.some.inj h
  exact round_A 0x06#6 3#3 o.d o.a o.b o.ma o.mb o.u _
    (by intro r h1 h2 h3 h4 h5 h6 h7 h8 h9; rw [parse_06 h1]; simp [parse06, h2, h3, Raw.lane2, h4, h5, h6, h7, h8, h9]) (by decide) (by simp [permitsU])
    hw (Lane2.cmp_ne hw) e h.symm

theorem Laws.RoundTrip.fcmpGt (o : Lane2) : Laws.RoundTrip.Statement (.fcmpGt o) := by
  intro hw e h
  have h : encLane2 0x06#6 4#3 o = e := Option.some.inj h
  exact round_A 0x06#6 4#3 o.d o.a o.b o.ma o.mb o.u _
    (by intro r h1 h2 h3 h4 h5 h6 h7 h8 h9; rw [parse_06 h1]; simp [parse06, h2, h3, Raw.lane2, h4, h5, h6, h7, h8, h9]) (by decide) (by simp [permitsU])
    hw (Lane2.cmp_ne hw) e h.symm

theorem Laws.RoundTrip.fcmpGe (o : Lane2) : Laws.RoundTrip.Statement (.fcmpGe o) := by
  intro hw e h
  have h : encLane2 0x06#6 5#3 o = e := Option.some.inj h
  exact round_A 0x06#6 5#3 o.d o.a o.b o.ma o.mb o.u _
    (by intro r h1 h2 h3 h4 h5 h6 h7 h8 h9; rw [parse_06 h1]; simp [parse06, h2, h3, Raw.lane2, h4, h5, h6, h7, h8, h9]) (by decide) (by simp [permitsU])
    hw (Lane2.cmp_ne hw) e h.symm

theorem Laws.RoundTrip.fcmpOrd (o : Lane2) : Laws.RoundTrip.Statement (.fcmpOrd o) := by
  intro hw e h
  have h : encLane2 0x06#6 6#3 o = e := Option.some.inj h
  exact round_A 0x06#6 6#3 o.d o.a o.b o.ma o.mb o.u _
    (by intro r h1 h2 h3 h4 h5 h6 h7 h8 h9; rw [parse_06 h1]; simp [parse06, h2, h3, Raw.lane2, h4, h5, h6, h7, h8, h9]) (by decide) (by simp [permitsU])
    hw (Lane2.cmp_ne hw) e h.symm

theorem Laws.RoundTrip.fcmpUnord (o : Lane2) : Laws.RoundTrip.Statement (.fcmpUnord o) := by
  intro hw e h
  have h : encLane2 0x06#6 7#3 o = e := Option.some.inj h
  exact round_A 0x06#6 7#3 o.d o.a o.b o.ma o.mb o.u _
    (by intro r h1 h2 h3 h4 h5 h6 h7 h8 h9; rw [parse_06 h1]; simp [parse06, h2, h3, Raw.lane2, h4, h5, h6, h7, h8, h9]) (by decide) (by simp [permitsU])
    hw (Lane2.cmp_ne hw) e h.symm

theorem Laws.RoundTrip.sel (k : BitVec 3) (o : Lane2) : Laws.RoundTrip.Statement (.sel k o) := by
  intro hw e h
  have h : encLane2 0x07#6 k o = e := Option.some.inj h
  exact round_A 0x07#6 k o.d o.a o.b o.ma o.mb o.u _
    (by intro r h1 h2 h3 h4 h5 h6 h7 h8 h9; rw [parse_07 h1]; simp [parse07, h2, h3, Raw.lane2, h4, h5, h6, h7, h8, h9]) (by decide) (by simp [permitsU])
    hw (BOp.ill_ne hw) e h.symm

theorem Laws.RoundTrip.fadd (o : Lane2) : Laws.RoundTrip.Statement (.fadd o) := by
  intro hw e h
  have h : encLane2 0x08#6 0#3 o = e := Option.some.inj h
  exact round_A 0x08#6 0#3 o.d o.a o.b o.ma o.mb o.u _
    (by intro r h1 h2 h3 h4 h5 h6 h7 h8 h9; rw [parse_08 h1]; simp [parse08, h2, h3, Raw.lane2, h4, h5, h6, h7, h8, h9]) (by decide) (by simp [permitsU])
    hw (BOp.ill_ne hw) e h.symm

theorem Laws.RoundTrip.fsub (o : Lane2) : Laws.RoundTrip.Statement (.fsub o) := by
  intro hw e h
  have h : encLane2 0x08#6 1#3 o = e := Option.some.inj h
  exact round_A 0x08#6 1#3 o.d o.a o.b o.ma o.mb o.u _
    (by intro r h1 h2 h3 h4 h5 h6 h7 h8 h9; rw [parse_08 h1]; simp [parse08, h2, h3, Raw.lane2, h4, h5, h6, h7, h8, h9]) (by decide) (by simp [permitsU])
    hw (BOp.ill_ne hw) e h.symm

theorem Laws.RoundTrip.fmul (o : Lane2) : Laws.RoundTrip.Statement (.fmul o) := by
  intro hw e h
  have h : encLane2 0x08#6 2#3 o = e := Option.some.inj h
  exact round_A 0x08#6 2#3 o.d o.a o.b o.ma o.mb o.u _
    (by intro r h1 h2 h3 h4 h5 h6 h7 h8 h9; rw [parse_08 h1]; simp [parse08, h2, h3, Raw.lane2, h4, h5, h6, h7, h8, h9]) (by decide) (by simp [permitsU])
    hw (BOp.ill_ne hw) e h.symm

theorem Laws.RoundTrip.ffma (o : Lane2) : Laws.RoundTrip.Statement (.ffma o) := by
  intro hw e h
  have h : encLane2 0x08#6 3#3 o = e := Option.some.inj h
  exact round_A 0x08#6 3#3 o.d o.a o.b o.ma o.mb o.u _
    (by intro r h1 h2 h3 h4 h5 h6 h7 h8 h9; rw [parse_08 h1]; simp [parse08, h2, h3, Raw.lane2, h4, h5, h6, h7, h8, h9]) (by decide) (by simp [permitsU])
    hw (BOp.ill_ne hw) e h.symm

theorem Laws.RoundTrip.fmin (o : Lane2) : Laws.RoundTrip.Statement (.fmin o) := by
  intro hw e h
  have h : encLane2 0x08#6 4#3 o = e := Option.some.inj h
  exact round_A 0x08#6 4#3 o.d o.a o.b o.ma o.mb o.u _
    (by intro r h1 h2 h3 h4 h5 h6 h7 h8 h9; rw [parse_08 h1]; simp [parse08, h2, h3, Raw.lane2, h4, h5, h6, h7, h8, h9]) (by decide) (by simp [permitsU])
    hw (BOp.ill_ne hw) e h.symm

theorem Laws.RoundTrip.fmax (o : Lane2) : Laws.RoundTrip.Statement (.fmax o) := by
  intro hw e h
  have h : encLane2 0x08#6 5#3 o = e := Option.some.inj h
  exact round_A 0x08#6 5#3 o.d o.a o.b o.ma o.mb o.u _
    (by intro r h1 h2 h3 h4 h5 h6 h7 h8 h9; rw [parse_08 h1]; simp [parse08, h2, h3, Raw.lane2, h4, h5, h6, h7, h8, h9]) (by decide) (by simp [permitsU])
    hw (BOp.ill_ne hw) e h.symm

theorem Laws.RoundTrip.ffms (o : Lane2) : Laws.RoundTrip.Statement (.ffms o) := by
  intro hw e h
  have h : encLane2 0x08#6 6#3 o = e := Option.some.inj h
  exact round_A 0x08#6 6#3 o.d o.a o.b o.ma o.mb o.u _
    (by intro r h1 h2 h3 h4 h5 h6 h7 h8 h9; rw [parse_08 h1]; simp [parse08, h2, h3, Raw.lane2, h4, h5, h6, h7, h8, h9]) (by decide) (by simp [permitsU])
    hw (BOp.ill_ne hw) e h.symm

theorem Laws.RoundTrip.fnma (o : Lane2) : Laws.RoundTrip.Statement (.fnma o) := by
  intro hw e h
  have h : encLane2 0x08#6 7#3 o = e := Option.some.inj h
  exact round_A 0x08#6 7#3 o.d o.a o.b o.ma o.mb o.u _
    (by intro r h1 h2 h3 h4 h5 h6 h7 h8 h9; rw [parse_08 h1]; simp [parse08, h2, h3, Raw.lane2, h4, h5, h6, h7, h8, h9]) (by decide) (by simp [permitsU])
    hw (BOp.ill_ne hw) e h.symm

theorem Laws.RoundTrip.frcp (o : Lane1) : Laws.RoundTrip.Statement (.frcp o) := by
  intro hw e h
  have h : encLane1 0x09#6 0#3 o = e := Option.some.inj h
  exact round_A 0x09#6 0#3 o.d 0#6 o.b false o.mb o.u _
    (by intro r h1 h2 h3 h4 h5 h6 h7 h8 h9; rw [parse_09 h1]; simp [parse09, h2, h3, Raw.lane1, h4, h5, h6, h7, h8, h9]) (by decide) (by simp [permitsU])
    hw (BOp.ill_ne hw) e h.symm

theorem Laws.RoundTrip.frsq (o : Lane1) : Laws.RoundTrip.Statement (.frsq o) := by
  intro hw e h
  have h : encLane1 0x09#6 1#3 o = e := Option.some.inj h
  exact round_A 0x09#6 1#3 o.d 0#6 o.b false o.mb o.u _
    (by intro r h1 h2 h3 h4 h5 h6 h7 h8 h9; rw [parse_09 h1]; simp [parse09, h2, h3, Raw.lane1, h4, h5, h6, h7, h8, h9]) (by decide) (by simp [permitsU])
    hw (BOp.ill_ne hw) e h.symm

theorem Laws.RoundTrip.fsqrt (o : Lane1) : Laws.RoundTrip.Statement (.fsqrt o) := by
  intro hw e h
  have h : encLane1 0x09#6 2#3 o = e := Option.some.inj h
  exact round_A 0x09#6 2#3 o.d 0#6 o.b false o.mb o.u _
    (by intro r h1 h2 h3 h4 h5 h6 h7 h8 h9; rw [parse_09 h1]; simp [parse09, h2, h3, Raw.lane1, h4, h5, h6, h7, h8, h9]) (by decide) (by simp [permitsU])
    hw (BOp.ill_ne hw) e h.symm

theorem Laws.RoundTrip.fexp2 (o : Lane1) : Laws.RoundTrip.Statement (.fexp2 o) := by
  intro hw e h
  have h : encLane1 0x09#6 3#3 o = e := Option.some.inj h
  exact round_A 0x09#6 3#3 o.d 0#6 o.b false o.mb o.u _
    (by intro r h1 h2 h3 h4 h5 h6 h7 h8 h9; rw [parse_09 h1]; simp [parse09, h2, h3, Raw.lane1, h4, h5, h6, h7, h8, h9]) (by decide) (by simp [permitsU])
    hw (BOp.ill_ne hw) e h.symm

theorem Laws.RoundTrip.flog2 (o : Lane1) : Laws.RoundTrip.Statement (.flog2 o) := by
  intro hw e h
  have h : encLane1 0x09#6 4#3 o = e := Option.some.inj h
  exact round_A 0x09#6 4#3 o.d 0#6 o.b false o.mb o.u _
    (by intro r h1 h2 h3 h4 h5 h6 h7 h8 h9; rw [parse_09 h1]; simp [parse09, h2, h3, Raw.lane1, h4, h5, h6, h7, h8, h9]) (by decide) (by simp [permitsU])
    hw (BOp.ill_ne hw) e h.symm

theorem Laws.RoundTrip.fsin (o : Lane1) : Laws.RoundTrip.Statement (.fsin o) := by
  intro hw e h
  have h : encLane1 0x09#6 5#3 o = e := Option.some.inj h
  exact round_A 0x09#6 5#3 o.d 0#6 o.b false o.mb o.u _
    (by intro r h1 h2 h3 h4 h5 h6 h7 h8 h9; rw [parse_09 h1]; simp [parse09, h2, h3, Raw.lane1, h4, h5, h6, h7, h8, h9]) (by decide) (by simp [permitsU])
    hw (BOp.ill_ne hw) e h.symm

theorem Laws.RoundTrip.fcos (o : Lane1) : Laws.RoundTrip.Statement (.fcos o) := by
  intro hw e h
  have h : encLane1 0x09#6 6#3 o = e := Option.some.inj h
  exact round_A 0x09#6 6#3 o.d 0#6 o.b false o.mb o.u _
    (by intro r h1 h2 h3 h4 h5 h6 h7 h8 h9; rw [parse_09 h1]; simp [parse09, h2, h3, Raw.lane1, h4, h5, h6, h7, h8, h9]) (by decide) (by simp [permitsU])
    hw (BOp.ill_ne hw) e h.symm

theorem Laws.RoundTrip.ftanh (o : Lane1) : Laws.RoundTrip.Statement (.ftanh o) := by
  intro hw e h
  have h : encLane1 0x09#6 7#3 o = e := Option.some.inj h
  exact round_A 0x09#6 7#3 o.d 0#6 o.b false o.mb o.u _
    (by intro r h1 h2 h3 h4 h5 h6 h7 h8 h9; rw [parse_09 h1]; simp [parse09, h2, h3, Raw.lane1, h4, h5, h6, h7, h8, h9]) (by decide) (by simp [permitsU])
    hw (BOp.ill_ne hw) e h.symm

theorem Laws.RoundTrip.hadd2 (o : Lane2) : Laws.RoundTrip.Statement (.hadd2 o) := by
  intro hw e h
  have h : encLane2 0x0A#6 0#3 o = e := Option.some.inj h
  exact round_A 0x0A#6 0#3 o.d o.a o.b o.ma o.mb o.u _
    (by intro r h1 h2 h3 h4 h5 h6 h7 h8 h9; rw [parse_0A h1]; simp [parse0A, h2, h3, Raw.lane2, h4, h5, h6, h7, h8, h9]) (by decide) (by simp [permitsU])
    hw (BOp.ill_ne hw) e h.symm

theorem Laws.RoundTrip.hsub2 (o : Lane2) : Laws.RoundTrip.Statement (.hsub2 o) := by
  intro hw e h
  have h : encLane2 0x0A#6 1#3 o = e := Option.some.inj h
  exact round_A 0x0A#6 1#3 o.d o.a o.b o.ma o.mb o.u _
    (by intro r h1 h2 h3 h4 h5 h6 h7 h8 h9; rw [parse_0A h1]; simp [parse0A, h2, h3, Raw.lane2, h4, h5, h6, h7, h8, h9]) (by decide) (by simp [permitsU])
    hw (BOp.ill_ne hw) e h.symm

theorem Laws.RoundTrip.hmul2 (o : Lane2) : Laws.RoundTrip.Statement (.hmul2 o) := by
  intro hw e h
  have h : encLane2 0x0A#6 2#3 o = e := Option.some.inj h
  exact round_A 0x0A#6 2#3 o.d o.a o.b o.ma o.mb o.u _
    (by intro r h1 h2 h3 h4 h5 h6 h7 h8 h9; rw [parse_0A h1]; simp [parse0A, h2, h3, Raw.lane2, h4, h5, h6, h7, h8, h9]) (by decide) (by simp [permitsU])
    hw (BOp.ill_ne hw) e h.symm

theorem Laws.RoundTrip.hfma2 (o : Lane2) : Laws.RoundTrip.Statement (.hfma2 o) := by
  intro hw e h
  have h : encLane2 0x0A#6 3#3 o = e := Option.some.inj h
  exact round_A 0x0A#6 3#3 o.d o.a o.b o.ma o.mb o.u _
    (by intro r h1 h2 h3 h4 h5 h6 h7 h8 h9; rw [parse_0A h1]; simp [parse0A, h2, h3, Raw.lane2, h4, h5, h6, h7, h8, h9]) (by decide) (by simp [permitsU])
    hw (BOp.ill_ne hw) e h.symm

theorem Laws.RoundTrip.hmin2 (o : Lane2) : Laws.RoundTrip.Statement (.hmin2 o) := by
  intro hw e h
  have h : encLane2 0x0A#6 4#3 o = e := Option.some.inj h
  exact round_A 0x0A#6 4#3 o.d o.a o.b o.ma o.mb o.u _
    (by intro r h1 h2 h3 h4 h5 h6 h7 h8 h9; rw [parse_0A h1]; simp [parse0A, h2, h3, Raw.lane2, h4, h5, h6, h7, h8, h9]) (by decide) (by simp [permitsU])
    hw (BOp.ill_ne hw) e h.symm

theorem Laws.RoundTrip.hmax2 (o : Lane2) : Laws.RoundTrip.Statement (.hmax2 o) := by
  intro hw e h
  have h : encLane2 0x0A#6 5#3 o = e := Option.some.inj h
  exact round_A 0x0A#6 5#3 o.d o.a o.b o.ma o.mb o.u _
    (by intro r h1 h2 h3 h4 h5 h6 h7 h8 h9; rw [parse_0A h1]; simp [parse0A, h2, h3, Raw.lane2, h4, h5, h6, h7, h8, h9]) (by decide) (by simp [permitsU])
    hw (BOp.ill_ne hw) e h.symm

theorem Laws.RoundTrip.badd2 (o : Lane2) : Laws.RoundTrip.Statement (.badd2 o) := by
  intro hw e h
  have h : encLane2 0x0B#6 0#3 o = e := Option.some.inj h
  exact round_A 0x0B#6 0#3 o.d o.a o.b o.ma o.mb o.u _
    (by intro r h1 h2 h3 h4 h5 h6 h7 h8 h9; rw [parse_0B h1]; simp [parse0B, h2, h3, Raw.lane2, h4, h5, h6, h7, h8, h9]) (by decide) (by simp [permitsU])
    hw (BOp.ill_ne hw) e h.symm

theorem Laws.RoundTrip.bsub2 (o : Lane2) : Laws.RoundTrip.Statement (.bsub2 o) := by
  intro hw e h
  have h : encLane2 0x0B#6 1#3 o = e := Option.some.inj h
  exact round_A 0x0B#6 1#3 o.d o.a o.b o.ma o.mb o.u _
    (by intro r h1 h2 h3 h4 h5 h6 h7 h8 h9; rw [parse_0B h1]; simp [parse0B, h2, h3, Raw.lane2, h4, h5, h6, h7, h8, h9]) (by decide) (by simp [permitsU])
    hw (BOp.ill_ne hw) e h.symm

theorem Laws.RoundTrip.bmul2 (o : Lane2) : Laws.RoundTrip.Statement (.bmul2 o) := by
  intro hw e h
  have h : encLane2 0x0B#6 2#3 o = e := Option.some.inj h
  exact round_A 0x0B#6 2#3 o.d o.a o.b o.ma o.mb o.u _
    (by intro r h1 h2 h3 h4 h5 h6 h7 h8 h9; rw [parse_0B h1]; simp [parse0B, h2, h3, Raw.lane2, h4, h5, h6, h7, h8, h9]) (by decide) (by simp [permitsU])
    hw (BOp.ill_ne hw) e h.symm

theorem Laws.RoundTrip.bfma2 (o : Lane2) : Laws.RoundTrip.Statement (.bfma2 o) := by
  intro hw e h
  have h : encLane2 0x0B#6 3#3 o = e := Option.some.inj h
  exact round_A 0x0B#6 3#3 o.d o.a o.b o.ma o.mb o.u _
    (by intro r h1 h2 h3 h4 h5 h6 h7 h8 h9; rw [parse_0B h1]; simp [parse0B, h2, h3, Raw.lane2, h4, h5, h6, h7, h8, h9]) (by decide) (by simp [permitsU])
    hw (BOp.ill_ne hw) e h.symm

theorem Laws.RoundTrip.bmin2 (o : Lane2) : Laws.RoundTrip.Statement (.bmin2 o) := by
  intro hw e h
  have h : encLane2 0x0B#6 4#3 o = e := Option.some.inj h
  exact round_A 0x0B#6 4#3 o.d o.a o.b o.ma o.mb o.u _
    (by intro r h1 h2 h3 h4 h5 h6 h7 h8 h9; rw [parse_0B h1]; simp [parse0B, h2, h3, Raw.lane2, h4, h5, h6, h7, h8, h9]) (by decide) (by simp [permitsU])
    hw (BOp.ill_ne hw) e h.symm

theorem Laws.RoundTrip.bmax2 (o : Lane2) : Laws.RoundTrip.Statement (.bmax2 o) := by
  intro hw e h
  have h : encLane2 0x0B#6 5#3 o = e := Option.some.inj h
  exact round_A 0x0B#6 5#3 o.d o.a o.b o.ma o.mb o.u _
    (by intro r h1 h2 h3 h4 h5 h6 h7 h8 h9; rw [parse_0B h1]; simp [parse0B, h2, h3, Raw.lane2, h4, h5, h6, h7, h8, h9]) (by decide) (by simp [permitsU])
    hw (BOp.ill_ne hw) e h.symm

theorem Laws.RoundTrip.cvt (r : BitVec 3) (c d a : Reg) (ma u : Bool) : Laws.RoundTrip.Statement (.cvt r c d a ma u) := by
  intro hw e h
  have h : .one (word (0#1 ++ r) false ma c a d 0x0C#6 u) = e := Option.some.inj h
  subst h
  exact round_W (0#1 ++ r) false ma c a d 0x0C#6 u _ (by rw [parse_0C rfl]; simp [parse0C, Raw.bhi, Raw.bhib, Raw.blo, Raw.ord, Raw.scope])
    (by decide) (by simp [hasLiteral]) (by simp [permitsU]) hw

theorem Laws.RoundTrip.mxqi8 (l : Bool) (r : BitVec 3) (d a : Reg) (ma : Bool) : Laws.RoundTrip.Statement (.mxqi8 l r d a ma) := by
  intro hw e h
  have h : .one (word (BitVec.ofBool l ++ 0#3) false ma (0#3 ++ r) a d 0x0D#6 false) = e := Option.some.inj h
  subst h
  exact round_W (BitVec.ofBool l ++ 0#3) false ma (0#3 ++ r) a d 0x0D#6 false _ (by rw [parse_0D rfl]; simp [parse0D, Raw.bhi, Raw.bhib, Raw.blo, Raw.ord, Raw.scope])
    (by decide) (by simp [hasLiteral]) (by simp [permitsU]) hw

theorem Laws.RoundTrip.mxqe4 (l : Bool) (r : BitVec 3) (d a : Reg) (ma : Bool) : Laws.RoundTrip.Statement (.mxqe4 l r d a ma) := by
  intro hw e h
  have h : .one (word (BitVec.ofBool l ++ 1#3) false ma (0#3 ++ r) a d 0x0D#6 false) = e := Option.some.inj h
  subst h
  exact round_W (BitVec.ofBool l ++ 1#3) false ma (0#3 ++ r) a d 0x0D#6 false _ (by rw [parse_0D rfl]; simp [parse0D, Raw.bhi, Raw.bhib, Raw.blo, Raw.ord, Raw.scope])
    (by decide) (by simp [hasLiteral]) (by simp [permitsU]) hw

theorem Laws.RoundTrip.mxqe5 (l : Bool) (r : BitVec 3) (d a : Reg) (ma : Bool) : Laws.RoundTrip.Statement (.mxqe5 l r d a ma) := by
  intro hw e h
  have h : .one (word (BitVec.ofBool l ++ 2#3) false ma (0#3 ++ r) a d 0x0D#6 false) = e := Option.some.inj h
  subst h
  exact round_W (BitVec.ofBool l ++ 2#3) false ma (0#3 ++ r) a d 0x0D#6 false _ (by rw [parse_0D rfl]; simp [parse0D, Raw.bhi, Raw.bhib, Raw.blo, Raw.ord, Raw.scope])
    (by decide) (by simp [hasLiteral]) (by simp [permitsU]) hw

theorem Laws.RoundTrip.mxqe2 (l : Bool) (r : BitVec 3) (d a : Reg) (ma : Bool) : Laws.RoundTrip.Statement (.mxqe2 l r d a ma) := by
  intro hw e h
  have h : .one (word (BitVec.ofBool l ++ 3#3) false ma (0#3 ++ r) a d 0x0D#6 false) = e := Option.some.inj h
  subst h
  exact round_W (BitVec.ofBool l ++ 3#3) false ma (0#3 ++ r) a d 0x0D#6 false _ (by rw [parse_0D rfl]; simp [parse0D, Raw.bhi, Raw.bhib, Raw.blo, Raw.ord, Raw.scope])
    (by decide) (by simp [hasLiteral]) (by simp [permitsU]) hw

theorem Laws.RoundTrip.mxdqf (f : BitVec 2) (d a : Reg) (ma : Bool) : Laws.RoundTrip.Statement (.mxdqf f d a ma) := by
  intro hw e h
  have h : .one (word 4#4 false ma (0#4 ++ f) a d 0x0D#6 false) = e := Option.some.inj h
  subst h
  exact round_W 4#4 false ma (0#4 ++ f) a d 0x0D#6 false _ (by rw [parse_0D rfl]; simp [parse0D, Raw.bhi, Raw.bhib, Raw.blo, Raw.ord, Raw.scope])
    (by decide) (by simp [hasLiteral]) (by simp [permitsU]) hw

theorem Laws.RoundTrip.mxdqb (f : BitVec 2) (d a : Reg) (ma : Bool) : Laws.RoundTrip.Statement (.mxdqb f d a ma) := by
  intro hw e h
  have h : .one (word 5#4 false ma (0#4 ++ f) a d 0x0D#6 false) = e := Option.some.inj h
  subst h
  exact round_W 5#4 false ma (0#4 ++ f) a d 0x0D#6 false _ (by rw [parse_0D rfl]; simp [parse0D, Raw.bhi, Raw.bhib, Raw.blo, Raw.ord, Raw.scope])
    (by decide) (by simp [hasLiteral]) (by simp [permitsU]) hw

theorem Laws.RoundTrip.dot4i8 (o : Lane2) : Laws.RoundTrip.Statement (.dot4i8 o) := by
  intro hw e h
  have h : encLane2 0x0E#6 0#3 o = e := Option.some.inj h
  exact round_A 0x0E#6 0#3 o.d o.a o.b o.ma o.mb o.u _
    (by intro r h1 h2 h3 h4 h5 h6 h7 h8 h9; rw [parse_0E h1]; simp [parse0E, h2, h3, Raw.lane2, h4, h5, h6, h7, h8, h9]) (by decide) (by simp [permitsU])
    hw (BOp.ill_ne hw) e h.symm

theorem Laws.RoundTrip.dot4z8 (o : Lane2) : Laws.RoundTrip.Statement (.dot4z8 o) := by
  intro hw e h
  have h : encLane2 0x0E#6 1#3 o = e := Option.some.inj h
  exact round_A 0x0E#6 1#3 o.d o.a o.b o.ma o.mb o.u _
    (by intro r h1 h2 h3 h4 h5 h6 h7 h8 h9; rw [parse_0E h1]; simp [parse0E, h2, h3, Raw.lane2, h4, h5, h6, h7, h8, h9]) (by decide) (by simp [permitsU])
    hw (BOp.ill_ne hw) e h.symm

theorem Laws.RoundTrip.dot8i4 (o : Lane2) : Laws.RoundTrip.Statement (.dot8i4 o) := by
  intro hw e h
  have h : encLane2 0x0E#6 2#3 o = e := Option.some.inj h
  exact round_A 0x0E#6 2#3 o.d o.a o.b o.ma o.mb o.u _
    (by intro r h1 h2 h3 h4 h5 h6 h7 h8 h9; rw [parse_0E h1]; simp [parse0E, h2, h3, Raw.lane2, h4, h5, h6, h7, h8, h9]) (by decide) (by simp [permitsU])
    hw (BOp.ill_ne hw) e h.symm

theorem Laws.RoundTrip.dot8z4 (o : Lane2) : Laws.RoundTrip.Statement (.dot8z4 o) := by
  intro hw e h
  have h : encLane2 0x0E#6 3#3 o = e := Option.some.inj h
  exact round_A 0x0E#6 3#3 o.d o.a o.b o.ma o.mb o.u _
    (by intro r h1 h2 h3 h4 h5 h6 h7 h8 h9; rw [parse_0E h1]; simp [parse0E, h2, h3, Raw.lane2, h4, h5, h6, h7, h8, h9]) (by decide) (by simp [permitsU])
    hw (BOp.ill_ne hw) e h.symm

theorem Laws.RoundTrip.dot4e4 (o : Lane2) : Laws.RoundTrip.Statement (.dot4e4 o) := by
  intro hw e h
  have h : encLane2 0x0E#6 4#3 o = e := Option.some.inj h
  exact round_A 0x0E#6 4#3 o.d o.a o.b o.ma o.mb o.u _
    (by intro r h1 h2 h3 h4 h5 h6 h7 h8 h9; rw [parse_0E h1]; simp [parse0E, h2, h3, Raw.lane2, h4, h5, h6, h7, h8, h9]) (by decide) (by simp [permitsU])
    hw (BOp.ill_ne hw) e h.symm

theorem Laws.RoundTrip.dot4e5 (o : Lane2) : Laws.RoundTrip.Statement (.dot4e5 o) := by
  intro hw e h
  have h : encLane2 0x0E#6 5#3 o = e := Option.some.inj h
  exact round_A 0x0E#6 5#3 o.d o.a o.b o.ma o.mb o.u _
    (by intro r h1 h2 h3 h4 h5 h6 h7 h8 h9; rw [parse_0E h1]; simp [parse0E, h2, h3, Raw.lane2, h4, h5, h6, h7, h8, h9]) (by decide) (by simp [permitsU])
    hw (BOp.ill_ne hw) e h.symm

theorem Laws.RoundTrip.dot8e2 (o : Lane2) : Laws.RoundTrip.Statement (.dot8e2 o) := by
  intro hw e h
  have h : encLane2 0x0E#6 6#3 o = e := Option.some.inj h
  exact round_A 0x0E#6 6#3 o.d o.a o.b o.ma o.mb o.u _
    (by intro r h1 h2 h3 h4 h5 h6 h7 h8 h9; rw [parse_0E h1]; simp [parse0E, h2, h3, Raw.lane2, h4, h5, h6, h7, h8, h9]) (by decide) (by simp [permitsU])
    hw (BOp.ill_ne hw) e h.symm

theorem Laws.RoundTrip.dot2bf (o : Lane2) : Laws.RoundTrip.Statement (.dot2bf o) := by
  intro hw e h
  have h : encLane2 0x0E#6 7#3 o = e := Option.some.inj h
  exact round_A 0x0E#6 7#3 o.d o.a o.b o.ma o.mb o.u _
    (by intro r h1 h2 h3 h4 h5 h6 h7 h8 h9; rw [parse_0E h1]; simp [parse0E, h2, h3, Raw.lane2, h4, h5, h6, h7, h8, h9]) (by decide) (by simp [permitsU])
    hw (BOp.ill_ne hw) e h.symm

theorem Laws.RoundTrip.mov (o : Lane1) : Laws.RoundTrip.Statement (.mov o) := by
  intro hw e h
  have h : encLane1 0x0F#6 0#3 o = e := Option.some.inj h
  exact round_A 0x0F#6 0#3 o.d 0#6 o.b false o.mb o.u _
    (by intro r h1 h2 h3 h4 h5 h6 h7 h8 h9; rw [parse_0F h1]; simp [parse0F, h2, h3, Raw.lane1, h4, h5, h6, h7, h8, h9]) (by decide) (by simp [permitsU])
    hw (BOp.ill_ne hw) e h.symm

theorem Laws.RoundTrip.fabs (o : Lane1) : Laws.RoundTrip.Statement (.fabs o) := by
  intro hw e h
  have h : encLane1 0x0F#6 1#3 o = e := Option.some.inj h
  exact round_A 0x0F#6 1#3 o.d 0#6 o.b false o.mb o.u _
    (by intro r h1 h2 h3 h4 h5 h6 h7 h8 h9; rw [parse_0F h1]; simp [parse0F, h2, h3, Raw.lane1, h4, h5, h6, h7, h8, h9]) (by decide) (by simp [permitsU])
    hw (BOp.ill_ne hw) e h.symm

theorem Laws.RoundTrip.fneg (o : Lane1) : Laws.RoundTrip.Statement (.fneg o) := by
  intro hw e h
  have h : encLane1 0x0F#6 2#3 o = e := Option.some.inj h
  exact round_A 0x0F#6 2#3 o.d 0#6 o.b false o.mb o.u _
    (by intro r h1 h2 h3 h4 h5 h6 h7 h8 h9; rw [parse_0F h1]; simp [parse0F, h2, h3, Raw.lane1, h4, h5, h6, h7, h8, h9]) (by decide) (by simp [permitsU])
    hw (BOp.ill_ne hw) e h.symm

theorem Laws.RoundTrip.ffloor (o : Lane1) : Laws.RoundTrip.Statement (.ffloor o) := by
  intro hw e h
  have h : encLane1 0x0F#6 3#3 o = e := Option.some.inj h
  exact round_A 0x0F#6 3#3 o.d 0#6 o.b false o.mb o.u _
    (by intro r h1 h2 h3 h4 h5 h6 h7 h8 h9; rw [parse_0F h1]; simp [parse0F, h2, h3, Raw.lane1, h4, h5, h6, h7, h8, h9]) (by decide) (by simp [permitsU])
    hw (BOp.ill_ne hw) e h.symm

theorem Laws.RoundTrip.fceil (o : Lane1) : Laws.RoundTrip.Statement (.fceil o) := by
  intro hw e h
  have h : encLane1 0x0F#6 4#3 o = e := Option.some.inj h
  exact round_A 0x0F#6 4#3 o.d 0#6 o.b false o.mb o.u _
    (by intro r h1 h2 h3 h4 h5 h6 h7 h8 h9; rw [parse_0F h1]; simp [parse0F, h2, h3, Raw.lane1, h4, h5, h6, h7, h8, h9]) (by decide) (by simp [permitsU])
    hw (BOp.ill_ne hw) e h.symm

theorem Laws.RoundTrip.ftrunc (o : Lane1) : Laws.RoundTrip.Statement (.ftrunc o) := by
  intro hw e h
  have h : encLane1 0x0F#6 5#3 o = e := Option.some.inj h
  exact round_A 0x0F#6 5#3 o.d 0#6 o.b false o.mb o.u _
    (by intro r h1 h2 h3 h4 h5 h6 h7 h8 h9; rw [parse_0F h1]; simp [parse0F, h2, h3, Raw.lane1, h4, h5, h6, h7, h8, h9]) (by decide) (by simp [permitsU])
    hw (BOp.ill_ne hw) e h.symm

theorem Laws.RoundTrip.frint (o : Lane1) : Laws.RoundTrip.Statement (.frint o) := by
  intro hw e h
  have h : encLane1 0x0F#6 6#3 o = e := Option.some.inj h
  exact round_A 0x0F#6 6#3 o.d 0#6 o.b false o.mb o.u _
    (by intro r h1 h2 h3 h4 h5 h6 h7 h8 h9; rw [parse_0F h1]; simp [parse0F, h2, h3, Raw.lane1, h4, h5, h6, h7, h8, h9]) (by decide) (by simp [permitsU])
    hw (BOp.ill_ne hw) e h.symm

theorem Laws.RoundTrip.iabs (o : Lane1) : Laws.RoundTrip.Statement (.iabs o) := by
  intro hw e h
  have h : encLane1 0x0F#6 7#3 o = e := Option.some.inj h
  exact round_A 0x0F#6 7#3 o.d 0#6 o.b false o.mb o.u _
    (by intro r h1 h2 h3 h4 h5 h6 h7 h8 h9; rw [parse_0F h1]; simp [parse0F, h2, h3, Raw.lane1, h4, h5, h6, h7, h8, h9]) (by decide) (by simp [permitsU])
    hw (BOp.ill_ne hw) e h.symm

theorem Laws.RoundTrip.pand (d a b : Reg) : Laws.RoundTrip.Statement (.pand d a b) := by
  intro hw e h
  have h : .one (word (0#4) false false (b) (a) (d) 0x10#6 false) = e := Option.some.inj h
  subst h
  exact round_W (0#4) false false (b) (a) (d) 0x10#6 false _ (by rw [parse_10 rfl]; simp [parse10, Raw.bhi, Raw.bhib, Raw.blo, Raw.ord, Raw.scope])
    (by decide) (by simp [hasLiteral]) (by simp [permitsU]) hw

theorem Laws.RoundTrip.por (d a b : Reg) : Laws.RoundTrip.Statement (.por d a b) := by
  intro hw e h
  have h : .one (word (1#4) false false (b) (a) (d) 0x10#6 false) = e := Option.some.inj h
  subst h
  exact round_W (1#4) false false (b) (a) (d) 0x10#6 false _ (by rw [parse_10 rfl]; simp [parse10, Raw.bhi, Raw.bhib, Raw.blo, Raw.ord, Raw.scope])
    (by decide) (by simp [hasLiteral]) (by simp [permitsU]) hw

theorem Laws.RoundTrip.pxor (d a b : Reg) : Laws.RoundTrip.Statement (.pxor d a b) := by
  intro hw e h
  have h : .one (word (2#4) false false (b) (a) (d) 0x10#6 false) = e := Option.some.inj h
  subst h
  exact round_W (2#4) false false (b) (a) (d) 0x10#6 false _ (by rw [parse_10 rfl]; simp [parse10, Raw.bhi, Raw.bhib, Raw.blo, Raw.ord, Raw.scope])
    (by decide) (by simp [hasLiteral]) (by simp [permitsU]) hw

theorem Laws.RoundTrip.pandn (d a b : Reg) : Laws.RoundTrip.Statement (.pandn d a b) := by
  intro hw e h
  have h : .one (word (3#4) false false (b) (a) (d) 0x10#6 false) = e := Option.some.inj h
  subst h
  exact round_W (3#4) false false (b) (a) (d) 0x10#6 false _ (by rw [parse_10 rfl]; simp [parse10, Raw.bhi, Raw.bhib, Raw.blo, Raw.ord, Raw.scope])
    (by decide) (by simp [hasLiteral]) (by simp [permitsU]) hw

theorem Laws.RoundTrip.pnot (d b : Reg) : Laws.RoundTrip.Statement (.pnot d b) := by
  intro hw e h
  have h : .one (word (4#4) false false (b) (0#6) (d) 0x10#6 false) = e := Option.some.inj h
  subst h
  exact round_W (4#4) false false (b) (0#6) (d) 0x10#6 false _ (by rw [parse_10 rfl]; simp [parse10, Raw.bhi, Raw.bhib, Raw.blo, Raw.ord, Raw.scope])
    (by decide) (by simp [hasLiteral]) (by simp [permitsU]) hw

theorem Laws.RoundTrip.pmov (d b : Reg) : Laws.RoundTrip.Statement (.pmov d b) := by
  intro hw e h
  have h : .one (word (5#4) false false (b) (0#6) (d) 0x10#6 false) = e := Option.some.inj h
  subst h
  exact round_W (5#4) false false (b) (0#6) (d) 0x10#6 false _ (by rw [parse_10 rfl]; simp [parse10, Raw.bhi, Raw.bhib, Raw.blo, Raw.ord, Raw.scope])
    (by decide) (by simp [hasLiteral]) (by simp [permitsU]) hw

theorem Laws.RoundTrip.emget (d : Reg) : Laws.RoundTrip.Statement (.emget d) := by
  intro hw e h
  have h : .one (word (0#4) false false (0#6) (0#6) (d) 0x11#6 false) = e := Option.some.inj h
  subst h
  exact round_W (0#4) false false (0#6) (0#6) (d) 0x11#6 false _ (by rw [parse_11 rfl]; simp [parse11, Raw.bhi, Raw.bhib, Raw.blo, Raw.ord, Raw.scope])
    (by decide) (by simp [hasLiteral]) (by simp [permitsU]) hw

theorem Laws.RoundTrip.emset (a : Reg) : Laws.RoundTrip.Statement (.emset a) := by
  intro hw e h
  have h : .one (word (1#4) false false (0#6) (a) (0#6) 0x11#6 false) = e := Option.some.inj h
  subst h
  exact round_W (1#4) false false (0#6) (a) (0#6) 0x11#6 false _ (by rw [parse_11 rfl]; simp [parse11, Raw.bhi, Raw.bhib, Raw.blo, Raw.ord, Raw.scope])
    (by decide) (by simp [hasLiteral]) (by simp [permitsU]) hw

theorem Laws.RoundTrip.emand (a : Reg) : Laws.RoundTrip.Statement (.emand a) := by
  intro hw e h
  have h : .one (word (2#4) false false (0#6) (a) (0#6) 0x11#6 false) = e := Option.some.inj h
  subst h
  exact round_W (2#4) false false (0#6) (a) (0#6) 0x11#6 false _ (by rw [parse_11 rfl]; simp [parse11, Raw.bhi, Raw.bhib, Raw.blo, Raw.ord, Raw.scope])
    (by decide) (by simp [hasLiteral]) (by simp [permitsU]) hw

theorem Laws.RoundTrip.emandn (a : Reg) : Laws.RoundTrip.Statement (.emandn a) := by
  intro hw e h
  have h : .one (word (3#4) false false (0#6) (a) (0#6) 0x11#6 false) = e := Option.some.inj h
  subst h
  exact round_W (3#4) false false (0#6) (a) (0#6) 0x11#6 false _ (by rw [parse_11 rfl]; simp [parse11, Raw.bhi, Raw.bhib, Raw.blo, Raw.ord, Raw.scope])
    (by decide) (by simp [hasLiteral]) (by simp [permitsU]) hw

theorem Laws.RoundTrip.emp (d : Reg) : Laws.RoundTrip.Statement (.emp d) := by
  intro hw e h
  have h : .one (word (4#4) false false (0#6) (0#6) (d) 0x11#6 false) = e := Option.some.inj h
  subst h
  exact round_W (4#4) false false (0#6) (0#6) (d) 0x11#6 false _ (by rw [parse_11 rfl]; simp [parse11, Raw.bhi, Raw.bhib, Raw.blo, Raw.ord, Raw.scope])
    (by decide) (by simp [hasLiteral]) (by simp [permitsU]) hw

theorem Laws.RoundTrip.pem (a : Reg) : Laws.RoundTrip.Statement (.pem a) := by
  intro hw e h
  have h : .one (word (5#4) false false (0#6) (a) (0#6) 0x11#6 false) = e := Option.some.inj h
  subst h
  exact round_W (5#4) false false (0#6) (a) (0#6) 0x11#6 false _ (by rw [parse_11 rfl]; simp [parse11, Raw.bhi, Raw.bhib, Raw.blo, Raw.ord, Raw.scope])
    (by decide) (by simp [hasLiteral]) (by simp [permitsU]) hw

theorem Laws.RoundTrip.xall (d : Reg) : Laws.RoundTrip.Statement (.xall d) := by
  intro hw e h
  have h : .one (word (6#4) false false (0#6) (0#6) (d) 0x11#6 false) = e := Option.some.inj h
  subst h
  exact round_W (6#4) false false (0#6) (0#6) (d) 0x11#6 false _ (by rw [parse_11 rfl]; simp [parse11, Raw.bhi, Raw.bhib, Raw.blo, Raw.ord, Raw.scope])
    (by decide) (by simp [hasLiteral]) (by simp [permitsU]) hw

theorem Laws.RoundTrip.xend (a : Reg) : Laws.RoundTrip.Statement (.xend a) := by
  intro hw e h
  have h : .one (word (7#4) false false (0#6) (a) (0#6) 0x11#6 false) = e := Option.some.inj h
  subst h
  exact round_W (7#4) false false (0#6) (a) (0#6) 0x11#6 false _ (by rw [parse_11 rfl]; simp [parse11, Raw.bhi, Raw.bhib, Raw.blo, Raw.ord, Raw.scope])
    (by decide) (by simp [hasLiteral]) (by simp [permitsU]) hw

theorem Laws.RoundTrip.vany (d a : Reg) : Laws.RoundTrip.Statement (.vany d a) := by
  intro hw e h
  have h : .one (word (0#4) false false (0#6) (a) (d) 0x12#6 false) = e := Option.some.inj h
  subst h
  exact round_W (0#4) false false (0#6) (a) (d) 0x12#6 false _ (by rw [parse_12 rfl]; simp [parse12, Raw.bhi, Raw.bhib, Raw.blo, Raw.ord, Raw.scope])
    (by decide) (by simp [hasLiteral]) (by simp [permitsU]) hw

theorem Laws.RoundTrip.vall (d a : Reg) : Laws.RoundTrip.Statement (.vall d a) := by
  intro hw e h
  have h : .one (word (1#4) false false (0#6) (a) (d) 0x12#6 false) = e := Option.some.inj h
  subst h
  exact round_W (1#4) false false (0#6) (a) (d) 0x12#6 false _ (by rw [parse_12 rfl]; simp [parse12, Raw.bhi, Raw.bhib, Raw.blo, Raw.ord, Raw.scope])
    (by decide) (by simp [hasLiteral]) (by simp [permitsU]) hw

theorem Laws.RoundTrip.vbal (d a : Reg) : Laws.RoundTrip.Statement (.vbal d a) := by
  intro hw e h
  have h : .one (word (2#4) false false (0#6) (a) (d) 0x12#6 false) = e := Option.some.inj h
  subst h
  exact round_W (2#4) false false (0#6) (a) (d) 0x12#6 false _ (by rw [parse_12 rfl]; simp [parse12, Raw.bhi, Raw.bhib, Raw.blo, Raw.ord, Raw.scope])
    (by decide) (by simp [hasLiteral]) (by simp [permitsU]) hw

theorem Laws.RoundTrip.vcnt (d a : Reg) : Laws.RoundTrip.Statement (.vcnt d a) := by
  intro hw e h
  have h : .one (word (3#4) false false (0#6) (a) (d) 0x12#6 false) = e := Option.some.inj h
  subst h
  exact round_W (3#4) false false (0#6) (a) (d) 0x12#6 false _ (by rw [parse_12 rfl]; simp [parse12, Raw.bhi, Raw.bhib, Raw.blo, Raw.ord, Raw.scope])
    (by decide) (by simp [hasLiteral]) (by simp [permitsU]) hw

theorem Laws.RoundTrip.vfirst (d a : Reg) : Laws.RoundTrip.Statement (.vfirst d a) := by
  intro hw e h
  have h : .one (word (4#4) false false (0#6) (a) (d) 0x12#6 false) = e := Option.some.inj h
  subst h
  exact round_W (4#4) false false (0#6) (a) (d) 0x12#6 false _ (by rw [parse_12 rfl]; simp [parse12, Raw.bhi, Raw.bhib, Raw.blo, Raw.ord, Raw.scope])
    (by decide) (by simp [hasLiteral]) (by simp [permitsU]) hw

theorem Laws.RoundTrip.shfli (o : Shfl) : Laws.RoundTrip.Statement (.shfli o) := by
  intro hw e h
  have h : encShfl 0#3 o = e := Option.some.inj h
  exact round_A 0x13#6 0#3 o.d o.a o.b o.ma o.mb false _
    (by intro r h1 h2 h3 h4 h5 h6 h7 h8 h9; rw [parse_13 h1]; simp [parse13, h2, h3, Raw.shfl, h4, h5, h6, h7, h8, h9]) (by decide) (by simp [permitsU])
    hw (BOp.ill_ne hw) e h.symm

theorem Laws.RoundTrip.shflu (o : Shfl) : Laws.RoundTrip.Statement (.shflu o) := by
  intro hw e h
  have h : encShfl 1#3 o = e := Option.some.inj h
  exact round_A 0x13#6 1#3 o.d o.a o.b o.ma o.mb false _
    (by intro r h1 h2 h3 h4 h5 h6 h7 h8 h9; rw [parse_13 h1]; simp [parse13, h2, h3, Raw.shfl, h4, h5, h6, h7, h8, h9]) (by decide) (by simp [permitsU])
    hw (BOp.ill_ne hw) e h.symm

theorem Laws.RoundTrip.shfld (o : Shfl) : Laws.RoundTrip.Statement (.shfld o) := by
  intro hw e h
  have h : encShfl 2#3 o = e := Option.some.inj h
  exact round_A 0x13#6 2#3 o.d o.a o.b o.ma o.mb false _
    (by intro r h1 h2 h3 h4 h5 h6 h7 h8 h9; rw [parse_13 h1]; simp [parse13, h2, h3, Raw.shfl, h4, h5, h6, h7, h8, h9]) (by decide) (by simp [permitsU])
    hw (BOp.ill_ne hw) e h.symm

theorem Laws.RoundTrip.shflx (o : Shfl) : Laws.RoundTrip.Statement (.shflx o) := by
  intro hw e h
  have h : encShfl 3#3 o = e := Option.some.inj h
  exact round_A 0x13#6 3#3 o.d o.a o.b o.ma o.mb false _
    (by intro r h1 h2 h3 h4 h5 h6 h7 h8 h9; rw [parse_13 h1]; simp [parse13, h2, h3, Raw.shfl, h4, h5, h6, h7, h8, h9]) (by decide) (by simp [permitsU])
    hw (BOp.ill_ne hw) e h.symm

theorem Laws.RoundTrip.bcast (o : Shfl) : Laws.RoundTrip.Statement (.bcast o) := by
  intro hw e h
  have h : encShfl 4#3 o = e := Option.some.inj h
  exact round_A 0x13#6 4#3 o.d o.a o.b o.ma o.mb false _
    (by intro r h1 h2 h3 h4 h5 h6 h7 h8 h9; rw [parse_13 h1]; simp [parse13, h2, h3, Raw.shfl, h4, h5, h6, h7, h8, h9]) (by decide) (by simp [permitsU])
    hw (BOp.ill_ne hw) e h.symm

theorem Laws.RoundTrip.lradd (d a : Reg) (ma : Bool) : Laws.RoundTrip.Statement (.lradd d a ma) := by
  intro hw e h
  have h : .one (word (0#4) false ma (0#6) (a) (d) 0x14#6 false) = e := Option.some.inj h
  subst h
  exact round_W (0#4) false ma (0#6) (a) (d) 0x14#6 false _ (by rw [parse_14 rfl]; simp [parse14, Raw.lred, Raw.bhi, Raw.bhib, Raw.blo, Raw.ord, Raw.scope])
    (by decide) (by simp [hasLiteral]) (by simp [permitsU]) hw

theorem Laws.RoundTrip.lrmin (d a : Reg) (ma : Bool) : Laws.RoundTrip.Statement (.lrmin d a ma) := by
  intro hw e h
  have h : .one (word (1#4) false ma (0#6) (a) (d) 0x14#6 false) = e := Option.some.inj h
  subst h
  exact round_W (1#4) false ma (0#6) (a) (d) 0x14#6 false _ (by rw [parse_14 rfl]; simp [parse14, Raw.lred, Raw.bhi, Raw.bhib, Raw.blo, Raw.ord, Raw.scope])
    (by decide) (by simp [hasLiteral]) (by simp [permitsU]) hw

theorem Laws.RoundTrip.lrmax (d a : Reg) (ma : Bool) : Laws.RoundTrip.Statement (.lrmax d a ma) := by
  intro hw e h
  have h : .one (word (2#4) false ma (0#6) (a) (d) 0x14#6 false) = e := Option.some.inj h
  subst h
  exact round_W (2#4) false ma (0#6) (a) (d) 0x14#6 false _ (by rw [parse_14 rfl]; simp [parse14, Raw.lred, Raw.bhi, Raw.bhib, Raw.blo, Raw.ord, Raw.scope])
    (by decide) (by simp [hasLiteral]) (by simp [permitsU]) hw

theorem Laws.RoundTrip.lrand (d a : Reg) (ma : Bool) : Laws.RoundTrip.Statement (.lrand d a ma) := by
  intro hw e h
  have h : .one (word (3#4) false ma (0#6) (a) (d) 0x14#6 false) = e := Option.some.inj h
  subst h
  exact round_W (3#4) false ma (0#6) (a) (d) 0x14#6 false _ (by rw [parse_14 rfl]; simp [parse14, Raw.lred, Raw.bhi, Raw.bhib, Raw.blo, Raw.ord, Raw.scope])
    (by decide) (by simp [hasLiteral]) (by simp [permitsU]) hw

theorem Laws.RoundTrip.lror (d a : Reg) (ma : Bool) : Laws.RoundTrip.Statement (.lror d a ma) := by
  intro hw e h
  have h : .one (word (4#4) false ma (0#6) (a) (d) 0x14#6 false) = e := Option.some.inj h
  subst h
  exact round_W (4#4) false ma (0#6) (a) (d) 0x14#6 false _ (by rw [parse_14 rfl]; simp [parse14, Raw.lred, Raw.bhi, Raw.bhib, Raw.blo, Raw.ord, Raw.scope])
    (by decide) (by simp [hasLiteral]) (by simp [permitsU]) hw

theorem Laws.RoundTrip.lrxor (d a : Reg) (ma : Bool) : Laws.RoundTrip.Statement (.lrxor d a ma) := by
  intro hw e h
  have h : .one (word (5#4) false ma (0#6) (a) (d) 0x14#6 false) = e := Option.some.inj h
  subst h
  exact round_W (5#4) false ma (0#6) (a) (d) 0x14#6 false _ (by rw [parse_14 rfl]; simp [parse14, Raw.lred, Raw.bhi, Raw.bhib, Raw.blo, Raw.ord, Raw.scope])
    (by decide) (by simp [hasLiteral]) (by simp [permitsU]) hw

theorem Laws.RoundTrip.lrfadd (d a : Reg) (ma : Bool) : Laws.RoundTrip.Statement (.lrfadd d a ma) := by
  intro hw e h
  have h : .one (word (6#4) false ma (0#6) (a) (d) 0x14#6 false) = e := Option.some.inj h
  subst h
  exact round_W (6#4) false ma (0#6) (a) (d) 0x14#6 false _ (by rw [parse_14 rfl]; simp [parse14, Raw.lred, Raw.bhi, Raw.bhib, Raw.blo, Raw.ord, Raw.scope])
    (by decide) (by simp [hasLiteral]) (by simp [permitsU]) hw

theorem Laws.RoundTrip.lrfmax (d a : Reg) (ma : Bool) : Laws.RoundTrip.Statement (.lrfmax d a ma) := by
  intro hw e h
  have h : .one (word (7#4) false ma (0#6) (a) (d) 0x14#6 false) = e := Option.some.inj h
  subst h
  exact round_W (7#4) false ma (0#6) (a) (d) 0x14#6 false _ (by rw [parse_14 rfl]; simp [parse14, Raw.lred, Raw.bhi, Raw.bhib, Raw.blo, Raw.ord, Raw.scope])
    (by decide) (by simp [hasLiteral]) (by simp [permitsU]) hw

theorem Laws.RoundTrip.sadd (d a : Reg) (b : SOp) : Laws.RoundTrip.Statement (.sadd d a b) := by
  intro hw e h
  have h : encSalu 0x15#6 0#3 d a b = e := Option.some.inj h
  exact round_S 0x15#6 0#3 d a b _
    (by intro r h1 h2 h4 h5 h6 h7 h8 h9; rw [parse_15 h1]; simpa [parse15, h2, Raw.salu, h4, h5, h6, h7, h8] using h9) (by decide)
    hw e h.symm

theorem Laws.RoundTrip.ssub (d a : Reg) (b : SOp) : Laws.RoundTrip.Statement (.ssub d a b) := by
  intro hw e h
  have h : encSalu 0x15#6 1#3 d a b = e := Option.some.inj h
  exact round_S 0x15#6 1#3 d a b _
    (by intro r h1 h2 h4 h5 h6 h7 h8 h9; rw [parse_15 h1]; simpa [parse15, h2, Raw.salu, h4, h5, h6, h7, h8] using h9) (by decide)
    hw e h.symm

theorem Laws.RoundTrip.smul (d a : Reg) (b : SOp) : Laws.RoundTrip.Statement (.smul d a b) := by
  intro hw e h
  have h : encSalu 0x15#6 2#3 d a b = e := Option.some.inj h
  exact round_S 0x15#6 2#3 d a b _
    (by intro r h1 h2 h4 h5 h6 h7 h8 h9; rw [parse_15 h1]; simpa [parse15, h2, Raw.salu, h4, h5, h6, h7, h8] using h9) (by decide)
    hw e h.symm

theorem Laws.RoundTrip.sand (d a : Reg) (b : SOp) : Laws.RoundTrip.Statement (.sand d a b) := by
  intro hw e h
  have h : encSalu 0x15#6 3#3 d a b = e := Option.some.inj h
  exact round_S 0x15#6 3#3 d a b _
    (by intro r h1 h2 h4 h5 h6 h7 h8 h9; rw [parse_15 h1]; simpa [parse15, h2, Raw.salu, h4, h5, h6, h7, h8] using h9) (by decide)
    hw e h.symm

theorem Laws.RoundTrip.sor (d a : Reg) (b : SOp) : Laws.RoundTrip.Statement (.sor d a b) := by
  intro hw e h
  have h : encSalu 0x15#6 4#3 d a b = e := Option.some.inj h
  exact round_S 0x15#6 4#3 d a b _
    (by intro r h1 h2 h4 h5 h6 h7 h8 h9; rw [parse_15 h1]; simpa [parse15, h2, Raw.salu, h4, h5, h6, h7, h8] using h9) (by decide)
    hw e h.symm

theorem Laws.RoundTrip.sxor (d a : Reg) (b : SOp) : Laws.RoundTrip.Statement (.sxor d a b) := by
  intro hw e h
  have h : encSalu 0x15#6 5#3 d a b = e := Option.some.inj h
  exact round_S 0x15#6 5#3 d a b _
    (by intro r h1 h2 h4 h5 h6 h7 h8 h9; rw [parse_15 h1]; simpa [parse15, h2, Raw.salu, h4, h5, h6, h7, h8] using h9) (by decide)
    hw e h.symm

theorem Laws.RoundTrip.sshl (d a : Reg) (b : SOp) : Laws.RoundTrip.Statement (.sshl d a b) := by
  intro hw e h
  have h : encSalu 0x15#6 6#3 d a b = e := Option.some.inj h
  exact round_S 0x15#6 6#3 d a b _
    (by intro r h1 h2 h4 h5 h6 h7 h8 h9; rw [parse_15 h1]; simpa [parse15, h2, Raw.salu, h4, h5, h6, h7, h8] using h9) (by decide)
    hw e h.symm

theorem Laws.RoundTrip.sshr (d a : Reg) (b : SOp) : Laws.RoundTrip.Statement (.sshr d a b) := by
  intro hw e h
  have h : encSalu 0x15#6 7#3 d a b = e := Option.some.inj h
  exact round_S 0x15#6 7#3 d a b _
    (by intro r h1 h2 h4 h5 h6 h7 h8 h9; rw [parse_15 h1]; simpa [parse15, h2, Raw.salu, h4, h5, h6, h7, h8] using h9) (by decide)
    hw e h.symm

theorem Laws.RoundTrip.ssar (d a : Reg) (b : SOp) : Laws.RoundTrip.Statement (.ssar d a b) := by
  intro hw e h
  have h : encSalu 0x16#6 0#3 d a b = e := Option.some.inj h
  exact round_S 0x16#6 0#3 d a b _
    (by intro r h1 h2 h4 h5 h6 h7 h8 h9; rw [parse_16 h1]; simpa [parse16, h2, Raw.salu, h4, h5, h6, h7, h8] using h9) (by decide)
    hw e h.symm

theorem Laws.RoundTrip.smin (d a : Reg) (b : SOp) : Laws.RoundTrip.Statement (.smin d a b) := by
  intro hw e h
  have h : encSalu 0x16#6 1#3 d a b = e := Option.some.inj h
  exact round_S 0x16#6 1#3 d a b _
    (by intro r h1 h2 h4 h5 h6 h7 h8 h9; rw [parse_16 h1]; simpa [parse16, h2, Raw.salu, h4, h5, h6, h7, h8] using h9) (by decide)
    hw e h.symm

theorem Laws.RoundTrip.smax (d a : Reg) (b : SOp) : Laws.RoundTrip.Statement (.smax d a b) := by
  intro hw e h
  have h : encSalu 0x16#6 2#3 d a b = e := Option.some.inj h
  exact round_S 0x16#6 2#3 d a b _
    (by intro r h1 h2 h4 h5 h6 h7 h8 h9; rw [parse_16 h1]; simpa [parse16, h2, Raw.salu, h4, h5, h6, h7, h8] using h9) (by decide)
    hw e h.symm

theorem Laws.RoundTrip.sminu (d a : Reg) (b : SOp) : Laws.RoundTrip.Statement (.sminu d a b) := by
  intro hw e h
  have h : encSalu 0x16#6 3#3 d a b = e := Option.some.inj h
  exact round_S 0x16#6 3#3 d a b _
    (by intro r h1 h2 h4 h5 h6 h7 h8 h9; rw [parse_16 h1]; simpa [parse16, h2, Raw.salu, h4, h5, h6, h7, h8] using h9) (by decide)
    hw e h.symm

theorem Laws.RoundTrip.smaxu (d a : Reg) (b : SOp) : Laws.RoundTrip.Statement (.smaxu d a b) := by
  intro hw e h
  have h : encSalu 0x16#6 4#3 d a b = e := Option.some.inj h
  exact round_S 0x16#6 4#3 d a b _
    (by intro r h1 h2 h4 h5 h6 h7 h8 h9; rw [parse_16 h1]; simpa [parse16, h2, Raw.salu, h4, h5, h6, h7, h8] using h9) (by decide)
    hw e h.symm

theorem Laws.RoundTrip.sadd64 (d a : Reg) (b : SOp) : Laws.RoundTrip.Statement (.sadd64 d a b) := by
  intro hw e h
  have h : encSalu 0x16#6 5#3 d a b = e := Option.some.inj h
  exact round_S 0x16#6 5#3 d a b _
    (by intro r h1 h2 h4 h5 h6 h7 h8 h9; rw [parse_16 h1]; simpa [parse16, h2, Raw.salu, h4, h5, h6, h7, h8] using h9) (by decide)
    hw e h.symm

theorem Laws.RoundTrip.ssub64 (d a : Reg) (b : SOp) : Laws.RoundTrip.Statement (.ssub64 d a b) := by
  intro hw e h
  have h : encSalu 0x16#6 6#3 d a b = e := Option.some.inj h
  exact round_S 0x16#6 6#3 d a b _
    (by intro r h1 h2 h4 h5 h6 h7 h8 h9; rw [parse_16 h1]; simpa [parse16, h2, Raw.salu, h4, h5, h6, h7, h8] using h9) (by decide)
    hw e h.symm

theorem Laws.RoundTrip.smov (d : Reg) (b : SOp) : Laws.RoundTrip.Statement (.smov d b) := by
  intro hw e h
  have h : encSalu 0x16#6 7#3 d 0#6 b = e := Option.some.inj h
  exact round_S 0x16#6 7#3 d 0#6 b _
    (by intro r h1 h2 h4 h5 h6 h7 h8 h9; rw [parse_16 h1]; simpa [parse16, h2, Raw.smov, h4, h5, h6, h7, h8] using h9) (by decide)
    hw e h.symm

theorem Laws.RoundTrip.seq (d a : Reg) (b : SOp) : Laws.RoundTrip.Statement (.seq d a b) := by
  intro hw e h
  have h : encSalu 0x17#6 0#3 d a b = e := Option.some.inj h
  exact round_S 0x17#6 0#3 d a b _
    (by intro r h1 h2 h4 h5 h6 h7 h8 h9; rw [parse_17 h1]; simpa [parse17, h2, Raw.salu, h4, h5, h6, h7, h8] using h9) (by decide)
    hw e h.symm

theorem Laws.RoundTrip.sne (d a : Reg) (b : SOp) : Laws.RoundTrip.Statement (.sne d a b) := by
  intro hw e h
  have h : encSalu 0x17#6 1#3 d a b = e := Option.some.inj h
  exact round_S 0x17#6 1#3 d a b _
    (by intro r h1 h2 h4 h5 h6 h7 h8 h9; rw [parse_17 h1]; simpa [parse17, h2, Raw.salu, h4, h5, h6, h7, h8] using h9) (by decide)
    hw e h.symm

theorem Laws.RoundTrip.slt (d a : Reg) (b : SOp) : Laws.RoundTrip.Statement (.slt d a b) := by
  intro hw e h
  have h : encSalu 0x17#6 2#3 d a b = e := Option.some.inj h
  exact round_S 0x17#6 2#3 d a b _
    (by intro r h1 h2 h4 h5 h6 h7 h8 h9; rw [parse_17 h1]; simpa [parse17, h2, Raw.salu, h4, h5, h6, h7, h8] using h9) (by decide)
    hw e h.symm

theorem Laws.RoundTrip.sle (d a : Reg) (b : SOp) : Laws.RoundTrip.Statement (.sle d a b) := by
  intro hw e h
  have h : encSalu 0x17#6 3#3 d a b = e := Option.some.inj h
  exact round_S 0x17#6 3#3 d a b _
    (by intro r h1 h2 h4 h5 h6 h7 h8 h9; rw [parse_17 h1]; simpa [parse17, h2, Raw.salu, h4, h5, h6, h7, h8] using h9) (by decide)
    hw e h.symm

theorem Laws.RoundTrip.sgt (d a : Reg) (b : SOp) : Laws.RoundTrip.Statement (.sgt d a b) := by
  intro hw e h
  have h : encSalu 0x17#6 4#3 d a b = e := Option.some.inj h
  exact round_S 0x17#6 4#3 d a b _
    (by intro r h1 h2 h4 h5 h6 h7 h8 h9; rw [parse_17 h1]; simpa [parse17, h2, Raw.salu, h4, h5, h6, h7, h8] using h9) (by decide)
    hw e h.symm

theorem Laws.RoundTrip.sge (d a : Reg) (b : SOp) : Laws.RoundTrip.Statement (.sge d a b) := by
  intro hw e h
  have h : encSalu 0x17#6 5#3 d a b = e := Option.some.inj h
  exact round_S 0x17#6 5#3 d a b _
    (by intro r h1 h2 h4 h5 h6 h7 h8 h9; rw [parse_17 h1]; simpa [parse17, h2, Raw.salu, h4, h5, h6, h7, h8] using h9) (by decide)
    hw e h.symm

theorem Laws.RoundTrip.sltu (d a : Reg) (b : SOp) : Laws.RoundTrip.Statement (.sltu d a b) := by
  intro hw e h
  have h : encSalu 0x17#6 6#3 d a b = e := Option.some.inj h
  exact round_S 0x17#6 6#3 d a b _
    (by intro r h1 h2 h4 h5 h6 h7 h8 h9; rw [parse_17 h1]; simpa [parse17, h2, Raw.salu, h4, h5, h6, h7, h8] using h9) (by decide)
    hw e h.symm

theorem Laws.RoundTrip.sgeu (d a : Reg) (b : SOp) : Laws.RoundTrip.Statement (.sgeu d a b) := by
  intro hw e h
  have h : encSalu 0x17#6 7#3 d a b = e := Option.some.inj h
  exact round_S 0x17#6 7#3 d a b _
    (by intro r h1 h2 h4 h5 h6 h7 h8 h9; rw [parse_17 h1]; simpa [parse17, h2, Raw.salu, h4, h5, h6, h7, h8] using h9) (by decide)
    hw e h.symm

theorem Laws.RoundTrip.br (off : Word) : Laws.RoundTrip.Statement (.br off) := by
  intro hw e h
  have h : .two (word 0#4 false false 0#6 (0#6) (0#6) 0x18#6 false) off = e := Option.some.inj h
  subst h
  exact round_W2 0#4 false false 0#6 (0#6) (0#6) 0x18#6 false off _ (by rw [parse_18 rfl]; simp [parse18, Raw.bhi, Raw.bhib, Raw.blo, Raw.ord, Raw.scope])
    (by decide) (by simp [hasLiteral]) (by simp [permitsU]) hw

theorem Laws.RoundTrip.brmz (off : Word) : Laws.RoundTrip.Statement (.brmz off) := by
  intro hw e h
  have h : .two (word 1#4 false false 0#6 (0#6) (0#6) 0x18#6 false) off = e := Option.some.inj h
  subst h
  exact round_W2 1#4 false false 0#6 (0#6) (0#6) 0x18#6 false off _ (by rw [parse_18 rfl]; simp [parse18, Raw.bhi, Raw.bhib, Raw.blo, Raw.ord, Raw.scope])
    (by decide) (by simp [hasLiteral]) (by simp [permitsU]) hw

theorem Laws.RoundTrip.brz (a : Reg) (off : Word) : Laws.RoundTrip.Statement (.brz a off) := by
  intro hw e h
  have h : .two (word 2#4 false false 0#6 (a) (0#6) 0x18#6 false) off = e := Option.some.inj h
  subst h
  exact round_W2 2#4 false false 0#6 (a) (0#6) 0x18#6 false off _ (by rw [parse_18 rfl]; simp [parse18, Raw.bhi, Raw.bhib, Raw.blo, Raw.ord, Raw.scope])
    (by decide) (by simp [hasLiteral]) (by simp [permitsU]) hw

theorem Laws.RoundTrip.brnz (a : Reg) (off : Word) : Laws.RoundTrip.Statement (.brnz a off) := by
  intro hw e h
  have h : .two (word 3#4 false false 0#6 (a) (0#6) 0x18#6 false) off = e := Option.some.inj h
  subst h
  exact round_W2 3#4 false false 0#6 (a) (0#6) 0x18#6 false off _ (by rw [parse_18 rfl]; simp [parse18, Raw.bhi, Raw.bhib, Raw.blo, Raw.ord, Raw.scope])
    (by decide) (by simp [hasLiteral]) (by simp [permitsU]) hw

theorem Laws.RoundTrip.brpz (a : Reg) (off : Word) : Laws.RoundTrip.Statement (.brpz a off) := by
  intro hw e h
  have h : .two (word 4#4 false false 0#6 (a) (0#6) 0x18#6 false) off = e := Option.some.inj h
  subst h
  exact round_W2 4#4 false false 0#6 (a) (0#6) 0x18#6 false off _ (by rw [parse_18 rfl]; simp [parse18, Raw.bhi, Raw.bhib, Raw.blo, Raw.ord, Raw.scope])
    (by decide) (by simp [hasLiteral]) (by simp [permitsU]) hw

theorem Laws.RoundTrip.brpnz (a : Reg) (off : Word) : Laws.RoundTrip.Statement (.brpnz a off) := by
  intro hw e h
  have h : .two (word 5#4 false false 0#6 (a) (0#6) 0x18#6 false) off = e := Option.some.inj h
  subst h
  exact round_W2 5#4 false false 0#6 (a) (0#6) 0x18#6 false off _ (by rw [parse_18 rfl]; simp [parse18, Raw.bhi, Raw.bhib, Raw.blo, Raw.ord, Raw.scope])
    (by decide) (by simp [hasLiteral]) (by simp [permitsU]) hw

theorem Laws.RoundTrip.call (d : Reg) (off : Word) : Laws.RoundTrip.Statement (.call d off) := by
  intro hw e h
  have h : .two (word 6#4 false false 0#6 (0#6) (d) 0x18#6 false) off = e := Option.some.inj h
  subst h
  exact round_W2 6#4 false false 0#6 (0#6) (d) 0x18#6 false off _ (by rw [parse_18 rfl]; simp [parse18, Raw.bhi, Raw.bhib, Raw.blo, Raw.ord, Raw.scope])
    (by decide) (by simp [hasLiteral]) (by simp [permitsU]) hw

theorem Laws.RoundTrip.jmp (a : Reg) : Laws.RoundTrip.Statement (.jmp a) := by
  intro hw e h
  have h : .one (word (7#4) false false (0#6) (a) (0#6) 0x18#6 false) = e := Option.some.inj h
  subst h
  exact round_W (7#4) false false (0#6) (a) (0#6) 0x18#6 false _ (by rw [parse_18 rfl]; simp [parse18, Raw.bhi, Raw.bhib, Raw.blo, Raw.ord, Raw.scope])
    (by decide) (by simp [hasLiteral]) (by simp [permitsU]) hw

theorem Laws.RoundTrip.exit  : Laws.RoundTrip.Statement (.exit) := by
  intro hw e h
  have h : .one (word (0#4) false false (0#6) (0#6) (0#6) 0x19#6 false) = e := Option.some.inj h
  subst h
  exact round_W (0#4) false false (0#6) (0#6) (0#6) 0x19#6 false _ (by rw [parse_19 rfl]; simp [parse19, Raw.bhi, Raw.bhib, Raw.blo, Raw.ord, Raw.scope])
    (by decide) (by simp [hasLiteral]) (by simp [permitsU]) hw

theorem Laws.RoundTrip.nop  : Laws.RoundTrip.Statement (.nop) := by
  intro hw e h
  have h : .one (word (1#4) false false (0#6) (0#6) (0#6) 0x19#6 false) = e := Option.some.inj h
  subst h
  exact round_W (1#4) false false (0#6) (0#6) (0#6) 0x19#6 false _ (by rw [parse_19 rfl]; simp [parse19, Raw.bhi, Raw.bhib, Raw.blo, Raw.ord, Raw.scope])
    (by decide) (by simp [hasLiteral]) (by simp [permitsU]) hw

theorem Laws.RoundTrip.yield  : Laws.RoundTrip.Statement (.yield) := by
  intro hw e h
  have h : .one (word (2#4) false false (0#6) (0#6) (0#6) 0x19#6 false) = e := Option.some.inj h
  subst h
  exact round_W (2#4) false false (0#6) (0#6) (0#6) 0x19#6 false _ (by rw [parse_19 rfl]; simp [parse19, Raw.bhi, Raw.bhib, Raw.blo, Raw.ord, Raw.scope])
    (by decide) (by simp [hasLiteral]) (by simp [permitsU]) hw

theorem Laws.RoundTrip.bkpt (imm : BitVec 12) : Laws.RoundTrip.Statement (.bkpt imm) := by
  intro hw e h
  have h : .one (word (3#4) false false (imm.extractLsb' 6 6) (imm.extractLsb' 0 6) (0#6) 0x19#6 false) = e := Option.some.inj h
  subst h
  exact round_W (3#4) false false (imm.extractLsb' 6 6) (imm.extractLsb' 0 6) (0#6) 0x19#6 false _ (by rw [parse_19 rfl]; simp [parse19, Raw.bhi, Raw.bhib, Raw.blo, Raw.ord, Raw.scope])
    (by decide) (by simp [hasLiteral]) (by simp [permitsU]) hw

theorem Laws.RoundTrip.trap (imm : BitVec 12) : Laws.RoundTrip.Statement (.trap imm) := by
  intro hw e h
  have h : .one (word (4#4) false false (imm.extractLsb' 6 6) (imm.extractLsb' 0 6) (0#6) 0x19#6 false) = e := Option.some.inj h
  subst h
  exact round_W (4#4) false false (imm.extractLsb' 6 6) (imm.extractLsb' 0 6) (0#6) 0x19#6 false _ (by rw [parse_19 rfl]; simp [parse19, Raw.bhi, Raw.bhib, Raw.blo, Raw.ord, Raw.scope])
    (by decide) (by simp [hasLiteral]) (by simp [permitsU]) hw

theorem Laws.RoundTrip.sys (imm : BitVec 12) : Laws.RoundTrip.Statement (.sys imm) := by
  intro hw e h
  have h : .one (word (5#4) false false (imm.extractLsb' 6 6) (imm.extractLsb' 0 6) (0#6) 0x19#6 false) = e := Option.some.inj h
  subst h
  exact round_W (5#4) false false (imm.extractLsb' 6 6) (imm.extractLsb' 0 6) (0#6) 0x19#6 false _ (by rw [parse_19 rfl]; simp [parse19, Raw.bhi, Raw.bhib, Raw.blo, Raw.ord, Raw.scope])
    (by decide) (by simp [hasLiteral]) (by simp [permitsU]) hw

theorem Laws.RoundTrip.rett  : Laws.RoundTrip.Statement (.rett) := by
  intro hw e h
  have h : .one (word (6#4) false false (0#6) (0#6) (0#6) 0x19#6 false) = e := Option.some.inj h
  subst h
  exact round_W (6#4) false false (0#6) (0#6) (0#6) 0x19#6 false _ (by rw [parse_19 rfl]; simp [parse19, Raw.bhi, Raw.bhib, Raw.blo, Raw.ord, Raw.scope])
    (by decide) (by simp [hasLiteral]) (by simp [permitsU]) hw

theorem Laws.RoundTrip.halt  : Laws.RoundTrip.Statement (.halt) := by
  intro hw e h
  have h : .one (word (7#4) false false (0#6) (0#6) (0#6) 0x19#6 false) = e := Option.some.inj h
  subst h
  exact round_W (7#4) false false (0#6) (0#6) (0#6) 0x19#6 false _ (by rw [parse_19 rfl]; simp [parse19, Raw.bhi, Raw.bhib, Raw.blo, Raw.ord, Raw.scope])
    (by decide) (by simp [hasLiteral]) (by simp [permitsU]) hw

theorem Laws.RoundTrip.crrd (d : Reg) (idx : BitVec 12) : Laws.RoundTrip.Statement (.crrd d idx) := by
  intro hw e h
  have h : .one (word (0#4) false false (idx.extractLsb' 6 6) (idx.extractLsb' 0 6) (d) 0x1A#6 false) = e := Option.some.inj h
  subst h
  exact round_W (0#4) false false (idx.extractLsb' 6 6) (idx.extractLsb' 0 6) (d) 0x1A#6 false _ (by rw [parse_1A rfl]; simp [parse1A, Raw.bhi, Raw.bhib, Raw.blo, Raw.ord, Raw.scope])
    (by decide) (by simp [hasLiteral]) (by simp [permitsU]) hw

theorem Laws.RoundTrip.crwr (d : Reg) (idx : BitVec 12) : Laws.RoundTrip.Statement (.crwr d idx) := by
  intro hw e h
  have h : .one (word (1#4) false false (idx.extractLsb' 6 6) (idx.extractLsb' 0 6) (d) 0x1A#6 false) = e := Option.some.inj h
  subst h
  exact round_W (1#4) false false (idx.extractLsb' 6 6) (idx.extractLsb' 0 6) (d) 0x1A#6 false _ (by rw [parse_1A rfl]; simp [parse1A, Raw.bhi, Raw.bhib, Raw.blo, Raw.ord, Raw.scope])
    (by decide) (by simp [hasLiteral]) (by simp [permitsU]) hw

theorem Laws.RoundTrip.crrdv (d : Reg) (idx : BitVec 12) : Laws.RoundTrip.Statement (.crrdv d idx) := by
  intro hw e h
  have h : .one (word (2#4) false false (idx.extractLsb' 6 6) (idx.extractLsb' 0 6) (d) 0x1A#6 false) = e := Option.some.inj h
  subst h
  exact round_W (2#4) false false (idx.extractLsb' 6 6) (idx.extractLsb' 0 6) (d) 0x1A#6 false _ (by rw [parse_1A rfl]; simp [parse1A, Raw.bhi, Raw.bhib, Raw.blo, Raw.ord, Raw.scope])
    (by decide) (by simp [hasLiteral]) (by simp [permitsU]) hw

theorem Laws.RoundTrip.srkey (a : Reg) : Laws.RoundTrip.Statement (.srkey a) := by
  intro hw e h
  have h : .one (word (3#4) false false (0#6) (a) (0#6) 0x1A#6 false) = e := Option.some.inj h
  subst h
  exact round_W (3#4) false false (0#6) (a) (0#6) 0x1A#6 false _ (by rw [parse_1A rfl]; simp [parse1A, Raw.bhi, Raw.bhib, Raw.blo, Raw.ord, Raw.scope])
    (by decide) (by simp [hasLiteral]) (by simp [permitsU]) hw

theorem Laws.RoundTrip.srstep (a : Reg) : Laws.RoundTrip.Statement (.srstep a) := by
  intro hw e h
  have h : .one (word (4#4) false false (0#6) (a) (0#6) 0x1A#6 false) = e := Option.some.inj h
  subst h
  exact round_W (4#4) false false (0#6) (a) (0#6) 0x1A#6 false _ (by rw [parse_1A rfl]; simp [parse1A, Raw.bhi, Raw.bhib, Raw.blo, Raw.ord, Raw.scope])
    (by decide) (by simp [hasLiteral]) (by simp [permitsU]) hw

theorem Laws.RoundTrip.cntrd (d : Reg) (idx : BitVec 12) : Laws.RoundTrip.Statement (.cntrd d idx) := by
  intro hw e h
  have h : .one (word (5#4) false false (idx.extractLsb' 6 6) (idx.extractLsb' 0 6) (d) 0x1A#6 false) = e := Option.some.inj h
  subst h
  exact round_W (5#4) false false (idx.extractLsb' 6 6) (idx.extractLsb' 0 6) (d) 0x1A#6 false _ (by rw [parse_1A rfl]; simp [parse1A, Raw.bhi, Raw.bhib, Raw.blo, Raw.ord, Raw.scope])
    (by decide) (by simp [hasLiteral]) (by simp [permitsU]) hw

theorem Laws.RoundTrip.clkrd (d : Reg) (g : BitVec 3) : Laws.RoundTrip.Statement (.clkrd d g) := by
  intro hw e h
  have h : .one (word (6#4) false false (0#6) (0#3 ++ g) (d) 0x1A#6 false) = e := Option.some.inj h
  subst h
  exact round_W (6#4) false false (0#6) (0#3 ++ g) (d) 0x1A#6 false _ (by rw [parse_1A rfl]; simp [parse1A, Raw.bhi, Raw.bhib, Raw.blo, Raw.ord, Raw.scope])
    (by decide) (by simp [hasLiteral]) (by simp [permitsU]) hw

theorem Laws.RoundTrip.ld (o : MemOps) : Laws.RoundTrip.Statement (.ld o) := by
  intro hw e h
  have h : encMem 0x1B#6 o = e := Option.some.inj h
  subst h
  exact round_W (BitVec.ofBool o.f ++ BitVec.ofBool o.o ++ o.c) false o.ma (o.z ++ o.w) o.a o.d 0x1B#6 o.u _ (by rw [parse_1B rfl]; simp [parse1B, Raw.memOps, Raw.bhi, Raw.bhib, Raw.blo, Raw.ord, Raw.scope])
    (by decide) (by simp [hasLiteral]) (by simp [permitsU]) hw

theorem Laws.RoundTrip.st (o : MemOps) : Laws.RoundTrip.Statement (.st o) := by
  intro hw e h
  have h : encMem 0x1C#6 o = e := Option.some.inj h
  subst h
  exact round_W (BitVec.ofBool o.f ++ BitVec.ofBool o.o ++ o.c) false o.ma (o.z ++ o.w) o.a o.d 0x1C#6 o.u _ (by rw [parse_1C rfl]; simp [parse1C, Raw.memOps, Raw.bhi, Raw.bhib, Raw.blo, Raw.ord, Raw.scope, st_size hw])
    (by decide) (by simp [hasLiteral]) (by simp [permitsU]) hw

theorem Laws.RoundTrip.stB0 (o : MemOps0) : Laws.RoundTrip.Statement (.stB0 o) := by
  intro hw e h
  have h : encMem 0x1C#6 { f := o.f, o := o.o, c := o.c, ma := o.ma, z := 7#3, w := o.w, a := o.a, d := 0#6, u := o.u } = e := Option.some.inj h
  subst h
  exact round_W (BitVec.ofBool o.f ++ BitVec.ofBool o.o ++ o.c) false o.ma (7#3 ++ o.w) o.a 0#6 0x1C#6 o.u _ (by rw [parse_1C rfl]; simp [parse1C, Raw.memOps, Raw.bhi, Raw.bhib, Raw.blo, Raw.ord, Raw.scope])
    (by decide) (by simp [hasLiteral]) (by simp [permitsU]) hw

theorem Laws.RoundTrip.ldu (o : LduOps) : Laws.RoundTrip.Statement (.ldu o) := by
  intro hw e h
  have h : encMem 0x1D#6 { f := o.f, o := o.o, c := o.c, ma := false, z := o.z, w := o.w, a := o.a, d := o.d, u := false } = e := Option.some.inj h
  subst h
  exact round_W (BitVec.ofBool o.f ++ BitVec.ofBool o.o ++ o.c) false false (o.z ++ o.w) o.a o.d 0x1D#6 false _ (by rw [parse_1D rfl]; simp [parse1D, Raw.bhi, Raw.bhib, Raw.blo, Raw.ord, Raw.scope])
    (by decide) (by simp [hasLiteral]) (by simp [permitsU]) hw

theorem Laws.RoundTrip.atomAdd (o : AtomOps) : Laws.RoundTrip.Statement (.atomAdd o) := by
  intro hw e h
  have h : encAtom 0x1E#6 0#3 o = e := Option.some.inj h
  subst h
  exact round_W (BitVec.ofBool o.f ++ BitVec.ofBool o.q ++ o.c) false o.ma (0#3 ++ BitVec.ofBool o.z ++ o.w) o.a o.d 0x1E#6 o.u _ (by rw [parse_1E rfl]; simp [parse1E, Raw.atom, Raw.bhi, Raw.bhib, Raw.blo, Raw.ord, Raw.scope])
    (by decide) (by simp [hasLiteral]) (by simp [permitsU]) hw

theorem Laws.RoundTrip.atomMin (o : AtomOps) : Laws.RoundTrip.Statement (.atomMin o) := by
  intro hw e h
  have h : encAtom 0x1E#6 1#3 o = e := Option.some.inj h
  subst h
  exact round_W (BitVec.ofBool o.f ++ BitVec.ofBool o.q ++ o.c) false o.ma (1#3 ++ BitVec.ofBool o.z ++ o.w) o.a o.d 0x1E#6 o.u _ (by rw [parse_1E rfl]; simp [parse1E, Raw.atom, Raw.bhi, Raw.bhib, Raw.blo, Raw.ord, Raw.scope])
    (by decide) (by simp [hasLiteral]) (by simp [permitsU]) hw

theorem Laws.RoundTrip.atomMax (o : AtomOps) : Laws.RoundTrip.Statement (.atomMax o) := by
  intro hw e h
  have h : encAtom 0x1E#6 2#3 o = e := Option.some.inj h
  subst h
  exact round_W (BitVec.ofBool o.f ++ BitVec.ofBool o.q ++ o.c) false o.ma (2#3 ++ BitVec.ofBool o.z ++ o.w) o.a o.d 0x1E#6 o.u _ (by rw [parse_1E rfl]; simp [parse1E, Raw.atom, Raw.bhi, Raw.bhib, Raw.blo, Raw.ord, Raw.scope])
    (by decide) (by simp [hasLiteral]) (by simp [permitsU]) hw

theorem Laws.RoundTrip.atomAnd (o : AtomOps) : Laws.RoundTrip.Statement (.atomAnd o) := by
  intro hw e h
  have h : encAtom 0x1E#6 3#3 o = e := Option.some.inj h
  subst h
  exact round_W (BitVec.ofBool o.f ++ BitVec.ofBool o.q ++ o.c) false o.ma (3#3 ++ BitVec.ofBool o.z ++ o.w) o.a o.d 0x1E#6 o.u _ (by rw [parse_1E rfl]; simp [parse1E, Raw.atom, Raw.bhi, Raw.bhib, Raw.blo, Raw.ord, Raw.scope])
    (by decide) (by simp [hasLiteral]) (by simp [permitsU]) hw

theorem Laws.RoundTrip.atomOr (o : AtomOps) : Laws.RoundTrip.Statement (.atomOr o) := by
  intro hw e h
  have h : encAtom 0x1E#6 4#3 o = e := Option.some.inj h
  subst h
  exact round_W (BitVec.ofBool o.f ++ BitVec.ofBool o.q ++ o.c) false o.ma (4#3 ++ BitVec.ofBool o.z ++ o.w) o.a o.d 0x1E#6 o.u _ (by rw [parse_1E rfl]; simp [parse1E, Raw.atom, Raw.bhi, Raw.bhib, Raw.blo, Raw.ord, Raw.scope])
    (by decide) (by simp [hasLiteral]) (by simp [permitsU]) hw

theorem Laws.RoundTrip.atomXor (o : AtomOps) : Laws.RoundTrip.Statement (.atomXor o) := by
  intro hw e h
  have h : encAtom 0x1E#6 5#3 o = e := Option.some.inj h
  subst h
  exact round_W (BitVec.ofBool o.f ++ BitVec.ofBool o.q ++ o.c) false o.ma (5#3 ++ BitVec.ofBool o.z ++ o.w) o.a o.d 0x1E#6 o.u _ (by rw [parse_1E rfl]; simp [parse1E, Raw.atom, Raw.bhi, Raw.bhib, Raw.blo, Raw.ord, Raw.scope])
    (by decide) (by simp [hasLiteral]) (by simp [permitsU]) hw

theorem Laws.RoundTrip.atomXchg (o : AtomOps) : Laws.RoundTrip.Statement (.atomXchg o) := by
  intro hw e h
  have h : encAtom 0x1E#6 6#3 o = e := Option.some.inj h
  subst h
  exact round_W (BitVec.ofBool o.f ++ BitVec.ofBool o.q ++ o.c) false o.ma (6#3 ++ BitVec.ofBool o.z ++ o.w) o.a o.d 0x1E#6 o.u _ (by rw [parse_1E rfl]; simp [parse1E, Raw.atom, Raw.bhi, Raw.bhib, Raw.blo, Raw.ord, Raw.scope])
    (by decide) (by simp [hasLiteral]) (by simp [permitsU]) hw

theorem Laws.RoundTrip.atomCas (o : AtomOps) : Laws.RoundTrip.Statement (.atomCas o) := by
  intro hw e h
  have h : encAtom 0x1E#6 7#3 o = e := Option.some.inj h
  subst h
  exact round_W (BitVec.ofBool o.f ++ BitVec.ofBool o.q ++ o.c) false o.ma (7#3 ++ BitVec.ofBool o.z ++ o.w) o.a o.d 0x1E#6 o.u _ (by rw [parse_1E rfl]; simp [parse1E, Raw.atom, Raw.bhi, Raw.bhib, Raw.blo, Raw.ord, Raw.scope])
    (by decide) (by simp [hasLiteral]) (by simp [permitsU]) hw

theorem Laws.RoundTrip.atomrAdd (o : AtomOps) : Laws.RoundTrip.Statement (.atomrAdd o) := by
  intro hw e h
  have h : encAtom 0x1F#6 0#3 o = e := Option.some.inj h
  subst h
  exact round_W (BitVec.ofBool o.f ++ BitVec.ofBool o.q ++ o.c) false o.ma (0#3 ++ BitVec.ofBool o.z ++ o.w) o.a o.d 0x1F#6 o.u _ (by rw [parse_1F rfl]; simp [parse1F, Raw.atom, Raw.bhi, Raw.bhib, Raw.blo, Raw.ord, Raw.scope])
    (by decide) (by simp [hasLiteral]) (by simp [permitsU]) hw

theorem Laws.RoundTrip.atomrMin (o : AtomOps) : Laws.RoundTrip.Statement (.atomrMin o) := by
  intro hw e h
  have h : encAtom 0x1F#6 1#3 o = e := Option.some.inj h
  subst h
  exact round_W (BitVec.ofBool o.f ++ BitVec.ofBool o.q ++ o.c) false o.ma (1#3 ++ BitVec.ofBool o.z ++ o.w) o.a o.d 0x1F#6 o.u _ (by rw [parse_1F rfl]; simp [parse1F, Raw.atom, Raw.bhi, Raw.bhib, Raw.blo, Raw.ord, Raw.scope])
    (by decide) (by simp [hasLiteral]) (by simp [permitsU]) hw

theorem Laws.RoundTrip.atomrMax (o : AtomOps) : Laws.RoundTrip.Statement (.atomrMax o) := by
  intro hw e h
  have h : encAtom 0x1F#6 2#3 o = e := Option.some.inj h
  subst h
  exact round_W (BitVec.ofBool o.f ++ BitVec.ofBool o.q ++ o.c) false o.ma (2#3 ++ BitVec.ofBool o.z ++ o.w) o.a o.d 0x1F#6 o.u _ (by rw [parse_1F rfl]; simp [parse1F, Raw.atom, Raw.bhi, Raw.bhib, Raw.blo, Raw.ord, Raw.scope])
    (by decide) (by simp [hasLiteral]) (by simp [permitsU]) hw

theorem Laws.RoundTrip.atomrAnd (o : AtomOps) : Laws.RoundTrip.Statement (.atomrAnd o) := by
  intro hw e h
  have h : encAtom 0x1F#6 3#3 o = e := Option.some.inj h
  subst h
  exact round_W (BitVec.ofBool o.f ++ BitVec.ofBool o.q ++ o.c) false o.ma (3#3 ++ BitVec.ofBool o.z ++ o.w) o.a o.d 0x1F#6 o.u _ (by rw [parse_1F rfl]; simp [parse1F, Raw.atom, Raw.bhi, Raw.bhib, Raw.blo, Raw.ord, Raw.scope])
    (by decide) (by simp [hasLiteral]) (by simp [permitsU]) hw

theorem Laws.RoundTrip.atomrOr (o : AtomOps) : Laws.RoundTrip.Statement (.atomrOr o) := by
  intro hw e h
  have h : encAtom 0x1F#6 4#3 o = e := Option.some.inj h
  subst h
  exact round_W (BitVec.ofBool o.f ++ BitVec.ofBool o.q ++ o.c) false o.ma (4#3 ++ BitVec.ofBool o.z ++ o.w) o.a o.d 0x1F#6 o.u _ (by rw [parse_1F rfl]; simp [parse1F, Raw.atom, Raw.bhi, Raw.bhib, Raw.blo, Raw.ord, Raw.scope])
    (by decide) (by simp [hasLiteral]) (by simp [permitsU]) hw

theorem Laws.RoundTrip.atomrXor (o : AtomOps) : Laws.RoundTrip.Statement (.atomrXor o) := by
  intro hw e h
  have h : encAtom 0x1F#6 5#3 o = e := Option.some.inj h
  subst h
  exact round_W (BitVec.ofBool o.f ++ BitVec.ofBool o.q ++ o.c) false o.ma (5#3 ++ BitVec.ofBool o.z ++ o.w) o.a o.d 0x1F#6 o.u _ (by rw [parse_1F rfl]; simp [parse1F, Raw.atom, Raw.bhi, Raw.bhib, Raw.blo, Raw.ord, Raw.scope])
    (by decide) (by simp [hasLiteral]) (by simp [permitsU]) hw

theorem Laws.RoundTrip.atomrXchg (o : AtomOps) : Laws.RoundTrip.Statement (.atomrXchg o) := by
  intro hw e h
  have h : encAtom 0x1F#6 6#3 o = e := Option.some.inj h
  subst h
  exact round_W (BitVec.ofBool o.f ++ BitVec.ofBool o.q ++ o.c) false o.ma (6#3 ++ BitVec.ofBool o.z ++ o.w) o.a o.d 0x1F#6 o.u _ (by rw [parse_1F rfl]; simp [parse1F, Raw.atom, Raw.bhi, Raw.bhib, Raw.blo, Raw.ord, Raw.scope])
    (by decide) (by simp [hasLiteral]) (by simp [permitsU]) hw

theorem Laws.RoundTrip.atomrCas (o : AtomOps) : Laws.RoundTrip.Statement (.atomrCas o) := by
  intro hw e h
  have h : encAtom 0x1F#6 7#3 o = e := Option.some.inj h
  subst h
  exact round_W (BitVec.ofBool o.f ++ BitVec.ofBool o.q ++ o.c) false o.ma (7#3 ++ BitVec.ofBool o.z ++ o.w) o.a o.d 0x1F#6 o.u _ (by rw [parse_1F rfl]; simp [parse1F, Raw.atom, Raw.bhi, Raw.bhib, Raw.blo, Raw.ord, Raw.scope])
    (by decide) (by simp [hasLiteral]) (by simp [permitsU]) hw

theorem Laws.RoundTrip.redniAdd (o : AtomOps) : Laws.RoundTrip.Statement (.redniAdd o) := by
  intro hw e h
  have h : encAtom 0x20#6 0#3 o = e := Option.some.inj h
  subst h
  exact round_W (BitVec.ofBool o.f ++ BitVec.ofBool o.q ++ o.c) false o.ma (0#3 ++ BitVec.ofBool o.z ++ o.w) o.a o.d 0x20#6 o.u _ (by rw [parse_20 rfl]; simp [parse20, Raw.atom, Raw.bhi, Raw.bhib, Raw.blo, Raw.ord, Raw.scope])
    (by decide) (by simp [hasLiteral]) (by simp [permitsU]) hw

theorem Laws.RoundTrip.redniSmin (o : AtomOps) : Laws.RoundTrip.Statement (.redniSmin o) := by
  intro hw e h
  have h : encAtom 0x20#6 1#3 o = e := Option.some.inj h
  subst h
  exact round_W (BitVec.ofBool o.f ++ BitVec.ofBool o.q ++ o.c) false o.ma (1#3 ++ BitVec.ofBool o.z ++ o.w) o.a o.d 0x20#6 o.u _ (by rw [parse_20 rfl]; simp [parse20, Raw.atom, Raw.bhi, Raw.bhib, Raw.blo, Raw.ord, Raw.scope])
    (by decide) (by simp [hasLiteral]) (by simp [permitsU]) hw

theorem Laws.RoundTrip.redniSmax (o : AtomOps) : Laws.RoundTrip.Statement (.redniSmax o) := by
  intro hw e h
  have h : encAtom 0x20#6 2#3 o = e := Option.some.inj h
  subst h
  exact round_W (BitVec.ofBool o.f ++ BitVec.ofBool o.q ++ o.c) false o.ma (2#3 ++ BitVec.ofBool o.z ++ o.w) o.a o.d 0x20#6 o.u _ (by rw [parse_20 rfl]; simp [parse20, Raw.atom, Raw.bhi, Raw.bhib, Raw.blo, Raw.ord, Raw.scope])
    (by decide) (by simp [hasLiteral]) (by simp [permitsU]) hw

theorem Laws.RoundTrip.redniUmin (o : AtomOps) : Laws.RoundTrip.Statement (.redniUmin o) := by
  intro hw e h
  have h : encAtom 0x20#6 3#3 o = e := Option.some.inj h
  subst h
  exact round_W (BitVec.ofBool o.f ++ BitVec.ofBool o.q ++ o.c) false o.ma (3#3 ++ BitVec.ofBool o.z ++ o.w) o.a o.d 0x20#6 o.u _ (by rw [parse_20 rfl]; simp [parse20, Raw.atom, Raw.bhi, Raw.bhib, Raw.blo, Raw.ord, Raw.scope])
    (by decide) (by simp [hasLiteral]) (by simp [permitsU]) hw

theorem Laws.RoundTrip.redniUmax (o : AtomOps) : Laws.RoundTrip.Statement (.redniUmax o) := by
  intro hw e h
  have h : encAtom 0x20#6 4#3 o = e := Option.some.inj h
  subst h
  exact round_W (BitVec.ofBool o.f ++ BitVec.ofBool o.q ++ o.c) false o.ma (4#3 ++ BitVec.ofBool o.z ++ o.w) o.a o.d 0x20#6 o.u _ (by rw [parse_20 rfl]; simp [parse20, Raw.atom, Raw.bhi, Raw.bhib, Raw.blo, Raw.ord, Raw.scope])
    (by decide) (by simp [hasLiteral]) (by simp [permitsU]) hw

theorem Laws.RoundTrip.redniAnd (o : AtomOps) : Laws.RoundTrip.Statement (.redniAnd o) := by
  intro hw e h
  have h : encAtom 0x20#6 5#3 o = e := Option.some.inj h
  subst h
  exact round_W (BitVec.ofBool o.f ++ BitVec.ofBool o.q ++ o.c) false o.ma (5#3 ++ BitVec.ofBool o.z ++ o.w) o.a o.d 0x20#6 o.u _ (by rw [parse_20 rfl]; simp [parse20, Raw.atom, Raw.bhi, Raw.bhib, Raw.blo, Raw.ord, Raw.scope])
    (by decide) (by simp [hasLiteral]) (by simp [permitsU]) hw

theorem Laws.RoundTrip.redniOr (o : AtomOps) : Laws.RoundTrip.Statement (.redniOr o) := by
  intro hw e h
  have h : encAtom 0x20#6 6#3 o = e := Option.some.inj h
  subst h
  exact round_W (BitVec.ofBool o.f ++ BitVec.ofBool o.q ++ o.c) false o.ma (6#3 ++ BitVec.ofBool o.z ++ o.w) o.a o.d 0x20#6 o.u _ (by rw [parse_20 rfl]; simp [parse20, Raw.atom, Raw.bhi, Raw.bhib, Raw.blo, Raw.ord, Raw.scope])
    (by decide) (by simp [hasLiteral]) (by simp [permitsU]) hw

theorem Laws.RoundTrip.redniXor (o : AtomOps) : Laws.RoundTrip.Statement (.redniXor o) := by
  intro hw e h
  have h : encAtom 0x20#6 7#3 o = e := Option.some.inj h
  subst h
  exact round_W (BitVec.ofBool o.f ++ BitVec.ofBool o.q ++ o.c) false o.ma (7#3 ++ BitVec.ofBool o.z ++ o.w) o.a o.d 0x20#6 o.u _ (by rw [parse_20 rfl]; simp [parse20, Raw.atom, Raw.bhi, Raw.bhib, Raw.blo, Raw.ord, Raw.scope])
    (by decide) (by simp [hasLiteral]) (by simp [permitsU]) hw

theorem Laws.RoundTrip.rednfF32Any (o : CellOps) : Laws.RoundTrip.Statement (.rednfF32Any o) := by
  intro hw e h
  have h : encCell 0x21#6 0#3 o = e := Option.some.inj h
  subst h
  exact round_W (BitVec.ofBool o.f ++ BitVec.ofBool o.q ++ o.c) false o.ma (0#3 ++ 0#1 ++ o.w) o.a o.d 0x21#6 o.u _ (by rw [parse_21 rfl]; simp [parse21, Raw.cell, Raw.cellz, Raw.bhi, Raw.bhib, Raw.blo, Raw.ord, Raw.scope])
    (by decide) (by simp [hasLiteral]) (by simp [permitsU]) hw

theorem Laws.RoundTrip.rednfBf16Any (o : CellOps) : Laws.RoundTrip.Statement (.rednfBf16Any o) := by
  intro hw e h
  have h : encCell 0x21#6 1#3 o = e := Option.some.inj h
  subst h
  exact round_W (BitVec.ofBool o.f ++ BitVec.ofBool o.q ++ o.c) false o.ma (1#3 ++ 0#1 ++ o.w) o.a o.d 0x21#6 o.u _ (by rw [parse_21 rfl]; simp [parse21, Raw.cell, Raw.cellz, Raw.bhi, Raw.bhib, Raw.blo, Raw.ord, Raw.scope])
    (by decide) (by simp [hasLiteral]) (by simp [permitsU]) hw

theorem Laws.RoundTrip.rednfF16Any (o : CellOps) : Laws.RoundTrip.Statement (.rednfF16Any o) := by
  intro hw e h
  have h : encCell 0x21#6 2#3 o = e := Option.some.inj h
  subst h
  exact round_W (BitVec.ofBool o.f ++ BitVec.ofBool o.q ++ o.c) false o.ma (2#3 ++ 0#1 ++ o.w) o.a o.d 0x21#6 o.u _ (by rw [parse_21 rfl]; simp [parse21, Raw.cell, Raw.cellz, Raw.bhi, Raw.bhib, Raw.blo, Raw.ord, Raw.scope])
    (by decide) (by simp [hasLiteral]) (by simp [permitsU]) hw

theorem Laws.RoundTrip.rednfF32Ord (o : CellOps) : Laws.RoundTrip.Statement (.rednfF32Ord o) := by
  intro hw e h
  have h : encCell 0x21#6 3#3 o = e := Option.some.inj h
  subst h
  exact round_W (BitVec.ofBool o.f ++ BitVec.ofBool o.q ++ o.c) false o.ma (3#3 ++ 0#1 ++ o.w) o.a o.d 0x21#6 o.u _ (by rw [parse_21 rfl]; simp [parse21, Raw.cell, Raw.cellz, Raw.bhi, Raw.bhib, Raw.blo, Raw.ord, Raw.scope])
    (by decide) (by simp [hasLiteral]) (by simp [permitsU]) hw

theorem Laws.RoundTrip.rednfBf16Ord (o : CellOps) : Laws.RoundTrip.Statement (.rednfBf16Ord o) := by
  intro hw e h
  have h : encCell 0x21#6 4#3 o = e := Option.some.inj h
  subst h
  exact round_W (BitVec.ofBool o.f ++ BitVec.ofBool o.q ++ o.c) false o.ma (4#3 ++ 0#1 ++ o.w) o.a o.d 0x21#6 o.u _ (by rw [parse_21 rfl]; simp [parse21, Raw.cell, Raw.cellz, Raw.bhi, Raw.bhib, Raw.blo, Raw.ord, Raw.scope])
    (by decide) (by simp [hasLiteral]) (by simp [permitsU]) hw

theorem Laws.RoundTrip.rednfF16Ord (o : CellOps) : Laws.RoundTrip.Statement (.rednfF16Ord o) := by
  intro hw e h
  have h : encCell 0x21#6 5#3 o = e := Option.some.inj h
  subst h
  exact round_W (BitVec.ofBool o.f ++ BitVec.ofBool o.q ++ o.c) false o.ma (5#3 ++ 0#1 ++ o.w) o.a o.d 0x21#6 o.u _ (by rw [parse_21 rfl]; simp [parse21, Raw.cell, Raw.cellz, Raw.bhi, Raw.bhib, Raw.blo, Raw.ord, Raw.scope])
    (by decide) (by simp [hasLiteral]) (by simp [permitsU]) hw

theorem Laws.RoundTrip.rednfCellz (o : CellzOps) : Laws.RoundTrip.Statement (.rednfCellz o) := by
  intro hw e h
  have h : encCell 0x21#6 6#3 { f := o.f, q := o.q, c := o.c, ma := o.ma, w := o.w, a := o.a, d := 0#6, u := o.u } = e := Option.some.inj h
  subst h
  exact round_W (BitVec.ofBool o.f ++ BitVec.ofBool o.q ++ o.c) false o.ma (6#3 ++ 0#1 ++ o.w) o.a 0#6 0x21#6 o.u _ (by rw [parse_21 rfl]; simp [parse21, Raw.cell, Raw.cellz, Raw.bhi, Raw.bhib, Raw.blo, Raw.ord, Raw.scope])
    (by decide) (by simp [hasLiteral]) (by simp [permitsU]) hw

theorem Laws.RoundTrip.bewAdds (o : AtomOps) : Laws.RoundTrip.Statement (.bewAdds o) := by
  intro hw e h
  have h : encAtom 0x22#6 0#3 o = e := Option.some.inj h
  subst h
  exact round_W (BitVec.ofBool o.f ++ BitVec.ofBool o.q ++ o.c) false o.ma (0#3 ++ BitVec.ofBool o.z ++ o.w) o.a o.d 0x22#6 o.u _ (by rw [parse_22 rfl]; simp [parse22, Raw.atom, Raw.bhi, Raw.bhib, Raw.blo, Raw.ord, Raw.scope])
    (by decide) (by simp [hasLiteral]) (by simp [permitsU]) hw

theorem Laws.RoundTrip.bewMuls (o : AtomOps) : Laws.RoundTrip.Statement (.bewMuls o) := by
  intro hw e h
  have h : encAtom 0x22#6 1#3 o = e := Option.some.inj h
  subst h
  exact round_W (BitVec.ofBool o.f ++ BitVec.ofBool o.q ++ o.c) false o.ma (1#3 ++ BitVec.ofBool o.z ++ o.w) o.a o.d 0x22#6 o.u _ (by rw [parse_22 rfl]; simp [parse22, Raw.atom, Raw.bhi, Raw.bhib, Raw.blo, Raw.ord, Raw.scope])
    (by decide) (by simp [hasLiteral]) (by simp [permitsU]) hw

theorem Laws.RoundTrip.bewFmas (o : AtomOps) : Laws.RoundTrip.Statement (.bewFmas o) := by
  intro hw e h
  have h : encAtom 0x22#6 2#3 o = e := Option.some.inj h
  subst h
  exact round_W (BitVec.ofBool o.f ++ BitVec.ofBool o.q ++ o.c) false o.ma (2#3 ++ BitVec.ofBool o.z ++ o.w) o.a o.d 0x22#6 o.u _ (by rw [parse_22 rfl]; simp [parse22, Raw.atom, Raw.bhi, Raw.bhib, Raw.blo, Raw.ord, Raw.scope])
    (by decide) (by simp [hasLiteral]) (by simp [permitsU]) hw

theorem Laws.RoundTrip.bewMaxs (o : AtomOps) : Laws.RoundTrip.Statement (.bewMaxs o) := by
  intro hw e h
  have h : encAtom 0x22#6 3#3 o = e := Option.some.inj h
  subst h
  exact round_W (BitVec.ofBool o.f ++ BitVec.ofBool o.q ++ o.c) false o.ma (3#3 ++ BitVec.ofBool o.z ++ o.w) o.a o.d 0x22#6 o.u _ (by rw [parse_22 rfl]; simp [parse22, Raw.atom, Raw.bhi, Raw.bhib, Raw.blo, Raw.ord, Raw.scope])
    (by decide) (by simp [hasLiteral]) (by simp [permitsU]) hw

theorem Laws.RoundTrip.bewMins (o : AtomOps) : Laws.RoundTrip.Statement (.bewMins o) := by
  intro hw e h
  have h : encAtom 0x22#6 4#3 o = e := Option.some.inj h
  subst h
  exact round_W (BitVec.ofBool o.f ++ BitVec.ofBool o.q ++ o.c) false o.ma (4#3 ++ BitVec.ofBool o.z ++ o.w) o.a o.d 0x22#6 o.u _ (by rw [parse_22 rfl]; simp [parse22, Raw.atom, Raw.bhi, Raw.bhib, Raw.blo, Raw.ord, Raw.scope])
    (by decide) (by simp [hasLiteral]) (by simp [permitsU]) hw

theorem Laws.RoundTrip.cellrdF32 (o : CellOps) : Laws.RoundTrip.Statement (.cellrdF32 o) := by
  intro hw e h
  have h : encCell 0x23#6 0#3 o = e := Option.some.inj h
  subst h
  exact round_W (BitVec.ofBool o.f ++ BitVec.ofBool o.q ++ o.c) false o.ma (0#3 ++ 0#1 ++ o.w) o.a o.d 0x23#6 o.u _ (by rw [parse_23 rfl]; simp [parse23, Raw.cell, Raw.bhi, Raw.bhib, Raw.blo, Raw.ord, Raw.scope])
    (by decide) (by simp [hasLiteral]) (by simp [permitsU]) hw

theorem Laws.RoundTrip.cellrdBf16 (o : CellOps) : Laws.RoundTrip.Statement (.cellrdBf16 o) := by
  intro hw e h
  have h : encCell 0x23#6 1#3 o = e := Option.some.inj h
  subst h
  exact round_W (BitVec.ofBool o.f ++ BitVec.ofBool o.q ++ o.c) false o.ma (1#3 ++ 0#1 ++ o.w) o.a o.d 0x23#6 o.u _ (by rw [parse_23 rfl]; simp [parse23, Raw.cell, Raw.bhi, Raw.bhib, Raw.blo, Raw.ord, Raw.scope])
    (by decide) (by simp [hasLiteral]) (by simp [permitsU]) hw

theorem Laws.RoundTrip.cellrdRaw (o : CellOps) : Laws.RoundTrip.Statement (.cellrdRaw o) := by
  intro hw e h
  have h : encCell 0x23#6 2#3 o = e := Option.some.inj h
  subst h
  exact round_W (BitVec.ofBool o.f ++ BitVec.ofBool o.q ++ o.c) false o.ma (2#3 ++ 0#1 ++ o.w) o.a o.d 0x23#6 o.u _ (by rw [parse_23 rfl]; simp [parse23, Raw.cell, Raw.bhi, Raw.bhib, Raw.blo, Raw.ord, Raw.scope])
    (by decide) (by simp [hasLiteral]) (by simp [permitsU]) hw

theorem Laws.RoundTrip.fence (f : Bool) (c : BitVec 2) : Laws.RoundTrip.Statement (.fence f c) := by
  intro hw e h
  have h : .one (word (BitVec.ofBool f ++ 0#3) false false (0#4 ++ c) (0#6) (0#6) 0x24#6 false) = e := Option.some.inj h
  subst h
  exact round_W (BitVec.ofBool f ++ 0#3) false false (0#4 ++ c) (0#6) (0#6) 0x24#6 false _ (by rw [parse_24 rfl]; simp [parse24, Raw.bhi, Raw.bhib, Raw.blo, Raw.ord, Raw.scope])
    (by decide) (by simp [hasLiteral]) (by simp [permitsU]) hw

theorem Laws.RoundTrip.pref (f : Bool) (w : BitVec 3) (a : Reg) (ma : Bool) (l : BitVec 2) : Laws.RoundTrip.Statement (.pref f w a ma l) := by
  intro hw e h
  have h : .one (word (BitVec.ofBool f ++ 1#3) false ma (0#3 ++ w) (a) (0#4 ++ l) 0x24#6 false) = e := Option.some.inj h
  subst h
  exact round_W (BitVec.ofBool f ++ 1#3) false ma (0#3 ++ w) (a) (0#4 ++ l) 0x24#6 false _ (by rw [parse_24 rfl]; simp [parse24, Raw.bhi, Raw.bhib, Raw.blo, Raw.ord, Raw.scope])
    (by decide) (by simp [hasLiteral]) (by simp [permitsU]) hw

theorem Laws.RoundTrip.wsetG (f : Bool) (w : BitVec 3) (a : Reg) : Laws.RoundTrip.Statement (.wsetG f w a) := by
  intro hw e h
  have h : .one (word (BitVec.ofBool f ++ 2#3) false false (0#6) (a) (0#3 ++ w) 0x24#6 false) = e := Option.some.inj h
  subst h
  exact round_W (BitVec.ofBool f ++ 2#3) false false (0#6) (a) (0#3 ++ w) 0x24#6 false _ (by rw [parse_24 rfl]; simp [parse24, Raw.bhi, Raw.bhib, Raw.blo, Raw.ord, Raw.scope])
    (by decide) (by simp [hasLiteral]) (by simp [permitsU]) hw

theorem Laws.RoundTrip.wsetL (f : Bool) (w : BitVec 3) (a : Reg) : Laws.RoundTrip.Statement (.wsetL f w a) := by
  intro hw e h
  have h : .one (word (BitVec.ofBool f ++ 3#3) false false (0#6) (a) (0#3 ++ w) 0x24#6 false) = e := Option.some.inj h
  subst h
  exact round_W (BitVec.ofBool f ++ 3#3) false false (0#6) (a) (0#3 ++ w) 0x24#6 false _ (by rw [parse_24 rfl]; simp [parse24, Raw.bhi, Raw.bhib, Raw.blo, Raw.ord, Raw.scope])
    (by decide) (by simp [hasLiteral]) (by simp [permitsU]) hw

theorem Laws.RoundTrip.wsetA (f : Bool) (w : BitVec 3) (a : Reg) : Laws.RoundTrip.Statement (.wsetA f w a) := by
  intro hw e h
  have h : .one (word (BitVec.ofBool f ++ 4#3) false false (0#6) (a) (0#3 ++ w) 0x24#6 false) = e := Option.some.inj h
  subst h
  exact round_W (BitVec.ofBool f ++ 4#3) false false (0#6) (a) (0#3 ++ w) 0x24#6 false _ (by rw [parse_24 rfl]; simp [parse24, Raw.bhi, Raw.bhib, Raw.blo, Raw.ord, Raw.scope])
    (by decide) (by simp [hasLiteral]) (by simp [permitsU]) hw

theorem Laws.RoundTrip.winv (f : Bool) (w : BitVec 3) : Laws.RoundTrip.Statement (.winv f w) := by
  intro hw e h
  have h : .one (word (BitVec.ofBool f ++ 5#3) false false (0#6) (0#6) (0#3 ++ w) 0x24#6 false) = e := Option.some.inj h
  subst h
  exact round_W (BitVec.ofBool f ++ 5#3) false false (0#6) (0#6) (0#3 ++ w) 0x24#6 false _ (by rw [parse_24 rfl]; simp [parse24, Raw.bhi, Raw.bhib, Raw.blo, Raw.ord, Raw.scope])
    (by decide) (by simp [hasLiteral]) (by simp [permitsU]) hw

theorem Laws.RoundTrip.winvAll (f : Bool) : Laws.RoundTrip.Statement (.winvAll f) := by
  intro hw e h
  have h : .one (word (BitVec.ofBool f ++ 5#3) false false (0#6) (0#6) (8#6) 0x24#6 false) = e := Option.some.inj h
  subst h
  exact round_W (BitVec.ofBool f ++ 5#3) false false (0#6) (0#6) (8#6) 0x24#6 false _ (by rw [parse_24 rfl]; simp [parse24, Raw.bhi, Raw.bhib, Raw.blo, Raw.ord, Raw.scope])
    (by decide) (by simp [hasLiteral]) (by simp [permitsU]) hw

theorem Laws.RoundTrip.cpyGl (f : Bool) (dw sw : BitVec 3) (a : Reg) : Laws.RoundTrip.Statement (.cpyGl f dw sw a) := by
  intro hw e h
  have h : .one (word (BitVec.ofBool f ++ 0#3) false false (dw ++ sw) (a) (0#6) 0x25#6 false) = e := Option.some.inj h
  subst h
  exact round_W (BitVec.ofBool f ++ 0#3) false false (dw ++ sw) (a) (0#6) 0x25#6 false _ (by rw [parse_25 rfl]; simp [parse25, Raw.bhi, Raw.bhib, Raw.blo, Raw.ord, Raw.scope])
    (by decide) (by simp [hasLiteral]) (by simp [permitsU]) hw

theorem Laws.RoundTrip.cpyLg (f : Bool) (dw sw : BitVec 3) (a : Reg) : Laws.RoundTrip.Statement (.cpyLg f dw sw a) := by
  intro hw e h
  have h : .one (word (BitVec.ofBool f ++ 1#3) false false (dw ++ sw) (a) (0#6) 0x25#6 false) = e := Option.some.inj h
  subst h
  exact round_W (BitVec.ofBool f ++ 1#3) false false (dw ++ sw) (a) (0#6) 0x25#6 false _ (by rw [parse_25 rfl]; simp [parse25, Raw.bhi, Raw.bhib, Raw.blo, Raw.ord, Raw.scope])
    (by decide) (by simp [hasLiteral]) (by simp [permitsU]) hw

theorem Laws.RoundTrip.cpyGg (f : Bool) (dw sw : BitVec 3) (a : Reg) : Laws.RoundTrip.Statement (.cpyGg f dw sw a) := by
  intro hw e h
  have h : .one (word (BitVec.ofBool f ++ 2#3) false false (dw ++ sw) (a) (0#6) 0x25#6 false) = e := Option.some.inj h
  subst h
  exact round_W (BitVec.ofBool f ++ 2#3) false false (dw ++ sw) (a) (0#6) 0x25#6 false _ (by rw [parse_25 rfl]; simp [parse25, Raw.bhi, Raw.bhib, Raw.blo, Raw.ord, Raw.scope])
    (by decide) (by simp [hasLiteral]) (by simp [permitsU]) hw

theorem Laws.RoundTrip.cpyTgl (f : Bool) (dw sw : BitVec 3) (a : Reg) : Laws.RoundTrip.Statement (.cpyTgl f dw sw a) := by
  intro hw e h
  have h : .one (word (BitVec.ofBool f ++ 3#3) false false (dw ++ sw) (a) (0#6) 0x25#6 false) = e := Option.some.inj h
  subst h
  exact round_W (BitVec.ofBool f ++ 3#3) false false (dw ++ sw) (a) (0#6) 0x25#6 false _ (by rw [parse_25 rfl]; simp [parse25, Raw.bhi, Raw.bhib, Raw.blo, Raw.ord, Raw.scope])
    (by decide) (by simp [hasLiteral]) (by simp [permitsU]) hw

theorem Laws.RoundTrip.cpyTlg (f : Bool) (dw sw : BitVec 3) (a : Reg) : Laws.RoundTrip.Statement (.cpyTlg f dw sw a) := by
  intro hw e h
  have h : .one (word (BitVec.ofBool f ++ 4#3) false false (dw ++ sw) (a) (0#6) 0x25#6 false) = e := Option.some.inj h
  subst h
  exact round_W (BitVec.ofBool f ++ 4#3) false false (dw ++ sw) (a) (0#6) 0x25#6 false _ (by rw [parse_25 rfl]; simp [parse25, Raw.bhi, Raw.bhib, Raw.blo, Raw.ord, Raw.scope])
    (by decide) (by simp [hasLiteral]) (by simp [permitsU]) hw

theorem Laws.RoundTrip.cpyb (f : Bool) (d : Reg) : Laws.RoundTrip.Statement (.cpyb f d) := by
  intro hw e h
  have h : .one (word (BitVec.ofBool f ++ 5#3) false false (0#6) (0#6) (d) 0x25#6 false) = e := Option.some.inj h
  subst h
  exact round_W (BitVec.ofBool f ++ 5#3) false false (0#6) (0#6) (d) 0x25#6 false _ (by rw [parse_25 rfl]; simp [parse25, Raw.bhi, Raw.bhib, Raw.blo, Raw.ord, Raw.scope])
    (by decide) (by simp [hasLiteral]) (by simp [permitsU]) hw

theorem Laws.RoundTrip.cpyw (f : Bool) (a : Reg) : Laws.RoundTrip.Statement (.cpyw f a) := by
  intro hw e h
  have h : .one (word (BitVec.ofBool f ++ 6#3) false false (0#6) (a) (0#6) 0x25#6 false) = e := Option.some.inj h
  subst h
  exact round_W (BitVec.ofBool f ++ 6#3) false false (0#6) (a) (0#6) 0x25#6 false _ (by rw [parse_25 rfl]; simp [parse25, Raw.bhi, Raw.bhib, Raw.blo, Raw.ord, Raw.scope])
    (by decide) (by simp [hasLiteral]) (by simp [permitsU]) hw

theorem Laws.RoundTrip.bar (d : Reg) : Laws.RoundTrip.Statement (.bar d) := by
  intro hw e h
  have h : .one (word (0#4) false false (0#6) (0#6) (d) 0x26#6 false) = e := Option.some.inj h
  subst h
  exact round_W (0#4) false false (0#6) (0#6) (d) 0x26#6 false _ (by rw [parse_26 rfl]; simp [parse26, Raw.bhi, Raw.bhib, Raw.blo, Raw.ord, Raw.scope])
    (by decide) (by simp [hasLiteral]) (by simp [permitsU]) hw

theorem Laws.RoundTrip.gbara (d : Reg) : Laws.RoundTrip.Statement (.gbara d) := by
  intro hw e h
  have h : .one (word (1#4) false false (0#6) (0#6) (d) 0x26#6 false) = e := Option.some.inj h
  subst h
  exact round_W (1#4) false false (0#6) (0#6) (d) 0x26#6 false _ (by rw [parse_26 rfl]; simp [parse26, Raw.bhi, Raw.bhib, Raw.blo, Raw.ord, Raw.scope])
    (by decide) (by simp [hasLiteral]) (by simp [permitsU]) hw

theorem Laws.RoundTrip.gbarw (d : Reg) : Laws.RoundTrip.Statement (.gbarw d) := by
  intro hw e h
  have h : .one (word (2#4) false false (0#6) (0#6) (d) 0x26#6 false) = e := Option.some.inj h
  subst h
  exact round_W (2#4) false false (0#6) (0#6) (d) 0x26#6 false _ (by rw [parse_26 rfl]; simp [parse26, Raw.bhi, Raw.bhib, Raw.blo, Raw.ord, Raw.scope])
    (by decide) (by simp [hasLiteral]) (by simp [permitsU]) hw

theorem Laws.RoundTrip.sema (c : BitVec 2) (w : BitVec 3) (a d : Reg) : Laws.RoundTrip.Statement (.sema c w a d) := by
  intro hw e h
  have h : .one (word (3#4) false false (0#1 ++ c ++ w) (a) (d) 0x26#6 false) = e := Option.some.inj h
  subst h
  exact round_W (3#4) false false (0#1 ++ c ++ w) (a) (d) 0x26#6 false _ (by rw [parse_26 rfl]; simp [parse26, Raw.bhi, Raw.bhib, Raw.blo, Raw.ord, Raw.scope])
    (by decide) (by simp [hasLiteral]) (by simp [permitsU]) hw

theorem Laws.RoundTrip.semr (c : BitVec 2) (w : BitVec 3) (a d : Reg) : Laws.RoundTrip.Statement (.semr c w a d) := by
  intro hw e h
  have h : .one (word (4#4) false false (0#1 ++ c ++ w) (a) (d) 0x26#6 false) = e := Option.some.inj h
  subst h
  exact round_W (4#4) false false (0#1 ++ c ++ w) (a) (d) 0x26#6 false _ (by rw [parse_26 rfl]; simp [parse26, Raw.bhi, Raw.bhib, Raw.blo, Raw.ord, Raw.scope])
    (by decide) (by simp [hasLiteral]) (by simp [permitsU]) hw

theorem Laws.RoundTrip.signalAdd (w : BitVec 3) (a d : Reg) : Laws.RoundTrip.Statement (.signalAdd w a d) := by
  intro hw e h
  have h : .one (word (5#4) false false (0#3 ++ w) (a) (d) 0x26#6 false) = e := Option.some.inj h
  subst h
  exact round_W (5#4) false false (0#3 ++ w) (a) (d) 0x26#6 false _ (by rw [parse_26 rfl]; simp [parse26, Raw.bhi, Raw.bhib, Raw.blo, Raw.ord, Raw.scope])
    (by decide) (by simp [hasLiteral]) (by simp [permitsU]) hw

theorem Laws.RoundTrip.signalSet (w : BitVec 3) (a d : Reg) : Laws.RoundTrip.Statement (.signalSet w a d) := by
  intro hw e h
  have h : .one (word (5#4) false false (1#3 ++ w) (a) (d) 0x26#6 false) = e := Option.some.inj h
  subst h
  exact round_W (5#4) false false (1#3 ++ w) (a) (d) 0x26#6 false _ (by rw [parse_26 rfl]; simp [parse26, Raw.bhi, Raw.bhib, Raw.blo, Raw.ord, Raw.scope])
    (by decide) (by simp [hasLiteral]) (by simp [permitsU]) hw

theorem Laws.RoundTrip.emit (f : Bool) (w : BitVec 3) (a d : Reg) (ma : Bool) : Laws.RoundTrip.Statement (.emit f w a d ma) := by
  intro hw e h
  have h : .one (word (BitVec.ofBool f ++ 0#3) false ma (0#3 ++ w) (a) (d) 0x27#6 false) = e := Option.some.inj h
  subst h
  exact round_W (BitVec.ofBool f ++ 0#3) false ma (0#3 ++ w) (a) (d) 0x27#6 false _ (by rw [parse_27 rfl]; simp [parse27, Raw.bhi, Raw.bhib, Raw.blo, Raw.ord, Raw.scope])
    (by decide) (by simp [hasLiteral]) (by simp [permitsU]) hw

theorem Laws.RoundTrip.recv (f : Bool) (w : BitVec 3) (a d : Reg) : Laws.RoundTrip.Statement (.recv f w a d) := by
  intro hw e h
  have h : .one (word (BitVec.ofBool f ++ 1#3) false false (0#3 ++ w) (a) (d) 0x27#6 false) = e := Option.some.inj h
  subst h
  exact round_W (BitVec.ofBool f ++ 1#3) false false (0#3 ++ w) (a) (d) 0x27#6 false _ (by rw [parse_27 rfl]; simp [parse27, Raw.bhi, Raw.bhib, Raw.blo, Raw.ord, Raw.scope])
    (by decide) (by simp [hasLiteral]) (by simp [permitsU]) hw

theorem Laws.RoundTrip.close (f : Bool) (a : Reg) : Laws.RoundTrip.Statement (.close f a) := by
  intro hw e h
  have h : .one (word (BitVec.ofBool f ++ 2#3) false false (0#6) (a) (0#6) 0x27#6 false) = e := Option.some.inj h
  subst h
  exact round_W (BitVec.ofBool f ++ 2#3) false false (0#6) (a) (0#6) 0x27#6 false _ (by rw [parse_27 rfl]; simp [parse27, Raw.bhi, Raw.bhib, Raw.blo, Raw.ord, Raw.scope])
    (by decide) (by simp [hasLiteral]) (by simp [permitsU]) hw

theorem Laws.RoundTrip.mcst (f ma z : Bool) (b : BitVec 5) (a d : Reg) : Laws.RoundTrip.Statement (.mcst f ma z b a d) := by
  intro hw e h
  have h : .one (word (BitVec.ofBool f ++ 0#3) false ma (BitVec.ofBool z ++ b) (a) (d) 0x28#6 false) = e := Option.some.inj h
  subst h
  exact round_W (BitVec.ofBool f ++ 0#3) false ma (BitVec.ofBool z ++ b) (a) (d) 0x28#6 false _ (by rw [parse_28 rfl]; simp [parse28, Raw.bhi, Raw.bhib, Raw.blo, Raw.ord, Raw.scope])
    (by decide) (by simp [hasLiteral]) (by simp [permitsU]) hw

theorem Laws.RoundTrip.mldredBf16Ord (f ma q : Bool) (b : BitVec 5) (a d : Reg) : Laws.RoundTrip.Statement (.mldredBf16Ord f ma q b a d) := by
  intro hw e h
  have h : .one (word (BitVec.ofBool f ++ 1#3) false ma (BitVec.ofBool q ++ b) (a) (d) 0x28#6 false) = e := Option.some.inj h
  subst h
  exact round_W (BitVec.ofBool f ++ 1#3) false ma (BitVec.ofBool q ++ b) (a) (d) 0x28#6 false _ (by rw [parse_28 rfl]; simp [parse28, Raw.bhi, Raw.bhib, Raw.blo, Raw.ord, Raw.scope])
    (by decide) (by simp [hasLiteral]) (by simp [permitsU]) hw

theorem Laws.RoundTrip.mldredF32Ord (f ma q : Bool) (b : BitVec 5) (a d : Reg) : Laws.RoundTrip.Statement (.mldredF32Ord f ma q b a d) := by
  intro hw e h
  have h : .one (word (BitVec.ofBool f ++ 2#3) false ma (BitVec.ofBool q ++ b) (a) (d) 0x28#6 false) = e := Option.some.inj h
  subst h
  exact round_W (BitVec.ofBool f ++ 2#3) false ma (BitVec.ofBool q ++ b) (a) (d) 0x28#6 false _ (by rw [parse_28 rfl]; simp [parse28, Raw.bhi, Raw.bhib, Raw.blo, Raw.ord, Raw.scope])
    (by decide) (by simp [hasLiteral]) (by simp [permitsU]) hw

theorem Laws.RoundTrip.mldredBf16Any (f ma q : Bool) (b : BitVec 5) (a d : Reg) : Laws.RoundTrip.Statement (.mldredBf16Any f ma q b a d) := by
  intro hw e h
  have h : .one (word (BitVec.ofBool f ++ 3#3) false ma (BitVec.ofBool q ++ b) (a) (d) 0x28#6 false) = e := Option.some.inj h
  subst h
  exact round_W (BitVec.ofBool f ++ 3#3) false ma (BitVec.ofBool q ++ b) (a) (d) 0x28#6 false _ (by rw [parse_28 rfl]; simp [parse28, Raw.bhi, Raw.bhib, Raw.blo, Raw.ord, Raw.scope])
    (by decide) (by simp [hasLiteral]) (by simp [permitsU]) hw

theorem Laws.RoundTrip.mldredF32Any (f ma q : Bool) (b : BitVec 5) (a d : Reg) : Laws.RoundTrip.Statement (.mldredF32Any f ma q b a d) := by
  intro hw e h
  have h : .one (word (BitVec.ofBool f ++ 4#3) false ma (BitVec.ofBool q ++ b) (a) (d) 0x28#6 false) = e := Option.some.inj h
  subst h
  exact round_W (BitVec.ofBool f ++ 4#3) false ma (BitVec.ofBool q ++ b) (a) (d) 0x28#6 false _ (by rw [parse_28 rfl]; simp [parse28, Raw.bhi, Raw.bhib, Raw.blo, Raw.ord, Raw.scope])
    (by decide) (by simp [hasLiteral]) (by simp [permitsU]) hw

theorem Laws.RoundTrip.fmark (f : Bool) (a : Reg) : Laws.RoundTrip.Statement (.fmark f a) := by
  intro hw e h
  have h : .one (word (BitVec.ofBool f ++ 5#3) false false (0#6) (a) (0#6) 0x28#6 false) = e := Option.some.inj h
  subst h
  exact round_W (BitVec.ofBool f ++ 5#3) false false (0#6) (a) (0#6) 0x28#6 false _ (by rw [parse_28 rfl]; simp [parse28, Raw.bhi, Raw.bhib, Raw.blo, Raw.ord, Raw.scope])
    (by decide) (by simp [hasLiteral]) (by simp [permitsU]) hw

theorem Laws.RoundTrip.gang (a : Reg) : Laws.RoundTrip.Statement (.gang a) := by
  intro hw e h
  have h : .one (word (0#4) false false (0#6) (a) (0#6) 0x29#6 false) = e := Option.some.inj h
  subst h
  exact round_W (0#4) false false (0#6) (a) (0#6) 0x29#6 false _ (by rw [parse_29 rfl]; simp [parse29, Raw.bhi, Raw.bhib, Raw.blo, Raw.ord, Raw.scope])
    (by decide) (by simp [hasLiteral]) (by simp [permitsU]) hw

theorem Laws.RoundTrip.macq  : Laws.RoundTrip.Statement (.macq) := by
  intro hw e h
  have h : .one (word (1#4) false false (0#6) (0#6) (0#6) 0x29#6 false) = e := Option.some.inj h
  subst h
  exact round_W (1#4) false false (0#6) (0#6) (0#6) 0x29#6 false _ (by rw [parse_29 rfl]; simp [parse29, Raw.bhi, Raw.bhib, Raw.blo, Raw.ord, Raw.scope])
    (by decide) (by simp [hasLiteral]) (by simp [permitsU]) hw

theorem Laws.RoundTrip.mrel  : Laws.RoundTrip.Statement (.mrel) := by
  intro hw e h
  have h : .one (word (2#4) false false (0#6) (0#6) (0#6) 0x29#6 false) = e := Option.some.inj h
  subst h
  exact round_W (2#4) false false (0#6) (0#6) (0#6) 0x29#6 false _ (by rw [parse_29 rfl]; simp [parse29, Raw.bhi, Raw.bhib, Raw.blo, Raw.ord, Raw.scope])
    (by decide) (by simp [hasLiteral]) (by simp [permitsU]) hw

theorem Laws.RoundTrip.mma (ma : Bool) (b a : Reg) (t : BitVec 4) : Laws.RoundTrip.Statement (.mma ma b a t) := by
  intro hw e h
  have h : .one (word (3#4) false ma (b) (a) (0#2 ++ t) 0x29#6 false) = e := Option.some.inj h
  subst h
  exact round_W (3#4) false ma (b) (a) (0#2 ++ t) 0x29#6 false _ (by rw [parse_29 rfl]; simp [parse29, Raw.bhi, Raw.bhib, Raw.blo, Raw.ord, Raw.scope])
    (by decide) (by simp [hasLiteral]) (by simp [permitsU]) hw

theorem Laws.RoundTrip.gfill (w : BitVec 3) (a d : Reg) : Laws.RoundTrip.Statement (.gfill w a d) := by
  intro hw e h
  have h : .one (word (4#4) false false (0#3 ++ w) (a) (d) 0x29#6 false) = e := Option.some.inj h
  subst h
  exact round_W (4#4) false false (0#3 ++ w) (a) (d) 0x29#6 false _ (by rw [parse_29 rfl]; simp [parse29, Raw.bhi, Raw.bhib, Raw.blo, Raw.ord, Raw.scope])
    (by decide) (by simp [hasLiteral]) (by simp [permitsU]) hw

theorem Laws.RoundTrip.tzero (t : BitVec 4) : Laws.RoundTrip.Statement (.tzero t) := by
  intro hw e h
  have h : .one (word (5#4) false false (0#6) (0#6) (0#2 ++ t) 0x29#6 false) = e := Option.some.inj h
  subst h
  exact round_W (5#4) false false (0#6) (0#6) (0#2 ++ t) 0x29#6 false _ (by rw [parse_29 rfl]; simp [parse29, Raw.bhi, Raw.bhib, Raw.blo, Raw.ord, Raw.scope])
    (by decide) (by simp [hasLiteral]) (by simp [permitsU]) hw

theorem Laws.RoundTrip.tfree (t : BitVec 4) : Laws.RoundTrip.Statement (.tfree t) := by
  intro hw e h
  have h : .one (word (6#4) false false (0#6) (0#6) (0#2 ++ t) 0x29#6 false) = e := Option.some.inj h
  subst h
  exact round_W (6#4) false false (0#6) (0#6) (0#2 ++ t) 0x29#6 false _ (by rw [parse_29 rfl]; simp [parse29, Raw.bhi, Raw.bhib, Raw.blo, Raw.ord, Raw.scope])
    (by decide) (by simp [hasLiteral]) (by simp [permitsU]) hw

theorem Laws.RoundTrip.tfreeAll  : Laws.RoundTrip.Statement (.tfreeAll) := by
  intro hw e h
  have h : .one (word (6#4) false false (0#6) (0#6) (16#6) 0x29#6 false) = e := Option.some.inj h
  subst h
  exact round_W (6#4) false false (0#6) (0#6) (16#6) 0x29#6 false _ (by rw [parse_29 rfl]; simp [parse29, Raw.bhi, Raw.bhib, Raw.blo, Raw.ord, Raw.scope])
    (by decide) (by simp [hasLiteral]) (by simp [permitsU]) hw

theorem Laws.RoundTrip.tredAdd (src t : BitVec 4) : Laws.RoundTrip.Statement (.tredAdd src t) := by
  intro hw e h
  have h : .one (word (7#4) false false (0#6) (0#2 ++ src) (0#2 ++ t) 0x29#6 false) = e := Option.some.inj h
  subst h
  exact round_W (7#4) false false (0#6) (0#2 ++ src) (0#2 ++ t) 0x29#6 false _ (by rw [parse_29 rfl]; simp [parse29, Raw.bhi, Raw.bhib, Raw.blo, Raw.ord, Raw.scope])
    (by decide) (by simp [hasLiteral]) (by simp [permitsU]) hw

theorem Laws.RoundTrip.tredRow (src : BitVec 4) (d : Reg) : Laws.RoundTrip.Statement (.tredRow src d) := by
  intro hw e h
  have h : .one (word (7#4) false false (1#6) (0#2 ++ src) (d) 0x29#6 false) = e := Option.some.inj h
  subst h
  exact round_W (7#4) false false (1#6) (0#2 ++ src) (d) 0x29#6 false _ (by rw [parse_29 rfl]; simp [parse29, Raw.bhi, Raw.bhib, Raw.blo, Raw.ord, Raw.scope])
    (by decide) (by simp [hasLiteral]) (by simp [permitsU]) hw

theorem Laws.RoundTrip.tmovr (c : Reg) (n : BitVec 2) (t : BitVec 4) (d : Reg) : Laws.RoundTrip.Statement (.tmovr c n t d) := by
  intro hw e h
  have h : .one (word (0#4) false false (c) (n ++ t) (d) 0x2A#6 false) = e := Option.some.inj h
  subst h
  exact round_W (0#4) false false (c) (n ++ t) (d) 0x2A#6 false _ (by rw [parse_2A rfl]; simp [parse2A, Raw.bhi, Raw.bhib, Raw.blo, Raw.ord, Raw.scope])
    (by decide) (by simp [hasLiteral]) (by simp [permitsU]) hw

theorem Laws.RoundTrip.tmovw (c : Reg) (n : BitVec 2) (t : BitVec 4) (d : Reg) : Laws.RoundTrip.Statement (.tmovw c n t d) := by
  intro hw e h
  have h : .one (word (1#4) false false (c) (n ++ t) (d) 0x2A#6 false) = e := Option.some.inj h
  subst h
  exact round_W (1#4) false false (c) (n ++ t) (d) 0x2A#6 false _ (by rw [parse_2A rfl]; simp [parse2A, Raw.bhi, Raw.bhib, Raw.blo, Raw.ord, Raw.scope])
    (by decide) (by simp [hasLiteral]) (by simp [permitsU]) hw

theorem Laws.RoundTrip.tcvt (r fmt : BitVec 3) (q : BitVec 2) (t : BitVec 4) (d : Reg) : Laws.RoundTrip.Statement (.tcvt r fmt q t d) := by
  intro hw e h
  have h : .one (word (2#4) false false (r ++ fmt) (q ++ t) (d) 0x2A#6 false) = e := Option.some.inj h
  subst h
  exact round_W (2#4) false false (r ++ fmt) (q ++ t) (d) 0x2A#6 false _ (by rw [parse_2A rfl]; simp [parse2A, Raw.bhi, Raw.bhib, Raw.blo, Raw.ord, Raw.scope])
    (by decide) (by simp [hasLiteral]) (by simp [permitsU]) hw

theorem Laws.RoundTrip.spb (f : Bool) (n w : BitVec 3) (a d : Reg) : Laws.RoundTrip.Statement (.spb f n w a d) := by
  intro hw e h
  have h : .one (word (BitVec.ofBool f ++ 0#3) false false (n ++ w) (a) (d) 0x2B#6 false) = e := Option.some.inj h
  subst h
  exact round_W (BitVec.ofBool f ++ 0#3) false false (n ++ w) (a) (d) 0x2B#6 false _ (by rw [parse_2B rfl]; simp [parse2B, Raw.bhi, Raw.bhib, Raw.blo, Raw.ord, Raw.scope])
    (by decide) (by simp [hasLiteral]) (by simp [permitsU]) hw

theorem Laws.RoundTrip.fla (f : Bool) (n w : BitVec 3) (a d : Reg) : Laws.RoundTrip.Statement (.fla f n w a d) := by
  intro hw e h
  have h : .one (word (BitVec.ofBool f ++ 1#3) false false (n ++ w) (a) (d) 0x2B#6 false) = e := Option.some.inj h
  subst h
  exact round_W (BitVec.ofBool f ++ 1#3) false false (n ++ w) (a) (d) 0x2B#6 false _ (by rw [parse_2B rfl]; simp [parse2B, Raw.bhi, Raw.bhib, Raw.blo, Raw.ord, Raw.scope])
    (by decide) (by simp [hasLiteral]) (by simp [permitsU]) hw

theorem Laws.RoundTrip.vfree (ma : Bool) (c a : Reg) : Laws.RoundTrip.Statement (.vfree ma c a) := by
  intro hw e h
  have h : .one (word (2#4) false ma (c) (a) (0#6) 0x2B#6 false) = e := Option.some.inj h
  subst h
  exact round_W (2#4) false ma (c) (a) (0#6) 0x2B#6 false _ (by rw [parse_2B rfl]; simp [parse2B, Raw.bhi, Raw.bhib, Raw.blo, Raw.ord, Raw.scope])
    (by decide) (by simp [hasLiteral]) (by simp [permitsU]) hw

theorem Laws.RoundTrip.hint (m : BitVec 4) (mb ma : Bool) (b a d : Reg) (k : BitVec 2) (u : Bool) : Laws.RoundTrip.Statement (.hint m mb ma b a d k u) := by
  intro hw e h
  have h : .one (word m mb ma b a d (15#4 ++ k) u) = e := Option.some.inj h
  subst h
  exact round_hint m mb ma b a d k u

theorem Laws.RoundTrip.portRetrainRequest (port : Nat) : Laws.RoundTrip.Statement (.portRetrainRequest port) := by
  intro _ e h
  cases h

theorem Laws.RoundTrip.bridgeLinkDown (down : Bool) : Laws.RoundTrip.Statement (.bridgeLinkDown down) := by
  intro _ e h
  cases h

theorem Laws.RoundTrip.mainPowerRemoval  : Laws.RoundTrip.Statement (.mainPowerRemoval) := by
  intro _ e h
  cases h

theorem Laws.RoundTrip.reservedEncoding (c : IllCause) : Laws.RoundTrip.Statement (.reservedEncoding c) := by
  intro _ e h
  cases h

theorem Laws.RoundTrip.instructionFetchFault  : Laws.RoundTrip.Statement (.instructionFetchFault) := by
  intro _ e h
  cases h

end Sys2Proof
end

