-- ==== Sys2Proof/Laws/Still.lean ====
section
/-!
SUPPORT. A cohort with nothing in flight, and what tracing that is off and writing a scalar do.
-/
namespace Sys2Proof.Machine

theorem Still.settle {s : State} (h : Still s) : s.settle = s := settle_none s h.ops
theorem Still.matesBuffer {s : State} (h : Still s) : s.matesBuffer = [] := by
  unfold State.matesBuffer
  rw [List.flatMap_eq_nil_iff]
  intro p hp; rw [h.mates p hp]; rfl
theorem Still.drained {s : State} (h : Still s) (k : Nat) : s.drainedFor k = true := by
  unfold State.drainedFor
  rw [h.ops, h.matesBuffer]; simp
theorem Still.isAt {s : State} (h : Still s) : s.isAt s.co.dseq s.me.j = true := by
  obtain ⟨c, hc⟩ := h.resident
  unfold State.isAt
  rw [hc, h.here]
  simp

theorem State.trace_off (s : State) (r : TraceRec) (h : s.dev.trcOn = false) : s.trace r = s := by
  unfold State.trace; rw [h]; rfl
theorem State.traceSync_off (s : State) (k p : Nat) (a b : Nat × Nat) (q c : Nat) (h : s.dev.trcOn = false) :
    s.traceSync k p a b q c = { s with free := s.free + 1 } := by
  unfold State.traceSync
  dsimp only
  rw [State.trace_off _ _ h]
  exact State.trace_off _ _ h

theorem Cohort.sput_get (c : Cohort) (d r : Nat) (x : Word) : ((c.sput d x).sget r) = if r = d then x else c.sget r := Cohort.sget_sput c d r x

theorem Cohort.sput_rest (c : Cohort) (d : Nat) (x : Word) : c.sput d x = { c with s := (c.sput d x).s, sp := (c.sput d x).sp } := rfl

/-- Writing a scalar and retiring. -/
theorem Cohort.sput_retired (c : Cohort) (d : Nat) (x : Word) : ((c.sput d x).retire 4).pc = c.pc + BitVec.ofNat 56 4 ∧ ((c.sput d x).retire 4).icount = c.icount + 1 ∧
    ((c.sput d x).retire 4).sget d = x ∧ (∀ r, r ≠ d → ((c.sput d x).retire 4).sget r = c.sget r) ∧
    { ((c.sput d x).retire 4).quiet with s := c.s, sp := c.sp } = c.quiet := by
  refine ⟨rfl, rfl, ?_, ?_, rfl⟩
  · show (c.sput d x).sget d = x; rw [Cohort.sput_get, if_pos rfl]
  · intro r hr; show (c.sput d x).sget r = _; rw [Cohort.sput_get, if_neg hr]

end Sys2Proof.Machine
end

