-- ==== Sys2Proof/Tests/Slice0.lean ====
section
/-!
SUPPORT. Tests: words that the spec assembles and what they decode to, ill-formed terms that each check of WellFormed refuses, small steps, and
states that meet the hypotheses of the statements.
-/
set_option Elab.async false

namespace Sys2Proof.Tests
open Sys2Proof Sys2Proof.Machine

/-- What the decoder makes of 32-bit words laid out as the hardware stores them. -/
noncomputable def dec (ws : List Nat) : Except Reject (Instr × Nat) := decode (ws.flatMap (leBytes 4))

/-! ## Words that the spec assembles (R252, R312, R427, R432) -/

theorem test_decode_clause_header : dec [0x0000FF01] = .ok (.clauseHeader { p := false, wait := 0#12, b := 15#4, a := 15#4, y := false }, 4) := rfl
theorem test_decode_clause_header_p : dec [0x1000FF01] = .ok (.clauseHeader { p := true, wait := 0#12, b := 15#4, a := 15#4, y := false }, 4) := rfl
theorem test_decode_clause_header_wait : dec [0x0001FF01] = .ok (.clauseHeader { p := false, wait := 1#12, b := 15#4, a := 15#4, y := false }, 4) := rfl
theorem test_decode_clause_header_a0 : dec [0x0000F001] = .ok (.clauseHeader { p := false, wait := 0#12, b := 15#4, a := 0#4, y := false }, 4) := rfl
theorem test_decode_crrdv : dec [0x20000069] = .ok (.crrdv 0#6 0#12, 4) := rfl
theorem test_decode_crwr : dec [0x1006C969] = .ok (.crwr 9#6 0x1B#12, 4) := rfl
theorem test_decode_iadd : dec [0x83F00005, 0xFFFFFFF8] = .ok (.iadd { d := 0#6, a := 0#6, b := .lit 0xFFFFFFF8#32, ma := false, mb := false, u := false }, 8) := rfl
theorem test_decode_icmp : dec [0xA3F00115, 0] = .ok (.icmpLt { d := 1#6, a := 0#6, b := .lit 0#32, ma := false, mb := false, u := false }, 8) := rfl
theorem test_decode_ineg : dec [0x7000000D] = .ok (.ineg { d := 0#6, b := .v 0#6, mb := false, u := false }, 4) := rfl
theorem test_decode_emget : dec [0x00000A45] = .ok (.emget 10#6, 4) := rfl
theorem test_decode_emand : dec [0x20004045] = .ok (.emand 1#6, 4) := rfl
theorem test_decode_emset : dec [0x10028045] = .ok (.emset 10#6, 4) := rfl
theorem test_decode_brmz : dec [0x10000061, 0xC] = .ok (.brmz 0xC#32, 8) := rfl
theorem test_decode_brnz : dec [0x30010061, 0xFFFFFFE0] = .ok (.brnz 4#6 0xFFFFFFE0#32, 8) := rfl
theorem test_decode_exit : dec [0x00000065] = .ok (.exit, 4) := rfl
theorem test_decode_mov_literal : dec [0x83F0033D, 0x10000] = .ok (.mov { d := 3#6, b := .lit 0x10000#32, mb := false, u := false }, 8) := rfl
theorem test_decode_mov_scalar : dec [0x8030053D] = .ok (.mov { d := 5#6, b := .s 3#6, mb := false, u := false }, 4) := rfl
theorem test_decode_sadd : dec [0x83F08255, 1] = .ok (.sadd 2#6 2#6 (.lit 1#32), 8) := rfl
theorem test_decode_sshl : dec [0xE3F08355, 2] = .ok (.sshl 3#6 2#6 (.lit 2#32), 8) := rfl
theorem test_decode_sltu : dec [0xE3F0845D, 0x10] = .ok (.sltu 4#6 2#6 (.lit 0x10#32), 8) := rfl
theorem test_decode_smov : dec [0xF3F00259, 0] = .ok (.smov 2#6 (.lit 0#32), 8) := rfl
theorem test_decode_ld : dec [0x0300506D] =
    .ok (.ld { f := false, o := false, c := 0#2, ma := false, z := 6#3, w := 0#3, a := 1#6, d := 16#6, u := false }, 4) := rfl
theorem test_decode_st : dec [0x03009471] =
    .ok (.st { f := false, o := false, c := 0#2, ma := false, z := 6#3, w := 0#3, a := 2#6, d := 20#6, u := false }, 4) := rfl
theorem test_decode_st_word : dec [0x02014471] =
    .ok (.st { f := false, o := false, c := 0#2, ma := false, z := 4#3, w := 0#3, a := 5#6, d := 4#6, u := false }, 4) := rfl
theorem test_decode_atom : dec [0x3000C479] =
    .ok (.atomAdd { f := false, q := false, c := 3#2, ma := false, z := false, w := 0#2, a := 3#6, d := 4#6, u := false }, 4) := rfl
theorem test_decode_wset : dec [0x20000091] = .ok (.wsetG false 0#3 0#6, 4) := rfl
theorem test_decode_gang : dec [0x0000C0A5] = .ok (.gang 3#6, 4) := rfl
theorem test_decode_macq : dec [0x100000A5] = .ok (.macq, 4) := rfl
theorem test_decode_mrel : dec [0x200000A5] = .ok (.mrel, 4) := rfl
theorem test_decode_mma : dec [0x308404A5] = .ok (.mma false 8#6 16#6 4#4, 4) := rfl
theorem test_decode_gfill : dec [0x4011C6A5] = .ok (.gfill 1#3 7#6 6#6, 4) := rfl
theorem test_decode_tzero : dec [0x500000A5] = .ok (.tzero 0#4, 4) := rfl
theorem test_decode_tcvt : dec [0x220114A9] = .ok (.tcvt 4#3 0#3 0#2 4#4 20#6, 4) := rfl

/-- A word of a major opcode that no row of Table 8-5 has is refused as reserved (R217). -/
theorem test_decode_reserved : dec [0x000000C1] = .error (.ill .opc) := rfl
/-- No bytes are no instruction. -/
theorem test_decode_nothing : ∃ e, decode [] = .error e := ⟨_, rfl⟩

/-! ## Terms that the checks refuse (R162, R203 to R205, R217, R219) -/

/-- A two-source instruction on v0 to v2. -/
def plain2 : Lane2 := { d := 0#6, a := 1#6, b := .v 2#6, ma := false, mb := false, u := false }

theorem test_wf_iadd : WellFormed (.iadd plain2) := rfl
/-- R204: s63 is no b operand. -/
theorem test_ill_scalar63 : (Instr.iadd { plain2 with b := .s 63#6 }).ill = some .field := rfl
/-- R205: a last-read mark needs a vector. -/
theorem test_ill_mark : (Instr.iadd { plain2 with b := .lit 0#32, mb := true }).ill = some .mark := rfl
/-- R217: OPC is reported before FIELD. -/
theorem test_ill_order : (Instr.ld { f := false, o := false, c := 1#2, ma := false, z := 7#3, w := 0#3, a := 0#6, d := 63#6, u := false }).ill = some .opc := rfl
/-- R219: without an order bit the scope is 0. -/
theorem test_ill_scope : (Instr.ld { f := false, o := false, c := 1#2, ma := false, z := 4#3, w := 0#3, a := 0#6, d := 0#6, u := false }).ill = some .field := rfl
/-- R203: a group ends at 63 or below. -/
theorem test_ill_group : (Instr.ld { f := false, o := false, c := 0#2, ma := false, z := 6#3, w := 0#3, a := 0#6, d := 61#6, u := false }).ill = some .field := rfl
/-- R203: 60 begins the last group of four. -/
theorem test_wf_group : WellFormed (.ld { f := false, o := false, c := 0#2, ma := false, z := 6#3, w := 0#3, a := 0#6, d := 60#6, u := false }) := rfl
/-- R203: predicates are p0 to p31. -/
theorem test_ill_predicate : (Instr.pand 32#6 0#6 0#6).ill = some .field := rfl
/-- R203: s63 begins no pair. -/
theorem test_ill_pair : (Instr.emget 63#6).ill = some .field := rfl
/-- R162: modes 5 to 7 name no rounding. -/
theorem test_ill_round : (Instr.cvt 5#3 0#6 0#6 0#6 false false).ill = some .opc := rfl
/-- R209: flag fields 12 to 14 make a header #ILL HDR. -/
theorem test_ill_header : (Instr.clauseHeader { p := false, wait := 0#12, b := 15#4, a := 12#4, y := false }).ill = some .hdr := rfl




/-! ## Small states -/

/-- A register whose first two lanes hold two words. -/
def two (x y : Word) : VReg := VReg.build fun i => if i = 0 then x else if i = 1 then y else 0#32

/-- A running cohort of two lanes: v1 = (5, −1), v2 = (3, 3), s2 = 7, s3 = −1, p1 = lane 0, w0 its local store. -/
def me0 : Cohort :=
  { Cohort.null with
    n0 := 2, stat := .running, em := 3#64, active := true, pc := 0x1000#56, v := [(1, some (two 5 0xFFFFFFFF)), (2, some (two 3 3))]
    s := [(2, 7#32), (3, 0xFFFFFFFF#32)], p := [(1, 1#64)], win := [(0, { Window.empty with kind := 2, limit := 4096#32 })] }
/-- Its company, of a CLASS 1 launch on core 0, with 4 KiB of local store. -/
def co0 : Company := { Company.null with asid := 5, place := .core 0, created := [0], hdr := { LHdr.zero with cls := 1, lsgran := 1 } }
/-- Its context. -/
def cx0 : Context := { Context.null with asid := 5, alive := true, stat := .live }
/-- The device at reset with that cohort running. -/
def st0 : State := { State.reset with me := me0, co := co0, cx := cx0 }

/-- The state after an instruction, where it runs. -/
noncomputable def after (i : Instr) (s : State) : State :=
  match exec i s with
  | .next t => t
  | _ => s

/-- Two-source operands d, a, b without marks. -/
def ops (d a : Reg) (b : BOp) : Lane2 := { d := d, a := a, b := b, ma := false, mb := false, u := false }
/-- The words of lanes 0 and 1 of a register. -/
def pair (s : State) (r : Nat) : Word × Word := ((s.me.vget r).lane 0, (s.me.vget r).lane 1)

/-! ## One step each (expected values by hand from the rule named) -/

/-- R228: IADD wraps. -/
theorem test_iadd : pair (after (.iadd (ops 4 1 (.v 2))) st0) 4 = (8#32, 2#32) := rfl
/-- R205: the mark frees the source. -/
theorem test_iadd_mark : (after (.iadd { ops 4 1 (.v 2) with ma := true }) st0).me.allocated 1 = false := rfl
/-- R228: ISUB. -/
theorem test_isub : pair (after (.isub (ops 4 2 (.v 1))) st0) 4 = (0xFFFFFFFE#32, 4#32) := rfl
/-- R228: IADDS saturates at 2^31 − 1. -/
theorem test_iadds : pair (after (.iadds (ops 4 2 (.lit 0x7FFFFFFF))) st0) 4 = (0x7FFFFFFF#32, 0x7FFFFFFF#32) := rfl
/-- R228: a shift by 32 gives 0. -/
theorem test_shl : pair (after (.shl (ops 4 1 (.lit 32))) st0) 4 = (0#32, 0#32) := rfl
/-- R228: SAR by 32 or more fills with the sign. -/
theorem test_sar : pair (after (.sar (ops 4 1 (.lit 40))) st0) 4 = (0#32, 0xFFFFFFFF#32) := rfl
/-- R228: CLZ. -/
theorem test_clz : pair (after (.clz { d := 4, b := .v 1, mb := false, u := false }) st0) 4 = (29#32, 0#32) := rfl
/-- R208: under U = 1 every lane takes the lowest active lane's result. -/
theorem test_uniform : pair (after (.mov { d := 4, b := .v 1, mb := false, u := true }) st0) 4 = (5#32, 5#32) := rfl
/-- R228: the short form. -/
theorem test_iadd16 : pair (after (.iadd16 { d := 1, s := 2, u := false }) st0) 1 = (8#32, 2#32) := rfl
/-- R230: a signed and an unsigned compare of −1 with 3. -/
theorem test_icmpLt : (after (.icmpLt (ops 4 1 (.v 2))) st0).me.pget 4 = 2#64 := rfl
theorem test_icmpLtu : (after (.icmpLtu (ops 4 1 (.v 2))) st0).me.pget 4 = 0#64 := rfl
/-- R203: p0 reads all ones whatever is written. -/
theorem test_icmp_p0 : (after (.icmpLtu (ops 0 1 (.v 2))) st0).me.pget 0 = BitVec.allOnes 64 := rfl
/-- R231: SEL by p1 takes a in lane 0 and b in lane 1. -/
theorem test_sel : pair (after (.sel 1 (ops 4 1 (.v 2))) st0) 4 = (5#32, 3#32) := rfl
/-- R232: 1.5 + 2.25 = 3.75. -/
theorem test_fadd : fadd .fp32 0x3FC00000 0x40100000 = 0x40700000 := by decide
/-- R232: the smallest sum that rounds to even: 1 + 2^-24 = 1. -/
theorem test_fadd_even : fadd .fp32 0x3F800000 0x33800000 = 0x3F800000 := by decide
/-- R244: PANDN. -/
theorem test_pandn : (after (.pandn 4 0 1) st0).me.pget 4 = 0xFFFFFFFFFFFFFFFE#64 := rfl
/-- R245: EMAND and EMGET. -/
theorem test_emand : (after (.emand 1) st0).me.em = 1#64 := rfl
theorem test_emget : (after (.emget 4) st0).me.sget 4 = 3#32 := rfl
/-- R247: VFIRST of no bit is 64. -/
theorem test_vfirst : (after (.vfirst 4 5) st0).me.sget 4 = 64#32 := rfl
/-- R248: SHFLX by 1 swaps the lanes. -/
theorem test_shflx : pair (after (.shflx { d := 4, a := 1, b := .lit 1, ma := false, mb := false }) st0) 4 = (0xFFFFFFFF#32, 5#32) := rfl
/-- R249: LRADD sums the active lanes. -/
theorem test_lradd : (after (.lradd 4 1 false) st0).me.sget 4 = 4#32 := rfl
/-- R242: SADD wraps, SADD64 carries into the high word, and SLTU compares without sign. -/
theorem test_sadd : (after (.sadd 4 3 (.lit 2)) st0).me.sget 4 = 1#32 := rfl
theorem test_sadd64 : (after (.sadd64 4 3 (.lit 1)) { st0 with me := { me0 with s := [(3, 0xFFFFFFFF#32), (4, 7#32)] } }).me.sget 5 = 8#32 := rfl
theorem test_sltu : (after (.sltu 4 2 (.s 3)) st0).me.sget 4 = 1#32 := rfl
/-- R250: a branch not taken passes its literal. -/
theorem test_brz : (after (.brz 2 0x40) st0).me.pc = 0x1008#56 := rfl
/-- R375: TRAP stops the cohort at its pc with its code. -/
theorem test_trap : (after (.trap 9) st0).me.stat = .trapped ∧ (after (.trap 9) st0).me.crget 0x50 = 0x020A0000#32 := ⟨rfl, rfl⟩
/-- R316: cr.n0 and cr.lseq. -/
theorem test_crrd : (after (.crrd 4 3) st0).me.sget 4 = 2#32 := rfl
/-- R318: CNTRD in a CLASS 0 launch is #ILL CLASS. -/
theorem test_cntrd : (after (.cntrd 4 0) { st0 with co := { co0 with hdr := LHdr.zero } }).me.crget 0x50 = 0x02010008#32 := rfl
/-- R271: WSET.L gives what remains of the allocation. -/
theorem test_wsetL : ((after (.wsetL false 3 2) st0).me.window 3).limit = 4089#32 := rfl
/-- R259, R60: a store of v1 at offsets 0 of both lanes has one lane each, with the low byte first. -/
theorem test_st : ((after (.st { f := false, o := false, c := 0, ma := false, z := 4, w := 0, a := 3, d := 1, u := false }) st0).me.ops.flatMap
    fun o => o.lanes.map (·.data)) = [[5, 0, 0, 0], [0xFF, 0xFF, 0xFF, 0xFF]] := rfl
/-- R251: EXIT ends the cohort. -/
theorem test_exit : (after .exit st0).me.stat = .ended := rfl
/-- R294: TZERO allocates the tile. -/
theorem test_tzero : Store.get none (after (.tzero 2) st0).co.tiles 2 = some Tile.zero := rfl
/-- R173, Table 6-6: the generator for the key and the counter zero. -/
theorem test_srg : srg { x0 := 0, x1 := 0, x2 := 0, x3 := 0 } { x0 := 0, x1 := 0, x2 := 0, x3 := 0 } =
    { x0 := 0xFAC0EAF5#32, x1 := 0xF3C8590C#32, x2 := 0xFAF89BE3#32, x3 := 0x93B19EF0#32 } := rfl
/-- The worked example behind R173: 1 + 2^-7 + 2^-9 to BF16 with .SR rounds up. -/
theorem test_cvt_sr : Machine.round .bf16 .sr false (srcQuantum .fp32 (V32 0x3F814000#32)) 0xFAC0EAF5#32 (V32 0x3F814000#32) = 0x3F82 := by decide
/-- R58: reset memory is in its canonical form. -/
theorem test_reset_wf : Memory.wf State.reset.dev.mem := rfl
/-- Reset has nothing to run. -/
theorem test_step_reset : State.reset.dev.boot.powered = true ∧ State.reset.turns = [] := ⟨rfl, rfl⟩

/-! ## States that meet the hypotheses of the statements -/

/-- LaneReady with a mark, with a scalar under U = 1, and with no active lane: the lane statements of R228 to R241. -/
theorem witness_LaneReady : LaneReady st0 false [1, 2] [] [1] 4 ∧ LaneReady st0 true [1] [2] [] 63 ∧
    LaneReady { st0 with me := { me0 with em := 0#64 } } false [1, 2] [] [] 0 :=
  ⟨⟨rfl, .inr (.inr rfl)⟩, ⟨rfl, .inr (.inr rfl)⟩, ⟨rfl, .inl rfl⟩⟩
/-- ShortForms: NOP.16, and a move between two registers. -/
theorem witness_ShortForms : ({ d := 1, s := 1, u := false } : Op16).d = ({ d := 1, s := 1, u := false } : Op16).s ∧
    LaneReady st0 false [2] [] [] 1 ∧ LaneReady st0 false [1, 2] [] [] 1 := ⟨rfl, ⟨rfl, .inr (.inl rfl)⟩, ⟨rfl, .inr (.inl rfl)⟩⟩
/-- Compares, Shuffles and LaneReductions: no active lane consumes poison. -/
theorem witness_Compares : st0.me.mce false [1, 2] [] = 0#64 := rfl
theorem witness_Shuffles : st0.me.mce false [2] [] = 0#64 ∧ (∀ i, i < 64 → st0.me.act.getLsbD i = true → st0.me.present.getLsbD (i ^^^ 1) = true →
    (st0.me.vget 1).poison.getLsbD (i ^^^ 1) = false) ∧ (st0.setMe (st0.me.freeAll [1])).canAlloc 1 = true :=
  ⟨rfl, fun _ _ _ _ => BitVec.getLsbD_zero, rfl⟩
theorem witness_LaneReductions : st0.me.mce false [1] [] = 0#64 := rfl
/-- Conversions: every rounding mode, codes at the ends of each group, and a context that is not recorded. -/
theorem witness_Conversions : (4#3).toNat ≤ 4 ∧ (0x38#6 : BitVec 6).toNat = 0x38 + 0 ∧ (0x3F#6 : BitVec 6).toNat = 0x38 + 7 ∧ SrPlain st0 ∧
    LaneReady st0 false [1] [] [1] 1 := ⟨by decide, rfl, rfl, ⟨rfl, rfl, rfl, rfl⟩, ⟨rfl, .inr (.inr rfl)⟩⟩
/-- SrChecked: the filter lists the TID with the launch's sequence, with another, or not. -/
theorem witness_SrChecked : st0.cx.filter.find? (fun e => e.1 == st0.me.crget 0x16) = none ∧
    ({ cx0 with filter := [(0#32, 0#32)] } : Context).filter.find? (fun e => e.1 == st0.me.crget 0x16) = some (st0.me.crget 0x16, st0.co.lseq) ∧
    ({ cx0 with filter := [(0#32, 9#32)] } : Context).filter.find? (fun e => e.1 == st0.me.crget 0x16) = some (st0.me.crget 0x16, 9#32) := ⟨rfl, rfl, rfl⟩
/-- ExecutionMask and ScalarAlu: scalars without poison. -/
theorem witness_ScalarAlu : (∀ r ∈ [3, 4], st0.me.spoison r = false) ∧ st0.me.spoison 63 = false := ⟨by decide, rfl⟩

/-- The same cohort with a clause header at its pc. -/
def stH : State := placeWord st0 32 0x0000FF01
/-- The same with EXIT at its pc, which is no header. -/
def stX : State := placeWord st0 32 0x65

/-- Branches: a taken branch to the header at the pc, and conditions that hold and do not. -/
theorem witness_Branches : (∃ u, Lands stH (stH.me.pc.toNat + (0#32).toInt) u) ∧ stH.me.em ≠ 0#64 ∧ stH.me.sget 4 = 0#32 ∧ stH.me.sget 2 ≠ 0#32 ∧
    stH.me.pget 1 &&& stH.me.em ≠ 0#64 ∧ stH.me.pget 4 &&& stH.me.em = 0#64 :=
  ⟨⟨(stH.fetchWord false 0x1000).1, ⟨by decide, by decide, by decide, .inr (by decide), 0x0000FF01#32, rfl, rfl, rfl⟩⟩, by decide, rfl, by decide, by decide, rfl⟩
/-- TransferStops: an odd target, a page that is not mapped, and a word that is no header. -/
theorem witness_TransferStops : st0.recording = false ∧ ((st0.me.pc.toNat : Int) + (1#32).toInt) % 2 = 1 ∧
    (∃ u, st0.fetchWord st0.me.priv 0x1000 = (u, none)) ∧ ∃ u w, stX.fetchWord stX.me.priv 0x1000 = (u, some w) ∧ w.extractLsb' 2 6 ≠ 0#6 :=
  ⟨rfl, rfl, ⟨(st0.fetchWord false 0x1000).1, rfl⟩, (stX.fetchWord false 0x1000).1, 0x65#32, rfl, by decide⟩
/-- Clauses: a header whose flag 0 is zero, and one whose flag 11 is not. -/
theorem witness_Clauses : Store.get 0 st0.me.f 0 = 0 ∧ Store.get 0 ({ me0 with f := [(11, 1)] } : Cohort).f 11 ≠ 0 ∧ st0.me.stopDue ≠ 1 :=
  ⟨rfl, by decide, by decide⟩
/-- QueueLevelTraps: user and supervisor privilege, in and out of the handler. -/
theorem witness_QueueLevelTraps : st0.recording = false ∧ st0.me.priv = false ∧ ({ me0 with priv := true } : Cohort).handler = false ∧
    ({ me0 with priv := true, handler := true } : Cohort).handler = true := ⟨rfl, rfl, rfl, rfl⟩

/-- A device whose supervisor handler, at the first supervisor page, is a clause header. -/
def devS : Device :=
  { stH.dev with ctrl := [(0x6018, 2 ^ 55)], tlb := [{ codePage 5 0x1000#56 with va := 2 ^ 55, global := true }], mem := Store.setRun 0#8 [] codeFrame (leBytes 4 0x0000FF01) }
def stS : State := { stH with dev := devS }
/-- The entry of a SYS that waits. -/
def entry0 : Entry14 := { cls := 1, code := 11, sub := 0, mask := 3#64, imm := 7, pc := 0x1000#56, keepEm := true, frame := none }
/-- SupervisorEntry: with nothing outstanding, with a flag raised, and an entry that waited. -/
theorem witness_SupervisorEntry : stS.recording = false ∧ stS.me.priv = false ∧ (∃ u, HandlerAt stS u) ∧ stS.me.drained = true ∧
    ({ stS.me with f := [(0, 1)] } : Cohort).drained = false ∧
    State.isAt { stS with me := { stS.me with stat := .entering entry0 } } 0 0 = true ∧ stS.me.ops = [] ∧ stS.me.f = [] ∧ entry0.frame = none :=
  ⟨rfl, rfl, ⟨_, ⟨rfl, 0x0000FF01#32, rfl, rfl, rfl⟩⟩, rfl, rfl, rfl, rfl, rfl, rfl⟩
/-- A cohort in the handler after a SYS, after a page fault, and after an arithmetic trap. -/
def meR (cause : Word) : Cohort := { me0 with priv := true, handler := true, cr := [(0x50, cause)] }
theorem witness_SupervisorReturn : (meR 0x010B0000#32).f = [] ∧ ((meR 0x010B0000#32).crget 0x50).toNat / 2 ^ 24 = 1 ∧
    ((meR 0x010B0000#32).crget 0x50).toNat / 2 ^ 16 % 2 ^ 8 = 11 ∧ ((meR 0x01040000#32).crget 0x50).toNat / 2 ^ 16 % 2 ^ 8 = 4 ∧
    ((meR 0x03090000#32).crget 0x50).toNat / 2 ^ 24 = 3 ∧ ((meR 0#32).crget 0x32).toNat ≤ 2 := ⟨rfl, rfl, rfl, rfl, rfl, by decide⟩
/-- Halts: breakpoints off and on, and supervisor privilege. -/
theorem witness_Halts : st0.co.asid = st0.cx.asid ∧ st0.me.stat = .running ∧ st0.cx.tctl.getLsbD 0 = false ∧
    ({ cx0 with tctl := 1#32 } : Context).tctl.getLsbD 0 = true ∧ ({ me0 with priv := true } : Cohort).priv = true := ⟨rfl, rfl, rfl, rfl, rfl⟩
theorem witness_CohortEnd : st0.me.handler = false ∧ st0.me.gang = 0#32 ∧ st0.co.barArrived = [] ∧ ∀ l ∈ st0.cx.launches, l.garrived = [] :=
  ⟨rfl, rfl, rfl, fun _ h => nomatch h⟩
/-- ControlRegisterReads and ControlRegisterWrites: an index that is not S at user privilege, an S register at both, and the empty destination. -/
theorem witness_ControlRegisters : ¬ SReg (0x33#12).toNat ∧ SReg (0x5F#12).toNat ∧ SReg (0x30#12).toNat ∧ st0.me.priv = false ∧ LaneReady st0 false [] [] [] 4 ∧
    st0.me.spoison 2 = false ∧ ({ me0 with sp := 4#64 } : Cohort).spoison 2 = true :=
  ⟨by unfold SReg; decide, by unfold SReg; decide, by unfold SReg; decide, rfl, ⟨rfl, .inr (.inr rfl)⟩, rfl, rfl⟩
/-- KeysCountersAndClocks: four scalars without poison up to s63, and launches of CLASS 1 and 0. -/
theorem witness_Keys : (∀ r, r < 4 → st0.me.spoison (60 + r) = false) ∧ st0.recording = false ∧ st0.co.hdr.cls ≠ 0 ∧
    ({ co0 with hdr := LHdr.zero } : Company).hdr.cls = 0 := ⟨by decide, rfl, by decide, rfl⟩

/-- Window 1 of the cohort on 64 KiB of HBM4 from 1 MiB. -/
def meG : Cohort := { me0 with win := me0.win ++ [(1, { kind := 1, base := 0x20000#56, pa := 0x100000#58, limit := 0x10000#32, rp := true, wp := true, dt := true, asid := 5#12, gen := 0#64 })] }
def stG : State := { st0 with me := meG }
/-- A request whose accesses go through window `w` at the offsets that v3, which reads 0, gives. -/
def ask0 (w : Nat) (acc : Acc) (r : Reach) (n : Nat) (k : OpKind) : MemJob := { asks w acc n false k with reach := r, vs := [3], offs := stG.me.offsets false 3, dst := [4] }

/-- Whether an outcome reaches a target. -/
def reaches (o : LOut) : Bool :=
  match o with
  | .at _ => true
  | _ => false
theorem reaches_at {o : LOut} (h : reaches o = true) : ∃ l, o = .at l := by
  cases o <;> first | exact ⟨_, rfl⟩ | exact absurd h (by simp [reaches])
theorem accesses_of {s : State} {j : MemJob}
    (h : (s.checkLanes j.win j.acc j.reach (j.offs.map fun x => (x.1, x.2, j.len))).2.all (fun c => reaches c.out && c.addr % j.align == 0) = true) :
    ∃ u cs, Accesses s j u cs := by
  rw [List.all_eq_true] at h
  refine ⟨_, _, rfl, fun c hc => ?_, fun c hc => ?_⟩ <;> have := h c hc <;> rw [Bool.and_eq_true] at this
  · exact reaches_at this.1
  · exact of_decide_eq_true this.2

/-- LoadsAndStores and AtomicsAndReductions: a load from the local store, a store and an atomic to HBM4, and an access with no active lane. -/
theorem witness_Accesses_load : ∃ u cs, Accesses stG (ask0 0 .load .plain 16 (.load 6#3)) u cs := accesses_of (by decide +kernel)
theorem witness_Accesses_store : ∃ u cs, Accesses stG (ask0 1 .store .plain 4 .store) u cs := accesses_of (by decide +kernel)
theorem witness_Accesses_atomic : ∃ u cs, Accesses stG (ask0 1 .atomic (.rmw true) 8 (.rmw (.int 0 8) true)) u cs := accesses_of (by decide +kernel)
/-- Window 1 on the atrium store, of which one unit is carved. -/
def stA : State :=
  { stG with dev := { stG.dev with ctrl := [(0x1000, 1)] }
             me := { meG with win := [(1, { kind := 1, base := 0x20000#56, pa := 0x020000000000#58, limit := 0x10000#32, rp := true, wp := true, dt := true, asid := 5#12, gen := 0#64 })] } }
theorem witness_Accesses_cell : ∃ u cs, Accesses stA (ask0 1 .atomic .cell 64 (.rmw .cellz false)) u cs := accesses_of (by decide +kernel)
theorem witness_Room : Room stG [3] [4, 5] ∧ stG.me.mce false [3] [] = 0#64 ∧ stG.recording = false ∧ stG.me.act ≠ 0#64 ∧
    ({ meG with em := 0#64 } : Cohort).act = 0#64 := ⟨rfl, rfl, rfl, by decide, rfl⟩
/-- ST.B0: zero bytes at the local store. -/
theorem witness_StB0 : ∃ u cs, stG.checkLanes 0 .empty .plain ((stG.me.offsets false 3).map fun x => (x.1, x.2, 0)) = (u, cs) ∧ ∀ c ∈ cs, c.out ≠ .wait :=
  ⟨_, _, rfl, by decide +kernel⟩

/-- A lane at 1 MiB, and an operation of it alone on its core. -/
def lane0 : LaneOp := { lane := 0, loc := .mem 0x100000, addr := 0x20000, len := 4, data := [1, 2, 3, 4], poisoned := 0#64, sent := false, result := none }
def op0 (k : OpKind) : MemOp :=
  { id := 0, kind := k, scope := 0, acq := false, rel := false, lanes := [lane0], d := 4, u := false, em := 1#64, flag := none, stage := .issued, passed := false, recs := [] }
def stO (k : OpKind) : State := { st0 with me := { me0 with ops := [op0 k] } }
/-- LoadReturns, StoresPerform and BankOperations: an operation alone in flight, its lanes on one line. -/
theorem witness_Alone (k : OpKind) (h : k ≠ .fence) : Alone (stO k) (op0 k) :=
  have r : st0.recording = false := rfl
  ⟨rfl, rfl, ⟨0, rfl⟩, h, rfl, (fun _ hp => nomatch hp), ⟨rfl, rfl⟩, r, rfl⟩
theorem witness_OneLine (k : OpKind) : OneLine (op0 k) 0x4000 :=
  ⟨List.cons_ne_nil _ _, List.nodup_singleton _, fun l hl => by rw [List.mem_singleton.1 hl]; exact ⟨0x100000, rfl, rfl, by decide⟩,
    fun l hl => by rw [List.mem_singleton.1 hl]; rfl⟩
theorem witness_LoadReturns : (∀ x ∈ (op0 (.load 4#3)).lanes, x.lane < 64 ∧ x.len = sizeBytes 4#3) ∧ (stO (.load 4#3)).dev.badMask (0x4000 * 64) 64 = 0#64 :=
  ⟨by decide, rfl⟩
theorem witness_StoresPerform : 0x4000 * 64 < 0x020000000000 ∧ ({ op0 .store with stage := .buffered 0 } : MemOp).stage = .buffered 0 := ⟨by decide, rfl⟩
theorem witness_BankOperations : lane0.loc = .mem 0x100000 ∧ 0x100000 % 8 = 0 ∧ lane0.data.length = 4 ∧ (7 : Nat) < 10 := ⟨rfl, rfl, rfl, by decide⟩

def noLeaf (x : WalkEnd) : Bool :=
  match x with
  | .leaf _ _ _ => false
  | _ => true
/-- Windows: a base of 2^56 and above, a page that no TLB entry and no table maps, and one that an entry maps. -/
theorem witness_Windows : 2 ^ 56 ≤ (({ me0 with s := [(2, 0#32), (3, 0x01000000#32)] } : Cohort).sget64 2).toNat ∧
    tlbFind st0.dev 5 0x20000 .load = none ∧ (∀ a r l, walk st0.dev 5 0x20000 = .leaf a r l → False) ∧
    (tlbFind { st0.dev with tlb := [{ codePage 5 0#56 with r := true }] } 5 0x8000 .load).isSome = true ∧ st0.me.spoison 2 = false :=
  ⟨by decide +kernel, by decide +kernel, (fun a r l (h : walk st0.dev 5 0x20000 = .leaf a r l) => by
    have e : noLeaf (walk st0.dev 5 0x20000) = true := by decide +kernel
    rw [h] at e; cases e), by decide +kernel, rfl⟩
theorem parts_of {s : State} {w : Nat} {acc : Acc} {o : Nat} {ps : List (Nat × Nat)}
    (h : (s.checkParts w acc o ps).2.all (fun c => reaches c.1.out) = true) :
    ∃ u cs, s.checkParts w acc o ps = (u, cs) ∧ ∀ c ∈ cs, ∃ l, c.1.out = .at l :=
  ⟨_, _, rfl, fun c hc => reaches_at (List.all_eq_true.1 h c hc)⟩
/-- WholeRegisters: a run of one register in the local store, which may be checked as a store and as a load. -/
theorem witness_WholeRegisters : (∃ u cs, st0.checkParts 0 .store 0 [(0, 256)] = (u, cs) ∧ ∀ c ∈ cs, ∃ l, c.1.out = .at l) ∧
    (∃ u cs, st0.checkParts 0 .load 0 [(0, 256)] = (u, cs) ∧ ∀ c ∈ cs, ∃ l, c.1.out = .at l) ∧ (st0.me.window 0).kind = 2 :=
  ⟨parts_of (by decide +kernel),
   parts_of (by decide +kernel), rfl⟩

/-- Copies: nothing outstanding; a batch that is complete and one that is not. -/
theorem witness_CopyBatches : st0.openBatches.length < 64 ∧ st0.openBatches = [] ∧ (0x8000 ≤ (2 ^ 16 - 1 : Nat)) := by decide +kernel
/-- Barriers, Semaphores, Emits and GraphNodes: nothing in flight. -/
theorem witness_Still : Still st0 := ⟨rfl, rfl, ⟨0, rfl⟩, (fun _ hp => nomatch hp), ⟨rfl, rfl⟩, rfl, rfl⟩
/-- A launch of one persistent company. -/
def launch0 : Launch :=
  { lseq := 0#32, qid := 0, csn := 1, hdr := { LHdr.zero with persist := true }, lhdr := 0#64, karg := 0#64, cova := 0#64, pdist := 0, pnode := none
    finished := false, node := none, made := 1, retired := 0, total := 1, first := 0, gphase := 2, garrived := [], gepi := [], failed := false }
def stL : State := { st0 with cx := { cx0 with launches := [launch0] }, co := { co0 with hdr := { LHdr.zero with persist := true } } }
theorem witness_Barriers : Still stL ∧ stL.co.hdr.persist = true ∧ stL.launch? = some launch0 ∧ ({ me0 with gcount := 2 } : Cohort).gcount = launch0.gphase ∧
    launch0.gphase < ({ me0 with gcount := 3 } : Cohort).gcount ∧ st0.me.j ∉ st0.co.barArrived ∧ st0.co.hdr.persist = false :=
  ⟨⟨rfl, rfl, ⟨0, rfl⟩, (fun _ hp => nomatch hp), ⟨rfl, rfl⟩, rfl, rfl⟩, rfl, rfl, rfl, by decide, by decide, rfl⟩
/-- Semaphores: a word of HBM4 through window 1, and a waiting SEMA. -/
theorem witness_Semaphores : (stG.checkLanes 1 .atomic (.rmw false) [(0, 0, 4)]).2 = [{ lane := 0, addr := 0x20000, out := .at (.mem 0x100000) }] ∧
    (stG.checkLanes 1 .atomic (.rmw false) [(0, 0, 4)]).1.dev.badMask (0x100000 / 64 * 64) 64 = 0#64 ∧
    Still { st0 with me := { me0 with sema := some { loc := .mem 0x100000, scope := 0, d := 4 }, wait := .sema, active := false } } :=
  ⟨by decide +kernel, by decide +kernel, ⟨rfl, rfl, ⟨0, rfl⟩, (fun _ hp => nomatch hp), ⟨rfl, rfl⟩, rfl, rfl⟩⟩
/-- FabricInstructions: feature negotiation done with FEAT.MCAST on, and a valid group. -/
theorem witness_FMark : st0.me.spoison 4 = false := rfl
/-- Gangs: a gang of the cohort itself, a malformed one, and an engine that is free, owned and waited for. -/
def gang0 : Word := 1#32 -- member 0 alone
theorem witness_Gangs : st0.recording = false ∧ gang0.toNat % 8 = 1 ∧ gang0.toNat / 2 ^ 8 % 16 ∈ st0.co.created ∧ gang0.toNat / 2 ^ 12 = 0 ∧ (7#32).toNat % 8 = 7 ∧
    st0.co.place = .core st0.core ∧ st0.me.stat = .running ∧ (∀ h ∈ st0.dev.companies, h.dseq ≠ st0.co.dseq) ∧
    st0.dev.engines.find? (fun e => e.core == st0.core) = none := ⟨rfl, rfl, by decide, rfl, rfl, rfl, rfl, (fun _ h => nomatch h), rfl⟩
/-- TileInstructions: em is the present mask, a tile can be allocated and the destination has room. -/
theorem witness_Tiles : st0.me.em = st0.me.present ∧ st0.canTile 15 = true ∧ Room st0 [] (groupNames 56 8) ∧ SrPlain st0 ∧
    ({ me0 with em := 1#64 } : Cohort).em ≠ ({ me0 with em := 1#64 } : Cohort).present := ⟨rfl, rfl, rfl, ⟨rfl, rfl, rfl, rfl⟩, by decide⟩

/-! ## The device without a current cohort -/

/-- The context current, no company of it. -/
def stB : State := { State.reset with cx := cx0 }
/-- Its company waits in the queue of hall 0 with one cohort. -/
def stW : State := { stB with co := { co0 with place := .queued 0, cohorts := [{ me0 with active := false }] } }
/-- Its company stands on core 0. -/
def stC : State := { stB with co := { co0 with cohorts := [{ me0 with stat := .stopped 1, stopDue := 0 }] } }
theorem witness_Bare : Bare stB ∧ stB.cx.asid = 5 ∧ (∀ c ∈ stB.dev.contexts, c.asid ≠ 5) ∧ stB.cx.stat = .live ∧ stB.cx.reports = [] ∧ stB.dev.queues = [] :=
  ⟨⟨rfl, rfl, rfl⟩, rfl, (fun _ h => nomatch h), rfl, rfl, rfl⟩
theorem witness_Standing : Standing stW ∧ Standing stC ∧ stC.co.place = .core 0 ∧ stC.recording = false ∧ stC.co.fired = [] :=
  ⟨⟨rfl, by decide⟩, ⟨rfl, by decide⟩, rfl, rfl, rfl⟩

/-- Scheduling: the waiting company is the oldest allowed one and fits best on core 0; a launch whose next company is due; a pending cohort; an idle core. -/
theorem witness_Scheduling : stW.replaying = false ∧ stW.co.restored = false ∧ stW.co.slots = [] ∧ stW.bestCore stW.co 0 = some 0 ∧
    (stW.allowed 0).map (·.dseq) = [0] ∧ stW.stealFrom = 0 ∧ (stW.ready 0).map (·.dseq) = [0] ∧ stW.queueOf 1 = [] ∧ stB.queueOf 0 = [] ∧
    (st0.activeOn 0).length < 8 ∧ (∀ h ∈ st0.on 0, ∀ c ∈ h.cohorts, c.requests = false) ∧ stC.stillCompany = true ∧ stC.cxLive 5 = true :=
  ⟨rfl, rfl, rfl, by decide +kernel, by decide +kernel, by decide +kernel, by decide +kernel, by decide +kernel, by decide +kernel, by decide +kernel, by decide +kernel, rfl,
    by decide +kernel⟩
/-- A launch of the context that the dispatcher holds. -/
def stD : State := { stB with cx := { cx0 with launches := [{ launch0 with hdr := LHdr.zero, made := 0 }] }, dev := { stB.dev with dispatch := [(5, 0#32)] } }
theorem witness_Scheduling_dispatch : Bare stD ∧ (stD.dev.dispatch.find? fun x => stD.cxLive x.1) = some (5, 0#32) ∧
    (stD.cx.launches.find? fun x => x.lseq == 0#32) = some { launch0 with hdr := LHdr.zero, made := 0 } := ⟨⟨rfl, rfl, rfl⟩, by decide +kernel, rfl⟩

/-- StopsAndSaves: a stop that is due at a boundary, one at a wait, a failure to be raised, and a request that covers GO. -/
def goReg (b k : Nat) : RegWrite := { agent := .driver, off := b, len := 8, val := 2 ^ k }
theorem witness_StopsAndSaves : (goReg 0x6000 16).ok = true ∧ (goReg 0x6000 16).base = 0x6000 ∧ (goReg 0x6008 16).base = 0x6008 ∧ Covers (goReg 0x6000 16) 16 ∧
    ({ me0 with stopDue := 2 } : Cohort).stopCode = some 1 ∧ ({ me0 with stopDue := 2, wait := .bar } : Cohort).stopCode = some 2 ∧ me0.stopCode = none ∧
    ({ me0 with fab := [(3, false)] } : Cohort).atBoundary = true ∧ st0.isAt 0 0 = true ∧ st0.me.fab = [] ∧ st0.co.late = false :=
  ⟨rfl, rfl, rfl, by decide, rfl, rfl, rfl, rfl, rfl, rfl, rfl⟩

/-- PowerAndBoot: a legal write that covers GO of each register, and a boot that waits at step 0. -/
theorem witness_PowerAndBoot : (goReg 0x70040 0).ok = true ∧ (goReg 0x70100 2).ok = true ∧ (goReg 0x52000 0).ok = true ∧ Covers (goReg 0x70100 2) 2 ∧
    bits (stB.dev.reg 0x70080) 3 0 = 0 ∧ (stB.dev.reg 0x70080).testBit 31 = false ∧ stB.dev.boot.powered = true := ⟨rfl, rfl, rfl, by decide, rfl, rfl, rfl⟩

/-- RecordsAndTraces: legal writes, a page of records, an armed breakpoint's absence, and a trace that is off. -/
theorem witness_RecordsAndTraces : (goReg 0x60000 16).ok = true ∧ (goReg 0x60350 0).ok = true ∧ (goReg 0x60210 16).ok = true ∧ stB.dev.recUnit.closing = false ∧
    stB.dev.statements = [] ∧ stB.dev.trcOn = false ∧ st0.breakpoint = none ∧ (stB.dev.reg 0x60000).testBit 31 = false := ⟨rfl, rfl, rfl, rfl, rfl, by decide, by decide +kernel, rfl⟩

/-! ## Queues -/

/-- A queue of 64 packets at 1 MiB that runs in place 0, its first packet of a type. -/
def q0 : Queue :=
  { qid := 3, rbase := 0x100000, dbaddr := 0x200000, asid := 5, rlog2 := 6, qpri := 0, rptr := 0, wptr := 1, csn := 0, tcur := 0, qstate := 1, errcode := 0, errcsn := 0
    errdata := 0, draining := false, place := some 0, started := [], sigwait := none, run := none, recording := none, copies := [] }
def stQ (ty : Byte) : State :=
  { stB with dev := { stB.dev with queues := [q0], mem := if ty = 0#8 then [] else [(0x100000, ty)], ctrl := [(0x50000, 0x300000), (0x51000, 2 ^ 63 + 5), (0x70000, 0x1F), (0x70020, 9)] } }
def bytesQ (ty : Byte) : List Byte := (List.range 64).map fun k => (stQ ty).dev.outerByte (0x100000 + k)
theorem head_of (ty : Byte) (h : packetCause (stQ ty).dev (bytesQ ty) = none) : Head (stQ ty) 3 q0 (bytesQ ty) :=
  ⟨rfl, ⟨rfl, rfl, rfl, rfl, rfl, rfl⟩, (by rw [show (stQ ty).dev.reg 0x60118 = 0 from rfl]; decide), ⟨by decide, by decide⟩, rfl, h, (fun _ x hx => nomatch hx), (fun x hx => nomatch hx),
    (by unfold Device.trcOn
        rw [show (stQ ty).dev.reg 0x60108 = 0 from rfl, show bit 0 0 = false from by decide]; rfl),
    fun i hi => by
      have e : (stQ ty).dev.qdAddr 3 = bits 0x300000 47 18 * 2 ^ 18 + 192 := rfl
      have b : bits 0x300000 47 18 = 12 := by decide
      rw [e, b]; simp only [q0]; omega⟩
/-- Packets and Flights: NOP, FLIGHT_BEGIN, FLIGHT_END and FLIGHT_RUN at the head of a queue, whose ASID owns flight 0. -/
theorem witness_Packets : Head (stQ 0) 3 q0 (bytesQ 0) := head_of _ (by decide +kernel)
theorem witness_Flights_begin : Head (stQ 7) 3 q0 (bytesQ 7) ∧ (stQ 7).dev.ownsFlight 0 5 = true ∧ ((stQ 7).dev.flight 0).state = 0 :=
  ⟨head_of _ (by decide +kernel), by decide +kernel, rfl⟩
theorem witness_Flights_end : Head (stQ 8) 3 q0 (bytesQ 8) ∧ pmapBad (bytesQ 8) = false := ⟨head_of _ (by decide +kernel), by decide +kernel⟩
theorem witness_Flights_run : Head (stQ 9) 3 q0 (bytesQ 9) := head_of _ (by decide +kernel)
/-- A queue that issues a flight's treads. -/
def run0 : Run :=
  { fid := 0, ix := 0, csn := 1, patch := [], fallback := false, next := 0, fblen := 2, fbaddr := 0x100000#64, pending := [], stopped := false, failed := false }
theorem witness_Flights_tread : (stB.dev).mayStart { q0 with run := some run0 } = true ∧ 0 + 1 < [List.replicate 64 0#8, List.replicate 64 0#8].length ∧
    packetCause stB.dev (patched (List.replicate 64 0#8) []) = none := ⟨by decide +kernel, by decide, by decide +kernel⟩
/-- QueueControl: a legal write of QCTL by the driver, no queue, a drained one, and a waiting one. -/
theorem witness_QueueControl : (goReg 0x50008 2).ok = true ∧ (goReg 0x50008 2).base = 0x50008 ∧ stB.dev.queue? 4 = none ∧
    ((stQ 0).dev.queues.find? fun q => q.draining && q.started.isEmpty && q.run.isNone) = none ∧ (stQ 0).dev.queue? 3 = some q0 ∧
    stB.dev.waitsForPlace { q0 with place := none } = true ∧ stB.dev.events = [] := ⟨rfl, rfl, rfl, rfl, rfl, by decide +kernel, rfl⟩

/-! ## The fabric -/

/-- Ports in UP that hold one flit, and a module that trains. -/
def stP : State :=
  let p : Port := { Port.off with state := 3, buffer := [(7, [])] }
  { stB with dev := { stB.dev with fabric := { stB.dev.fabric with ports := List.replicate 64 p, modules := List.replicate 16 { p with state := 1 } } } }
theorem witness_PortsAndLinks : 2 < stP.dev.fabric.ports.length ∧ (stP.dev.portAt 2).state = 3 ∧ (stP.dev.portAt 2).buffer = [(7, [])] ∧ (stP.dev.portAt 65).state = 1 ∧
    stP.dev.fabric.modules.length = 16 ∧ stP.dev.fabric.requests = [] ∧ ({ goReg 0x10008 0 with agent := .mgmt } : RegWrite).ok = true ∧ (goReg 0x20410 12).ones.testBit 12 = true :=
  ⟨by decide, rfl, rfl, rfl, rfl, rfl, rfl, rfl⟩

/-- A read of line 4 by device 9, a request that waits for an answer, and the host link of a bridge. -/
def rd0 : Packet := { type := 0, op := 0, src := 9, dst := 0, tag := 1, nops := 0, line := 4, xtra := 0, be := 0#64, data := [], poison := 0#64, entries := [], malformed := false }
def rq0 (w : Requester) : Request := { tag := 1, plane := 0, packet := rd0, who := w, copies := [], held := false, returned := false }
theorem witness_FabricArrivals : rd0.malformed = false ∧ rd0.type < 11 ∧ decodeOwn stB.dev .plain (64 * 4) = .at (.mem 256) ∧ stB.dev.fabric.inbound = [] ∧ stB.dev.pieces = [] ∧
    ([rq0 .host].find? fun x => x.tag == 1) = some (rq0 .host) ∧ inMemory (4 * 64) = true ∧ stB.dev.members 0 = [] := ⟨rfl, by decide, rfl, rfl, rfl, rfl, by decide, by decide +kernel⟩
theorem witness_FabricArrivals_host : (2 ^ 31 : Nat).testBit 31 = true ∧ (2 ^ 63 + 0x3FF * 2 ^ 48 : Nat).testBit 63 = true ∧ bits (2 ^ 63 + 0x3FF * 2 ^ 48) 57 48 = 0x3FF := by decide
/-- FabricInstructions: FEAT.MCAST on, a valid group of 64 KiB. -/
def stM : State := { st0 with dev := { st0.dev with ctrl := [(0x40048, 0x10000), (0x40058, 1), (0x70020, 0x11)] }, me := { me0 with s := [] } }
theorem witness_FabricInstructions : stM.dev.mcastOn = true ∧ stM.dev.gvalid 0 = true ∧ stM.dev.glen 0 = 0x10000 ∧ stM.me.mce false [3] [2] = 0#64 ∧ (stM.me.sget 2).toNat % 256 = 0 ∧
    ∀ x ∈ stM.me.offsets false 3, x.2 + 4 ≤ 0x10000 ∧ x.2 % 4 = 0 := ⟨by decide, by decide, by decide, rfl, rfl, by decide +kernel⟩

/-! ## Memory and control space -/

theorem witness_ControlSpaceWrites : (goReg 0 0).ok = true ∧ (goReg 4 0).ok = false ∧ (goReg 0x4000 0).ok = true ∧ (goReg 0x3080 0).off / 8 * 8 = 0x3080 := ⟨rfl, rfl, rfl, rfl⟩
theorem witness_Pages : (goReg 0x1000 0).ok = true ∧ Covers (goReg 0x1000 0) 0 ∧ (goReg 0x2100 12).ok = true ∧ (goReg 0x2318 21).ok = true ∧ (stB.dev.reg 0x1000).testBit 31 = false ∧
    (2 ^ 31 : Nat).testBit 31 = true ∧ stB.dev.shoot = [] := ⟨rfl, by decide, rfl, rfl, rfl, by decide, rfl⟩
theorem witness_MemoryErrors : st0.co.place = .core 0 ∧ st0.me.stat ≠ .absent ∧ (∀ h ∈ st0.dev.companies, h.dseq ≠ st0.co.dseq) ∧ st0.me.allocated 1 = true ∧ inMemory (4 * 64) = true :=
  ⟨rfl, by decide, (fun _ h => nomatch h), rfl, by decide⟩
theorem witness_MemoryReadsBack : Memory.wf stB.dev.mem := by decide
/-- StepRunsDecoded: the cohort may issue, its pc lies in a code page, and the parcel there is EXIT. -/
theorem witness_StepRunsDecoded : stX.turns = [] ∧ stX.dev.boot.powered = true ∧ stX.canIssue = true ∧ (stX.fetchParcels stX.me.pc.toNat 2).2 = some [0x65, 0, 0, 0] ∧
    decode [0x65, 0, 0, 0] = .ok (.exit, 4) ∧ WellFormed .exit := ⟨by decide +kernel, by decide +kernel, by decide +kernel, by decide +kernel, rfl, rfl⟩

/-! ## Nodes, copies and the matrix engine -/

/-- CopiesIssue: 16 bytes from the local store to HBM4 through window 1. -/
def stY : State := { stG with me := { meG with s := [(6, 16#32)] } }
theorem witness_CopiesIssue : stY.me.mce false [] (groupNames 4 3) = 0#64 ∧ (stY.me.sget 6).toNat = 16 ∧ (stY.me.window 0).kind = 2 ∧ (stY.me.window 1).kind = 1 ∧
    ((stY.sideChecks { win := 0, kind := 2, write := false } 16 [0]).2.flatten.all fun x => reaches x.1.out) = true ∧
    ((stY.sideChecks { win := 1, kind := 1, write := true } 16 [0]).2.flatten.all fun x => reaches x.1.out) = true ∧ stY.me.act ≠ 0#64 :=
  ⟨rfl, rfl, rfl, rfl, by decide +kernel, by decide +kernel, by decide⟩
/-- A node at the start of the context's allocation, of which the cohort's launch is a predecessor. -/
def node0 : Node := { asa := 0, lseq := 1#32, qid := 0, csn := 1, count := 0 }
def stN : State := { stL with cx := { cx0 with launches := [{ launch0 with pnode := some 0 }], nodes := [node0] } }
theorem witness_EmitsAndGraphNodes : stN.node? 0 = some node0 ∧ stN.launch? = some { launch0 with pnode := some 0 } ∧ stN.cx.alive = true ∧ (stN.cx.nodes.find? fun n => n.asa == 0) = some node0 :=
  ⟨by decide +kernel, rfl, rfl, rfl⟩
/-- MatrixMultiply and GalleryFills: the gang of the cohort alone owns the engine, and a slot is held. -/
def stT : State :=
  { st0 with me := { me0 with gang := gang0 }, co := { co0 with slots := [Slot.fresh] }
             dev := { st0.dev with engines := [{ core := 0, dseq := 0, gang := gang0, owns := true, waiting := [], released := [] }] } }
theorem witness_MatrixMultiply : stT.me.em = stT.me.present ∧ stT.me.gang ≠ 0#32 ∧ stT.me.j ∈ gangMembers stT.me.gang ∧
    ((stT.dev.engines.find? fun e => e.dseq == 0 && e.gang == gang0).any fun e => e.owns) = true ∧ stT.co.slots.length = 1 ∧ stT.canTile 4 = true ∧
    Gathered stT := ⟨rfl, by decide, by decide, rfl, rfl, by decide +kernel, ⟨by decide, by decide, by decide, fun _ h => nomatch h⟩⟩

/-! ## One step each of the device's own events -/

/-- R326: the waiting company is placed on core 0 and its cohort takes slot 0. -/
theorem test_companyPlace : ((after (.companyPlace 0 0) stW).coAll.place, (after (.companyPlace 0 0) stW).coAll.cohorts.map (·.slot)) = (.core 0, [0]) := by decide +kernel
/-- R323: the dispatcher makes the company of the launch and is done with it. -/
theorem test_companyCreate : ((after .companyCreate stD).dev.companies.map (·.place), (after .companyCreate stD).dev.dispatch) = ([.queued 0], []) := by decide +kernel
/-- R333: a pending cohort enters the active set. -/
theorem test_activeSetFill : (after (.activeSetFill 0 0) { st0 with me := { me0 with active := false } }).me.active = true := by decide +kernel
/-- R339, R340: v1 and v2 of a victim with a floor of 1 leave v2 in its area, and return from it. -/
def stV : State := { stC with co := { stC.co with victim := true, hdr := { LHdr.zero with vfloor0 := 1, lsgran := 1 } } }
theorem test_forcedSpill : ((after (.forcedSpill 0) stV).coAll.cohorts.map (fun c => c.v.map (·.1)), (after (.forcedSpill 0) stV).dev.reg 0x4008) = ([[1]], 1) := by decide +kernel
theorem test_reload : ((after (.reload 0) (after (.forcedSpill 0) stV)).coAll.cohorts.map fun c => ((c.vget 2).lane 0, c.stat)) = [(3#32, .running)] := by decide +kernel
/-- R184: a company whose cohort has ended is gone. -/
def stE : State := { stC with cx := { cx0 with launches := [{ launch0 with made := 2, total := 2 }] }, co := { co0 with cohorts := [{ me0 with stat := .ended, active := false }] } }
theorem test_companyRetire : ((after (.companyRetire 0) stE).co.place, (after (.companyRetire 0) stE).cx.launches.map (·.retired)) = (.absent, [1]) := by decide +kernel
/-- R384: a cohort that has not reached its point in time is to stop at its boundary. -/
theorem test_overdue : (after (.overdue 0) { stC with cx := { cx0 with stat := .saving false }, co := { co0 with pdist := 64, cohorts := [{ me0 with stopDue := 1 }] } }).coAll.cohorts.map (·.stopDue) = [2] := by
  decide +kernel
/-- R383: a stop that is due at a boundary. -/
theorem test_preemptStop : (after (.preemptStop 0 0) { st0 with me := { me0 with stopDue := 2 } }).me.stat = .stopped 1 := by decide +kernel
/-- R378: #FAB without FABQ sets bit 29 of cr.wstat and counts 1. -/
theorem test_fabTrap : (after (.fabTrap 0 0) { st0 with me := { me0 with fab := [(3, false)] } }).cx.wstat = 0x20000001#32 := by decide +kernel
/-- R362: FLIGHT_BEGIN starts the recording of flight 0. -/
theorem test_flightBegin : ((after (.flightBeginPacket 3) (stQ 7)).dev.flight 0).state = 1 := by decide +kernel
/-- R366: a tread is issued and counted. -/
def stR : State :=
  { stB with dev := { stB.dev with queues := [{ q0 with run := some run0 }], flights := [(0, { Flight.empty with state := 2, treads := [List.replicate 64 0#8, List.replicate 64 0#8] })] } }
theorem test_treadIssue : ((after (.treadIssue 3) stR).dev.queues.map fun q => (q.csn, q.run.map (·.next))) = [(1, some 1)] := by decide +kernel
/-- R147: a port in UP whose acknowledgement is late resends its one flit. -/
theorem test_ackTimeout : ((after (.ackTimeout 2) stP).dev.portAt 2).replay = 1 := by decide +kernel
/-- R139: a read of another device is answered with 64 bytes. -/
theorem test_packetRead : ((after (.fabricPacketArrival 0 rd0) stB).dev.fabric.sent.map fun x => (x.1, x.2.type, x.2.data.length)) = [(9, 4, 64)] := by decide +kernel

end Sys2Proof.Tests
end

section
/-!
SUPPORT. Writes to device control space (R6, R14, R18, R91, R143, R337): a write that takes a device out of a multicast group also ends the
reads that an MLDRED .ANY still has at that device (R128, R155), so it does more than store the bits it covers.
-/
namespace Sys2Proof.Machine

/-! ## What a write of MCGTAB does -/

/-- A legal write of MEMBERS by the management processor stores them, and then drops the reads of members that have left (R128, R143). -/
theorem execMcgtabWrite_members (w : RegWrite) (s : State) (hok : w.ok = true) (ha : w.agent = .mgmt)
    (ho : (w.base - 0x40000) % 128 < 64) :
    execMcgtabWrite w s = .next ((s.setDev (s.dev.regStoreAs w (2 ^ 64 - 1) 0)).dropMembers ((w.base - 0x40000) / 128)) := by
  simp only [execMcgtabWrite, ha, hok, ho, and_self, if_true]

/-- A plain write leaves the fabric as it was. -/
theorem Written.fabric {w : RegWrite} {b rw w1c : Nat} {s t : State} (h : Written w b rw w1c s t) : t.dev.fabric = s.dev.fabric := by
  rw [h.rest]; rfl

/-! ## A member leaves its group during an MLDRED -/

/-- The management processor clears MEMBERS of group 0. -/
def clearMembers : RegWrite := { agent := .mgmt, off := 0x40000, len := 8, val := 0 }

/-- An MLDRED.F32.ANY of group 0 at its first lane, sent and not answered. -/
def memberLoad : MemOp :=
  { id := 7, kind := .mldred 0 false false, scope := 3, acq := false, rel := false
    lanes := [{ lane := 0, loc := .far 512 0, addr := 0, len := 4, data := [], poisoned := 0#64, sent := true, result := none }]
    d := 1, u := false, em := 1#64, flag := none, stage := .issued, passed := false, recs := [] }

/-- Its read of the line at device 5. -/
def memberRead : Request :=
  { tag := 1, plane := 0, packet := { Packet.basic ptRD 5 0 with tag := 1 }, who := .op 0 0 7 [0], copies := [], held := false, returned := false }

/-- Device 5 is the one member of group 0, and the running cohort waits for its line. -/
def memberReadState : State :=
  { State.reset with
    me := { Cohort.null with n0 := 1, stat := .running, em := 1#64, active := true, ops := [memberLoad] }
    co := { Company.null with asid := 5, place := .core 0, created := [0] }
    cx := { Context.null with asid := 5, alive := true, stat := .live }
    dev := { State.reset.dev with
      ctrl := [(0x40000, 2 ^ 5), (0x40048, 0x10000), (0x40050, 1), (0x40058, 1), (0x70020, 0x11)]
      fabric := { State.reset.dev.fabric with requests := [memberRead] } } }

/-- Clearing MEMBERS ends the read at device 5, which is no member any more. -/
theorem requests_dropMembers_memberReadState :
    ((memberReadState.setDev (memberReadState.dev.regStoreAs clearMembers (2 ^ 64 - 1) 0)).dropMembers 0).dev.fabric.requests = [] := by
  decide +kernel

/-- Refutes O43: the write of MEMBERS that takes device 5 out of group 0 ends the read that an MLDRED .ANY has at it (R128), and the fabric
holds no request afterwards, where the clause of MCGTAB says that a write changes its register alone. -/
theorem not_controlSpaceWrites : ¬ Obligations.ControlSpaceWrites := by
  unfold Obligations.ControlSpaceWrites
  intro h
  obtain ⟨-, -, -, -, -, -, -, -, mcgtab, -⟩ := h.2 clearMembers memberReadState rfl
  obtain ⟨t, ht, written⟩ := mcgtab 0 (by decide) 0 (by decide) rfl rfl
  have hnext := ht.symm.trans (execMcgtabWrite_members clearMembers memberReadState rfl rfl (by decide))
  have held : t.dev.fabric.requests = [memberRead] := congrArg (·.requests) written.fabric
  rw [Host.Outcome.next.inj hnext] at held
  exact List.cons_ne_nil _ _ (held.symm.trans requests_dropMembers_memberReadState)

end Sys2Proof.Machine
end

section
/-!
SUPPORT. Registers of device control space: the bits that a write stores, clears and leaves (R6, R18), and a register set by the device.
-/
namespace Sys2Proof.Machine

/-! ## Bits and fields -/

theorem bit_eq_testBit (x i : Nat) : bit x i = x.testBit i := by
  rw [bit, Nat.testBit_eq_decide_div_mod_eq, Bool.beq_eq_decide_eq]

theorem testBit_bits (x hi lo i : Nat) : (bits x hi lo).testBit i = (decide (i < hi + 1 - lo) && x.testBit (i + lo)) := by
  rw [bits, Nat.testBit_mod_two_pow, Nat.testBit_div_two_pow]

/-- Replacing a field moves the bits of that field alone. -/
theorem testBit_putBits (x v : Nat) {hi lo : Nat} (h : lo ≤ hi) (i : Nat) :
    (putBits x hi lo v).testBit i = if lo ≤ i ∧ i ≤ hi then v.testBit (i - lo) else x.testBit i := by
  have split : putBits x hi lo v = 2 ^ lo * (2 ^ (hi + 1 - lo) * (x / 2 ^ (hi + 1)) + v % 2 ^ (hi + 1 - lo)) + x % 2 ^ lo := by
    have e : (2 : Nat) ^ (hi + 1) = 2 ^ lo * 2 ^ (hi + 1 - lo) := by rw [← Nat.pow_add]; congr 1; omega
    rw [putBits, e]; ring
  rw [split, Nat.testBit_two_pow_mul_add _ (Nat.mod_lt _ (Nat.two_pow_pos _)), Nat.testBit_two_pow_mul_add _ (Nat.mod_lt _ (Nat.two_pow_pos _))]
  by_cases below : i < lo
  · rw [if_pos below, if_neg (by omega), Nat.testBit_mod_two_pow, decide_eq_true below, Bool.true_and]
  · rw [if_neg below]
    by_cases inside : i ≤ hi
    · rw [if_pos (by omega), if_pos (by omega), Nat.testBit_mod_two_pow, decide_eq_true (by omega), Bool.true_and]
    · rw [if_neg (by omega), if_neg (by omega), Nat.testBit_div_two_pow]; congr 1; omega

/-- A field reads as what was put there, as far as it fits. -/
theorem bits_putBits (x v : Nat) {hi lo : Nat} (h : lo ≤ hi) : bits (putBits x hi lo v) hi lo = v % 2 ^ (hi + 1 - lo) := by
  apply Nat.eq_of_testBit_eq
  intro i
  rw [testBit_bits, testBit_putBits x v h, Nat.testBit_mod_two_pow]
  by_cases inside : i < hi + 1 - lo
  · rw [if_pos (by omega), Nat.add_sub_cancel]
  · rw [decide_eq_false inside, Bool.false_and, Bool.false_and]

/-! ## What a write covers -/

/-- A legal write stays inside the 8 bytes that hold its first. -/
theorem RegWrite.inside {w : RegWrite} (h : w.ok = true) : 0 < w.len ∧ w.off % 8 + w.len ≤ 8 := by
  simp only [RegWrite.ok, Bool.and_eq_true, Bool.or_eq_true, beq_iff_eq] at h
  obtain ⟨⟨(((len | len) | len) | len), aligned⟩, -⟩ := h <;> rw [len] at aligned ⊢ <;> omega

theorem RegWrite.testBit_cover {w : RegWrite} (h : w.ok = true) (i : Nat) : w.cover.testBit i = decide (Covers w i) := by
  obtain ⟨-, fits⟩ := RegWrite.inside h
  rw [RegWrite.cover, coverMask, Nat.testBit_mod_two_pow, Nat.testBit_mul_two_pow, Nat.testBit_two_pow_sub_one, ← Bool.decide_and, ← Bool.decide_and]
  exact decide_eq_decide.2 (by unfold Covers; omega)

theorem RegWrite.bit_cover {w : RegWrite} (h : w.ok = true) (i : Nat) : bit w.cover i = decide (Covers w i) := by
  rw [bit_eq_testBit, RegWrite.testBit_cover h]

theorem RegWrite.testBit_placed {w : RegWrite} {i : Nat} (h : Covers w i) : w.placed.testBit i = w.val.testBit (i - 8 * (w.off % 8)) := by
  obtain ⟨low, high⟩ := h
  rw [RegWrite.placed, Nat.testBit_mul_two_pow, Nat.testBit_mod_two_pow, decide_eq_true low, decide_eq_true (by omega), Bool.true_and, Bool.true_and]

theorem RegWrite.testBit_ones {w : RegWrite} (h : w.ok = true) (i : Nat) :
    w.ones.testBit i = true ↔ Covers w i ∧ w.val.testBit (i - 8 * (w.off % 8)) = true := by
  rw [RegWrite.ones, Nat.testBit_and, RegWrite.testBit_cover h, Bool.and_eq_true, decide_eq_true_eq, and_comm]
  exact and_congr_right fun covered => by rw [RegWrite.testBit_placed covered]

/-- The bits that a legal write sets are those of its value, in place. -/
theorem RegWrite.ones_eq {w : RegWrite} (h : w.ok = true) : w.ones = w.val * 2 ^ (8 * (w.off % 8)) % 2 ^ (8 * (w.off % 8 + w.len)) := by
  apply Nat.eq_of_testBit_eq
  intro i
  rw [Bool.eq_iff_iff, RegWrite.testBit_ones h, Nat.testBit_mod_two_pow, Nat.testBit_mul_two_pow]
  simp only [Bool.and_eq_true, decide_eq_true_eq, Covers]
  tauto

/-! ## What a write leaves -/

/-- A bit of a register after a legal write: a covered bit is stored where it is RW and falls where it is RW1C and written 1. -/
theorem testBit_merged {w : RegWrite} (h : w.ok = true) (old rw w1c : Nat) {i : Nat} (hi : i < 64) :
    (ctrlMerge old rw w1c w.cover w.placed).testBit i =
      if Covers w i then (if rw.testBit i then w.val.testBit (i - 8 * (w.off % 8)) else old.testBit i) &&
        !(w1c.testBit i && w.val.testBit (i - 8 * (w.off % 8)))
      else old.testBit i := by
  simp only [ctrlMerge, Nat.testBit_and, Nat.testBit_or, Nat.testBit_xor, Nat.testBit_two_pow_sub_one, RegWrite.testBit_cover h, hi, decide_true]
  by_cases covered : Covers w i
  · rw [if_pos covered, RegWrite.testBit_placed covered, decide_eq_true covered]
    cases rw.testBit i <;> simp [Bool.and_comm]
  · simp [covered]

theorem testBit_merged_high {w : RegWrite} (h : w.ok = true) (old rw w1c : Nat) {i : Nat} (hi : 64 ≤ i) :
    (ctrlMerge old rw w1c w.cover w.placed).testBit i = false := by
  have uncovered : ¬ Covers w i := fun c => by have := RegWrite.inside h; unfold Covers at c; omega
  have high : ¬ i < 64 := by omega
  simp only [ctrlMerge, Nat.testBit_and, Nat.testBit_or, Nat.testBit_xor, Nat.testBit_two_pow_sub_one, RegWrite.testBit_cover h, high, uncovered,
    decide_false, Bool.and_false, Bool.xor_false, Bool.or_false]

/-! ## Setting a register -/

@[simp] theorem Device.reg_setReg (d : Device) (o v x : Nat) : (d.setReg o v).reg x = if x = o then v else d.reg x := Store.get_set ..

theorem RegSet.of_setReg (s : State) (o v : Nat) : RegSet s (s.setDev (s.dev.setReg o v)) o v :=
  ⟨by simp, fun x other => by simp [other], rfl⟩

theorem RegSet.of_setField (s : State) (o hi lo v : Nat) : RegSet s (s.setDev (s.dev.setField o hi lo v)) o (putBits (s.dev.reg o) hi lo v) :=
  RegSet.of_setReg ..

/-- A register set twice holds what it was set to last. -/
theorem RegSet.trans {s t u : State} {o a b : Nat} (h : RegSet s t o a) (k : RegSet t u o b) : RegSet s u o b :=
  ⟨k.value, fun x other => (k.others x other).trans (h.others x other), by rw [k.rest, h.rest]; rfl⟩

/-- A register set to the merge of its value with a legal write is written by it. -/
theorem RegSet.written {s t : State} {w : RegWrite} {base rw w1c : Nat} (legal : w.ok = true)
    (h : RegSet s t base (ctrlMerge (s.dev.reg base) rw w1c w.cover w.placed)) : Written w base rw w1c s t where
  stored i hi covered hrw hw1c := by rw [h.value, testBit_merged legal _ _ _ hi, if_pos covered, hrw, hw1c]; simp
  cleared i hi covered hrw hw1c := by rw [h.value, testBit_merged legal _ _ _ hi, if_pos covered, hrw, hw1c]; simp
  kept i hi apart := by
    rw [h.value, testBit_merged legal _ _ _ hi]
    rcases apart with uncovered | ⟨hrw, hw1c⟩
    · rw [if_neg uncovered]
    · rw [hrw, hw1c]; simp
  others := h.others
  rest := h.rest

end Sys2Proof.Machine
end

section
/-!
SUPPORT. The cohorts of some contexts changed at once, by a shootdown (R43) or a push to a page pool (Table 2-9).
-/
namespace Sys2Proof.Machine

/-! ## The cohorts of the contexts that a test names -/

/-- Change the cohorts of a company whose ASID passes a test. -/
def Company.mapWhere (p : Nat → Bool) (f : Cohort → Cohort) (c : Company) : Company :=
  bif p c.asid then { c with cohorts := c.cohorts.map f } else c

/-- Change every cohort of the contexts whose ASID passes a test. -/
def State.mapWhere (p : Nat → Bool) (f : Cohort → Cohort) (s : State) : State :=
  { s with
    me := bif p s.co.asid && decide (s.me.stat ≠ .absent) then f s.me else s.me
    co := s.co.mapWhere p f
    dev := { s.dev with companies := s.dev.companies.map (Company.mapWhere p f) } }

theorem Company.mapWhere_yes {p : Nat → Bool} {c : Company} (f : Cohort → Cohort) (h : p c.asid = true) :
    c.mapWhere p f = { c with cohorts := c.cohorts.map f } := by
  rw [Company.mapWhere, h, cond_true]

theorem Company.mapWhere_no {p : Nat → Bool} {c : Company} (f : Cohort → Cohort) (h : p c.asid = false) : c.mapWhere p f = c := by
  rw [Company.mapWhere, h, cond_false]

@[simp] theorem Company.mapWhere_asid (p : Nat → Bool) (f : Cohort → Cohort) (c : Company) : (c.mapWhere p f).asid = c.asid := by
  cases h : p c.asid
  · rw [Company.mapWhere_no f h]
  · rw [Company.mapWhere_yes f h]

theorem State.mapWhere_me_yes {p : Nat → Bool} {s : State} (f : Cohort → Cohort) (h : p s.co.asid = true) (present : s.me.stat ≠ .absent) :
    (s.mapWhere p f).me = f s.me := by
  simp [State.mapWhere, h, present]

theorem State.mapWhere_me_no {p : Nat → Bool} {s : State} (f : Cohort → Cohort) (h : p s.co.asid = false) : (s.mapWhere p f).me = s.me := by
  simp [State.mapWhere, h]

theorem State.mapCohorts_eq (s : State) (a : Nat) (f : Cohort → Cohort) : s.mapCohorts a f = s.mapWhere (fun b => decide (b = a)) f := by
  have company : Company.mapWhere (fun b => decide (b = a)) f = fun c => if c.asid = a then { c with cohorts := c.cohorts.map f } else c :=
    funext fun c => Bool.cond_decide ..
  simp only [State.mapCohorts, State.mapWhere, company, ← Bool.decide_and, Bool.cond_decide]

section
variable {f : Cohort → Cohort} (again : ∀ c, f (f c) = f c)
include again

/-- A change that is settled after once, made for some contexts and then for others, is made once for both. -/
theorem Company.mapWhere_mapWhere (p q : Nat → Bool) (c : Company) :
    (c.mapWhere p f).mapWhere q f = c.mapWhere (fun a => p a || q a) f := by
  have twice : f ∘ f = f := funext again
  cases hp : p c.asid <;> cases hq : q c.asid <;> simp [Company.mapWhere, hp, hq, twice]

theorem State.mapWhere_mapWhere (stat : ∀ c, (f c).stat = c.stat) (p q : Nat → Bool) (s : State) :
    (s.mapWhere p f).mapWhere q f = s.mapWhere (fun a => p a || q a) f := by
  have me : ((s.mapWhere p f).mapWhere q f).me = (s.mapWhere (fun a => p a || q a) f).me := by
    by_cases absent : s.me.stat = .absent
    · simp [State.mapWhere, absent]
    · cases hp : p s.co.asid <;> cases hq : q s.co.asid <;> simp [State.mapWhere, hp, hq, absent, stat, again]
  have companies : (s.dev.companies.map (Company.mapWhere p f)).map (Company.mapWhere q f) =
      s.dev.companies.map (Company.mapWhere (fun a => p a || q a) f) := by
    rw [List.map_map]; exact List.map_congr_left fun c _ => Company.mapWhere_mapWhere again p q c
  unfold State.mapWhere at me ⊢
  dsimp only at me ⊢
  rw [me, companies, Company.mapWhere_mapWhere again]

end

theorem State.mapWhere_none (s : State) (f : Cohort → Cohort) : s.mapWhere (fun _ => false) f = s := by
  have same : Company.mapWhere (fun _ => false) f = id := funext fun c => Company.mapWhere_no f rfl
  simp [State.mapWhere, same]

/-- Changing the cohorts of one context after another changes those of all of them. -/
theorem State.foldl_mapCohorts {f : Cohort → Cohort} (again : ∀ c, f (f c) = f c) (stat : ∀ c, (f c).stat = c.stat) (as : List Nat) :
    ∀ s : State, as.foldl (fun t a => t.mapCohorts a f) s = s.mapWhere (fun a => decide (a ∈ as)) f := by
  induction as with
  | nil => intro s; simp [State.mapWhere_none]
  | cons a as ih =>
    intro s
    rw [List.foldl_cons, ih, State.mapCohorts_eq, State.mapWhere_mapWhere again stat]
    simp only [List.mem_cons, Bool.decide_or]

/-- Whether a context has an ASID. -/
def State.hasContext (s : State) (a : Nat) : Bool := decide (a ∈ s.contexts.map (·.asid))

theorem State.hasContext_iff (s : State) (a : Nat) : s.hasContext a = true ↔ ∃ c ∈ s.contexts, c.asid = a := by
  rw [State.hasContext, decide_eq_true_eq, List.mem_map]

theorem Company.mapWhere_rest (p : Nat → Bool) (f : Cohort → Cohort) (c : Company) : { c.mapWhere p f with cohorts := c.cohorts } = c := by
  cases h : p c.asid
  · rw [Company.mapWhere_no f h]
  · rw [Company.mapWhere_yes f h]

theorem State.mapWhere_me_cases (p : Nat → Bool) (f : Cohort → Cohort) (s : State) : (s.mapWhere p f).me = f s.me ∨ (s.mapWhere p f).me = s.me := by
  unfold State.mapWhere
  cases p s.co.asid && decide (s.me.stat ≠ .absent)
  · exact .inr rfl
  · exact .inl rfl

end Sys2Proof.Machine
end

section
/-!
SUPPORT. The carve: what a write of ASCARVE and the end of a change leave (R21 to R23).
-/
namespace Sys2Proof.Machine

/-! ## Zeroing -/

theorem Device.byte_zero (d : Device) (a n x : Nat) : (d.zero a n).byte x = if a ≤ x ∧ x < a + n then 0#8 else d.byte x := Store.get_drop ..

/-- Zeroing whole granules takes their poison away and no other (R53, R89). -/
theorem Device.badAt_zero (d : Device) {a n : Nat} (ha : 16 ∣ a) (hn : 16 ∣ n) (x : Nat) :
    (d.zero a n).badAt x = if a ≤ x ∧ x < a + n then false else d.badAt x := by
  have granules : a / 16 ≤ x / 16 ∧ x / 16 < (a + n) / 16 ↔ a ≤ x ∧ x < a + n := by omega
  exact (Store.get_drop ..).trans (if_congr granules rfl rfl)

/-! ## The carve (R21 to R23) -/

theorem exec_ascarveWrite (w : RegWrite) (s : State) : exec (.ascarveWrite w) s = execAscarveWrite w s := rfl
theorem exec_carveChangeDone (s : State) : exec .carveChangeDone s = execCarveChangeDone s := rfl

/-- A write of ASCARVE with UNITS left as it stands. -/
def State.carveKept (s : State) (w : RegWrite) : State :=
  s.setDev (s.dev.setReg 0x1000 (ctrlMerge (s.dev.reg 0x1000) 0 (2 ^ 8) w.cover w.placed))

/-- UNITS as a write of ASCARVE asks for it. -/
def State.carveAsked (s : State) (w : RegWrite) : Nat := bits (ctrlMerge (s.dev.reg 0x1000) (fieldMask 4 0) 0 w.cover w.placed) 4 0

/-- A write of ASCARVE with UNITS as it asks for it. -/
def State.carveStored (s : State) (w : RegWrite) : State := s.setDev ((s.carveKept w).dev.setField 0x1000 4 0 (s.carveAsked w))

theorem State.carveKept_regSet (s : State) (w : RegWrite) :
    RegSet s (s.carveKept w) 0x1000 (ctrlMerge (s.dev.reg 0x1000) 0 (2 ^ 8) w.cover w.placed) := RegSet.of_setReg ..

theorem State.carveStored_regSet (s : State) (w : RegWrite) : RegSet s (s.carveStored w) 0x1000
    (putBits (ctrlMerge (s.dev.reg 0x1000) 0 (2 ^ 8) w.cover w.placed) 4 0 (s.carveAsked w)) := by
  have stored := (s.carveKept_regSet w).trans (RegSet.of_setField _ 0x1000 4 0 (s.carveAsked w))
  rwa [(s.carveKept_regSet w).value] at stored

/-- Storing UNITS after the rest of the write is the write of all its fields (Table 1-5). -/
theorem State.carveStored_written (s : State) {w : RegWrite} (legal : w.ok = true) : Written w 0x1000 31 (2 ^ 8) s (s.carveStored w) := by
  have merged : putBits (ctrlMerge (s.dev.reg 0x1000) 0 (2 ^ 8) w.cover w.placed) 4 0 (s.carveAsked w) =
      ctrlMerge (s.dev.reg 0x1000) 31 (2 ^ 8) w.cover w.placed := by
    have units (i : Nat) : (31 : Nat).testBit i = decide (i < 5) := Nat.testBit_two_pow_sub_one 5 i
    apply Nat.eq_of_testBit_eq
    intro i
    rw [testBit_putBits _ _ (Nat.zero_le 4)]
    by_cases field : i < 5
    · have clear : (2 ^ 8 : Nat).testBit i = false := Nat.testBit_two_pow_of_ne (by omega)
      rw [if_pos (by omega), State.carveAsked, testBit_bits, testBit_merged legal _ _ _ (by omega), testBit_merged legal _ _ _ (by omega),
        clear, show fieldMask 4 0 = 31 from rfl, Nat.zero_testBit]
      simp [field]
    · rw [if_neg (by omega)]
      by_cases high : i < 64
      · rw [testBit_merged legal _ _ _ high, testBit_merged legal _ _ _ high, units, decide_eq_false field, Nat.zero_testBit]
      · rw [testBit_merged_high legal _ _ _ (by omega), testBit_merged_high legal _ _ _ (by omega)]
  exact RegSet.written legal (merged ▸ s.carveStored_regSet w)

theorem State.units_carveStored (s : State) (w : RegWrite) : bits ((s.carveStored w).dev.reg 0x1000) 4 0 = s.carveAsked w := by
  rw [(s.carveStored_regSet w).value, bits_putBits _ _ (Nat.zero_le 4), State.carveAsked, bits, Nat.mod_mod]

theorem Device.carving_iff (d : Device) : d.carving = true ↔ (d.reg 0x1000).testBit 31 = true := by rw [Device.carving, bit_eq_testBit]

/-- ASCARVE_WRITE, by what the write covers, what it asks for and whether a change is under way (R22). -/
theorem execAscarveWrite_eq {w : RegWrite} (s : State) (legal : w.ok = true) (base : w.base = 0x1000) : execAscarveWrite w s =
    .next (if bit w.cover 0 = false then s.carveKept w
      else if 16 < s.carveAsked w ∨ s.dev.carving = true then
        s.setDev (s.dev.setReg 0x1000 (ctrlMerge (s.dev.reg 0x1000) 0 (2 ^ 8) w.cover w.placed ||| 2 ^ 8))
      else s.setDev (if s.carveAsked w = bits (s.dev.reg 0x1000) 4 0 then (s.carveStored w).dev
        else { (s.carveStored w).dev.setField 0x1000 31 31 1 with carveOld := s.dev.carve })) :=
  congrArg _ (if_neg (by simp [legal, base]))

section
variable {w : RegWrite} {s : State} (legal : w.ok = true) (base : w.base = 0x1000)
include legal base

/-- A write that does not cover UNITS is no write to UNITS (log entry 75). -/
theorem execAscarveWrite_uncovered (uncovered : ¬ Covers w 0) : execAscarveWrite w s = .next (s.carveKept w) := by
  rw [execAscarveWrite_eq s legal base, RegWrite.bit_cover legal, if_pos (decide_eq_false uncovered)]

/-- UNITS above 16, and any UNITS while a change is under way, set ERR alone (R22). -/
theorem execAscarveWrite_refused (covered : Covers w 0) (bad : 16 < s.carveAsked w ∨ (s.dev.reg 0x1000).testBit 31 = true) :
    ∃ t, execAscarveWrite w s = .next t ∧ RegSet s t 0x1000 ((s.carveKept w).dev.reg 0x1000 ||| 2 ^ 8) := by
  rw [← Device.carving_iff] at bad
  rw [execAscarveWrite_eq s legal base, RegWrite.bit_cover legal, if_neg (by simp [covered]), if_pos bad, (s.carveKept_regSet w).value]
  exact ⟨_, rfl, RegSet.of_setReg ..⟩

variable (covered : Covers w 0) (good : ¬ (16 < s.carveAsked w ∨ (s.dev.reg 0x1000).testBit 31 = true))
include covered good

theorem execAscarveWrite_same (same : s.carveAsked w = bits (s.dev.reg 0x1000) 4 0) : execAscarveWrite w s = .next (s.carveStored w) := by
  rw [← Device.carving_iff] at good
  rw [execAscarveWrite_eq s legal base, RegWrite.bit_cover legal, if_neg (by simp [covered]), if_neg good, if_pos same]
  rfl

/-- A change of UNITS sets BUSY and keeps the old carve (R22). -/
theorem execAscarveWrite_change (change : s.carveAsked w ≠ bits (s.dev.reg 0x1000) 4 0) :
    ∃ t, execAscarveWrite w s = .next t ∧ t.dev.carveOld = s.dev.carve ∧
      RegSet { s with dev := { s.dev with carveOld := s.dev.carve } } t 0x1000 (putBits ((s.carveStored w).dev.reg 0x1000) 31 31 1) := by
  rw [← Device.carving_iff] at good
  rw [execAscarveWrite_eq s legal base, RegWrite.bit_cover legal, if_neg (by simp [covered]), if_neg good, if_neg change]
  have busy := (s.carveStored_regSet w).trans (RegSet.of_setField _ 0x1000 31 31 1)
  exact ⟨_, rfl, rfl, busy.value, busy.others, rfl⟩

end

/-- The machine once a change of the carve is applied (R22, R23). -/
def State.carveDone (s : State) : State :=
  let lo := min s.dev.carveOld s.dev.carve
  let hi := max s.dev.carveOld s.dev.carve
  let d := s.dev.zero (atriumBase + lo) (hi - lo)
  (s.setDev ({ d.l3Shrink with cell := Store.drop d.cell (lo / 64) (hi / 64) }.setField 0x1000 31 31 0)).wakeInbound

theorem execCarveChangeDone_eq (s : State) : execCarveChangeDone s = .next (if s.dev.carving = true then s.carveDone else s) := rfl

section
variable (s : State)

theorem State.reg_carveDone (o : Nat) :
    s.carveDone.dev.reg o = if o = 0x1000 then putBits (s.dev.reg 0x1000) 31 31 0 else s.dev.reg o := Device.reg_setReg ..

/-- The bytes between the old and the new carve. -/
theorem State.byte_carveDone (a : Nat) : s.carveDone.dev.byte a =
    if atriumBase + min s.dev.carveOld s.dev.carve ≤ a ∧ a < atriumBase + max s.dev.carveOld s.dev.carve then 0#8 else s.dev.byte a := by
  rw [← Nat.add_sub_cancel' (min_le_max : min s.dev.carveOld s.dev.carve ≤ _), ← Nat.add_assoc]
  exact Device.byte_zero ..

theorem State.badAt_carveDone (lo : 16 ∣ min s.dev.carveOld s.dev.carve) (hi : 16 ∣ max s.dev.carveOld s.dev.carve) (a : Nat) :
    s.carveDone.dev.badAt a =
    if atriumBase + min s.dev.carveOld s.dev.carve ≤ a ∧ a < atriumBase + max s.dev.carveOld s.dev.carve then false else s.dev.badAt a := by
  have zeroed := s.dev.badAt_zero (Nat.dvd_add (by decide : 16 ∣ atriumBase) lo) (Nat.dvd_sub hi lo) a
  rwa [Nat.add_assoc, Nat.add_sub_cancel' min_le_max] at zeroed

theorem State.cell_carveDone (l : Nat) : Store.get 0 s.carveDone.dev.cell l =
    if min s.dev.carveOld s.dev.carve / 64 ≤ l ∧ l < max s.dev.carveOld s.dev.carve / 64 then 0 else Store.get 0 s.dev.cell l :=
  Store.get_drop ..

end

end Sys2Proof.Machine
end

section
/-!
SUPPORT. Shootdowns: what GO drops, cuts and counts, and when BUSY falls (R42, R43).
-/
namespace Sys2Proof.Machine

theorem exec_shootdown (w : RegWrite) (s : State) : exec (.shootdown w) s = execShootdown w s := rfl
theorem exec_shootdownComplete (s : State) : exec .shootdownComplete s = execShootdownComplete s := rfl

theorem Cohort.cutWindows_again (c : Cohort) : c.cutWindows.cutWindows = c.cutWindows := by
  simp only [Cohort.cutWindows, List.map_map]
  congr 1
  refine List.map_congr_left fun p _ => ?_
  by_cases global : p.2.kind = 1 <;> simp [global]

/-- The contexts whose global windows a shootdown cuts: all of them for SCOPE 3, that of the ASID otherwise (R43). -/
def State.shootNames (s : State) (a : Nat) : Bool :=
  if bits (s.dev.reg 0x2100) 29 28 = 3 then s.hasContext a else decide (a = bits (s.dev.reg 0x2100) 11 0)

theorem State.shoot_eq (s : State) : s.shoot =
    let scope := bits (s.dev.reg 0x2100) 29 28
    let asid := bits (s.dev.reg 0x2100) 11 0
    let t := s.mapWhere s.shootNames Cohort.cutWindows
    t.setDev ({ t.dev with
      tlb := s.dev.tlb.filter fun e => !(e.covered scope asid (s.dev.reg 0x2108) (s.dev.reg 0x2110))
      ptgen := ptgenAfter s.dev.ptgen scope asid
      svgen := if scope = 3 then s.dev.svgen + 1#64 else s.dev.svgen
      shoot := s.inFlight }.setField 0x2100 31 31 1) := by
  have cut : (if bits (s.dev.reg 0x2100) 29 28 = 3 then
      (s.contexts.map (·.asid)).foldl (fun t a => t.mapCohorts a Cohort.cutWindows) s
      else s.mapCohorts (bits (s.dev.reg 0x2100) 11 0) Cohort.cutWindows) = s.mapWhere s.shootNames Cohort.cutWindows := by
    unfold State.shootNames
    split
    · exact State.foldl_mapCohorts Cohort.cutWindows_again (fun _ => rfl) _ s
    · exact State.mapCohorts_eq ..
  simp only [State.shoot, cut]
  rfl

/-- The entries that a shootdown covers, by its scope (Table 2-6). -/
theorem TlbEntry.covered_iff (e : TlbEntry) {scope : Nat} (h : scope < 4) (asid va len : Nat) : e.covered scope asid va len = true ↔
    if scope = 3 then True else e.global = false ∧ e.asid = asid ∧ (scope = 0 → e.va ≤ va ∧ va < e.va + e.size) ∧
      (scope = 1 → 0 < len ∧ e.va < va + len ∧ va < e.va + e.size) := by
  interval_cases scope <;> simp [TlbEntry.covered, and_assoc]

/-- Whether a shootdown reaches the companies of an ASID (R43). -/
def State.shootMine (s : State) (a : Nat) : Prop :=
  if bits (s.dev.reg 0x2100) 29 28 = 3 then ∃ c ∈ s.contexts, c.asid = a else a = bits (s.dev.reg 0x2100) 11 0

theorem State.shootNames_iff (s : State) (a : Nat) : s.shootNames a = true ↔ s.shootMine a := by
  unfold State.shootNames State.shootMine
  split
  · exact s.hasContext_iff a
  · exact decide_eq_true_iff

theorem State.shootNames_of_not {s : State} {a : Nat} (other : ¬ s.shootMine a) : s.shootNames a = false :=
  Bool.eq_false_iff.2 fun named => other ((s.shootNames_iff a).1 named)

/-- The table of the values that differ from the default, for some keys, reads as those values there. -/
theorem Store.get_filterMap {α : Type} [DecidableEq α] (d : α) (g : Nat → α) {i : Nat} : ∀ {keys : List Nat}, i ∈ keys →
    Store.get d (keys.filterMap fun k => if g k = d then none else some (k, g k)) i = g i := by
  have absent : ∀ keys : List Nat, g i = d → Store.get d (keys.filterMap fun k => if g k = d then none else some (k, g k)) i = d := by
    intro keys default
    induction keys with
    | nil => rfl
    | cons k keys ih =>
      by_cases hk : g k = d
      · rw [List.filterMap_cons, if_pos hk]; exact ih
      · rw [List.filterMap_cons, if_neg hk]
        exact (if_neg fun same : i = k => hk (same ▸ default)).trans ih
  intro keys listed
  induction keys with
  | nil => cases listed
  | cons k keys ih =>
    by_cases same : i = k
    · subst same
      by_cases default : g i = d
      · rw [absent _ default, default]
      · rw [List.filterMap_cons, if_neg default]; exact if_pos rfl
    · have later := ih ((List.mem_cons.1 listed).resolve_left same)
      by_cases hk : g k = d
      · rw [List.filterMap_cons, if_pos hk]; exact later
      · rw [List.filterMap_cons, if_neg hk]; exact (if_neg same).trans later

/-- A shootdown of one ASID counts its generation. -/
theorem get_ptgenAfter_one (g : Store DWord) {scope : Nat} (one : scope ≠ 3) (asid a : Nat) :
    Store.get 0#64 (ptgenAfter g scope asid) a = Store.get 0#64 g a + if a = asid then 1#64 else 0#64 := by
  rw [ptgenAfter, if_neg one, Store.get_set]
  by_cases same : a = asid
  · rw [if_pos same, if_pos same, same]
  · rw [if_neg same, if_neg same, BitVec.add_zero]

/-- A shootdown of SCOPE 3 counts the generation of every ASID. -/
theorem get_ptgenAfter_all (g : Store DWord) (asid : Nat) {a : Nat} (h : a < 4096) :
    Store.get 0#64 (ptgenAfter g 3 asid) a = Store.get 0#64 g a + 1#64 :=
  Store.get_filterMap 0#64 (fun k => Store.get 0#64 g k + 1#64) (List.mem_range.2 h)

/-- Giving the fields that a shootdown sets their earlier values leaves the device as it was. -/
theorem Device.rest_of_shootFields (d : Device) (tlb : List TlbEntry) (ptgen : Store DWord) (svgen : DWord) (shoot : List Nat) (companies : List Company)
    (o hi lo v : Nat) : { ({ d with tlb := tlb, ptgen := ptgen, svgen := svgen, shoot := shoot, companies := companies } : Device).setField o hi lo v with
      tlb := d.tlb, ptgen := d.ptgen, svgen := d.svgen, shoot := d.shoot, ctrl := d.ctrl, companies := d.companies } = d := rfl

section
variable (s : State)

theorem State.mem_tlb_shoot (e : TlbEntry) : e ∈ s.shoot.dev.tlb ↔ e ∈ s.dev.tlb ∧
    ¬ e.covered (bits (s.dev.reg 0x2100) 29 28) (bits (s.dev.reg 0x2100) 11 0) (s.dev.reg 0x2108) (s.dev.reg 0x2110) = true := by
  rw [State.shoot_eq]
  exact List.mem_filter.trans (and_congr_right fun _ => by rw [Bool.not_eq_true', Bool.not_eq_true])

theorem State.reg_shoot (o : Nat) :
    s.shoot.dev.reg o = if o = 0x2100 then putBits (s.dev.reg 0x2100) 31 31 1 else s.dev.reg o := by
  rw [State.shoot_eq]; exact Device.reg_setReg ..

theorem State.shoot_shoot : s.shoot.dev.shoot = s.inFlight := by
  rw [State.shoot_eq]; rfl

theorem State.ptgen_shoot : s.shoot.dev.ptgen = ptgenAfter s.dev.ptgen (bits (s.dev.reg 0x2100) 29 28) (bits (s.dev.reg 0x2100) 11 0) := by
  rw [State.shoot_eq]; rfl

theorem State.svgen_shoot : s.shoot.dev.svgen = if bits (s.dev.reg 0x2100) 29 28 = 3 then s.dev.svgen + 1#64 else s.dev.svgen := by
  rw [State.shoot_eq]; rfl

/-- A shootdown of one ASID counts its generation. -/
theorem State.generations_shoot_one (one : bits (s.dev.reg 0x2100) 29 28 ≠ 3) (a : Nat) :
    Store.get 0#64 s.shoot.dev.ptgen a = Store.get 0#64 s.dev.ptgen a + if a = bits (s.dev.reg 0x2100) 11 0 then 1#64 else 0#64 := by
  rw [State.ptgen_shoot, get_ptgenAfter_one _ one]

/-- A shootdown of SCOPE 3 counts the generation of every ASID and of the supervisor range. -/
theorem State.generations_shoot_all (all : bits (s.dev.reg 0x2100) 29 28 = 3) :
    (∀ a, a < 4096 → Store.get 0#64 s.shoot.dev.ptgen a = Store.get 0#64 s.dev.ptgen a + 1#64) ∧ s.shoot.dev.svgen = s.dev.svgen + 1#64 := by
  refine ⟨fun a listed => ?_, by rw [State.svgen_shoot, if_pos all]⟩
  rw [State.ptgen_shoot, all, get_ptgenAfter_all _ _ listed]

theorem State.me_shoot : s.shoot.me = (s.mapWhere s.shootNames Cohort.cutWindows).me := by
  rw [State.shoot_eq, State.setDev_me]

theorem State.me_shoot_mine (mine : s.shootMine s.co.asid) (present : s.me.stat ≠ .absent) : s.shoot.me = s.me.cutWindows := by
  rw [State.me_shoot, State.mapWhere_me_yes _ ((s.shootNames_iff _).2 mine) present]

theorem State.me_shoot_other (other : ¬ s.shootMine s.co.asid) : s.shoot.me = s.me := by
  rw [State.me_shoot, State.mapWhere_me_no _ (State.shootNames_of_not other)]

theorem State.co_shoot : s.shoot.co = s.co.mapWhere s.shootNames Cohort.cutWindows := by
  rw [State.shoot_eq]; rfl

theorem State.companies_shoot : s.shoot.dev.companies = s.dev.companies.map (Company.mapWhere s.shootNames Cohort.cutWindows) := by
  rw [State.shoot_eq]; rfl

variable {s} in
theorem Company.shoot_mine {c : Company} (mine : s.shootMine c.asid) :
    c.mapWhere s.shootNames Cohort.cutWindows = { c with cohorts := c.cohorts.map Cohort.cutWindows } :=
  Company.mapWhere_yes _ ((s.shootNames_iff _).2 mine)

variable {s} in
theorem Company.shoot_other {c : Company} (other : ¬ s.shootMine c.asid) : c.mapWhere s.shootNames Cohort.cutWindows = c :=
  Company.mapWhere_no _ (State.shootNames_of_not other)

/-- Each company after a shootdown is one from before, with its global windows cut if the shootdown reaches it. -/
theorem State.companies_shoot_from {h : Company} (listed : h ∈ s.shoot.dev.companies) : ∃ g ∈ s.dev.companies,
    (s.shootMine g.asid → h = { g with cohorts := g.cohorts.map Cohort.cutWindows }) ∧ (¬ s.shootMine g.asid → h = g) := by
  rw [State.companies_shoot] at listed
  obtain ⟨g, held, rfl⟩ := List.mem_map.1 listed
  exact ⟨g, held, Company.shoot_mine, Company.shoot_other⟩

theorem State.cx_shoot : s.shoot.cx = s.cx := by
  rw [State.shoot_eq, State.setDev_cx]; rfl

theorem State.turns_shoot : s.shoot.turns = s.turns := by
  rw [State.shoot_eq, State.setDev_turns]; rfl

theorem State.free_shoot : s.shoot.free = s.free := by
  rw [State.shoot_eq, State.setDev_free]; rfl

/-- What a shootdown leaves of the device. -/
theorem State.dev_shoot_rest : { s.shoot.dev with
    tlb := s.dev.tlb, ptgen := s.dev.ptgen, svgen := s.dev.svgen, shoot := s.dev.shoot, ctrl := s.dev.ctrl, companies := s.dev.companies } = s.dev := by
  rw [State.shoot_eq, State.setDev_dev]
  exact Device.rest_of_shootFields s.dev ..

end

/-- The machine once a write of the shootdown control is stored (Table 2-6). -/
def State.shootStored (s : State) (w : RegWrite) : State :=
  s.setDev (s.dev.setReg 0x2100 (ctrlMerge (s.dev.reg 0x2100) (2 ^ 30 - 2 ^ 28 + (2 ^ 12 - 1)) (2 ^ 30) w.cover w.placed))

theorem State.shootStored_regSet (s : State) (w : RegWrite) : RegSet s (s.shootStored w) 0x2100
    (ctrlMerge (s.dev.reg 0x2100) (2 ^ 30 - 2 ^ 28 + (2 ^ 12 - 1)) (2 ^ 30) w.cover w.placed) := RegSet.of_setReg ..

section
variable {w : RegWrite} (s : State) (legal : w.ok = true) (base : w.base = 0x2100)
include legal base

theorem execShootdown_eq : execShootdown w s = .next (
    if w.sets 0x2100 12 = true then
      if bit (s.dev.reg 0x2100) 31 = true then (s.shootStored w).setDev ((s.shootStored w).dev.setField 0x2100 30 30 1) else (s.shootStored w).shoot
    else s.shootStored w) := by
  have stored : s.setDev (s.dev.regStore w) = s.shootStored w := by rw [Device.regStore, if_pos legal, base]; rfl
  rw [← stored]
  exact congrArg _ (if_neg (by simp [legal, base]))

theorem RegWrite.sets_go : w.sets 0x2100 12 = true ↔ Covers w 12 ∧ w.val.testBit (12 - 8 * (w.off % 8)) = true := by
  rw [RegWrite.sets, legal, base, bit_eq_testBit, beq_self_eq_true, Bool.true_and, Bool.true_and, RegWrite.testBit_ones legal]

theorem execShootdown_idle (stay : ¬ (Covers w 12 ∧ w.val.testBit (12 - 8 * (w.off % 8)) = true)) :
    execShootdown w s = .next (s.shootStored w) := by
  rw [execShootdown_eq s legal base, if_neg ((RegWrite.sets_go legal base).not.2 stay)]

variable (go : Covers w 12 ∧ w.val.testBit (12 - 8 * (w.off % 8)) = true)
include go

/-- GO while BUSY sets ERR. -/
theorem execShootdown_busy (busy : (s.dev.reg 0x2100).testBit 31 = true) : ∃ t, execShootdown w s = .next t ∧
    RegSet (s.shootStored w) t 0x2100 (putBits ((s.shootStored w).dev.reg 0x2100) 30 30 1) := by
  rw [execShootdown_eq s legal base, if_pos ((RegWrite.sets_go legal base).2 go), bit_eq_testBit, if_pos busy]
  exact ⟨_, rfl, RegSet.of_setField ..⟩

theorem execShootdown_go (free : (s.dev.reg 0x2100).testBit 31 = false) : execShootdown w s = .next (s.shootStored w).shoot := by
  rw [execShootdown_eq s legal base, if_pos ((RegWrite.sets_go legal base).2 go), bit_eq_testBit, if_neg (by simp [free])]

end

/-- What was translated before GO has completed or failed, and BUSY stands (R43). -/
def State.shootEnded (s : State) : Prop := (s.dev.reg 0x2100).testBit 31 = true ∧ ∀ i ∈ s.dev.shoot, i ∉ s.inFlight

theorem State.shootEnded_iff (s : State) :
    (bit (s.dev.reg 0x2100) 31 = true ∧ (!(s.dev.shoot.any fun i => s.inFlight.contains i)) = true) ↔ s.shootEnded := by
  simp [State.shootEnded, bit_eq_testBit]

theorem execShootdownComplete_waits {s : State} (h : ¬ s.shootEnded) : execShootdownComplete s = .next s :=
  congrArg _ (if_neg (s.shootEnded_iff.not.2 h))

theorem execShootdownComplete_ends {s : State} (h : s.shootEnded) :
    execShootdownComplete s = .next (s.setDev ({ s.dev with shoot := [] }.setField 0x2100 31 31 0)) :=
  congrArg _ (if_pos (s.shootEnded_iff.2 h))

end Sys2Proof.Machine
end

section
/-!
SUPPORT. The page pools: what a push and a pop leave (R53, R54).
-/
namespace Sys2Proof.Machine

/-! ## Pushes to the page pools (R53) -/

/-- A cohort that waits for the pool waits no more (Table 2-9). -/
def Cohort.wakePool (c : Cohort) : Cohort := if c.wait = .pool then { c with wait := .none } else c

theorem Cohort.wakePool_again (c : Cohort) : c.wakePool.wakePool = c.wakePool := by
  by_cases waits : c.wait = .pool <;> simp [Cohort.wakePool, waits]

theorem Cohort.wakePool_stat (c : Cohort) : c.wakePool.stat = c.stat := by
  unfold Cohort.wakePool; split <;> rfl

theorem Cohort.wakePool_rest (c : Cohort) : { c.wakePool with wait := c.wait } = c := by
  unfold Cohort.wakePool; split <;> rfl

theorem State.wakePool_eq (s : State) : s.wakePool = s.mapWhere s.hasContext Cohort.wakePool :=
  List.foldl_map.symm.trans (State.foldl_mapCohorts Cohort.wakePool_again Cohort.wakePool_stat _ s)

section
variable (s : State)

/-- Waking the cohorts that wait for the pool moves their waits alone. -/
theorem State.wakePool_rest : { s.wakePool.co with cohorts := s.co.cohorts } = s.co ∧ { s.wakePool.me with wait := s.me.wait } = s.me ∧
    { s.wakePool.dev with companies := s.dev.companies } = s.dev ∧
    s.wakePool.cx = s.cx ∧ s.wakePool.turns = s.turns ∧ s.wakePool.free = s.free := by
  rw [State.wakePool_eq]
  refine ⟨Company.mapWhere_rest .., ?_, rfl, rfl, rfl, rfl⟩
  rcases s.mapWhere_me_cases s.hasContext Cohort.wakePool with woken | same
  · rw [woken, Cohort.wakePool_rest]
  · rw [same]

/-- The cohorts of a context that exists wait for the pool no more. -/
theorem State.wakePool_wakes {c : Context} (listed : c ∈ s.contexts) (own : c.asid = s.co.asid) :
    s.wakePool.co.cohorts = s.co.cohorts.map Cohort.wakePool ∧ (s.me.stat ≠ .absent → s.wakePool.me = s.me.wakePool) := by
  have named : s.hasContext s.co.asid = true := (s.hasContext_iff _).2 ⟨c, listed, own⟩
  rw [State.wakePool_eq]
  exact ⟨congrArg Company.cohorts (Company.mapWhere_yes Cohort.wakePool named), State.mapWhere_me_yes Cohort.wakePool named⟩

theorem State.wakePool_kept : s.wakePool.dev.pool2m = s.dev.pool2m ∧ s.wakePool.dev.pool64k = s.dev.pool64k ∧
    s.wakePool.dev.byte = s.dev.byte ∧ s.wakePool.dev.badAt = s.dev.badAt := by
  rw [State.wakePool_eq]; exact ⟨rfl, rfl, rfl, rfl⟩

end

/-- The bytes of a frame of a pool: 2 MiB or 64 KiB. -/
def frameLen (big : Bool) : Nat := if big then 0x200000 else 0x10000

/-- The pool of the 2 MiB frames or of the 64 KiB frames. -/
def Device.pool (d : Device) (big : Bool) : List Nat := if big then d.pool2m else d.pool64k

/-- The row of a push. -/
def pushRow (big : Bool) (w : RegWrite) : Instr := if big then .pgpush2m w else .pgpush64k w

/-- A push is refused: the pool is full, the frame unaligned or outside HBM4 (R53). -/
def Device.refuses (d : Device) (big : Bool) (f : Nat) : Prop :=
  (if big then 256 else 4096) ≤ (d.pool big).length ∨ f % frameLen big ≠ 0 ∨ hbmEnd < f + frameLen big

/-- The device with a frame zeroed and pushed. -/
def Device.pushed (d : Device) (big : Bool) (f : Nat) : Device :=
  { d.zero f (frameLen big) with
    pool2m := if big then d.pool2m ++ [f] else d.pool2m
    pool64k := if big then d.pool64k else d.pool64k ++ [f] }

section
variable {big : Bool} {w : RegWrite} {s : State} (base : w.base = if big then 0x2318 else 0x2310) (legal : w.ok = true)
include base legal

theorem exec_push_refused (bad : s.dev.refuses big w.ones) : exec (pushRow big w) s = .next (s.setDev s.dev.refusePush) := by
  cases big
  all_goals
    refine congrArg _ ((if_neg (by simpa [legal] using base)).trans (if_pos ?_))
    simpa [Device.refuses, Device.pool, frameLen, inHbm] using bad

theorem exec_push_accepted (good : ¬ s.dev.refuses big w.ones) :
    exec (pushRow big w) s = .next (s.setDev (s.dev.pushed big w.ones)).wakePool := by
  cases big
  all_goals
    refine congrArg _ ((if_neg (by simpa [legal] using base)).trans (if_neg ?_))
    simpa [Device.refuses, Device.pool, frameLen, inHbm] using good

end

section
variable {s : State} {big : Bool} {f : Nat}

theorem Device.badAt_pushed (good : ¬ s.dev.refuses big f) (a : Nat) :
    (s.dev.pushed big f).badAt a = if f ≤ a ∧ a < f + frameLen big then false else s.dev.badAt a := by
  have whole : 16 ∣ frameLen big := by cases big <;> decide
  have aligned : f % frameLen big = 0 := by_contra fun h => good (.inr (.inl h))
  exact s.dev.badAt_zero (whole.trans (Nat.dvd_of_mod_eq_zero aligned)) whole a

end

/-- Giving the fields that a push sets their earlier values leaves the device as it was. -/
theorem Device.rest_of_pushed {d e : Device} {big : Bool} {f : Nat} (h : { e with companies := d.companies } = d.pushed big f) :
    { e with mem := d.mem, bad := d.bad, halls := d.halls, pool2m := d.pool2m, pool64k := d.pool64k, companies := d.companies } = d :=
  congrArg (fun x : Device => { x with mem := d.mem, bad := d.bad, halls := d.halls, pool2m := d.pool2m, pool64k := d.pool64k }) h

/-! ## Pops from the page pools (R54) -/

/-- The row of a pop. -/
def popRow (big : Bool) (a : Agent) : Instr := if big then .pgpop2m a else .pgpop64k a

/-- The device with the first frame of a pool taken out. -/
def Device.popped (d : Device) (big : Bool) : Device :=
  { d with pool2m := if big then d.pool2m.drop 1 else d.pool2m, pool64k := if big then d.pool64k else d.pool64k.drop 1 }

/-- What a load of a pool reads (Table 2-10). -/
def frameWord : List Nat → Nat
  | [] => 0
  | f :: _ => 2 ^ 63 + f

theorem Device.popped_empty {d : Device} {big : Bool} (empty : d.pool big = []) : d.popped big = d := by
  cases d; cases big <;> cases empty <;> rfl

theorem Device.pop64k_eq (d : Device) : d.pop64k = ((d.popped false).afterPop true d.pool64k.isEmpty, frameWord d.pool64k) := by
  unfold Device.pop64k
  split
  case h_1 f fs frames => rw [Device.popped, frames]; rfl
  case h_2 none => rw [Device.popped_empty (big := false) none, none]; rfl

theorem Device.pop2m_eq (d : Device) : d.pop2m = ((d.popped true).afterPop false d.pool2m.isEmpty, frameWord d.pool2m) := by
  unfold Device.pop2m
  split
  case h_1 f fs frames => rw [Device.popped, frames]; rfl
  case h_2 none => rw [Device.popped_empty (big := true) none, none]; rfl

theorem exec_pop (big : Bool) (a : Agent) (s : State) : exec (popRow big a) s =
    .next (s.setDev { (s.dev.popped big).afterPop (!big) (s.dev.pool big).isEmpty with hostRead := some (leBytes 8 (frameWord (s.dev.pool big))) }) := by
  cases big
  · change Host.Outcome.next (s.setDev { s.dev.pop64k.1 with hostRead := some (leBytes 8 s.dev.pop64k.2) }) = _
    rw [Device.pop64k_eq]; rfl
  · change Host.Outcome.next (s.setDev { s.dev.pop2m.1 with hostRead := some (leBytes 8 s.dev.pop2m.2) }) = _
    rw [Device.pop2m_eq]; rfl

/-- The frames below which a pool is low. -/
def lowMark (big : Bool) : Nat := if big then 64 else 1024

theorem Device.length_pool_popped (d : Device) (big : Bool) : ((d.popped big).pool big).length = (d.pool big).length - 1 := by
  cases big <;> exact List.length_drop

theorem Device.afterPop_eq (d : Device) (big empty : Bool) : d.afterPop (!big) empty =
    let e := if empty then d.setReg 0x2320 (d.reg 0x2320 ||| if big then 2 ^ 30 else 2 ^ 31) else d
    if (d.pool big).length < lowMark big then (e.setReg 0x2320 (e.reg 0x2320 ||| 2 ^ 28)).postPool else e := by
  cases big <;> cases empty <;> rfl

theorem RegSet.of_or (s : State) (d : Device) (o x : Nat) : RegSet (s.setDev d) (s.setDev (d.setReg o (d.reg o ||| x))) o (d.reg o ||| x) :=
  RegSet.of_setReg (s.setDev d) ..

/-- A pop that leaves the pool low sets EMPTY, if it found the pool empty, and LOW, and sends the pool-low event. -/
theorem Device.afterPop_low (s : State) {d : Device} {big : Bool} (low : (d.pool big).length < lowMark big) (empty : Bool) :
    ∃ u, RegSet (s.setDev d) u 0x2320 (d.reg 0x2320 ||| ((if empty then (if big then 2 ^ 30 else 2 ^ 31) else 0) ||| 2 ^ 28)) ∧
      d.afterPop (!big) empty = u.dev.postPool := by
  rw [Device.afterPop_eq]
  dsimp only
  rw [if_pos low]
  refine ⟨s.setDev _, ?_, rfl⟩
  cases empty
  · simp only [Bool.false_eq_true, if_false, Nat.zero_or]
    exact RegSet.of_or ..
  · have both := (RegSet.of_or s d 0x2320 (if big then 2 ^ 30 else 2 ^ 31)).trans (RegSet.of_or s _ 0x2320 (2 ^ 28))
    exact ⟨both.value.trans (by rw [Device.reg_setReg, if_pos rfl, Nat.or_assoc]; rfl), both.others, both.rest⟩

theorem Device.post_pools (d : Device) (type qid csn d0 d1 : Nat) :
    (d.post type qid csn d0 d1).pool2m = d.pool2m ∧ (d.post type qid csn d0 d1).pool64k = d.pool64k := by
  have putP (e : Device) (a : Nat) (bs : List Byte) : (e.putP a bs 0#64).pool2m = e.pool2m ∧ (e.putP a bs 0#64).pool64k = e.pool64k :=
    ⟨(congrArg Device.pool2m (putP_elsewhere e a bs 0#64) : _), (congrArg Device.pool64k (putP_elsewhere e a bs 0#64) : _)⟩
  unfold Device.post
  dsimp only
  split
  · exact putP { d with enum := d.enum + 1 } ..
  · split <;> exact ⟨rfl, rfl⟩

theorem Device.postPool_pools (d : Device) : d.postPool.pool2m = d.pool2m ∧ d.postPool.pool64k = d.pool64k := Device.post_pools ..

/-- The machine with the frame of a pop given to who loads it. -/
def State.handed (s : State) (d : Device) (big : Bool) : State :=
  s.setDev { d with hostRead := some (leBytes 8 (frameWord (s.dev.pool big))) }

theorem exec_pop_plenty {s : State} {big : Bool} (a : Agent) (plenty : lowMark big < (s.dev.pool big).length) :
    exec (popRow big a) s = .next (s.handed (s.dev.popped big) big) := by
  have filled : (s.dev.pool big).isEmpty = false := List.isEmpty_eq_false_iff_exists_mem.2 ⟨_, List.getElem_mem (by omega : 0 < _)⟩
  rw [exec_pop, Device.afterPop_eq, Device.length_pool_popped, filled]
  dsimp only
  rw [if_neg (by omega), if_neg Bool.false_ne_true]
  rfl

theorem exec_pop_low {s : State} {big : Bool} (a : Agent) (low : (s.dev.pool big).length ≤ lowMark big) :
    ∃ u, RegSet (s.setDev (s.dev.popped big)) u 0x2320
        (s.dev.reg 0x2320 ||| ((if s.dev.pool big = [] then (if big then 2 ^ 30 else 2 ^ 31) else 0) ||| 2 ^ 28)) ∧
      exec (popRow big a) s = .next (s.handed u.dev.postPool big) := by
  have left : ((s.dev.popped big).pool big).length < lowMark big := by
    have positive : 0 < lowMark big := by cases big <;> decide
    rw [Device.length_pool_popped]; omega
  obtain ⟨u, marked, after⟩ := Device.afterPop_low s left (s.dev.pool big).isEmpty
  simp only [List.isEmpty_iff] at marked
  exact ⟨u, marked, by rw [exec_pop, after]; rfl⟩

end Sys2Proof.Machine
end

section
/-!
The carve, shootdowns and page pools, row by row (R22, R23, R43, R53, R54).
-/
namespace Sys2Proof.Machine

/-- Settles O44, row by row. The refusal of a push with bits outside FRAME (log entry 66) and the write of ASCARVE that leaves UNITS alone while BUSY
(log entry 75) are choices of the model that the statement takes over. -/
theorem pages : Obligations.Pages := by
  unfold Obligations.Pages
  refine ⟨fun w s base legal => ⟨s.carveKept w, s.carveStored w, (s.carveKept_regSet w).written legal, s.carveStored_written legal, ?_⟩,
    fun s => ?_, fun s busy => ?_, fun w s base legal => ⟨s.shootStored w, (s.shootStored_regSet w).written legal, ?_⟩, fun s => ?_,
    fun big w s base legal => ?_, fun big a s => ?_⟩
  · rw [exec_ascarveWrite, s.units_carveStored w]
    exact ⟨execAscarveWrite_uncovered legal base, execAscarveWrite_refused legal base, execAscarveWrite_same legal base,
      execAscarveWrite_change legal base⟩
  · rw [exec_carveChangeDone, execCarveChangeDone_eq, ← Device.carving_iff]
    by_cases busy : s.dev.carving = true
    · exact .inr busy
    · exact .inl (by rw [if_neg busy])
  · rw [exec_carveChangeDone, execCarveChangeDone_eq, if_pos ((Device.carving_iff _).2 busy)]
    refine ⟨s.carveDone, rfl, ?_, fun o other => ?_, s.byte_carveDone, s.badAt_carveDone, s.cell_carveDone, rfl, rfl, rfl⟩
    · rw [State.reg_carveDone, if_pos rfl]
    · rw [State.reg_carveDone, if_neg other]
  · have va : (s.shootStored w).dev.reg 0x2108 = s.dev.reg 0x2108 := (s.shootStored_regSet w).others _ (by decide)
    have len : (s.shootStored w).dev.reg 0x2110 = s.dev.reg 0x2110 := (s.shootStored_regSet w).others _ (by decide)
    have scope : bits ((s.shootStored w).dev.reg 0x2100) 29 28 < 4 := Nat.mod_lt _ (by decide)
    rw [exec_shootdown]
    refine ⟨execShootdown_idle s legal base, execShootdown_busy s legal base, fun go free => ⟨_, execShootdown_go s legal base go free,
      fun e => ?_, State.generations_shoot_one _, State.generations_shoot_all _, fun one => ?_, State.shoot_shoot _, ?_, fun o other => ?_,
      State.me_shoot_mine _, State.me_shoot_other _, fun mine => ?_, fun other => ?_, fun h => State.companies_shoot_from _, ?_, ?_,
      State.cx_shoot _, State.turns_shoot _, State.free_shoot _⟩⟩
    · rw [State.mem_tlb_shoot, TlbEntry.covered_iff e scope, va, len]; rfl
    · rw [State.svgen_shoot, if_neg one]; rfl
    · rw [State.reg_shoot, if_pos rfl]
    · rw [State.reg_shoot, if_neg other]; exact (s.shootStored_regSet w).others o other
    · rw [State.co_shoot]; exact Company.shoot_mine mine
    · rw [State.co_shoot]; exact Company.shoot_other other
    · rw [State.companies_shoot]; exact List.length_map _
    · exact congrArg (fun d : Device => { d with ctrl := s.dev.ctrl }) (State.dev_shoot_rest (s.shootStored w))
  · rw [exec_shootdownComplete]
    exact ⟨execShootdownComplete_waits, fun ended =>
      ⟨_, execShootdownComplete_ends ended, rfl, RegSet.of_setField { s with dev := { s.dev with shoot := [] } } ..⟩⟩
  · rw [← RegWrite.ones_eq legal]
    refine ⟨fun bad => ⟨_, exec_push_refused base legal bad, RegSet.of_setField ..⟩, fun good => ?_⟩
    obtain ⟨co, me, dev, cx, turns, free⟩ := (s.setDev (s.dev.pushed big w.ones)).wakePool_rest
    obtain ⟨pool2m, pool64k, bytes, poison⟩ := (s.setDev (s.dev.pushed big w.ones)).wakePool_kept
    refine ⟨_, exec_push_accepted base legal good, ?_, ?_, ?_, ?_, ?_, ?_, co, me, cx, turns, free⟩
    · rw [pool2m]; cases big <;> rfl
    · rw [pool64k]; cases big <;> rfl
    · rw [bytes]; exact s.dev.byte_zero w.ones (frameLen big)
    · rw [poison]; exact Device.badAt_pushed good
    · exact Device.rest_of_pushed dev
    · exact fun c listed own => (s.setDev (s.dev.pushed big w.ones)).wakePool_wakes listed own
  · have pool2m : (s.dev.popped big).pool2m = if big then (s.dev.pool big).drop 1 else s.dev.pool2m := by cases big <;> rfl
    have pool64k : (s.dev.popped big).pool64k = if big then s.dev.pool64k else (s.dev.pool big).drop 1 := by cases big <;> rfl
    rcases Nat.lt_or_ge (lowMark big) (s.dev.pool big).length with plenty | low
    · exact ⟨_, exec_pop_plenty a plenty, rfl, pool2m, pool64k, fun _ => rfl, fun low => absurd plenty (Nat.not_lt.2 low)⟩
    · obtain ⟨u, marked, popped⟩ := exec_pop_low a low
      have kept2m := (Device.postPool_pools u.dev).1.trans (congrArg (·.dev.pool2m) marked.rest)
      have kept64k := (Device.postPool_pools u.dev).2.trans (congrArg (·.dev.pool64k) marked.rest)
      refine ⟨_, popped, rfl, kept2m.trans pool2m, kept64k.trans pool64k, fun plenty => absurd plenty (Nat.not_lt.2 low), fun _ => ⟨u, ?_, rfl⟩⟩
      have same : { s.dev with pool2m := u.dev.postPool.pool2m, pool64k := u.dev.postPool.pool64k } = s.dev.popped big := by
        rw [kept2m, kept64k]; rfl
      exact same ▸ marked

end Sys2Proof.Machine
end

section
/-!
The machine at reset (R14, R21, R51, R134, R343, R404).
-/
namespace Sys2Proof.Machine

/-- Settles O60 by looking each key up in the tables of `State.reset`; that unwritten memory reads 0 is the choice of log entry 1. -/
theorem reset : Obligations.Reset := by
  unfold Obligations.Reset
  refine ⟨rfl, rfl, fun o inside off acc => ?_, fun q listed => ?_, rfl, rfl, rfl, rfl, rfl, rfl, rfl, rfl, rfl, fun _ => rfl, fun _ => rfl, rfl, rfl⟩
  · have pending : o ≠ 0x40070020 := by omega
    change Store.get 0 ctrlReset o = 0
    simp only [ctrlReset, Store.get, if_neg off, if_neg acc, if_neg pending]
  · change (List.getD (List.replicate 64 Port.off) q Port.off).state = 0
    rw [List.getD_replicate _ listed]; rfl

end Sys2Proof.Machine
end

section
/-!
SUPPORT. Filling a window (R39, R271, R272): the record that each fill gives, when a global fill may translate its base, and what it leaves.
-/
namespace Sys2Proof.Machine

/-! ## Setting one window -/

/-- An instruction retires with one window set and the device replaced, and leaves every other window and the rest of the state. -/
def SetsWindow (s : State) (i : Instr) (k : Nat) (d : Device) (x : Window) : Prop :=
  ∃ t, exec i s = .next t ∧ Retired s t 4 ∧ t.me.window k = x ∧ (∀ r, r ≠ k → t.me.window r = s.me.window r) ∧
    { t.me.quiet with win := s.me.win } = s.me.quiet ∧ t.dev = d ∧ t.co = s.co ∧ t.cx = s.cx ∧ t.turns = s.turns ∧ t.free = s.free

theorem SetsWindow.of_exec {s : State} {i : Instr} {k : Nat} {d : Device} {x : Window}
    (h : exec i s = .next (((s.setDev d).setMe (s.me.winput k x)).retire 4)) : SetsWindow s i k d x := by
  have read (r : Nat) : ((((s.setDev d).setMe (s.me.winput k x)).retire 4).me).window r = if r = k then x else s.me.window r :=
    Cohort.window_winput ..
  exact ⟨_, h, ⟨rfl, rfl, rfl⟩, (read k).trans (if_pos rfl), fun r other => (read r).trans (if_neg other), rfl, rfl, rfl, rfl, rfl, rfl⟩

/-! ## The windows that fills give -/

/-- A window of a kind and a base for the current context, with nothing mapped (Table 2-5). -/
def State.freshWindow (s : State) (kind addr : Nat) : Window :=
  { kind := kind, base := BitVec.ofNat 56 addr, pa := 0#58, limit := 0#32, rp := false, wp := false
    dt := false, asid := BitVec.ofNat 12 s.co.asid, gen := ptgenOf s.dev addr s.co.asid }

theorem State.deadWindow_eq (s : State) (kind : Nat) {addr : Nat} (h : addr < 2 ^ 56) :
    s.deadWindow kind (BitVec.ofNat 56 addr) = s.freshWindow kind addr := by
  rw [State.deadWindow, BitVec.toNat_ofNat, Nat.mod_eq_of_lt h]; rfl

theorem State.fillStore_eq (s : State) (kind len : Nat) (base : Word) :
    s.fillStore kind len base = { s.freshWindow kind base.toNat with limit := BitVec.ofNat 32 (len - base.toNat) } := by
  have small : base.toNat < 2 ^ 56 := by have := base.isLt; omega
  rw [← s.deadWindow_eq kind small, BitVec.ofNat_toNat]; rfl

/-! ## Local-store and atrium-store windows -/

section
variable (f : Bool) (w : BitVec 3) {a : Reg} {s : State}

theorem winv_sets : SetsWindow s (.winv f w) w.toNat s.dev Window.empty := .of_exec rfl

theorem exec_winvAll : exec (.winvAll f) s = .next ((s.setMe { s.me with win := [] }).retire 4) := rfl

variable (clean : s.me.spoison a.toNat = false)
include clean

theorem wsetL_sets : SetsWindow s (.wsetL f w a) w.toNat s.dev { s.freshWindow 2 (s.me.sget a.toNat).toNat with
    limit := BitVec.ofNat 32 (s.co.lsLen - (s.me.sget a.toNat).toNat) } := by
  rw [← State.fillStore_eq]
  exact .of_exec (congrArg _ (scalarOp_ready _ _ _ _ (by simpa using clean)))

theorem exec_wsetA_waits (held : asidHeld s.dev s.co.asid = true) : exec (.wsetA f w a) s = .next s :=
  congrArg _ (if_pos ⟨held, clean⟩)

theorem wsetA_sets (free : asidHeld s.dev s.co.asid = false) : SetsWindow s (.wsetA f w a) w.toNat s.dev
    { s.freshWindow 3 (s.me.sget a.toNat).toNat with limit := BitVec.ofNat 32 (asLen s.dev s.co.asid - (s.me.sget a.toNat).toNat) } := by
  rw [← State.fillStore_eq]
  exact .of_exec (congrArg _ ((if_neg (by simp [free])).trans (scalarOp_ready _ _ _ _ (by simpa using clean))))

end

/-! ## Global windows -/

theorem isSup_iff {va : Nat} (h : va < 2 ^ 56) : isSup va = true ↔ 2 ^ 55 ≤ va := by
  rw [isSup, bit, beq_iff_eq]; omega

/-- A global fill translates its base: an address of the virtual space, with a lane active, and of the supervisor range only at
supervisor privilege (R27, R39). -/
def State.translates (s : State) (va : Nat) : Prop := va < 2 ^ 56 ∧ s.me.act ≠ 0#64 ∧ (va < 2 ^ 55 ∨ s.me.priv = true)

/-- How the walk of a global fill ends: a fill translates its base as a load (R39). -/
def State.fillWalk (s : State) (va : Nat) : WalkEnd := (walkTouch s.co.asid va .load (s.dev.queued + 1) s.dev).2

section
variable {s : State}

theorem State.translates_permitted {va : Nat} (h : s.translates va) : ¬ (isSup va = true ∧ s.me.priv = false) := by
  obtain ⟨small, -, low | priv⟩ := h
  · rw [isSup_iff small]; omega
  · simp [priv]

/-- A fill waits for a line in E where it walks and the walk meets one, and nowhere else (R83). -/
theorem State.fillWaits_iff {va : Nat} : s.fillWaits va = true ↔
    s.translates va ∧ tlbFind s.dev s.co.asid va .load = none ∧ s.fillWalk va = .waits := by
  unfold State.fillWaits State.translates State.fillWalk
  simp only [Bool.and_eq_true, Bool.or_eq_true, Bool.not_eq_true', decide_eq_true_eq, bne_iff_ne, Option.isNone_iff_eq_none, beq_iff_eq, and_assoc]
  refine and_congr_right fun small => ?_
  have range : isSup va = false ↔ va < 2 ^ 55 := by rw [Bool.eq_false_iff, Ne, isSup_iff small, Nat.not_le]
  rw [range]

theorem State.fillWaits_false {va : Nat} (h : s.translates va → tlbFind s.dev s.co.asid va .load = none → s.fillWalk va ≠ .waits) :
    s.fillWaits va = false := by
  refine Bool.eq_false_iff.2 fun held => ?_
  obtain ⟨loads, miss, waits⟩ := State.fillWaits_iff.1 held
  exact h loads miss waits

theorem State.not_translates {va : Nat} (barred : s.me.act = 0#64 ∨ 2 ^ 55 ≤ va ∧ s.me.priv = false) : ¬ s.translates va := by
  rintro ⟨-, active, range⟩
  rcases barred with idle | ⟨sup, user⟩
  · exact active idle
  · rcases range with low | priv
    · omega
    · exact Bool.false_ne_true (user.symm.trans priv)

theorem State.fillGlobal_beyond {x : DWord} (h : 2 ^ 56 ≤ x.toNat) : s.fillGlobal x = (s, s.freshWindow 0 0) :=
  if_pos h

theorem State.fillGlobal_barred {x : DWord} (small : x.toNat < 2 ^ 56) (barred : s.me.act = 0#64 ∨ 2 ^ 55 ≤ x.toNat ∧ s.me.priv = false) :
    s.fillGlobal x = (s, s.freshWindow 1 x.toNat) := by
  rw [← isSup_iff small] at barred
  rw [← s.deadWindow_eq 1 small]
  exact (if_neg (by omega)).trans (if_pos barred)

variable {x : DWord} (loads : s.translates x.toNat)
include loads

theorem State.fillGlobal_hit {e : TlbEntry} (hit : tlbFind s.dev s.co.asid x.toNat .load = some e) :
    s.fillGlobal x = (s, s.liveWindow x.toNat e.home e.off e.size e.va e.w e.d) := by
  have permitted := s.translates_permitted loads
  obtain ⟨small, active, -⟩ := loads
  simp only [State.fillGlobal, Nat.not_le.2 small, active, permitted, hit, or_self, if_false]

variable (miss : tlbFind s.dev s.co.asid x.toNat .load = none)
include miss

/-- A fill that walks leaves the device as a load's translation of its base does. -/
theorem State.fillGlobal_looks :
    (s.fillGlobal x).1 = s.setDev (translate s.dev s.co.asid s.me.priv .load .plain x.toNat).1 := by
  have permitted := s.translates_permitted loads
  have allowed : (isSup x.toNat && !s.me.priv) = false := by simpa using permitted
  obtain ⟨small, active, -⟩ := loads
  simp only [State.fillGlobal, translate, Nat.not_le.2 small, active, permitted, allowed, miss, or_self, if_false, Bool.false_eq_true]
  cases (walkTouch s.co.asid x.toNat .load (s.dev.queued + 1) s.dev).2 with
  | leaf addr raw level => cases readable : bit raw 1 <;> simp [permits, readable]
  | absent fp level => rfl
  | mal level => rfl
  | waits => rfl

theorem State.fillGlobal_leaf {addr raw level : Nat} (leaf : s.fillWalk x.toNat = .leaf addr raw level) (readable : bit raw 1 = true) :
    (s.fillGlobal x).2 = s.liveWindow x.toNat (bits raw 57 48) (leafFrame raw) (2 ^ pageBits level)
      (x.toNat / 2 ^ pageBits level * 2 ^ pageBits level) (bit raw 2) (bit raw 6) := by
  have permitted := s.translates_permitted loads
  obtain ⟨small, active, -⟩ := loads
  rw [State.fillWalk] at leaf
  simp only [State.fillGlobal, Nat.not_le.2 small, active, permitted, miss, leaf, readable, or_self, if_false, if_true]

/-- A walk that finds no leaf with R = 1 gives a window with LIMIT 0 (R39). -/
theorem State.fillGlobal_unreadable (unreadable : ∀ addr raw level, s.fillWalk x.toNat = .leaf addr raw level → bit raw 1 = false) :
    (s.fillGlobal x).2 = s.freshWindow 1 x.toNat := by
  have permitted := s.translates_permitted loads
  obtain ⟨small, active, -⟩ := loads
  rw [← s.deadWindow_eq 1 small]
  simp only [State.fillWalk] at unreadable
  simp only [State.fillGlobal, Nat.not_le.2 small, active, permitted, miss, or_self, if_false]
  cases found : (walkTouch s.co.asid x.toNat .load (s.dev.queued + 1) s.dev).2 with
  | leaf addr raw level => simp [unreadable addr raw level found]
  | absent fp level => rfl
  | mal level => rfl
  | waits => rfl

end

theorem pageBits_size (level : Nat) :
    2 ^ pageBits level = if level = 3 then 2 ^ 30 else if level = 2 then 2 ^ 21 else 2 ^ 16 := by
  unfold pageBits; (repeat' split) <;> rfl

section
variable (f : Bool) (w : BitVec 3) {a : Reg} {s : State}

theorem exec_wsetG_poisoned (bad : s.me.spoison a.toNat = true ∨ s.me.spoison (a.toNat + 1) = true) :
    exec (.wsetG f w a) s = .next (s.queueTrap 6 1 s.me.present 0) :=
  congrArg _ (if_pos (Bool.or_eq_true_iff.2 bad))

variable (low : s.me.spoison a.toNat = false) (high : s.me.spoison (a.toNat + 1) = false)
include low high

theorem exec_wsetG_waits (held : s.fillWaits (s.me.sget64 a.toNat).toNat = true) : exec (.wsetG f w a) s = .next s :=
  congrArg _ ((if_neg (by simp [low, high])).trans (if_pos held))

theorem exec_wsetG (free : s.fillWaits (s.me.sget64 a.toNat).toNat = false) : exec (.wsetG f w a) s =
    .next (((s.fillGlobal (s.me.sget64 a.toNat)).1.setMe
      ((s.fillGlobal (s.me.sget64 a.toNat)).1.me.winput w.toNat (s.fillGlobal (s.me.sget64 a.toNat)).2)).retire 4) :=
  congrArg _ ((if_neg (by simp [low, high])).trans (if_neg (by simp [free])))

theorem wsetG_sets (free : s.fillWaits (s.me.sget64 a.toNat).toNat = false) {d : Device}
    (looks : (s.fillGlobal (s.me.sget64 a.toNat)).1 = s.setDev d) :
    SetsWindow s (.wsetG f w a) w.toNat d (s.fillGlobal (s.me.sget64 a.toNat)).2 :=
  .of_exec ((exec_wsetG f w low high free).trans (by rw [looks]; rfl))

/-- A fill that leaves the device as it is. -/
theorem wsetG_sets_here (free : s.fillWaits (s.me.sget64 a.toNat).toNat = false) {x : Window}
    (fill : s.fillGlobal (s.me.sget64 a.toNat) = (s, x)) : SetsWindow s (.wsetG f w a) w.toNat s.dev x := by
  have sets := wsetG_sets f w low high free (d := s.dev) (congrArg Prod.fst fill)
  rwa [fill] at sets

/-- A fill whose base misses the TLB, and whose walk does not wait, does what a load's translation does to the device. -/
theorem wsetG_sets_walked (loads : s.translates (s.me.sget64 a.toNat).toNat)
    (miss : tlbFind s.dev s.co.asid (s.me.sget64 a.toNat).toNat .load = none) (ends : s.fillWalk (s.me.sget64 a.toNat).toNat ≠ .waits)
    {x : Window} (fill : (s.fillGlobal (s.me.sget64 a.toNat)).2 = x) : ∃ d, SetsWindow s (.wsetG f w a) w.toNat d x ∧ Looked s.dev d := by
  subst fill
  exact ⟨_, wsetG_sets f w low high (State.fillWaits_false fun _ _ => ends) (State.fillGlobal_looks loads miss), Looked.translate ..⟩

end

end Sys2Proof.Machine
end

section
/-!
SUPPORT. Prefetches and the freeing of names (R270, R315): what bringing lines into the caches leaves, and which names VFREE frees.
-/
namespace Sys2Proof.Machine

/-! ## Prefetching lines -/

theorem Device.prefetch_eq (d : Device) (hall level : Nat) (l : Loc) : d.prefetch hall level l = d.withCaches (d.prefetch hall level l) := by
  cases l with
  | mem off => unfold Device.prefetch; dsimp only; split <;> rfl
  | _ => rfl

/-- The device once the lines that a PREF reaches are in the caches. -/
def Device.prefetchAll (d : Device) (hall level : Nat) (cs : List LaneChk) : Device :=
  cs.foldl (fun (d : Device) c => d.prefetch hall level c.out.loc) d

/-- Prefetching changes the caches and the directory alone (R270). -/
theorem Device.prefetchAll_eq (hall level : Nat) (cs : List LaneChk) : ∀ d : Device,
    d.prefetchAll hall level cs = d.withCaches (d.prefetchAll hall level cs) := by
  induction cs with
  | nil => intro d; rfl
  | cons c cs ih =>
    intro d
    calc d.prefetchAll hall level (c :: cs)
      _ = (d.prefetch hall level c.out.loc).prefetchAll hall level cs := rfl
      _ = (d.prefetch hall level c.out.loc).withCaches ((d.prefetch hall level c.out.loc).prefetchAll hall level cs) := ih _
      _ = (d.withCaches (d.prefetch hall level c.out.loc)).withCaches ((d.prefetch hall level c.out.loc).prefetchAll hall level cs) :=
        congrArg (fun e : Device => e.withCaches _) (d.prefetch_eq hall level c.out.loc)

/-- The checks of a PREF: through a global window each active lane's, through another none. -/
def State.prefChecks (s : State) (w : BitVec 3) (a : Reg) : State × List LaneChk :=
  if (s.me.window w.toNat).kind = 1 then s.checkLanes w.toNat .prefetch .plain ((s.me.offsets false a).map fun x => (x.1, x.2, 1))
  else (s, [])

theorem State.prefChecks_checked (s : State) (w : BitVec 3) (a : Reg) : LaneChecked s (s.prefChecks w a).1 := by
  unfold State.prefChecks
  split
  · exact State.checkLanes_does ..
  · exact ⟨.same _, fun _ => rfl, rfl⟩

theorem State.prefChecks_dropped {s : State} {w : BitVec 3} (a : Reg) (h : (s.me.window w.toNat).kind ≠ 1) : s.prefChecks w a = (s, []) :=
  if_neg h

/-- A PREF waits only for a check through a global window. -/
theorem State.prefChecks_end {s : State} {w : BitVec 3} (a : Reg) (ends : (s.me.window w.toNat).kind ≠ 1 ∨
    ∀ c ∈ (s.checkLanes w.toNat .prefetch .plain ((s.me.offsets false a).map fun x => (x.1, x.2, 1))).2, c.out ≠ .wait) :
    ∀ c ∈ (s.prefChecks w a).2, c.out ≠ .wait := by
  by_cases global : (s.me.window w.toNat).kind = 1
  · rw [State.prefChecks, if_pos global]
    exact ends.resolve_left (not_not.2 global)
  · rw [State.prefChecks_dropped a global]
    exact fun c listed => absurd listed List.not_mem_nil

/-- The state that a PREF leaves whose checks end in `u` with the targets `cs`. -/
def State.prefetched (s u : State) (a : Reg) (ma : Bool) (l : BitVec 2) (cs : List LaneChk) : State :=
  ((u.setDev (u.dev.prefetchAll s.hall l.toNat cs)).setMe
    ((u.me.unalloc (s.me.misses [a.toNat])).freeAll (if ma then [a.toNat] else []))).retire 4

theorem exec_pref (f : Bool) (w : BitVec 3) (a : Reg) (ma : Bool) (l : BitVec 2) {s : State}
    (ends : ∀ c ∈ (s.prefChecks w a).2, c.out ≠ .wait) :
    exec (.pref f w a ma l) s = .next (s.prefetched (s.prefChecks w a).1 a ma l (s.prefChecks w a).2) := by
  have goes : ¬ ((s.prefChecks w a).2.any (fun c => c.out == .wait) = true) := by simpa using ends
  exact congrArg _ (if_neg goes)

section
variable {s u : State} (a : Reg) (ma : Bool) (l : BitVec 2) (cs : List LaneChk) (h : LaneChecked s u)
include h

/-- A cohort that checks have changed frees what a PREF marks and notes its reads as before them. -/
theorem LaneChecked.pref_me : (u.me.unalloc (s.me.misses [a.toNat])).freeAll (if ma then [a.toNat] else []) =
    { s.me with v := (s.me.freeAll (if ma then [a.toNat] else [])).v, cr := (s.me.unalloc (s.me.misses [a.toNat])).cr, win := u.me.win } := by
  have noted : (u.me.unalloc (s.me.misses [a.toNat])).cr = (s.me.unalloc (s.me.misses [a.toNat])).cr :=
    Cohort.unalloc_cr _ _ (by rw [h.me]) _
  rw [Cohort.unalloc_eq, noted, h.me]
  cases ma <;> rfl

theorem LaneChecked.prefetched_me : (s.prefetched u a ma l cs).me =
    ({ s.me with v := (s.me.freeAll (if ma then [a.toNat] else [])).v, cr := (s.me.unalloc (s.me.misses [a.toNat])).cr
                 win := u.me.win } : Cohort).retire 4 :=
  congrArg (Cohort.retire · 4) (h.pref_me a ma)

theorem LaneChecked.prefetched_rest : (s.prefetched u a ma l cs).co = s.co ∧ (s.prefetched u a ma l cs).cx = s.cx ∧
    (s.prefetched u a ma l cs).turns = s.turns ∧ (s.prefetched u a ma l cs).free = s.free :=
  ⟨(congrArg State.co h.rest : _), (congrArg State.cx h.rest : _), (congrArg State.turns h.rest : _), (congrArg State.free h.rest : _)⟩

end

/-! ## Freeing names -/

theorem mem_groupNames {d n r : Nat} : r ∈ groupNames d n ↔ d ≤ r ∧ r < d + n := by
  simp only [groupNames, List.mem_map, List.mem_range]
  exact ⟨fun ⟨k, inside, at'⟩ => by omega, fun ⟨low, high⟩ => ⟨r - d, by omega, by omega⟩⟩

theorem exec_vfree (ma : Bool) (c a : Reg) (s : State) :
    exec (.vfree ma c a) s = .next ((s.setMe (s.me.freeAll (groupNames a.toNat (c.toNat + 1)))).retire 4) := rfl

/-- Names read and held after freeing and retiring (R205, R315). -/
theorem Cohort.vget_freeAll_retire (c : Cohort) (rs : List Nat) (n r : Nat) :
    ((c.freeAll rs).retire n).vget r = if r ∈ rs then VReg.zero else c.vget r := Cohort.vget_freeAll rs c r

theorem Cohort.allocated_freeAll_retire (c : Cohort) (rs : List Nat) (n r : Nat) :
    ((c.freeAll rs).retire n).allocated r = if r ∈ rs then false else c.allocated r := Cohort.allocated_freeAll rs c r

theorem Retired.of_freeAll (s : State) (rs : List Nat) (n : Nat) : Retired s ((s.setMe (s.me.freeAll rs)).retire n) n := by
  rw [Cohort.freeAll_eq]; exact ⟨rfl, rfl, rfl⟩

/-- Freeing names and retiring leaves the rest of the cohort. -/
theorem Cohort.freeAll_retire_rest (c : Cohort) (rs : List Nat) (n : Nat) : { ((c.freeAll rs).retire n).quiet with v := c.v } = c.quiet := by
  rw [Cohort.freeAll_eq]; rfl

end Sys2Proof.Machine
end

section
/-!
Windows, fences, prefetches and the freeing of names, instruction by instruction (R39, R106, R269 to R272, R315).
-/
namespace Sys2Proof.Machine

theorem exec_fence (f : Bool) (c : BitVec 2) (s : State) : exec (.fence f c) s = .next ((s.pushOp (fenceOp c.toNat)).retire 4) := rfl

/-- Settles O33, instruction by instruction. That a TLB entry serves WSET.G (log entry 25), that a dead window has PA, RP, WP and DT 0
(log entry 71), that a fill waits for a line in E (log entry 90) and that PREF consumes no poison (log entry 38) are choices of the model
that the statement takes over. -/
theorem windowsFencesAndNames : Obligations.WindowsFencesAndNames := by
  unfold Obligations.WindowsFencesAndNames
  refine ⟨fun f w a s => ?_, fun f c s => ?_, fun f w a ma l s ends => ?_, fun ma c a s => ?_⟩
  · intro set base va fresh page readable
    refine ⟨winv_sets f w, ⟨_, exec_winvAll f, ⟨rfl, rfl, rfl⟩, fun _ => rfl, rfl, rfl, rfl, rfl, rfl, rfl⟩,
      fun clean => ⟨wsetL_sets f w clean, exec_wsetA_waits f w clean, wsetA_sets f w clean⟩,
      fun bad unrecorded => ⟨_, exec_wsetG_poisoned f w bad, s.queueTrap_does 6 1 _ 0 unrecorded⟩,
      fun low high => ⟨fun beyond => ?_, fun small barred => ?_, fun loads e hit => ?_, fun loads miss => ⟨?_, ?_, ?_⟩⟩⟩
    · have free := State.fillWaits_false fun loads : s.translates va => absurd loads.1 (Nat.not_lt.2 beyond)
      exact wsetG_sets_here f w low high free (State.fillGlobal_beyond beyond)
    · have free := State.fillWaits_false fun loads : s.translates va => absurd loads (State.not_translates barred)
      exact wsetG_sets_here f w low high free (State.fillGlobal_barred small barred)
    · have free := State.fillWaits_false fun (_ : s.translates va) miss => absurd (hit.symm.trans miss) (Option.some_ne_none e)
      exact wsetG_sets_here f w low high free (State.fillGlobal_hit loads hit)
    · intro addr raw level leaf mapped size
      refine wsetG_sets_walked f w low high loads miss ?_ ?_
      · exact fun waits => by cases leaf.symm.trans waits
      · have fill := State.fillGlobal_leaf loads miss leaf mapped
        rw [pageBits_size] at fill
        exact fill
    · exact fun waits => exec_wsetG_waits f w low high (State.fillWaits_iff.2 ⟨loads, miss, waits⟩)
    · exact fun ends unreadable => wsetG_sets_walked f w low high loads miss ends (State.fillGlobal_unreadable loads miss unreadable)
  · exact ⟨_, _, exec_fence f c s, ⟨rfl, rfl, rfl⟩, rfl, rfl, rfl, rfl, rfl, rfl, rfl, rfl, rfl, rfl, rfl⟩
  · refine ⟨_, exec_pref f w a ma l (State.prefChecks_end a ends), ?_⟩
    have checked := s.prefChecks_checked w a
    have dropped (other : (s.me.window w.toNat).kind ≠ 1) := State.prefChecks_dropped a other
    generalize s.prefChecks w a = p at checked dropped
    have me := checked.prefetched_me a ma l p.2
    have freed (r : Nat) : r ∈ (if ma then [a.toNat] else []) ↔ ma = true ∧ r = a.toNat := by cases ma <;> simp
    refine ⟨⟨congrArg (·.pc) me, congrArg (·.icount) me, congrArg (·.wait) me⟩, fun r => ?_, fun marked => ?_, congrArg (·.cr) me, fun k => ?_, ?_,
      ⟨_, checked.dev, Device.prefetchAll_eq ..⟩, fun other => ?_, checked.prefetched_rest a ma l p.2⟩
    · rw [me]
      exact (Cohort.vget_freeAll _ s.me r).trans (by simp only [freed])
    · rw [me]
      exact (Cohort.allocated_freeAll _ s.me _).trans (if_pos ((freed _).2 ⟨marked, rfl⟩))
    · rw [me]; exact checked.windows k
    · rw [me]; rfl
    · rw [dropped other]; rfl
  · have names (r : Nat) : r ∈ groupNames a.toNat (c.toNat + 1) ↔ a.toNat ≤ r ∧ r ≤ a.toNat + c.toNat := by
      rw [mem_groupNames]; omega
    refine ⟨_, exec_vfree ma c a s, .of_freeAll .., fun r => ?_, fun r => ?_, s.me.freeAll_retire_rest _ 4, rfl, rfl, rfl, rfl, rfl⟩
    · exact (s.me.vget_freeAll_retire _ 4 r).trans (by simp only [names])
    · exact (s.me.allocated_freeAll_retire _ 4 r).trans (by simp only [names])

end Sys2Proof.Machine
end

section
/-!
SUPPORT. Writes of memory (R58, R60, R73, R116): whichever way bytes are written, memory stays in canonical form.
-/
namespace Sys2Proof.Machine

theorem Device.put_wf {d : Device} (a : Nat) (bs : List Byte) (pm : Mask) (h : Memory.wf d.mem) : Memory.wf (d.put a bs pm).mem := by
  unfold Device.put
  split
  · exact h
  · exact Store.wf_setRun bs d.mem a h

theorem Device.putP_wf {d : Device} (a : Nat) (bs : List Byte) (pm : Mask) (h : Memory.wf d.mem) : Memory.wf (d.putP a bs pm).mem :=
  Device.put_wf (d := d.settle a bs.length) a bs pm h

theorem Device.putAll_wf (ws : List (Nat × List Byte × Mask)) : ∀ {d : Device}, Memory.wf d.mem → Memory.wf (d.putAll ws).mem := by
  induction ws with
  | nil => exact id
  | cons w ws ih => exact fun h => ih (Device.put_wf w.1 w.2.1 w.2.2 h)

theorem Device.putL_wf {d : Device} (hall : Nat) (ws : List (Nat × List Byte × Mask)) (h : Memory.wf d.mem) :
    Memory.wf (d.putL hall ws).mem :=
  Device.putAll_wf ws (d := d.late hall _) h

theorem Device.zero_wf {d : Device} (a n : Nat) (h : Memory.wf d.mem) : Memory.wf (d.zero a n).mem :=
  Store.wf_drop d.mem a (a + n) h

/-- Settles O59, from what each way of writing leaves to be read and the canonical form that each keeps. -/
theorem memoryReadsBack : Obligations.MemoryReadsBack := by
  unfold Obligations.MemoryReadsBack
  intro d h a bs p
  refine ⟨putP_byte d a bs p, putL_byte d h a bs p, d.byte_zero a, fun canonical => ?_, rfl⟩
  exact ⟨d.putP_wf a bs p canonical, fun ws => d.putL_wf h ws canonical, fun n => d.zero_wf a n canonical⟩

end Sys2Proof.Machine
end

section
/-!
SUPPORT. A lane of an operation on own memory, performed at its L2 or its bank (R68, R70, R99): what precedes it (R106 to R108), what it
writes, and what it returns.
-/
namespace Sys2Proof.Machine

/-! ## What precedes the operation -/

/-- The cohort once an operation that is a release at POD scope has every earlier response (R113). -/
def Cohort.covering (c : Cohort) (o : MemOp) : Cohort :=
  if o.rel = true ∧ o.scope = 3 then c.coverIf (Origin.before o.id) else c

theorem Cohort.foldl_ferr (us : List (Nat × Bool × Origin)) : ∀ c : Cohort,
    us.foldl (fun c u => c.ferr u.1 u.2.1) c = { c with cr := (us.foldl (fun c u => c.ferr u.1 u.2.1) c).cr } := by
  induction us with
  | nil => exact fun _ => rfl
  | cons u us ih =>
    intro c
    rw [List.foldl_cons, ih]
    rfl

/-- Covering failures changes control registers and the list of failures alone. -/
theorem Cohort.covering_eq (c : Cohort) (o : MemOp) :
    c.covering o = { c with cr := (c.covering o).cr, uncovered := (c.covering o).uncovered } := by
  unfold Cohort.covering
  split
  · unfold Cohort.coverIf; rw [Cohort.foldl_ferr]
  · rfl

theorem Cohort.covering_frame (c : Cohort) (o : MemOp) : { c.covering o with v := c.v, ops := c.ops, f := c.f } = c.covering o := by
  rw [Cohort.covering_eq]

/-- The state in which an operation performs: a release has published what came before it, an acquire has seen its queue. -/
def State.ordered (s : State) (o : MemOp) : State :=
  (if o.rel then (s.publish o.scope).covered o else s).acquire o.acq o.scope

theorem State.publish_bad (s : State) (k : Nat) : (s.publish k).dev.bad = s.dev.bad := by
  unfold State.publish; split <;> rfl

theorem State.covered_eq {o : MemOp} (s : State) (h : o.rel = true) : s.covered o = s.setMe (s.me.covering o) := by
  unfold State.covered Cohort.covering
  by_cases pod : o.scope = 3 <;> simp [h, pod, State.setMe]

/-- What a release publishes: the cohort covers its failures, and memory stays as it is. -/
theorem State.released_does (s : State) (o : MemOp) :
    let u := if o.rel then (s.publish o.scope).covered o else s
    u.me = s.me.covering o ∧ Wrote s u ∧ (∀ x, u.dev.byte x = s.dev.byte x) ∧ u.dev.bad = s.dev.bad := by
  obtain ⟨me, wrote, bytes⟩ := publish_off s o.scope
  cases release : o.rel with
  | true =>
    simp only [if_true, State.covered_eq _ release, me]
    exact ⟨rfl, ⟨wrote.dev, wrote.co, wrote.cx, wrote.free, wrote.turns⟩, bytes, s.publish_bad _⟩
  | false => exact ⟨by simp [Cohort.covering, release], ⟨rfl, rfl, rfl, rfl, [], rfl⟩, fun _ => rfl, rfl⟩

theorem State.ordered_does (s : State) (o : MemOp) : (s.ordered o).me = s.me.covering o ∧ Wrote s (s.ordered o) ∧
    (∀ x, (s.ordered o).dev.byte x = s.dev.byte x) ∧ (s.ordered o).dev.bad = s.dev.bad := by
  obtain ⟨me, wrote, bytes, bad⟩ := s.released_does o
  unfold State.ordered
  generalize (if o.rel then (s.publish o.scope).covered o else s) = u at me wrote bytes bad
  obtain ⟨me', wrote', bytes', bad'⟩ := acquire_off u o.acq o.scope
  exact ⟨me'.trans me, wrote.trans wrote', fun x => (bytes' x).trans (bytes x), bad'.trans bad⟩

/-- What writes of memory leave of the device says whether the context is recorded. -/
theorem Wrote.recording {s t : State} (h : Wrote s t) : t.recording = s.recording := by
  have ctrl : t.dev.ctrl = s.dev.ctrl := congrArg (·.ctrl) h.dev
  have unit : t.dev.recUnit = s.dev.recUnit := congrArg (·.recUnit) h.dev
  unfold State.recording State.recLive State.recMode Device.reg
  rw [ctrl, unit, h.cx]

/-! ## What it writes -/

/-- Whether an operation adds to a semaphore word and returns nothing, so that the word notes who added (R278). -/
def MemOp.adds (o : MemOp) (r : Rmw) : Bool := o.rel && !o.kind.returns && r == .int 0 4

/-- The hall at whose L2 an operation on own memory is performed; none where its bank performs it (R68). -/
def State.rmwPlace (s : State) (o : MemOp) (off : Nat) : Option Nat := if regionOf off = .atrium ∨ 2 ≤ o.scope then none else some s.hall

/-- The state once an operation on own memory has changed memory, its result not yet returned. -/
def State.rmwWrite (s : State) (o : MemOp) (r : Rmw) (l : LaneOp) (off : Nat) : State :=
  let t := s.afterRmw (s.rmwPlace o off) off r.bytes (s.dev.rmw (s.rmwPlace o off) r off l.data).1
  if o.adds r then t.setDev { t.dev with semr := Store.set 0 t.dev.semr off (s.co.dseq * 16 + s.me.j + 1) } else t

/-- A lane on own memory of an operation without records: it writes, and its result is returned. -/
theorem State.rmwLane_mem {o : MemOp} {l : LaneOp} {off : Nat} (s : State) (r : Rmw) (h : l.loc = .mem off) (unstashed : o.recs = []) :
    s.rmwLane o r l =
      let u := s.ordered o
      let p := u.dev.rmw (u.rmwPlace o off) r off l.data
      ((u.rmwWrite o r l off).mapOp o.id fun x => x.setResult l.lane (p.2.1, if p.2.2 then allBad p.2.1.length else 0#64)).finish o.id := by
  have still (u : State) (p : Nat) : u.emitOrder o p = u := by unfold State.emitOrder; rw [unstashed]
  unfold State.rmwLane
  simp only [h, placeOf, still]
  rfl

section
variable {u : State} {o : MemOp} {l : LaneOp} {op n off : Nat} (size : n = 4 ∨ n = 8) (aligned : off % n = 0) (low : off < 0x020000000000)
  (clean : ∀ a, a / 64 = off / 64 → u.dev.badAt a = false) (unrecorded : u.recording = false)
include size aligned low clean unrecorded

/-- An integer operation on clean own memory writes its word alone, and returns the old bytes, without poison. -/
theorem State.rmwWrite_int : (u.rmwWrite o (.int op n) l off).me = u.me ∧
    (∀ x, (u.rmwWrite o (.int op n) l off).dev.byte x = if off ≤ x ∧ x < off + n then (leBytes n
      (if op = 7 then intNew op n (u.dev.load off n) (leNat ((l.data.drop n).take n)) (leNat (l.data.take n))
        else intNew op n (u.dev.load off n) (leNat (l.data.take n)) 0)).getD (x - off) 0#8 else u.dev.byte x) ∧
    { (u.rmwWrite o (.int op n) l off).dev.elsewhere with semr := u.dev.semr } = u.dev.elsewhere ∧
    (u.rmwWrite o (.int op n) l off).co = u.co ∧ (u.rmwWrite o (.int op n) l off).cx = u.cx ∧
    (u.rmwWrite o (.int op n) l off).free = u.free ∧ ∃ ts, (u.rmwWrite o (.int op n) l off).turns = ts ++ u.turns := by
  obtain ⟨-, dev, bytes⟩ := rmw_int (u.rmwPlace o off) op n off l.data size aligned clean
  obtain ⟨me', bytes', dev', co', cx', free', turns'⟩ :=
    afterRmw_does u (u.rmwPlace o off) off n (u.dev.rmw (u.rmwPlace o off) (.int op n) off l.data).1 (regionOf_low low) unrecorded
  have written (x : Nat) := (bytes' x).trans (bytes x)
  have kept := dev'.trans dev
  unfold State.rmwWrite
  dsimp only [Rmw.bytes]
  generalize u.afterRmw _ off n _ = t at *
  have noted : { t.dev.elsewhere with semr := u.dev.semr } = u.dev.elsewhere := by rw [kept]; rfl
  split
  · exact ⟨me', written, noted, co', cx', free', turns'⟩
  · exact ⟨me', written, noted, co', cx', free', turns'⟩

end

/-- From one state to another, the cohort is `c` and a word of own memory holds a new value; nothing else changes but what the halls see,
the caches, the note of who added to a semaphore, and turns to come. -/
structure WordWritten (s w : State) (c : Cohort) (off n new : Nat) : Prop where
  me : w.me = c
  word : w.dev.load off n = new
  bytes : ∀ a, a < off ∨ off + n ≤ a → w.dev.byte a = s.dev.byte a
  rest : { w.dev.elsewhere with semr := s.dev.semr } = s.dev.elsewhere
  co : w.co = s.co
  cx : w.cx = s.cx
  free : w.free = s.free
  turns : ∃ ts, w.turns = ts ++ s.turns

section
variable {s : State} {o : MemOp} {l : LaneOp} {op n off : Nat} (size : n = 4 ∨ n = 8) (aligned : off % n = 0) (low : off < 0x020000000000)
  (clean : s.dev.badMask (off / 64 * 64) 64 = 0#64)
include clean

theorem State.ordered_clean (a : Nat) (line : a / 64 = off / 64) : (s.ordered o).dev.badAt a = false := by
  obtain ⟨-, -, -, bad⟩ := s.ordered_does o
  rw [Device.badAt, bad]
  exact badAt_line clean a line

include size aligned

theorem State.ordered_answer : ((s.ordered o).dev.rmw ((s.ordered o).rmwPlace o off) (.int op n) off l.data).2 = (s.dev.bytes off n, false) := by
  obtain ⟨-, -, bytes, -⟩ := s.ordered_does o
  obtain ⟨answer, -, -⟩ := rmw_int ((s.ordered o).rmwPlace o off) op n off l.data size aligned (State.ordered_clean clean)
  exact answer.trans (congrArg (·, false) (List.map_congr_left fun i _ => bytes (off + i)))

include low in
/-- In the state that its release and acquire leave, an integer operation writes its new value (Table 10-3). -/
theorem State.ordered_writes (unrecorded : s.recording = false) {new : Nat} (fits : new < 256 ^ n)
    (value : (if op = 7 then intNew op n (s.dev.load off n) (leNat ((l.data.drop n).take n)) (leNat (l.data.take n))
      else intNew op n (s.dev.load off n) (leNat (l.data.take n)) 0) = new) :
    WordWritten s ((s.ordered o).rmwWrite o (.int op n) l off) (s.me.covering o) off n new := by
  obtain ⟨me, wrote, bytes, -⟩ := s.ordered_does o
  obtain ⟨me', bytes', dev', co', cx', free', ts, turns'⟩ := State.rmwWrite_int (o := o) (l := l) (op := op) size aligned low
    (State.ordered_clean clean) (wrote.recording.trans unrecorded)
  have load : (s.ordered o).dev.load off n = s.dev.load off n := congrArg leNat (List.map_congr_left fun i _ => bytes (off + i))
  rw [load, value] at bytes'
  obtain ⟨us, before⟩ := wrote.turns
  generalize (s.ordered o).rmwWrite o (.int op n) l off = w at *
  exact {
    me := me'.trans me
    word := load_of_bytes fits fun i hi => (bytes' _).trans (by rw [if_pos (by omega), Nat.add_sub_cancel_left])
    bytes := fun a apart => (bytes' a).trans ((if_neg (by omega)).trans (bytes a))
    rest := by rw [← wrote.dev, ← dev', show s.dev.semr = (s.ordered o).dev.semr from (congrArg (·.semr) wrote.dev : _).symm]
    co := co'.trans wrote.co
    cx := cx'.trans wrote.cx
    free := free'.trans wrote.free
    turns := ⟨ts ++ us, turns'.trans (by rw [before, List.append_assoc])⟩ }

end

/-! ## What it returns -/

/-- An operation of one lane, with its result. -/
def MemOp.answered (o : MemOp) (l : LaneOp) (bs : List Byte) : MemOp :=
  { o with lanes := [{ l with sent := true, result := some (bs, 0#64) }] }

theorem MemOp.setResult_one {o : MemOp} {l : LaneOp} (h : o.lanes = [l]) (bs : List Byte) :
    o.setResult l.lane (bs, 0#64) = o.answered l bs := by
  simp [MemOp.setResult, MemOp.answered, h]

section
variable {o : MemOp} {l : LaneOp} (bs : List Byte) (each : o.u = false)
include each

theorem MemOp.answered_targets (i : Nat) (h : i < 64) : (o.answered l bs).targets.getLsbD i = decide (i = l.lane) := by
  simp [MemOp.targets, MemOp.answered, each, maskOf_getLsbD _ _ h]

theorem MemOp.answered_resultOf : (o.answered l bs).resultOf l.lane = (bs, 0#64) := by
  simp [MemOp.resultOf, MemOp.answered, each]

/-- A result of one lane fills its registers there, 32 bits in each. -/
theorem Cohort.fillGroup_answered (c : Cohort) (n k : Nat) (hk : k < n) (inside : l.lane < 64) :
    (((c.fillGroup (o.answered l bs) n id).vget (o.d + k)).lane l.lane).toNat = leNat bs / 2 ^ (32 * k) % 2 ^ 32 := by
  obtain ⟨-, -, filled⟩ := fillGroup_get (o.answered l bs) id n c
  have word : (wordAt (bs, 0#64) k).1.toNat = leNat bs / 2 ^ (32 * k) % 2 ^ 32 := by
    have bytes : (256 : Nat) ^ (4 * k) = 2 ^ (32 * k) := by rw [show 256 = 2 ^ 8 from rfl, ← Nat.pow_mul]; congr 1; omega
    simp only [wordAt, BitVec.toNat_ofNat, leNat_take, leNat_drop, bytes]
    exact Nat.mod_eq_of_lt (Nat.mod_lt _ (by decide))
  rw [← word, show o.d = (o.answered l bs).d from rfl, filled k hk, lane_merge' _ _ _ _ inside, MemOp.answered_targets bs each _ inside,
    MemOp.answered_resultOf bs each]
  simp

end

/-- What an integer operation that has its result writes: nothing, or the registers of an atomic (R261, R263). -/
theorem Cohort.deliver_int {x : MemOp} {op n : Nat} {ret : Bool} (c : Cohort) (h : x.kind = .rmw (.int op n) ret) :
    c.deliver x = if ret then c.fillGroup x (n / 4) id else c := by
  unfold Cohort.deliver
  rw [h]
  cases ret <;> rfl

theorem Cohort.deliver_int_rest {x : MemOp} {op n : Nat} {ret : Bool} (c : Cohort) (h : x.kind = .rmw (.int op n) ret) :
    { c.deliver x with v := c.v } = c ∧ ∀ r, (∀ k, k < n / 4 → r ≠ x.d + k) → (c.deliver x).vget r = c.vget r := by
  rw [c.deliver_int h]
  obtain ⟨rest, others, -⟩ := fillGroup_get x id (n / 4) c
  split
  · exact ⟨rest, fun r other => (others r other).1⟩
  · exact ⟨rfl, fun _ _ => rfl⟩

/-- Delivering and ending an integer operation changes vector registers, flags and the operations of a cohort alone. -/
theorem Cohort.ended_int {x : MemOp} {op n : Nat} {ret : Bool} (c : Cohort) (h : x.kind = .rmw (.int op n) ret) :
    { (c.deliver x).lower x.flag with ops := [] } = { c with v := (c.deliver x).v, f := (c.lower x.flag).f, ops := [] } := by
  have delivered : c.deliver x = { c with v := (c.deliver x).v } :=
    congrArg (fun e : Cohort => { e with v := (c.deliver x).v }) (c.deliver_int_rest h).1
  generalize c.deliver x = e at *
  rw [delivered, lower_rest]
  cases x.flag <;> rfl

/-- A cohort whose only operation, of one lane, has had its result delivered and has ended. -/
def Cohort.returned (c : Cohort) (o : MemOp) (l : LaneOp) (bs : List Byte) : Cohort :=
  { c with v := (({ c with ops := [o.answered l bs] } : Cohort).deliver (o.answered l bs)).v, f := (c.lower o.flag).f, ops := [] }

section
variable {o : MemOp} {l : LaneOp} {op n : Nat} {ret : Bool} (kind : o.kind = .rmw (.int op n) ret) (bs : List Byte)
include kind

/-- The only operation of a cohort, given the result of its one lane, ends. -/
theorem State.finish_one {w : State} (ops : w.me.ops = [o]) (here : w.me.stat = .running) (one : o.lanes = [l]) :
    (w.mapOp o.id fun x => x.setResult l.lane (bs, 0#64)).finish o.id = w.setMe (w.me.returned o l bs) := by
  generalize held : ({ w.me with ops := [o.answered l bs] } : Cohort) = c
  have mapped : (w.mapOp o.id fun x => x.setResult l.lane (bs, 0#64)) = w.setMe c := by
    unfold State.mapOp
    rw [ops, ← held]
    simp only [List.map_cons, List.map_nil, if_true, MemOp.setResult_one one]
    rfl
  have only : c.ops = [o.answered l bs] := congrArg Cohort.ops held.symm
  have stat : c.stat = .running := by rw [← held]; exact here
  have answered : (o.answered l bs).kind = .rmw (.int op n) ret := kind
  have kept : (c.deliver (o.answered l bs)).ops = c.ops := (congrArg Cohort.ops (c.deliver_int_rest answered).1 : _)
  have ended : w.me.returned o l bs = { c with v := (c.deliver (o.answered l bs)).v, f := (c.lower o.flag).f, ops := [] } := by
    rw [← held, Cohort.returned]
    cases o.flag <;> rfl
  rw [mapped, ended, show o.flag = (o.answered l bs).flag from rfl, ← c.ended_int answered]
  exact finish_alone (o := o.answered l bs) only stat (by simp [MemOp.answered]) (by simp [answered]) (kept.trans only)

theorem Cohort.returned_vget (c : Cohort) (r : Nat) (other : ∀ k, k < n / 4 → r ≠ o.d + k) : (c.returned o l bs).vget r = c.vget r :=
  (Cohort.deliver_int_rest (x := o.answered l bs) _ kind).2 r other

/-- A reduction returns nothing (R263). -/
theorem Cohort.returned_silent (c : Cohort) (silent : ret = false) : (c.returned o l bs).v = c.v := by
  subst silent
  exact (congrArg Cohort.v (Cohort.deliver_int (x := o.answered l bs) _ kind) : _)

/-- An atomic returns the old value to its lane (R261). -/
theorem Cohort.returned_word (c : Cohort) (returns : ret = true) (each : o.u = false) (inside : l.lane < 64) {k : Nat} (hk : k < n / 4) :
    (((c.returned o l bs).vget (o.d + k)).lane l.lane).toNat = leNat bs / 2 ^ (32 * k) % 2 ^ 32 := by
  subst returns
  have delivered := Cohort.deliver_int (x := o.answered l bs) { c with ops := [o.answered l bs] } kind
  rw [← Cohort.fillGroup_answered bs each { c with ops := [o.answered l bs] } (n / 4) k hk inside]
  exact (congrArg (fun e : Cohort => ((e.vget (o.d + k)).lane l.lane).toNat) delivered : _)

end

end Sys2Proof.Machine
end

section
/-!
BANK_OPERATION of an integer operation (R70, R99, R261, R263).
-/
namespace Sys2Proof.Machine

/-- The only lane of an operation alone in flight, at own memory within reach, is performed at once. -/
theorem exec_bankOperation_mem {s : State} {o : MemOp} {l : LaneOp} {r : Rmw} {ret : Bool} {off : Nat} (alone : Alone s o)
    (one : o.lanes = [l]) (kind : o.kind = .rmw r ret) (todo : l.sent = false) (at' : l.loc = .mem off) (up : s.dev.tierDown off = false) :
    exec (.bankOperation o.id l.lane) s = .next (s.rmwLane o r l) := by
  have found : (o.lanes.find? fun x => x.lane == l.lane && !x.sent) = some l := by simp [one, todo]
  have lowest : o.lowerFirst s.co.dseq l = false := by simp [MemOp.lowerFirst, one]
  have event : exec (.bankOperation o.id l.lane) s = .next (s.onOp o.id fun s o => match o.kind with
    | .rmw r ret => s.performRmw o r ret l.lane
    | _ => s) := rfl
  rw [event, alone.onOp, kind]
  unfold State.performRmw
  dsimp only
  rw [found]
  simp only [alone.rmwReady, lowest, at', placeOf, s.replayHolds_off _ alone.recorded, Device.cut, up]
  rfl

/-- Settles O32: the operation performs in the state that its release and acquire leave, writes its word, and returns the old one. -/
theorem bankOperations : Obligations.BankOperations := by
  unfold Obligations.BankOperations
  intro covering s o l op n off ret alone one kind size known _ todo inside each at' aligned low length clean up old x new
  obtain ⟨value, fits⟩ := intBytes op n old l.data (by omega) known (load_lt ..) length
  have written := State.ordered_writes (o := o) (l := l) size aligned low clean alone.recorded fits value
  have ran := exec_bankOperation_mem alone one kind todo at' up
  rw [State.rmwLane_mem s _ at' alone.unstashed] at ran
  dsimp only at ran
  rw [State.ordered_answer size aligned clean] at ran
  generalize (s.ordered o).rmwWrite o (.int op n) l off = w at *
  have ops : w.me.ops = [o] := by rw [written.me, Cohort.covering_eq]; exact alone.op
  have here : w.me.stat = .running := by rw [written.me, Cohort.covering_eq]; exact alone.here
  have v : (s.me.covering o).v = s.me.v := by rw [Cohort.covering_eq]
  have f : (s.me.covering o).f = s.me.f := by rw [Cohort.covering_eq]
  have ended := State.finish_one kind (s.dev.bytes off n) ops here one
  rw [written.me] at ended
  obtain ⟨ts, turns⟩ := written.turns
  refine ⟨_, ts, ran.trans (congrArg _ ended), rfl, written.word, written.bytes,
    fun returns k hk => Cohort.returned_word kind _ _ returns each inside hk, fun silent => (Cohort.returned_silent kind _ _ silent).trans v,
    fun r other => (Cohort.returned_vget kind _ _ r other).trans ?_, ?_, s.me.covering_frame o, written.rest, written.co, written.cx, turns, written.free⟩
  · rw [Cohort.vget, v]; rfl
  · show ((s.me.covering o).lower o.flag).f = (s.me.lower o.flag).f
    cases o.flag <;> simp [Cohort.lower, f]

end Sys2Proof.Machine
end

section
/-!
SUPPORT. The runs of words for which a request makes new blocks (R62): they lie in the line, apart, and hold every wanted word.
-/
namespace Sys2Proof.Machine

/-- Whether a run of words, first word and length, holds a word. -/
def InRun (r : Nat × Nat) (w : Nat) : Prop := r.1 ≤ w ∧ w < r.1 + r.2

/-- Runs that lie in words `[k, k + n)`, one above another, and hold the wanted words there, and no other. -/
structure RunsOf (want : Nat → Bool) (n k : Nat) (rs : List (Nat × Nat)) : Prop where
  within : ∀ r ∈ rs, k ≤ r.1 ∧ 1 ≤ r.2 ∧ r.1 + r.2 ≤ k + n
  wanted : ∀ r ∈ rs, ∀ w, InRun r w → want w = true
  rising : rs.Pairwise fun a b => a.1 + a.2 ≤ b.1
  covers : ∀ w, k ≤ w → w < k + n → want w = true → ∃ r ∈ rs, InRun r w
  total : (rs.map Prod.snd).sum ≤ n

section
variable {want : Nat → Bool} {n k : Nat} {rs : List (Nat × Nat)}

/-- A word that is not wanted is passed over. -/
theorem RunsOf.skip (h : RunsOf want n (k + 1) rs) (no : want k = false) : RunsOf want (n + 1) k rs where
  within r hr := by have := h.within r hr; omega
  wanted := h.wanted
  rising := h.rising
  covers w low high yes := by
    have : w ≠ k := fun e => by rw [e, no] at yes; cases yes
    exact h.covers w (by omega) (by omega) yes
  total := Nat.le_succ_of_le h.total

/-- A wanted word starts a run of its own. -/
theorem RunsOf.start (h : RunsOf want n (k + 1) rs) (yes : want k = true) : RunsOf want (n + 1) k ((k, 1) :: rs) where
  within := List.forall_mem_cons.2 ⟨by dsimp only; omega, fun r hr => by have := h.within r hr; omega⟩
  wanted := List.forall_mem_cons.2 ⟨fun w hw => by rw [show w = k by unfold InRun at hw; dsimp only at hw; omega, yes], h.wanted⟩
  rising := List.pairwise_cons.2 ⟨fun r hr => (h.within r hr).1, h.rising⟩
  covers w low high hw := by
    by_cases e : w = k
    · exact ⟨_, List.mem_cons_self, by unfold InRun; dsimp only; omega⟩
    · obtain ⟨r, hr, inside⟩ := h.covers w (by omega) (by omega) hw
      exact ⟨r, List.mem_cons_of_mem _ hr, inside⟩
  total := by have := h.total; simp only [List.map_cons, List.sum_cons]; omega

/-- A wanted word extends the run that starts behind it. -/
theorem RunsOf.extend {m : Nat} (h : RunsOf want n (k + 1) ((k + 1, m) :: rs)) (yes : want k = true) :
    RunsOf want (n + 1) k ((k, m + 1) :: rs) where
  within := by
    obtain ⟨first, rest⟩ := List.forall_mem_cons.1 h.within
    exact List.forall_mem_cons.2 ⟨by dsimp only at first ⊢; omega, fun r hr => by have := rest r hr; omega⟩
  wanted := by
    obtain ⟨first, rest⟩ := List.forall_mem_cons.1 h.wanted
    refine List.forall_mem_cons.2 ⟨fun w hw => ?_, rest⟩
    by_cases e : w = k
    · rw [e, yes]
    · exact first w (by unfold InRun at hw ⊢; dsimp only at hw ⊢; omega)
  rising := by
    obtain ⟨first, rest⟩ := List.pairwise_cons.1 h.rising
    exact List.pairwise_cons.2 ⟨fun r hr => by have := first r hr; dsimp only at this ⊢; omega, rest⟩
  covers w low high hw := by
    by_cases e : w = k
    · exact ⟨_, List.mem_cons_self, by unfold InRun; dsimp only; omega⟩
    · obtain ⟨r, hr, inside⟩ := h.covers w (by omega) (by omega) hw
      rcases List.mem_cons.1 hr with rfl | hr
      · exact ⟨_, List.mem_cons_self, by unfold InRun at inside ⊢; dsimp only at inside ⊢; omega⟩
      · exact ⟨r, List.mem_cons_of_mem _ hr, inside⟩
  total := by have := h.total; simp only [List.map_cons, List.sum_cons] at this ⊢; omega

end

theorem freeRuns_runsOf (want : Nat → Bool) : ∀ n k, RunsOf want n k (freeRuns want n k) := by
  intro n
  induction n with
  | zero =>
    exact fun k => ⟨fun _ h => absurd h List.not_mem_nil, fun _ h => absurd h List.not_mem_nil, .nil, fun w low high _ => by omega, Nat.le_refl 0⟩
  | succ n ih =>
    intro k
    have rest := ih (k + 1)
    unfold freeRuns
    generalize freeRuns want n (k + 1) = rs at rest
    dsimp only
    cases yes : want k with
    | false => exact rest.skip yes
    | true =>
      rw [if_pos rfl]
      cases rs with
      | nil => exact rest.start yes
      | cons r more =>
        obtain ⟨f, m⟩ := r
        dsimp only
        split
        · next adjacent => subst adjacent; exact rest.extend yes
        · exact rest.start yes

/-! ## Bytes of words -/

theorem wordBytes_getLsbD (first n : Nat) {i : Nat} (h : i < 64) :
    (wordBytes first n).getLsbD i = decide (8 * first ≤ i ∧ i < 8 * (first + n)) := by
  rw [wordBytes, maskOf_getLsbD _ _ h]
  simp [h]

/-- A needed byte lies in a word that is touched. -/
theorem touchesWord_of_needed {need : DWord} {i : Nat} (h : need.getLsbD i = true) : touchesWord need (i / 8) = true := by
  have bit : ((need >>> (8 * (i / 8))) &&& 0xFF#64).getLsbD (i % 8) = true := by
    have low : i % 8 < 8 := Nat.mod_lt _ (by decide)
    have byte : (0xFF#64).getLsbD (i % 8) = true := by
      generalize i % 8 = j at low
      revert j; decide
    rw [BitVec.getLsbD_and, BitVec.getLsbD_ushiftRight, byte, Bool.and_true, Nat.div_add_mod, h]
  unfold touchesWord
  rw [bne_iff_ne]
  intro zero
  rw [zero] at bit
  simp at bit

/-! ## New runs -/

/-- Whether no block holds a word. -/
def freeWord (held : List L2Block) (w : Nat) : Bool := !(held.any fun b => b.holds w)

/-- The new runs hold every touched word that no block holds, and no word that a block holds; they are the runs of some wanted words. -/
theorem newRuns_runsOf (held : List L2Block) (need : DWord) (size : Nat) : ∃ want : Nat → Bool,
    RunsOf want 8 0 (newRuns held need size) ∧ (∀ w, want w = true → freeWord held w = true) ∧
      ∀ w, w < 8 → touchesWord need w = true → freeWord held w = true → want w = true := by
  unfold newRuns
  dsimp only
  generalize hm : (List.range 8).filter (fun k => touchesWord need k && !(held.any fun b => b.holds k)) = ms
  have missing (w : Nat) : w ∈ ms ↔ w < 8 ∧ touchesWord need w = true ∧ freeWord held w = true := by
    rw [← hm, List.mem_filter, List.mem_range, Bool.and_eq_true, freeWord]
  have sorted : ms.Pairwise (· ≤ ·) := hm ▸ List.pairwise_le_range.filter _
  cases ms with
  | nil =>
    refine ⟨fun _ => false, freeRuns_runsOf (fun _ => false) 8 0, fun _ no => absurd no Bool.false_ne_true,
      fun w low touched free => ?_⟩
    exact absurd ((missing w).2 ⟨low, touched, free⟩) List.not_mem_nil
  | cons lo ks =>
    refine ⟨_, freeRuns_runsOf _ 8 0, fun w h => (Bool.and_eq_true_iff.1 h).2, fun w low touched free => ?_⟩
    have listed : w ∈ lo :: ks := (missing w).2 ⟨low, touched, free⟩
    have above : lo ≤ w := by
      rcases List.mem_cons.1 listed with rfl | later
      · exact Nat.le_refl _
      · exact (List.pairwise_cons.1 sorted).1 w later
    have below : w ≤ ks.getLastD lo := by
      rw [← List.getLast_eq_getLastD (List.cons_ne_nil lo ks)]
      exact sorted.rel_getLast listed
    exact Bool.and_eq_true_iff.2 ⟨decide_eq_true (by omega), free⟩

end Sys2Proof.Machine
end

section
/-!
SUPPORT. The blocks of an L2 (R61 to R63): apart from one another, and what a request leaves of them.
-/
namespace Sys2Proof.Machine

/-! ## Blocks apart -/

/-- Two blocks of one line in one hall share no word. -/
def L2Block.Clear (a b : L2Block) : Prop :=
  a.hall = b.hall → a.line = b.line → a.first + a.words ≤ b.first ∨ b.first + b.words ≤ a.first

/-- Every block has 1 to 8 words of its line, and no two share one. -/
def BlocksApart (bs : List L2Block) : Prop := (∀ b ∈ bs, 1 ≤ b.words ∧ b.first + b.words ≤ 8) ∧ bs.Pairwise L2Block.Clear

theorem BlocksApart.sublist {as bs : List L2Block} (h : BlocksApart bs) (s : as.Sublist bs) : BlocksApart as :=
  ⟨fun b hb => h.1 b (s.subset hb), h.2.sublist s⟩

/-- A change that leaves every block where it stands. -/
def L2Block.Keeps (f : L2Block → L2Block) : Prop :=
  ∀ b, (f b).hall = b.hall ∧ (f b).line = b.line ∧ (f b).first = b.first ∧ (f b).words = b.words

theorem BlocksApart.map {bs : List L2Block} {f : L2Block → L2Block} (h : BlocksApart bs) (keeps : L2Block.Keeps f) : BlocksApart (bs.map f) := by
  refine ⟨List.forall_mem_map.2 fun b hb => ?_, List.pairwise_map.2 (h.2.imp fun {a b} clear => ?_)⟩
  · obtain ⟨-, -, first, words⟩ := keeps b
    rw [first, words]; exact h.1 b hb
  · obtain ⟨hallA, lineA, firstA, wordsA⟩ := keeps a
    obtain ⟨hallB, lineB, firstB, wordsB⟩ := keeps b
    unfold L2Block.Clear at clear ⊢
    rw [hallA, lineA, firstA, wordsA, hallB, lineB, firstB, wordsB]
    exact clear

theorem BlocksApart.append {as bs : List L2Block} (ha : BlocksApart as) (hb : BlocksApart bs) (clear : ∀ a ∈ as, ∀ b ∈ bs, a.Clear b) :
    BlocksApart (as ++ bs) :=
  ⟨fun _ h => (List.mem_append.1 h).elim (ha.1 _) (hb.1 _), List.pairwise_append.2 ⟨ha.2, hb.2, clear⟩⟩

/-! ## What takes blocks away -/

theorem Device.l2Drop_sublist (d : Device) (line : Nat) (of : Nat → Bool) : (d.l2Drop line of).l2.Sublist d.l2 := by
  unfold Device.l2Drop
  dsimp only
  split <;> exact List.filter_sublist

theorem Device.dirRecall_sublist (d : Device) (line : Nat) : (d.dirRecall line).l2.Sublist d.l2 := d.l2Drop_sublist line _

theorem Device.dirShare_sublist (d : Device) (line : Nat) : (d.dirShare line).l2.Sublist d.l2 := by
  unfold Device.dirShare
  split
  · exact d.dirRecall_sublist line
  · exact List.Sublist.refl _

theorem Device.dirRoom_sublist (d : Device) (line : Nat) : (d.dirRoom line).l2.Sublist d.l2 := by
  unfold Device.dirRoom
  split
  · split
    · exact d.dirRecall_sublist _
    · exact List.Sublist.refl _
  · exact List.Sublist.refl _

theorem Device.dirRead_sublist (d : Device) (h line : Nat) : (d.dirRead h line).l2.Sublist d.l2 := by
  unfold Device.dirRead
  dsimp only
  split
  · exact d.dirRecall_sublist line
  · exact d.dirRoom_sublist line

theorem Device.dirWrite_sublist (d : Device) (h line : Nat) : (d.dirWrite h line).l2.Sublist d.l2 :=
  ((d.dirRoom line).l2Drop_sublist line _).trans (d.dirRoom_sublist line)

theorem Device.l2Evict_sublist (d : Device) (h line : Nat) : (d.l2Evict h line).l2.Sublist d.l2 := d.l2Drop_sublist line _

theorem Device.l2Fit_sublist (h : Nat) (bs : List L2Block) : ∀ d : Device, (Device.l2Fit h bs d).l2.Sublist d.l2 := by
  induction bs with
  | nil => exact fun d => List.Sublist.refl _
  | cons b bs ih =>
    intro d
    unfold Device.l2Fit
    split
    · exact List.Sublist.refl _
    · refine (ih _).trans ?_
      split
      · exact d.l2Evict_sublist h b.line
      · exact List.Sublist.refl _

/-- An L2 whose blocks fit evicts nothing (R61). -/
theorem Device.l2Fit_fits {h : Nat} {d : Device} (fits : l2Words d.l2 h ≤ l2Room) (bs : List L2Block) : Device.l2Fit h bs d = d := by
  cases bs with
  | nil => rfl
  | cons b bs => unfold Device.l2Fit; rw [if_pos fits]

theorem l2Words_sublist {as bs : List L2Block} (s : as.Sublist bs) (h : Nat) : l2Words as h ≤ l2Words bs h :=
  ((s.filter _).map _).sum_le_sum fun _ _ => Nat.zero_le _

theorem l2Words_map {f : L2Block → L2Block} (keeps : L2Block.Keeps f) (bs : List L2Block) (h : Nat) : l2Words (bs.map f) h = l2Words bs h := by
  unfold l2Words
  rw [List.filter_map, List.map_map]
  refine congrArg List.sum ((List.map_congr_left fun b _ => (keeps b).2.2.2).trans ?_)
  exact congrArg _ (List.filter_congr fun b _ => congrArg (· == h) (keeps b).1)

theorem l2Words_append_le {as bs : List L2Block} {h : Nat} : l2Words (as ++ bs) h ≤ l2Words as h + (bs.map L2Block.words).sum := by
  unfold l2Words
  rw [List.filter_append, List.map_append, List.sum_append]
  exact Nat.add_le_add_left (((List.filter_sublist).map _).sum_le_sum fun _ _ => Nat.zero_le _) _

/-! ## What a request leaves -/

/-- The block that a request of a hall leaves of one that stands (R62, R63). -/
def L2Block.used (h line : Nat) (need : DWord) (write : Bool) (b : L2Block) : L2Block :=
  let all := wordBytes b.first b.words
  if (b.hall == h && b.line == line) = false ∨ all &&& need = 0#64 then b
  else if write then { b with valid := b.valid ||| (all &&& need), dirty := b.dirty ||| (all &&& need) }
  else if b.valid &&& need = all &&& need then b else { b with valid := all }

/-- The new block of a run (R62, R63). -/
def L2Block.made (h line : Nat) (need : DWord) (write : Bool) (r : Nat × Nat) : L2Block :=
  let all := wordBytes r.1 r.2
  { hall := h, line := line, first := r.1, words := r.2, valid := if write then all &&& need else all
    dirty := if write then all &&& need else 0#64 }

/-- The blocks of an L2 after a request, before any is evicted. -/
def Device.l2Asked (d : Device) (h line : Nat) (need : DWord) (write : Bool) : List L2Block :=
  d.l2.map (L2Block.used h line need write) ++
    (newRuns (d.l2Of h line) need (if write then 1 else Config.l2Predict d.l2Fills % 8 + 1)).map (L2Block.made h line need write)

theorem Device.l2Take_eq (d : Device) (h line : Nat) (need : DWord) (write : Bool) : ∃ e : Device,
    e.l2 = d.l2Asked h line need write ∧ e.dir = d.dir ∧ d.l2Take h line need write = Device.l2Fit h e.l2 e := by
  have same (misses : Bool) (e : Device) : (if misses then e.l3Use line false else e).l2 = e.l2 ∧
      (if misses then e.l3Use line false else e).dir = e.dir := by cases misses <;> exact ⟨rfl, rfl⟩
  refine ⟨_, ?_, ?_, rfl⟩
  · exact (same _ _).1
  · exact (same _ _).2

theorem L2Block.used_keeps (h line : Nat) (need : DWord) (write : Bool) : L2Block.Keeps (L2Block.used h line need write) := by
  intro b
  unfold L2Block.used
  dsimp only
  (repeat' split) <;> exact ⟨rfl, rfl, rfl, rfl⟩

theorem mem_l2Of {d : Device} {h line : Nat} {b : L2Block} : b ∈ d.l2Of h line ↔ b ∈ d.l2 ∧ b.hall = h ∧ b.line = line := by
  simp [Device.l2Of]

theorem freeWord_iff {held : List L2Block} {w : Nat} : freeWord held w = true ↔ ∀ b ∈ held, ¬ (b.first ≤ w ∧ w < b.first + b.words) := by
  simp [freeWord, L2Block.holds]

section
variable {d : Device} (h line : Nat) (need : DWord) (write : Bool)

/-- New blocks stand apart from those that stood and from one another. -/
theorem Device.l2Asked_apart (apart : BlocksApart d.l2) : BlocksApart (d.l2Asked h line need write) := by
  obtain ⟨want, runs, free, -⟩ := newRuns_runsOf (d.l2Of h line) need (if write then 1 else Config.l2Predict d.l2Fills % 8 + 1)
  refine (apart.map (L2Block.used_keeps h line need write)).append ⟨List.forall_mem_map.2 fun r hr => ?_, ?_⟩ ?_
  · have := runs.within r hr
    dsimp only [L2Block.made]; omega
  · exact List.pairwise_map.2 (runs.rising.imp fun below _ _ => .inl below)
  · refine List.forall_mem_map.2 fun b hb => List.forall_mem_map.2 fun r hr sameHall sameLine => ?_
    obtain ⟨hall, at', first, words⟩ := L2Block.used_keeps h line need write b
    have held : b ∈ d.l2Of h line := mem_l2Of.2 ⟨hb, hall.symm.trans sameHall, at'.symm.trans sameLine⟩
    have unheld (w : Nat) (inside : InRun r w) := freeWord_iff.1 (free w (runs.wanted r hr w inside)) b held
    have := runs.within r hr
    have := apart.1 b hb
    have left := unheld (max r.1 b.first)
    unfold InRun at left
    rw [first, words]
    dsimp only [L2Block.made]
    omega

/-- A request adds at most the 8 words of its line. -/
theorem Device.l2Asked_words : l2Words (d.l2Asked h line need write) h ≤ l2Words d.l2 h + 8 := by
  obtain ⟨want, runs, -⟩ := newRuns_runsOf (d.l2Of h line) need (if write then 1 else Config.l2Predict d.l2Fills % 8 + 1)
  have new := runs.total
  refine l2Words_append_le.trans ?_
  rw [l2Words_map (L2Block.used_keeps h line need write), List.map_map]
  exact Nat.add_le_add_left new _

end

/-! ## What a needed byte finds -/

section
variable {h line : Nat} {need : DWord} {i : Nat} (hi : i < 64) (needed : need.getLsbD i = true)
include hi needed

theorem wordBytes_needed {first n : Nat} (inside : first ≤ i / 8 ∧ i / 8 < first + n) : (wordBytes first n &&& need).getLsbD i = true := by
  rw [BitVec.getLsbD_and, wordBytes_getLsbD _ _ hi, needed, Bool.and_true, decide_eq_true_eq]
  omega

theorem L2Block.made_needed (write : Bool) {r : Nat × Nat} (inside : InRun r (i / 8)) :
    (L2Block.made h line need write r).valid.getLsbD i = true ∧ (write = true → (L2Block.made h line need write r).dirty.getLsbD i = true) := by
  have bit := wordBytes_needed hi needed inside
  have all := (Bool.and_eq_true_iff.1 (BitVec.getLsbD_and ▸ bit)).1
  cases write with
  | true => exact ⟨bit, fun _ => bit⟩
  | false => exact ⟨all, fun w => by cases w⟩

theorem L2Block.used_needed (write : Bool) {b : L2Block} (hall : b.hall = h) (at' : b.line = line)
    (inside : b.first ≤ i / 8 ∧ i / 8 < b.first + b.words) : (b.used h line need write).valid.getLsbD i = true ∧
      (write = true → (b.used h line need write).dirty.getLsbD i = true) := by
  have bit := wordBytes_needed hi needed inside
  have some : wordBytes b.first b.words &&& need ≠ 0#64 := fun zero => by rw [zero] at bit; simp at bit
  have all := (Bool.and_eq_true_iff.1 (BitVec.getLsbD_and ▸ bit)).1
  unfold L2Block.used
  dsimp only
  rw [if_neg (by simp [hall, at', some])]
  cases write with
  | true =>
    rw [if_pos rfl]
    exact ⟨by rw [BitVec.getLsbD_or, bit, Bool.or_true], fun _ => by rw [BitVec.getLsbD_or, bit, Bool.or_true]⟩
  | false =>
    refine ⟨?_, fun w => by cases w⟩
    rw [if_neg Bool.false_ne_true]
    split
    · next same => exact (Bool.and_eq_true_iff.1 (BitVec.getLsbD_and ▸ same ▸ bit)).1
    · exact all

/-- Every needed byte is valid in a block of its line, and dirty after a store. -/
theorem Device.l2Asked_needed (d : Device) (write : Bool) : ∃ b ∈ d.l2Asked h line need write, b.hall = h ∧ b.line = line ∧
    b.valid.getLsbD i = true ∧ (write = true → b.dirty.getLsbD i = true) := by
  obtain ⟨want, runs, -, wanted⟩ := newRuns_runsOf (d.l2Of h line) need (if write then 1 else Config.l2Predict d.l2Fills % 8 + 1)
  have word : i / 8 < 8 := by omega
  cases free : freeWord (d.l2Of h line) (i / 8) with
  | true =>
    obtain ⟨r, hr, inside⟩ := runs.covers _ (Nat.zero_le _) (by omega) (wanted _ word (touchesWord_of_needed needed) free)
    exact ⟨_, List.mem_append_right _ (List.mem_map_of_mem hr), rfl, rfl, L2Block.made_needed hi needed write inside⟩
  | false =>
    have held : ∃ b ∈ d.l2Of h line, b.first ≤ i / 8 ∧ i / 8 < b.first + b.words := by
      by_contra none
      push Not at none
      exact Bool.false_ne_true (free.symm.trans (freeWord_iff.2 fun b hb inside => by have := none b hb inside.1; omega))
    obtain ⟨b, hb, inside⟩ := held
    obtain ⟨stood, hall, at'⟩ := mem_l2Of.1 hb
    obtain ⟨hall', at'', -, -⟩ := L2Block.used_keeps h line need write b
    exact ⟨_, List.mem_append_left _ (List.mem_map_of_mem stood), hall'.trans hall, at''.trans at',
      L2Block.used_needed hi needed write hall at' inside⟩

end

/-! ## Accesses -/

section
variable {d e : Device} (h line : Nat) (need : DWord) (write : Bool)

theorem Device.l2Take_apart (apart : BlocksApart d.l2) : BlocksApart (d.l2Take h line need write).l2 := by
  obtain ⟨e, blocks, -, take⟩ := d.l2Take_eq h line need write
  rw [take]
  exact (blocks ▸ Device.l2Asked_apart h line need write apart).sublist (Device.l2Fit_sublist ..)

variable (room : d.roomy h) (fewer : e.l2.Sublist d.l2)
include room fewer

/-- Where the hall has room before the directory gives it the line, a request evicts nothing. -/
theorem Device.l2Take_roomy : (e.l2Take h line need write).l2 = e.l2Asked h line need write ∧ (e.l2Take h line need write).dir = e.dir := by
  obtain ⟨t, blocks, dir, take⟩ := e.l2Take_eq h line need write
  have fits : l2Words t.l2 h ≤ l2Room := by
    rw [blocks]
    exact (Device.l2Asked_words h line need write).trans ((Nat.add_le_add_right (l2Words_sublist fewer h) 8).trans room.2)
  rw [take, Device.l2Fit_fits fits]
  exact ⟨blocks, dir⟩

/-- There, every needed byte stays in the hall's L2. -/
theorem Device.l2Take_needed {i : Nat} (hi : i < 64) (needed : need.getLsbD i = true) :
    ∃ b ∈ (e.l2Take h line need write).l2, b.hall = h ∧ b.line = line ∧ b.valid.getLsbD i = true ∧ (write = true → b.dirty.getLsbD i = true) := by
  rw [(Device.l2Take_roomy h line need write room fewer).1]
  exact e.l2Asked_needed hi needed write

end

/-- Settles O46: the directory only takes blocks away, and a request puts its new blocks into words that no block of the line holds,
whatever size the predictor gives them (log entry 73). -/
theorem cachesHoldBlocks : Obligations.CachesHoldBlocks := by
  unfold Obligations.CachesHoldBlocks
  intro apart d h line off need (stand : BlocksApart d.l2)
  have read := d.dirRead_sublist h line
  have write := d.dirWrite_sublist h line
  refine ⟨Device.l2Take_apart h line need false (stand.sublist read), Device.l2Take_apart h line need true (stand.sublist write), ?_, ?_,
    fun room i hi needed => ⟨?_, ?_⟩⟩
  · show BlocksApart (if inMemory off then (d.dirShare (off / 64)).l3Use (off / 64) false else d).l2
    split
    · exact stand.sublist (d.dirShare_sublist _)
    · exact stand
  · show BlocksApart (if inMemory off then (d.dirRecall (off / 64)).l3Use (off / 64) true else d).l2
    split
    · exact stand.sublist (d.dirRecall_sublist _)
    · exact stand
  · obtain ⟨b, hb, hall, at', valid, -⟩ := Device.l2Take_needed h line need false room read hi needed
    exact ⟨b, hb, hall, at', valid⟩
  · obtain ⟨b, hb, hall, at', valid, dirty⟩ := Device.l2Take_needed h line need true room write hi needed
    exact ⟨b, hb, hall, at', valid, dirty rfl⟩

end Sys2Proof.Machine
end

section
/-!
SUPPORT. Memory errors (R88 to R91): an uncorrectable error is counted and reported, and what it strikes is poisoned.
-/
namespace Sys2Proof.Machine

/-! ## Counting and reporting (R91) -/

/-- From one device to another, an uncorrectable error is counted for its structure and reported with its place, and nothing else changes. -/
structure Device.Counts (d e : Device) (index place : Nat) (addr : Option Nat) : Prop where
  counter : e.reg (0x3000 + 8 * index) = Machine.putBits (d.reg (0x3000 + 8 * index)) 31 24 (min (bits (d.reg (0x3000 + 8 * index)) 31 24 + 1) 0xFF)
  others : ∀ o, o ≠ 0x3000 + 8 * index → e.reg o = d.reg o
  report : e.mgmt = d.mgmt ++ [{ source := index, place := place, addr := addr }]
  rest : { e with ctrl := d.ctrl, mgmt := d.mgmt } = d

/-- A register set and a report made: that register, every other one, the reports, and the rest of the device. -/
theorem Device.setReg_notify (d : Device) (o v index place : Nat) (addr : Option Nat) :
    let e := (d.setReg o v).notify index place addr
    (∀ x, e.reg x = if x = o then v else d.reg x) ∧ e.mgmt = d.mgmt ++ [{ source := index, place := place, addr := addr }] ∧
      { e with ctrl := d.ctrl, mgmt := d.mgmt } = d :=
  ⟨d.reg_setReg o v, rfl, rfl⟩

theorem Device.countUe_counts (d : Device) (index place : Nat) (addr : Option Nat) : d.Counts (d.countUe index place addr) index place addr := by
  obtain ⟨regs, report, rest⟩ := d.setReg_notify (0x3000 + 8 * index) _ index place addr
  exact ⟨(regs _).trans (if_pos rfl), fun o other => (regs o).trans (if_neg other), report, rest⟩

theorem Device.Counts.badAt {d e : Device} {index place : Nat} {addr : Option Nat} (h : d.Counts e index place addr) (a : Nat) :
    e.badAt a = d.badAt a :=
  (congrArg (fun z : Device => Store.get false z.bad (a / 16)) h.rest : _)

theorem Device.Counts.flight {d e : Device} {index place : Nat} {addr : Option Nat} (h : d.Counts e index place addr) (f : Nat) :
    e.flight f = d.flight f :=
  (congrArg (fun z : Device => Store.get Flight.empty z.flights f) h.rest : _)

/-- What the obligation says of a counted error, from one state to another. -/
def ErrorCounted (index place : Nat) (addr : Option Nat) (s t : State) : Prop :=
  t.dev.reg (0x3000 + 8 * index) = putBits (s.dev.reg (0x3000 + 8 * index)) 31 24 (min (bits (s.dev.reg (0x3000 + 8 * index)) 31 24 + 1) 0xFF) ∧
  (∀ o, o ≠ 0x3000 + 8 * index → t.dev.reg o = s.dev.reg o) ∧
  t.dev.mgmt = s.dev.mgmt ++ [{ source := index, place := place, addr := addr }] ∧ t.cx = s.cx ∧ t.turns = s.turns ∧ t.free = s.free

/-- An error counted in a device that has the registers and the reports of a state. -/
theorem Device.Counts.errorCounted {s u : State} {e : Device} {index place : Nat} {addr : Option Nat} (h : u.dev.Counts e index place addr)
    (ctrl : u.dev.ctrl = s.dev.ctrl) (mgmt : u.dev.mgmt = s.dev.mgmt) (cx : u.cx = s.cx) (turns : u.turns = s.turns) (free : u.free = s.free) :
    ErrorCounted index place addr s (u.setDev e) := by
  have reg (o : Nat) : u.dev.reg o = s.dev.reg o := by unfold Device.reg; rw [ctrl]
  exact ⟨h.counter.trans (by rw [reg]), fun o other => (h.others o other).trans (reg o), h.report.trans (by rw [mgmt]), cx, turns, free⟩

/-! ## Poison of memory (R89) -/

theorem Store.get_setEach {α : Type} [DecidableEq α] (d x : α) (key : Nat → Nat) (n : Nat) (m : Store α) (g : Nat) :
    Store.get d ((List.range n).foldl (fun b k => Store.set d b (key k) x) m) g = if ∃ k, k < n ∧ key k = g then x else Store.get d m g := by
  induction n with
  | zero => simp
  | succ n ih =>
    rw [List.range_succ, List.foldl_append, List.foldl_cons, List.foldl_nil, Store.get_set, ih]
    by_cases last : g = key n
    · rw [if_pos last, if_pos ⟨n, by omega, last.symm⟩]
    · rw [if_neg last]
      refine if_congr ⟨fun ⟨k, hk, e⟩ => ⟨k, by omega, e⟩, fun ⟨k, hk, e⟩ => ⟨k, ?_, e⟩⟩ rfl rfl
      have : k ≠ n := fun same => last (same ▸ e.symm)
      omega

/-- An error of a code word of whole granules poisons the bytes of that word. -/
theorem Device.badAt_spoil (d : Device) (o : Nat) {n : Nat} (whole : 16 ∣ n) (positive : 0 < n) (a : Nat) :
    (d.spoil o n).badAt a = if a / n = o / n then true else d.badAt a := by
  obtain ⟨m, rfl⟩ := whole
  have some : 0 < m := by omega
  have granules : 16 * m / 16 = m := Nat.mul_div_cancel_left m (by decide)
  have word : a / (16 * m) = a / 16 / m := (Nat.div_div_eq_div_mul ..).symm
  refine (Store.get_setEach false true (fun k => o / (16 * m) * (16 * m / 16) + k) _ d.bad (a / 16)).trans (if_congr ?_ rfl rfl)
  rw [granules, word]
  constructor
  · rintro ⟨k, hk, e⟩
    rw [← e, Nat.mul_comm, Nat.mul_add_div some, Nat.div_eq_of_lt hk, Nat.add_zero]
  · exact fun e => ⟨a / 16 % m, Nat.mod_lt _ some, by rw [← e, Nat.mul_comm, Nat.div_add_mod]⟩

/-! ## The cohort and the company that an error strikes -/

theorem State.isAt_here {s : State} {core : Nat} (placed : s.co.place = .core core) (here : s.me.stat ≠ .absent) :
    s.isAt s.co.dseq s.me.j = true := by
  simp [State.isAt, placed, here]

/-- An operation on the current company that leaves the cohort and the company's place and number happens where it stands. -/
theorem State.onCompany_here {s : State} (placed : s.co.place ≠ .absent) (here : s.me.stat ≠ .absent) (f : State → State)
    (me : (f s).me = s.me) (place : (f s).co.place = s.co.place) (dseq : (f s).co.dseq = s.co.dseq) : s.onCompany s.co.dseq f = f s := by
  have current : s.focusCo s.co.dseq = s := if_pos ⟨placed, rfl⟩
  have at' : (f s).isAt s.co.dseq s.me.j = true := by simp [State.isAt, me, place, dseq, placed, here]
  unfold State.onCompany
  rw [current]
  exact (if_pos ⟨placed, rfl⟩).trans ((if_neg here).trans (State.focus_at _ _ _ at'))

theorem find_insertCompany (c : Company) : ∀ (cs : List Company), (∀ x ∈ cs, x.dseq ≠ c.dseq) →
    (insertCompany c cs).find? (fun x => x.dseq == c.dseq) = some c := by
  intro cs
  induction cs with
  | nil => intro _; simp [insertCompany]
  | cons x xs ih =>
    intro others
    obtain ⟨head, tail⟩ := List.forall_mem_cons.1 others
    unfold insertCompany
    split
    · simp
    · rw [List.find?_cons_of_neg (by simp [head]), ih tail]

@[simp] theorem State.coAll_dseq (s : State) : s.coAll.dseq = s.co.dseq := by unfold State.coAll; split <;> rfl
@[simp] theorem State.coAll_place (s : State) : s.coAll.place = s.co.place := by unfold State.coAll; split <;> rfl

/-- The core that a report of the current company names. -/
theorem State.coreOfDseq_here {s : State} {core : Nat} (placed : s.co.place = .core core) (others : ∀ h ∈ s.dev.companies, h.dseq ≠ s.co.dseq) :
    s.coreOfDseq s.co.dseq = core := by
  have company : s.companyOf s.co.dseq = s.coAll := by
    have found := find_insertCompany s.coAll s.dev.companies (by simpa using others)
    rw [State.coAll_dseq] at found
    rw [State.companyOf, State.companies, if_neg (by simp [placed]), found]
    rfl
  rw [State.coreOfDseq, company, Company.coreOf, State.coAll_place, placed]
  rfl

/-! ## What an error strikes (R89) -/

/-- A cohort with a word of a vector register poisoned, where the register is allocated. -/
def Cohort.spoilWord (c : Cohort) (r lane : Nat) : Cohort :=
  if c.allocated r then c.vput r { c.vget r with poison := (c.vget r).poison ||| (1#64 <<< lane) } else c

/-- A tile with an element poisoned. -/
def Tile.spoil (x : Tile) (row col : Nat) : Tile := { x with poison := Store.set false x.poison (64 * (row % 64) + col % 64) true }

/-- A company with an element of a tile poisoned, where the tile is held. -/
def Company.spoilTile (c : Company) (t row col : Nat) : Company :=
  match Store.get none c.tiles t with
  | some x => { c with tiles := Store.set none c.tiles t (some (x.spoil row col)) }
  | none => c

/-- A company with a granule of its local store poisoned. -/
def Company.spoilLocal (c : Company) (o : Nat) : Company :=
  if o < c.lsLen then { c with lsBad := Store.set false c.lsBad (o / 16) true } else c

/-- A company with a granule of a gallery slot poisoned, and the slot with it (R78). -/
def Company.spoilSlot (c : Company) (n o : Nat) : Company :=
  { c with slots := c.slots.mapIdx fun k x =>
    if k = n then { x with poison := true, bad := Store.set false x.bad (o % 65536 / 16) true } else x }

theorem Cohort.spoilWord_rest {c : Cohort} {r : Nat} (lane : Nat) (held : c.allocated r = true) : { c.spoilWord r lane with v := c.v } = c ∧
    (∀ k, k ≠ r → (c.spoilWord r lane).vget k = c.vget k) ∧
    (c.spoilWord r lane).vget r = { c.vget r with poison := (c.vget r).poison ||| (1#64 <<< lane) } := by
  rw [Cohort.spoilWord, if_pos held]
  exact ⟨rfl, fun k other => by rw [Cohort.vget_vput, if_neg other], by rw [Cohort.vget_vput, if_pos rfl]⟩

theorem Tile.spoil_at (x : Tile) (row col a b : Nat) : (x.spoil row col).at a b = x.at a b := rfl

theorem Tile.spoil_bad (x : Tile) {row col a b : Nat} (hrow : row < 64) (hcol : col < 64) (hb : b < 64) :
    (x.spoil row col).bad a b = if (a, b) = (row, col) then true else x.bad a b := by
  rw [Tile.bad, Tile.spoil, Store.get_set, Nat.mod_eq_of_lt hrow, Nat.mod_eq_of_lt hcol]
  exact if_congr (by rw [Prod.mk.injEq]; omega) rfl rfl

theorem Company.spoilTile_none {c : Company} {t : Nat} (row col : Nat) (h : Store.get none c.tiles t = none) : c.spoilTile t row col = c := by
  unfold Company.spoilTile; rw [h]

theorem Company.spoilTile_some {c : Company} {t : Nat} {x : Tile} (row col : Nat) (h : Store.get none c.tiles t = some x) :
    c.spoilTile t row col = { c with tiles := Store.set none c.tiles t (some (x.spoil row col)) } := by
  unfold Company.spoilTile; rw [h]

theorem Company.spoilTile_same {c : Company} {t : Nat} {x : Tile} (row col : Nat) (h : Store.get none c.tiles t = some x) :
    Store.get none (c.spoilTile t row col).tiles t = some (x.spoil row col) := by
  rw [Company.spoilTile_some row col h]
  exact Store.get_set_same none c.tiles t (some (x.spoil row col))

/-- Poisoning a tile's element changes the tiles alone. -/
theorem Company.spoilTile_eq (c : Company) (t row col : Nat) : c.spoilTile t row col = { c with tiles := (c.spoilTile t row col).tiles } := by
  unfold Company.spoilTile; split <;> rfl

/-- Poisoning a tile's element changes that tile alone. -/
theorem Company.spoilTile_other (c : Company) {t k : Nat} (row col : Nat) (other : k ≠ t) :
    Store.get none (c.spoilTile t row col).tiles k = Store.get none c.tiles k := by
  cases held : Store.get none c.tiles t with
  | none => rw [Company.spoilTile_none row col held]
  | some x => rw [Company.spoilTile_some row col held]; exact Store.get_set_other none c.tiles (some (x.spoil row col)) other

section
variable {s : State} {core : Nat} (placed : s.co.place = .core core) (here : s.me.stat ≠ .absent)
  (others : ∀ h ∈ s.dev.companies, h.dseq ≠ s.co.dseq)
include placed here others

/-- An error in the current cohort is counted at the core of its company. -/
theorem State.errorCohort_here (f : State → State) (index : Nat) :
    (s.onCohort s.co.dseq s.me.j f).mapDev (fun d => d.countUe index (s.coreOfDseq s.co.dseq) none) =
      (f s).mapDev fun d => d.countUe index core none := by
  rw [State.onCohort_at _ _ _ _ (State.isAt_here placed here), State.coreOfDseq_here placed others]

/-- An error in the current company is counted at its core. -/
theorem State.errorCompany_here (f : State → State) (index : Nat) {c : Company} (change : f s = s.setCo c) (place : c.place = s.co.place)
    (dseq : c.dseq = s.co.dseq) : (s.onCompany s.co.dseq f).mapDev (fun d => d.countUe index (s.coreOfDseq s.co.dseq) none) =
      (s.setCo c).mapDev fun d => d.countUe index core none := by
  rw [State.onCompany_here (by simp [placed]) here f (by rw [change]; rfl) (by rw [change]; exact place) (by rw [change]; exact dseq),
    State.coreOfDseq_here placed others, change]

theorem exec_error_vreg (r : Reg) (lane : Nat) : exec (.uncorrectableError (.vreg s.co.dseq s.me.j r lane)) s =
    .next ((s.setMe (s.me.spoilWord r.toNat lane)).mapDev fun d => d.countUe 0 core none) := by
  refine (congrArg _ (State.errorCohort_here placed here others _ 0)).trans ?_
  unfold Cohort.spoilWord
  split <;> rfl

theorem exec_error_sreg (r : Reg) : exec (.uncorrectableError (.sreg s.co.dseq s.me.j r)) s =
    .next ((s.setMe { s.me with sp := s.me.sp ||| (1#64 <<< r.toNat) }).mapDev fun d => d.countUe 0 core none) :=
  congrArg _ (State.errorCohort_here placed here others _ 0)

theorem exec_error_tile (t : BitVec 4) (row col : Nat) : exec (.uncorrectableError (.tile s.co.dseq t row col)) s =
    .next ((s.setCo (s.co.spoilTile t.toNat row col)).mapDev fun d => d.countUe 1 core none) := by
  refine congrArg _ (State.errorCompany_here placed here others _ 1 ?_ ?_ ?_)
  · dsimp only
    cases held : Store.get none s.co.tiles t.toNat with
    | none => rw [Company.spoilTile_none row col held]; rfl
    | some x => rw [Company.spoilTile_some row col held]; rfl
  · rw [Company.spoilTile_eq]
  · rw [Company.spoilTile_eq]

theorem exec_error_localStore (o : Nat) : exec (.uncorrectableError (.localStore s.co.dseq o)) s =
    .next ((s.setCo (s.co.spoilLocal o)).mapDev fun d => d.countUe 2 core none) := by
  refine congrArg _ (State.errorCompany_here placed here others _ 2 ?_ ?_ ?_) <;>
    (unfold Company.spoilLocal; split <;> rfl)

theorem exec_error_gallery (n o : Nat) : exec (.uncorrectableError (.gallery s.co.dseq n o)) s =
    .next ((s.setCo (s.co.spoilSlot n o)).mapDev fun d => d.countUe 3 core none) :=
  congrArg _ (State.errorCompany_here placed here others _ 3 (c := s.co.spoilSlot n o) rfl rfl rfl)

end

/-- A counted error, without what the counting writes. -/
theorem State.mapDev_countUe (u : State) (index place : Nat) (addr : Option Nat) :
    ∃ e, u.dev.Counts e index place addr ∧ u.mapDev (fun d => d.countUe index place addr) = u.setDev e :=
  ⟨_, u.dev.countUe_counts index place addr, rfl⟩

/-- Where a code word of memory is: an error in the L3 or atrium store, HBM4 or second-tier memory (Table 3-7). -/
def errorThere (n o : Nat) : Prop :=
  (n = 5 ∧ (inMemory o = true ∨ regionOf o = .atrium)) ∨ (n = 6 ∧ regionOf o = .hbm) ∨ (n = 7 ∧ regionOf o = .tier2)

theorem exec_error_memory {n o : Nat} (s : State) (h : errorThere n o) : exec (.uncorrectableError (.memory n o)) s =
    .next ((s.setDev (s.dev.spoil o (if n = 5 then 16 else 32))).mapDev fun d => d.countUe n (bankOf o) (some (s.dev.num * 2 ^ 48 + o))) :=
  congrArg _ (if_pos h)

theorem exec_error_nowhere {n o : Nat} (s : State) (h : ¬ errorThere n o) : exec (.uncorrectableError (.memory n o)) s = .next s :=
  congrArg _ (if_neg h)

/-- Whether the L2 of a hall holds the word at an offset. -/
def Device.l2Holds (d : Device) (h o : Nat) : Prop :=
  h < 4 ∧ ∃ b ∈ d.l2, b.hall = h ∧ b.line = o / 64 ∧ b.first ≤ o % 64 / 8 ∧ o % 64 / 8 < b.first + b.words

theorem Device.l2Holds_iff (d : Device) (h o : Nat) : d.l2Holds h o ↔ h < 4 ∧ ((d.l2Of h (o / 64)).any fun b => b.holds (o % 64 / 8)) = true := by
  simp [Device.l2Holds, L2Block.holds, mem_l2Of, and_assoc]

theorem exec_error_l2 {h o : Nat} (s : State) (held : s.dev.l2Holds h o) : exec (.uncorrectableError (.l2 h o)) s =
    .next ((s.setDev (s.dev.spoil o 16)).mapDev fun d => d.countUe 4 h (some (s.dev.num * 2 ^ 48 + o))) :=
  congrArg _ (if_pos ((s.dev.l2Holds_iff h o).1 held))

theorem exec_error_unheld {h o : Nat} (s : State) (unheld : ¬ s.dev.l2Holds h o) : exec (.uncorrectableError (.l2 h o)) s = .next s :=
  congrArg _ (if_neg (mt (s.dev.l2Holds_iff h o).2 unheld))

theorem exec_error_flight {f : Nat} (s : State) (h : f < 256) : exec (.uncorrectableError (.flight f)) s =
    .next ((s.setDev (s.dev.mapFlight f fun x => { x with bad := true })).mapDev fun d => d.countUe 8 f none) :=
  congrArg _ (if_pos h)

theorem exec_error_noFlight {f : Nat} (s : State) (h : 256 ≤ f) : exec (.uncorrectableError (.flight f)) s = .next s :=
  congrArg _ (if_neg (Nat.not_lt.2 h))

theorem Device.flight_mapFlight (d : Device) (f g : Nat) (change : Flight → Flight) :
    (d.mapFlight f change).flight g = if g = f then change (d.flight f) else d.flight g := Store.get_set ..

/-! ## Corrected errors (R88) -/

theorem exec_patrolScrub {n : Nat} {c : Bool} (s : State) (h : c = true ∧ n < 9) : exec (.patrolScrub n c) s =
    .next (s.setDev (s.dev.setField (0x3000 + 8 * n) 23 0 (min (bits (s.dev.reg (0x3000 + 8 * n)) 23 0 + 1) 0xFFFFFF))) :=
  congrArg _ (if_pos h)

theorem exec_patrolScrub_clean {n : Nat} {c : Bool} (s : State) (h : ¬ (c = true ∧ n < 9)) : exec (.patrolScrub n c) s = .next s :=
  congrArg _ (if_neg h)

end Sys2Proof.Machine
end

section
/-!
SUPPORT. Requests that reach the directory (R66): its state of the line and of every other, and the writes that a hall comes to see (R115).
-/
namespace Sys2Proof.Machine

/-! ## The directory's state of a line -/

theorem Device.dirOf_set (d : Device) (line x l : Nat) :
    ({ d with dir := Store.set 0 d.dir line x } : Device).dirOf l = if l = line then x else d.dirOf l := Store.get_set ..

theorem Device.l2Drop_dir (d : Device) (line : Nat) (of : Nat → Bool) : (d.l2Drop line of).dir = d.dir := by
  unfold Device.l2Drop
  dsimp only
  split <;> rfl

theorem Device.dirOf_l2Drop (d : Device) (line : Nat) (of : Nat → Bool) (l : Nat) : (d.l2Drop line of).dirOf l = d.dirOf l := by
  rw [Device.dirOf, Device.l2Drop_dir, Device.dirOf]

theorem Device.dirOf_dirRecall (d : Device) (line l : Nat) : (d.dirRecall line).dirOf l = if l = line then 0 else d.dirOf l :=
  ((d.l2Drop line _).dirOf_set line 0 l).trans (by rw [Device.dirOf_l2Drop])

theorem Device.dirRoom_roomy {d : Device} {h : Nat} (room : d.roomy h) (line : Nat) : d.dirRoom line = d :=
  if_neg fun full => absurd full.2 (Nat.not_le.2 room.1)

/-- The directory's state of a line after a hall's request for it (R66). -/
def dirAfter (x h : Nat) (write : Bool) : Nat :=
  if write then 0x100 + h else if x = 0x100 + h then 0x100 + h else if 0x100 ≤ x then 1 + 2 ^ h else 1 + ((x - 1) ||| 2 ^ h)

section
variable {d : Device} {h : Nat} (room : d.roomy h) (line l : Nat)
include room

theorem Device.dirOf_dirWrite : (d.dirWrite h line).dirOf l = if l = line then dirAfter (d.dirOf line) h true else d.dirOf l := by
  unfold Device.dirWrite
  dsimp only
  rw [Device.dirOf_set, Device.dirOf_l2Drop, Device.dirRoom_roomy room]
  rfl

theorem Device.dirOf_dirRead : (d.dirRead h line).dirOf l = if l = line then dirAfter (d.dirOf line) h false else d.dirOf l := by
  unfold Device.dirRead
  dsimp only
  rw [Device.dirOf_set, Device.dirRoom_roomy room]
  unfold dirAfter
  by_cases recalled : 0x100 ≤ d.dirOf line ∧ d.dirOf line ≠ 0x100 + h
  · rw [if_pos recalled, Device.dirOf_dirRecall, Device.dirOf_dirRecall, if_pos rfl]
    by_cases at' : l = line
    · have untracked : ¬ 0 = 0x100 + h := by omega
      simp [at', recalled.1, recalled.2, untracked]
    · simp [at']
  · rw [if_neg recalled]
    simp only [Bool.false_eq_true, if_false]
    refine if_congr Iff.rfl ?_ rfl
    by_cases mine : d.dirOf line = 0x100 + h
    · rw [if_pos mine, if_pos mine, mine]
    · rw [if_neg mine, if_neg mine, if_neg fun other => recalled ⟨other, mine⟩]

end

/-! ## Requests -/

/-- The device after a hall's request for a line. -/
def Device.lineRequest (d : Device) (h line : Nat) (write : Bool) : Device :=
  if write then d.hallStore h line 0#64 else d.hallLoad h line (BitVec.allOnes 64)

theorem Device.lineRequest_rest (d : Device) (h line : Nat) (write : Bool) : d.lineRequest h line write = d.withCaches (d.lineRequest h line write) := by
  cases write <;> rfl

theorem Device.dirOf_lineRequest {d : Device} {h : Nat} (room : d.roomy h) (line : Nat) (write : Bool) (l : Nat) :
    (d.lineRequest h line write).dirOf l = if l = line then dirAfter (d.dirOf line) h write else d.dirOf l := by
  cases write with
  | true =>
    rw [← Device.dirOf_dirWrite room]
    exact congrArg (Store.get 0 · l) (Device.l2Take_roomy h line 0#64 true room (d.dirWrite_sublist h line)).2
  | false =>
    rw [← Device.dirOf_dirRead room]
    exact congrArg (Store.get 0 · l) (Device.l2Take_roomy h line (BitVec.allOnes 64) false room (d.dirRead_sublist h line)).2

theorem exec_directoryRequest {hall line : Nat} (write : Bool) {s : State} (h : hall < 4) (memory : inMemory (line * 64) = true)
    (unowned : s.dev.ownedLine line = false) :
    exec (.directoryRequest (.request hall line write)) s = .next (s.setDev (s.dev.lineRequest hall line write)) :=
  congrArg _ (if_pos ⟨h, memory, unowned⟩)

theorem exec_directoryRequest_held {hall line : Nat} (write : Bool) {s : State}
    (held : ¬ (inMemory (line * 64) = true) ∨ s.dev.ownedLine line = true) : exec (.directoryRequest (.request hall line write)) s = .next s :=
  congrArg _ (if_neg fun ⟨_, memory, unowned⟩ => held.elim (· memory) fun owned => Bool.false_ne_true (unowned.symm.trans owned))

theorem Fetched.of_lineRequest (s : State) (h line : Nat) (write : Bool) : Fetched s (s.setDev (s.dev.lineRequest h line write)) h line write where
  rest := congrArg s.setDev (s.dev.lineRequest_rest h line write)
  others room l other := (Device.dirOf_lineRequest room line write l).trans (if_neg other)
  state room := (Device.dirOf_lineRequest room line write line).trans (if_pos rfl)

/-! ## Writes that a hall comes to see -/

/-- The `k`-th write that a hall has still to see, no earlier one being of its line (R98, R115). -/
def Inval.First (l : List Inval) (k : Nat) (e : Inval) : Prop :=
  l[k]? = some e ∧ ∀ z ∈ l.take k, ∀ p ∈ z.old, ∀ q ∈ e.old, p.1 / 64 ≠ q.1 / 64

theorem Inval.takeOut_first {l : List Inval} {k : Nat} {e : Inval} (h : Inval.First l k e) : Inval.takeOut k l = l.eraseIdx k := by
  obtain ⟨at', earlier⟩ := h
  unfold Inval.takeOut
  rw [at']
  exact if_neg (by simpa [Inval.sameLine] using earlier)

theorem Inval.takeOut_held {l : List Inval} {k : Nat} (h : ∀ e, ¬ Inval.First l k e) : Inval.takeOut k l = l := by
  unfold Inval.takeOut
  cases at' : l[k]? with
  | none => rfl
  | some e =>
    refine if_pos ?_
    by_contra apart
    exact h e ⟨at', by simpa [Inval.sameLine] using apart⟩

theorem exec_directoryRequest_apply (hall k : Nat) (s : State) :
    exec (.directoryRequest (.apply hall k)) s = .next (s.setDev (s.dev.applyOne hall k)) := rfl

theorem Device.applyOne_hall {d : Device} {hall k g : Nat} {x y : Hall} (before : d.halls[g]? = some x) (after : (d.applyOne hall k).halls[g]? = some y) :
    y = if g = hall then { x with inval := Inval.takeOut k x.inval } else x := by
  unfold Device.applyOne at after
  rw [List.getElem?_mapIdx, before] at after
  exact (Option.some.inj after).symm

end Sys2Proof.Machine
end

section
/-!
Memory errors, corrected and not, and requests that reach the directory (R66, R88 to R91, R115).
-/
namespace Sys2Proof.Machine

/-- Settles O45, case by case. That the writes of one line are seen in their order (log entry 8) and that an agent outside the halls reads a
line only once a copy in M has been recalled (log entry 74) are choices of the model that the statement takes over. -/
theorem memoryErrors : Obligations.MemoryErrors := by
  unfold Obligations.MemoryErrors
  intro counted only
  refine ⟨fun n c s => ⟨fun corrected known => ⟨_, exec_patrolScrub s ⟨corrected, known⟩, .of_setField ..⟩, exec_patrolScrub_clean s⟩,
    fun s core placed here others => ⟨fun r lane => ?_, fun r => ?_, fun tn i c hi hc => ?_, fun o => ?_, fun n o => ?_⟩,
    fun n o s => ⟨exec_error_nowhere s, fun there => ?_⟩, fun h o s => ⟨exec_error_unheld s, fun held => ?_⟩,
    fun f s => ⟨exec_error_noFlight s, fun known => ?_⟩,
    fun hall line write s valid => ⟨exec_directoryRequest_held write, fun memory unowned => ⟨_, exec_directoryRequest write valid memory unowned, .of_lineRequest ..⟩⟩,
    fun hall k s => ⟨_, exec_directoryRequest_apply hall k s, rfl, List.length_mapIdx, fun g x y before after => ⟨fun e at' first => ?_, fun other => ?_⟩⟩⟩
  · obtain ⟨e, counts, ran⟩ := (s.setMe (s.me.spoilWord r.toNat lane)).mapDev_countUe 0 core none
    exact ⟨_, (exec_error_vreg placed here others r lane).trans (congrArg _ ran), counts.errorCounted rfl rfl rfl rfl rfl, counts.rest, rfl,
      fun free => if_neg (by rw [free]; exact Bool.false_ne_true), s.me.spoilWord_rest lane⟩
  · obtain ⟨e, counts, ran⟩ := (s.setMe { s.me with sp := s.me.sp ||| (1#64 <<< r.toNat) }).mapDev_countUe 0 core none
    exact ⟨_, (exec_error_sreg placed here others r).trans (congrArg _ ran), counts.errorCounted rfl rfl rfl rfl rfl, counts.rest, rfl, rfl⟩
  · obtain ⟨e, counts, ran⟩ := (s.setCo (s.co.spoilTile tn.toNat i c)).mapDev_countUe 1 core none
    refine ⟨_, (exec_error_tile placed here others tn i c).trans (congrArg _ ran), counts.errorCounted rfl rfl rfl rfl rfl, counts.rest, rfl, ?_,
      fun k other => Company.spoilTile_other s.co i c other, fun none => Company.spoilTile_none i c none, fun x some => ⟨x.spoil i c, Company.spoilTile_same i c some, ?_,
        fun a b _ hb => ⟨x.spoil_at i c a b, ?_⟩⟩⟩
    · exact congrArg (fun z : Company => { z with tiles := s.co.tiles }) (s.co.spoilTile_eq tn.toNat i c)
    · exact (x.spoil_bad hi hc hc).trans (if_pos rfl)
    · exact fun other => (x.spoil_bad hi hc hb).trans (if_neg other)
  · obtain ⟨e, counts, ran⟩ := (s.setCo (s.co.spoilLocal o)).mapDev_countUe 2 core none
    exact ⟨_, (exec_error_localStore placed here others o).trans (congrArg _ ran), counts.errorCounted rfl rfl rfl rfl rfl, counts.rest, rfl, rfl⟩
  · obtain ⟨e, counts, ran⟩ := (s.setCo (s.co.spoilSlot n o)).mapDev_countUe 3 core none
    exact ⟨_, (exec_error_gallery placed here others n o).trans (congrArg _ ran), counts.errorCounted rfl rfl rfl rfl rfl, counts.rest, rfl, rfl⟩
  · obtain ⟨e, counts, ran⟩ := (s.setDev (s.dev.spoil o (if n = 5 then 16 else 32))).mapDev_countUe n (bankOf o) (some (s.dev.num * 2 ^ 48 + o))
    refine ⟨_, (exec_error_memory s there).trans (congrArg _ ran), counts.errorCounted rfl rfl rfl rfl rfl, rfl, rfl,
      fun a => (counts.badAt a).trans (s.dev.badAt_spoil o ?_ ?_ a), congrArg (fun z : Device => { z with bad := s.dev.bad }) counts.rest⟩
    · split <;> decide
    · split <;> decide
  · obtain ⟨e, counts, ran⟩ := (s.setDev (s.dev.spoil o 16)).mapDev_countUe 4 h (some (s.dev.num * 2 ^ 48 + o))
    exact ⟨_, (exec_error_l2 s held).trans (congrArg _ ran), counts.errorCounted rfl rfl rfl rfl rfl, rfl, rfl,
      fun a => (counts.badAt a).trans (s.dev.badAt_spoil o (by decide) (by decide) a), congrArg (fun z : Device => { z with bad := s.dev.bad }) counts.rest⟩
  · obtain ⟨e, counts, ran⟩ := (s.setDev (s.dev.mapFlight f fun x => { x with bad := true })).mapDev_countUe 8 f none
    exact ⟨_, (exec_error_flight s known).trans (congrArg _ ran), counts.errorCounted rfl rfl rfl rfl rfl, rfl, rfl,
      (counts.flight f).trans ((s.dev.flight_mapFlight f f _).trans (if_pos rfl)),
      fun g other => (counts.flight g).trans ((s.dev.flight_mapFlight f g _).trans (if_neg other)),
      congrArg (fun z : Device => { z with flights := s.dev.flights }) counts.rest⟩
  · obtain rfl := at'
    rw [Device.applyOne_hall before after, if_pos rfl, Inval.takeOut_first first]
  · rw [Device.applyOne_hall before after]
    split
    · next at' => rw [Inval.takeOut_held (other.resolve_left (not_not.2 at'))]
    · rfl

end Sys2Proof.Machine
end

section
/-!
SUPPORT. Gallery fills (R77 to R79, R306, R307): the checks of a GFILL, the slots that it is granted, and what a fill writes.
-/
namespace Sys2Proof.Machine

/-! ## Checks (R306) -/

theorem State.rowChecks_does (sd : Side) : ∀ (parts : List (Nat × Nat)) (s : State), LaneChecked s (s.rowChecks sd parts).1 := by
  intro parts
  induction parts with
  | nil => exact fun s => ⟨.same _, fun _ => rfl, rfl⟩
  | cons part rest ih => exact fun s => (s.checkLane_does ..).trans (ih _)

theorem State.sideChecks_does (sd : Side) (len : Nat) : ∀ (os : List Nat) (s : State), LaneChecked s (s.sideChecks sd len os).1 := by
  intro os
  induction os with
  | nil => exact fun s => ⟨.same _, fun _ => rfl, rfl⟩
  | cons o os ih => exact fun s => (State.rowChecks_does sd _ s).trans (ih _)

section
variable {cs : List LaneChk} (perform : ∀ c ∈ cs, ∃ l, c.out = .at l)
include perform

/-- Checks that all perform report nothing. -/
theorem worst_performs : worst cs = none := by
  have none : cs.filterMap (fun c => c.fault 1 false) = [] := List.filterMap_eq_nil_iff.2 fun c hc => by
    obtain ⟨l, hl⟩ := perform c hc
    simp [LaneChk.fault, hl]
  unfold worst
  dsimp only
  rw [none]
  rfl

theorem copyFrame_performs (n0 : Nat) : copyFrame n0 cs [] = none := by
  refine if_pos ?_
  dsimp only
  rw [List.filterMap_eq_nil_iff.2 fun c hc => by
    obtain ⟨l, hl⟩ := perform c hc
    rw [hl]]
  simp

theorem performs_no_wait : (cs.any fun c => c.out == .wait) = false := by
  rw [List.any_eq_false]
  intro c hc
  obtain ⟨l, hl⟩ := perform c hc
  simp [hl]

end

/-- A GFILL whose checks all perform goes on to its grants (R306). -/
theorem exec_gfill {w : BitVec 3} {a d : Reg} {s u : State} {xs : List (List (LaneChk × Nat))}
    (cleanA : s.me.spoison a.toNat = false) (cleanD : s.me.spoison d.toNat = false) (global : (s.me.window w.toNat).kind = 1)
    (aligned : ((s.me.window w.toNat).base.toNat + (s.me.sget a.toNat).toNat) % 128 = 0)
    (checks : s.sideChecks { win := w.toNat, kind := 1, write := false } 65536 [(s.me.sget a.toNat).toNat] = (u, xs))
    (perform : ∀ x ∈ xs.flatten, ∃ l, x.1.out = .at l) :
    exec (.gfill w a d) s = .next (u.gfillGo ((s.me.sget d.toNat).toNat % 128)
      ((s.me.window w.toNat).base.toNat + (s.me.sget a.toNat).toNat) (xs.flatten.map fun x => { loc := x.1.out.loc, len := x.2 })) := by
  have performs : ∀ c ∈ xs.flatten.map Prod.fst, ∃ l, c.out = .at l := List.forall_mem_map.2 perform
  have segments : xs.flatMap rowSegs = xs.flatten.map fun x => { loc := x.1.out.loc, len := x.2 } := by
    rw [List.map_flatten, List.flatMap_def]; rfl
  have event : exec (.gfill w a d) s = execGfill w a d s := rfl
  rw [event]
  unfold execGfill
  dsimp only [Window.addr]
  rw [checks, cleanA, cleanD]
  dsimp only
  rw [worst_performs performs, copyFrame_performs performs, performs_no_wait performs, segments]
  simp [global, aligned]

/-! ## Grants (R307) -/

/-- The state once a company is granted `k` slots more. -/
def State.granted (s : State) (k : Nat) : State :=
  { s with co := { s.co with slots := s.co.slots ++ List.replicate k Slot.fresh }, cx := { s.cx with glgen := s.cx.glgen + BitVec.ofNat 32 k } }

theorem State.granted_none (s : State) : s.granted 0 = s := by
  simp [State.granted]

/-- The state once a company is granted one slot more. -/
def State.grantOne (s : State) : State := (s.setCo { s.co with slots := s.co.slots ++ [Slot.fresh] }).moveGlgen

@[simp] theorem State.grantOne_length (s : State) : s.grantOne.co.slots.length = s.co.slots.length + 1 := List.length_append

theorem State.granted_succ (s : State) (k : Nat) : s.grantOne.granted k = s.granted (k + 1) := by
  have slots : (s.co.slots ++ [Slot.fresh]) ++ List.replicate k Slot.fresh = s.co.slots ++ List.replicate (k + 1) Slot.fresh := by
    rw [List.append_assoc, List.replicate_succ, List.singleton_append]
  have glgen : s.cx.glgen + 1#32 + BitVec.ofNat 32 k = s.cx.glgen + BitVec.ofNat 32 (k + 1) := by
    rw [BitVec.add_assoc, Nat.add_comm k 1, BitVec.ofNat_add]
  unfold State.granted State.grantOne State.moveGlgen State.setCo State.setCx
  dsimp only
  rw [slots, glgen]

/-- Up to its floor, a company is granted the slots that it lacks (R79, R307). -/
theorem State.grantSlots_floor (n : Nat) : ∀ (fuel : Nat) (s : State), n ≤ s.co.slots.length ∨ n ≤ s.co.hdr.gfloor →
    n - s.co.slots.length ≤ fuel → s.grantSlots n fuel = s.granted (n - s.co.slots.length) := by
  intro fuel
  induction fuel with
  | zero =>
    intro s _ enough
    rw [Nat.le_zero.1 enough, State.granted_none]
    rfl
  | succ fuel ih =>
    intro s floor enough
    unfold State.grantSlots
    by_cases held : n ≤ s.co.slots.length
    · rw [if_pos held, Nat.sub_eq_zero_of_le held, State.granted_none]
    · have lacks : n - s.grantOne.co.slots.length + 1 = n - s.co.slots.length := by rw [State.grantOne_length]; omega
      have rest := ih s.grantOne (.inr (floor.resolve_left held)) (by omega)
      rw [State.granted_succ, lacks] at rest
      rw [if_neg held, if_pos (.inl (by omega))]
      exact rest

/-- Above its floor, a company waits while no slot is free or an older one asks for one (R307, R340). -/
theorem State.grantSlots_waits {s : State} {n : Nat} (lacks : s.co.slots.length < n) (floor : s.co.hdr.gfloor ≤ s.co.slots.length)
    (held : s.gfreeOf s.core = 0 ∨ s.older s.co s.core .allocG = true) (fuel : Nat) : s.grantSlots n fuel = s := by
  cases fuel with
  | zero => rfl
  | succ fuel =>
    unfold State.grantSlots
    rw [if_neg (Nat.not_le.2 lacks), if_neg]
    rintro (below | ⟨free, first⟩)
    · omega
    · rcases held with none | older
      · omega
      · exact Bool.false_ne_true (first.symm.trans older)

/-! ## The descriptor (R306) -/

/-- The fill that a GFILL of the current cohort issues. -/
def State.newFill (s : State) (slot va : Nat) (src : List Seg) : Fill :=
  { id := s.dev.nextId, dseq := s.co.dseq, j := s.me.j, slot := slot, srcva := BitVec.ofNat 56 va
    same := (s.co.slotAt slot).srcva == BitVec.ofNat 56 va, src := src, asked := false, buf := [], bad := [], refill := false }

theorem State.gfillGo_waits {s : State} {slot : Nat} (lacks : s.co.slots.length ≤ slot) (floor : s.co.hdr.gfloor ≤ s.co.slots.length)
    (held : s.gfreeOf s.core = 0 ∨ s.older s.co s.core .allocG = true) (va : Nat) (src : List Seg) :
    s.gfillGo slot va src = s.waitOn .allocG := by
  unfold State.gfillGo
  dsimp only
  rw [State.grantSlots_waits (Nat.lt_succ_of_le lacks) floor held, if_pos lacks]

/-- The state that a GFILL leaves: the slots granted that its company lacks, the fill issued, the descriptor set. -/
def State.gfilled (s : State) (slot va : Nat) (src : List Seg) : State :=
  ((s.granted (slot + 1 - s.co.slots.length)).startFill slot va src false).retire 4

/-- A GFILL of a slot that its company holds or is owed starts its fill and retires. -/
theorem State.gfillGo_starts {s : State} {slot : Nat} (small : slot < 128) (floor : slot < s.co.slots.length ∨ slot < s.co.hdr.gfloor)
    (va : Nat) (src : List Seg) : s.gfillGo slot va src = s.gfilled slot va src := by
  have held : ¬ (s.granted (slot + 1 - s.co.slots.length)).co.slots.length ≤ slot := by
    show ¬ (s.co.slots ++ List.replicate (slot + 1 - s.co.slots.length) Slot.fresh).length ≤ slot
    rw [List.length_append, List.length_replicate]
    omega
  unfold State.gfillGo
  dsimp only
  rw [State.grantSlots_floor (slot + 1) 128 s (by omega) (by omega), if_neg held]
  rfl

section
variable (s : State) (slot va : Nat) (src : List Seg)

theorem State.gfilled_me : (s.gfilled slot va src).me = s.me.retire 4 := rfl

theorem State.gfilled_dev : (s.gfilled slot va src).dev = { s.dev with
    fills := s.dev.fills ++ [(s.granted (slot + 1 - s.co.slots.length)).newFill slot va src], nextId := s.dev.nextId + 1 } := rfl

theorem State.gfilled_co : (s.gfilled slot va src).co = { s.co with
    slots := (s.co.slots ++ List.replicate (slot + 1 - s.co.slots.length) Slot.fresh).mapIdx fun i x => if i = slot then
      { x with srcva := BitVec.ofNat 56 va, asid := BitVec.ofNat 12 s.co.asid, gen := ptgenOf s.dev va s.co.asid } else x } := rfl

theorem State.gfilled_cx : (s.gfilled slot va src).cx =
    { s.cx with glgen := s.cx.glgen + BitVec.ofNat 32 (slot + 1 - s.co.slots.length) } := rfl

end

/-! ## What a fill writes (R78) -/

/-- The stored bytes of a slot whose offsets hold the bytes and poison that a function gives. -/
def slotBytes (at' : Nat → Byte × Bool) (n : Nat) : Store Byte :=
  (List.range n).filterMap fun o => if (at' o).1 = 0#8 then none else some (o, (at' o).1)

/-- The poisoned granules of such a slot. -/
def slotBad (at' : Nat → Byte × Bool) (n : Nat) : Store Bool :=
  (List.range n).filterMap fun g => if (List.range 16).any fun i => (at' (16 * g + i)).2 then some (g, true) else none

section
variable (at' : Nat → Byte × Bool) {n : Nat}

theorem get_slotBytes {o : Nat} (h : o < n) : Store.get 0#8 (slotBytes at' n) o = (at' o).1 :=
  Store.get_filterMap 0#8 (fun o => (at' o).1) (List.mem_range.2 h)

/-- A granule is poisoned where one of its bytes is. -/
theorem any_granule (g : Nat) : ((List.range 16).any fun i => (at' (16 * g + i)).2) = true ↔ ∃ o, o / 16 = g ∧ (at' o).2 = true := by
  rw [List.any_eq_true]
  constructor
  · rintro ⟨i, hi, bad⟩
    exact ⟨_, by have := List.mem_range.1 hi; omega, bad⟩
  · rintro ⟨o, rfl, bad⟩
    exact ⟨o % 16, List.mem_range.2 (Nat.mod_lt _ (by decide)), by rwa [Nat.div_add_mod]⟩

theorem get_slotBad {g : Nat} (h : g < n) : Store.get false (slotBad at' n) g = true ↔ ∃ o, o / 16 = g ∧ (at' o).2 = true := by
  have table : slotBad at' n = (List.range n).filterMap fun g =>
      if ((List.range 16).any fun i => (at' (16 * g + i)).2) = false then none
      else some (g, (List.range 16).any fun i => (at' (16 * g + i)).2) := by
    unfold slotBad
    refine List.filterMap_congr fun g _ => ?_
    cases (List.range 16).any fun i => (at' (16 * g + i)).2 <;> rfl
  rw [table, Store.get_filterMap false _ (List.mem_range.2 h), any_granule]

/-- A slot is poisoned where one of its bytes is (R78). -/
theorem slotBad_nonempty : (!(slotBad at' n).isEmpty) = true ↔ ∃ o, o < 16 * n ∧ (at' o).2 = true := by
  rw [Bool.not_eq_true', Bool.eq_false_iff, ne_eq, List.isEmpty_iff, slotBad, List.filterMap_eq_nil_iff]
  constructor
  · intro some
    by_contra none
    refine some fun g hg => if_neg fun any => none ?_
    obtain ⟨o, inside, bad⟩ := (any_granule at' g).1 any
    exact ⟨o, by have := List.mem_range.1 hg; omega, bad⟩
  · rintro ⟨o, inside, bad⟩ clean
    have granule := clean (o / 16) (List.mem_range.2 (by omega))
    rw [if_pos ((any_granule at' _).2 ⟨o, rfl, bad⟩)] at granule
    cases granule

end

/-- A slot that a fill has written. -/
def Slot.written (x : Slot) (bytes : Store Byte) (bad : Store Bool) : Slot :=
  { x with valid := true, poison := !bad.isEmpty, filled := true, returned := false, bytes := bytes, bad := bad }

/-- A fill writes its slot of the current company; GLGEN moves for the first fill and for another source, but for no refill (R79). -/
def State.fillSlot (s : State) (f : Fill) (bytes : Store Byte) (bad : Store Bool) : State :=
  let t := s.mapSlot f.slot fun x => x.written bytes bad
  if !f.refill && (!(s.co.slotAt f.slot).filled || !f.same) then t.moveGlgen else t

section
variable (s : State) (f : Fill) (bytes : Store Byte) (bad : Store Bool)

/-- Whether a fill moves GLGEN: no refill, and the first of its slot or one of another source (R79). -/
def State.movesGlgen (s : State) (f : Fill) : Prop := f.refill = false ∧ ((s.co.slotAt f.slot).filled = false ∨ f.same = false)

theorem State.fillSlot_moves (h : s.movesGlgen f) :
    s.fillSlot f bytes bad = (s.mapSlot f.slot fun x => x.written bytes bad).moveGlgen :=
  if_pos (by simpa [State.movesGlgen] using h)

theorem State.fillSlot_stays (h : ¬ s.movesGlgen f) : s.fillSlot f bytes bad = s.mapSlot f.slot fun x => x.written bytes bad :=
  if_neg (by simpa [State.movesGlgen] using h)

theorem State.fillSlot_cx : (s.movesGlgen f → (s.fillSlot f bytes bad).cx = { s.cx with glgen := s.cx.glgen + 1#32 }) ∧
    (¬ s.movesGlgen f → (s.fillSlot f bytes bad).cx = s.cx) :=
  ⟨fun h => by rw [s.fillSlot_moves f bytes bad h]; rfl, fun h => by rw [s.fillSlot_stays f bytes bad h]; rfl⟩

theorem State.fillSlot_eq : s.fillSlot f bytes bad =
    { s with co := { s.co with slots := s.co.slots.mapIdx fun k x => if k = f.slot then x.written bytes bad else x }, cx := (s.fillSlot f bytes bad).cx } := by
  by_cases h : s.movesGlgen f
  · rw [s.fillSlot_moves f bytes bad h]; rfl
  · rw [s.fillSlot_stays f bytes bad h]; rfl

end

/-- The byte that a fill puts at an offset of its slot, and whether it is poisoned (R78). -/
def State.fillAt (s : State) (f : Fill) (o : Nat) : Byte × Bool := (s.fillBytes f).getD (fillSource o) (0#8, false)

theorem State.endFill_eq (s : State) (f : Fill) : s.endFill f =
    (s.setDev { s.dev with fills := s.dev.fills.filter fun g => g.id != f.id }).onCompany f.dseq fun u =>
      u.fillSlot f (slotBytes (s.fillAt f) 65536) (slotBad (s.fillAt f) 4096) := by
  have get (o : Nat) : (s.fillBytes f).toArray.getD (fillSource o) (0#8, false) = s.fillAt f o := by
    simp [State.fillAt]
  unfold State.endFill
  simp only [get]
  rfl

end Sys2Proof.Machine
end

section
/-!
GFILL and GALLERY_FILL_COMPLETE (R77 to R80, R306, R307).
-/
namespace Sys2Proof.Machine

theorem exec_galleryFillComplete {s : State} {f : Fill} (found : s.dev.fills.find? (fun g => g.id == f.id) = some f)
    (ready : s.fillReady f = true) (quiet : s.dev.waitsFor (.fill f.id) = false) (asked : f.asked = true ∨ f.src.any (fun g => g.loc.away) = false)
    (whole : f.src.any s.dev.cutSeg = false) : exec (.galleryFillComplete f.id) s = .next (s.endFill f) := by
  have event : exec (.galleryFillComplete f.id) s = execGalleryFillComplete f.id s := rfl
  have here : ¬ (f.asked = false ∧ f.src.any (fun g => g.loc.away) = true) := fun ⟨unasked, away⟩ =>
    asked.elim (fun h => Bool.false_ne_true (unasked.symm.trans h)) fun h => Bool.false_ne_true (h.symm.trans away)
  rw [event]
  unfold execGalleryFillComplete
  rw [found]
  dsimp only
  rw [if_neg (by simp [ready, quiet]), if_neg here, State.cutFill, whole]
  rfl

theorem exec_galleryFillComplete_waits {s : State} {f : Fill} (found : s.dev.fills.find? (fun g => g.id == f.id) = some f)
    (waits : s.fillReady f = false ∨ s.dev.waitsFor (.fill f.id) = true) : exec (.galleryFillComplete f.id) s = .next s := by
  have event : exec (.galleryFillComplete f.id) s = execGalleryFillComplete f.id s := rfl
  rw [event]
  unfold execGalleryFillComplete
  rw [found]
  exact congrArg _ (if_pos waits)

theorem Looked.fills {d e : Device} (h : Looked d e) : e.fills = d.fills := (congrArg Device.fills h.frame : _)

/-- A fill of the current company writes its slot where it stands. -/
theorem State.endFill_here {s : State} {f : Fill} (own : f.dseq = s.co.dseq) (placed : s.co.place ≠ .absent) (here : s.me.stat ≠ .absent) :
    s.endFill f = (s.setDev { s.dev with fills := s.dev.fills.filter fun g => g.id != f.id }).fillSlot f
      (slotBytes (s.fillAt f) 65536) (slotBad (s.fillAt f) 4096) := by
  have writes (d : Device) (bytes : Store Byte) (bad : Store Bool) :
      (s.setDev d).onCompany s.co.dseq (fun u => u.fillSlot f bytes bad) = (s.setDev d).fillSlot f bytes bad :=
    State.onCompany_here (s := s.setDev d) placed here (fun u => u.fillSlot f bytes bad) (by rw [State.fillSlot_eq]) (by rw [State.fillSlot_eq])
      (by rw [State.fillSlot_eq])
  rw [State.endFill_eq, own]
  exact writes ..

/-- Settles O41: what the checks of a GFILL leave, what it is granted and issues, and what its fill writes. That a fill is one event (log
entry 20), that a request above the floor waits behind older companies (log entry 91) and that floor slots may be granted before it (log
entry 15) are choices of the model that the statement takes over. -/
theorem galleryFills : Obligations.GalleryFills := by
  unfold Obligations.GalleryFills
  refine ⟨fun w a d s u xs => ?_, fun s f found => ⟨exec_galleryFillComplete_waits found, fun ready quiet asked whole own placed here => ?_⟩⟩
  · intro o va n k base cleanA cleanD global aligned checks perform
    have ran := exec_gfill cleanA cleanD global aligned checks perform
    have checked : LaneChecked s u := by
      have does := State.sideChecks_does { win := w.toNat, kind := 1, write := false } 65536 [o] s
      rwa [checks] at does
    have me := checked.me
    have co : u.co = s.co := (congrArg State.co checked.rest : _)
    have cx : u.cx = s.cx := (congrArg State.cx checked.rest : _)
    have turns : u.turns = s.turns := (congrArg State.turns checked.rest : _)
    have free : u.free = s.free := (congrArg State.free checked.rest : _)
    have core : u.core = s.core := by rw [State.core, co, State.core]
    refine ⟨fun held => ?_, fun lacks floor none => ?_⟩
    · have small : n < 128 := Nat.mod_lt _ (by decide)
      have within : n < base.length := by
        rw [List.length_append, List.length_replicate]
        omega
      have left : (u.gfilled n va (xs.flatten.map fun x => { loc := x.1.out.loc, len := x.2 })).me = ({ s.me with win := u.me.win } : Cohort).retire 4 :=
        (u.gfilled_me ..).trans (congrArg (Cohort.retire · 4) me)
      refine ⟨_, (u.granted (n + 1 - u.co.slots.length)).newFill n va (xs.flatten.map fun x => { loc := x.1.out.loc, len := x.2 }),
        ran.trans (congrArg _ (State.gfillGo_starts small (by rw [co]; exact held) va _)), ?_,
        (u.gfilled_dev ..).trans (by rw [checked.dev.fills, checked.dev.nextId]), checked.dev, (congrArg Company.dseq co : _),
        (congrArg Cohort.j me : _), rfl, rfl, rfl, rfl, ?_,
        (u.gfilled_co ..).trans (by rw [co]), (u.gfilled_cx ..).trans (by rw [cx, co]), checked.windows, ?_, turns, free⟩
      · exact ⟨congrArg Cohort.pc left, congrArg Cohort.icount left, congrArg Cohort.wait left⟩
      · show (((u.co.slots ++ List.replicate (n + 1 - u.co.slots.length) Slot.fresh).getD n _).srcva == BitVec.ofNat 56 va) = _
        rw [co]
        exact congrArg (fun x : Slot => x.srcva == BitVec.ofNat 56 va) ((List.getD_eq_getElem _ _ within).trans (List.getD_eq_getElem _ _ within).symm)
      · exact congrArg (fun c : Cohort => { c.quiet with win := s.me.win }) left
    · exact ran.trans (congrArg _ (State.gfillGo_waits (by rw [co]; exact lacks) (by rw [co]; exact floor) (none.imp_left fun full => core ▸ full) va _))
  · intro at' moves
    have does := exec_galleryFillComplete found ready quiet asked whole
    rw [State.endFill_here own placed here] at does
    have holds (o : Nat) (h : o < 65536) := get_slotBytes (s.fillAt f) h
    have granules (g : Nat) (h : g < 4096) := get_slotBad (s.fillAt f) h
    have poison := slotBad_nonempty (s.fillAt f) (n := 4096)
    generalize slotBytes (s.fillAt f) 65536 = bytes at *
    generalize slotBad (s.fillAt f) 4096 = bad at *
    have left := State.fillSlot_eq (s.setDev { s.dev with fills := s.dev.fills.filter fun g => g.id != f.id }) f bytes bad
    have glgen := State.fillSlot_cx (s.setDev { s.dev with fills := s.dev.fills.filter fun g => g.id != f.id }) f bytes bad
    exact ⟨_, Slot.fresh.written bytes bad, does, (congrArg State.dev left : _), (congrArg State.co left : _), holds, granules, poison,
      glgen.1, glgen.2, (congrArg State.me left : _), (congrArg State.turns left : _), (congrArg State.free left : _)⟩

end Sys2Proof.Machine
end

section
/-!
SUPPORT. The lanes of an operation on one line of own memory, performed together (R96, R103): what precedes them, the results that they are
given, and what the end of their operation leaves of its cohort.
-/
namespace Sys2Proof.Machine

/-! ## The line -/

/-- The regions of Table 1-4 begin and end at lines. -/
theorem regionOf_line (off : Nat) : regionOf (off / 64 * 64) = regionOf off := by
  have edge (n : Nat) (whole : 64 ∣ n) : (off / 64 * 64 < n) = (off < n) := propext (by omega)
  unfold regionOf
  simp only [edge hbmEnd (by decide), edge tier2Base (by decide), edge atriumBase (by decide), edge (atriumBase + 0x10000000) (by decide),
    edge controlBase (by decide), edge (controlBase + 0x40000000) (by decide), edge hostBase (by decide), edge 0x1000000000000 (by decide)]

/-- A line is behind one vestibule (R17). -/
theorem Device.tierDown_line (d : Device) (off : Nat) : d.tierDown (off / 64 * 64) = d.tierDown off := by
  have vestibule : vestOf (off / 64 * 64) = vestOf off := by unfold vestOf; omega
  unfold Device.tierDown
  rw [regionOf_line, vestibule]

section
variable {o : MemOp} {line : Nat} (h : OneLine o line) {l : LaneOp}
include h

/-- The lanes, with the first of them: it is at own memory on the line. -/
theorem OneLine.lanes_eq : ∃ l ls off, o.lanes = l :: ls ∧ l.loc = .mem off ∧ off / 64 = line := by
  obtain ⟨l, ls, lanes⟩ := List.exists_cons_of_ne_nil h.filled
  obtain ⟨off, at', on, -⟩ := h.target l (lanes ▸ List.mem_cons_self)
  exact ⟨l, ls, off, lanes, at', on⟩

theorem OneLine.own (hl : l ∈ o.lanes) : ∃ off, l.loc = .mem off :=
  (h.target l hl).imp fun _ at' => at'.1

end

/-- A touch without recording leaves every byte of memory, its poison, and what the halls see. -/
theorem State.touch_does (s : State) (ls : List LaneOp) (w : Bool) (unrecorded : s.recording = false) :
    ∃ d, s.touch ls w = s.setDev d ∧ d.elsewhere = s.dev.elsewhere ∧ d.bad = s.dev.bad ∧ (∀ a, d.byte a = s.dev.byte a) ∧
      ∀ h a, d.hallByte h a = s.dev.hallByte h a :=
  ⟨_, touch_off s ls w unrecorded, rfl, rfl, fun _ => rfl, fun _ _ => rfl⟩

/-! ## Results -/

/-- An operation all of whose lanes have their results. -/
def MemOp.resulted (o : MemOp) (f : LaneOp → List Byte × Mask) : MemOp :=
  { o with lanes := o.lanes.map fun l => { l with sent := true, result := some (f l) } }

/-- Of results given to lanes, that of the lane with an index. -/
def MemOp.laneResult (o : MemOp) (f : LaneOp → List Byte × Mask) (i : Nat) : List Byte × Mask :=
  (o.lanes.find? fun l => l.lane == i).elim ([], 0#64) f

section
variable {o : MemOp} (f : LaneOp → List Byte × Mask)

theorem MemOp.resulted_targets (each : o.u = false) {i : Nat} (inside : i < 64) :
    (o.resulted f).targets.getLsbD i = decide (i ∈ o.lanes.map (·.lane)) := by
  have lanes : (o.resulted f).lanes.map (·.lane) = o.lanes.map (·.lane) := List.map_map
  unfold MemOp.targets
  rw [show (o.resulted f).u = false from each, lanes]
  exact maskOf_getLsbD _ _ inside

/-- The registers that a group of results fills stay as they are in every other lane. -/
theorem Cohort.fillGroup_otherLane (c : Cohort) (each : o.u = false) {i : Nat} (inside : i < 64) (other : i ∉ o.lanes.map (·.lane))
    (g : Word → Word) {n k : Nat} (hk : k < n) :
    ((c.fillGroup (o.resulted f) n g).vget (o.d + k)).lane i = (c.vget (o.d + k)).lane i ∧
      ((c.fillGroup (o.resulted f) n g).vget (o.d + k)).poison.getLsbD i = (c.vget (o.d + k)).poison.getLsbD i := by
  obtain ⟨-, -, filled⟩ := fillGroup_get (o.resulted f) g n c
  have untouched : (o.resulted f).targets.getLsbD i = false := by
    rw [MemOp.resulted_targets f each inside]
    exact decide_eq_false other
  rw [show o.d = (o.resulted f).d from rfl, filled k hk, lane_merge' _ _ _ _ inside, untouched]
  refine ⟨rfl, ?_⟩
  simp only [VReg.poison_merge, BitVec.getLsbD_or, BitVec.getLsbD_and, BitVec.getLsbD_not, bitsOf_getLsbD _ _ inside, untouched, inside]
  simp

variable (apart : (o.lanes.map (·.lane)).Nodup)
include apart

theorem MemOp.laneResult_lane {l : LaneOp} (hl : l ∈ o.lanes) : f l = o.laneResult f l.lane := by
  rw [MemOp.laneResult, find_lane apart hl]
  rfl

/-- Distinct lanes given their results one after another. -/
theorem MemOp.foldl_setResult : o.lanes.foldl (fun x l => x.setResult l.lane (f l)) o = o.resulted f := by
  rw [setResults f (o.laneResult f) _ _ fun l hl => MemOp.laneResult_lane f apart hl]
  unfold MemOp.resulted
  congr 1
  exact List.map_congr_left fun l hl => by rw [if_pos (List.mem_map_of_mem hl), MemOp.laneResult_lane f apart hl]

theorem MemOp.resulted_resultOf (each : o.u = false) {l : LaneOp} (hl : l ∈ o.lanes) : (o.resulted f).resultOf l.lane = f l := by
  have found : ((o.resulted f).lanes.find? fun x => x.lane == l.lane) = some { l with sent := true, result := some (f l) } := by
    show (o.lanes.map _).find? _ = _
    rw [List.find?_map]
    exact congrArg (Option.map _) (find_lane apart hl)
  unfold MemOp.resultOf
  rw [found, show (o.resulted f).u = false from each]
  rfl

/-- A lane's result fills its registers there, 32 bits in each. -/
theorem Cohort.fillGroup_lane (c : Cohort) (each : o.u = false) {l : LaneOp} (hl : l ∈ o.lanes) (inside : l.lane < 64) (g : Word → Word)
    {n k : Nat} (hk : k < n) : ((c.fillGroup (o.resulted f) n g).vget (o.d + k)).lane l.lane = g (wordAt (f l) k).1 ∧
      ((c.fillGroup (o.resulted f) n g).vget (o.d + k)).poison.getLsbD l.lane = (wordAt (f l) k).2 := by
  obtain ⟨-, -, filled⟩ := fillGroup_get (o.resulted f) g n c
  have target : (o.resulted f).targets.getLsbD l.lane = true := by
    rw [MemOp.resulted_targets f each inside]
    exact decide_eq_true (List.mem_map_of_mem hl)
  rw [show o.d = (o.resulted f).d from rfl, filled k hk, lane_merge' _ _ _ _ inside, target, MemOp.resulted_resultOf f apart each hl]
  refine ⟨rfl, ?_⟩
  simp only [VReg.poison_merge, BitVec.getLsbD_or, BitVec.getLsbD_and, BitVec.getLsbD_not, bitsOf_getLsbD _ _ inside, target,
    MemOp.resulted_resultOf f apart each hl]
  simp

end

/-! ## The end of the operation -/

/-- A cohort with one operation in flight. -/
def Cohort.holding (c : Cohort) (x : MemOp) : Cohort := { c with ops := [x] }

/-- A cohort whose only operation has had its lanes' results delivered and has ended. -/
def Cohort.ended (c : Cohort) (x : MemOp) : Cohort :=
  { c with v := ((c.holding x).deliver x).v, f := (c.lower x.flag).f, ops := [] }

/-- The only operation of its core, every lane of which gets its result, ends; what it delivers goes to vector registers alone. -/
theorem State.finish_resulted {w : State} {o : MemOp} (ops : w.me.ops = [o]) (here : w.me.stat = .running)
    (apart : (o.lanes.map (·.lane)).Nodup) (notFetch : o.kind ≠ .fetch) (f : LaneOp → List Byte × Mask)
    (vectors : ∀ c : Cohort, { c.deliver (o.resulted f) with v := c.v } = c) :
    (w.mapOp o.id fun x => o.lanes.foldl (fun x l => x.setResult l.lane (f l)) x).finish o.id = w.setMe (w.me.ended (o.resulted f)) := by
  generalize held : w.me.holding (o.resulted f) = c
  have mapped : (w.mapOp o.id fun x => o.lanes.foldl (fun x l => x.setResult l.lane (f l)) x) = w.setMe c := by
    unfold State.mapOp
    rw [ops, ← held, List.map_singleton, if_pos rfl]
    exact congrArg (fun x => w.setMe (w.me.holding x)) (MemOp.foldl_setResult f apart)
  have only : c.ops = [o.resulted f] := congrArg Cohort.ops held.symm
  have stat : c.stat = .running := by rw [← held]; exact here
  have kept : (c.deliver (o.resulted f)).ops = c.ops := (congrArg Cohort.ops (vectors c) : _)
  have delivered : c.deliver (o.resulted f) = { c with v := (c.deliver (o.resulted f)).v } :=
    congrArg (fun e : Cohort => { e with v := (c.deliver (o.resulted f)).v }) (vectors c)
  have ended : { (c.deliver (o.resulted f)).lower o.flag with ops := [] } = w.me.ended (o.resulted f) := by
    unfold Cohort.ended
    rw [held]
    generalize c.deliver (o.resulted f) = e at *
    rw [delivered, lower_rest, ← held, show (o.resulted f).flag = o.flag from rfl]
    cases o.flag <;> rfl
  rw [mapped, ← ended]
  exact finish_alone (o := o.resulted f) only stat (by simp [MemOp.resulted]) notFetch (kept.trans only)

end Sys2Proof.Machine
end

section
/-!
LOAD_RETURN of a load whose lanes are on one line of own memory (R96, R103, R115, R258).
-/
namespace Sys2Proof.Machine

/-! ## The state in which it reads -/

theorem Wrote.mates {s t : State} (h : Wrote s t) : t.mates = s.mates := by
  have companies : t.dev.companies = s.dev.companies := (congrArg Device.companies h.dev : _)
  unfold State.mates State.core
  rw [h.co, companies]

/-- The byte that a load reads at an address of own memory: as an acquire at PKG or POD scope, once its hall has applied its queue (R115). -/
def State.loadedByte (s : State) (o : MemOp) (a : Nat) : Byte :=
  if o.acq = true ∧ 2 ≤ o.scope then (s.dev.applyAll s.hall).hallByte s.hall a else s.dev.hallByte s.hall a

theorem State.acquire_hallByte (s : State) (o : MemOp) (a : Nat) : (s.acquire o.acq o.scope).dev.hallByte s.hall a = s.loadedByte o a := by
  unfold State.acquire State.loadedByte
  simp only [Bool.and_eq_true, decide_eq_true_eq]
  split <;> rfl

/-- The state in which a load reads: after its acquire and the touch of its line, only what the halls see and the caches differ. -/
theorem State.touched_does (s : State) (o : MemOp) (unrecorded : s.recording = false) :
    ∃ d, (s.acquire o.acq o.scope).touch o.lanes false = s.setDev d ∧ d.elsewhere = s.dev.elsewhere ∧ d.bad = s.dev.bad ∧
      (∀ a, d.byte a = s.dev.byte a) ∧ ∀ a, d.hallByte s.hall a = s.loadedByte o a := by
  obtain ⟨-, wrote, bytes, bad⟩ := acquire_off s o.acq o.scope
  obtain ⟨d, touched, rest, bad', bytes', halls⟩ := (s.acquire o.acq o.scope).touch_does o.lanes false (wrote.recording.trans unrecorded)
  refine ⟨d, ?_, rest.trans wrote.dev, bad'.trans bad, fun a => (bytes' a).trans (bytes a), fun a => (halls _ a).trans (s.acquire_hallByte o a)⟩
  rw [touched, acquire_dev]
  rfl

/-- Nothing is in the store buffer that an operation alone in flight could read from. -/
theorem Alone.sources {s t : State} {o : MemOp} (h : Alone s o) (me : t.me = s.me) (mates : t.mates = s.mates) : t.sources o = [] := by
  have buffer : t.matesBuffer = [] := by
    unfold State.matesBuffer
    rw [mates]
    exact h.matesBuffer
  unfold State.sources
  rw [me, h.before, buffer]
  rfl

/-! ## What it reads, and the registers that it writes -/

/-- The lanes on one line read together, in the state after the acquire and the touch. -/
theorem exec_loadReturn_mem {s : State} {o : MemOp} {l : LaneOp} {line : Nat} {z : BitVec 3} (alone : Alone s o) (one : OneLine o line)
    (hl : l ∈ o.lanes) (kind : o.kind = .load z) (up : s.dev.tierDown (line * 64) = false) :
    exec (.loadReturn o.id l.lane) s = .next
      (let t := (s.acquire o.acq o.scope).touch o.lanes false
      (t.readLanes o.id (t.sources o) o.lanes).finish o.id) := by
  obtain ⟨x, xs, off, lanes, at', on⟩ := one.lanes_eq
  have event : exec (.loadReturn o.id l.lane) s = execLoadReturn o.id l.lane s := rfl
  have reach : s.dev.tierDown off = false := by rw [← Device.tierDown_line, on]; exact up
  rw [event]
  unfold execLoadReturn
  rw [alone.onOp, kind]
  unfold State.performLoad
  dsimp only
  rw [one.group _ hl, lanes]
  simp only [alone.loadReady, s.conflictHeld_off _ _ alone.recorded, at', Device.cut, reach]
  rfl

/-- What a lane of a load reads: its bytes, without poison (R258). -/
def State.loadResult (s : State) (o : MemOp) (l : LaneOp) : List Byte × Mask :=
  ((List.range l.len).map fun i => s.loadedByte o (l.loc.ownOff.getD 0 + i), 0#64)

/-- What a load that has its results writes (R258). -/
theorem Cohort.deliver_load {x : MemOp} {z : BitVec 3} (c : Cohort) (h : x.kind = .load z) :
    c.deliver x = c.fillGroup x (sizeRegs z) (extend z) := by
  unfold Cohort.deliver
  rw [h]

section
variable (c : Cohort) {o : MemOp} {z : BitVec 3} (kind : o.kind = .load z)
include kind

theorem Cohort.ended_load (r : Nat) : (c.ended o).vget r = ((c.holding o).fillGroup o (sizeRegs z) (extend z)).vget r ∧
    (c.ended o).allocated r = ((c.holding o).fillGroup o (sizeRegs z) (extend z)).allocated r := by
  rw [← Cohort.deliver_load _ kind]
  exact ⟨rfl, rfl⟩

/-- The registers of a load that has ended: extended words where its lanes are, the old contents elsewhere. -/
theorem Cohort.ended_load_lane (f : LaneOp → List Byte × Mask) (apart : (o.lanes.map (·.lane)).Nodup) (each : o.u = false) {l : LaneOp}
    (hl : l ∈ o.lanes) (inside : l.lane < 64) {k : Nat} (hk : k < sizeRegs z) :
    ((c.ended (o.resulted f)).vget (o.d + k)).lane l.lane = extend z (wordAt (f l) k).1 ∧
      ((c.ended (o.resulted f)).vget (o.d + k)).poison.getLsbD l.lane = (wordAt (f l) k).2 := by
  rw [(c.ended_load (o := o.resulted f) kind _).1]
  exact Cohort.fillGroup_lane f apart _ each hl inside _ hk

theorem Cohort.ended_load_otherLane (f : LaneOp → List Byte × Mask) (each : o.u = false) {i : Nat} (inside : i < 64)
    (other : i ∉ o.lanes.map (·.lane)) {k : Nat} (hk : k < sizeRegs z) :
    ((c.ended (o.resulted f)).vget (o.d + k)).lane i = (c.vget (o.d + k)).lane i ∧
      ((c.ended (o.resulted f)).vget (o.d + k)).poison.getLsbD i = (c.vget (o.d + k)).poison.getLsbD i := by
  rw [(c.ended_load (o := o.resulted f) kind _).1]
  exact Cohort.fillGroup_otherLane f (c.holding (o.resulted f)) each inside other _ hk

theorem Cohort.ended_load_others {r : Nat} (other : ∀ k, k < sizeRegs z → r ≠ o.d + k) :
    (c.ended o).vget r = c.vget r ∧ (c.ended o).allocated r = c.allocated r := by
  obtain ⟨word, name⟩ := c.ended_load kind r
  obtain ⟨-, others, -⟩ := fillGroup_get o (extend z) (sizeRegs z) (c.holding o)
  exact ⟨word.trans (others r other).1, name.trans (others r other).2⟩

end

/-- A load whose lanes read clean own memory ends with what they read, and leaves its device as the acquire and the touch did. -/
theorem State.readLanes_finish {s u : State} {o : MemOp} {line : Nat} {z : BitVec 3} (alone : Alone s o) (one : OneLine o line)
    (kind : o.kind = .load z) (me : u.me = s.me) (hall : u.hall = s.hall) (clean : u.dev.badMask (line * 64) 64 = 0#64)
    (reads : ∀ a, u.dev.hallByte s.hall a = s.loadedByte o a) :
    (u.readLanes o.id [] o.lanes).finish o.id = u.setMe (s.me.ended (o.resulted (s.loadResult o))) := by
  have values (x : MemOp) : o.lanes.foldl (fun x l => x.setResult l.lane (u.readLane [] l).2) x
      = o.lanes.foldl (fun x l => x.setResult l.lane (s.loadResult o l)) x := by
    refine List.foldl_ext _ _ _ fun x l hl => ?_
    obtain ⟨off, at', on, within⟩ := one.target l hl
    rw [readLane_val at' on within clean, State.loadResult, at', hall]
    simp only [reads]
    rfl
  have vectors (c : Cohort) : { c.deliver (o.resulted (s.loadResult o)) with v := c.v } = c := by
    rw [c.deliver_load (x := o.resulted (s.loadResult o)) kind]
    exact (fillGroup_get _ _ _ _).1
  rw [readLanes_mem o.id o.lanes u fun x hx => one.own hx]
  simp only [values]
  rw [State.finish_resulted (by rw [me]; exact alone.op) (by rw [me]; exact alone.here) one.apart (by simp [kind]) _ vectors, me]

/-- Settles O30: the load reads in the state that its acquire and the touch of its line leave. That the lanes on one line return together
(log entry 20), and that a hall sees the old byte until it applies an invalidation, as an acquire does for its whole queue (log entries 8
and 31), are choices of the model that the statement takes over. -/
theorem loadReturns : Obligations.LoadReturns := by
  unfold Obligations.LoadReturns
  intro s o z line l alone one hl kind each _ sizes clean up now
  refine ⟨fun entered acq scope a => (if_pos ⟨acq, scope⟩).trans (hallByte_applyAll _ _ _ entered), ?_⟩
  obtain ⟨d, touched, rest, bad, bytes, reads⟩ := s.touched_does o alone.recorded
  have wrote : Wrote s (s.setDev d) := ⟨rest, rfl, rfl, rfl, [], rfl⟩
  have clean' : d.badMask (line * 64) 64 = 0#64 := by
    unfold Device.badMask Device.badAt at clean ⊢
    rw [bad]
    exact clean
  have ran := exec_loadReturn_mem alone one hl kind up
  rw [touched] at ran
  dsimp only at ran
  rw [alone.sources (t := s.setDev d) rfl wrote.mates, State.readLanes_finish (u := s.setDev d) alone one kind rfl rfl clean' reads] at ran
  refine ⟨_, ran, rfl, rfl, fun x off k hx at' hk => ?_,
    fun k i hk inside other => s.me.ended_load_otherLane kind _ each inside other hk,
    fun r other => s.me.ended_load_others (o := o.resulted (s.loadResult o)) kind other, rfl, bytes, rest, rfl, rfl, rfl, rfl⟩
  obtain ⟨inside, len⟩ := sizes x hx
  have result : s.loadResult o x = ((List.range (sizeBytes z)).map fun i => now (off + i), 0#64) := by
    rw [State.loadResult, len, at']
    rfl
  have filled := s.me.ended_load_lane kind (s.loadResult o) one.apart each hx inside hk
  rw [result] at filled
  exact ⟨filled.1, filled.2.trans (by simp [wordAt])⟩

end Sys2Proof.Machine
end

section
/-!
STORE_PERFORM of a store whose lanes are on one line of own memory (R60, R102, R103).
-/
namespace Sys2Proof.Machine

/-- A store enters the store buffer, or performs from it (R102, R103). -/
theorem exec_storePerform_store {s : State} {o : MemOp} (lane : Nat) (alone : Alone s o) (kind : o.kind = .store) :
    exec (.storePerform o.id lane) s = .next (if o.inBuffer then s.performStore o lane else s.enterBuffer o) := by
  have event : exec (.storePerform o.id lane) s = execStorePerform o.id lane s := rfl
  rw [event]
  unfold execStorePerform
  rw [alone.onOp, kind]

/-- A store that has issued enters the store buffer, at the next place of core store order (R102, R103). -/
theorem exec_storePerform_enters {s : State} {o : MemOp} (lane : Nat) (alone : Alone s o) (kind : o.kind = .store) (issued : o.stage = .issued) :
    exec (.storePerform o.id lane) s = .next { s with
      me := { s.me with ops := [{ o with stage := .buffered s.dev.order }] }, dev := { s.dev with order := s.dev.order + 1 } } := by
  have outside : o.inBuffer = false := by unfold MemOp.inBuffer; rw [issued]
  rw [exec_storePerform_store lane alone kind, if_neg (by simp [outside]), State.enterBuffer, if_pos alone.entryReady]
  unfold State.mapOp
  rw [alone.op, List.map_singleton, if_pos rfl]
  rfl

/-- The state in which a store's bytes are in memory: its release has published what came before it (R106), its line was touched. -/
def State.stored (s : State) (o : MemOp) (off : Nat) : State :=
  ((if o.rel then (s.publish o.scope).covered o else s).touch o.lanes true).writeMem o off o.lanes

/-- From the store buffer the lanes on one line are written together, and acknowledged (R60, R103). -/
theorem exec_storePerform_mem {s : State} {o : MemOp} {l : LaneOp} {line n : Nat} (alone : Alone s o) (one : OneLine o line)
    (hl : l ∈ o.lanes) (kind : o.kind = .store) (buffered : o.stage = .buffered n) (up : s.dev.tierDown (line * 64) = false) :
    ∃ off, exec (.storePerform o.id l.lane) s = .next (((s.stored o off).ackLanes o.id o.lanes).finish o.id) := by
  obtain ⟨x, xs, off, lanes, at', on⟩ := one.lanes_eq
  have inside : o.inBuffer = true := by unfold MemOp.inBuffer; rw [buffered]
  have reach : s.dev.tierDown off = false := by rw [← Device.tierDown_line, on]; exact up
  refine ⟨off, ?_⟩
  rw [exec_storePerform_store l.lane alone kind, if_pos inside]
  unfold State.performStore State.stored
  rw [one.group _ hl, lanes]
  simp only [alone.storeReady, s.conflictHeld_off _ _ alone.recorded, at', Device.cut, reach, kind]
  rfl

/-- What a store leaves in memory, and elsewhere (R60, R113). -/
theorem State.stored_does {s : State} {o : MemOp} {line : Nat} (one : OneLine o line) (unrecorded : s.recording = false)
    (low : line * 64 < 0x020000000000) (off : Nat) : (s.stored o off).me = s.me.covering o ∧ Wrote s (s.stored o off) ∧
      ∀ a, (s.stored o off).dev.byte a = (storedAt o.lanes a).getD (s.dev.byte a) := by
  have lanes (l : LaneOp) (hl : l ∈ o.lanes) : ∃ a, l.loc = .mem a ∧ regionOf a ≠ .atrium := by
    obtain ⟨a, at', on, -⟩ := one.target l hl
    exact ⟨a, at', regionOf_low (by omega)⟩
  obtain ⟨me, wrote, bytes, -⟩ := s.released_does o
  unfold State.stored
  generalize (if o.rel then (s.publish o.scope).covered o else s) = u at *
  obtain ⟨d, touched, rest, -, bytes', -⟩ := u.touch_does o.lanes true (wrote.recording.trans unrecorded)
  have touch : Wrote u (u.setDev d) := ⟨rest, rfl, rfl, rfl, [], rfl⟩
  rw [touched]
  obtain ⟨me', wrote', bytes''⟩ := writeMem_does (u.setDev d) o off o.lanes lanes
  exact ⟨me'.trans me, (wrote.trans touch).trans wrote', fun a => (bytes'' a).trans (congrArg _ ((bytes' a).trans (bytes a)))⟩

/-- A store delivers nothing. -/
theorem Cohort.deliver_store {x : MemOp} (c : Cohort) (h : x.kind = .store) : c.deliver x = c := by
  unfold Cohort.deliver
  rw [h]

/-- Settles O31: the store performs in the state that its release leaves, and ends with the acknowledgements of its lanes. That the lanes on
one line perform together (log entry 20) is a choice of the model that the statement takes over. -/
theorem storesPerform : Obligations.StoresPerform := by
  unfold Obligations.StoresPerform
  intro covering s o line l alone one hl kind flagless
  refine ⟨exec_storePerform_enters l.lane alone kind, fun n buffered low up => ?_⟩
  obtain ⟨off, ran⟩ := exec_storePerform_mem alone one hl kind buffered up
  obtain ⟨me, wrote, bytes⟩ := State.stored_does one alone.recorded low off
  generalize s.stored o off = w at *
  have ops : w.me.ops = [o] := by rw [me, Cohort.covering_eq]; exact alone.op
  have here : w.me.stat = .running := by rw [me, Cohort.covering_eq]; exact alone.here
  have deliver (c : Cohort) := c.deliver_store (x := o.resulted fun _ => ([], 0#64)) kind
  have ended : w.me.ended (o.resulted fun _ => ([], 0#64)) = { w.me with ops := [] } := by
    unfold Cohort.ended
    rw [deliver, show (o.resulted fun _ => ([], 0#64)).flag = none from flagless]
    rfl
  have left := State.finish_resulted ops here one.apart (by simp [kind]) (fun _ => ([], 0#64)) fun c => by rw [deliver c]
  rw [ended, me] at left
  obtain ⟨ts, turns⟩ := wrote.turns
  exact ⟨_, ts, ran.trans (congrArg _ left), rfl, bytes, wrote.dev, wrote.co, wrote.cx, turns, wrote.free⟩

end Sys2Proof.Machine
end

section
/-!
SUPPORT. Issue of the multicast instructions and FMARK (R143, R196, R285 to R288).
-/
namespace Sys2Proof.Machine

/-! ## Groups -/

/-- In a valid group every lane inside it reaches the group at its byte offset (R143, R285). -/
theorem State.groupLanes_inside {s : State} {g n : Nat} {a : Reg} (valid : s.dev.gvalid g = true)
    (inside : ∀ x ∈ s.me.offsets false a, x.2 + n ≤ s.dev.glen g) :
    s.groupLanes g n a = (s.me.offsets false a).map fun x => { lane := x.1, addr := x.2, out := .at (.far (512 + g) x.2) } :=
  List.map_congr_left fun x hx => by rw [Device.groupLane, if_pos ⟨valid, inside x hx⟩]

/-- With active lanes that the checks of R285 let pass, a multicast instruction issues its accesses. -/
theorem groupIssue_go {g : Nat} {a : Reg} {j : MemJob} {s : State} (on : s.dev.mcastOn = true) (unrecorded : s.recording = false)
    (clean : s.me.mce false j.vs j.ss = 0#64) (active : s.me.act ≠ 0#64) (room : Room s j.frees j.dst)
    (reach : ∀ c ∈ s.groupLanes g j.len a, ∃ l, c.out = .at l) (aligned : ∀ c ∈ s.groupLanes g j.len a, c.addr % j.align = 0) :
    Issued s s (groupIssue g a j s) j (s.groupLanes g j.len a) := by
  have checked : LaneChecked s s := ⟨.same _, fun _ => rfl, rfl⟩
  unfold groupIssue
  unfold Room at room
  simp only [on, Bool.true_eq_false, if_false, clean, ne_eq, not_true_eq_false, active, verdict_go _ _ _ _ _ reach aligned, room]
  rw [State.issueOp_eq s s j _ checked unrecorded]
  have issued := j.state_issued s s (s.groupLanes g j.len a) checked
  split
  · exact issued.count ..
  · exact issued

/-- With no active lane a multicast instruction without .REL is a memory instruction without accesses. -/
theorem groupIssue_idle {g : Nat} {a : Reg} {j : MemJob} {s : State} (on : s.dev.mcastOn = true) (unscoped : j.u = false)
    (idle : s.me.act = 0#64) (unreleased : j.rel = false) : groupIssue g a j s = memIssue j s := by
  unfold groupIssue memIssue
  simp only [on, Bool.true_eq_false, if_false, unscoped, idle, if_true, unreleased, Bool.or_false]

/-- The group that a scalar names, as R285 has it. -/
def groupNamed (b : BitVec 5) (c : Cohort) : Nat := (c.sget b.toNat).toNat % 256

/-- A multicast instruction, whose request for a group is `j`, where it may run (R143, R285): its accesses with active lanes, and
without them what a memory instruction leaves. -/
def GroupDoes (ok : State → Prop) (i : Instr) (b : BitVec 5) (a : Reg) (j : Nat → Cohort → MemJob) : Prop :=
  ∀ s : State, ok s → s.dev.mcastOn = true → s.recording = false → s.me.mce false (j (groupNamed b s.me) s.me).vs [b.toNat] = 0#64 →
    let k := j (groupNamed b s.me) s.me
    let cs := (s.me.offsets false a).map fun x => { lane := x.1, addr := x.2, out := .at (.far (512 + groupNamed b s.me) x.2) : LaneChk }
    (s.me.act ≠ 0#64 → Room s k.frees k.dst → s.dev.gvalid (groupNamed b s.me) = true →
      (∀ x ∈ s.me.offsets false a, x.2 + k.len ≤ s.dev.glen (groupNamed b s.me) ∧ x.2 % k.len = 0) →
      ∃ t, exec i s = .next t ∧ Issued s s t k cs) ∧
    (s.me.act = 0#64 → ∃ t, exec i s = .next t ∧ Retired s t 4 ∧
      t.me.ops.map (fun o => (o.kind, o.scope)) = s.me.ops.map (fun o => (o.kind, o.scope)) ++ (if k.acq then [(.fence, 3)] else []) ∧
      (∀ r, t.me.vget r = if r ∈ k.frees then VReg.zero else s.me.vget r) ∧ { t.me.quiet with v := s.me.v, ops := s.me.ops } = s.me.quiet ∧
      { t.dev with nextId := s.dev.nextId } = s.dev ∧ t.co = s.co ∧ t.cx = s.cx ∧ t.turns = s.turns ∧ t.free = s.free)

/-- The shape that the requests of the multicast instructions share: one scalar names the group, every lane counts for itself, a lane is
as aligned as it is long, nothing is released, and an acquire has POD scope. -/
structure MulticastJob (b : BitVec 5) (j : MemJob) : Prop where
  source : j.ss = [b.toNat]
  lanewise : j.u = false
  align : j.align = j.len
  unreleased : j.rel = false
  acquires : j.acq = true → j.scope = 3

/-- An instruction whose meaning is the issue of one multicast request does what the request asks. -/
theorem group_does {ok : State → Prop} {i : Instr} {b : BitVec 5} {a : Reg} {j : Nat → Cohort → MemJob}
    (shape : ∀ g c, MulticastJob b (j g c))
    (means : ∀ s, ok s → s.dev.mcastOn = true → exec i s = .next (groupIssue (groupNamed b s.me) a (j (groupNamed b s.me) s.me) s)) :
    GroupDoes ok i b a j := by
  intro s may on unrecorded clean
  obtain ⟨source, lanewise, align, unreleased, acquires⟩ := shape (groupNamed b s.me) s.me
  refine ⟨fun active room valid fits => ⟨_, means s may on, ?_⟩, fun idle => ?_⟩
  · have lanes := State.groupLanes_inside valid fun x hx => (fits x hx).1
    rw [← source] at clean
    rw [← lanes]
    refine groupIssue_go on unrecorded clean active room ?_ ?_ <;> rw [lanes] <;> intro c hc <;> obtain ⟨x, hx, rfl⟩ := List.mem_map.1 hc
    · exact ⟨_, rfl⟩
    · rw [align]; exact (fits x hx).2
  · have asked : ∀ u, (ok u ∧ u.dev.mcastOn = true ∧ u.me.act = 0#64) → exec i u = .next (memIssue (j (groupNamed b u.me) u.me) u) := by
      rintro u ⟨may, on, idle⟩
      rw [means u may on, groupIssue_idle on (shape _ _).lanewise idle (shape _ _).unreleased]
    rw [← source] at clean
    obtain ⟨t, ran, retired, ops, regs⟩ :=
      (access_does (j := fun c => j (groupNamed b c) c) asked s ⟨may, on, idle⟩ unrecorded (by rw [lanewise]; exact clean)).2 idle
    refine ⟨t, ran, retired, ops.trans (congrArg _ ?_), regs⟩
    rw [unreleased, Bool.or_false]
    split
    case isTrue acq => rw [acquires acq]
    case isFalse => rfl

/-! ## The instructions -/

/-- What MCST asks of a group (R286). -/
def mcstJob (ma z : Bool) (b : BitVec 5) (a d : Reg) (g : Nat) (c : Cohort) : MemJob :=
  { asks 0 .store (4 * if z then 2 else 1) false (.mcst g) with
    fkind := 1, vs := a.toNat :: groupNames d.toNat (if z then 2 else 1), ss := [b.toNat], frees := if ma then [a.toNat] else []
    d := d.toNat, data := c.laneBytes d.toNat (if z then 2 else 1), sum := some (c.laneBytes d.toNat (if z then 2 else 1)) }

/-- What an MLDRED asks of a group (R287). -/
def mldredJob (bf ord : Bool) (f ma q : Bool) (b : BitVec 5) (a d : Reg) (g : Nat) (c : Cohort) : MemJob :=
  { asks 0 .load (if bf then 2 else 4) false (.mldred g bf ord) with
    vs := [a.toNat], ss := [b.toNat], frees := if ma then [a.toNat] else [], scope := 3, acq := q, flag := some f, d := d.toNat
    dst := [d.toNat], cnt := some (if bf then 38 else 39, popcount (c.readers false)) }

theorem mcst_does (f ma z : Bool) (b : BitVec 5) (a d : Reg) : GroupDoes (fun _ => True) (.mcst f ma z b a d) b a (mcstJob ma z b a d) :=
  group_does (fun _ _ => ⟨rfl, rfl, rfl, rfl, nofun⟩) fun _ _ _ => rfl

/-- What a CLASS 0 launch may not issue runs in any other (R196). -/
theorem replayable_class {s : State} (f : State → State) (cls : s.co.hdr.cls ≠ 0) : replayable f s = f s := if_neg cls

theorem execMldredBf16Any_on (f ma q : Bool) (b : BitVec 5) (a d : Reg) {s : State} (cls : s.co.hdr.cls ≠ 0) (on : s.dev.mcastOn = true) :
    exec (.mldredBf16Any f ma q b a d) s = .next (mldred true false f ma q b a d s) :=
  congrArg Host.Outcome.next ((if_neg (by simp [on])).trans (replayable_class _ cls))

theorem execMldredF32Any_on (f ma q : Bool) (b : BitVec 5) (a d : Reg) {s : State} (cls : s.co.hdr.cls ≠ 0) (on : s.dev.mcastOn = true) :
    exec (.mldredF32Any f ma q b a d) s = .next (mldred false false f ma q b a d s) :=
  congrArg Host.Outcome.next ((if_neg (by simp [on])).trans (replayable_class _ cls))

/-- An instruction that runs the issue of an MLDRED does what it asks. -/
theorem mldred_does {ok : State → Prop} {i : Instr} {bf ord f ma q : Bool} {b : BitVec 5} {a d : Reg}
    (means : ∀ s, ok s → s.dev.mcastOn = true → exec i s = .next (mldred bf ord f ma q b a d s)) :
    GroupDoes ok i b a (mldredJob bf ord f ma q b a d) :=
  group_does (fun _ _ => ⟨rfl, rfl, rfl, rfl, fun _ => rfl⟩) means

theorem mldredBf16Ord_does (f ma q : Bool) (b : BitVec 5) (a d : Reg) :
    GroupDoes (fun _ => True) (.mldredBf16Ord f ma q b a d) b a (mldredJob true true f ma q b a d) :=
  mldred_does fun _ _ _ => rfl

theorem mldredF32Ord_does (f ma q : Bool) (b : BitVec 5) (a d : Reg) :
    GroupDoes (fun _ => True) (.mldredF32Ord f ma q b a d) b a (mldredJob false true f ma q b a d) :=
  mldred_does fun _ _ _ => rfl

theorem mldredBf16Any_does (f ma q : Bool) (b : BitVec 5) (a d : Reg) :
    GroupDoes (fun s => s.co.hdr.cls ≠ 0) (.mldredBf16Any f ma q b a d) b a (mldredJob true false f ma q b a d) :=
  mldred_does fun _ => execMldredBf16Any_on f ma q b a d

theorem mldredF32Any_does (f ma q : Bool) (b : BitVec 5) (a d : Reg) :
    GroupDoes (fun s => s.co.hdr.cls ≠ 0) (.mldredF32Any f ma q b a d) b a (mldredJob false false f ma q b a d) :=
  mldred_does fun _ => execMldredF32Any_on f ma q b a d

/-- An FMARK that consumes no poison appends a marker where the device it names takes one, and retires (R288). -/
theorem execFmark_clean (f : Bool) (a : Reg) {s : State} (clean : s.me.spoison a.toNat = false) :
    exec (.fmark f a) s = .next ((if s.dev.marks ((s.me.sget a.toNat).toNat % 1024) = true then
      s.pushOp { fenceOp 0 with kind := .fmark ((s.me.sget a.toNat).toNat % 1024) } else s).retire 4) :=
  congrArg Host.Outcome.next (if_neg (by simp [clean]))

/-- Settles O38: each multicast instruction issues one request of its group, and FMARK appends its marker. -/
theorem fabricInstructions : Obligations.FabricInstructions := by
  unfold Obligations.FabricInstructions
  intro free group does
  refine ⟨fun f ma z b a d s => mcst_does f ma z b a d s, ?_, fun f a s clean => ⟨_, execFmark_clean f a clean, ?_⟩⟩
  · intro row listed f ma q b a d s may
    simp only [List.mem_cons, List.not_mem_nil, or_false] at listed
    rcases listed with rfl | rfl | rfl | rfl
    · exact mldredBf16Ord_does f ma q b a d s trivial
    · exact mldredF32Ord_does f ma q b a d s trivial
    · exact mldredBf16Any_does f ma q b a d s (may.resolve_left Bool.false_ne_true)
    · exact mldredF32Any_does f ma q b a d s (may.resolve_left Bool.false_ne_true)
  · split
    case isTrue => exact ⟨⟨rfl, rfl, rfl⟩, List.map_append, rfl, rfl, rfl, rfl, rfl, rfl⟩
    case isFalse => exact ⟨⟨rfl, rfl, rfl⟩, (List.append_nil _).symm, rfl, rfl, rfl, rfl, rfl, rfl⟩

end Sys2Proof.Machine
end

section
/-!
SUPPORT. An atomic of another device on a line with a poisoned granule (R89, R139): its answer has the status of poison.
-/
namespace Sys2Proof.Machine

/-- Granule 1 of the first line of memory is poisoned; everything else is as at reset. -/
def poisonedGranule : State := { State.reset with dev := { State.reset.dev with bad := [(1, true)] } }

/-- Device 0 adds 1 to the word at byte 0 of the first line, which lies in granule 0. -/
def addToWord : Entry := { off := 0, size := 2, lane := 0, operand := 1, compare := 0 }

/-- The ATOM packet of that addition. -/
def addPacket : Packet := { Packet.basic ptATOM 0 0 with entries := [addToWord] }

/-- The statuses of the answers that a step leaves sent. -/
def statusesSent : Out → List Nat
  | .next t => t.dev.fabric.sent.map fun x => x.2.xtra
  | .fault _ | .refused _ => []

/-- The bank reads the whole line, so the value that it returns is poison although the word's own granule is not (R89). -/
theorem statusesSent_poisonedGranule : statusesSent (exec (.fabricPacketArrival 0 addPacket) poisonedGranule) = [2] := by
  decide +kernel

/-- Refutes O53: an ATOM on a word whose own granule is free of poison is answered with POISON where another granule of its line is
poisoned (R89), while the clause of the integer addition asks only for a clean granule and promises the status OK. -/
theorem not_fabricArrivals : ¬ Obligations.FabricArrivals := by
  unfold Obligations.FabricArrivals
  intro h
  obtain ⟨arrivals, -⟩ := h
  obtain ⟨-, -, accepted⟩ := arrivals poisonedGranule 0 addPacket
  obtain ⟨-, performed⟩ := accepted ⟨rfl, by decide⟩ (by decide) nofun nofun rfl
  obtain ⟨-, -, added⟩ := performed 0 rfl (by decide) (by decide)
  obtain ⟨t, ran, -, sent, -⟩ := added addToWord rfl rfl rfl rfl (by decide) (by decide) rfl rfl
  have clean : statusesSent (.next t) = [0] := congrArg (List.map fun x : Nat × Packet => x.2.xtra) sent
  rw [← ran, statusesSent_poisonedGranule] at clean
  exact absurd clean (by decide)

end Sys2Proof.Machine
end

section
/-!
SUPPORT. One port of the link layer (R146 to R152): what a change of it leaves alone, and what its operations make of it.
-/
namespace Sys2Proof.Machine

/-! ## Changing a port -/

/-- The device has the plane port, or from 64 on the UCIe module, with this number (Table 5-5). -/
def Device.HasPort (d : Device) (q : Nat) : Prop :=
  q < 64 ∧ q < d.fabric.ports.length ∨ 64 ≤ q ∧ q - 64 < d.fabric.modules.length

theorem Device.mapPort_rest (d : Device) (q : Nat) (f : Port → Port) : d.mapPort q f =
    { d with fabric := { d.fabric with ports := (d.mapPort q f).fabric.ports, modules := (d.mapPort q f).fabric.modules } } := by
  unfold Device.mapPort Device.onPort
  split <;> rfl

theorem Device.hasPort_mapPort {d : Device} {r : Nat} (q : Nat) (f : Port → Port) (known : d.HasPort r) : (d.mapPort q f).HasPort r := by
  unfold Device.HasPort Device.mapPort Device.onPort at *
  split <;> simpa only [List.length_mapIdx] using known

theorem Device.portAt_mapPort_same {d : Device} {q : Nat} (known : d.HasPort q) (f : Port → Port) :
    (d.mapPort q f).portAt q = f (d.portAt q) := by
  unfold Device.portAt Device.mapPort Device.onPort
  rcases known with ⟨plane, inside⟩ | ⟨module, inside⟩
  · simp [plane, inside]
  · have numbered : q - 64 + 64 = q := by omega
    simp [show ¬ q < 64 by omega, inside, numbered]

theorem Device.portAt_mapPort_other (d : Device) {q r : Nat} (f : Port → Port) (other : r ≠ q) : (d.mapPort q f).portAt r = d.portAt r := by
  have apart (ps : List Port) (i k : Nat) (e : i + k ≠ q) : (ps.mapIdx fun i p => if i + k = q then f p else p).getD i Port.off = ps.getD i Port.off := by
    rw [List.getD_eq_getElem?_getD, List.getElem?_mapIdx, List.getD_eq_getElem?_getD]
    simp [e]
  unfold Device.portAt Device.mapPort Device.onPort
  by_cases plane : q < 64 <;> by_cases here : r < 64 <;> simp only [plane, here, if_true, if_false]
  · exact apart _ _ 0 other
  · exact apart _ _ 64 (by omega)

/-- A change that leaves a port as it is leaves the device as it is. -/
theorem Device.mapPort_fixed {d : Device} {q : Nat} (known : d.HasPort q) {f : Port → Port} (same : f (d.portAt q) = d.portAt q) :
    d.mapPort q f = d := by
  have kept (ps : List Port) (k : Nat) (inside : q - k < ps.length) (above : k ≤ q) (same : f (ps.getD (q - k) Port.off) = ps.getD (q - k) Port.off) :
      (ps.mapIdx fun i p => if i + k = q then f p else p) = ps := by
    refine List.ext_getElem List.length_mapIdx fun i _ h => ?_
    rw [List.getElem_mapIdx]
    split
    case isTrue at' =>
      obtain rfl : i = q - k := by omega
      rwa [List.getD_eq_getElem _ _ inside] at same
    case isFalse => rfl
  unfold Device.portAt at same
  unfold Device.mapPort Device.onPort
  rcases known with ⟨plane, inside⟩ | ⟨module, inside⟩
  · rw [if_pos plane] at same ⊢
    exact congrArg (fun ps => { d with fabric := { d.fabric with ports := ps } }) (kept _ 0 inside (Nat.zero_le q) same)
  · rw [if_neg (Nat.not_lt.2 module)] at same ⊢
    exact congrArg (fun ps => { d with fabric := { d.fabric with modules := ps } }) (kept _ 64 inside module same)

/-- Of the state only port `q` changed, to `p`. -/
structure OnlyPort (s t : State) (q : Nat) (p : Port) : Prop where
  port : t.dev.portAt q = p
  others : ∀ r, r ≠ q → t.dev.portAt r = s.dev.portAt r
  rest : t = s.setDev { s.dev with fabric := { s.dev.fabric with ports := t.dev.fabric.ports, modules := t.dev.fabric.modules } }
  known : t.dev.HasPort q

theorem OnlyPort.refl {s : State} {q : Nat} (known : s.dev.HasPort q) : OnlyPort s s q (s.dev.portAt q) := ⟨rfl, fun _ _ => rfl, rfl, known⟩

theorem OnlyPort.map {s t : State} {q : Nat} {p : Port} (h : OnlyPort s t q p) (f : Port → Port) :
    OnlyPort s (t.setDev (t.dev.mapPort q f)) q (f p) where
  port := (Device.portAt_mapPort_same h.known f).trans (congrArg f h.port)
  others r other := (t.dev.portAt_mapPort_other f other).trans (h.others r other)
  rest := by
    have here := h.rest
    rw [State.setDev_dev, t.dev.mapPort_rest q f]
    generalize (t.dev.mapPort q f).fabric.ports = ps, (t.dev.mapPort q f).fabric.modules = ms
    rw [here]
    rfl
  known := Device.hasPort_mapPort q f h.known

theorem Device.HasPort.map {s : State} {q : Nat} (known : s.dev.HasPort q) (f : Port → Port) :
    OnlyPort s (s.setDev (s.dev.mapPort q f)) q (f (s.dev.portAt q)) := (OnlyPort.refl known).map f

/-! ## Packets that wait to cross, or at a port -/

theorem Device.with_crossing {d : Device} {ws : List (Nat × Packet)} (h : d.fabric.crossing = ws) :
    { d with fabric := { d.fabric with crossing := ws } } = d := by
  subst h; rfl

/-- Where nothing waits to cross, nothing crosses. -/
theorem Device.cross_nil {d : Device} (idle : d.fabric.crossing = []) : d.cross = d := by
  unfold Device.cross
  rw [idle]
  exact Device.with_crossing idle

theorem Device.crossing_mapPort (d : Device) (q : Nat) (f : Port → Port) : (d.mapPort q f).fabric.crossing = d.fabric.crossing := by
  rw [d.mapPort_rest]

theorem Device.cross_mapPort {d : Device} (idle : d.fabric.crossing = []) (q : Nat) (f : Port → Port) : (d.mapPort q f).cross = d.mapPort q f :=
  Device.cross_nil ((d.crossing_mapPort q f).trans idle)

/-- A port at which nothing waits hands nothing on, whether it is dead or not. -/
theorem State.reroute_quiet {s : State} {q : Nat} (known : s.dev.HasPort q) (quiet : (s.dev.portAt q).waiting = []) : s.reroute q = s := by
  unfold State.reroute
  dsimp only
  split
  · rw [quiet, Device.mapPort_fixed known (by rw [← quiet])]
    rfl
  · rfl

theorem Port.flow_quiet {p : Port} (quiet : p.waiting = []) : p.flow = p := by
  unfold Port.flow
  rw [quiet]
  unfold Port.pump
  rw [← quiet]

/-! ## The replay buffer (R147) -/

theorem Port.holdsSeq_none {p : Port} {a : Nat} (none : ∀ f ∈ p.buffer, f.1 ≠ a) : p.holdsSeq a = false := by
  unfold Port.holdsSeq
  simpa using fun n ks held => none (n, ks) held

theorem Port.holdsSeq_some {p : Port} {pre post : List (Nat × List Packet)} {a : Nat} {ks : List Packet} (held : p.buffer = pre ++ (a, ks) :: post) :
    p.holdsSeq a = true := by
  unfold Port.holdsSeq
  simp [held]

/-- What a buffer holds from a sequence number on. -/
theorem dropWhile_seq {pre post : List (Nat × List Packet)} {a : Nat} {ks : List Packet} (first : ∀ f ∈ pre, f.1 ≠ a) :
    ((pre ++ (a, ks) :: post).dropWhile fun f => f.1 != a) = (a, ks) :: post := by
  rw [List.dropWhile_append_of_pos fun f hf => by simpa using first f hf]
  simp

theorem Port.release_none {p : Port} {a : Nat} (none : ∀ f ∈ p.buffer, f.1 ≠ a) : p.release a = p := by
  unfold Port.release
  rw [Port.holdsSeq_none none]
  rfl

theorem Port.release_held {p : Port} {pre post : List (Nat × List Packet)} {a : Nat} {ks : List Packet} (quiet : p.waiting = [])
    (held : p.buffer = pre ++ (a, ks) :: post) (first : ∀ f ∈ pre, f.1 ≠ a) : p.release a = { p with buffer := post, resends := 0 } := by
  unfold Port.release
  rw [Port.holdsSeq_some held, held, dropWhile_seq first]
  exact Port.flow_quiet (p := { p with buffer := post, resends := 0 }) quiet

theorem Port.resend_eq (p : Port) : p.resend = if p.buffer = [] then p else
    if 8 ≤ p.resends then { p with state := 1, retrain := min (p.retrain + 1) 255 }
    else { p with replay := min (p.replay + p.buffer.length) 0xFFFF, resends := p.resends + 1 } := by
  unfold Port.resend Port.train
  simp only [List.isEmpty_iff]

theorem Port.die_eq (p : Port) : p.die = { p with state := 4, resolve := p.buffer != [] } := by
  unfold Port.die
  cases p.buffer <;> rfl

/-- A port after a training that its peer's RXNEXT ended with `b` still to resend (R147, R150). -/
def Port.restarted (q : Nat) (p : Port) (b : List (Nat × List Packet)) : Port :=
  let r : Port := { p with buffer := b, fails := 0, resends := 0, replay := min (p.replay + b.length) 0xFFFF, state := if 64 ≤ q ∨ p.keyed = true then 3 else 2 }
  if 64 ≤ q then r else { r with buffer := b ++ [(p.txnext, [])], txnext := (p.txnext + 1) % 4096 }

theorem Port.restarted_waiting (q : Nat) (p : Port) (b : List (Nat × List Packet)) : (p.restarted q b).waiting = p.waiting := by
  unfold Port.restarted
  dsimp only
  split <;> rfl

theorem Port.trained_eq {p : Port} {q n : Nat} {b : List (Nat × List Packet)} (quiet : p.waiting = [])
    (left : (if p.holdsSeq n then p.buffer.dropWhile fun f => f.1 != n else []) = b) : p.trained (decide (64 ≤ q)) n = p.restarted q b := by
  unfold Port.trained Port.restarted
  rw [left]
  by_cases module : 64 ≤ q
  · simp only [module, decide_true, if_true, Bool.true_or, true_or]
    exact Port.flow_quiet quiet
  · by_cases keyed : p.keyed = true
    · simp only [module, decide_false, Bool.false_eq_true, if_false, Bool.false_or, false_or, Port.put, keyed, if_true]
      exact Port.flow_quiet quiet
    · simp only [module, decide_false, Bool.false_eq_true, if_false, Bool.false_or, false_or, Port.put, keyed]

/-! ## Bad flits (R147, R152) -/

theorem flit_bad_iff (f : Flit) : f.bad = true ↔ 2 < f.evenErrors ∨ 2 < f.oddErrors ∨ f.crcOk = false ∨ 4 ≤ f.kind := by
  simp [Flit.bad, or_assoc]

theorem Port.nak_eq (p : Port) (bad : Bool) : p.nak bad =
    if bad = true ∧ p.inBad = true then p else { p with naks := p.naks ++ [(p.rxnext + 4095) % 4096], inBad := bad } := by
  unfold Port.nak Port.sendNak
  cases bad <;> simp

/-- A port, of whose flits only a module keeps a count. -/
def Port.counted (q : Nat) (p : Port) (bad : Bool) : Port := if 64 ≤ q then p.tally bad else p

theorem Port.counted_keeps (q : Nat) (p : Port) (bad : Bool) : p.counted q bad = { p with seen := (p.counted q bad).seen, badAt := (p.counted q bad).badAt } := by
  unfold Port.counted Port.tally
  split <;> rfl

theorem Port.failing_tally_few {p : Port} (few : p.badAt.length < 15) : (p.tally true).failing = false := by
  have short : ((p.seen :: p.badAt).take 16).length ≠ 16 := by rw [List.length_take, List.length_cons]; omega
  simp only [Port.failing, Port.tally, if_true, beq_eq_false_iff_ne.2 short, Bool.and_false, Bool.false_and]

/-- The sixteenth bad flit of a module within 2^20 flits makes it fall back. -/
theorem Port.failing_tally_many {p : Port} (full : p.width = 64) (many : 15 ≤ p.badAt.length) (close : p.seen - p.badAt.getD 14 0 < 2 ^ 20) :
    (p.tally true).failing = true := by
  have last : ((p.seen :: p.badAt).take 16).getLastD 0 = p.badAt.getD 14 0 := by
    rw [List.getLastD_eq_getLast?, List.getLast?_take]
    simp [List.getD_eq_getElem?_getD, List.getElem?_eq_getElem (show 14 < p.badAt.length by omega)]
  have count : ((p.seen :: p.badAt).take 16).length = 16 := by rw [List.length_take, List.length_cons]; omega
  unfold Port.failing Port.tally
  simp only [full, if_true, count, last]
  simpa using close

end Sys2Proof.Machine
end

section
/-!
SUPPORT. The events of the link layer at a port where nothing waits (R146 to R152, R440): what each makes of its port.
-/
namespace Sys2Proof.Machine

/-! ## Resending and training (R147, R440) -/

section
variable {s : State} {q : Nat}

theorem exec_ackTimeout_up (up : (s.dev.portAt q).state = 3) : exec (.ackTimeout q) s = .next (s.setDev (s.dev.mapPort q Port.resend)) :=
  congrArg Host.Outcome.next (if_pos up)

theorem exec_ackTimeout_shut (shut : (s.dev.portAt q).state ≠ 3) : exec (.ackTimeout q) s = .next s :=
  congrArg Host.Outcome.next (if_neg shut)

theorem exec_nakReceive_up (up : (s.dev.portAt q).state = 3) (a : Nat) :
    exec (.nakReceive q a) s = .next (s.setDev (s.dev.mapPort q fun p => (p.release a).resend)) :=
  congrArg Host.Outcome.next (if_pos up)

theorem exec_nakReceive_shut (shut : (s.dev.portAt q).state ≠ 3) (a : Nat) : exec (.nakReceive q a) s = .next s :=
  congrArg Host.Outcome.next (if_neg shut)

theorem exec_portRetrainRequest_up (up : (s.dev.portAt q).state = 3) (plane : q < 64) :
    exec (.portRetrainRequest q) s = .next (s.setDev (s.dev.mapPort q Port.train)) :=
  congrArg Host.Outcome.next (if_pos ⟨up, plane⟩)

theorem exec_portRetrainRequest_shut (shut : (s.dev.portAt q).state ≠ 3) : exec (.portRetrainRequest q) s = .next s :=
  congrArg Host.Outcome.next (if_neg fun h => shut h.1)

theorem exec_retrainDone_shut (shut : (s.dev.portAt q).state ≠ 1) (ok : Bool) (n : Nat) : exec (.retrainDone q ok n) s = .next s :=
  congrArg Host.Outcome.next (if_pos shut)

/-- What a training that has ended makes of its port: it succeeded, or it failed for the third time in a row or earlier (R147). -/
def Port.retrained (q : Nat) (ok : Bool) (n : Nat) (p : Port) : Port :=
  if ok then p.trained (decide (64 ≤ q)) n
  else if 2 ≤ p.fails then { p with fails := 3 }.die
  else { p with fails := p.fails + 1, retrain := min (p.retrain + 1) 255 }

/-- A training that ends at a port where nothing waits changes that port alone. -/
theorem exec_retrainDone_training (known : s.dev.HasPort q) (idle : s.dev.fabric.crossing = []) (training : (s.dev.portAt q).state = 1) (ok : Bool)
    (n : Nat) (quiet : ((s.dev.portAt q).retrained q ok n).waiting = []) :
    exec (.retrainDone q ok n) s = .next (s.setDev (s.dev.mapPort q fun p => p.retrained q ok n)) := by
  have crossed : (if decide (64 ≤ q) = true then (s.dev.mapPort q fun p => p.retrained q ok n).cross else s.dev.mapPort q fun p => p.retrained q ok n) =
      s.dev.mapPort q fun p => p.retrained q ok n := by rw [Device.cross_mapPort idle, ite_self]
  have only := known.map fun p => p.retrained q ok n
  refine congrArg Host.Outcome.next ((if_neg (not_not.2 training)).trans ?_)
  refine (congrArg (fun d => (s.setDev d).reroute q) crossed).trans (State.reroute_quiet only.known ?_)
  rw [only.port]
  exact quiet

/-- A training that succeeds, with `b` still to resend. -/
theorem exec_retrainDone_ok (known : s.dev.HasPort q) (idle : s.dev.fabric.crossing = []) (training : (s.dev.portAt q).state = 1) {n : Nat}
    (quiet : (s.dev.portAt q).waiting = []) {b : List (Nat × List Packet)}
    (left : (if (s.dev.portAt q).holdsSeq n then (s.dev.portAt q).buffer.dropWhile fun f => f.1 != n else []) = b) :
    ∃ t, exec (.retrainDone q true n) s = .next t ∧ OnlyPort s t q ((s.dev.portAt q).restarted q b) := by
  have restarted : (s.dev.portAt q).retrained q true n = (s.dev.portAt q).restarted q b := Port.trained_eq quiet left
  rw [← restarted]
  refine ⟨_, exec_retrainDone_training known idle training true n ?_, known.map _⟩
  rw [restarted, Port.restarted_waiting]
  exact quiet

theorem Port.retrained_failed (p : Port) (n : Nat) : p.retrained q false n = if 2 ≤ p.fails then { p with fails := 3, state := 4, resolve := p.buffer != [] }
    else { p with fails := p.fails + 1, retrain := min (p.retrain + 1) 255 } := by
  unfold Port.retrained
  rw [if_neg Bool.false_ne_true]
  simp only [Port.die_eq]

/-- A training that fails. -/
theorem exec_retrainDone_failed (known : s.dev.HasPort q) (idle : s.dev.fabric.crossing = []) (training : (s.dev.portAt q).state = 1)
    (quiet : (s.dev.portAt q).waiting = []) (n : Nat) :
    ∃ t, exec (.retrainDone q false n) s = .next t ∧ OnlyPort s t q ((s.dev.portAt q).retrained q false n) := by
  refine ⟨_, exec_retrainDone_training known idle training false n ?_, known.map _⟩
  rw [Port.retrained_failed]
  split <;> exact quiet

end

/-! ## Flits (R146, R147, R149, R152) -/

section
variable {s : State} {q : Nat} {f : Flit}

/-- A port that trains, is off or dead, or stands behind a vestibule that is down takes no flit. -/
theorem exec_flitReceive_shut (shut : (s.dev.portAt q).state ≠ 2 ∧ (s.dev.portAt q).state ≠ 3 ∨ q < 64 ∧ s.dev.vestDown (q / 32) = true) :
    exec (.flitReceive q f) s = .next s :=
  congrArg Host.Outcome.next (if_pos shut)

/-- A port in KEYING or UP takes flits while every vestibule has a module up. -/
theorem takesFlits (listens : (s.dev.portAt q).state = 2 ∨ (s.dev.portAt q).state = 3) (reached : ∀ v, s.dev.vestDown v = false) :
    ¬ ((s.dev.portAt q).state ≠ 2 ∧ (s.dev.portAt q).state ≠ 3 ∨ q < 64 ∧ s.dev.vestDown (q / 32) = true) := by
  simp only [reached, Bool.false_eq_true, and_false, or_false]
  omega

/-- Counting a flit changes at most its port while the module does not fall back. -/
theorem State.tallied_calm (known : s.dev.HasPort q) {bad : Bool} (calm : bad = false ∨ q < 64 ∨ (s.dev.portAt q).badAt.length < 15) :
    OnlyPort s (s.tallied q bad) q ((s.dev.portAt q).counted q bad) := by
  unfold State.tallied Port.counted
  by_cases plane : q < 64
  · rw [if_pos plane, if_neg (Nat.not_le.2 plane)]
    exact .refl known
  · have module : 64 ≤ q := Nat.not_lt.1 plane
    have only := known.map fun x => x.tally bad
    have stays : (bad && ((s.dev.portAt q).tally bad).failing) = false := by
      cases bad with
      | false => rfl
      | true => exact Port.failing_tally_few (by simpa [plane] using calm)
    rw [if_neg plane, if_pos module]
    dsimp only
    rw [only.port, stays, if_neg Bool.false_ne_true]
    exact only

/-- A bad flit is counted and answered with a NAK, once in a run. -/
theorem exec_flitReceive_bad (takes : ¬ ((s.dev.portAt q).state ≠ 2 ∧ (s.dev.portAt q).state ≠ 3 ∨ q < 64 ∧ s.dev.vestDown (q / 32) = true))
    (bad : f.bad = true) : exec (.flitReceive q f) s =
      .next ((s.tallied q true).setDev ((s.tallied q true).dev.mapPort q fun x => x.nak true)) :=
  congrArg Host.Outcome.next ((if_neg takes).trans (by simp only [bad, if_true]))

/-- Sixteen bad flits close together at a module at full width make it fall back; what fails is a free value. -/
theorem State.tallied_failing (known : s.dev.HasPort q) (module : 64 ≤ q) (failing : ((s.dev.portAt q).tally true).failing = true) :
    ∃ a b, (s.tallied q true).turns = .event (.moduleFallback ((q - 64) / 8) ((q - 64) % 8) a b) :: s.turns ∧
      (s.tallied q true).dev = s.dev.mapPort q fun x => x.tally true := by
  have port := (known.map fun x => x.tally true).port
  unfold State.tallied
  dsimp only
  rw [if_neg (Nat.not_lt.2 module), port, failing, Bool.and_self, if_pos rfl]
  exact ⟨_, _, rfl, rfl⟩

/-- A port that hears a good flit: a module counts it, and a run of bad flits ends. -/
def Port.heard (q : Nat) (p : Port) : Port := { p.counted q false with inBad := false }

theorem Port.heard_keeps (q : Nat) (p : Port) : p.heard q = { p with seen := (p.heard q).seen, badAt := (p.heard q).badAt, inBad := false } := by
  unfold Port.heard
  rw [Port.counted_keeps]

/-- A good flit whose ACK releases nothing is counted and ends a run of bad ones; then its kind decides. -/
theorem exec_flitReceive_good (known : s.dev.HasPort q) (idle : s.dev.fabric.crossing = [])
    (takes : ¬ ((s.dev.portAt q).state ≠ 2 ∧ (s.dev.portAt q).state ≠ 3 ∨ q < 64 ∧ s.dev.vestDown (q / 32) = true))
    (good : f.bad = false) (unheld : ∀ x ∈ (s.dev.portAt q).buffer, x.1 ≠ f.ack) :
    ∃ t, OnlyPort s t q ((s.dev.portAt q).heard q) ∧ exec (.flitReceive q f) s = .next (
      if f.kind = 0 ∨ f.kind = 3 then t.sequenced q f else if f.kind = 2 then t.setDev (t.dev.mapPort q Port.resend) else t) := by
  have counted := State.tallied_calm known (bad := false) (.inl rfl)
  have only := counted.map fun x => ({ x with inBad := false } : Port).release f.ack
  have kept : ((s.dev.portAt q).heard q).release f.ack = (s.dev.portAt q).heard q := Port.release_none (by rw [Port.heard_keeps]; exact unheld)
  have idle' : (s.tallied q false).dev.fabric.crossing = [] := by rw [counted.rest]; exact idle
  change OnlyPort s _ q (((s.dev.portAt q).heard q).release f.ack) at only
  rw [kept] at only
  refine ⟨_, only, congrArg Host.Outcome.next ((if_neg takes).trans ?_)⟩
  simp only [good, Bool.false_eq_true, if_false, Device.cross_mapPort idle', ite_self]

end

/-! ### Flits in sequence and out of it -/

section
variable {t : State} {q : Nat} {f : Flit}

theorem State.sequenced_lost (lost : f.seq ≠ (t.dev.portAt q).rxnext) :
    t.sequenced q f = t.setDev (t.dev.mapPort q fun x => if ahead f.seq x.rxnext then x.nak false else x) := by
  unfold State.sequenced
  exact if_neg lost

/-- A data flit that a keyed plane port cannot trust kills it, and the management processor is told. -/
theorem State.sequenced_forged (known : t.dev.HasPort q) (next : f.seq = (t.dev.portAt q).rxnext)
    (forged : f.kind = 0 ∧ q < 64 ∧ (t.dev.portAt q).keyed = true ∧ (f.gcmOk = false ∨ f.enc = false)) (quiet : (t.dev.portAt q).waiting = []) :
    t.sequenced q f = (t.setDev (t.dev.mapPort q Port.die)).setDev ((t.dev.mapPort q Port.die).notify 0x100 q none) := by
  have only := known.map Port.die
  unfold State.sequenced
  dsimp only
  rw [if_pos next, if_pos forged]
  exact State.reroute_quiet (s := t.setDev ((t.dev.mapPort q Port.die).notify 0x100 q none)) only.known
    ((congrArg Port.waiting only.port).trans quiet)

/-- A port that takes a flit in sequence: it expects the next, and a data flit of a keyed port moves the receive counter. -/
def Port.accept (f : Flit) (x : Port) : Port :=
  { x with rxnext := (x.rxnext + 1) % 4096, rxgcm := if f.kind = 0 ∧ x.keyed then x.rxgcm + 1 else x.rxgcm }

theorem State.sequenced_data (next : f.seq = (t.dev.portAt q).rxnext) (data : f.kind = 0) (plane : q < 64)
    (trusted : (t.dev.portAt q).keyed = true → f.gcmOk = true ∧ f.enc = true) :
    t.sequenced q f = { t.setDev (t.dev.mapPort q (Port.accept f)) with turns := (f.packets.map fun k => Turn.event (arrivalOf q k)) ++ t.turns } := by
  have genuine : ¬ (f.kind = 0 ∧ q < 64 ∧ (t.dev.portAt q).keyed = true ∧ (f.gcmOk = false ∨ f.enc = false)) := by
    rintro ⟨-, -, keyed, bad⟩
    simp [trusted keyed] at bad
  unfold State.sequenced
  dsimp only
  rw [if_pos next, if_neg genuine]
  exact if_pos ⟨data, plane⟩

theorem State.sequenced_control (next : f.seq = (t.dev.portAt q).rxnext) (control : ¬ (f.kind = 0 ∧ q < 64)) :
    t.sequenced q f = t.setDev (t.dev.mapPort q (Port.accept f)) := by
  unfold State.sequenced
  dsimp only
  rw [if_pos next, if_neg fun h => control ⟨h.1, h.2.1⟩]
  exact if_neg control

/-- The turn that a packet of plane port `q` takes: one that is discarded, a request or a marker arrives as it is, an answer goes to its
request, and an undelivered packet carries the plane it came back on (R139, R142). -/
theorem arrivalOf_plane (plane : q < 64) (k : Packet) : arrivalOf q k = if badPacket k = true then .fabricPacketArrival q k
    else if k.type = 4 then .responseArrival k else if k.type = 9 then .mcsArrival k
    else if k.type = 10 then .undlvArrival { k with type := k.xtra / 2 ^ 32, xtra := k.xtra % 2 ^ 32 + q * 2 ^ 32 } else .fabricPacketArrival q k := by
  unfold arrivalOf returnedOf
  rw [Nat.mod_eq_of_lt plane]
  rfl

end

/-! ## Modules that fall back (R151, R152) -/

/-- A module without lanes that fail, or with them in one half or in both. -/
def Port.fallback (low high : Bool) (p : Port) : Port :=
  if low && high then { p with width := 0, state := 4, buffer := [], waiting := [] } else { p with width := 32, high := low, badAt := [] }.train

theorem exec_moduleFallback {s : State} {v m : Nat} (low high : Bool) (hv : v < 2) (hm : m < 8) (idle : s.dev.fabric.crossing = []) :
    exec (.moduleFallback v m low high) s = .next ((s.setDev (s.dev.mapPort (64 + 8 * v + m) (Port.fallback low high))).setDev
      ((s.dev.mapPort (64 + 8 * v + m) (Port.fallback low high)).notify 0x200 (8 * v + m) none)) := by
  refine congrArg Host.Outcome.next ((if_neg (by omega)).trans ?_)
  extract_lets d e cut fabric left
  have changed : d = s.dev.mapPort (64 + 8 * v + m) (Port.fallback low high) := rfl
  have told : e = d.notify 0x200 (8 * v + m) none := congrArg (Device.notify · 0x200 (8 * v + m) none) (Device.cross_mapPort idle _ _)
  rw [← changed, ← told]
  have nothingWaits : e.fabric.crossing = [] := by
    rw [told]
    exact (s.dev.crossing_mapPort _ _).trans idle
  have nothingCut : cut = [] := by
    change e.fabric.crossing.filter _ = []
    rw [nothingWaits, List.filter_nil]
  have same : left = e := by
    change { e with fabric := { e.fabric with crossing := e.fabric.crossing.filter _ } } = e
    rw [nothingWaits, List.filter_nil]
    exact Device.with_crossing nothingWaits
  rw [nothingCut, List.foldl_nil, same, ite_self]
  rfl

/-! ## Keys (R149, R150) -/

section
variable {s : State} {q : Nat}

/-- A port whose new key `n` is installed. -/
def Port.keyedBy (n : Nat) (x : Port) : Port :=
  { x with keyed := true, update := false, gcm := 0, rxgcm := 0, txkey := Config.portKey (2 * n), rxkey := Config.portKey (2 * n + 1)
           txsalt := Config.portSalt (2 * n), rxsalt := Config.portSalt (2 * n + 1)
           txnext := (x.txnext + Config.keyFlits n) % 4096, state := if x.state = 2 then 3 else x.state }

theorem exec_keyExchangeDone_due (plane : q < 64) (due : (s.dev.portAt q).state = 2 ∨ (s.dev.portAt q).update = true) :
    exec (.keyExchangeDone q) s =
      .next { s.setDev (s.dev.mapPort q fun x => (x.keyedBy s.free).flow) with free := s.free + 1 } :=
  congrArg Host.Outcome.next (if_pos ⟨plane, due⟩)

theorem exec_keyExchangeDone_idle (settled : (s.dev.portAt q).state ≠ 2) (stays : (s.dev.portAt q).update = false) :
    exec (.keyExchangeDone q) s = .next s :=
  congrArg Host.Outcome.next (if_neg fun h => h.2.elim settled (by simp [stays]))

theorem exec_keyUpdate_due (plane : q < 64) (due : 2 ^ 40 ≤ (s.dev.portAt q).counter) :
    exec (.keyUpdate q) s = .next (s.setDev (s.dev.mapPort q fun x => { x with update := true })) :=
  congrArg Host.Outcome.next (if_pos ⟨plane, due⟩)

theorem exec_keyUpdate_early (early : (s.dev.portAt q).counter < 2 ^ 40) : exec (.keyUpdate q) s = .next s :=
  congrArg Host.Outcome.next (if_neg fun h => Nat.not_le.2 early h.2)

theorem exec_keyLimitStop_due (plane : q < 64) (up : (s.dev.portAt q).state = 3) (due : 2 ^ 47 ≤ (s.dev.portAt q).counter) :
    exec (.keyLimitStop q) s = .next (s.setDev (s.dev.mapPort q fun x => { x with state := 2, update := true })) :=
  congrArg Host.Outcome.next (if_pos ⟨plane, up, due⟩)

theorem exec_keyLimitStop_early (early : (s.dev.portAt q).counter < 2 ^ 47) : exec (.keyLimitStop q) s = .next s :=
  congrArg Host.Outcome.next (if_neg fun h => Nat.not_le.2 early h.2.2)

end

/-! ## Holds and the bridge (R134, R135, R148, R154) -/

/-- A sequencer without waiting packets releases none. -/
theorem State.releaseHeld_nil {s : State} (clear : s.dev.fabric.waitq = []) : s.releaseHeld = s := by
  unfold State.releaseHeld
  simp only [clear]

theorem filter_bne (l : List (Nat × Nat)) (t : Nat) : (l.filter fun c => c.1 != t) = l.filter fun c => c.1 ≠ t :=
  List.filter_congr fun c _ => by simp [bne, beq_eq_decide]

/-- The device no longer takes the plane mask of another device to be changing. -/
def Device.settled (d : Device) (t : Nat) : Device :=
  { d with fabric := { d.fabric with changing := d.fabric.changing.filter fun c => c.1 ≠ t } }

theorem Device.settled_same {d : Device} {t : Nat} (clear : ∀ c ∈ d.fabric.changing, c.1 ≠ t) : d.settled t = d := by
  unfold Device.settled
  rw [List.filter_eq_self.2 fun c hc => decide_eq_true (clear c hc)]

/-- A hold that ends under a condition. -/
theorem Device.ite_settled (d : Device) (t : Nat) (c : Prop) [Decidable c] : (if c then d.settled t else d) =
    { d with fabric := { d.fabric with changing := if c then d.fabric.changing.filter fun x => x.1 ≠ t else d.fabric.changing } } := by
  split <;> rfl

/-- With nothing outstanding or returned, a hold ends at once. -/
theorem exec_planeHoldRelease_idle {s : State} (t : Nat) (requests : s.dev.fabric.requests = []) (back : s.dev.fabric.back = [])
    (waitq : s.dev.fabric.waitq = []) : exec (.planeHoldRelease t) s = .next (s.setDev (s.dev.settled t)) := by
  change Host.Outcome.next _ = _
  congr 1
  unfold Device.settled
  by_cases changing : (s.dev.fabric.changing.any fun c => c.1 == t) = true
  · simp only [changing, requests, back, List.any_nil, List.filter_nil, List.foldl_nil, filter_bne, Bool.not_true, Bool.false_eq_true, or_self, if_false]
    exact State.releaseHeld_nil waitq
  · have clear : ∀ c ∈ s.dev.fabric.changing, c.1 ≠ t := fun c held at' => changing (List.any_eq_true.2 ⟨c, held, beq_iff_eq.2 at'⟩)
    simp only [changing, Bool.not_false, true_or, if_true]
    exact (congrArg s.setDev (Device.settled_same clear)).symm

/-- With nothing outstanding or returned, the management processor's write of PMASK stores it; a mask of zero ends the hold of that device. -/
theorem exec_pmaskWrite_idle {s : State} {w : RegWrite} {t : Nat} (ok : w.ok = true) (base : w.base = 0x10000 + 8 * t) (mgmt : w.agent = .mgmt)
    (requests : s.dev.fabric.requests = []) (back : s.dev.fabric.back = []) :
    exec (.pmaskWrite w) s = .next (s.setDev (if (s.dev.regStoreAs w (2 ^ 64 - 1) 0).reg w.base = 0 then (s.dev.regStoreAs w (2 ^ 64 - 1) 0).settled t
      else s.dev.regStoreAs w (2 ^ 64 - 1) 0)) := by
  refine congrArg Host.Outcome.next ((if_neg (by simp [mgmt, ok])).trans ?_)
  extract_lets n old d out fabric e
  obtain rfl : n = t := by simp only [n]; omega
  have mask : d.pmask n = d.reg w.base := by rw [base]; rfl
  have nothingOut : out = [] := by
    change s.dev.fabric.requests.filter _ = []
    rw [requests, List.filter_nil]
  have settled : e = d.settled n := by
    change ({ d with fabric := { d.fabric with changing := d.fabric.changing.filter _, back := s.dev.fabric.back.filter _ } } : Device) = _
    rw [filter_bne, back, List.filter_nil, ← back]
    rfl
  rw [mask, nothingOut, settled, List.foldl_nil, List.any_nil]
  by_cases zero : d.reg w.base = 0
  · rw [if_pos zero, if_pos zero]
  · rw [if_neg zero, if_neg zero, if_neg fun h => Bool.false_ne_true h.2]

theorem exec_bridgeLinkDown_quiet {s : State} (down : Bool) (bridge : s.dev.isBridge = true) (clear : ∀ r ∈ s.dev.fabric.requests, r.plane ≠ 64) :
    exec (.bridgeLinkDown down) s = .next (s.setDev { s.dev with fabric := { s.dev.fabric with linkUp := !down } }) := by
  have off : s.dev.fabric.requests.filter s.dev.onPcie = [] := by
    rw [List.filter_eq_nil_iff]
    intro r hr
    simp [Device.onPcie, clear r hr]
  refine congrArg Host.Outcome.next ((if_pos bridge).trans ?_)
  dsimp only
  rw [off, List.foldl_nil, ite_self]

/-- PORTRESOLVE at a dead port that held nothing and at which nothing waits clears RESOLVE (R148). -/
theorem exec_portresolveGo_empty {s : State} {w : RegWrite} {q : Nat} (ok : w.ok = true) (base : w.base = 0x20400 + 8 * q) (go : bit w.ones 12 = true)
    (unresolved : (s.dev.portAt q).resolve = true) (empty : (s.dev.portAt q).buffer = []) (quiet : (s.dev.portAt q).waiting = [])
    (waitq : s.dev.fabric.waitq = []) :
    exec (.portresolveGo w) s = .next (s.setDev (s.dev.mapPort q fun x => { x with resolve := false, buffer := [], waiting := [] })) := by
  have number : (w.base - 0x20400) / 8 = q := by omega
  have held : ∀ a, (s.dev.portAt q).holdsSeq a = false := fun a => Port.holdsSeq_none (by rw [empty]; nofun)
  have waitq' : (s.setDev (s.dev.mapPort q fun x => { x with resolve := false, buffer := [], waiting := [] })).dev.fabric.waitq = [] := by
    rw [State.setDev_dev, Device.mapPort_rest]; exact waitq
  change Host.Outcome.next _ = _
  congr 1
  simp only [number, ok, go, unresolved, Bool.true_eq_false, or_self, if_false, held, Bool.false_eq_true, empty, quiet, ite_self, List.flatMap_nil,
    List.append_nil, List.foldl_nil]
  exact State.releaseHeld_nil waitq'

theorem exec_portresolveGo_off {s : State} {w : RegWrite} {q : Nat} (base : w.base = 0x20400 + 8 * q)
    (off : bit w.ones 12 = false ∨ (s.dev.portAt q).resolve = false) : exec (.portresolveGo w) s = .next s := by
  have number : (w.base - 0x20400) / 8 = q := by omega
  refine congrArg Host.Outcome.next (if_pos (.inr ?_))
  rw [number]
  exact off

end Sys2Proof.Machine
end

section
/-!
SUPPORT. The clauses of O54, each for one event of a port, a module or a register (R134, R135, R146 to R152, R154, R440).
-/
namespace Sys2Proof.Machine

/-- The equations by which O54 says that only port `q` changed, to `p`. -/
def PortAlone (s t : State) (q : Nat) (p : Port) : Prop := t.dev.portAt q = p ∧ (∀ r, r ≠ q → t.dev.portAt r = s.dev.portAt r) ∧
  t = s.setDev { s.dev with fabric := { s.dev.fabric with ports := t.dev.fabric.ports, modules := t.dev.fabric.modules } }

theorem OnlyPort.alone {s t : State} {q : Nat} {p p' : Port} (h : OnlyPort s t q p) (e : p = p') : PortAlone s t q p' := ⟨h.port.trans e, h.others, h.rest⟩

/-! ## Flits -/

section
variable {s : State} {q : Nat} {f : Flit} (known : s.dev.HasPort q) (idle : s.dev.fabric.crossing = [])
  (takes : ¬ ((s.dev.portAt q).state ≠ 2 ∧ (s.dev.portAt q).state ≠ 3 ∨ q < 64 ∧ s.dev.vestDown (q / 32) = true))
include known takes

/-- A bad flit that does not make a module fall back changes its port alone. -/
theorem flit_bad (bad : f.bad = true) (calm : q < 64 ∨ (s.dev.portAt q).badAt.length < 15) :
    ∃ t, exec (.flitReceive q f) s = .next t ∧ OnlyPort s t q (((s.dev.portAt q).counted q true).nak true) :=
  ⟨_, exec_flitReceive_bad takes bad, (State.tallied_calm known (.inr calm)).map _⟩

/-- The bad flit that makes a module fall back puts its fallback before the turns to come. -/
theorem flit_failing (bad : f.bad = true) (module : 64 ≤ q) (failing : ((s.dev.portAt q).tally true).failing = true) :
    ∃ t a b, exec (.flitReceive q f) s = .next t ∧ t.turns = .event (.moduleFallback ((q - 64) / 8) ((q - 64) % 8) a b) :: s.turns ∧
      t.dev.portAt q = ((s.dev.portAt q).counted q true).nak true := by
  obtain ⟨a, b, turns, dev⟩ := State.tallied_failing known module failing
  have only := (known.map fun x => x.tally true).map fun x => x.nak true
  refine ⟨_, a, b, exec_flitReceive_bad takes bad, turns, ?_⟩
  rw [dev, Port.counted, if_pos module]
  exact only.port

variable (good : f.bad = false) (unheld : ∀ x ∈ (s.dev.portAt q).buffer, x.1 ≠ f.ack)
include idle good unheld

theorem flit_empty (kind : f.kind = 1) : ∃ t, exec (.flitReceive q f) s = .next t ∧ OnlyPort s t q ((s.dev.portAt q).heard q) := by
  obtain ⟨t, only, ran⟩ := exec_flitReceive_good known idle takes good unheld
  rw [if_neg (by omega), if_neg (by omega)] at ran
  exact ⟨t, ran, only⟩

theorem flit_nak (kind : f.kind = 2) : ∃ t, exec (.flitReceive q f) s = .next t ∧ OnlyPort s t q ((s.dev.portAt q).heard q).resend := by
  obtain ⟨t, only, ran⟩ := exec_flitReceive_good known idle takes good unheld
  rw [if_neg (by omega), if_pos kind] at ran
  exact ⟨_, ran, only.map Port.resend⟩

/-- A sequenced flit reaches a port that has heard it. -/
theorem flit_sequenced (kind : f.kind = 0 ∨ f.kind = 3) : ∃ t, OnlyPort s t q ((s.dev.portAt q).heard q) ∧
    exec (.flitReceive q f) s = .next (t.sequenced q f) ∧ (t.dev.portAt q).rxnext = (s.dev.portAt q).rxnext ∧
    (t.dev.portAt q).keyed = (s.dev.portAt q).keyed ∧ (t.dev.portAt q).waiting = (s.dev.portAt q).waiting ∧ t.turns = s.turns := by
  obtain ⟨t, only, ran⟩ := exec_flitReceive_good known idle takes good unheld
  rw [if_pos kind] at ran
  refine ⟨t, only, ran, ?_, ?_, ?_, ?_⟩
  · rw [only.port, Port.heard_keeps]
  · rw [only.port, Port.heard_keeps]
  · rw [only.port, Port.heard_keeps]
  · rw [only.rest]; rfl

theorem flit_lost (kind : f.kind = 0 ∨ f.kind = 3) (lost : f.seq ≠ (s.dev.portAt q).rxnext) :
    ∃ t, exec (.flitReceive q f) s = .next t ∧ OnlyPort s t q (
      if ahead f.seq (s.dev.portAt q).rxnext = true then ((s.dev.portAt q).heard q).nak false else (s.dev.portAt q).heard q) := by
  obtain ⟨t, only, ran, next, -⟩ := flit_sequenced known idle takes good unheld kind
  rw [State.sequenced_lost (by rw [next]; exact lost)] at ran
  have left := only.map fun x => if ahead f.seq x.rxnext then x.nak false else x
  rw [show ((s.dev.portAt q).heard q).rxnext = (s.dev.portAt q).rxnext by rw [Port.heard_keeps]] at left
  exact ⟨_, ran, left⟩

theorem flit_forged (forged : f.kind = 0 ∧ q < 64 ∧ (s.dev.portAt q).keyed = true ∧ (f.gcmOk = false ∨ f.enc = false))
    (inSequence : f.seq = (s.dev.portAt q).rxnext) (quiet : (s.dev.portAt q).waiting = []) :
    ∃ t u, exec (.flitReceive q f) s = .next t ∧ OnlyPort s u q ((s.dev.portAt q).heard q).die ∧
      t = u.setDev { u.dev with mgmt := u.dev.mgmt ++ [{ source := 0x100, place := q, addr := none }] } := by
  obtain ⟨t, only, ran, next, keyed, waiting, -⟩ := flit_sequenced known idle takes good unheld (.inl forged.1)
  rw [State.sequenced_forged only.known (inSequence.trans next.symm) (by rw [keyed]; exact forged) (waiting.trans quiet)] at ran
  exact ⟨_, _, ran, only.map Port.die, rfl⟩

theorem flit_data (data : f.kind = 0) (plane : q < 64) (inSequence : f.seq = (s.dev.portAt q).rxnext)
    (trusted : (s.dev.portAt q).keyed = true → f.gcmOk = true ∧ f.enc = true) :
    ∃ t u, exec (.flitReceive q f) s = .next t ∧ OnlyPort s u q (((s.dev.portAt q).heard q).accept f) ∧
      t = { u with turns := (f.packets.map fun k => Turn.event (arrivalOf q k)) ++ u.turns } := by
  obtain ⟨t, only, ran, next, keyed, -⟩ := flit_sequenced known idle takes good unheld (.inl data)
  rw [State.sequenced_data (inSequence.trans next.symm) data plane (by rw [keyed]; exact trusted)] at ran
  exact ⟨_, _, ran, only.map (Port.accept f), rfl⟩

theorem flit_control (kind : f.kind = 0 ∨ f.kind = 3) (control : ¬ (f.kind = 0 ∧ q < 64)) (inSequence : f.seq = (s.dev.portAt q).rxnext) :
    ∃ t, exec (.flitReceive q f) s = .next t ∧ OnlyPort s t q (((s.dev.portAt q).heard q).accept f) := by
  obtain ⟨t, only, ran, next, -⟩ := flit_sequenced known idle takes good unheld kind
  rw [State.sequenced_control (inSequence.trans next.symm) control] at ran
  exact ⟨_, ran, only.map (Port.accept f)⟩

end

/-- A data flit in sequence at a port that has heard it. -/
theorem Port.accept_data {f : Flit} (data : f.kind = 0) (q : Nat) (p : Port) : (p.heard q).accept f =
    { p.heard q with rxnext := (p.rxnext + 1) % 4096, rxgcm := if p.keyed = true then p.rxgcm + 1 else p.rxgcm } := by
  unfold Port.accept
  rw [Port.heard_keeps]
  simp only [data, true_and]

/-- A flit that moves no receive counter. -/
theorem Port.accept_control {f : Flit} {q : Nat} {p : Port} (control : ¬ (f.kind = 0 ∧ p.keyed = true)) : (p.heard q).accept f =
    { p.heard q with rxnext := (p.rxnext + 1) % 4096 } := by
  unfold Port.accept
  rw [Port.heard_keeps]
  simp only [control, if_false]

/-- Settles O54: each clause is what the lemma of its event says. That a SEQ up to 2,047 ahead of the expected one counts as ahead (log entry 84)
and that an UNDLV carries the type it returns in XTRA (log entry 14) are choices of the model that the statement takes over. -/
theorem portsAndLinks : Obligations.PortsAndLinks := by
  unfold Obligations.PortsAndLinks
  intro only resent nak tally spoiled trained dead
  refine ⟨?_, ?_, ?_, ?_, ?_, ?_⟩
  · intro s q known idle p
    have known : s.dev.HasPort q := known
    have pass (listens : p.state = 2 ∨ p.state = 3) (reached : ∀ v, s.dev.vestDown v = false) := takesFlits listens reached
    refine ⟨?_, ?_, ?_, ?_, ?_, ?_, ?_, ?_, ?_, ?_, ?_, ?_, ?_, ?_, ?_, ?_, ?_, ?_⟩
    -- resending
    · exact fun shut => ⟨exec_ackTimeout_shut shut, exec_portRetrainRequest_shut shut, exec_nakReceive_shut shut⟩
    · exact fun up => ⟨_, exec_ackTimeout_up up, (known.map _).alone (Port.resend_eq _)⟩
    · intro up a unheld
      refine ⟨_, exec_nakReceive_up up a, (known.map _).alone ?_⟩
      rw [Port.release_none unheld]
      exact Port.resend_eq _
    · intro up quiet pre post a ks held first
      refine ⟨_, exec_nakReceive_up up a, (known.map _).alone ?_⟩
      rw [Port.release_held quiet held first]
      exact Port.resend_eq _
    -- training
    · exact fun up plane => ⟨_, exec_portRetrainRequest_up up plane, (known.map _).alone rfl⟩
    · exact fun shut ok n => exec_retrainDone_shut shut ok n
    · intro training n unheld quiet
      obtain ⟨t, ran, alone⟩ := exec_retrainDone_ok known idle training quiet (if_neg (by rw [Port.holdsSeq_none unheld]; exact Bool.false_ne_true))
      exact ⟨t, ran, alone.alone rfl⟩
    · intro training n pre post ks held first quiet
      obtain ⟨t, ran, alone⟩ := exec_retrainDone_ok known idle training quiet (by rw [Port.holdsSeq_some held, if_pos rfl, held, dropWhile_seq first])
      exact ⟨t, ran, alone.alone rfl⟩
    · intro training quiet n
      obtain ⟨t, ran, alone⟩ := exec_retrainDone_failed known idle training quiet n
      exact ⟨t, ran, alone.alone (Port.retrained_failed p n)⟩
    -- flits: none taken, a bad one, a good one
    · exact fun f shut => exec_flitReceive_shut shut
    · intro f listens reached isBad
      have bad := (flit_bad_iff f).2 isBad
      refine ⟨fun calm => ?_, fun module full many close => ?_⟩
      · obtain ⟨t, ran, alone⟩ := flit_bad known (pass listens reached) bad calm
        exact ⟨t, ran, alone.alone (Port.nak_eq ..)⟩
      · obtain ⟨t, a, b, ran, turns, port⟩ := flit_failing known (pass listens reached) bad module (Port.failing_tally_many full many close)
        exact ⟨t, a, b, ran, turns, port.trans (Port.nak_eq ..)⟩
    · intro f listens reached notBad quiet unheld c
      have good : f.bad = false := Bool.eq_false_iff.2 fun bad => notBad ((flit_bad_iff f).1 bad)
      have takes := pass listens reached
      refine ⟨fun kind => ?_, fun kind => ?_, fun data next trusted plane => ?_, fun kind next => ?_, fun data next plane keyed forged => ?_, fun kind lost => ?_⟩
      · obtain ⟨t, ran, alone⟩ := flit_empty known idle takes good unheld kind
        exact ⟨t, ran, alone.alone rfl⟩
      · obtain ⟨t, ran, alone⟩ := flit_nak known idle takes good unheld kind
        exact ⟨t, ran, alone.alone (Port.resend_eq _)⟩
      · obtain ⟨t, u, ran, alone, turns⟩ := flit_data known idle takes good unheld data plane next trusted
        simp only [arrivalOf_plane plane] at turns
        exact ⟨t, u, ran, alone.alone (Port.accept_data data q p), turns⟩
      · obtain ⟨t, ran, alone⟩ := flit_control known idle takes good unheld (kind.symm.imp_left And.left) (by omega) next
        refine ⟨t, ran, alone.alone (Port.accept_control ?_)⟩
        rintro ⟨data, keyed⟩
        rcases kind with control | ⟨-, -, unkeyed⟩
        · omega
        · exact Bool.false_ne_true (unkeyed.symm.trans keyed)
      · obtain ⟨t, u, ran, alone, told⟩ := flit_forged known idle takes good unheld ⟨data, plane, keyed, forged⟩ next quiet
        exact ⟨t, u, ran, alone.alone (Port.die_eq _), told⟩
      · obtain ⟨t, ran, alone⟩ := flit_lost known idle takes good unheld kind lost
        refine ⟨t, ran, alone.alone ?_⟩
        simp only [ahead, decide_eq_true_eq, Port.nak_eq]
        rfl
    -- keys
    · intro plane due quiet
      have flow : (p.keyedBy s.free).flow = p.keyedBy s.free := Port.flow_quiet quiet
      exact ⟨_, _, _, _, _, _, _, exec_keyExchangeDone_due plane due, rfl, (known.map _).alone flow⟩
    · exact fun settled stays => exec_keyExchangeDone_idle settled stays
    · exact fun plane due => ⟨_, exec_keyUpdate_due plane due, (known.map _).alone rfl⟩
    · exact fun early => exec_keyUpdate_early early
    · exact fun plane up due => ⟨_, exec_keyLimitStop_due plane up due, (known.map _).alone rfl⟩
    · exact fun early => exec_keyLimitStop_early early
  · intro s v m low high hv hm modules idle q p
    have known : s.dev.HasPort q := .inr ⟨by omega, by omega⟩
    refine ⟨_, _, exec_moduleFallback low high hv hm idle, rfl, (known.map _).alone ?_⟩
    simp only [Port.fallback, Bool.and_eq_true, Port.train]
    rfl
  · intro s w dev ok base requests back
    refine ⟨fun other => congrArg Host.Outcome.next (if_pos (.inl other)), fun mgmt => ?_⟩
    refine ⟨_, _, (RegSet.of_setReg s w.base _).written ok, exec_pmaskWrite_idle ok base mgmt requests back, ?_⟩
    exact congrArg s.setDev (Device.ite_settled _ dev _)
  · exact fun s dev requests back waitq => ⟨_, exec_planeHoldRelease_idle dev requests back waitq, rfl⟩
  · intro s w q plane inside ok base requests waitq
    refine ⟨fun go unresolved empty quiet => ⟨_, exec_portresolveGo_empty ok base ?_ unresolved empty quiet waitq, ?_⟩, fun off => exec_portresolveGo_off base ?_⟩
    · rw [bit_eq_testBit]; exact go
    · refine (Device.HasPort.map (.inl ⟨plane, inside⟩) _).alone ?_
      rw [← empty, ← quiet]
    · rw [bit_eq_testBit]; exact off
  · intro s down
    refine ⟨fun clear => congrArg Host.Outcome.next (if_neg ?_), fun bridge onPlanes => ⟨_, exec_bridgeLinkDown_quiet down ?_ onPlanes, rfl⟩⟩
    · rw [Device.isBridge, bit_eq_testBit, clear]; exact Bool.false_ne_true
    · rw [Device.isBridge, bit_eq_testBit]; exact bridge

end Sys2Proof.Machine
end

section
/-!
SUPPORT. Number formats (R156 to R163): the value of an encoding of a floating-point format of Table 6-1, and its quantum.
-/
namespace Sys2Proof.Machine

/-! ## The formats of Table 6-1 -/

/-- The exponent field of the largest finite encoding is that of `emax`. -/
theorem Fmt.maxFinite_div (g : Fmt) : ((g.maxFinite / 2 ^ g.frac : Nat) : Int) = g.emax + g.bias := by
  cases g <;> decide

theorem Fmt.emin_le_emax {g : Fmt} (float : g.isFloat = true) : g.emin ≤ g.emax := by
  revert float
  cases g <;> decide

/-- An encoding is its magnitude field with its sign bit put back. -/
theorem Fmt.signed_bit_mod (g : Fmt) {x : Nat} (fits : x < 2 ^ g.width) :
    g.signed (bit x (g.width - 1)) (x % 2 ^ (g.width - 1)) = x := by
  obtain ⟨n, wide⟩ : ∃ n, g.width = n + 1 := Nat.exists_eq_add_one.2 (by cases g <;> decide)
  have half : x / 2 ^ n < 2 := Nat.div_lt_of_lt_mul (by rwa [wide, Nat.pow_succ] at fits)
  have parts := Nat.div_add_mod x (2 ^ n)
  simp only [Fmt.signed, bit, wide, Nat.add_sub_cancel, beq_iff_eq]
  rcases Nat.lt_succ_iff_lt_or_eq.1 half with low | high
  · rw [Nat.lt_one_iff.1 low] at parts ⊢
    simpa using parts
  · rw [high] at parts ⊢
    simpa [Nat.add_comm] using parts

/-! ## The value of an encoding (R157) -/

section
variable {g : Fmt} {x : Nat} (float : g.isFloat = true)
include float

theorem value_inf (inf : g.infBits = some (x % 2 ^ (g.width - 1))) (big : g.maxFinite < x % 2 ^ (g.width - 1)) :
    value x g = .inf (bit x (g.width - 1)) := by
  simp [value, float, big, inf]

theorem value_nan (noInf : g.infBits ≠ some (x % 2 ^ (g.width - 1))) (big : g.maxFinite < x % 2 ^ (g.width - 1)) :
    value x g = .nan := by
  simp [value, float, big, noInf]

theorem value_subnormal (finite : x % 2 ^ (g.width - 1) ≤ g.maxFinite) (low : x % 2 ^ (g.width - 1) / 2 ^ g.frac = 0) :
    value x g = .fin (bit x (g.width - 1)) (x % 2 ^ (g.width - 1) % 2 ^ g.frac) (g.emin - g.frac) := by
  simp only [value, float, if_true, Nat.not_lt.2 finite, if_false, low, Fmt.emin]

theorem value_normal (finite : x % 2 ^ (g.width - 1) ≤ g.maxFinite) (high : x % 2 ^ (g.width - 1) / 2 ^ g.frac ≠ 0) :
    value x g = .fin (bit x (g.width - 1)) (2 ^ g.frac + x % 2 ^ (g.width - 1) % 2 ^ g.frac)
      (((x % 2 ^ (g.width - 1) / 2 ^ g.frac : Nat) : Int) - g.bias - g.frac) := by
  simp only [value, float, if_true, Nat.not_lt.2 finite, if_false, high]

/-! ## Rounding what the format holds (R163) -/

/-- Zeros and subnormals lie on the grid of the least quantum. -/
theorem quantumExp_subnormal {m : Nat} (small : m < 2 ^ g.frac) : quantumExp g m (g.emin - g.frac) = g.emin - g.frac := by
  have range := Fmt.emin_le_emax float
  unfold quantumExp log2Mag
  rw [if_pos float]
  split
  · rfl
  next nonzero =>
    have := (Nat.log2_lt nonzero).2 small
    omega

/-- A significand of a normal value lies on the grid of its own quantum. -/
theorem quantumExp_normal {fr : Nat} {E : Int} (small : fr < 2 ^ g.frac) (least : g.emin ≤ E) (most : E ≤ g.emax) :
    quantumExp g (2 ^ g.frac + fr) (E - g.frac) = E - g.frac := by
  have log : Nat.log2 (2 ^ g.frac + fr) = g.frac := by
    rw [Nat.log2_eq_iff (by have := Nat.two_pow_pos g.frac; omega), Nat.pow_succ]
    omega
  have nonzero : 2 ^ g.frac + fr ≠ 0 := by have := Nat.two_pow_pos g.frac; omega
  unfold quantumExp log2Mag
  rw [if_pos float, if_neg nonzero, log]
  omega

omit float in
/-- A magnitude counted in quanta that it holds whole keeps its count in every mode. -/
theorem roundMag_whole (mode : RMode) (neg : Bool) (m d : Nat) (t : Word) : roundMag mode neg m 0 d t = m := by
  rw [roundMag, if_pos le_rfl, Int.toNat_zero, Nat.pow_zero, Nat.mul_one]

/-- A magnitude of whole quanta is not changed by rounding: its exponent and fraction fields are the result. -/
theorem roundRN_whole {neg : Bool} {m mag : Nat} {e : Int} (whole : quantumExp g m e = e) (finite : mag ≤ g.maxFinite)
    (fields : (if m < 2 ^ g.frac then m else (e + g.frac + g.bias).toNat * 2 ^ g.frac + (m - 2 ^ g.frac)) = mag) :
    roundRN g (.fin neg m e) = g.signed neg mag := by
  simp only [roundRN, round, roundFin, whole, sub_self, roundMag_whole, float, if_true, fields]
  rw [if_neg (Nat.not_lt.2 finite)]

/-- R163: rounding keeps a value that the format holds. -/
theorem roundRN_value (fits : x < 2 ^ g.width) (number : value x g ≠ .nan) : roundRN g (value x g) = x := by
  refine Eq.trans ?_ (g.signed_bit_mod fits)
  have fraction : x % 2 ^ (g.width - 1) % 2 ^ g.frac < 2 ^ g.frac := Nat.mod_lt _ (Nat.two_pow_pos _)
  rcases Nat.lt_or_ge g.maxFinite (x % 2 ^ (g.width - 1)) with big | finite
  · by_cases inf : g.infBits = some (x % 2 ^ (g.width - 1))
    · rw [value_inf float inf big]
      simp only [roundRN, round, inf]
    · exact absurd (value_nan float inf big) number
  · by_cases low : x % 2 ^ (g.width - 1) / 2 ^ g.frac = 0
    · rw [value_subnormal float finite low]
      refine roundRN_whole float (quantumExp_subnormal float fraction) finite ?_
      rw [if_pos fraction]
      exact Nat.mod_eq_of_lt ((Nat.div_eq_zero_iff_lt (Nat.two_pow_pos _)).1 low)
    · have most := Nat.div_le_div_right (c := 2 ^ g.frac) finite
      have top := g.maxFinite_div
      rw [value_normal float finite low]
      refine roundRN_whole float (quantumExp_normal float fraction ?_ ?_) finite ?_
      · exact Int.sub_le_sub_right (Int.ofNat_le.2 (Nat.one_le_iff_ne_zero.2 low)) _
      · omega
      · rw [if_neg (by omega), Nat.add_sub_cancel_left, sub_add_cancel, sub_add_cancel, Int.toNat_natCast]
        exact Nat.div_add_mod' ..

end

/-- Settles O8: zeros and subnormals are whole multiples of the least quantum, a normal value is one of its own quantum, and infinities
keep their encoding. -/
theorem roundingIsExact : Obligations.RoundingIsExact := by
  unfold Obligations.RoundingIsExact
  exact fun _ _ => roundRN_value

end Sys2Proof.Machine
end

section
/-!
SUPPORT. What follows an instruction that rounds under .SR: the key and step it read, its SR words, and its check of the key-use filter
(R162, R171, R172, R174, R377).
-/
namespace Sys2Proof.Machine

/-! ## Rounding modes -/

/-- The codes of Table 6-2. -/
theorem modeOf_eq {r : BitVec 3} (code : r.toNat ≤ 4) : modeOf r = modeNamed r := by
  revert r
  decide

/-- Only code 4 is .SR. -/
theorem modeOf_beq_sr (r : BitVec 3) : (modeOf r == .sr) = decide (r = 4#3) := by
  revert r
  decide

/-! ## SR words -/

/-- The key and step that an instruction reads are ones that R172 admits. -/
theorem State.srKeys_pair (s : State) : SrPair s s.srKeys := by
  unfold SrPair State.srKeys State.srNear
  split
  next stale => exact .inr ⟨(Bool.and_eq_true_iff.1 stale).1, rfl⟩
  next => exact .inl rfl

/-- The SR words of the model are those of the key and step read at issue (R171). -/
theorem State.srAt_eq (s : State) : s.srAt = srWordOf s s.srKeys := by
  funext k
  simp only [State.srAt, srWordOf, srWord, lo32_eq, hi32_eq, pair64]

/-! ## Warnings (R377) -/

/-- cr.wstat after one more warning of bit `b`. -/
def warned (b : Nat) (w : Word) : Word :=
  (w &&& 0xFFFF0000#32) ||| (1#32 <<< b) ||| BitVec.ofNat 32 (min ((w &&& 0xFFFF#32).toNat + 1) 0xFFFF)

theorem warned_srw (w : Word) : (warned 31 w).getLsbD 31 = true := by
  simp [warned]

/-- COUNT goes up by one and stops at 0xFFFF. -/
theorem warned_count (w : Word) : (warned 31 w &&& 0xFFFF#32).toNat = min ((w &&& 0xFFFF#32).toNat + 1) 0xFFFF := by
  generalize count : min ((w &&& 0xFFFF#32).toNat + 1) 0xFFFF = k
  have small : k < 2 ^ 16 := by omega
  have bits : w &&& 0xFFFF0000#32 &&& 0xFFFF#32 = 0#32 := by rw [BitVec.and_assoc]; exact BitVec.and_zero
  have srw : 1#32 <<< 31 &&& 0xFFFF#32 = 0#32 := by decide
  rw [warned, count, BitVec.and_or_distrib_right, BitVec.and_or_distrib_right, bits, srw, BitVec.zero_or, BitVec.zero_or,
    BitVec.toNat_and, BitVec.toNat_ofNat]
  exact (Nat.and_two_pow_sub_one_eq_mod _ 16).trans (by omega)

/-- A context with one more warning of bit `b` recorded. -/
def Context.warned (c : Context) (b : Nat) : Context := { c with wstat := Machine.warned b c.wstat }

/-- In a context that is not recorded a warning moves cr.wstat alone. -/
theorem State.warn_off {s : State} (off : s.recording = false) (b code sub : Nat) :
    s.warn b code sub = s.setCx (s.cx.warned b) :=
  State.log_off _ _ _ off

/-- A warning that is not entered leaves the cohort where it is. -/
theorem State.enterWarning_masked {s : State} (masked : s.cx.tctl.getLsbD 1 = false) (code sub : Nat) : s.enterWarning code sub = s := by
  rw [State.enterWarning, State.entersWarnings, masked]
  rfl

/-- In a context that is not recorded and masks warnings, one is recorded and nothing more happens. -/
theorem State.warn_masked {s : State} (off : s.recording = false) (masked : s.cx.tctl.getLsbD 1 = false) (b code sub : Nat) :
    (s.warn b code sub).enterWarning code sub = s.setCx (s.cx.warned b) := by
  rw [State.warn_off off]
  exact State.enterWarning_masked (s := s.setCx (s.cx.warned b)) masked code sub

theorem State.deliverSrw_none {s : State} (calm : s.me.srw = none) : s.deliverSrw = s := by
  rw [State.deliverSrw, calm]

/-- A cohort whose #SRW has gone to cr.srwtid and cr.srwlseq. -/
def Cohort.srwTold (c : Cohort) (tid prev : Word) : Cohort := { (c.crput 0x5C tid).crput 0x5D prev with srw := none }

theorem Cohort.srwTold_eq {c : Cohort} (calm : c.srw = none) (tid prev : Word) :
    c.srwTold tid prev = { c with cr := (c.srwTold tid prev).cr } := by
  rw [Cohort.srwTold, ← calm]
  rfl

/-- The #SRW of a context that is not recorded and enters no warning goes to cr.srwtid, cr.srwlseq and cr.wstat (R174). -/
theorem State.deliverSrw_some {s : State} {tid prev : Word} (raised : s.me.srw = some (tid, prev)) (off : s.recording = false)
    (masked : s.cx.tctl.getLsbD 1 = false) :
    s.deliverSrw = (s.setMe (s.me.srwTold tid prev)).setCx (s.cx.warned 31) := by
  rw [State.deliverSrw, raised]
  exact State.warn_masked (s := s.setMe (s.me.srwTold tid prev)) off masked 31 13 0

/-! ## The key-use filter (R174) -/

/-- A context whose filter lists a TID that another launch uses again. -/
def Context.reused (c : Context) (tid lseq : Word) : Context :=
  { c with filter := c.filter.map (fun e => if e.1 = tid then (tid, lseq) else e), srwWarn := true }

section
variable {s : State} {tid prev : Word}

theorem State.srCheck_same (listed : s.cx.filter.find? (fun e => e.1 == tid) = some (tid, prev)) (same : prev = s.co.lseq) :
    s.srCheck tid = s := by
  simp only [State.srCheck, listed, same, if_true]

theorem State.srCheck_new (fresh : s.cx.filter.find? (fun e => e.1 == tid) = none) :
    s.srCheck tid = { s with cx := { s.cx with
      filter := (if 64 ≤ s.cx.filter.length then s.cx.filter.drop 1 else s.cx.filter) ++ [(tid, s.co.lseq)]
      srwEvict := s.cx.srwEvict || decide (64 ≤ s.cx.filter.length) } } := by
  simp only [State.srCheck, fresh, decide_eq_true_eq]

theorem State.srCheck_other (listed : s.cx.filter.find? (fun e => e.1 == tid) = some (tid, prev)) (other : prev ≠ s.co.lseq) :
    s.srCheck tid = (s.setCx (s.cx.reused tid s.co.lseq)).setMe { s.me with srw := some (tid, prev) } := by
  have named : ∀ e : Word × Word, (if e.1 = tid then (e.1, s.co.lseq) else e) = if e.1 = tid then (tid, s.co.lseq) else e := by
    intro e
    split
    next same => rw [same]
    next => rfl
  simp only [State.srCheck, listed, other, if_false, named]
  rfl

end

/-- The check moves neither the device nor the context's identity. -/
theorem State.srCheck_recording (s : State) (tid : Word) : (s.srCheck tid).recording = s.recording := by
  unfold State.srCheck
  dsimp only
  split
  next =>
    split
    · rfl
    · exact State.recording_congr rfl rfl
  next => exact State.recording_congr rfl rfl

/-- In a plain context what follows an instruction that rounds under .SR is its one check and the #SRW of it (R174). -/
theorem srAfter_plain {u : State} (plain : SrPlain u) : srAfter true u = (u.srCheck (u.me.crget 0x16)).deliverSrw := by
  rw [srAfter, if_pos rfl, State.logSrKey_off u plain.seen, State.logPlace_off _ _ _ ((u.srCheck_recording _).trans plain.recorded)]

theorem srAfter_checked {u : State} (plain : SrPlain u) : SrChecked u (srAfter true u) := by
  rw [srAfter_plain plain]
  refine ⟨fun prev listed same => ?_, fun fresh => ?_, fun prev listed other => ?_⟩
  · rw [State.srCheck_same listed same]
    exact State.deliverSrw_none plain.noSrw
  · rw [State.srCheck_new fresh]
    exact State.deliverSrw_none plain.noSrw
  · have off := (u.srCheck_recording (u.me.crget 0x16)).trans plain.recorded
    rw [State.srCheck_other listed other] at off ⊢
    rw [State.deliverSrw_some (tid := u.me.crget 0x16) (prev := prev) rfl off plain.masked]
    refine ⟨rfl, warned_srw _, warned_count _, ?_, ?_, ?_⟩
    · exact (Cohort.crget_crput ..).trans (Cohort.crget_crput ..)
    · exact Cohort.crget_crput ..
    · exact congrArg (fun c => (u.setCx ((u.cx.reused (u.me.crget 0x16) u.co.lseq).warned 31)).setMe c)
        (Cohort.srwTold_eq plain.noSrw (u.me.crget 0x16) prev)

/-- A lane instruction leaves a plain context plain. -/
theorem LaneDone.srPlain {s v : State} {n d : Nat} {vs frees : List Nat} {full : Bool} {res : Nat → Word}
    (done : LaneDone s v n d vs frees full res) (plain : SrPlain s) : SrPlain v := by
  have cx := done.inside.cx
  have place : v.me.j = s.me.j := (congrArg Cohort.j done.rest :)
  have srw : v.me.srw = s.me.srw := (congrArg Cohort.srw done.rest :)
  refine ⟨?_, ?_, ?_, srw.trans plain.noSrw⟩
  · exact (State.recording_congr done.inside.dev (congrArg Context.asid cx :)).trans plain.recorded
  · rw [cx, done.inside.co, place]
    exact plain.seen
  · rw [cx]
    exact plain.masked

/-- What a lane instruction that rounds leaves where it may execute: its lanes written, and after that its check where it makes one. -/
theorem laneThen_checked (j : LaneJob) (check : Bool) (s : State) (ready : LaneReady s j.u j.vs j.ss j.frees j.d) :
    ∃ v, LaneDone s v j.n j.d j.vs j.frees j.full (fun i => j.put ((s.me.vget j.d).lane i) (j.res (s.me.src j.u i))) ∧
      (check = false → laneThen j (srAfter check) s = v) ∧
      (check = true → SrPlain s → SrChecked v (laneThen j (srAfter check) s)) := by
  have done := laneStep_done j s
  refine ⟨_, done, fun off => ?_, fun on plain => ?_⟩ <;> rw [laneThen_ready j _ s ready]
  · rw [off]
    rfl
  · rw [on]
    exact srAfter_checked (done.srPlain plain)

end Sys2Proof.Machine
end

section
/-!
SUPPORT. MX blocks (R166 to R168, R239, R240).
-/
namespace Sys2Proof.Machine

/-- The results of lanes that are not active do not matter. -/
theorem LaneDone.congr {s t : State} {n d : Nat} {vs frees : List Nat} {full : Bool} {res res' : Nat → Word}
    (h : LaneDone s t n d vs frees full res) (same : ∀ i, i < 64 → s.me.act.getLsbD i = true → res i = res' i) :
    LaneDone s t n d vs frees full res' :=
  { h with active := fun i hi on => (h.active i hi on).trans (same i hi on) }

/-! ## Tables of lanes -/

/-- The entry of a key in a table of keys and values side by side. -/
theorem find?_zip_key {β : Type} {i : Nat} : ∀ {ls : List Nat} {ys : List β}, ls.length = ys.length → i ∈ ls →
    ((ls.zip ys).find? fun p => p.1 == i).map (·.2) = ys[ls.idxOf i]?
  | [], _, _, mem => absurd mem List.not_mem_nil
  | k :: ls, [], len, _ => absurd len (Nat.succ_ne_zero _)
  | k :: ls, y :: ys, len, mem => by
    by_cases here : k = i
    · simp [here]
    · have later : i ∈ ls := (List.mem_cons.1 mem).resolve_left (Ne.symm here)
      have ih := find?_zip_key (Nat.succ.inj len) later
      simp [here, List.idxOf_cons_ne, ih]

/-- A search finds what the one element that has anything to find gives. -/
theorem findSome?_of_alone {α β : Type} {f : α → Option β} {a : α} : ∀ {l : List α}, a ∈ l → (∀ k, k ≠ a → f k = none) →
    l.findSome? f = f a
  | [], mem, _ => absurd mem List.not_mem_nil
  | k :: l, mem, alone => by
    by_cases here : k = a
    · subst here
      rw [List.findSome?_cons]
      cases found : f k with
      | some b => rfl
      | none =>
        refine List.findSome?_eq_none_iff.2 fun x _ => ?_
        by_cases again : x = k
        · rw [again, found]
        · exact alone x again
    · rw [List.findSome?_cons, alone k here]
      exact findSome?_of_alone ((List.mem_cons.1 mem).resolve_left (Ne.symm here)) alone

/-! ## Quantising (R166, R167, R239) -/

/-- A block keeps its number of elements. -/
theorem mxQuant_length (f : Fmt) (mode : RMode) (xs : List (Nat × Word)) : (mxQuant f mode xs).2.length = xs.length := by
  unfold mxQuant
  dsimp only
  split
  · exact List.length_map ..
  · split
    · split
      · exact List.length_map ..
      · rw [List.length_map, List.length_map]
    · exact List.length_map ..

/-- A block with a NaN or an infinity has scale 0xFF and elements 0. -/
theorem mxQuant_special {f : Fmt} {mode : RMode} {xs : List (Nat × Word)} {p : Nat × Word} (mem : p ∈ xs)
    (special : value p.1 .fp32 = .nan ∨ (value p.1 .fp32).isInf = true) : mxQuant f mode xs = (0xFF, xs.map fun _ => 0) := by
  have found : ((xs.map fun p => (value p.1 .fp32, p.2)).any fun p => p.1.isNan || p.1.isInf) = true := by
    refine List.any_eq_true.2 ⟨_, List.mem_map_of_mem mem, ?_⟩
    rcases special with nan | inf
    · rw [nan]
      rfl
    · rw [inf, Bool.or_true]
  simp only [mxQuant, found, if_true]

section
variable {f : Fmt} {mode : RMode} {v : VReg} {t : Nat → Word} {ls : List Nat} {i : Nat}

/-- The word of a lane of a block: the block's scale over its own element. -/
theorem mxBlock_find (mem : i ∈ ls) :
    (((mxBlock f mode v t ls).find? fun p => p.1 == i).map (·.2)) =
      some (BitVec.ofNat 32 ((mxQuant f mode (ls.map fun i => ((v.lane i).toNat, t i))).1 * 256 +
        (mxQuant f mode (ls.map fun i => ((v.lane i).toNat, t i))).2.getD (ls.idxOf i) 0)) := by
  generalize block : mxQuant f mode (ls.map fun i => ((v.lane i).toNat, t i)) = q
  have len : q.2.length = ls.length := by rw [← block, mxQuant_length, List.length_map]
  have position : ls.idxOf i < q.2.length := by rw [len]; exact List.idxOf_lt_length_of_mem mem
  rw [mxBlock, block, find?_zip_key (by rw [List.length_map, len]) mem, List.getElem?_map, List.getElem?_eq_getElem position,
    List.getD_eq_getElem _ _ position]
  rfl

/-- A block has no word for a lane outside it. -/
theorem mxBlock_find_none (outside : i ∉ ls) : (mxBlock f mode v t ls).find? (fun p => p.1 == i) = none := by
  refine List.find?_eq_none.2 fun p mem same => outside ?_
  rw [← beq_iff_eq.1 same]
  exact (List.of_mem_zip mem).1

end

/-- The active lanes of block `g` of blocks of `len` lanes (R239). -/
theorem filter_lanesOf (m : Mask) (len g : Nat) : ((lanesOf m).filter fun i => i / len == g) =
    (List.range 64).filter fun k => m.getLsbD k && k / len == g := by
  rw [lanesOf, List.filter_filter]
  exact List.filter_congr fun k _ => Bool.and_comm ..

theorem mem_block {m : Mask} {len g i : Nat} :
    i ∈ (List.range 64).filter (fun k => m.getLsbD k && k / len == g) ↔ i < 64 ∧ m.getLsbD i = true ∧ i / len = g := by
  rw [List.mem_filter, List.mem_range, Bool.and_eq_true, beq_iff_eq]

/-- The table of all blocks holds for an active lane what its own block does. -/
theorem mxTable_find {f : Fmt} {mode : RMode} {v : VReg} {t : Nat → Word} {m : Mask} {len i : Nat} (lane : i < 64)
    (on : m.getLsbD i = true) (divides : len ∣ 64) :
    let ls := (List.range 64).filter fun k => m.getLsbD k && k / len == i / len
    let q := mxQuant f mode (ls.map fun k => ((v.lane k).toNat, t k))
    ((((List.range (64 / len)).flatMap fun g => mxBlock f mode v t ((lanesOf m).filter fun i => i / len == g)).find?
      fun p => p.1 == i).map (·.2)) = some (BitVec.ofNat 32 (q.1 * 256 + q.2.getD (ls.idxOf i) 0)) := by
  have block : i / len ∈ List.range (64 / len) := List.mem_range.2 (Nat.div_lt_div_of_lt_of_dvd divides lane)
  have alone : ∀ g, g ≠ i / len →
      (mxBlock f mode v t ((lanesOf m).filter fun i => i / len == g)).find? (fun p => p.1 == i) = none := fun g other =>
    mxBlock_find_none (by rw [filter_lanesOf]; exact fun mem => other (mem_block.1 mem).2.2.symm)
  rw [List.find?_flatMap, findSome?_of_alone block alone, filter_lanesOf]
  exact mxBlock_find (mem_block.2 ⟨lane, on, rfl⟩)

/-- The lane job of an MX quantisation. -/
def mxJob (f : Fmt) (l : Bool) (r : BitVec 3) (d a : Reg) (ma : Bool) (s : State) : LaneJob :=
  { n := 4, u := false, vs := [a.toNat], ss := [], frees := if ma then [a.toNat] else [], d := d.toNat
    full := true, put := putWhole, cnt := some (27, 1)
    res := fun i => ((((List.range (64 / if l then 16 else 32)).flatMap fun g =>
      mxBlock f (modeOf r) (s.me.vget a.toNat) s.srAt ((lanesOf s.me.act).filter fun i => i / (if l then 16 else 32) == g)).find?
        fun p => p.1 == i).map (·.2)).getD 0#32 }

theorem mxQuantOp_eq (f : Fmt) (l : Bool) (r : BitVec 3) (d a : Reg) (ma : Bool) (s : State) :
    mxQuantOp f l r d a ma s = laneThen (mxJob f l r d a ma s) (srAfter (modeOf r == .sr && s.me.act != 0#64)) s := rfl

/-- What an MX quantisation does, for any instruction that runs it (R239). -/
theorem mxQuant_does {mk : Bool → BitVec 3 → Reg → Reg → Bool → Instr} {f : Fmt}
    (runs : ∀ l r d a ma s, exec (mk l r d a ma) s = .next (mxQuantOp f l r d a ma s)) : MxQuantDoes mk f := by
  intro l r d a ma s code ready
  obtain ⟨v, done, unchecked, checked⟩ := laneThen_checked (mxJob f l r d a ma s) (modeOf r == .sr && s.me.act != 0#64) s ready
  rw [← mxQuantOp_eq] at unchecked checked
  refine ⟨v, _, s.srKeys, runs l r d a ma s, s.srKeys_pair, done.congr ?_, ?_, ?_⟩
  · intro i lane on
    have divides : (if l then 16 else 32) ∣ 64 := by cases l <;> decide
    refine (congrArg (Option.getD · 0#32) (mxTable_find lane on divides)).trans ?_
    rw [modeOf_eq code, s.srAt_eq]
    rfl
  · intro idle
    refine unchecked ?_
    rw [modeOf_beq_sr]
    rcases idle with other | empty
    · simp [other]
    · simp [empty]
  · intro sr active
    refine checked ?_
    rw [modeOf_beq_sr]
    simp [sr, active]

/-! ## Dequantising (R168, R240) -/

/-- The format that b[1:0] names. -/
theorem mxFmt_eq (c : BitVec 2) : mxFmt c = [Fmt.mxint8, .e4m3, .e5m2, .e2m1].getD c.toNat .fp32 := by
  revert c
  decide

/-- Dequantising the element and the scale byte of a word. -/
theorem mxDequant_word (f g : Fmt) (w : Word) : mxDequant f g (elemOf f.width w.toNat 0) (bits w.toNat 15 8) =
    if w.extractLsb' 8 8 = 0xFF#8 then g.nanOut
    else roundRN g ((value (w.extractLsb' 0 f.width).toNat f).scale ((w.extractLsb' 8 8).toNat - 127)) := by
  have elem : elemOf f.width w.toNat 0 = (w.extractLsb' 0 f.width).toNat := by
    simp [elemOf, BitVec.extractLsb'_toNat]
  have scale : bits w.toNat 15 8 = (w.extractLsb' 8 8).toNat := by
    simp [bits, BitVec.extractLsb'_toNat, Nat.shiftRight_eq_div_pow]
  have special : (w.extractLsb' 8 8).toNat = 0xFF ↔ w.extractLsb' 8 8 = 0xFF#8 :=
    BitVec.toNat_inj (y := 0xFF#8)
  simp only [mxDequant, elem, scale, special]

/-- What an MX dequantisation does where it may execute (R240). -/
theorem mxDequant_done {g : Fmt} {c : BitVec 2} {d a : Reg} {ma : Bool} {s : State}
    (ready : LaneReady s false [a.toNat] [] (if ma then [a.toNat] else []) d.toNat) :
    LaneDone s (mxDequantOp g c d a ma s) 4 d.toNat [a.toNat] (if ma then [a.toNat] else []) true
      (fun i => BitVec.ofNat 32 (mxDequant (mxFmt c) g (elemOf (mxFmt c).width ((s.me.vget a.toNat).lane i).toNat 0)
        (bits ((s.me.vget a.toNat).lane i).toNat 15 8))) :=
  laneOp_done _ s ready

/-- Settles O12: the four quantisations are one job over blocks of active lanes followed by the check of the key-use filter, the
dequantisations read the element and the scale byte of their own lane, and one NaN or infinity spoils a block. Which key and step an SR
instruction reads around a change by another cohort is a free choice (log entry 86), so the statement asks for either. -/
theorem mxBlocks : Obligations.MxBlocks := by
  unfold Obligations.MxBlocks
  refine ⟨mxQuant_does fun _ _ _ _ _ _ => rfl, mxQuant_does fun _ _ _ _ _ _ => rfl, mxQuant_does fun _ _ _ _ _ _ => rfl,
    mxQuant_does fun _ _ _ _ _ _ => rfl, ?_, ?_⟩
  · intro c d a ma s ready f x
    have word (g : Fmt) (w : Word) : BitVec.ofNat 32 (mxDequant (mxFmt c) g (elemOf (mxFmt c).width w.toNat 0) (bits w.toNat 15 8)) = x g w := by
      rw [mxDequant_word, mxFmt_eq]
    exact ⟨⟨_, rfl, (mxDequant_done ready).congr fun _ _ _ => word ..⟩, ⟨_, rfl, (mxDequant_done ready).congr fun _ _ _ => word ..⟩⟩
  · intro f mode xs special fit
    obtain ⟨p, mem, special⟩ := special
    refine mxQuant_special mem ?_
    rwa [V32, BitVec.toNat_ofNat, Nat.mod_eq_of_lt (fit p mem)] at special

end Sys2Proof.Machine
end

section
/-!
SUPPORT. What is encoded decodes to itself (R199 to R204, R222).
-/
namespace Sys2Proof.Laws.RoundTrip

/-- What is encoded decodes to itself; an event has no word. -/
theorem decode_encode (i : Instr) : Statement i :=
  Instr.casesOn (motive := Statement) i
    -- events, which have no word
    registerWrite mcgtabWrite bridgecfgWrite ascarveWrite carveChangeDone shootdown shootdownComplete pgpush64k pgpush2m pgpop64k pgpop2m
    memerrclr devnumWrite pmaskWrite planeHoldRelease portresolveGo spillbaseWrite queueEnable queueDisable queueResume disableDrainDone
    doorbellWrite fltownWrite ccfwctlGo firmwareCoreSwap prectlGo restctlGo recordStrict recordLossy replayMode modeOff ctxretGo jobreqGo
    featctlGo hallqGo hallQuiesceDone hostBar2Access hostBar0Access powerOn bootStep correlationMarkerSend correlationMarkerReceipt
    patrolScrub uncorrectableError directoryRequest loadReturn storePerform bankOperation streamPrefetch copyPiece galleryFillComplete
    fabricPacketArrival markerRelease responseArrival mcsArrival undlvArrival switchMcw switchMcr flitReceive nakReceive ackTimeout
    retrainDone moduleFallback keyExchangeDone keyUpdate keyLimitStop companyCreate companyPlace headBlock companySteal persistentPlace
    activeSetFill activeSetDisplace allocationDeadlock forcedSpill reload companyRetire consumerLaunch emitAppend queueBind queueUnbind
    fencePacket sigsetPacket sigwaitPacket sigwaitRecheck flightEndPacket flightBeginPacket flightRunPacket treadIssue fallbackPacket
    dispatchPacket graphPacket copyPacket nopPacket completionSignal eventRingWrite inLaneTrapEntry queueLevelTrap fabTrap preemptStop
    overdue companySave waittimeExpiry mmaTileRetire enginePass semaGrant recordPageComplete cbkptTrap traceRecord powerSample traceStop
    statementWrite powerLimitSample thermalThrottle thermalShutdown
    -- the header and the 16-bit forms (Tables 8-1, 8-2, 8-4)
    clauseHeader mov16 iadd16 isub16 imul16 and16 or16 xor16 shl16 shr16 sar16 fadd16 fsub16 fmul16 fmax16 fmin16 fneg16
    -- lane arithmetic, compares, conversions and dot products (majors 0x01 to 0x0F)
    iadd isub imul imulhi imulhu imad iadds isubs and or xor andn shl shr sar rotl imin imax umin umax clz popc brev ineg bfx bfxs bfi prmt
    lsa1 lsa2 lsa3 lsa4 icmpEq icmpNe icmpLt icmpLe icmpGt icmpGe icmpLtu icmpGeu fcmpEq fcmpNe fcmpLt fcmpLe fcmpGt fcmpGe fcmpOrd
    fcmpUnord sel fadd fsub fmul ffma fmin fmax ffms fnma frcp frsq fsqrt fexp2 flog2 fsin fcos ftanh hadd2 hsub2 hmul2 hfma2 hmin2 hmax2
    badd2 bsub2 bmul2 bfma2 bmin2 bmax2 cvt mxqi8 mxqe4 mxqe5 mxqe2 mxdqf mxdqb dot4i8 dot4z8 dot8i4 dot8z4 dot4e4 dot4e5 dot8e2 dot2bf mov
    fabs fneg ffloor fceil ftrunc frint iabs
    -- predicates, masks, votes, shuffles and reductions (majors 0x10 to 0x14)
    pand por pxor pandn pnot pmov emget emset emand emandn emp pem xall xend vany vall vbal vcnt vfirst shfli shflu shfld shflx bcast lradd
    lrmin lrmax lrand lror lrxor lrfadd lrfmax
    -- scalars (majors 0x15 to 0x17)
    sadd ssub smul sand sor sxor sshl sshr ssar smin smax sminu smaxu sadd64 ssub64 smov seq sne slt sle sgt sge sltu sgeu
    -- control and control registers (majors 0x18 to 0x1A)
    br brmz brz brnz brpz brpnz call jmp exit nop yield bkpt trap sys rett halt crrd crwr crrdv srkey srstep cntrd clkrd
    -- memory (majors 0x1B to 0x25)
    ld st stB0 ldu atomAdd atomMin atomMax atomAnd atomOr atomXor atomXchg atomCas atomrAdd atomrMin atomrMax atomrAnd atomrOr atomrXor
    atomrXchg atomrCas redniAdd redniSmin redniSmax redniUmin redniUmax redniAnd redniOr redniXor rednfF32Any rednfBf16Any rednfF16Any
    rednfF32Ord rednfBf16Ord rednfF16Ord rednfCellz bewAdds bewMuls bewFmas bewMaxs bewMins cellrdF32 cellrdBf16 cellrdRaw fence pref wsetG
    wsetL wsetA winv winvAll cpyGl cpyLg cpyGg cpyTgl cpyTlg cpyb cpyw
    -- barriers, graphs, the fabric, the matrix engine, spills and hints (majors 0x26 to 0x3F)
    bar gbara gbarw sema semr signalAdd signalSet emit recv close mcst mldredBf16Ord mldredF32Ord mldredBf16Any mldredF32Any fmark gang macq
    mrel mma gfill tzero tfree tfreeAll tredAdd tredRow tmovr tmovw tcvt spb fla vfree hint
    -- what has no word
    portRetrainRequest bridgeLinkDown mainPowerRemoval reservedEncoding instructionFetchFault

/-- Settles O56, constructor by constructor: the lemma of each cites that of its layout (Tables 8-1 to 8-4), which reads the fields back. -/
theorem decodeReadsEncode : Obligations.DecodeReadsEncode :=
  decode_encode

end Sys2Proof.Laws.RoundTrip
end

section
/-!
SUPPORT. The 16-bit forms against the 32-bit ones (R200, R201, Table 8-2).
-/
namespace Sys2Proof.Machine

/-- A shift by 31 leaves copies of the sign bit. -/
theorem sshiftRight_31 (a : Word) : a.sshiftRight 31 = if a.getLsbD 31 then 0xFFFFFFFF#32 else 0#32 := by
  ext i hi
  have bit : (a.sshiftRight 31)[i] = a.getLsbD 31 := by
    rw [BitVec.getElem_sshiftRight, BitVec.msb_eq_getLsbD_last]
    split
    next low => simp [show i = 0 by omega]
    next => rfl
  rw [bit]
  cases a.getLsbD 31 with
  | false => simp
  | true => exact (BitVec.getElem_allOnes i hi).symm

/-- SAR (R228), whose amount the model stops at 31. -/
theorem wsar_eq (a b : Word) :
    wsar a b = if 32 ≤ b.toNat then (if a.getLsbD 31 then 0xFFFFFFFF#32 else 0#32) else a.sshiftRight b.toNat := by
  unfold wsar
  split
  next far => rw [Nat.min_eq_left (by omega), sshiftRight_31]
  next near => rw [Nat.min_eq_right (by omega)]

/-- MOV_16 between two names copies its source (R200). -/
theorem mov16_does {o : Op16} {s : State} (other : o.d ≠ o.s) (ready : LaneReady s o.u [o.s.toNat] [] [] o.d.toNat) :
    ∃ t, exec (.mov16 o) s = .next t ∧
      LaneDone s t 2 o.d.toNat [o.s.toNat] [] true (fun i => (s.me.vget o.s.toNat).lane (s.me.src o.u i)) :=
  ⟨half1 none (fun b => b) o s, congrArg Host.Outcome.next (if_neg other), laneOp_done _ s ready⟩

/-- A 16-bit instruction and a 32-bit one that run the same function of two words do the same (R200). -/
theorem short_as_long {long : Lane2 → Instr} {short : Op16 → Instr} {k : Option (Nat × Nat)} {f : Word → Word → Word}
    (runsLong : ∀ o s, exec (long o) s = .next (lane2 k f o s)) (runsShort : ∀ o s, exec (short o) s = .next (half2 k f o s)) :
    ∃ f, Lane2Does long f ∧ ShortDoes short f :=
  ⟨f, lane2_does runsLong, half2_does runsShort⟩

/-- Settles O4: each 16-bit form is a lane job with a = vd, b = vs and no mark, and runs the function of its 32-bit form. -/
theorem shortForms : Obligations.ShortForms := by
  unfold Obligations.ShortForms
  simp only [← wsar_eq]
  refine ⟨fun o s same => congrArg Host.Outcome.next (if_pos same), fun o s => mov16_does, half2_does fun _ _ => rfl, half2_does fun _ _ => rfl,
    half2_does fun _ _ => rfl, half2_does fun _ _ => rfl, half2_does fun _ _ => rfl, half2_does fun _ _ => rfl, half2_does fun _ _ => rfl,
    half2_does fun _ _ => rfl, half2_does fun _ _ => rfl, ?_, ?_, ?_, ?_, ?_, ?_⟩
  · exact short_as_long (fun _ _ => rfl) fun _ _ => rfl
  · exact short_as_long (fun _ _ => rfl) fun _ _ => rfl
  · exact short_as_long (fun _ _ => rfl) fun _ _ => rfl
  · exact short_as_long (fun _ _ => rfl) fun _ _ => rfl
  · exact short_as_long (fun _ _ => rfl) fun _ _ => rfl
  · exact ⟨f1 fneg, lane1_does fun _ _ => rfl, half1_does fun _ _ => rfl⟩

end Sys2Proof.Machine
end

section
/-!
SUPPORT. Clause headers, NOP, HINT and YIELD (R209 to R213, R220, R252, R383).
-/
namespace Sys2Proof.Machine

/-! ## Leaving the active set (R213, R252, R332) -/

/-- Yielding may move the cohort out of the active set, and does nothing else. -/
theorem State.yieldSlot_eq (s : State) : s.yieldSlot = { s with me := { s.me with active := s.yieldSlot.me.active } } := by
  unfold State.yieldSlot
  split <;> rfl

/-- No cohort of the core waits where all of the company are active and the core holds no other company. -/
theorem State.pendingReady_alone {s : State} {k : Nat} (here : s.co.place = .core k) (mates : ∀ c ∈ s.co.cohorts, c.active = true)
    (alone : ∀ h ∈ s.dev.companies, h.place ≠ .core k) : s.pendingReady = false := by
  have nobody : (s.dev.companies.filter fun c => c.coreOf == s.co.coreOf) = [] := by
    refine List.filter_eq_nil_iff.2 fun h mem same => ?_
    have on : h.coreOf = some k := by rw [beq_iff_eq.1 same, Company.coreOf, here]
    unfold Company.coreOf at on
    split at on
    next core there => exact alone h mem (there.trans (congrArg Place.core (Option.some.inj on)))
    next => cases on
  have none_ready : (s.co.cohorts.any fun c => c.stat == .running && !c.active && c.wait == .none) = false :=
    List.any_eq_false.2 fun c mem => by simp [mates c mem]
  simp only [State.pendingReady, nobody, none_ready, List.any_nil, Bool.or_false]

/-- Where nobody waits for its place the cohort keeps it. -/
theorem State.yieldSlot_alone {s : State} (nobody : s.pendingReady = false) : s.yieldSlot = s := by
  rw [State.yieldSlot, if_neg (Bool.eq_false_iff.1 nobody)]

/-! ## Clause headers (R209 to R213, R383) -/

/-- The condition of WAIT (R211): each flag that it names is zero. -/
theorem Cohort.waitMet_iff {c : Cohort} {w : BitVec 12} :
    c.waitMet w = true ↔ ∀ i, i < 12 → w.getLsbD i = true → Store.get 0 c.f i = 0 := by
  simp only [Cohort.waitMet, List.all_eq_true, List.mem_range, Bool.or_eq_true, Bool.not_eq_true', beq_iff_eq, or_iff_not_imp_left,
    Bool.not_eq_false]

/-- Whether the header is a pre-emption point at which the cohort stops (R383). -/
def Header.stops (h : Header) (s : State) : Prop := h.p = true ∧ s.me.stopDue = 1 ∧ s.me.handler = false ∧ s.stopBarred = false

/-- The state once a header has begun its clause. -/
def State.begun (s : State) (h : Header) : State :=
  s.setMe { s.me with clause := Header.word h, atEntry := false, pc := s.me.pc + 4#56, wait := .none, held := false }

section
variable {h : Header} {s : State}

theorem exec_clauseHeader_begins (on : ¬ Header.stops h s) (met : s.me.waitMet h.wait = true) :
    exec (.clauseHeader h) s = .next (if h.y then (s.begun h).yieldSlot else s.begun h) :=
  (if_neg on).trans (if_pos met)

theorem exec_clauseHeader_waits (on : ¬ Header.stops h s) (unmet : s.me.waitMet h.wait = false) :
    exec (.clauseHeader h) s = .next (s.waitOn .flags) :=
  (if_neg on).trans (if_neg (Bool.eq_false_iff.1 unmet))

end

/-- Settles O19: a header that stops, one that begins its clause and may yield, and one that waits; NOP and HINT retire, and YIELD retires
and then leaves the active set where another cohort of the core is ready (log entry 2). -/
theorem clauses : Obligations.Clauses := by
  unfold Obligations.Clauses
  refine ⟨fun h s stops => if_pos stops, fun h s on flags => ?_, fun h s i on low named busy => ?_, fun s => rfl,
    fun _ _ _ _ _ _ _ _ s => rfl, fun s => ?_⟩
  · refine ⟨_, exec_clauseHeader_begins on (Cohort.waitMet_iff.2 flags), ?_⟩
    cases h.y with
    | false => exact ⟨rfl, rfl, rfl, rfl, rfl, rfl, fun _ => rfl, rfl, rfl, rfl, rfl, rfl⟩
    | true =>
      rw [if_pos rfl, State.yieldSlot_eq]
      exact ⟨rfl, rfl, rfl, rfl, rfl, rfl, nofun, rfl, rfl, rfl, rfl, rfl⟩
  · refine exec_clauseHeader_waits on (Bool.eq_false_iff.2 fun met => busy (Cohort.waitMet_iff.1 met i low named))
  · refine ⟨(s.retire 4).yieldSlot, rfl, ?_⟩
    have alone (k : Nat) (here : s.co.place = .core k) (mates : ∀ c ∈ s.co.cohorts, c.active = true)
        (others : ∀ h ∈ s.dev.companies, h.place ≠ .core k) : (s.retire 4).yieldSlot.me.active = s.me.active := by
      rw [State.yieldSlot_alone (State.pendingReady_alone (s := s.retire 4) here mates others)]
      rfl
    rw [State.yieldSlot_eq]
    exact ⟨⟨rfl, rfl, rfl⟩, rfl, rfl, rfl, rfl, rfl, rfl, alone⟩

end Sys2Proof.Machine
end

section
/-!
SUPPORT. Queue-level traps of single instructions (R46, R51, R217, R251, R320, R321).
-/
namespace Sys2Proof.Machine

/-- An instruction that raises a queue-level trap. -/
theorem trapped_of_exec {i : Instr} {s : State} {code sub imm : Nat} {m : Mask} (off : s.recording = false)
    (runs : exec i s = .next (s.queueTrap code sub m imm)) : ∃ t, exec i s = .next t ∧ Trapped s t code sub m imm :=
  ⟨_, runs, s.queueTrap_does code sub m imm off⟩

/-- Settles O20: each row answers the queue-level trap that its rule names. That the fault mask of #PF HANDLER and of a fetch is the
present mask is the model's reading (log entry 29). -/
theorem queueLevelTraps : Obligations.QueueLevelTraps := by
  unfold Obligations.QueueLevelTraps
  intro s off
  have cause : ∀ row ∈ [(IllCause.opc, 1), (.hdr, 2), (.unif, 3), (.field, 4), (.mark, 5), (.priv, 6), (.target, 7), (.cls, 8), (.persist, 9)],
      IllCauseNum row.1 = row.2 := by decide
  refine ⟨fun imm => ?trap, fun row mem => ?encoding, fun user => ?fetchUser, fun sup => ?fetchSup, fun user => ?halt, fun user => ?rettUser,
    fun sup out => ?rettOut, fun inside => ?exit, fun sup imm => ?sys⟩ <;> refine trapped_of_exec off ?_
  case trap => rfl
  case encoding =>
    rw [← cause row mem]
    rfl
  case fetchUser => exact congrArg Host.Outcome.next (s.accessTrap_user 4 7 s.me.present user)
  case fetchSup => exact congrArg Host.Outcome.next (s.accessTrap_nested 4 7 s.me.present sup (.inr rfl))
  case halt => exact congrArg Host.Outcome.next (if_neg (by simp [user]))
  case rettUser => exact congrArg Host.Outcome.next (if_pos user)
  case rettOut => exact congrArg Host.Outcome.next ((if_neg (by simp [sup])).trans (if_pos out))
  case exit => exact congrArg Host.Outcome.next (if_pos inside)
  case sys => exact congrArg Host.Outcome.next (if_pos sup)

end Sys2Proof.Machine
end

section
/-!
SUPPORT. Control registers (R183, R215, R217, R316).
-/
namespace Sys2Proof.Machine

/-! ## Which registers an access may reach (R215, R217) -/

theorem crSup_iff {i : Nat} : crSup i = true ↔ SReg i := by
  simp [crSup, SReg, or_assoc]

theorem crOwn_iff {i : Nat} : crOwn i = true ↔ OwnReg i := by
  simp [crOwn, OwnReg, or_assoc]

section
variable {i : Nat} {s : State}

/-- An access that is not barred runs. -/
theorem crPriv_open (may : s.me.priv = true ∨ ¬ SReg i) (f : State → State) : crPriv i f s = f s := by
  refine if_neg fun barred => ?_
  rw [Bool.and_eq_true, Bool.not_eq_true', crSup_iff] at barred
  rcases may with sup | free
  · exact Bool.false_ne_true (barred.2.symm.trans sup)
  · exact free barred.1

/-- An S register at user privilege is #ILL PRIV. -/
theorem crPriv_barred (user : s.me.priv = false) (sreg : SReg i) (f : State → State) : crPriv i f s = s.queueTrap 1 6 s.me.present 0 :=
  if_pos (by rw [Bool.and_eq_true, Bool.not_eq_true', crSup_iff]; exact ⟨sreg, user⟩)

end

/-! ## Reading (R183, R215) -/

/-- cr.srwstat as a word: the two bits over the number of entries (Table 6-7). -/
theorem srwstat_bits (c : Context) (short : c.filter.length < 128) : c.srwstat.getLsbD 31 = c.srwWarn ∧
    c.srwstat.getLsbD 30 = c.srwEvict ∧ (c.srwstat &&& 0x3FFFFFFF#32).toNat = c.filter.length := by
  unfold Context.srwstat
  generalize c.filter.length = n at short
  have fits : ∀ n, n < 128 → ∀ w e : Bool, let x := BitVec.ofNat 32 ((if w then 2 ^ 31 else 0) + (if e then 2 ^ 30 else 0) + n)
      x.getLsbD 31 = w ∧ x.getLsbD 30 = e ∧ (x &&& 0x3FFFFFFF#32).toNat = n := by decide +kernel
  exact fits n short _ _

/-- An index that has no place of its own is a register that the cohort holds, or is not assigned. -/
theorem State.crRead_other (s : State) {i : Nat}
    (other : i ∉ [0, 1, 2, 3, 4, 0x10, 0x11, 0x12, 0x13, 0x14, 0x15, 0x20, 0x41, 0x42, 0x5A, 0x5B]) :
    s.crRead i = if crOwn i then s.me.crget i else 0#32 := by
  simp only [List.mem_cons, List.not_mem_nil, or_false, not_or] at other
  unfold State.crRead
  iterate 13 rw [if_neg (by omega)]

/-- A read gives what the tables say each index holds. -/
theorem State.crRead_holds (s : State) (i : Nat) : CrHolds s i (s.crRead i) := by
  have own (mine : OwnReg i) : s.crRead i = s.me.crget i := by
    have listed := crOwn_iff.2 mine
    unfold OwnReg at mine
    rw [s.crRead_other, if_pos listed]
    simp only [List.mem_cons, List.not_mem_nil, or_false]
    omega
  refine ⟨⟨?_, ?_⟩, ⟨?_, ?_, ?_⟩, ⟨?_, ?_⟩, ?_, ⟨?_, ?_, ?_⟩, ?_, own, ?_⟩
  · rintro rfl; exact lo32_eq _
  · rintro rfl; exact hi32_eq _
  · rintro rfl; rfl
  · rintro rfl; rfl
  · rintro rfl; rfl
  · rintro k low rfl
    unfold State.crRead
    iterate 5 rw [if_neg (by omega)]
    rw [if_pos (by omega), Nat.add_sub_cancel_left]
  · rintro rfl; rfl
  · rintro rfl; exact srwstat_bits s.cx
  · rintro rfl; rfl
  · rintro rfl; rfl
  · rintro rfl; rfl
  · rintro rfl; rfl
  · intro other free
    rw [s.crRead_other other, if_neg (mt crOwn_iff.1 free)]

/-- Settles O25: an access that may run reads what the index holds, and one that may not is #ILL PRIV. -/
theorem controlRegisterReads : Obligations.ControlRegisterReads := by
  unfold Obligations.ControlRegisterReads
  refine fun d idx s => ⟨fun may => ⟨s.crRead idx.toNat, s.crRead_holds _, ?_, fun ready => ?_⟩, fun user sreg off => ⟨?_, ?_⟩⟩
  · exact ⟨_, congrArg Host.Outcome.next (crPriv_open may _), scalar1_of s d.toNat 4 _⟩
  · refine ⟨_, congrArg Host.Outcome.next (crPriv_open may _), ?_⟩
    refine (laneOp_done _ s ready).congr fun i _ _ => ?_
    change (if idx = 0#12 then s.crRead 0 ||| _ else _) = _
    split
    next zero => rw [zero]; rfl
    next => rfl
  · exact trapped_of_exec off (congrArg Host.Outcome.next (crPriv_barred user sreg _))
  · exact trapped_of_exec off (congrArg Host.Outcome.next (crPriv_barred user sreg _))

/-! ## Writing (R6, R215) -/

/-- The registers that a cohort holds and CRWR writes. -/
def CrHeld (i : Nat) : Prop := (0x16 ≤ i ∧ i ≤ 0x1B) ∨ i ∈ [0x21, 0x23, 0x32, 0x40, 0x53, 0x54] ∨ (0x60 ≤ i ∧ i ≤ 0x6F)

/-- What a CRWR of `x` makes of such a register (Tables 8-6 to 8-8, 10-6, 11-7). -/
def crStored (i : Nat) (old x : Word) : Word :=
  if i = 0x21 then clearOnes old x 0xC0000000
  else if i = 0x23 then clearOnes old x 0x80000000
  else if i = 0x40 then (clearOnes old x 0x80000000 &&& 0x80000000#32) ||| (x &&& 0xFFFF#32)
  else if 0x60 ≤ i then clearOnes old x 0xFFFFFFFF
  else x

/-- What a CRWR of `x` makes of the registers that the context holds (Tables 6-7, 14-4, 14-5). -/
def Context.crStored (c : Context) (i : Nat) (x : Word) : Context :=
  if i = 0x15 then { c with srwWarn := c.srwWarn && !x.getLsbD 31, srwEvict := c.srwEvict && !x.getLsbD 30 }
  else if i = 0x20 then { c with supfail := x }
  else if i = 0x5A then { c with tctl := x &&& 7#32 }
  else { c with wstat := clearOnes c.wstat x 0xE0000000 }

section
variable {i : Nat} (s : State) (x : Word)

theorem State.crWrite_held (held : CrHeld i) : s.crWrite i x = s.setMe (s.me.crput i (crStored i (s.me.crget i) x)) := by
  simp only [CrHeld, List.mem_cons, List.not_mem_nil, or_false] at held
  rcases held with plain | (rfl | rfl | rfl | rfl | rfl | rfl) | mcst
  · unfold State.crWrite crStored
    rw [if_neg (by omega), if_pos plain, if_neg (by omega), if_neg (by omega), if_neg (by omega), if_neg (by omega)]
  iterate 6 · rfl
  · unfold State.crWrite crStored
    iterate 10 rw [if_neg (by omega)]
    rw [if_pos mcst, if_neg (by omega), if_neg (by omega), if_neg (by omega), if_pos mcst.1]

theorem State.crWrite_context (shared : i ∈ [0x15, 0x20, 0x5A, 0x5B]) : s.crWrite i x = s.setCx (s.cx.crStored i x) := by
  simp only [List.mem_cons, List.not_mem_nil, or_false] at shared
  rcases shared with rfl | rfl | rfl | rfl <;> rfl

/-- A read-only register, and an index that is not assigned. -/
theorem State.crWrite_ignored (other : ¬ CrHeld i) (free : i ∉ [0x15, 0x20, 0x5A, 0x5B]) : s.crWrite i x = s := by
  simp only [CrHeld, List.mem_cons, List.not_mem_nil, or_false] at other free
  unfold State.crWrite
  iterate 11 rw [if_neg (by omega)]

end

section
variable {i : Nat} {old x : Word}

theorem crStored_rw (plain : (0x16 ≤ i ∧ i ≤ 0x1B) ∨ i = 0x32 ∨ i = 0x53 ∨ i = 0x54) : crStored i old x = x := by
  unfold crStored
  iterate 4 rw [if_neg (by omega)]

theorem crStored_mcst (mcst : 0x60 ≤ i) : crStored i old x = old &&& ~~~ x := by
  unfold crStored
  rw [if_neg (by omega), if_neg (by omega), if_neg (by omega), if_pos mcst, clearOnes]
  exact congrArg (old &&& ~~~ ·) BitVec.and_allOnes

/-- cr.diag (Table 8-8): ILCNT as written, and UNALLOC cleared by a one. -/
theorem crStored_diag : (crStored 0x40 old x).extractLsb' 0 16 = x.extractLsb' 0 16 ∧ (crStored 0x40 old x).extractLsb' 16 15 = 0#15 ∧
    (crStored 0x40 old x).getLsbD 31 = (old.getLsbD 31 && !x.getLsbD 31) := by
  rw [show crStored 0x40 old x = (old &&& ~~~ (x &&& 0x80000000#32) &&& 0x80000000#32) ||| (x &&& 0xFFFF#32) from rfl]
  have ilcnt : (0xFFFF#32).extractLsb' 0 16 = BitVec.allOnes 16 ∧ (0x80000000#32).extractLsb' 0 16 = 0#16 := ⟨rfl, rfl⟩
  have between : (0xFFFF#32).extractLsb' 16 15 = 0#15 ∧ (0x80000000#32).extractLsb' 16 15 = 0#15 := ⟨rfl, rfl⟩
  refine ⟨?_, ?_, by simp⟩
  · simp only [BitVec.extractLsb'_or, BitVec.extractLsb'_and, ilcnt, BitVec.and_zero, BitVec.and_allOnes, BitVec.zero_or]
  · simp only [BitVec.extractLsb'_or, BitVec.extractLsb'_and, between, BitVec.and_zero, BitVec.or_zero]

end

/-- A CRWR of a register that the cohort holds. -/
theorem crput_written {s : State} {i : Nat} (held : CrHeld i) (x : Word) :
    CrWritten s ((s.setMe (s.me.crput i (crStored i (s.me.crget i) x))).retire 4) i x := by
  have now (k : Nat) : ((s.setMe (s.me.crput i (crStored i (s.me.crget i) x))).retire 4).me.crget k =
      if k = i then crStored i (s.me.crget i) x else s.me.crget k := Cohort.crget_crput ..
  have mine := (now i).trans (if_pos rfl)
  have far : i ∉ [0x15, 0x20, 0x5A, 0x5B] := by
    simp only [CrHeld, List.mem_cons, List.not_mem_nil, or_false] at held ⊢
    omega
  simp only [List.mem_cons, List.not_mem_nil, or_false, not_or] at far
  obtain ⟨f15, f20, f5A, f5B⟩ := far
  constructor
  case retired => exact ⟨rfl, rfl, rfl⟩
  case rw => exact fun plain => mine.trans (crStored_rw plain)
  case ordst => rintro rfl; exact mine
  case cpystat => rintro rfl; exact mine
  case diag => rintro rfl; rw [mine]; exact crStored_diag
  case mcst => exact fun low => mine.trans (crStored_mcst low.1)
  case others => exact fun k other => (now k).trans (if_neg other)
  case readonly => exact fun ro => absurd held ro
  case srwstat => exact fun e => absurd e f15
  case supfail => exact fun e => absurd e f20
  case tctl => exact fun e => absurd e f5A
  case wstat => exact fun e => absurd e f5B
  case context => exact fun _ => rfl
  case rest => rfl
  case frame => exact ⟨rfl, rfl, rfl, rfl⟩

/-- A CRWR of anything else leaves the registers of the cohort. -/
theorem crKept_written {s : State} {i : Nat} {x : Word} {c : Context} (other : ¬ CrHeld i)
    (shared : i ∈ [0x15, 0x20, 0x5A, 0x5B] → c = s.cx.crStored i x) (free : i ∉ [0x15, 0x20, 0x5A, 0x5B] → c = s.cx) :
    CrWritten s ((s.setCx c).retire 4) i x := by
  have apart := other
  simp only [CrHeld, List.mem_cons, List.not_mem_nil, or_false] at apart
  constructor
  case retired => exact ⟨rfl, rfl, rfl⟩
  case rw => exact fun plain => absurd plain (by omega)
  case ordst => exact fun e => absurd e (by omega)
  case cpystat => exact fun e => absurd e (by omega)
  case diag => exact fun e => absurd e (by omega)
  case mcst => exact fun e => absurd e (by omega)
  case others => exact fun _ _ => rfl
  case readonly => exact fun _ => rfl
  case srwstat => rintro rfl; exact shared (by decide)
  case supfail => rintro rfl; exact shared (by decide)
  case tctl => rintro rfl; exact shared (by decide)
  case wstat => rintro rfl; exact ⟨_, shared (by decide), rfl⟩
  case context => exact free
  case rest => rfl
  case frame => exact ⟨rfl, rfl, rfl, rfl⟩

/-- What every CRWR leaves, by who holds the register. -/
theorem crWrite_written (s : State) (i : Nat) (x : Word) : CrWritten s ((s.crWrite i x).retire 4) i x := by
  by_cases held : CrHeld i
  · rw [s.crWrite_held x held]
    exact crput_written held x
  by_cases shared : i ∈ [0x15, 0x20, 0x5A, 0x5B]
  · rw [s.crWrite_context x shared]
    exact crKept_written held (fun _ => rfl) (absurd shared)
  · rw [s.crWrite_ignored x held shared]
    exact crKept_written (c := s.cx) held (fun mem => absurd mem shared) (fun _ => rfl)

/-- Settles O26: an access that may run writes the register, or traps where its scalar holds poison; one that may not is #ILL PRIV. -/
theorem controlRegisterWrites : Obligations.ControlRegisterWrites := by
  unfold Obligations.ControlRegisterWrites
  refine fun d idx s => ⟨fun may clean => ?_, fun may bad off => ?_, fun user sreg off => ?_⟩
  · have clean : ¬ s.me.spoison d.toNat = true := Bool.eq_false_iff.1 clean
    exact ⟨_, congrArg Host.Outcome.next ((crPriv_open may _).trans (if_neg clean)), crWrite_written s _ _⟩
  · exact trapped_of_exec off (congrArg Host.Outcome.next ((crPriv_open may _).trans (if_pos bad)))
  · exact trapped_of_exec off (congrArg Host.Outcome.next (crPriv_barred user sreg _))

end Sys2Proof.Machine
end

section
/-!
SUPPORT. From the bytes at the pc to the instruction that a step runs (R46, R199, R204, R210, R330).
-/
namespace Sys2Proof.Machine

/-! ## What bytes say of their length (R199, R204) -/

/-- The first parcel of a run of bytes says whether it begins a word. -/
theorem isLong_cons (b0 b1 : Byte) (rest : List Byte) : isLong (b0 :: b1 :: rest) = (wordOf [b0, b1]).getLsbD 0 := by
  simp only [isLong, wordOf, leNat, List.getD_cons_zero, BitVec.getLsbD, Nat.testBit_zero, BitVec.toNat_ofNat]
  congr 1
  simp only [eq_iff_iff]
  omega

theorem isLong_append {p q : List Byte} (filled : p ≠ []) : isLong (p ++ q) = isLong p := by
  cases p with
  | nil => exact absurd rfl filled
  | cons b p => rfl

/-- Bytes that decode hold one parcel, a word, or a word with its literal, as the first parcel and the word say. -/
theorem decode_ok_length {bs : List Byte} {i : Instr} {n : Nat} (decoded : decode bs = .ok (i, n)) :
    n = 2 ∧ isLong bs = false ∨ isLong bs = true ∧ (n = 4 ∧ hasLiteral (Raw.ofWord (wordOf (bs.take 4)) 0#32) = false ∨
      n = 8 ∧ hasLiteral (Raw.ofWord (wordOf (bs.take 4)) 0#32) = true) := by
  unfold decode at decoded
  split at decoded
  next b0 b1 rest =>
    rw [isLong_cons]
    dsimp only at decoded
    split at decoded
    next short => exact .inl ⟨(congrArg Prod.snd (Except.ok.inj decoded)).symm, short⟩
    next long =>
      refine .inr ⟨Bool.eq_true_of_not_eq_false long, ?_⟩
      split at decoded
      next b2 b3 more =>
        split at decoded
        next lit =>
          refine .inr ⟨?_, lit⟩
          split at decoded
          next =>
            split at decoded
            next => exact (congrArg Prod.snd (Except.ok.inj decoded)).symm
            next => cases decoded
          next => cases decoded
        next lit =>
          refine .inl ⟨?_, Bool.eq_false_of_not_eq_true lit⟩
          split at decoded
          next => exact (congrArg Prod.snd (Except.ok.inj decoded)).symm
          next => cases decoded
      next => cases decoded
  next => cases decoded

section
variable {bs : List Byte} {i : Instr} {n : Nat}

theorem instrOf_decoded (decoded : decode bs = .ok (i, n)) : instrOf bs = i := by
  unfold instrOf
  rw [decoded]

theorem State.instrAt_decoded (s : State) (decoded : decode bs = .ok (i, n)) (able : ∀ c, i ≠ .reservedEncoding c) : s.instrAt bs = i := by
  unfold State.instrAt
  rw [instrOf_decoded decoded]
  split
  next c => exact absurd rfl (able c)
  next => rfl

end

/-! ## Fetching parcels (R46, R199) -/

theorem State.fetchParcels_looked (n : Nat) : ∀ (s : State) (va : Nat), LookedAt s (s.fetchParcels va n).1 := by
  induction n with
  | zero => exact fun s _ => .refl s
  | succ n ih =>
    intro s va
    have first := s.fetchParcel_looked s.me.priv va
    unfold State.fetchParcels
    generalize s.fetchParcel s.me.priv va = one at first
    obtain ⟨v, _ | p⟩ := one
    · exact first
    · have rest := ih v (va + 2)
      dsimp only
      generalize v.fetchParcels (va + 2) n = more at rest
      obtain ⟨w, _ | q⟩ := more <;> exact first.trans rest

/-- A fetch moves the device alone. -/
theorem LookedAt.eq {s u : State} (h : LookedAt s u) : u = s.setDev u.dev := by
  rw [State.setDev, ← h.rest]

theorem State.fetchParcel_length {s v : State} {priv : Bool} {va : Nat} {p : List Byte} (fetched : s.fetchParcel priv va = (v, some p)) :
    p.length = 2 := by
  unfold State.fetchParcel at fetched
  dsimp only at fetched
  split at fetched
  next =>
    have bytes := congrArg Prod.snd fetched
    dsimp only at bytes
    split at bytes
    next => cases bytes
    next => exact congrArg List.length (Option.some.inj bytes).symm
  next => cases fetched

theorem State.fetchParcels_succ {s u : State} {va n : Nat} {bs : List Byte} : s.fetchParcels va (n + 1) = (u, some bs) ↔
    ∃ v p q, s.fetchParcel s.me.priv va = (v, some p) ∧ v.fetchParcels (va + 2) n = (u, some q) ∧ p ++ q = bs := by
  rw [State.fetchParcels]
  generalize s.fetchParcel s.me.priv va = one
  obtain ⟨v, _ | p⟩ := one
  · simp
  · dsimp only
    generalize rest : v.fetchParcels (va + 2) n = more
    obtain ⟨w, _ | q⟩ := more <;> simp [rest, and_assoc]

/-- Parcels one after another: the first `m`, then the rest from where they end. -/
theorem State.fetchParcels_add {k : Nat} {u : State} : ∀ {m : Nat} {s : State} {va : Nat} {bs : List Byte},
    s.fetchParcels va (m + k) = (u, some bs) →
    ∃ v p q, s.fetchParcels va m = (v, some p) ∧ v.fetchParcels (va + 2 * m) k = (u, some q) ∧ p ++ q = bs := by
  intro m
  induction m with
  | zero => exact fun {s va bs} fetched => ⟨s, [], bs, rfl, by rwa [Nat.zero_add] at fetched, rfl⟩
  | succ m ih =>
    intro s va bs fetched
    rw [Nat.add_right_comm] at fetched
    obtain ⟨v, p, q, first, rest, rfl⟩ := State.fetchParcels_succ.1 fetched
    obtain ⟨w, q, r, next, last, rfl⟩ := ih rest
    refine ⟨w, p ++ q, r, State.fetchParcels_succ.2 ⟨v, p, q, first, next, rfl⟩, ?_, List.append_assoc ..⟩
    rwa [show va + 2 + 2 * m = va + 2 * (m + 1) by omega] at last

theorem State.fetchParcels_length {u : State} : ∀ {n : Nat} {s : State} {va : Nat} {bs : List Byte},
    s.fetchParcels va n = (u, some bs) → bs.length = 2 * n := by
  intro n
  induction n with
  | zero =>
    intro s va bs fetched
    rw [← Option.some.inj (congrArg Prod.snd fetched)]
    rfl
  | succ n ih =>
    intro s va bs fetched
    obtain ⟨v, p, q, first, rest, rfl⟩ := State.fetchParcels_succ.1 fetched
    rw [List.length_append, State.fetchParcel_length first, ih rest]
    omega

/-- A fetch leaves the cohort. -/
theorem State.fetchParcels_me {s v : State} {va n : Nat} {p : Option (List Byte)} (fetched : s.fetchParcels va n = (v, p)) : v.me = s.me := by
  have looked := (s.fetchParcels_looked n va).eq
  rw [fetched] at looked
  exact (congrArg State.me looked :)

/-! ## Fetching the instruction at the pc (R46, R199, R204, R210) -/

section
variable {s u : State} {bs : List Byte} {i : Instr} {n : Nat}

/-- The parcels that the first word asks for give the instruction that they decode to. -/
theorem State.fetchHere_decoded (fetched : s.fetchParcels s.me.pc.toNat (n / 2) = (u, some bs)) (decoded : decode bs = .ok (i, n))
    (able : ∀ c, i ≠ .reservedEncoding c) : s.fetchHere = (u, i) := by
  rcases decode_ok_length decoded with ⟨rfl, short⟩ | ⟨long, word⟩
  · replace fetched : s.fetchParcels s.me.pc.toNat 1 = (u, some bs) := fetched
    simp only [State.fetchHere, fetched, short, Bool.false_eq_true, if_false, instrOf_decoded decoded]
  · have two : ∃ k, n / 2 = 1 + (1 + k) := by rcases word with ⟨rfl, -⟩ | ⟨rfl, -⟩; exacts [⟨0, rfl⟩, ⟨2, rfl⟩]
    obtain ⟨k, parcels⟩ := two
    rw [parcels] at fetched
    obtain ⟨v, p, qr, first, rest, rfl⟩ := State.fetchParcels_add fetched
    obtain ⟨w, q, r, second, more, rfl⟩ := State.fetchParcels_add rest
    have lp := State.fetchParcels_length first
    have lq := State.fetchParcels_length second
    have at2 : v.fetchParcels (v.me.pc.toNat + 2) 1 = (w, some q) := by rw [State.fetchParcels_me first]; exact second
    rw [isLong_append (List.ne_nil_of_length_pos (by omega))] at long
    have head : (p ++ (q ++ r)).take 4 = p ++ q := by
      rw [← List.append_assoc, List.take_left' (by rw [List.length_append]; omega)]
    rw [head] at word
    unfold State.fetchHere
    simp only [first, long, at2, if_true]
    rcases word with ⟨rfl, plain⟩ | ⟨rfl, lit⟩
    · obtain rfl : k = 0 := by omega
      obtain ⟨rfl, rfl⟩ : w = u ∧ [] = r := by simpa [State.fetchParcels] using more
      rw [List.append_nil] at decoded
      simp only [plain, Bool.false_eq_true, if_false, w.instrAt_decoded decoded able]
    · obtain rfl : k = 2 := by omega
      have at4 : w.fetchParcels (w.me.pc.toNat + 4) 2 = (u, some r) := by
        rw [State.fetchParcels_me second, State.fetchParcels_me first]
        exact more
      rw [← List.append_assoc] at decoded
      simp only [lit, at4, if_true, instrOf_decoded decoded]

/-- Whether the address of the pc may be fetched at the entry point of a role (R210). -/
theorem reaches_entry (even : s.me.pc.getLsbD 0 = false) (reach : s.me.pc.getLsbD 55 = true → s.me.priv = true) :
    (s.me.pc.getLsbD 0 || (s.me.pc.getLsbD 55 && !s.me.priv)) = false := by
  rw [even, Bool.false_or, Bool.and_eq_false_imp]
  exact fun high => by rw [reach high]; rfl

/-- Away from the entry point of a role, and there at a header that the privilege may reach, a fetch gives what stands at the pc. -/
theorem State.fetch_fits (here : s.fetchHere = (u, i)) (fits : s.me.atEntry = true →
    (∃ h, i = .clauseHeader h) ∧ s.me.pc.getLsbD 0 = false ∧ (s.me.pc.getLsbD 55 = true → s.me.priv = true)) : s.fetch = (u, i) := by
  rw [State.fetch, here]
  cases entry : s.me.atEntry with
  | false => rfl
  | true =>
    obtain ⟨⟨h, rfl⟩, even, reach⟩ := fits entry
    rw [reaches_entry even reach]
    rfl

/-- What is no header raises #ILL TARGET at the entry point of a role (R210, log entry 85). -/
theorem State.fetch_refused (here : s.fetchHere = (u, i)) (entry : s.me.atEntry = true) (other : mayEnter i = false)
    (even : s.me.pc.getLsbD 0 = false) (reach : s.me.pc.getLsbD 55 = true → s.me.priv = true) :
    s.fetch = (u, .reservedEncoding .target) := by
  rw [State.fetch, here, entry, reaches_entry even reach]
  dsimp only
  rw [other]
  rfl

/-- Headers apart, only an encoding that cannot execute and a fetch that does not perform may stand at the entry point of a role. -/
theorem mayEnter_eq_false (header : ∀ h, i ≠ .clauseHeader h) (able : ∀ c, i ≠ .reservedEncoding c) (fetched : i ≠ .instructionFetchFault) :
    mayEnter i = false := by
  unfold mayEnter
  split
  next h => exact absurd rfl (header h)
  next => exact absurd rfl (able _)
  next => exact absurd rfl fetched
  next => rfl

end

/-! ## Steps (R330, log entry 2) -/

section
variable {s u : State} {i : Instr}

theorem step_idle (empty : s.turns = []) (powered : s.dev.boot.powered = true) : step s = idle s := by
  rw [step, empty]
  exact if_pos powered

theorem step_event {rest : List Turn} (head : s.turns = .event i :: rest) (powered : s.dev.boot.powered = true) (event : isEvent i = true) :
    step s = exec i { s with turns := rest } := by
  rw [step, head]
  dsimp only
  rw [powered, Bool.true_or, if_pos rfl, if_pos event]

/-- The turn of the current cohort. -/
theorem step_issue {rest : List Turn} (head : s.turns = .issue s.co.dseq s.me.j :: rest) (powered : s.dev.boot.powered = true)
    (here : s.isAt s.co.dseq s.me.j = true) : step s = issue { s with turns := rest } := by
  have there : State.isAt { s with turns := rest } s.co.dseq s.me.j = true := here
  rw [step, head]
  dsimp only
  rw [if_pos powered, State.focus_at _ _ _ there, if_pos there]

theorem step_unpowered (off : s.dev.boot.powered = false) (empty : s.turns = []) : step s = .fault .noPower := by
  rw [step, empty]
  exact if_neg (Bool.eq_false_iff.1 off)

theorem idle_runs (may : s.canIssue = true) (fetched : s.fetch = (u, i)) (free : u.stalls i = false) : idle s = exec i u := by
  rw [idle, if_pos may, fetched]
  exact if_neg (Bool.eq_false_iff.1 free)

theorem idle_held (may : s.canIssue = true) (fetched : s.fetch = (u, i)) (held : u.stalls i = true) :
    idle s = firstEffect (u.hold i) (u.hold i).idleEvents := by
  rw [idle, if_pos may, fetched]
  exact if_pos held

theorem issue_runs (may : s.canIssue = true) (fetched : s.fetch = (u, i)) (free : u.stalls i = false) : issue s = exec i u := by
  rw [issue, if_pos may, fetched]
  exact if_neg (Bool.eq_false_iff.1 free)

end

/-- Settles O58: the parcels that decode are those that the step fetches (log entry 2 gives the order of turns, log entry 85 the check at the
entry point of a role), and then the step runs what they decode to, or an interlock holds it. -/
theorem stepRunsDecoded : Obligations.StepRunsDecoded := by
  unfold Obligations.StepRunsDecoded
  refine ⟨fun s u bs i n empty powered may fetched decoded _ able => ?_, fun s i rest head powered event => step_event head powered event,
    fun s u bs i n rest head powered here may fetched decoded _ able fits free => ?_, fun s off empty => step_unpowered off empty⟩
  · have looked := s.fetchParcels_looked (n / 2) s.me.pc.toNat
    have stands := State.fetchHere_decoded fetched decoded able
    rw [fetched] at looked
    refine ⟨looked.eq, looked.dev, fun fits free => ?_, fun fits held => ?_, fun entry header even fault reach free => ?_⟩
    · exact (step_idle empty powered).trans (idle_runs may (State.fetch_fits stands fits) free)
    · exact (step_idle empty powered).trans (idle_held may (State.fetch_fits stands fits) held)
    · have refused := State.fetch_refused stands entry (mayEnter_eq_false header able fault) even reach
      exact (step_idle empty powered).trans (idle_runs may refused free)
  · have stands := State.fetchHere_decoded (s := { s with turns := rest }) fetched decoded able
    exact (step_issue head powered here).trans (issue_runs may (State.fetch_fits stands fits) free)

end Sys2Proof.Machine
end

section
/-!
SUPPORT. Integer arithmetic and logic (R228, R233).
-/
namespace Sys2Proof.Machine

/-! ## Integer logic (R228, R233) -/

/-- The four minima and maxima compare numbers, signed or unsigned (R228). -/
theorem wimin_eq (a b : Word) : wimin a b = if a.toInt ≤ b.toInt then a else b := by
  simp only [wimin, BitVec.sle_iff_toInt_le]

theorem wimax_eq (a b : Word) : wimax a b = if a.toInt ≤ b.toInt then b else a := by
  simp only [wimax, BitVec.sle_iff_toInt_le]

theorem wumin_eq (a b : Word) : wumin a b = if a.toNat ≤ b.toNat then a else b := by
  simp only [wumin, BitVec.ule_iff_toNat_le]

theorem wumax_eq (a b : Word) : wumax a b = if a.toNat ≤ b.toNat then b else a := by
  simp only [wumax, BitVec.ule_iff_toNat_le]

/-- Bit 31 is the sign. -/
theorem wabs_eq (b : Word) : wabs b = if b.toInt < 0 then 0#32 - b else b := by
  have sign : b.getLsbD 31 = true ↔ b.toInt < 0 := by
    rw [← decide_eq_true_iff (p := b.toInt < 0), ← BitVec.msb_eq_toInt, BitVec.msb_eq_getLsbD_last]
  simp only [wabs, sign, BitVec.zero_sub]

/-- Bits set one after another in a word. -/
theorem getLsbD_foldl_or_bit (p : Nat → Bool) (k : Nat) (hk : k < 32) : ∀ (ls : List Nat) (x : Word),
    (ls.foldl (fun x i => if p i then x ||| (1#32 <<< i) else x) x).getLsbD k = (x.getLsbD k || (decide (k ∈ ls) && p k)) := by
  intro ls
  induction ls with
  | nil => simp
  | cons i ls ih =>
    intro x
    have bit : (1#32 <<< i).getLsbD k = decide (k = i) := by
      rw [← BitVec.twoPow_eq, BitVec.getLsbD_twoPow]
      by_cases same : i = k
      · simp [same, hk]
      · simp [same, Ne.symm same]
    rw [List.foldl_cons, ih]
    by_cases same : k = i
    · subst same
      cases p k <;> simp [bit]
    · cases p i <;> simp [bit, same]

/-- BREV reverses the bits of a word (R228). -/
theorem wbrev_eq (b : Word) : wbrev b = b.reverse := by
  apply BitVec.eq_of_getLsbD_eq
  intro k hk
  rw [wbrev, getLsbD_foldl_or_bit (fun i => b.getLsbD (31 - i)) k hk, BitVec.getLsbD_reverse, BitVec.getMsbD]
  simp [hk]

/-- Settles O1: each instruction is a lane job of the function that its row of Table 9-2 gives. -/
theorem integerArithmetic : Obligations.IntegerArithmetic := by
  unfold Obligations.IntegerArithmetic
  simp only [← hi32_eq]
  exact ⟨lane2_does fun _ _ => rfl, lane2_does fun _ _ => rfl, lane2_does fun _ _ => rfl, lane2_does fun _ _ => rfl,
    lane2_does fun _ _ => rfl, lane2_does fun _ _ => rfl, lane2_does fun _ _ => rfl, lane2_does fun _ _ => rfl,
    lane2_does fun _ _ => rfl, lane2_does fun _ _ => rfl, lane2_does fun _ _ => rfl, lane3_does fun _ _ => rfl⟩

/-- Settles O2: each instruction is a lane job, and the minima, maxima, IABS and BREV compute the value that Table 9-2 names. -/
theorem integerLogic : Obligations.IntegerLogic := by
  unfold Obligations.IntegerLogic
  simp only [← wsar_eq, ← wimin_eq, ← wimax_eq, ← wumin_eq, ← wumax_eq, ← wabs_eq, ← wbrev_eq]
  simp only [BitVec.zero_sub]
  exact ⟨lane2_does fun _ _ => rfl, lane2_does fun _ _ => rfl, lane2_does fun _ _ => rfl, lane2_does fun _ _ => rfl,
    lane2_does fun _ _ => rfl, lane2_does fun _ _ => rfl, lane2_does fun _ _ => rfl, lane2_does fun _ _ => rfl,
    lane2_does fun _ _ => rfl, lane2_does fun _ _ => rfl, lane2_does fun _ _ => rfl, lane2_does fun _ _ => rfl,
    lane1_does fun _ _ => rfl, lane1_does fun _ _ => rfl, lane1_does fun _ _ => rfl, lane1_does fun _ _ => rfl,
    lane1_does fun _ _ => rfl, lane1_does fun _ _ => rfl⟩

end Sys2Proof.Machine
end

section
/-!
SUPPORT. Bitfields and the permutation of bytes (R229).
-/
namespace Sys2Proof.Machine

/-! ## Numbers and their bits -/

/-- A number read as two's complement of `w` bits is its low `w` bits, sign-extended. -/
theorem ofInt_toSigned (v w x : Nat) : BitVec.ofInt v (toSigned w x) = (BitVec.ofNat w x).signExtend v := by
  rw [BitVec.signExtend]
  congr 1
  rw [BitVec.toInt_eq_toNat_cond, BitVec.toNat_ofNat, toSigned]
  cases w with
  | zero => simp [Nat.mod_one]
  | succ w =>
    have half : x % 2 ^ (w + 1) < 2 ^ w ↔ 2 * (x % 2 ^ (w + 1)) < 2 ^ (w + 1) := by
      rw [Nat.pow_succ]
      omega
    simp only [Nat.add_sub_cancel, half]

/-! ## The field of b (R229) -/

/-- The field ends where its length or the word does. -/
theorem bfLen_eq (b : Word) : bfLen b = min (min (b.toNat / 256 % 64) 32) (32 - b.toNat % 32) := by
  have len : bits b.toNat 13 8 = b.toNat / 256 % 64 := rfl
  rw [bfLen, bfPos, len]
  omega

/-- BFX keeps the bits below its field's end. -/
theorem getLsbD_wbfx (a b : Word) (k : Nat) (hk : k < 32) :
    (wbfx a b).getLsbD k = (decide (k < bfLen b) && a.getLsbD (bfPos b + k)) := by
  rw [wbfx, BitVec.getLsbD_ofNat, Nat.testBit_mod_two_pow, Nat.testBit_div_two_pow, BitVec.testBit_toNat]
  simp [hk, Nat.add_comm]

/-- BFXS repeats its field's last bit. -/
theorem getLsbD_wbfxs (a b : Word) (k : Nat) (hk : k < 32) : (wbfxs a b).getLsbD k =
    if bfLen b = 0 then false else a.getLsbD (bfPos b + min k (bfLen b - 1)) := by
  unfold wbfxs
  split
  next none => simp
  next some =>
    rw [ofInt_toSigned, BitVec.getLsbD_signExtend, BitVec.msb_eq_getLsbD_last]
    simp only [BitVec.getLsbD_ofNat, Nat.testBit_div_two_pow, BitVec.testBit_toNat, hk, decide_true, Bool.true_and]
    split
    next inside => rw [Nat.min_eq_left (by omega)]; simp [inside, Nat.add_comm]
    next outside => rw [Nat.min_eq_right (by omega)]; simp [Nat.add_comm, show bfLen b - 1 < bfLen b by omega]

/-- BFI replaces the field and keeps the other bits. -/
theorem getLsbD_wbfi (d a b : Word) (k : Nat) (hk : k < 32) : (wbfi d a b).getLsbD k =
    if bfPos b ≤ k ∧ k < bfPos b + bfLen b then a.getLsbD (k - bfPos b) else d.getLsbD k := by
  have mask : (BitVec.ofNat 32 ((2 ^ bfLen b - 1) * 2 ^ bfPos b)).getLsbD k = decide (bfPos b ≤ k ∧ k < bfPos b + bfLen b) := by
    rw [BitVec.getLsbD_ofNat, Nat.testBit_mul_two_pow, Nat.testBit_two_pow_sub_one]
    simp only [hk, decide_true, Bool.true_and, ← Bool.decide_and]
    exact decide_eq_decide.2 (by omega)
  simp only [wbfi, BitVec.getLsbD_or, BitVec.getLsbD_and, BitVec.getLsbD_not, BitVec.getLsbD_shiftLeft, mask, hk, decide_true, Bool.true_and]
  by_cases inside : bfPos b ≤ k ∧ k < bfPos b + bfLen b
  · simp [inside, Nat.not_lt.2 inside.1]
  · simp [inside]

/-! ## PRMT (R229) -/

/-- PRMT makes bytes. -/
theorem prmtByte_lt (sel x k : Nat) : prmtByte sel x k < 256 := by
  unfold prmtByte
  dsimp only
  split
  · omega
  · split <;> omega

/-- Bit 3 of a nibble of the selector asks for the sign of the byte that the others name. -/
theorem testBit_prmtByte (sel x k : Nat) {j : Nat} (hj : j < 8) : (prmtByte sel x k).testBit j =
    if sel.testBit (4 * k + 3) then x.testBit (8 * (sel / 2 ^ (4 * k) % 8) + 7) else x.testBit (8 * (sel / 2 ^ (4 * k) % 8) + j) := by
  have sign : sel.testBit (4 * k + 3) = decide (¬ sel / 2 ^ (4 * k) % 16 < 8) := by
    rw [Nat.add_comm, ← Nat.testBit_div_two_pow, Nat.testBit_eq_decide_div_mod_eq]
    exact decide_eq_decide.2 (by omega)
  have low : sel / 2 ^ (4 * k) % 16 % 8 = sel / 2 ^ (4 * k) % 8 := by omega
  have top (y : Nat) : 128 ≤ y % 256 ↔ y.testBit 7 = true := by
    rw [Nat.testBit_eq_decide_div_mod_eq, decide_eq_true_iff]
    omega
  unfold prmtByte
  dsimp only
  simp only [sign, low, top, Nat.testBit_div_two_pow]
  by_cases plain : sel / 2 ^ (4 * k) % 16 < 8
  · simp only [plain, if_true, not_true, decide_false, Bool.false_eq_true, if_false]
    rw [show 256 = 2 ^ 8 from rfl, Nat.testBit_mod_two_pow, Nat.testBit_div_two_pow]
    simp [hj, Nat.add_comm]
  · simp only [plain, if_false, not_false_eq_true, decide_true, if_true]
    rw [Nat.add_comm 7]
    cases x.testBit (8 * (sel / 2 ^ (4 * k) % 8) + 7) with
    | false => simp
    | true =>
      rw [if_pos rfl, show 255 = 2 ^ 8 - 1 from rfl, Nat.testBit_two_pow_sub_one]
      simp [hj]

/-- Bit `k` of four bytes is one of byte `k / 8`. -/
theorem testBit_bytes (y : Nat → Nat) (small : ∀ i, y i < 2 ^ 8) {k : Nat} (hk : k < 32) :
    (y 0 + 256 * y 1 + 65536 * y 2 + 16777216 * y 3).testBit k = (y (k / 8)).testBit (k % 8) := by
  have nested : y 0 + 256 * y 1 + 65536 * y 2 + 16777216 * y 3 = 2 ^ 8 * (2 ^ 8 * (2 ^ 8 * y 3 + y 2) + y 1) + y 0 := by omega
  rw [nested, Nat.testBit_two_pow_mul_add _ (small 0), Nat.testBit_two_pow_mul_add _ (small 1), Nat.testBit_two_pow_mul_add _ (small 2)]
  have byte : k / 8 = 0 ∨ k / 8 = 1 ∨ k / 8 = 2 ∨ k / 8 = 3 := by omega
  rcases byte with h | h | h | h
  · rw [h, if_pos (by omega), show k % 8 = k by omega]
  · rw [h, if_neg (by omega), if_pos (by omega), show k % 8 = k - 8 by omega]
  · rw [h, if_neg (by omega), if_neg (by omega), if_pos (by omega), show k % 8 = k - 8 - 8 by omega]
  · rw [h, if_neg (by omega), if_neg (by omega), if_neg (by omega), show k % 8 = k - 8 - 8 - 8 by omega]

/-- A pair of words as a number, the second word above the first. -/
theorem toNat_pair (a b : Word) : (b ++ a).toNat = b.toNat * 2 ^ 32 + a.toNat := by
  rw [BitVec.toNat_append, ← Nat.shiftLeft_add_eq_or_of_lt a.isLt, Nat.shiftLeft_eq]

/-- Bit `k` of what PRMT gives (R229): one of the byte that nibble `k / 8` of the selector names, or that byte's sign. -/
theorem getLsbD_wprmt (d a b : Word) (k : Nat) (hk : k < 32) : (wprmt d a b).getLsbD k =
    if d.getLsbD (4 * (k / 8) + 3) then (b ++ a).getLsbD (8 * (d.toNat / 2 ^ (4 * (k / 8)) % 8) + 7)
    else (b ++ a).getLsbD (8 * (d.toNat / 2 ^ (4 * (k / 8)) % 8) + k % 8) := by
  have bytes := testBit_bytes (prmtByte d.toNat (b.toNat * 2 ^ 32 + a.toNat)) (prmtByte_lt _ _) hk
  rw [testBit_prmtByte _ _ _ (Nat.mod_lt _ (by decide)), ← toNat_pair] at bytes
  simp only [BitVec.testBit_toNat] at bytes
  rw [← bytes, wprmt, BitVec.getLsbD_ofNat, ← toNat_pair]
  simp [hk]

/-- Settles O3, bit by bit: the extracts and the insert by the field of b, PRMT by its four bytes. -/
theorem bitfields : Obligations.Bitfields := by
  unfold Obligations.Bitfields
  refine ⟨⟨_, lane2_does fun _ _ => rfl, fun a b k hk => ?bfx⟩, ⟨_, lane2_does fun _ _ => rfl, fun a b k hk => ?bfxs⟩,
    ⟨_, lane3_does fun _ _ => rfl, fun d a b k hk => ?bfi⟩, ⟨_, lane3_does fun _ _ => rfl, getLsbD_wprmt⟩⟩
  case bfx =>
    refine (getLsbD_wbfx a b k hk).trans (congrArg (· && _) (decide_eq_decide.2 ?_))
    rw [bfLen_eq]
    omega
  case bfxs =>
    refine (getLsbD_wbfxs a b k hk).trans ?_
    have empty : bfLen b = 0 ↔ b.toNat / 256 % 64 = 0 := by rw [bfLen_eq]; omega
    simp only [empty]
    split
    · rfl
    next filled =>
      congr 1
      rw [bfPos, bfLen_eq]
      omega
  case bfi =>
    refine (getLsbD_wbfi d a b k hk).trans (if_congr ?_ rfl rfl)
    rw [bfLen_eq, bfPos]
    omega

end Sys2Proof.Machine
end

section
/-!
SUPPORT. The order of values as numbers, the compares, and the selection of lanes (R230, R231, Table 9-3).
-/
namespace Sys2Proof.Machine

/-! ## Values as numbers -/

theorem Val.isNan_iff {v : Val} : v.isNan = true ↔ v = .nan := by
  cases v <;> simp [Val.isNan]

/-- A signed magnitude at its exponent as a rational number. -/
def finNum (neg : Bool) (m : Nat) (e : Int) : ℚ := (if neg then -(m : ℚ) else m) * 2 ^ e

/-- Where a value that is no NaN lies among the rational numbers and the two infinities. -/
def Val.place : Val → WithBot (WithTop ℚ)
  | .nan => ⊥
  | .inf neg => if neg then ⊥ else ⊤
  | .fin neg m e => ((finNum neg m e : WithTop ℚ) : WithBot (WithTop ℚ))

/-- Aligning a magnitude to a lower exponent keeps its value. -/
theorem alignTo_mul {e0 e : Int} (low : e0 ≤ e) (neg : Bool) (m : Nat) : (alignTo e0 neg m e : ℚ) * 2 ^ e0 = finNum neg m e := by
  have power : (2 : ℚ) ^ (e - e0).toNat * 2 ^ e0 = 2 ^ e := by
    rw [← zpow_natCast, Int.toNat_of_nonneg (by omega), ← zpow_add₀ (by norm_num), sub_add_cancel]
  rw [finNum, ← power, alignTo]
  cases neg <;> simp [mul_assoc]

/-- The order of values is that of the numbers they stand for. -/
theorem Val.lt_iff {x y : Val} (hx : x ≠ .nan) (hy : y ≠ .nan) : x.lt y = true ↔ x.place < y.place := by
  match x, y, hx, hy with
  | .inf a, .inf b, _, _ => cases a <;> cases b <;> simp [Val.lt, Val.place]
  | .inf a, .fin s m e, _, _ => cases a <;> simp [Val.lt, Val.place]
  | .fin s m e, .inf b, _, _ => cases b <;> simp [Val.lt, Val.place, ← WithBot.coe_top]
  | .fin s m e, .fin s' m' e', _, _ =>
    have positive : (0 : ℚ) < 2 ^ (min e e') := by positivity
    simp only [Val.lt, Val.place, decide_eq_true_eq, WithBot.coe_lt_coe, WithTop.coe_lt_coe]
    rw [← alignTo_mul (min_le_left e e'), ← alignTo_mul (min_le_right e e'), mul_lt_mul_iff_left₀ positive, Int.cast_lt]

/-- No number lies below itself. -/
theorem not_below_self {a : Word} (number : ¬ IsNan a) : ¬ Below a a :=
  fun less => lt_irrefl _ ((Val.lt_iff number number).1 less)

/-- Of two numbers one of which orders below the other, with −0 below +0, the other is not less. -/
theorem Val.not_lt_of_below {x y : Val} (hx : x ≠ .nan) (hy : y ≠ .nan) (below : x.below y = true) : ¬ y.lt x = true := by
  rw [Val.below, Bool.or_eq_true] at below
  rcases below with less | equal
  · rw [Val.lt_iff hy hx]
    exact lt_asymm ((Val.lt_iff hx hy).1 less)
  · simp only [Val.numEq, Bool.and_eq_true, Bool.not_eq_true'] at equal
    exact Bool.eq_false_iff.1 equal.1.1.2

/-- A value that does not order below another is not less than it. -/
theorem Val.not_lt_of_not_below {x y : Val} (other : ¬ x.below y = true) : ¬ x.lt y = true :=
  fun less => other (by rw [Val.below, less, Bool.true_or])

/-! ## Compares (R230, Table 9-3) -/

/-- The integer conditions 0 to 7 of Table 9-3, as relations of the numbers of two words. -/
theorem icmp_eq (a b : Word) : icmp 0 a b = true ↔ a = b := beq_iff_eq
theorem icmp_ne (a b : Word) : icmp 1 a b = true ↔ a ≠ b := bne_iff_ne
theorem icmp_lt (a b : Word) : icmp 2 a b = true ↔ a.toInt < b.toInt := BitVec.slt_iff_toInt_lt
theorem icmp_le (a b : Word) : icmp 3 a b = true ↔ a.toInt ≤ b.toInt := BitVec.sle_iff_toInt_le
theorem icmp_gt (a b : Word) : icmp 4 a b = true ↔ b.toInt < a.toInt := BitVec.slt_iff_toInt_lt
theorem icmp_ge (a b : Word) : icmp 5 a b = true ↔ b.toInt ≤ a.toInt := BitVec.sle_iff_toInt_le
theorem icmp_ltu (a b : Word) : icmp 6 a b = true ↔ a.toNat < b.toNat := BitVec.ult_iff_toNat_lt
theorem icmp_geu (a b : Word) : icmp 7 a b = true ↔ b.toNat ≤ a.toNat := BitVec.ule_iff_toNat_le

/-- The floating-point conditions 0 to 7 of Table 9-3: all but NE and UNORD fail for a NaN. -/
theorem fcmp_eq (a b : Word) : fcmp 0 a.toNat b.toNat = true ↔ ¬ IsNan a ∧ ¬ IsNan b ∧ ¬ Below a b ∧ ¬ Below b a := by
  simp [fcmp, Val.numEq, ← Val.isNan_iff, and_assoc]

theorem fcmp_ne (a b : Word) : fcmp 1 a.toNat b.toNat = true ↔ IsNan a ∨ IsNan b ∨ Below a b ∨ Below b a := by
  simp [fcmp, Val.numEq, ← Val.isNan_iff]
  tauto

theorem fcmp_lt (a b : Word) : fcmp 2 a.toNat b.toNat = true ↔ ¬ IsNan a ∧ ¬ IsNan b ∧ Below a b := by
  simp [fcmp, ← Val.isNan_iff, and_assoc]

theorem fcmp_le (a b : Word) : fcmp 3 a.toNat b.toNat = true ↔ ¬ IsNan a ∧ ¬ IsNan b ∧ ¬ Below b a := by
  simp [fcmp, ← Val.isNan_iff, and_assoc]

theorem fcmp_gt (a b : Word) : fcmp 4 a.toNat b.toNat = true ↔ ¬ IsNan a ∧ ¬ IsNan b ∧ Below b a := by
  simp [fcmp, ← Val.isNan_iff, and_assoc]

theorem fcmp_ge (a b : Word) : fcmp 5 a.toNat b.toNat = true ↔ ¬ IsNan a ∧ ¬ IsNan b ∧ ¬ Below a b := by
  simp [fcmp, ← Val.isNan_iff, and_assoc]

theorem fcmp_ord (a b : Word) : fcmp 6 a.toNat b.toNat = true ↔ ¬ IsNan a ∧ ¬ IsNan b := by
  simp [fcmp, ← Val.isNan_iff]

theorem fcmp_unord (a b : Word) : fcmp 7 a.toNat b.toNat = true ↔ IsNan a ∨ IsNan b := by
  simp [fcmp, ← Val.isNan_iff]

/-- Settles O5: a compare writes the predicate bits of its lanes, and each condition says what Table 9-3 says of the numbers. -/
theorem compares : Obligations.Compares := by
  unfold Obligations.Compares
  exact ⟨cmpOp_does (fun _ _ => rfl) icmp_eq, cmpOp_does (fun _ _ => rfl) icmp_ne, cmpOp_does (fun _ _ => rfl) icmp_lt,
    cmpOp_does (fun _ _ => rfl) icmp_le, cmpOp_does (fun _ _ => rfl) icmp_gt, cmpOp_does (fun _ _ => rfl) icmp_ge,
    cmpOp_does (fun _ _ => rfl) icmp_ltu, cmpOp_does (fun _ _ => rfl) icmp_geu, cmpOp_does (fun _ _ => rfl) fcmp_eq,
    cmpOp_does (fun _ _ => rfl) fcmp_ne, cmpOp_does (fun _ _ => rfl) fcmp_lt, cmpOp_does (fun _ _ => rfl) fcmp_le,
    cmpOp_does (fun _ _ => rfl) fcmp_gt, cmpOp_does (fun _ _ => rfl) fcmp_ge, cmpOp_does (fun _ _ => rfl) fcmp_ord,
    cmpOp_does (fun _ _ => rfl) fcmp_unord⟩

/-- Settles O6: SEL is a lane job whose result is the operand that the predicate bit of its lane selects. -/
theorem select : Obligations.Select := by
  unfold Obligations.Select
  exact fun k o s ready => ⟨_, rfl, laneOp_done _ s ready⟩

end Sys2Proof.Machine
end

section
/-!
SUPPORT. FP32 minima, maxima and sums (R232, Table 9-4).
-/
namespace Sys2Proof.Machine

/-! ## Minima and maxima (R232) -/

/-- A minimum or maximum of two encodings: of two numbers the second is taken where `takes` says so. -/
def chosen (takes : Val → Val → Bool) (f : Fmt) (x a : Nat) : Nat :=
  if (value x f).isNan then (if (value a f).isNan then f.nanOut else a)
  else if (value a f).isNan then x
  else if takes (value x f) (value a f) then a else x

theorem fmin_eq_chosen : fmin = chosen (fun x a => a.below x) := rfl
theorem fmax_eq_chosen : fmax = chosen Val.below := rfl

section
variable {takes : Val → Val → Bool} {a b : Word}

/-- Two NaNs give the canonical one, and a NaN and a number give the number, bit for bit (R232). -/
theorem chosen_nans (ha : IsNan a) (hb : IsNan b) : f2 (chosen takes) a b = qnan := by
  rw [f2, chosen, if_pos (Val.isNan_iff.2 ha), if_pos (Val.isNan_iff.2 hb)]
  rfl

theorem chosen_second (ha : IsNan a) (hb : ¬ IsNan b) : f2 (chosen takes) a b = b := by
  rw [f2, chosen, if_pos (Val.isNan_iff.2 ha), if_neg (mt Val.isNan_iff.1 hb), BitVec.ofNat_toNat, BitVec.setWidth_eq]

theorem chosen_first (ha : ¬ IsNan a) (hb : IsNan b) : f2 (chosen takes) a b = a := by
  rw [f2, chosen, if_neg (mt Val.isNan_iff.1 ha), if_pos (Val.isNan_iff.2 hb), BitVec.ofNat_toNat, BitVec.setWidth_eq]

theorem chosen_numbers (ha : ¬ IsNan a) (hb : ¬ IsNan b) : f2 (chosen takes) a b = if takes (V32 a) (V32 b) then b else a := by
  rw [f2, chosen, if_neg (mt Val.isNan_iff.1 ha), if_neg (mt Val.isNan_iff.1 hb), apply_ite (BitVec.ofNat 32), BitVec.ofNat_toNat,
    BitVec.ofNat_toNat, BitVec.setWidth_eq, BitVec.setWidth_eq]
  rfl

/-- A choice that takes the second number only where the first does not lie beyond it, and the first only where the second does not. -/
theorem picksInput_chosen {out : Word → Word → Prop} {zero : Word} (self : ∀ a, ¬ IsNan a → ¬ out a a)
    (second : ∀ a b, ¬ IsNan a → ¬ IsNan b → takes (V32 a) (V32 b) = true → ¬ out a b)
    (first : ∀ a b, takes (V32 a) (V32 b) ≠ true → ¬ out b a)
    (zeros : f2 (chosen takes) 0#32 0x80000000#32 = zero ∧ f2 (chosen takes) 0x80000000#32 0#32 = zero) :
    PicksInput (f2 (chosen takes)) out zero := by
  refine ⟨fun a b => chosen_nans, fun a b => chosen_second, fun a b => chosen_first, fun a b ha hb => ?_, zeros⟩
  rw [chosen_numbers ha hb]
  split
  next taken => exact ⟨.inr rfl, second a b ha hb taken, self b hb⟩
  next kept => exact ⟨.inl rfl, self a ha, first a b kept⟩

end

/-- FMIN chooses the smaller number, −0 below +0 (R232). -/
theorem picksInput_fmin : PicksInput (f2 fmin) (fun x y => Below x y) 0x80000000#32 := by
  rw [fmin_eq_chosen]
  exact picksInput_chosen (out := fun x y => Below x y) (fun _ => not_below_self) (fun _ _ ha hb => Val.not_lt_of_below hb ha)
    (fun _ _ => Val.not_lt_of_not_below) (by decide)

/-- FMAX chooses the greater number, +0 above −0 (R232). -/
theorem picksInput_fmax : PicksInput (f2 fmax) (fun x y => Below y x) 0#32 := by
  rw [fmax_eq_chosen]
  exact picksInput_chosen (out := fun x y => Below y x) (fun _ => not_below_self) (fun _ _ ha hb => Val.not_lt_of_below ha hb)
    (fun _ _ => Val.not_lt_of_not_below) (by decide)

/-! ## Sums (R232) -/

/-- Rounding +0 gives +0. -/
theorem roundRN_zero (e : Int) : roundRN .fp32 (.fin false 0 e) = 0 := by
  have none : roundMag .rn false 0 (e - quantumExp .fp32 0 e) (srWidth 0 .fp32 0 e) 0 = 0 := by
    simp [roundMag]
  simp only [roundRN, round, roundFin, none]
  rfl

/-- A finite value less itself is +0. -/
theorem Val.add_neg_self {v : Val} (number : v ≠ .nan) (finite : v.isInf = false) : ∃ e, v.add v.neg = .fin false 0 e := by
  cases v with
  | nan => exact absurd rfl number
  | inf s => cases finite
  | fin s m e => exact ⟨min e e, by cases s <;> simp [Val.add, Val.neg, alignTo]⟩

/-- Settles O7: the arithmetic rounds the exact result of its row once, FMIN and FMAX choose one of their inputs, and a finite value less
itself is +0. -/
theorem float32 : Obligations.Float32 := by
  unfold Obligations.Float32
  refine ⟨lane2_does fun _ _ => rfl, lane2_does fun _ _ => rfl, lane2_does fun _ _ => rfl, lane3_does fun _ _ => rfl, lane3_does fun _ _ => rfl,
    lane3_does fun _ _ => rfl, ⟨_, lane2_does fun _ _ => rfl, picksInput_fmin⟩, ⟨_, lane2_does fun _ _ => rfl, picksInput_fmax⟩,
    fun a number finite => ?_, by decide, by decide, by decide⟩
  obtain ⟨e, zero⟩ := Val.add_neg_self (v := V32 a) number finite
  rw [zero, R32, roundRN_zero]

end Sys2Proof.Machine
end

section
/-!
SUPPORT. Roundings of a magnitude, and the roundings to an integral value (R163, R233, Table 9-5).
-/
namespace Sys2Proof.Machine

/-! ## Rounding a magnitude (R163) -/

/-- Whether a magnitude of `q` quanta and `r` parts in `d` of one more is rounded up. -/
def RMode.up (mode : RMode) (neg : Bool) (q r d : Nat) : Bool :=
  match mode with
  | .rn => decide (d < 2 * r ∨ 2 * r = d ∧ q % 2 = 1)
  | .ru => !neg && decide (r ≠ 0)
  | .rd => neg && decide (r ≠ 0)
  | _ => false

/-- Below one quantum a magnitude is cut, and one is added where the mode rounds up. -/
theorem roundMag_down {mode : RMode} (fixed : mode ≠ .sr) (neg : Bool) (m k d : Nat) (t : Word) :
    roundMag mode neg m (-(k : Int)) d t = m / 2 ^ k + (mode.up neg (m / 2 ^ k) (m % 2 ^ k) (2 ^ k)).toNat := by
  cases k with
  | zero =>
    rw [roundMag, if_pos (by simp)]
    cases mode <;> simp [RMode.up, Nat.mod_one]
  | succ k =>
    have shift : (- -((k + 1 : Nat) : Int)).toNat = k + 1 := by omega
    rw [roundMag, if_neg (by omega), shift]
    cases mode with
    | sr => exact absurd rfl fixed
    | rz => rfl
    | rn =>
      simp only [RMode.up]
      split
      next up => simp [up]
      next down => simp [down]
    | ru => cases neg <;> by_cases whole : m % 2 ^ (k + 1) = 0 <;> simp [RMode.up, whole]
    | rd => cases neg <;> by_cases whole : m % 2 ^ (k + 1) = 0 <;> simp [RMode.up, whole]

/-- Counting a magnitude in quanta does not depend on how it is written. -/
theorem roundMag_scale (neg : Bool) (m k : Nat) (j : Int) (d d' : Nat) (t : Word) :
    roundMag .rn neg (m * 2 ^ k) j d t = roundMag .rn neg m (j + k) d' t := by
  have positive (n : Nat) : 0 < 2 ^ n := Nat.two_pow_pos n
  rcases Int.lt_or_le j 0 with low | whole
  · obtain ⟨a, rfl⟩ : ∃ a : Nat, j = -(a : Int) := ⟨j.natAbs, by omega⟩
    rw [roundMag_down (by decide)]
    rcases Nat.lt_or_ge k a with less | most
    · obtain ⟨c, rfl⟩ := Nat.exists_eq_add_of_lt less
      have shift : -((k + c + 1 : Nat) : Int) + k = -((c + 1 : Nat) : Int) := by omega
      have split : 2 ^ (k + c + 1) = 2 ^ (c + 1) * 2 ^ k := by rw [← pow_add]; congr 1; omega
      rw [shift, roundMag_down (by decide), split, Nat.mul_div_mul_right _ _ (positive k), Nat.mul_mod_mul_right]
      have same : RMode.up .rn neg (m / 2 ^ (c + 1)) (m % 2 ^ (c + 1) * 2 ^ k) (2 ^ (c + 1) * 2 ^ k) =
          RMode.up .rn neg (m / 2 ^ (c + 1)) (m % 2 ^ (c + 1)) (2 ^ (c + 1)) := by
        simp only [RMode.up, ← Nat.mul_assoc, Nat.mul_lt_mul_right (positive k), Nat.mul_left_inj (positive k).ne']
      rw [same]
    · obtain ⟨c, rfl⟩ := Nat.exists_eq_add_of_le most
      have shift : -(a : Int) + (a + c : Nat) = c := by omega
      have split : m * 2 ^ (a + c) = m * 2 ^ c * 2 ^ a := by rw [pow_add]; ring
      rw [shift, roundMag, if_pos (by omega), Int.toNat_natCast, split, Nat.mul_div_cancel _ (positive a), Nat.mul_mod_left]
      simp [RMode.up, (positive a).ne]
  · rw [roundMag, roundMag, if_pos whole, if_pos (by omega), Int.toNat_add whole (by omega), Int.toNat_natCast, pow_add]
    ring

/-- Nor does the quantum that a magnitude is rounded to. -/
theorem quantumExp_scale (g : Fmt) (m k : Nat) (e : Int) : quantumExp g (m * 2 ^ k) e = quantumExp g m (e + k) := by
  have zero : m * 2 ^ k = 0 ↔ m = 0 := by simp
  by_cases filled : m = 0
  · simp [quantumExp, filled]
  · have log : Nat.log2 (m * 2 ^ k) = Nat.log2 m + k := by
      rw [Nat.log2_eq_iff (by simpa using filled), pow_add, Nat.add_right_comm, pow_add _ (Nat.log2 m + 1)]
      exact ⟨Nat.mul_le_mul_right _ (Nat.log2_self_le filled), Nat.mul_lt_mul_of_pos_right Nat.lt_log2_self (Nat.two_pow_pos k)⟩
    have mag : log2Mag (m * 2 ^ k) e = log2Mag m (e + k) := by
      rw [log2Mag, log2Mag, log]
      omega
    simp only [quantumExp, zero, mag]

/-- Rounding to nearest does not depend on how a value is written. -/
theorem roundRN_scale (g : Fmt) (s : Bool) (m k : Nat) (e : Int) :
    roundRN g (.fin s (m * 2 ^ k) e) = roundRN g (.fin s m (e + k)) := by
  have shift : e - quantumExp g m (e + k) + k = e + k - quantumExp g m (e + k) := by omega
  simp only [roundRN, round, roundFin, quantumExp_scale, roundMag_scale (d' := srWidth 0 g m (e + k)), shift]

/-! ## Roundings to an integral value (R233, Table 9-5) -/

/-- A signed magnitude. -/
def signedInt (s : Bool) (n : Nat) : Int := if s then -(n : Int) else n

/-- A rounding to an integral value whose cut or raised magnitude `P` allows. -/
theorem fintegral_rounds {mode : RMode} {P : Int → Int → Int → Prop} (fixed : mode ≠ .sr)
    (allows : ∀ (s : Bool) (m d : Nat), 0 < d → P (signedInt s m) d (signedInt s (m / d + (mode.up s (m / d) (m % d) d).toNat))) :
    RoundsIntegral (f1 (fintegral mode)) P := by
  refine ⟨fun b nan => ?_, fun b inf => ?_, fun b s e zero => ?_, fun b s m k whole => ?_, fun b s m k filled part => ?_⟩
  · simp only [f1, fintegral, nan]
    rfl
  · rw [V32] at inf
    cases v : value b.toNat .fp32 with
    | nan => rw [v] at inf; cases inf
    | fin => rw [v] at inf; cases inf
    | inf => simp only [f1, fintegral, v, BitVec.ofNat_toNat, BitVec.setWidth_eq]
  · rw [V32] at zero
    simp only [f1, fintegral, zero, if_true, BitVec.ofNat_toNat, BitVec.setWidth_eq]
  · rw [V32] at whole
    have number : value b.toNat .fp32 ≠ .nan := by rw [whole]; exact Val.noConfusion
    have back := roundRN_value (g := .fp32) rfl b.isLt number
    have count : roundMag mode s m (Int.ofNat k) 0 0 = m * 2 ^ k := if_pos (Int.natCast_nonneg k)
    have scaled := roundRN_scale .fp32 s m k 0
    rw [Int.zero_add] at scaled
    rw [whole] at back
    simp only [f1, fintegral, whole, count]
    split
    · simp
    · rw [scaled]
      exact (congrArg (BitVec.ofNat 32) back).trans (by simp)
  · rw [V32] at part
    refine ⟨_, ?_, allows s m (2 ^ k) (Nat.two_pow_pos k)⟩
    simp only [f1, fintegral, part, filled, if_false, R32]
    exact congrArg (fun n => R32 (.fin s n 0)) (roundMag_down fixed s m k 0 0)

/-- What is left of a signed magnitude once its quotient is cut or rounded up. -/
theorem signedInt_gap (s : Bool) (m d : Nat) (up : Bool) :
    signedInt s m - d * signedInt s (m / d + up.toNat) = signedInt s (m % d) - if up then signedInt s d else 0 := by
  have parts : (m : Int) = d * (m / d : Nat) + (m % d : Nat) := by exact_mod_cast (Nat.div_add_mod m d).symm
  generalize m / d = q, m % d = r at parts ⊢
  cases s <;> cases up <;> simp only [signedInt, Bool.toNat_true, Bool.toNat_false, if_true, if_false, Bool.false_eq_true] <;> push_cast <;> linarith

/-- FFLOOR, FCEIL, FTRUNC and FRINT round down, up, towards zero and to nearest with ties to even (R233, Table 9-5). -/
theorem ffloor_rounds : RoundsIntegral (f1 (fintegral .rd)) (fun x q n => q * n ≤ x ∧ x < q * (n + 1)) := by
  refine fintegral_rounds (by decide) fun s m d positive => ?_
  have small := Nat.mod_lt m positive
  have gap := signedInt_gap s m d (RMode.up .rd s (m / d) (m % d) d)
  have range : 0 ≤ signedInt s (m % d) - (if RMode.up .rd s (m / d) (m % d) d then signedInt s d else 0) ∧
      signedInt s (m % d) - (if RMode.up .rd s (m / d) (m % d) d then signedInt s d else 0) < d := by
    cases s <;> by_cases whole : m % d = 0 <;> simp [signedInt, RMode.up, whole] <;> omega
  rw [Int.mul_add]
  omega

theorem fceil_rounds : RoundsIntegral (f1 (fintegral .ru)) (fun x q n => q * (n - 1) < x ∧ x ≤ q * n) := by
  refine fintegral_rounds (by decide) fun s m d positive => ?_
  have small := Nat.mod_lt m positive
  have gap := signedInt_gap s m d (RMode.up .ru s (m / d) (m % d) d)
  have range : -(d : Int) < signedInt s (m % d) - (if RMode.up .ru s (m / d) (m % d) d then signedInt s d else 0) ∧
      signedInt s (m % d) - (if RMode.up .ru s (m / d) (m % d) d then signedInt s d else 0) ≤ 0 := by
    cases s <;> by_cases whole : m % d = 0 <;> simp [signedInt, RMode.up, whole] <;> omega
  rw [Int.mul_sub]
  omega

theorem ftrunc_rounds : RoundsIntegral (f1 (fintegral .rz)) (fun x q n => n = Int.tdiv x q) := by
  refine fintegral_rounds (by decide) fun s m d positive => ?_
  cases s <;> simp [signedInt, RMode.up, Int.neg_tdiv]

theorem frint_rounds : RoundsIntegral (f1 (fintegral .rn))
    (fun x q n => 2 * (x - q * n).natAbs ≤ q ∧ (2 * (x - q * n).natAbs = q → n % 2 = 0)) := by
  refine fintegral_rounds (by decide) fun s m d positive => ?_
  have small := Nat.mod_lt m positive
  rw [signedInt_gap]
  cases up : RMode.up .rn s (m / d) (m % d) d with
  | false =>
    simp only [RMode.up, decide_eq_false_iff_not] at up
    cases s <;> simp only [signedInt, Bool.toNat_false, Bool.false_eq_true, if_false, if_true] <;> omega
  | true =>
    simp only [RMode.up, decide_eq_true_eq] at up
    cases s <;> simp only [signedInt, Bool.toNat_true, Bool.false_eq_true, if_false, if_true] <;> omega

end Sys2Proof.Machine
end

section
/-!
SUPPORT. The unary functions of FP32 and the approximated functions (R233, R234, Tables 9-5 and 9-6).
-/
namespace Sys2Proof.Machine

/-! ## Special values of the unary functions (R233, R234) -/

/-- FABS clears the sign bit, of a number (R233). -/
theorem fabs_word (b : Word) : f1 fabs b = if V32 b = .nan then qnan else b &&& 0x7FFFFFFF#32 := by
  have cleared : BitVec.ofNat 32 (b.toNat % 2 ^ 31) = b &&& 0x7FFFFFFF#32 := by
    apply BitVec.eq_of_toNat_eq
    rw [BitVec.toNat_and, BitVec.toNat_ofNat]
    exact (Nat.mod_eq_of_lt (by omega)).trans (Nat.and_two_pow_sub_one_eq_mod _ 31).symm
  rw [f1, fabs, apply_ite (BitVec.ofNat 32), cleared]
  exact if_congr Val.isNan_iff rfl rfl

/-- FNEG turns the sign bit over, of a number (R233). -/
theorem fneg_word (b : Word) : f1 fneg b = if V32 b = .nan then qnan else b ^^^ 0x80000000#32 := by
  have turned : BitVec.ofNat 32 (if bit b.toNat 31 then b.toNat % 2 ^ 31 else b.toNat % 2 ^ 31 + 2 ^ 31) = b ^^^ 0x80000000#32 := by
    have parts : (if bit b.toNat 31 then b.toNat % 2 ^ 31 else b.toNat % 2 ^ 31 + 2 ^ 31) = 2 ^ 31 * (1 - b.toNat / 2 ^ 31) + b.toNat % 2 ^ 31 := by
      simp only [bit, beq_iff_eq]
      split <;> omega
    have top : (1 - b.toNat / 2 ^ 31).testBit 0 = !b.toNat.testBit 31 := by
      rw [Nat.testBit_zero, Nat.testBit_eq_decide_div_mod_eq, ← decide_not]
      exact decide_eq_decide.2 (by omega)
    apply BitVec.eq_of_getLsbD_eq
    intro i hi
    rw [parts, BitVec.getLsbD_ofNat, Nat.testBit_two_pow_mul_add _ (Nat.mod_lt _ (by decide)), BitVec.getLsbD_xor,
      show 0x80000000#32 = BitVec.twoPow 32 31 from rfl, BitVec.getLsbD_twoPow]
    rcases Nat.lt_or_ge i 31 with low | high
    · rw [if_pos low, Nat.testBit_mod_two_pow, BitVec.testBit_toNat]
      simp [low, hi, low.ne']
    · obtain rfl : i = 31 := by omega
      rw [if_neg (by omega), Nat.sub_self, top, BitVec.testBit_toNat]
      simp
  rw [f1, fneg, apply_ite (BitVec.ofNat 32), turned]
  exact if_congr Val.isNan_iff rfl rfl

theorem Val.isInf_iff {v : Val} : v.isInf = true ↔ ∃ s, v = .inf s := by
  cases v <;> simp [Val.isInf]

/-- What lies below zero is −∞ or a negative number. -/
theorem below_zero {b : Word} (below : Below b 0#32) :
    value b.toNat .fp32 = .inf true ∨ ∃ m e, m ≠ 0 ∧ value b.toNat .fp32 = .fin true m e := by
  have zero : value (0#32).toNat .fp32 = .fin false 0 (-149) := by decide
  rw [Below, zero] at below
  cases v : value b.toNat .fp32 with
  | nan => rw [v] at below; cases below
  | inf s =>
    rw [v] at below
    exact .inl (congrArg Val.inf below)
  | fin s m e =>
    rw [v] at below
    have less : alignTo (min e (-149)) s m e < alignTo (min e (-149)) false 0 (-149) := of_decide_eq_true below
    simp only [alignTo, Nat.zero_mul, Bool.false_eq_true, if_false, Nat.cast_zero] at less
    cases s with
    | false => exact absurd less (Int.not_lt.2 (Int.natCast_nonneg _))
    | true => exact .inr ⟨m, e, fun none => by simp [none] at less, rfl⟩

/-- 128 as a word and as FEXP2 writes it. -/
theorem lt_128 (v : Val) : v.lt (.fin false 1 7) = v.lt (value (0x43000000#32).toNat .fp32) := by
  by_cases number : v = .nan
  · rw [number]; rfl
  · have word : value (0x43000000#32).toNat .fp32 = .fin false (2 ^ 23) (-16) := by decide
    have place : (Val.fin false 1 7).place = (Val.fin false (2 ^ 23) (-16)).place := by
      simp only [Val.place, finNum]
      norm_num
    rw [word, Bool.eq_iff_iff, Val.lt_iff number Val.noConfusion, Val.lt_iff number Val.noConfusion, place]

/-- FEXP2 of 128 or more is +∞ (R234). -/
theorem fexp2_big {b : Word} (number : ¬ IsNan b) (big : ¬ Below b 0x43000000#32) : f1 fexp2 b = 0x7F800000#32 := by
  rw [Below, ← lt_128, Bool.not_eq_true] at big
  cases v : value b.toNat .fp32 with
  | nan => exact absurd v number
  | inf s =>
    rw [v] at big
    cases s with
    | true => cases big
    | false =>
      simp only [f1, fexp2, v]
      rfl
  | fin s m e =>
    rw [v] at big
    simp only [f1, fexp2, v, big]
    rfl

/-! ## The approximated functions (R234, Table 9-6) -/

/-- The special inputs of FRCP. -/
theorem frcp_special : (∀ b, IsNan b → f1 frcp b = qnan) ∧ f1 frcp 0#32 = 0x7F800000#32 ∧ f1 frcp 0x80000000#32 = 0xFF800000#32 ∧
    f1 frcp 0x7F800000#32 = 0#32 ∧ f1 frcp 0xFF800000#32 = 0x80000000#32 := by
  refine ⟨fun b nan => ?_, by decide⟩
  simp only [f1, frcp, nan]
  rfl

/-- The special inputs of FRSQ: every value below zero gives NaN. -/
theorem frsq_special : (∀ b, IsNan b → f1 frsq b = qnan) ∧ f1 frsq 0#32 = 0x7F800000#32 ∧ f1 frsq 0x80000000#32 = 0xFF800000#32 ∧
    (∀ b, Below b 0#32 → f1 frsq b = qnan) ∧ f1 frsq 0x7F800000#32 = 0#32 := by
  refine ⟨fun b nan => ?_, by decide, by decide, fun b below => ?_, by decide⟩
  · simp only [f1, frsq, nan]
    rfl
  · rcases below_zero below with v | ⟨m, e, filled, v⟩ <;> simp only [f1, frsq, v, if_true]
    · rfl
    · rw [if_neg filled]
      rfl

/-- The special inputs of FSQRT: −0 keeps its sign, and every value below zero gives NaN. -/
theorem fsqrt_special : (∀ b, IsNan b → f1 fsqrt b = qnan) ∧ f1 fsqrt 0x80000000#32 = 0x80000000#32 ∧ f1 fsqrt 0#32 = 0#32 ∧
    (∀ b, Below b 0#32 → f1 fsqrt b = qnan) ∧ f1 fsqrt 0x7F800000#32 = 0x7F800000#32 ∧ f1 fsqrt 0x40800000#32 = 0x40000000#32 := by
  refine ⟨fun b nan => ?_, by decide, by decide, fun b below => ?_, by decide, by decide⟩
  · simp only [f1, fsqrt, nan]
    rfl
  · rcases below_zero below with v | ⟨m, e, filled, v⟩ <;> simp only [f1, fsqrt, v, if_true]
    · rfl
    · rw [if_neg filled]
      rfl

/-- The special inputs of FEXP2, and its exact results. -/
theorem fexp2_special : (∀ b, IsNan b → f1 fexp2 b = qnan) ∧ f1 fexp2 0xFF800000#32 = 0#32 ∧ f1 fexp2 0x7F800000#32 = 0x7F800000#32 ∧
    (∀ b, ¬ IsNan b → ¬ Below b 0x43000000#32 → f1 fexp2 b = 0x7F800000#32) ∧ f1 fexp2 0#32 = 0x3F800000#32 ∧
    f1 fexp2 0xC3150000#32 = 1#32 := by
  refine ⟨fun b nan => ?_, by decide, by decide, fun b => fexp2_big, by decide, by decide⟩
  simp only [f1, fexp2, nan]
  rfl

/-- The special inputs of FLOG2, and its exact results. -/
theorem flog2_special : (∀ b, IsNan b → f1 flog2 b = qnan) ∧ f1 flog2 0#32 = 0xFF800000#32 ∧ f1 flog2 0x80000000#32 = 0xFF800000#32 ∧
    (∀ b, Below b 0#32 → f1 flog2 b = qnan) ∧ f1 flog2 0x7F800000#32 = 0x7F800000#32 ∧ f1 flog2 0x3F800000#32 = 0#32 ∧
    f1 flog2 1#32 = 0xC3150000#32 := by
  refine ⟨fun b nan => ?_, by decide, by decide, fun b below => ?_, by decide, by decide, by decide⟩
  · simp only [f1, flog2, nan]
    rfl
  · rcases below_zero below with v | ⟨m, e, filled, v⟩ <;> simp only [f1, flog2, v, if_true]
    · rfl
    · rw [if_neg filled]
      rfl

/-- The special inputs of FSIN: NaN for the infinities, and zeros keep their sign. -/
theorem fsin_special : (∀ b, IsNan b → f1 fsin b = qnan) ∧ f1 fsin 0#32 = 0#32 ∧ f1 fsin 0x80000000#32 = 0x80000000#32 ∧
    (∀ b, (V32 b).isInf = true → f1 fsin b = qnan) := by
  refine ⟨fun b nan => ?_, by decide, by decide, fun b inf => ?_⟩
  · simp only [f1, fsin, nan]
    rfl
  · obtain ⟨s, v⟩ := Val.isInf_iff.1 inf
    rw [V32] at v
    simp only [f1, fsin, v]
    rfl

/-- The special inputs of FCOS: NaN for the infinities, and 1 for the zeros. -/
theorem fcos_special : (∀ b, IsNan b → f1 fcos b = qnan) ∧ f1 fcos 0#32 = 0x3F800000#32 ∧ f1 fcos 0x80000000#32 = 0x3F800000#32 ∧
    (∀ b, (V32 b).isInf = true → f1 fcos b = qnan) := by
  refine ⟨fun b nan => ?_, by decide, by decide, fun b inf => ?_⟩
  · simp only [f1, fcos, nan]
    rfl
  · obtain ⟨s, v⟩ := Val.isInf_iff.1 inf
    rw [V32] at v
    simp only [f1, fcos, v]
    rfl

/-- The special inputs of FTANH: zeros keep their sign, and the infinities give 1 and −1. -/
theorem ftanh_special : (∀ b, IsNan b → f1 ftanh b = qnan) ∧ f1 ftanh 0#32 = 0#32 ∧ f1 ftanh 0x80000000#32 = 0x80000000#32 ∧
    f1 ftanh 0x7F800000#32 = 0x3F800000#32 ∧ f1 ftanh 0xFF800000#32 = 0xBF800000#32 := by
  refine ⟨fun b nan => ?_, by decide⟩
  simp only [f1, ftanh, nan]
  rfl

/-- What an instruction does to one word, said of another function that agrees. -/
theorem lane1_does_of {mk : Lane1 → Instr} {k : Option (Nat × Nat)} {f g : Word → Word}
    (runs : ∀ o s, exec (mk o) s = .next (lane1 k f o s)) (same : ∀ b, f b = g b) : Lane1Does mk g := by
  rw [← funext same]
  exact lane1_does runs

/-- Settles O9: FABS and FNEG bit by bit, the four roundings by what each leaves of a magnitude, and each approximated function at the inputs
of Table 9-6. What those functions give elsewhere is the choice of log entry 3, and no clause rests on it. -/
theorem floatUnaryAndApproximations : Obligations.FloatUnaryAndApproximations := by
  unfold Obligations.FloatUnaryAndApproximations
  refine ⟨⟨lane1_does_of (fun _ _ => rfl) fabs_word, lane1_does_of (fun _ _ => rfl) fneg_word, ⟨_, lane1_does fun _ _ => rfl, ffloor_rounds⟩,
    ⟨_, lane1_does fun _ _ => rfl, fceil_rounds⟩, ⟨_, lane1_does fun _ _ => rfl, ftrunc_rounds⟩,
    ⟨_, lane1_does fun _ _ => rfl, frint_rounds⟩⟩, ⟨_, lane1_does fun _ _ => rfl, frcp_special⟩,
    ⟨_, lane1_does fun _ _ => rfl, frsq_special⟩, ⟨_, lane1_does fun _ _ => rfl, fsqrt_special⟩,
    ⟨_, lane1_does fun _ _ => rfl, fexp2_special⟩, ⟨_, lane1_does fun _ _ => rfl, flog2_special⟩,
    ⟨_, lane1_does fun _ _ => rfl, fsin_special⟩, ⟨_, lane1_does fun _ _ => rfl, fcos_special⟩,
    ⟨_, lane1_does fun _ _ => rfl, ftanh_special⟩⟩

end Sys2Proof.Machine
end

section
/-!
SUPPORT. Packed halves and dot products (R235, R241, Table 9-8).
-/
namespace Sys2Proof.Machine

/-! ## Packed elements -/

/-- An element of a word is the bits at its place (R160). -/
theorem elemOf_eq (w k : Nat) (a : Word) : elemOf w a.toNat k = (a.extractLsb' (w * k) w).toNat := by
  rw [BitVec.extractLsb'_toNat, Nat.shiftRight_eq_div_pow, elemOf]

/-- Two halves side by side. -/
theorem ofNat_halves (lo hi : Nat) : BitVec.ofNat 32 (lo % 2 ^ 16 + 2 ^ 16 * (hi % 2 ^ 16)) = BitVec.ofNat 16 hi ++ BitVec.ofNat 16 lo := by
  apply BitVec.eq_of_toNat_eq
  rw [BitVec.toNat_append, ← Nat.shiftLeft_add_eq_or_of_lt (BitVec.isLt _), Nat.shiftLeft_eq]
  simp only [BitVec.toNat_ofNat]
  omega

/-- An operation on halves works on each half by itself (R235). -/
theorem h2_eq (g : Fmt) (f : Fmt → Nat → Nat → Nat) (a b : Word) : h2 g f a b =
    BitVec.ofNat 16 (f g (a.extractLsb' 16 16).toNat (b.extractLsb' 16 16).toNat) ++
      BitVec.ofNat 16 (f g (a.extractLsb' 0 16).toNat (b.extractLsb' 0 16).toNat) := by
  simp only [h2, ofNat_halves, elemOf_eq, Nat.mul_one, Nat.mul_zero]

/-- And one that takes vd too. -/
theorem h3_eq (g : Fmt) (f : Fmt → Nat → Nat → Nat → Nat) (d a b : Word) : h3 g f d a b =
    BitVec.ofNat 16 (f g (a.extractLsb' 16 16).toNat (b.extractLsb' 16 16).toNat (d.extractLsb' 16 16).toNat) ++
      BitVec.ofNat 16 (f g (a.extractLsb' 0 16).toNat (b.extractLsb' 0 16).toNat (d.extractLsb' 0 16).toNat) := by
  simp only [h3, ofNat_halves, elemOf_eq, Nat.mul_one, Nat.mul_zero]

/-- What an instruction does to two words, said of another function that agrees. -/
theorem lane2_does_of {mk : Lane2 → Instr} {k : Option (Nat × Nat)} {f g : Word → Word → Word}
    (runs : ∀ o s, exec (mk o) s = .next (lane2 k f o s)) (same : ∀ a b, f a b = g a b) : Lane2Does mk g := by
  rw [← funext₂ same]
  exact lane2_does runs

/-- And of three words. -/
theorem lane3_does_of {mk : Lane2 → Instr} {k : Option (Nat × Nat)} {f g : Word → Word → Word → Word}
    (runs : ∀ o s, exec (mk o) s = .next (lane3 k f o s)) (same : ∀ d a b, f d a b = g d a b) : Lane3Does mk g := by
  rw [← funext₃ same]
  exact lane3_does runs

/-! ## Dot products (R241) -/

/-- A sum of integers and then 32 bits of it, or the sum of 32 bits of each (R241). -/
theorem ofInt_foldl_add {α : Type} (f : α → Int) (ks : List α) : ∀ x : Int,
    BitVec.ofInt 32 (ks.foldl (fun x k => x + f k) x) = BitVec.ofInt 32 x + (ks.map fun k => BitVec.ofInt 32 (f k)).foldr (· + ·) 0#32 := by
  induction ks with
  | nil => simp
  | cons k ks ih =>
    intro x
    rw [List.foldl_cons, ih, BitVec.ofInt_add, List.map_cons, List.foldr_cons, BitVec.add_assoc]

/-- The integer dot products accumulate mod 2^32; `z` reads the elements of a unsigned (R241). -/
theorem doti_eq (n w : Nat) (z : Bool) (d a b : Word) : doti n w z d a b = d + ((List.range n).map fun k =>
    (if z then (a.extractLsb' (w * k) w).setWidth 32 else (a.extractLsb' (w * k) w).signExtend 32) * (b.extractLsb' (w * k) w).signExtend 32).foldr
      (· + ·) 0#32 := by
  have start : BitVec.ofInt 32 (d.toNat : Int) = d := by simp
  have signed (x : Word) (k : Nat) : BitVec.ofInt 32 (toSigned w (elemOf w x.toNat k)) = (x.extractLsb' (w * k) w).signExtend 32 := by
    rw [ofInt_toSigned, elemOf_eq, BitVec.ofNat_toNat, BitVec.setWidth_eq]
  have unsigned (x : Word) (k : Nat) : BitVec.ofInt 32 ((elemOf w x.toNat k : Nat) : Int) = (x.extractLsb' (w * k) w).setWidth 32 := by
    rw [elemOf_eq, BitVec.ofInt_natCast, BitVec.ofNat_toNat]
  rw [doti, ofInt_foldl_add, start]
  cases z <;> simp only [Bool.false_eq_true, if_false, if_true, BitVec.ofInt_mul, signed, unsigned]

/-- The floating-point dot products are one block with both scales 0x7F (R169, R241). -/
theorem dotf_eq (n w : Nat) (g : Fmt) (width : g.width = w) (d a b : Word) : dotf n g d a b =
    mmaBlock d ((List.range n).map fun k => (a.extractLsb' (w * k) w).toNat) 0x7F g
      ((List.range n).map fun k => (b.extractLsb' (w * k) w).toNat) 0x7F g := by
  subst width
  simp only [dotf, elemOf_eq]

/-- Settles O10: the forms on halves in either format are those of R232 on each half, and each dot product is a lane job of its sum. -/
theorem halvesAndDotProducts : Obligations.HalvesAndDotProducts := by
  unfold Obligations.HalvesAndDotProducts
  refine ⟨fun g _ => ?halves, ?dots⟩
  case halves =>
    constructor <;> rintro rfl <;>
      exact ⟨lane2_does_of (fun _ _ => rfl) (h2_eq _ fadd), lane2_does_of (fun _ _ => rfl) (h2_eq _ fsub),
        lane2_does_of (fun _ _ => rfl) (h2_eq _ fmul), lane3_does_of (fun _ _ => rfl) (h3_eq _ ffma),
        lane2_does_of (fun _ _ => rfl) (h2_eq _ fmin), lane2_does_of (fun _ _ => rfl) (h2_eq _ fmax)⟩
  case dots =>
    exact ⟨lane3_does_of (fun _ _ => rfl) (doti_eq 4 8 false), lane3_does_of (fun _ _ => rfl) (doti_eq 4 8 true),
      lane3_does_of (fun _ _ => rfl) (doti_eq 8 4 false), lane3_does_of (fun _ _ => rfl) (doti_eq 8 4 true),
      lane3_does_of (fun _ _ => rfl) (dotf_eq 4 8 .e4m3 rfl), lane3_does_of (fun _ _ => rfl) (dotf_eq 4 8 .e5m2 rfl),
      lane3_does_of (fun _ _ => rfl) (dotf_eq 8 4 .e2m1 rfl), lane3_does_of (fun _ _ => rfl) (dotf_eq 2 16 .bf16 rfl)⟩

end Sys2Proof.Machine
end

section
/-!
SUPPORT. Conversions (R163, R174, R236 to R238, Table 9-7).
-/
namespace Sys2Proof.Machine

/-! ## What a conversion writes (R236, R237, Table 9-7) -/

/-- A conversion as a lane instruction. -/
def cvtJob (r : BitVec 3) (c d a : Reg) (ma u : Bool) (s : State) : LaneJob :=
  { n := 4, u := u, vs := [a.toNat], ss := [], frees := if ma then [a.toNat] else [], d := d.toNat
    full := (cvtSlot c.toNat).isNone, put := cvtPut c.toNat, cnt := some (26, 1)
    res := fun i => cvtLane c.toNat (modeOf r) s.srAt i ((s.me.vget a.toNat).lane i) }

/-- What a conversion does, for a code whose words stand in relation `Q`. -/
theorem cvt_does {c : Nat} {full rounds : Bool} {Q : RMode → (Nat → Word) → Nat → Word → Word → Word → Prop}
    (whole : (cvtSlot c).isNone = full) (checks : decide (c < 0x28) = rounds)
    (word : ∀ mode t i old a, Q mode t i old a (cvtPut c old (cvtLane c mode t i a))) : CvtDoes c full rounds Q := by
  intro r code d a ma u s named same ready
  subst same whole checks
  obtain ⟨v, done, unchecked, checked⟩ :=
    laneThen_checked (cvtJob r code d a ma u s) (modeOf r == .sr && decide (code.toNat < 0x28) && s.me.act != 0#64) s ready
  refine ⟨v, _, _, s.srKeys, rfl, s.srKeys_pair, done, fun i _ => ?_, fun idle => unchecked ?_, fun sr rounding active => checked ?_⟩
  · rw [← s.srAt_eq, ← modeOf_eq named]
    exact word ..
  · rw [modeOf_beq_sr]
    rcases idle with other | exact | empty
    · simp [other]
    · simp [exact]
    · simp [empty]
  · rw [modeOf_beq_sr]
    simp [sr, rounding, active]

/-- A packed word with one element replaced, in parts. -/
theorem putElem_eq (w k x v : Nat) : putElem w k x v = 2 ^ (w * k) * (2 ^ w * (x / 2 ^ (w * k) / 2 ^ w) + v % 2 ^ w) + x % 2 ^ (w * k) := by
  have low := Nat.div_add_mod x (2 ^ (w * k))
  have high := Nat.div_add_mod (x / 2 ^ (w * k)) (2 ^ w)
  rw [putElem, elemOf]
  generalize x / 2 ^ (w * k) = q at low high ⊢
  rw [← high, Nat.mul_add] at low
  rw [Nat.mul_add, Nat.mul_comm (q % 2 ^ w), Nat.mul_comm (v % 2 ^ w)]
  omega

/-- Only the bits of an element's place change when it is put (R160). -/
theorem testBit_putElem (w k x v j : Nat) : (putElem w k x v).testBit j =
    if w * k ≤ j ∧ j < w * k + w then v.testBit (j - w * k) else x.testBit j := by
  rw [putElem_eq, Nat.testBit_two_pow_mul_add _ (Nat.mod_lt _ (Nat.two_pow_pos _))]
  split
  next below => rw [Nat.testBit_mod_two_pow, if_neg (by omega)]; simp [below]
  next above =>
    rw [Nat.testBit_two_pow_mul_add _ (Nat.mod_lt _ (Nat.two_pow_pos _))]
    split
    next inside => rw [Nat.testBit_mod_two_pow, if_pos (by omega)]; simp [inside]
    next beyond => rw [Nat.testBit_div_two_pow, Nat.testBit_div_two_pow, if_neg (by omega)]; congr 1; omega

/-- An element put in its slot of a word (R160, R237). -/
theorem slotPut_putElem {w k : Nat} (fits : w * k + w ≤ 32) (old : Word) {y z : Nat} (same : z % 2 ^ w = y % 2 ^ w) :
    SlotPut w k old (BitVec.ofNat 32 (putElem w k old.toNat z)) y := by
  refine ⟨BitVec.eq_of_getLsbD_eq fun i hi => ?_, fun j hj outside => ?_⟩
  · have bit : z.testBit i = y.testBit i := by
      have := congrArg (·.testBit i) same
      simpa [Nat.testBit_mod_two_pow, hi] using this
    rw [BitVec.getLsbD_extractLsb', BitVec.getLsbD_ofNat, BitVec.getLsbD_ofNat, testBit_putElem, if_pos (by omega), Nat.add_sub_cancel_left, bit]
    simp [hi, show w * k + i < 32 by omega]
  · rw [BitVec.getLsbD_ofNat, testBit_putElem, if_neg (by omega), BitVec.testBit_toNat]
    simp [hj]

/-- A conversion that replaces a slot. -/
theorem cvtSlot_word {c p k : Nat} {f : Fmt} (slot : cvtSlot c = some (f, k, p)) (fits : f.width * k + f.width ≤ 32)
    (mode : RMode) (t : Nat → Word) (i : Nat) (old a : Word) : SlotPut f.width k old (cvtPut c old (cvtLane c mode t i a))
      (Machine.round f mode false (srcQuantum .fp32 (V32 a)) (t (p * i + k)) (V32 a)) := by
  simp only [cvtPut, cvtLane, slot]
  refine slotPut_putElem fits old ?_
  rw [BitVec.toNat_ofNat, Nat.mod_mod_of_dvd _ (pow_dvd_pow 2 (by omega))]
  rfl

/-- A conversion of an element to FP32 is exact: it rounds a value of a narrower format. -/
theorem cvtWiden_word {c k : Nat} {f : Fmt} (whole : cvtSlot c = none) (slot : cvtWiden c = some (f, k)) (mode : RMode) (t : Nat → Word)
    (i : Nat) (old a : Word) : cvtPut c old (cvtLane c mode t i a) = R32 (value (a.extractLsb' (f.width * k) f.width).toNat f) := by
  simp only [cvtPut, cvtLane, whole, slot, elemOf_eq]
  rfl

/-! ## Ranges of roundings (R163, R237) -/

/-- An encoding that a rounding to FP16 or BF16 gives has 16 bits. -/
theorem round_lt {f : Fmt} (narrow : f = .fp16 ∨ f = .bf16) (mode : RMode) (sat : Bool) (q : Int) (t : Word) (v : Val) :
    Machine.round f mode sat q t v < 2 ^ 16 := by
  have width : f.width = 16 := by rcases narrow with rfl | rfl <;> rfl
  have nan : f.nanOut < 2 ^ 16 := by rcases narrow with rfl | rfl <;> decide
  have finite : f.maxFinite < 2 ^ 15 := by rcases narrow with rfl | rfl <;> decide
  have inf : ∃ i, f.infBits = some i ∧ i < 2 ^ 15 := by rcases narrow with rfl | rfl <;> exact ⟨_, rfl, by decide⟩
  obtain ⟨i, infBits, small⟩ := inf
  have signed {x : Nat} (neg : Bool) (low : x < 2 ^ 15) : f.signed neg x < 2 ^ 16 := by
    rw [Fmt.signed, width]
    split <;> omega
  have beyond (neg : Bool) : overflow f neg mode sat < 2 ^ 16 := by
    have big := signed neg finite
    have posInf := signed false small
    have bigInf := signed neg small
    have negInf := signed true small
    simp only [overflow, infBits]
    cases sat <;> cases mode <;> cases neg <;> assumption
  cases v with
  | nan => exact nan
  | inf neg => simpa only [Machine.round, infBits] using signed neg small
  | fin neg m e =>
    have float : f.isFloat = true := by rcases narrow with rfl | rfl <;> rfl
    have either (mag : Nat) : (if mag > f.maxFinite then overflow f neg mode sat else f.signed neg mag) < 2 ^ 16 := by
      split
      next => exact beyond neg
      next fits => exact signed neg (by omega)
    simp only [Machine.round, roundFin, float, if_true]
    exact either _

/-- A whole number beyond the range of an integer format gives its least or greatest value, in every mode (R163, R237). -/
theorem round_beyond {f : Fmt} (integer : f = .si32 ∨ f = .ui32) (mode : RMode) (sat : Bool) (q : Int) (t : Word) {neg : Bool} {m : Nat} {e : Int}
    (whole : 0 ≤ e) (outside : f.hi < signedInt neg (m * 2 ^ e.toNat) ∨ signedInt neg (m * 2 ^ e.toNat) < f.lo) :
    Machine.round f mode sat q t (.fin neg m e) = ofSigned f.width (if neg then f.lo else f.hi) := by
  have count : roundMag mode neg m (e - 0) (srWidth q f m e) t = m * 2 ^ e.toNat := by
    rw [Int.sub_zero, roundMag, if_pos whole]
  rcases integer with rfl | rfl <;> simp only [Machine.round, roundFin, quantumExp, Fmt.isFloat, Bool.false_eq_true, if_false, reduceCtorEq, count]
  all_goals exact if_pos outside.symm

theorem le_mul_two_pow {n m : Nat} (big : n ≤ m) (k : Nat) : n ≤ m * 2 ^ k :=
  big.trans (Nat.le_mul_of_pos_right m (Nat.two_pow_pos k))

/-- The halves of a word. -/
theorem extractLsb'_halves {lo hi h : Nat} (low : lo < 2 ^ 16) (half : h < 2) :
    (BitVec.ofNat 32 (lo + 2 ^ 16 * hi)).extractLsb' (16 * h) 16 = BitVec.ofNat 16 (if h = 0 then lo else hi) := by
  apply BitVec.eq_of_toNat_eq
  rw [BitVec.extractLsb'_toNat, Nat.shiftRight_eq_div_pow]
  simp only [BitVec.toNat_ofNat]
  rcases Nat.lt_succ_iff_lt_or_eq.1 half with zero | rfl
  · obtain rfl : h = 0 := by omega
    rw [if_pos rfl]
    omega
  · rw [if_neg Nat.one_ne_zero]
    omega

/-- Both halves of a word converted from one 16-bit format to the other (R237). -/
theorem cvtPair_word {f g : Fmt} (narrow : g = .fp16 ∨ g = .bf16) (mode : RMode) (t : Nat → Word) (a : Word) {i h : Nat} (half : h < 2) :
    (BitVec.ofNat 32 (cvtRound f g mode (t (2 * i)) (elemOf 16 a.toNat 0) +
        2 ^ 16 * cvtRound f g mode (t (2 * i + 1)) (elemOf 16 a.toNat 1))).extractLsb' (16 * h) 16 =
      BitVec.ofNat 16 (Machine.round g mode false (srcQuantum f (V16 f a h)) (t (2 * i + h)) (V16 f a h)) := by
  rw [extractLsb'_halves (lo := cvtRound ..) (round_lt narrow ..) half]
  rcases Nat.lt_succ_iff_lt_or_eq.1 half with zero | rfl
  · obtain rfl : h = 0 := by omega
    simp only [if_true, cvtRound, elemOf_eq]
    rfl
  · simp only [Nat.one_ne_zero, if_false, cvtRound, elemOf_eq]
    rfl

/-- Settles O11: every code is one lane job followed by the check of the key-use filter; a table gives each code its format and slot, and a
magnitude beyond an integer format gives its bound in every mode. That the key and step are read together, both from before or both from
after a change, is the choice of log entry 86. -/
theorem conversions : Obligations.Conversions := by
  unfold Obligations.Conversions
  refine ⟨⟨?slots, ?widen, ?words, ?pairs⟩, ?ranges⟩
  case slots =>
    have table : ∀ row ∈ [(0x00, 2, Fmt.bf16), (0x02, 2, .fp16), (0x04, 4, .e4m3), (0x08, 4, .e5m2), (0x10, 8, .e2m1),
        (0x18, 4, .int8), (0x20, 8, .int4)],
      ∀ k, k < row.2.1 → cvtSlot (row.1 + k) = some (row.2.2, k, row.2.1) ∧
        row.2.2.width * k + row.2.2.width ≤ 32 ∧ row.1 + k < 0x28 := by decide
    intro row mem k low
    obtain ⟨slot, fits, rounds⟩ := table row mem k low
    exact cvt_does (by rw [slot]; rfl) (decide_eq_true rounds) (cvtSlot_word slot fits)
  case widen =>
    have table : ∀ row ∈ [(0x28, 2, Fmt.bf16), (0x2A, 2, .fp16), (0x2C, 4, .e4m3), (0x30, 4, .e5m2), (0x34, 4, .int8), (0x38, 8, .e2m1)],
      ∀ k, k < row.2.1 → cvtSlot (row.1 + k) = none ∧ cvtWiden (row.1 + k) = some (row.2.2, k) ∧ ¬ row.1 + k < 0x28 := by decide
    intro row mem k low
    obtain ⟨whole, slot, exact⟩ := table row mem k low
    refine cvt_does (by rw [whole]; rfl) (decide_eq_false exact) fun mode t i old a => cvtWiden_word whole slot mode t i old a
  case words =>
    intro row mem
    simp only [List.mem_cons, List.not_mem_nil, or_false] at mem
    rcases mem with rfl | rfl | rfl | rfl <;> exact cvt_does rfl rfl fun mode t i old a => rfl
  case pairs =>
    intro row mem
    simp only [List.mem_cons, List.not_mem_nil, or_false] at mem
    rcases mem with rfl | rfl
    · exact cvt_does rfl rfl fun mode t i old a h half => cvtPair_word (.inl rfl) _ _ _ half
    · exact cvt_does rfl rfl fun mode t i old a h half => cvtPair_word (.inr rfl) _ _ _ half
  case ranges =>
    intro mode t q
    refine ⟨rfl, rfl, rfl, rfl, rfl, rfl, fun m e big whole => ?_, fun m e big whole => ?_, fun m e big whole => ?_⟩
    · refine round_beyond (.inl rfl) mode false q t whole (.inl ?_)
      have large := le_mul_two_pow big e.toNat
      simp only [signedInt, Fmt.hi, Bool.false_eq_true, if_false]
      omega
    · refine round_beyond (.inr rfl) mode false q t whole (.inl ?_)
      have large := le_mul_two_pow big e.toNat
      simp only [signedInt, Fmt.hi, Bool.false_eq_true, if_false]
      omega
    · refine round_beyond (.inr rfl) mode false q t whole (.inr ?_)
      have large := le_mul_two_pow big e.toNat
      simp only [signedInt, Fmt.lo, if_true]
      omega

end Sys2Proof.Machine
end

section
/-!
SUPPORT. Predicates, votes, the execution mask and the shuffles (R244 to R248, Tables 9-10 and 9-11).
-/
namespace Sys2Proof.Machine

/-! ## Predicates, votes and masks -/

/-- The count of the lanes of a mask. -/
theorem popcount_eq (x : Mask) : popcount x = (List.range 64).countP fun i => x.getLsbD i := by
  rw [popcount, lanesOf, List.countP_eq_length_filter]

/-- The lowest lane of a mask, 64 where it has none: no lane below it is set. -/
theorem lowestLane_first (x : Mask) : (∀ i, i < (lowestLane x).getD 64 → x.getLsbD i = false) ∧
    ((lowestLane x).getD 64 < 64 ∧ x.getLsbD ((lowestLane x).getD 64) = true ∨ (lowestLane x).getD 64 = 64) := by
  rw [lowestLane, lanesOf, List.head?_filter]
  cases found : (List.range 64).find? fun i => x.getLsbD i with
  | none =>
    refine ⟨fun i low => ?_, .inr rfl⟩
    simpa using List.find?_eq_none.1 found i (List.mem_range.2 low)
  | some n =>
    rw [List.find?_range_eq_some] at found
    obtain ⟨on, lane, below⟩ := found
    refine ⟨fun i low => ?_, .inl ⟨List.mem_range.1 lane, on⟩⟩
    simpa using below i low

/-- A scalar instruction whose sources hold no poison writes its result and changes nothing else (R242). -/
theorem scalarOp_put {n d : Nat} {ss : List Nat} {f : Cohort → Word} {s : State} (clean : ∀ r ∈ ss, s.me.spoison r = false) :
    ScalarFrame s (scalarOp n ss (fun c => c.sput d (f c)) s) n ∧ Scalar1 s (scalarOp n ss (fun c => c.sput d (f c)) s) d (f s.me) := by
  rw [scalarOp_ready _ _ _ _ clean]
  exact scalar1_of ..

/-- And one that writes a pair. -/
theorem scalarOp_put64 {n d : Nat} {ss : List Nat} {f : Cohort → DWord} {s : State} (clean : ∀ r ∈ ss, s.me.spoison r = false) :
    ScalarFrame s (scalarOp n ss (fun c => c.sput64 d (f c)) s) n ∧ Scalar2 s (scalarOp n ss (fun c => c.sput64 d (f c)) s) d (f s.me) := by
  rw [scalarOp_ready _ _ _ _ clean]
  exact scalar2_of ..

/-- A vote as the word that it writes (R247). -/
theorem flag32_bne (x y : Mask) : flag32 (x != y) = if x = y then 0#32 else 1#32 := by
  by_cases same : x = y <;> simp [flag32, same]

theorem flag32_beq (x y : Mask) : flag32 (x == y) = if x = y then 1#32 else 0#32 := by
  by_cases same : x = y <;> simp [flag32, same]

/-- Settles O13: the predicate forms write all 64 bits, and each vote is a scalar instruction of the predicate under em. -/
theorem predicatesAndVotes : Obligations.PredicatesAndVotes := by
  unfold Obligations.PredicatesAndVotes
  refine ⟨fun d a b s => ?_, fun d a s => ?_⟩
  · exact ⟨⟨_, rfl, plogic_done ..⟩, ⟨_, rfl, plogic_done ..⟩, ⟨_, rfl, plogic_done ..⟩, ⟨_, rfl, plogic_done ..⟩,
      ⟨_, rfl, plogic_done ..⟩, ⟨_, rfl, plogic_done ..⟩⟩
  · intro x
    have clean : ∀ r ∈ ([] : List Nat), s.me.spoison r = false := by simp
    rw [← flag32_bne, ← flag32_beq, ← popcount_eq]
    obtain ⟨below, found⟩ := lowestLane_first x
    exact ⟨⟨_, rfl, scalarOp_put clean⟩, ⟨_, rfl, scalarOp_put clean⟩, ⟨_, rfl, scalarOp_put64 clean⟩, ⟨_, rfl, scalarOp_put clean⟩,
      ⟨_, (lowestLane x).getD 64, rfl, (scalarOp_put clean).1, (scalarOp_put clean).2, below, found⟩⟩

/-- What a write of scalars and em that retires leaves as it was. -/
theorem scalarsEm_frame (s : State) (x : Store Word) (m e : Mask) (n : Nat) :
    let t := (s.setMe { s.me with s := x, sp := m, em := e }).retire n
    Retired s t n ∧ Inside s t ∧ { t.me.quiet with s := s.me.s, sp := s.me.sp, em := s.me.em } = s.me.quiet :=
  ⟨⟨rfl, rfl, rfl⟩, inside_plain s _ n, rfl⟩

/-- XALL saves em in a pair and enables every present lane (R246). -/
theorem xall_does (r : Reg) (s : State) : ∃ t, exec (.xall r) s = .next t ∧ t.me.em = s.me.present ∧
    Scalar2 s t r.toNat s.me.em ∧ Retired s t 4 ∧ Inside s t ∧ { t.me.quiet with s := s.me.s, sp := s.me.sp, em := s.me.em } = s.me.quiet := by
  obtain ⟨-, saved⟩ := scalar2_of s r.toNat 4 s.me.em
  have runs : exec (.xall r) s = .next ((s.setMe ((s.me.sput64 r.toNat s.me.em).emput (BitVec.allOnes 64))).retire 4) :=
    congrArg Host.Outcome.next (scalarOp_ready 4 [] _ s (by simp))
  exact ⟨_, runs, BitVec.allOnes_and, saved.congr rfl rfl, scalarsEm_frame s _ _ _ 4⟩

/-- Settles O14: each MASK instruction is a scalar instruction that ANDs what it writes to em with the present mask. -/
theorem executionMask : Obligations.ExecutionMask := by
  unfold Obligations.ExecutionMask
  intro r s pair clean
  have none : ∀ r ∈ ([] : List Nat), s.me.spoison r = false := by simp
  have both (h : clean) : ∀ k ∈ [r.toNat, r.toNat + 1], s.me.spoison k = false := by simpa using h
  exact ⟨⟨_, rfl, scalarOp_put64 none⟩, fun h => congrArg Host.Outcome.next (scalarOp_ready 4 _ _ s (both h)),
    congrArg Host.Outcome.next (scalarOp_ready 4 _ _ s none), congrArg Host.Outcome.next (scalarOp_ready 4 _ _ s none),
    ⟨_, rfl, plogic_done ..⟩, congrArg Host.Outcome.next (scalarOp_ready 4 _ _ s none), xall_does r s,
    fun h => congrArg Host.Outcome.next (scalarOp_ready 4 _ _ s (both h))⟩

/-- Settles O15: the source lane of each shuffle, by whether it lies in 0 to 63. -/
theorem shuffles : Obligations.Shuffles := by
  unfold Obligations.Shuffles
  refine ⟨shuffle_does (fun _ _ => rfl) fun i b hi => ?_, shuffle_does (fun _ _ => rfl) fun i b hi => ?_,
    shuffle_does (fun _ _ => rfl) fun i b hi => ?_,
    shuffle_does (fun _ _ => rfl) fun i b hi => ?_, shuffle_does (fun _ _ => rfl) fun i b hi => ?_⟩
  · exact if_neg (by omega)
  · by_cases up : b ≤ i
    · rw [if_pos up, if_pos up]
      exact if_neg (by omega)
    · rw [if_neg up, if_neg up]
      exact if_pos le_rfl
  · simp only [← Nat.not_lt, ite_not]
  · exact if_neg (Nat.not_le.2 (Nat.xor_lt_two_pow (n := 6) hi (Nat.mod_lt _ (by decide))))
  · exact if_neg (by omega)

end Sys2Proof.Machine
end

section
/-!
SUPPORT. Reductions across the lanes (R249, Table 9-12).
-/
namespace Sys2Proof.Machine

/-! ## Integer reductions (R249, Table 9-12) -/

/-- What a reduction does, said of another function that agrees. -/
theorem lred_does_of {mk : Reg → Reg → Bool → Instr} {f g : List Word → Word}
    (runs : ∀ d a ma s, exec (mk d a ma) s = .next (lred f d a ma s)) (same : ∀ xs, f xs = g xs) : ReduceDoes mk g := by
  rw [← funext same]
  exact lred_does runs

/-- A fold that takes one of two words each time ends in one of the words, and beyond none of them. -/
theorem foldl_bound {α : Type} [Preorder α] {op : Word → Word → Word} {rank : Word → α} (either : ∀ x y, op x y = x ∨ op x y = y)
    (bound : ∀ x y, rank (op x y) ≤ rank x ∧ rank (op x y) ≤ rank y) : ∀ (xs : List Word) (x : Word),
    (xs.foldl op x = x ∨ xs.foldl op x ∈ xs) ∧ rank (xs.foldl op x) ≤ rank x ∧ ∀ y ∈ xs, rank (xs.foldl op x) ≤ rank y := by
  intro xs
  induction xs with
  | nil => exact fun x => ⟨.inl rfl, le_rfl, by simp⟩
  | cons y xs ih =>
    intro x
    obtain ⟨mem, first, rest⟩ := ih (op x y)
    obtain ⟨left, right⟩ := bound x y
    refine ⟨?_, first.trans left, ?_⟩
    · rcases mem with same | later
      · rw [List.foldl_cons, same]
        rcases either x y with h | h
        · exact .inl h
        · exact .inr (by rw [h]; exact List.mem_cons_self)
      · exact .inr (List.mem_cons_of_mem _ later)
    · intro z mem
      rcases List.mem_cons.1 mem with rfl | later
      · exact first.trans right
      · exact rest z later

/-- From a word beyond all others such a fold ends in one of its words. -/
theorem foldl_extreme {α : Type} [Preorder α] {op : Word → Word → Word} {rank : Word → α} (either : ∀ x y, op x y = x ∨ op x y = y)
    (bound : ∀ x y, rank (op x y) ≤ rank x ∧ rank (op x y) ≤ rank y) {top : Word}
    (above : ∀ y, op top y = y) {xs : List Word} (filled : xs ≠ []) :
    xs.foldl op top ∈ xs ∧ ∀ y ∈ xs, rank (xs.foldl op top) ≤ rank y := by
  obtain ⟨y, ys, rfl⟩ := List.exists_cons_of_ne_nil filled
  obtain ⟨mem, first, rest⟩ := foldl_bound either bound ys y
  rw [List.foldl_cons, above]
  refine ⟨mem.elim (fun same => by rw [same]; exact List.mem_cons_self) (List.mem_cons_of_mem _), fun z mem => ?_⟩
  rcases List.mem_cons.1 mem with rfl | later
  · exact first
  · exact rest z later

/-- LRMIN gives the least word (R249). -/
theorem lrmin_least {xs : List Word} (filled : xs ≠ []) :
    xs.foldl (fun x y => if x.sle y then x else y) 0x7FFFFFFF#32 ∈ xs ∧
      ∀ y ∈ xs, (xs.foldl (fun x y => if x.sle y then x else y) 0x7FFFFFFF#32).toInt ≤ y.toInt := by
  refine foldl_extreme (rank := BitVec.toInt) (fun x y => ite_eq_or_eq ..) (fun x y => ?_) (fun y => ?_) filled
  · simp only [BitVec.sle_iff_toInt_le]
    split <;> omega
  · have least := BitVec.toInt_lt (x := y)
    have value : (0x7FFFFFFF#32).toInt = 2 ^ 31 - 1 := by decide
    refine ite_eq_right_iff.2 fun le => ?_
    rw [BitVec.sle_iff_toInt_le, value] at le
    exact BitVec.eq_of_toInt_eq (by omega)

/-- LRMAX gives the greatest word (R249). -/
theorem lrmax_greatest {xs : List Word} (filled : xs ≠ []) :
    xs.foldl (fun x y => if x.sle y then y else x) 0x80000000#32 ∈ xs ∧
      ∀ y ∈ xs, y.toInt ≤ (xs.foldl (fun x y => if x.sle y then y else x) 0x80000000#32).toInt := by
  refine foldl_extreme (rank := fun x => OrderDual.toDual x.toInt) (fun x y => (ite_eq_or_eq ..).symm) (fun x y => ?_) (fun y => ?_) filled
  · simp only [BitVec.sle_iff_toInt_le, OrderDual.toDual_le_toDual]
    split <;> omega
  · have least := BitVec.le_toInt (x := y)
    have value : (0x80000000#32).toInt = -2 ^ 31 := by decide
    refine if_pos ?_
    rw [BitVec.sle_iff_toInt_le, value]
    omega

/-! ## The exact sum (R249) -/

theorem isNan_any {vs : List Val} : vs.any Val.isNan = true ↔ Val.nan ∈ vs := by
  simp [List.any_eq_true, Val.isNan_iff]

theorem minExp_comm (e : Int) (v w : Val) : (v.minExp e |> fun e => w.minExp e) = (w.minExp e |> fun e => v.minExp e) := by
  cases v <;> cases w <;> simp only [Val.minExp]
  omega

theorem addTo_comm (e0 x : Int) (v w : Val) : Val.addTo e0 (Val.addTo e0 x v) w = Val.addTo e0 (Val.addTo e0 x w) v := by
  cases v <;> cases w <;> simp only [Val.addTo]
  omega

/-- The exact sum of finite values does not depend on their order. -/
theorem sumFin_perm {vs ws : List Val} (same : vs.Perm ws) : sumFin vs = sumFin ws := by
  have exps : vs.foldl Val.minExp 0 = ws.foldl Val.minExp 0 := same.foldl_eq' (fun v _ w _ e => minExp_comm e v w) 0
  rw [sumFin, sumFin, exps]
  exact congrArg (·, _) (same.foldl_eq' (fun v _ w _ x => addTo_comm _ x v w) 0)

/-- Nor does that of all values. -/
theorem sumVals_perm {vs ws : List Val} (same : vs.Perm ws) : sumVals vs = sumVals ws := by
  rw [sumVals, sumVals, sumFin_perm same, same.any_eq, same.any_eq, same.any_eq, same.all_eq, same.isEmpty_eq]

/-- LRFADD rounds the exact sum once, so the order of the lanes does not matter (R249). -/
theorem lrfadd_perm {xs ys : List Word} (same : xs.Perm ys) : lrfadd xs = lrfadd ys := by
  rw [lrfadd, lrfadd, sumVals_perm (same.map _)]

theorem lrfadd_nan {xs : List Word} (nan : ∃ x ∈ xs, IsNan x) : lrfadd xs = qnan := by
  obtain ⟨x, mem, nan⟩ := nan
  have found : (xs.map fun x => value x.toNat .fp32).any Val.isNan = true := isNan_any.2 (List.mem_map.2 ⟨x, mem, nan⟩)
  rw [lrfadd, sumVals, found]
  rfl

/-- A fold that its one element leaves where it starts. -/
theorem foldl_replicate_fixed {α β : Type} {f : β → α → β} {a : α} {b : β} (fixed : f b a = b) (n : Nat) :
    (List.replicate n a).foldl f b = b := by
  induction n with
  | zero => rfl
  | succ n ih => rw [List.replicate_succ, List.foldl_cons, fixed, ih]

/-- The sum of negative zeros is −0. -/
theorem sumVals_zeros (n : Nat) (e : Int) : sumVals (List.replicate (n + 1) (.fin true 0 e)) = .fin true 0 0 := by
  have still (e0 : Int) : Val.addTo e0 0 (.fin true 0 e) = 0 := by simp [Val.addTo, alignTo]
  simp [sumVals, sumFin, foldl_replicate_fixed (still _), Val.isNan, Val.sign]

/-- Lanes that all hold −0 sum to −0 (R249). -/
theorem lrfadd_zeros {xs : List Word} (filled : xs ≠ []) (zeros : ∀ x ∈ xs, x = 0x80000000#32) : lrfadd xs = 0x80000000#32 := by
  obtain ⟨n, len⟩ := Nat.exists_eq_add_one.2 (List.length_pos_iff.2 filled)
  have zero : value (0x80000000#32).toNat .fp32 = .fin true 0 (-149) := by decide
  rw [List.eq_replicate_iff.2 ⟨len, zeros⟩, lrfadd, List.map_replicate, zero, sumVals_zeros]
  decide

/-! ## The greatest number (R249) -/

/-- LRFMAX: by the FMAX rule from the first word; a NaN alone gives the canonical one. -/
def greatest : List Word → Word
  | [] => 0xFF800000#32
  | x :: ys => ys.foldl (f2 fmax) (if (value x.toNat .fp32).isNan ∧ ys = [] then qnan else x)

/-- Not lying below is transitive among numbers. -/
theorem not_below_trans {a b c : Word} (ha : ¬ IsNan a) (hb : ¬ IsNan b) (hc : ¬ IsNan c)
    (ab : ¬ Below a b) (bc : ¬ Below b c) : ¬ Below a c := by
  have ab := not_lt.1 (mt (Val.lt_iff ha hb).2 ab)
  have bc := not_lt.1 (mt (Val.lt_iff hb hc).2 bc)
  exact fun ac => not_lt.2 (bc.trans ab) ((Val.lt_iff ha hc).1 ac)

/-- The greater of two words one of which is a number is one of those that are, and below none of them. -/
theorem fmax_number {p q : Word} (number : ¬ IsNan p ∨ ¬ IsNan q) : ¬ IsNan (f2 fmax p q) ∧ (f2 fmax p q = p ∨ f2 fmax p q = q) ∧
    (¬ IsNan p → ¬ Below (f2 fmax p q) p) ∧ (¬ IsNan q → ¬ Below (f2 fmax p q) q) := by
  obtain ⟨-, second, first, both, -⟩ := picksInput_fmax
  by_cases hp : IsNan p
  · have hq := number.resolve_left (not_not_intro hp)
    rw [second p q hp hq]
    exact ⟨hq, .inr rfl, fun h => absurd hp h, not_below_self⟩
  · by_cases hq : IsNan q
    · rw [first p q hp hq]
      exact ⟨hp, .inl rfl, not_below_self, fun h => absurd hq h⟩
    · obtain ⟨either, left, right⟩ := both p q hp hq
      refine ⟨?_, either, fun _ => left, fun _ => right⟩
      rcases either with h | h <;> rw [h] <;> assumption

theorem fmax_nans {p q : Word} (hp : IsNan p) (hq : IsNan q) : f2 fmax p q = qnan := picksInput_fmax.1 p q hp hq

theorem qnan_isNan : IsNan qnan := by decide

/-- FMAX taken along words of which one is a number gives a number, one of them, and below none of them. -/
theorem foldl_fmax_number : ∀ (ys : List Word) (p : Word), (¬ IsNan p ∨ ∃ y ∈ ys, ¬ IsNan y) →
    ¬ IsNan (ys.foldl (f2 fmax) p) ∧ (ys.foldl (f2 fmax) p = p ∨ ys.foldl (f2 fmax) p ∈ ys) ∧
      (¬ IsNan p → ¬ Below (ys.foldl (f2 fmax) p) p) ∧ ∀ y ∈ ys, ¬ IsNan y → ¬ Below (ys.foldl (f2 fmax) p) y := by
  intro ys
  induction ys with
  | nil =>
    intro p number
    have hp : ¬ IsNan p := by simpa using number
    exact ⟨hp, .inl rfl, not_below_self, by simp⟩
  | cons q ys ih =>
    intro p number
    by_cases early : ¬ IsNan p ∨ ¬ IsNan q
    · obtain ⟨here, either, overP, overQ⟩ := fmax_number early
      obtain ⟨last, mem, first, rest⟩ := ih (f2 fmax p q) (.inl here)
      have later {z : Word} (hz : ¬ IsNan z) (less : ¬ Below (f2 fmax p q) z) := not_below_trans last here hz (first here) less
      refine ⟨last, ?_, fun hp => later hp (overP hp), fun y mem hy => ?_⟩
      · rcases mem with same | mem
        · rcases either with h | h
          · exact .inl (same.trans h)
          · exact .inr (List.mem_cons.2 (.inl (same.trans h)))
        · exact .inr (List.mem_cons_of_mem _ mem)
      · rcases List.mem_cons.1 mem with rfl | mem
        · exact later hy (overQ hy)
        · exact rest y mem hy
    · obtain ⟨hp, hq⟩ : IsNan p ∧ IsNan q := by simpa only [not_or, not_not] using early
      have still : IsNan (f2 fmax p q) := by rw [fmax_nans hp hq]; exact qnan_isNan
      have remaining : ∃ y ∈ ys, ¬ IsNan y := by
        obtain ⟨y, mem, hy⟩ := number.resolve_left (not_not_intro hp)
        exact ⟨y, (List.mem_cons.1 mem).resolve_left fun h => hy (h ▸ hq), hy⟩
      obtain ⟨last, mem, -, rest⟩ := ih (f2 fmax p q) (.inr remaining)
      refine ⟨last, .inr (List.mem_cons_of_mem _ (mem.resolve_left fun h => last (by rwa [h]))), fun h => absurd hp h, fun y mem hy => ?_⟩
      exact rest y ((List.mem_cons.1 mem).resolve_left fun h => hy (h ▸ hq)) hy

/-- LRFMAX gives the greatest number where a lane holds one. -/
theorem greatest_number {xs : List Word} (number : ∃ x ∈ xs, ¬ IsNan x) :
    greatest xs ∈ xs ∧ ¬ IsNan (greatest xs) ∧ ∀ x ∈ xs, ¬ IsNan x → ¬ Below (greatest xs) x := by
  obtain ⟨x, mem, hx⟩ := number
  cases xs with
  | nil => exact absurd mem List.not_mem_nil
  | cons p ys =>
    have some : ¬ IsNan p ∨ ∃ y ∈ ys, ¬ IsNan y := (List.mem_cons.1 mem).imp (fun h => by rwa [← h]) fun h => ⟨x, h, hx⟩
    have start : greatest (p :: ys) = ys.foldl (f2 fmax) p := by
      refine congrArg (ys.foldl (f2 fmax)) (if_neg fun alone => ?_)
      obtain ⟨nan, rfl⟩ := alone
      exact some.elim (fun h => h (Val.isNan_iff.1 nan)) (by simp)
    obtain ⟨last, mem, first, rest⟩ := foldl_fmax_number ys p some
    rw [start]
    refine ⟨mem.elim (fun h => by rw [h]; exact List.mem_cons_self) (List.mem_cons_of_mem _), last, fun y mem hy => ?_⟩
    rcases List.mem_cons.1 mem with rfl | mem
    · exact first hy
    · exact rest y mem hy

theorem foldl_fmax_qnan : ∀ (ys : List Word), (∀ y ∈ ys, IsNan y) → ys.foldl (f2 fmax) qnan = qnan := by
  intro ys
  induction ys with
  | nil => exact fun _ => rfl
  | cons y ys ih =>
    intro nans
    rw [List.foldl_cons, fmax_nans qnan_isNan (nans y List.mem_cons_self)]
    exact ih fun z mem => nans z (List.mem_cons_of_mem _ mem)

/-- And the canonical NaN where none does. -/
theorem greatest_nans {xs : List Word} (filled : xs ≠ []) (nans : ∀ x ∈ xs, IsNan x) : greatest xs = qnan := by
  match xs, filled, nans with
  | [x], _, nans => exact if_pos ⟨Val.isNan_iff.2 (nans x List.mem_cons_self), rfl⟩
  | x :: y :: ys, _, nans =>
    rw [greatest, if_neg (by simp), List.foldl_cons, fmax_nans (nans x (by simp)) (nans y (by simp))]
    exact foldl_fmax_qnan ys fun z mem => nans z (by simp [mem])

/-- Settles O16: each reduction folds the words of its lanes; LRMIN, LRMAX and LRFMAX end in a word beyond none of them, and LRFADD rounds the
exact sum, which has no order. -/
theorem laneReductions : Obligations.LaneReductions := by
  unfold Obligations.LaneReductions
  refine ⟨lred_does_of (fun _ _ _ _ => rfl) fun xs => ?_, lred_does_of (fun _ _ _ _ => rfl) fun xs => ?_,
    lred_does_of (fun _ _ _ _ => rfl) fun xs => ?_, lred_does_of (fun _ _ _ _ => rfl) fun xs => ?_,
    ⟨_, lred_does fun _ _ _ _ => rfl, rfl, fun xs => lrmin_least⟩, ⟨_, lred_does fun _ _ _ _ => rfl, rfl, fun xs => lrmax_greatest⟩,
    ⟨_, lred_does fun _ _ _ _ => rfl, by decide, fun xs => lrfadd_nan, fun xs => lrfadd_zeros, fun xs ys => lrfadd_perm, by decide⟩,
    ⟨greatest, lred_does fun _ _ _ _ => rfl, rfl, fun xs => greatest_nans, fun xs => greatest_number⟩⟩
  · exact List.foldl_eq_foldr ..
  · exact List.foldl_eq_foldr ..
  · exact List.foldl_eq_foldr ..
  · exact List.foldl_eq_foldr ..

end Sys2Proof.Machine
end

section
/-!
SUPPORT. The scalar ALU (R242, Table 9-9).
-/
namespace Sys2Proof.Machine

/-- A scalar compare writes 1 where its condition holds (R242). -/
theorem salu_cond {mk : Reg → Reg → SOp → Instr} {k : Nat} {P : Word → Word → Prop} [∀ a b, Decidable (P a b)]
    (runs : ∀ d a b s, exec (mk d a b) s = .next (salu (fun a b => if icmp k a b then 1#32 else 0#32) d a b s))
    (cond : ∀ a b, icmp k a b = true ↔ P a b) : ScalarDoes mk (fun a b => if P a b then 1#32 else 0#32) := by
  have same : (fun a b => if P a b then 1#32 else 0#32) = fun a b => if icmp k a b then 1#32 else 0#32 :=
    funext fun a => funext fun b => if_congr (cond a b).symm rfl rfl
  rw [same]
  exact salu_does runs

/-- Settles O17: each scalar instruction writes its row of Table 9-9 to its scalar or pair, the compares 1 where their condition holds. -/
theorem scalarAlu : Obligations.ScalarAlu := by
  unfold Obligations.ScalarAlu
  simp only [← wsar_eq, ← wimin_eq, ← wimax_eq, ← wumin_eq, ← wumax_eq]
  refine ⟨salu_does fun _ _ _ _ => rfl, salu_does fun _ _ _ _ => rfl, salu_does fun _ _ _ _ => rfl, salu_does fun _ _ _ _ => rfl,
    salu_does fun _ _ _ _ => rfl, salu_does fun _ _ _ _ => rfl, salu_does fun _ _ _ _ => rfl, salu_does fun _ _ _ _ => rfl,
    salu_does fun _ _ _ _ => rfl, salu_does fun _ _ _ _ => rfl, salu_does fun _ _ _ _ => rfl, salu_does fun _ _ _ _ => rfl,
    salu_does fun _ _ _ _ => rfl, salu64_does fun _ _ _ _ => rfl, salu64_does fun _ _ _ _ => rfl,
    fun d b s clean => ⟨_, rfl, scalarOp_put clean⟩, salu_cond (fun _ _ _ _ => rfl) icmp_eq, ?_, salu_cond (fun _ _ _ _ => rfl) icmp_lt,
    salu_cond (fun _ _ _ _ => rfl) icmp_le, salu_cond (fun _ _ _ _ => rfl) icmp_gt, salu_cond (fun _ _ _ _ => rfl) icmp_ge,
    salu_cond (fun _ _ _ _ => rfl) icmp_ltu, salu_cond (fun _ _ _ _ => rfl) icmp_geu⟩
  simpa only [ne_eq, ite_not] using salu_cond (mk := .sne) (fun _ _ _ _ => rfl) icmp_ne

end Sys2Proof.Machine
end

section
/-!
SUPPORT. Transfers of control and the end of a cohort (R210, R250, R251, Table 9-13).
-/
namespace Sys2Proof.Machine

/-! ## Targets and fetches (R210, R250) -/

/-- Which targets a transfer refuses (R210). -/
theorem targetOk_iff {priv : Bool} {t : Int} :
    targetOk priv t = true ↔ ¬ (t < 0 ∨ 2 ^ 56 ≤ t ∨ t % 2 = 1 ∨ (priv = false ∧ 2 ^ 55 ≤ t)) := by
  have bits := Int.emod_two_eq t
  cases priv <;> simp [targetOk] <;> omega

/-- A transfer that lands has a target that is not refused. -/
theorem Lands.targetOk {s u : State} {t : Int} (lands : Lands s t u) : targetOk s.me.priv t = true := by
  have even := lands.even
  have low := lands.low
  have high := lands.high
  rw [targetOk_iff]
  rintro (h | h | h | ⟨user, h⟩)
  · omega
  · omega
  · omega
  · rcases lands.user with sup | near
    · rw [user] at sup
      cases sup
    · omega

/-- A parcel that a fetch waits for is not fetched, or the ones after it are waited for. -/
theorem State.codeWaits_succ {s : State} {priv : Bool} {va n : Nat} (waits : s.codeWaits priv va (n + 1) = true) :
    (s.fetchParcel priv va).2 = none ∨ (s.fetchParcel priv va).1.codeWaits priv (va + 2) n = true := by
  unfold State.codeWaits at waits
  unfold State.fetchParcel
  generalize translate s.dev s.co.asid priv .fetch .plain va = x at waits
  obtain ⟨d, out⟩ := x
  rcases out with l | _ | _
  · by_cases held : d.codeHeld l = true
    · exact .inl (if_pos held)
    · exact .inr ((Bool.or_eq_true_iff.1 waits).resolve_left held)
  · exact .inl rfl
  · exact .inl rfl

/-- A word that a fetch waits for is not fetched. -/
theorem State.fetchWord_waits {s : State} {priv : Bool} {va : Nat} (waits : s.codeWaits priv va 2 = true) :
    (s.fetchWord priv va).2 = none := by
  have first := State.codeWaits_succ waits
  unfold State.fetchWord
  generalize s.fetchParcel priv va = x at first
  obtain ⟨u, p⟩ := x
  cases p with
  | none => rfl
  | some p =>
    have second := State.codeWaits_succ (first.resolve_left (Option.some_ne_none p))
    dsimp only
    generalize u.fetchParcel priv (va + 2) = y at second
    obtain ⟨v, q⟩ := y
    cases q with
    | none => rfl
    | some q => exact absurd (second.resolve_left (Option.some_ne_none q)) Bool.false_ne_true

/-- A fetch only looks at the device. -/
theorem State.fetchWord_of {s u : State} {priv : Bool} {va : Nat} {w : Option Word} (fetched : s.fetchWord priv va = (u, w)) : LookedAt s u := by
  rw [← show (s.fetchWord priv va).1 = u from congrArg Prod.fst fetched]
  exact s.fetchWord_looked priv va

/-! ## Transfers -/

/-- The cohort with its link written, before a transfer of `n` bytes retires. -/
def Cohort.linked (c : Cohort) (n : Nat) : Option Reg → Cohort
  | some d => c.sput64 d.toNat (BitVec.ofNat 64 (c.pc.toNat + n))
  | none => c

/-- A link moves nothing of the cohort but its scalars. -/
theorem Cohort.linked_eq (c : Cohort) (n : Nat) (link : Option Reg) :
    c.linked n link = { c with s := (c.linked n link).s, sp := (c.linked n link).sp } := by
  cases link <;> rfl

/-- The state once cohort `c` has transferred to `t` by an instruction of `n` bytes. -/
def State.landed (u : State) (n : Nat) (t : Int) (c : Cohort) : State := u.setMe { c.retire n with pc := BitVec.ofInt 56 t }

/-- What landing leaves as it was. -/
theorem State.landed_jumped {s : State} {d : Device} (looked : Looked s.dev d) (n : Nat) (t : Int) (x : Store Word) (m : Mask) :
    Jumped s ((s.setDev d).landed n t { s.me with s := x, sp := m }) (BitVec.ofInt 56 t) :=
  ⟨rfl, rfl, rfl, rfl, looked, rfl, rfl, rfl, rfl⟩

section
variable {s u : State} {t : Int} {w : Word} (n : Nat) (link : Option Reg)

/-- The outcomes of a transfer (R210, R250): its target is refused, its fetch waits or does not perform, the word is no header, or it lands. -/
theorem transfer_bad (bad : targetOk s.me.priv t = false) : transfer n t link s = s.ill 7 :=
  if_pos bad

variable (ok : targetOk s.me.priv t = true)
include ok

theorem transfer_waits (waits : s.codeWaits s.me.priv t.toNat 2 = true) : transfer n t link s = s := by
  simp only [transfer, ok, Bool.true_eq_false, if_false, State.fetchWord_waits waits, waits, if_true]

theorem transfer_unfetched (fetched : s.fetchWord s.me.priv t.toNat = (u, none)) (now : s.codeWaits s.me.priv t.toNat 2 = false) :
    transfer n t link s = u.accessTrap 4 7 s.me.present := by
  simp only [transfer, ok, Bool.true_eq_false, if_false, fetched, now, Bool.false_eq_true]

theorem transfer_other (fetched : s.fetchWord s.me.priv t.toNat = (u, some w)) (other : isHeader w = false) :
    transfer n t link s = u.ill 7 := by
  simp only [transfer, ok, Bool.true_eq_false, if_false, fetched, other, Bool.false_eq_true]

theorem transfer_header (fetched : s.fetchWord s.me.priv t.toNat = (u, some w)) (header : isHeader w = true) :
    transfer n t link s = u.landed n t (s.me.linked n link) := by
  have me : u.me = s.me := (congrArg State.me (State.fetchWord_of fetched).rest :)
  simp only [transfer, ok, Bool.true_eq_false, if_false, fetched, header, if_true, me]
  cases link <;> rfl

end

/-- A transfer that lands: the cohort at its target, with its link written. -/
theorem transfer_lands {s u : State} {t : Int} (lands : Lands s t u) (n : Nat) (link : Option Reg) :
    Jumped s (transfer n t link s) (BitVec.ofInt 56 t) ∧ (transfer n t link s).dev = u.dev ∧
      (transfer n t link s).me.s = (s.me.linked n link).s ∧ (transfer n t link s).me.sp = (s.me.linked n link).sp := by
  obtain ⟨w, fetched, lsb, major⟩ := lands.header
  have looked := State.fetchWord_of fetched
  rw [transfer_header n link lands.targetOk fetched ((isHeader_iff w).2 ⟨lsb, major⟩), looked.eq, Cohort.linked_eq]
  exact ⟨State.landed_jumped looked.dev n t _ _, rfl, rfl, rfl⟩

/-! ## Branches -/

/-- A branch whose sources hold no poison transfers, or passes its literal. -/
theorem branch_clean {s : State} {ss : List Nat} {taken : Cohort → Bool} (off : Word) (link : Option Reg)
    (clean : ∀ r ∈ ss, s.me.spoison r = false) : branch ss taken off link s =
      if taken s.me then transfer 8 ((s.me.pc.toNat : Int) + off.toInt) link s else s.retire 8 :=
  if_neg (by simpa using clean)

/-- What a relative branch without a link does (R250). -/
theorem branch_does {mk : Word → Instr} {ss : List Nat} {taken : Cohort → Bool} {P : Cohort → Prop}
    (runs : ∀ off s, exec (mk off) s = .next (branch ss taken off none s)) (cond : ∀ c, taken c = true ↔ P c) : BranchDoes mk ss P := by
  intro off s clean
  refine ⟨fun stays => ?_, fun goes u lands => ⟨_, runs off s, ?_⟩⟩
  · rw [runs, branch_clean off none clean, if_neg (by rwa [cond])]
  · rw [branch_clean off none clean, if_pos ((cond _).2 goes)]
    obtain ⟨jumped, dev, scalars, poison⟩ := transfer_lands lands 8 none
    exact ⟨jumped, scalars, poison, dev⟩

/-- CALL transfers to a relative target with a link (R250). -/
theorem exec_call (d : Reg) (off : Word) (s : State) : exec (.call d off) s = .next (transfer 8 (s.me.pc.toNat + off.toInt) (some d) s) := rfl

/-- JMP transfers to the address in a pair of scalars (R250). -/
theorem exec_jmp {a : Reg} {s : State} (low : s.me.spoison a.toNat = false) (high : s.me.spoison (a.toNat + 1) = false) :
    exec (.jmp a) s = .next (transfer 4 (s.me.sget (a.toNat + 1) ++ s.me.sget a.toNat).toNat none s) :=
  congrArg Host.Outcome.next (if_neg (by simp [low, high]))

/-- A CALL that lands writes the address after it to its pair. -/
theorem call_lands {d : Reg} {off : Word} {s u : State} (lands : Lands s (s.me.pc.toNat + off.toInt) u) :
    ∃ t, exec (.call d off) s = .next t ∧ Jumped s t (BitVec.ofInt 56 (s.me.pc.toNat + off.toInt)) ∧ t.dev = u.dev ∧
      Scalar2 s t d.toNat (BitVec.ofNat 64 (s.me.pc.toNat + 8)) := by
  obtain ⟨jumped, dev, scalars, poison⟩ := transfer_lands lands 8 (some d)
  exact ⟨_, exec_call d off s, jumped, dev, (scalar2_of s d.toNat 8 _).2.congr scalars poison⟩

/-- A call that does not land raises its trap where it stands (R210, R250). -/
theorem call_traps {d : Reg} {off : Word} {s u : State} {code sub : Nat} (looked : LookedAt s u) (plain : s.recording = false)
    (raises : transfer 8 (s.me.pc.toNat + off.toInt) (some d) s = u.queueTrap code sub s.me.present 0) :
    ∃ t, exec (.call d off) s = .next t ∧ Trapped u t code sub s.me.present 0 :=
  ⟨_, (exec_call d off s).trans (congrArg Host.Outcome.next raises), u.queueTrap_does code sub s.me.present 0 (looked.recording.trans plain)⟩

/-- Settles O18: what `transfer` makes of a target, for each branch, CALL and JMP. That the fault mask of #PF FETCH is the present lanes (log
entry 29) and that a fetch of a word that is still on its way waits (log entry 90) are choices of the model. -/
theorem transfers : Obligations.Transfers := by
  unfold Obligations.Transfers
  refine ⟨⟨branch_does (fun _ _ => rfl) fun _ => by simp, branch_does (fun _ _ => rfl) fun _ => beq_iff_eq,
    fun a => branch_does (fun _ _ => rfl) fun _ => beq_iff_eq, fun a => branch_does (fun _ _ => rfl) fun _ => bne_iff_ne,
    fun a => branch_does (fun _ _ => rfl) fun _ => beq_iff_eq, fun a => branch_does (fun _ _ => rfl) fun _ => bne_iff_ne,
    fun d off s u lands => call_lands lands, ?jmp⟩, ?call⟩
  case jmp =>
    intro a s u low high lands
    obtain ⟨jumped, dev, scalars, poison⟩ := transfer_lands lands 4 none
    exact ⟨_, exec_jmp low high, by rwa [BitVec.ofInt_natCast] at jumped, scalars, poison, dev⟩
  case call =>
    intro d off s plain target bad
    have ok (good : ¬ bad) : targetOk s.me.priv target = true := targetOk_iff.2 good
    refine ⟨fun isBad => ?_, fun good waits => ?_, fun good now u fetched => ?_, fun good u w fetched other => ?_⟩
    · refine call_traps (LookedAt.refl s) plain (transfer_bad 8 _ (Bool.eq_false_iff.2 fun fits => ?_))
      exact targetOk_iff.1 fits isBad
    · exact (exec_call d off s).trans (congrArg Host.Outcome.next (transfer_waits 8 _ (ok good) waits))
    · have looked := State.fetchWord_of fetched
      have unfetched := transfer_unfetched 8 (some d) (ok good) fetched now
      have priv : u.me.priv = s.me.priv := (congrArg (·.me.priv) looked.rest :)
      cases mode : s.me.priv with
      | false =>
        obtain ⟨t, runs, trapped⟩ := call_traps looked plain (unfetched.trans (u.accessTrap_user 4 7 _ (priv.trans mode)))
        exact ⟨looked, t, runs, fun _ => trapped, fun sup => absurd sup Bool.false_ne_true⟩
      | true =>
        obtain ⟨t, runs, trapped⟩ := call_traps looked plain (unfetched.trans (u.accessTrap_nested 4 7 _ (priv.trans mode) (.inr rfl)))
        exact ⟨looked, t, runs, fun user => absurd user.symm Bool.false_ne_true, fun _ => trapped⟩
    · have looked := State.fetchWord_of fetched
      have present : u.me.present = s.me.present := (congrArg (·.me.present) looked.rest :)
      have plainWord : isHeader w = false := Bool.eq_false_iff.2 fun header => by
        obtain ⟨lsb, major⟩ := (isHeader_iff w).1 header
        rcases other with h | h
        · rw [lsb] at h
          cases h
        · exact h major
      refine ⟨looked, call_traps looked plain ?_⟩
      rw [transfer_other 8 _ (ok good) fetched plainWord, State.ill, present]

/-- With no cohort at the barrier no barrier closes. -/
theorem State.closeBar_none {s : State} (none : s.co.barArrived = []) : s.closeBar = s :=
  if_neg (by simp [Company.barFull, none])

/-- With no company at a grid barrier none closes. -/
theorem State.closeGrid_none {s : State} (none : ∀ l ∈ s.cx.launches, l.garrived = []) : s.closeGrid = s := by
  unfold State.closeGrid
  cases found : s.launch? with
  | none => rfl
  | some l =>
    have := none l (List.mem_of_find?_eq_some found)
    simp [this]

/-- What outlives its cohort. -/
theorem MemOp.outlives_of {o : MemOp} (kind : o.kind = .store ∨ o.kind = .storeZ ∨ o.kind = .fence ∨ ∃ r b, o.kind = .rmw r b) :
    o.outlives = true := by
  rcases kind with h | h | h | ⟨r, b, h⟩ <;> simp only [MemOp.outlives, h]

/-- No load outlives its cohort (R251). -/
theorem MemOp.not_load_of_outlives {o : MemOp} (kept : o.outlives = true) (z) : o.kind ≠ .load z ∧ o.kind ≠ .ldu z := by
  constructor <;> intro h <;> simp only [MemOp.outlives, h] at kept <;> cases kept

/-- The state once the current cohort has ended: its registers returned and its loads discarded. -/
def State.exited (s : State) : State := { s.retire 4 with
  me := { s.me.retire 4 with stat := .ended, v := [], active := false, ops := s.me.ops.filter MemOp.outlives }
  co := { s.co with ended := s.co.ended ++ [s.me.j] } }

/-- Settles O24: the state that EXIT leaves is `State.exited`, whose operations are those that outlive the cohort. How a fence
that is outstanding is treated at EXIT is log entry 30, the model's reading; here it stays among the ended cohort's operations. -/
theorem cohortEnd : Obligations.CohortEnd := by
  unfold Obligations.CohortEnd
  intro s user alone barrier grid
  refine ⟨s.exited, s.me.ops.filter MemOp.outlives, ?_, rfl, List.filter_sublist, fun o mem => ?_, fun o mem kind => ?_⟩
  · have stays : s.leaveGang = s := if_pos alone
    refine congrArg Host.Outcome.next ((if_neg (by simp [user])).trans ?_)
    rw [stays]
    exact (congrArg State.closeGrid (State.closeBar_none (s := s.exited) barrier)).trans (State.closeGrid_none (s := s.exited) grid)
  · exact MemOp.not_load_of_outlives (List.mem_filter.1 mem).2
  · exact List.mem_filter.2 ⟨mem, MemOp.outlives_of kind⟩

end Sys2Proof.Machine
end

section
/-!
SUPPORT. Words that the spec assembles (R252, R312, R432).
-/
namespace Sys2Proof.Machine

/-- Settles O57: the decoder is run on each word. -/
theorem decodeWords : Obligations.DecodeWords := by
  unfold Obligations.DecodeWords
  exact ⟨rfl, rfl, rfl, rfl, rfl, rfl, rfl, rfl, rfl, rfl, rfl, rfl, rfl, rfl, rfl, rfl, rfl, rfl⟩

end Sys2Proof.Machine
end

section
/-!
Loads, stores, atomics and reductions, instruction by instruction (R253 to R267, R196).
-/
namespace Sys2Proof.Machine

/-! ## Stores of no bytes -/

/-- What a ST.B0 asks once its lanes are checked (R47, R112, R259). -/
def storeZJob (o : MemOps0) : MemJob :=
  { asks o.w.toNat .empty 0 o.u .storeZ with
    align := 1, aln := false, fkind := 1, vs := [o.a.toNat], frees := if o.ma then [o.a.toNat] else [], scope := o.c.toNat, rel := o.o
    sum := some fun _ => [] }

/-- How many checks failed. -/
def failedChecks (cs : List LaneChk) : Nat :=
  (cs.filter fun c => match c.out with
    | .fault _ => true
    | _ => false).length

section
variable (o : MemOps0) {s u : State} {cs : List LaneChk}
  (checked : s.checkLanes o.w.toNat .empty .plain ((s.me.offsets o.u o.a).map fun x => (x.1, x.2, 0)) = (u, cs))
include checked

/-- A ST.B0 whose checks all end issues its write of no bytes and counts those that failed. -/
theorem exec_stB0 (unrecorded : s.recording = false) (clean : s.me.mce o.u [o.a.toNat] [] = 0#64) (active : s.me.act ≠ 0#64)
    (ends : ∀ c ∈ cs, c.out ≠ .wait) :
    exec (.stB0 o) s = .next (((storeZJob o).state s u (cs.map LaneChk.suppress)).supfail (failedChecks cs)) := by
  have looked : LaneChecked s u := (congrArg (LaneChecked s ·.1) checked).mp (State.checkLanes_does ..)
  have goes : ¬ (cs.any (fun c => c.out == .wait) = true) := by simpa using ends
  refine congrArg Host.Outcome.next ((if_neg (by simp [clean])).trans ((if_neg active).trans ?_))
  rw [checked, ← State.issueOp_eq s u (storeZJob o) _ looked unrecorded]
  exact if_neg goes

end

/-! ## Atomics and reductions as requests -/

/-- The words of a lane in a group, by the names of the group. -/
theorem Cohort.laneBytes_eq (c : Cohort) (d n : Nat) :
    c.laneBytes d n = fun i => (groupNames d n).flatMap fun r => leBytes 4 ((c.vget r).lane i).toNat :=
  funext fun i => by rw [Cohort.laneBytes, groupNames, List.flatMap_map]

/-- What an atomic asks (R261, R262): its operands are the words of its data group, of which CAS has two. -/
def atomJob (op : Nat) (rel acq : Bool) (o : AtomOps) (c : Cohort) : MemJob :=
  let n := if o.z then 8 else 4
  let names := groupNames o.d.toNat (n / 4 * (if op = 7 then 2 else 1))
  let data (i : Nat) : List Byte := names.flatMap fun r => leBytes 4 ((c.vget r).lane i).toNat
  { asks o.w.toNat .atomic n o.u (.rmw (.int op n) true) with
    reach := .rmw (hostAtomic op), fkind := 2, vs := o.a.toNat :: names, frees := if o.ma then [o.a.toNat] else [], scope := o.c.toNat
    acq := acq, rel := rel, flag := some o.f, d := o.d.toNat, dst := groupNames o.d.toNat (n / 4), offs := c.offsets o.u o.a
    data := data, sum := some data }

/-- What an integer reduction asks (R263). -/
def redniJob (b : Nat) (o : AtomOps) (c : Cohort) : MemJob :=
  let n := if o.z then 8 else 4
  let data (i : Nat) : List Byte := (groupNames o.d.toNat (n / 4)).flatMap fun r => leBytes 4 ((c.vget r).lane i).toNat
  { asks o.w.toNat .atomic n o.u (.rmw (.int (redCode b) n) false) with
    reach := .rmw (b == 0), fkind := 3, vs := o.a.toNat :: groupNames o.d.toNat (n / 4), frees := if o.ma then [o.a.toNat] else []
    scope := o.c.toNat, rel := o.q, d := o.d.toNat, offs := c.offsets o.u o.a, data := data, sum := some data }

/-- What an element-wise update asks (R266): the mask of a lane's elements, then the operands. -/
def bewJob (op k : Nat) (o : AtomOps) (c : Cohort) : MemJob :=
  let data (i : Nat) : List Byte := (groupNames o.d.toNat k).flatMap fun r => leBytes 4 ((c.vget r).lane i).toNat
  { asks o.w.toNat .atomic 64 o.u (.rmw (.bew op o.z) false) with
    reach := .cell, fkind := 3, vs := o.a.toNat :: groupNames o.d.toNat k, frees := if o.ma then [o.a.toNat] else [], scope := o.c.toNat
    rel := o.q, d := o.d.toNat, offs := c.offsets o.u o.a, data := data, sum := some data
    cnt := some (31, ((lanesOf (c.readers o.u)).map fun i => popcount (bewMask o.z ((c.vget o.d.toNat).lane i))).foldl (· + ·) 0) }

theorem atomic_eq (op : Nat) (rel acq : Bool) (o : AtomOps) {s : State} (cls : s.co.hdr.cls ≠ 0) :
    atomic op rel acq o s = memIssue (atomJob op rel acq o s.me) s := by
  unfold atomic
  simp only [Cohort.laneBytes_eq]
  exact replayable_class _ cls

theorem redni_eq (b : Nat) (o : AtomOps) (s : State) : redni b o s = memIssue (redniJob b o s.me) s := by
  unfold redni
  simp only [Cohort.laneBytes_eq]
  rfl

theorem bew_eq (op k : Nat) (o : AtomOps) (s : State) : bew op k o s = memIssue (bewJob op k o s.me) s := by
  unfold bew
  simp only [Cohort.laneBytes_eq]
  rfl

theorem atomic_does {i : Instr} {op : Nat} {rel : Bool} {o : AtomOps} (means : ∀ s, exec i s = .next (atomic op rel o.q o s)) :
    AccessDoes (fun s => s.co.hdr.cls ≠ 0) i (atomJob op rel o.q o) :=
  access_does fun s cls => (means s).trans (congrArg _ (atomic_eq op rel o.q o cls))

theorem redni_does {i : Instr} {b : Nat} {o : AtomOps} (means : ∀ s, exec i s = .next (redni b o s)) :
    AccessDoes (fun _ => True) i (redniJob b o) :=
  access_does fun s _ => (means s).trans (congrArg _ (redni_eq b o s))

theorem bew_does {i : Instr} {op k : Nat} {o : AtomOps} (means : ∀ s, exec i s = .next (bew op k o s)) :
    AccessDoes (fun _ => True) i (bewJob op k o) :=
  access_does fun s _ => (means s).trans (congrArg _ (bew_eq op k o s))

/-! ## The obligations -/

/-- Settles O28: each of LD, ST and LDU is one request, and a ST.B0 writes no bytes and counts the checks that fail. That the flag of a
store has fallen again at issue (log entry 19) is a choice of the model that the statement takes over. -/
theorem loadsAndStores : Obligations.LoadsAndStores := by
  unfold Obligations.LoadsAndStores
  refine ⟨fun o => access_does fun _ _ => rfl, fun o => access_does fun _ _ => rfl, fun o => access_does fun _ _ => rfl, ?_⟩
  intro o s u cs unrecorded active clean checked ends
  have looked : LaneChecked s u := (congrArg (LaneChecked s ·.1) checked).mp (State.checkLanes_does ..)
  have issued := (storeZJob o).state_issued s u (cs.map LaneChk.suppress) looked
  have kept : u.cx = s.cx := (congrArg State.cx looked.rest : _)
  refine ⟨_, _, exec_stB0 o checked unrecorded clean active ends,
    ⟨issued.retired.pc, issued.retired.icount, issued.retired.wait⟩, issued.op, rfl, rfl, rfl, ?_, ?_, looked.dev, rfl, ?_, issued.frame⟩
  · intro l listed
    obtain ⟨c, -, rfl⟩ := List.mem_map.1 listed
    exact ⟨rfl, rfl⟩
  · simp [opOf]
  · rw [← kept]
    rfl

/-- Settles O29, row by row. That the flag of a reduction stays as it is (log entry 19) is a choice of the model that the statement takes
over. -/
theorem atomicsAndReductions : Obligations.AtomicsAndReductions := by
  unfold Obligations.AtomicsAndReductions
  intro free class1 any atom red fred rd bew
  refine ⟨?_, ?_, ?_, ?_, ?_, fun o => access_does fun _ _ => rfl, ?_, ?_⟩ <;> intro row listed o <;>
    simp only [List.mem_cons, List.not_mem_nil, or_false] at listed
  case refine_1 => rcases listed with rfl | rfl | rfl | rfl | rfl | rfl | rfl | rfl <;> exact atomic_does fun _ => rfl
  case refine_2 => rcases listed with rfl | rfl | rfl | rfl | rfl | rfl | rfl | rfl <;> exact atomic_does fun _ => rfl
  case refine_3 =>
    rcases listed with rfl | rfl | rfl | rfl | rfl | rfl | rfl | rfl
    · exact redni_does (b := 0) fun _ => rfl
    · exact redni_does (b := 1) fun _ => rfl
    · exact redni_does (b := 2) fun _ => rfl
    · exact redni_does (b := 3) fun _ => rfl
    · exact redni_does (b := 4) fun _ => rfl
    · exact redni_does (b := 5) fun _ => rfl
    · exact redni_does (b := 6) fun _ => rfl
    · exact redni_does (b := 7) fun _ => rfl
  case refine_4 =>
    rcases listed with rfl | rfl | rfl <;> exact access_does fun _ cls => congrArg Host.Outcome.next (replayable_class (memIssue _) cls)
  case refine_5 => rcases listed with rfl | rfl | rfl <;> exact access_does fun _ _ => rfl
  case refine_6 => rcases listed with rfl | rfl | rfl <;> exact access_does fun _ _ => rfl
  case refine_7 => rcases listed with rfl | rfl | rfl | rfl | rfl <;> exact bew_does fun _ => rfl

end Sys2Proof.Machine
end

section
/-!
SUPPORT. Copies (R273 to R275, R81 to R83): what issuing pieces leaves of the device, and a copy whose checks pass.
-/
namespace Sys2Proof.Machine

/-! ## Pieces in the device -/

/-- The caches and the directory of another value of the device, but for the count of new blocks. -/
def Device.recached (d e : Device) : Device := { d with dir := e.dir, l2 := e.l2, l3 := e.l3 }

/-- A line that every L2 gives up leaves the caches and the directory (R66). -/
theorem Device.dirRecall_rest (d : Device) (line : Nat) : d.dirRecall line = d.recached (d.dirRecall line) := by
  unfold Device.dirRecall Device.l2Drop
  dsimp only
  split <;> rfl

theorem Device.foldl_dirRecall_rest (first : Nat) (ks : List Nat) : ∀ d : Device,
    ks.foldl (fun d k => d.dirRecall (first + k)) d = d.recached (ks.foldl (fun d k => d.dirRecall (first + k)) d) := by
  induction ks with
  | nil => exact fun _ => rfl
  | cons k ks ih =>
    intro d
    rw [List.foldl_cons, ih, d.dirRecall_rest]
    rfl

/-- The destination lines of a piece leave the caches, and nothing else changes (R83). -/
theorem Device.takeE_rest (d : Device) (p : Piece) : d.takeE p = d.recached (d.takeE p) := by
  unfold Device.takeE
  split
  · next o _ =>
    split
    · rfl
    · rw [Device.foldl_dirRecall_rest (o / 64) (List.range ((o + p.dst.len + 63) / 64 - o / 64)) d]
      rfl
  · rfl

/-- Pieces under the identifiers from `n` on. -/
def numbered (n : Nat) (ps : List Piece) : List Piece := ps.mapIdx fun i p => { p with id := n + i }

theorem numbered_cons (n : Nat) (p : Piece) (ps : List Piece) : numbered n (p :: ps) = { p with id := n } :: numbered (n + 1) ps := by
  simp [numbered, List.mapIdx_cons, Nat.add_assoc, Nat.add_comm 1]

theorem numbered_ids (n : Nat) (ps : List Piece) : (numbered n ps).map (·.id) = (List.range ps.length).map fun i => n + i := by
  apply List.ext_getElem <;> simp [numbered]

theorem numbered_erased (n : Nat) (ps : List Piece) (fresh : ∀ p ∈ ps, p.id = 0) : (numbered n ps).map (fun p => { p with id := 0 }) = ps := by
  induction ps generalizing n with
  | nil => rfl
  | cons p ps ih =>
    have zero : ({ p with id := 0 } : Piece) = p := by rw [← fresh p List.mem_cons_self]
    rw [numbered_cons, List.map_cons, ih _ fun q listed => fresh q (List.mem_cons_of_mem _ listed), zero]

/-- Issuing pieces queues them under the next identifiers and takes their lines out of the caches (R81, R83). -/
theorem Device.issuePieces_eq (ps : List Piece) : ∀ d : Device, d.issuePieces ps =
    Device.recached { d with pieces := d.pieces ++ numbered d.nextId ps, nextId := d.nextId + ps.length } (d.issuePieces ps) := by
  induction ps with
  | nil => intro d; simp [Device.issuePieces, numbered, Device.recached]
  | cons p ps ih =>
    intro d
    have step : d.issuePieces (p :: ps) =
        Device.issuePieces { d.takeE p with pieces := d.pieces ++ [{ p with id := d.nextId }], nextId := d.nextId + 1 } ps := rfl
    rw [step, ih, d.takeE_rest, numbered_cons]
    simp [Device.recached, Nat.add_assoc, Nat.add_comm 1]

theorem rowPieces_fresh {owner : CopyOwner} {batch : Option Nat} {asid cluster at' len : Nat} {src dst : List Seg} :
    ∀ p ∈ rowPieces owner batch asid cluster at' src dst len, p.id = 0 := by
  intro p listed
  obtain ⟨x, -, made⟩ := List.mem_filterMap.1 listed
  split at made <;> cases made
  rfl

/-! ## A copy whose checks pass -/

/-- A copy in a state where its shape and its descriptor pass the tests that come before the checks of pages (R274). -/
structure CopyFits (s : State) (dw sw dk sk : Nat) (c : CpyDesc) : Prop where
  bytes : 0 < c.len
  rows : 0 < c.rows
  source : (s.me.window sw).kind = sk
  target : (s.me.window dw).kind = dk
  aligned : c.aligned = true
  inSource : rowsIn c.src c.sstep c.rows c.len = true
  inTarget : rowsIn c.dst c.dstep c.rows c.len = true
  short : c.rows ≤ 1024
  small : c.len ≤ 1024 * 4096

/-- The start offsets of the rows of a side. -/
def rowOffs (o : Nat) (step : Int) (rows : Nat) : List Nat := (List.range rows).map fun r => (rowStart o step r).toNat

/-- The pieces that a copy of the current cohort issues for checked rows: those of each row in order (R81). -/
def State.copyPieces (s : State) (dw : Nat) (len : Nat) (os : List Nat) (xs ys : List (List (LaneChk × Nat))) : List Piece :=
  (os.zip (xs.zip ys)).flatMap fun x => rowPieces (.cohort s.co.dseq s.me.j) none s.co.asid (s.core / 16) ((s.me.window dw).addr x.1)
    (rowSegs x.2.1) (rowSegs x.2.2) len

/-- Checks of both sides that all perform report no page (R275). -/
theorem copyFrame_both {cs ds : List LaneChk} (perform : ∀ c ∈ cs ++ ds, ∃ l, c.out = .at l) (n0 : Nat) : copyFrame n0 cs ds = none := by
  refine if_pos ?_
  dsimp only
  rw [← List.filterMap_append, List.filterMap_eq_nil_iff.2 fun c listed => by
    obtain ⟨l, out⟩ := perform c listed
    rw [out]]
  simp

/-- Whether a context is recorded depends on the control registers, the record unit and the context's number (R392). -/
theorem State.recording_kept {s t : State} (ctrl : t.dev.ctrl = s.dev.ctrl) (unit : t.dev.recUnit = s.dev.recUnit) (asid : t.cx.asid = s.cx.asid) :
    t.recording = s.recording := by
  unfold State.recording State.recLive State.recMode Device.reg
  rw [ctrl, unit, asid]

theorem LaneChecked.recording {s u : State} (h : LaneChecked s u) : u.recording = s.recording :=
  State.recording_kept h.dev.ctrl.1 h.dev.ctrl.2 (congrArg (fun t : State => t.cx.asid) h.rest : _)

theorem State.recording_issuePieces (s : State) (ps : List Piece) : (s.setDev (s.dev.issuePieces ps)).recording = s.recording :=
  State.recording_kept (congrArg Device.ctrl (s.dev.issuePieces_eq ps) : _) (congrArg Device.recUnit (s.dev.issuePieces_eq ps) : _) rfl

/-- What the checks of both sides of a copy leave. -/
theorem State.sides_checked {s u v : State} {from' to' : Side} {len : Nat} {os ps : List Nat} {xs ys : List (List (LaneChk × Nat))}
    (first : s.sideChecks from' len os = (u, xs)) (second : u.sideChecks to' len ps = (v, ys)) : LaneChecked s v := by
  have source := State.sideChecks_does from' len os s
  have target := State.sideChecks_does to' len ps u
  rw [first] at source
  rw [second] at target
  exact source.trans target

/-- With nothing recorded no conflict place is logged. -/
theorem State.foldl_logPlace_off (s : State) (k : Nat) (ps : List Nat) (h : s.recording = false) : ps.foldl (fun t p => t.logPlace k p) s = s := by
  induction ps with
  | nil => rfl
  | cons p ps ih => rw [List.foldl_cons, s.logPlace_off _ _ h, ih]

/-- A side that is inside its local store has no row beyond it (R41, R274). -/
theorem Window.rows_inside {w : Window} {len room : Nat} {os : List Nat} (inside : w.kind = 2 → ∀ o ∈ os, w.addr o + len ≤ room) :
    (w.kind == 2 && os.any fun o => decide (room < w.addr o + len)) = false := by
  rw [Bool.and_eq_false_imp, beq_iff_eq]
  exact fun kind => List.any_eq_false.2 fun o listed => by simpa using inside kind o listed

section
variable {s u v : State} {dw sw dk sk : Nat} {c : CpyDesc} {xs ys : List (List (LaneChk × Nat))}

/-- A copy whose checks pass issues its pieces and retires (R274, R81). -/
theorem State.copy_passes (unrecorded : s.recording = false) (fits : CopyFits s dw sw dk sk c)
    (few : ((rowOffs c.dst c.dstep c.rows).map fun o => partCount 12 ((s.me.window dw).addr o) c.len).foldl (· + ·) 0 ≤ 1024)
    (srcIn : sk = 2 → ∀ o ∈ rowOffs c.src c.sstep c.rows, (s.me.window sw).addr o + c.len ≤ s.co.lsLen)
    (dstIn : dk = 2 → ∀ o ∈ rowOffs c.dst c.dstep c.rows, (s.me.window dw).addr o + c.len ≤ s.co.lsLen)
    (checkedSrc : s.sideChecks { win := sw, kind := sk, write := false } c.len (rowOffs c.src c.sstep c.rows) = (u, xs))
    (checkedDst : u.sideChecks { win := dw, kind := dk, write := true } c.len (rowOffs c.dst c.dstep c.rows) = (v, ys))
    (perform : ∀ x ∈ xs.flatten ++ ys.flatten, ∃ l, x.1.out = .at l)
    (apart : ∀ y ∈ ys, segsMeet s.co.dseq (rowSegs xs.flatten) (rowSegs y) = false) (disjoint : someMeet s.co.dseq (ys.map rowSegs) = false)
    (room : s.dev.piecesFit (s.core / 16) (s.copyPieces dw c.len (rowOffs c.dst c.dstep c.rows) xs ys) = true) :
    s.copy dw sw dk sk c =
      (v.setDev (v.dev.issuePieces (s.copyPieces dw c.len (rowOffs c.dst c.dstep c.rows) xs ys))).retire 4 := by
  obtain ⟨bytes, rows, source, target, aligned, inSource, inTarget, short, small⟩ := fits
  have looked := State.sides_checked checkedSrc checkedDst
  have performs : ∀ x ∈ xs.flatten.map Prod.fst ++ ys.flatten.map Prod.fst, ∃ l, x.out = .at l := by
    rw [← List.map_append]
    exact List.forall_mem_map.2 perform
  have segments : (xs.map rowSegs).flatten = rowSegs xs.flatten := List.map_flatten.symm
  have pieces : ((rowOffs c.dst c.dstep c.rows).zip ((xs.map rowSegs).zip (ys.map rowSegs))).flatMap (fun x =>
      rowPieces (.cohort s.co.dseq s.me.j) none s.co.asid (s.core / 16) ((s.me.window dw).addr x.1) x.2.1 x.2.2 c.len) =
      s.copyPieces dw c.len (rowOffs c.dst c.dstep c.rows) xs ys := by
    rw [List.zip_map, List.zip_map_right, List.flatMap_map]
    rfl
  have meets : (ys.map rowSegs).any (fun x => segsMeet s.co.dseq (rowSegs xs.flatten) x) = false := by simpa using apart
  have unheld : ∀ ps : List Nat, ps.any s.replayHolds = false := fun ps =>
    List.any_eq_false.2 fun p _ => by simp [s.replayHolds_off p unrecorded]
  unfold rowOffs at *
  unfold State.copy
  dsimp only
  rw [if_neg (by omega), if_neg (by simp [source, target]), if_neg (by simp [aligned]), if_neg (by simp [inSource, inTarget]; omega),
    if_neg (by omega), checkedSrc, checkedDst]
  dsimp only
  rw [if_neg, worst_performs performs, copyFrame_both performs, performs_no_wait performs, segments, meets, disjoint, pieces, room, unheld,
    State.foldl_logPlace_off]
  · rfl
  · rw [State.recording_issuePieces, looked.recording, unrecorded]
  · rw [Window.rows_inside (source ▸ srcIn), Window.rows_inside (target ▸ dstIn)]
    simp

end

/-- The state that a copy leaves which issues pieces: queued under the next identifiers, and nothing else changed but what the checks
of its pages and the caches have (R81 to R83). -/
structure Copied (s v t : State) (ps qs : List Piece) : Prop where
  retired : Retired s t 4
  same : qs.map (fun p => { p with id := 0 }) = ps
  ids : qs.map (·.id) = (List.range ps.length).map fun i => s.dev.nextId + i
  dev : t.dev = Device.recached { v.dev with pieces := s.dev.pieces ++ qs, nextId := s.dev.nextId + ps.length } t.dev
  looked : Looked s.dev v.dev
  windows : ∀ k, { t.me.window k with dt := (s.me.window k).dt } = s.me.window k
  quiet : { t.me.quiet with win := s.me.win } = s.me.quiet
  frame : t.co = s.co ∧ t.cx = s.cx ∧ t.turns = s.turns ∧ t.free = s.free

theorem Looked.pieces {d e : Device} (h : Looked d e) : e.pieces = d.pieces := (congrArg Device.pieces h.frame : _)

theorem LaneChecked.copied {s v : State} (h : LaneChecked s v) {ps : List Piece} (fresh : ∀ p ∈ ps, p.id = 0) :
    Copied s v ((v.setDev (v.dev.issuePieces ps)).retire 4) ps (numbered s.dev.nextId ps) where
  retired := by
    have me := h.me
    exact ⟨(congrArg (fun c : Cohort => c.pc + 4#56) me : _), (congrArg (fun c : Cohort => c.icount + 1) me : _), rfl⟩
  same := numbered_erased _ _ fresh
  ids := numbered_ids ..
  dev := by
    have issued := v.dev.issuePieces_eq ps
    rw [h.dev.nextId, h.dev.pieces] at issued
    exact issued
  looked := h.dev
  windows := h.windows
  quiet := by
    have me := h.me
    exact (congrArg (fun c : Cohort => { c.quiet with win := s.me.win }) me : _)
  frame := ⟨(congrArg State.co h.rest : _), (congrArg State.cx h.rest : _), (congrArg State.turns h.rest : _), (congrArg State.free h.rest : _)⟩

theorem State.copyPieces_fresh {s : State} {dw len : Nat} {os : List Nat} {xs ys : List (List (LaneChk × Nat))} :
    ∀ p ∈ s.copyPieces dw len os xs ys, p.id = 0 := by
  intro p listed
  obtain ⟨x, -, row⟩ := List.mem_flatMap.1 listed
  exact rowPieces_fresh p row

/-! ## Batches (R85, R276) -/

theorem Cohort.foldl_ferr_crget (us : List (Nat × Bool × Origin)) {i : Nat} (other : i ≠ 0x21) : ∀ c : Cohort,
    (us.foldl (fun c u => c.ferr u.1 u.2.1) c).crget i = c.crget i := by
  induction us with
  | nil => exact fun _ => rfl
  | cons u us ih =>
    intro c
    rw [List.foldl_cons, ih]
    unfold Cohort.ferr
    dsimp only
    rw [Cohort.crget_crput, if_neg other]

/-- A completion with error status leaves FERR set (R113, Table 4-4). -/
theorem Cohort.ferr_set (c : Cohort) (dev : Nat) (mcast : Bool) : ((c.ferr dev mcast).crget 0x21).getLsbD 31 = true := by
  unfold Cohort.ferr
  dsimp only
  rw [Cohort.crget_crput, if_pos rfl]
  generalize (c.crget 0x21) = x
  generalize BitVec.ofNat 32 (dev % 1024) = y
  cases h : x.getLsbD 31 <;> cases mcast <;> simp [h]

theorem Cohort.foldl_ferr_set (us : List (Nat × Bool × Origin)) (u : Nat × Bool × Origin) : ∀ c : Cohort,
    (((u :: us).foldl (fun c u => c.ferr u.1 u.2.1) c).crget 0x21).getLsbD 31 = true := by
  induction us generalizing u with
  | nil => exact fun c => c.ferr_set u.1 u.2.1
  | cons v us ih => exact fun c => ih v (c.ferr u.1 u.2.1)

/-- Covering failures changes control registers and the list of failures alone (R113). -/
theorem Cohort.coverIf_eq (c : Cohort) (f : Origin → Bool) :
    c.coverIf f = { c with cr := (c.coverIf f).cr, uncovered := c.uncovered.filter fun u => !f u.2.2 } := by
  unfold Cohort.coverIf
  rw [Cohort.foldl_ferr]

theorem Cohort.coverIf_none (c : Cohort) (f : Origin → Bool) (none : ∀ u ∈ c.uncovered, f u.2.2 = false) : (c.coverIf f).cr = c.cr := by
  have nothing : c.uncovered.filter (fun u => f u.2.2) = [] := List.filter_eq_nil_iff.2 fun u listed => by simp [none u listed]
  unfold Cohort.coverIf
  rw [nothing]
  rfl

theorem Cohort.coverIf_some (c : Cohort) (f : Origin → Bool) (some : ∃ u ∈ c.uncovered, f u.2.2 = true) :
    ((c.coverIf f).crget 0x21).getLsbD 31 = true := by
  obtain ⟨u, listed, seen⟩ := some
  unfold Cohort.coverIf
  cases found : c.uncovered.filter fun u => f u.2.2 with
  | nil => exact absurd (List.mem_filter.2 ⟨listed, seen⟩) (found ▸ List.not_mem_nil)
  | cons v vs => exact Cohort.foldl_ferr_set vs v c

theorem Cohort.coverIf_crget (c : Cohort) (f : Origin → Bool) {i : Nat} (other : i ≠ 0x21) : (c.coverIf f).crget i = c.crget i :=
  Cohort.foldl_ferr_crget _ other c

/-- The batches that CPYW waits for: all of them where the named one is ahead, else those up to it while it is not too old (Table 3-6). -/
theorem mem_awaited {l n b : Nat} {bs : List Nat} : b ∈ awaited l n bs ↔ b ∈ bs ∧
    (0x8000 ≤ (l + 2 ^ 16 - n) % 2 ^ 16 ∨ ((l + 2 ^ 16 - n) % 2 ^ 16 < 64 ∧ (l + 2 ^ 16 - n) % 2 ^ 16 ≤ (l + 2 ^ 16 - b) % 2 ^ 16)) := by
  unfold awaited
  generalize (l + 2 ^ 16 - n) % 2 ^ 16 = d
  dsimp only
  split
  · rw [List.mem_filter, decide_eq_true_eq]
    exact and_congr_right fun _ => by omega
  · split
    · simp only [List.not_mem_nil, false_iff]
      omega
    · exact ⟨fun listed => ⟨listed, by omega⟩, And.left⟩

theorem Origin.inBatch_iff {bs : List Nat} {o : Origin} : Origin.inBatch bs o = true ↔ ∃ b ∈ bs, o = .copy (some b) := by
  rcases o with id | _ | b
  · simp [Origin.inBatch]
  · simp [Origin.inBatch]
  · simp [Origin.inBatch]

/-- How many batches ago the last closed batch of a cohort was numbered `b` (Table 3-6). -/
def Cohort.back (c : Cohort) (b : Nat) : Nat := ((c.crget 0x22).toNat % 2 ^ 16 + 2 ^ 16 - b) % 2 ^ 16

/-- The cohort once its CPYW has read the number of a batch: one ahead of its own is a misuse, which cr.cpystat notes (Table 3-6). -/
def Cohort.named (c : Cohort) (n : Nat) : Cohort := if 0x8000 ≤ c.back n then c.crput 0x23 0x80000000#32 else c

theorem Cohort.named_eq (c : Cohort) (n : Nat) : c.named n = { c with cr := (c.named n).cr } := by
  unfold Cohort.named; split <;> rfl

theorem Cohort.named_crget (c : Cohort) (n : Nat) {i : Nat} (other : i ≠ 0x23) : (c.named n).crget i = c.crget i := by
  unfold Cohort.named
  split
  · rw [Cohort.crget_crput, if_neg other]
  · rfl

/-- The cohort once its CPYW goes on, having named batch `n`: the failures of the batches `bs` are covered (R113, R276). -/
def Cohort.awaitedAll (c : Cohort) (n : Nat) (bs : List Nat) : Cohort := (c.named n).coverIf (Origin.inBatch bs)

theorem exec_cpyw (f : Bool) {a : Reg} {s : State} (clean : s.me.spoison a.toNat = false) :
    let n := (s.me.sget a.toNat).toNat % 2 ^ 16
    let l := (s.me.crget 0x22).toNat % 2 ^ 16
    exec (.cpyw f a) s = .next (if (awaited l n s.openBatches).isEmpty then (s.setMe (s.me.awaitedAll n (awaited l n s.me.batches))).retire 4
      else (s.setMe (s.me.named n)).waitOn .cpyw) := by
  refine congrArg Host.Outcome.next ((if_neg (by simp [clean])).trans ?_)
  simp only [decide_eq_true_eq]
  rfl

section
variable (c : Cohort) (n : Nat) {bs : List Nat}

theorem Cohort.awaitedAll_rest : { c.awaitedAll n bs with cr := c.cr, uncovered := c.uncovered } = c := by
  rw [Cohort.awaitedAll, Cohort.coverIf_eq, Cohort.named_eq]

theorem Cohort.named_uncovered : (c.named n).uncovered = c.uncovered := by rw [Cohort.named_eq]

theorem Cohort.awaitedAll_unseen (unseen : ∀ x ∈ c.uncovered, ¬ Origin.inBatch bs x.2.2 = true) : (c.awaitedAll n bs).cr = (c.named n).cr :=
  Cohort.coverIf_none _ _ fun x listed => by simpa using unseen x (c.named_uncovered n ▸ listed)

theorem Cohort.awaitedAll_seen (seen : ∃ x ∈ c.uncovered, Origin.inBatch bs x.2.2 = true) :
    ((c.awaitedAll n bs).crget 0x21).getLsbD 31 = true :=
  Cohort.coverIf_some _ _ (by rwa [Cohort.named_uncovered])

theorem Cohort.awaitedAll_crget {i : Nat} (h : i ≠ 0x21) (k : i ≠ 0x23) : (c.awaitedAll n bs).crget i = c.crget i :=
  ((c.named n).coverIf_crget _ h).trans (c.named_crget n k)

theorem Cohort.mem_awaitedAll (x : Nat × Bool × Origin) :
    x ∈ (c.awaitedAll n bs).uncovered ↔ x ∈ c.uncovered ∧ ¬ Origin.inBatch bs x.2.2 = true := by
  rw [Cohort.awaitedAll, Cohort.coverIf_eq, Cohort.named_uncovered]
  simp

end

/-- The state that a CPYB leaves: the batch of the open pieces closed under number `n` (R85, R276). -/
def State.batched (s : State) (d n : Nat) : State :=
  let ps := s.dev.pieces.map fun p => if p.ownedBy s.co.dseq s.me.j && p.batch == none then { p with batch := some n } else p
  let me := { ((s.me.crput 0x22 (BitVec.ofNat 32 n)).sput d (BitVec.ofNat 32 n)) with
    batches := s.openBatches ++ [n]
    uncovered := s.me.uncovered.map fun u => (u.1, u.2.1, if u.2.2 = .copy none then .copy (some n) else u.2.2) }
  ((s.setDev { s.dev with pieces := ps }).setMe me).retire 4

theorem State.batched_does (s : State) (d n : Nat) : let t := s.batched d n
    Retired s t 4 ∧ t.me.sget d = BitVec.ofNat 32 n ∧ t.me.crget 0x22 = BitVec.ofNat 32 n ∧
      (∀ r, r ≠ d → t.me.sget r = s.me.sget r) ∧ (∀ r, r ≠ 0x22 → t.me.crget r = s.me.crget r) ∧ n ∈ t.me.batches ∧
      t.me.uncovered = s.me.uncovered.map (fun u => (u.1, u.2.1, if u.2.2 = .copy none then .copy (some n) else u.2.2)) ∧
      t.dev = { s.dev with pieces := s.dev.pieces.map fun p => if p.ownedBy s.co.dseq s.me.j && p.batch == none then { p with batch := some n } else p } ∧
      { t.me.quiet with s := s.me.s, sp := s.me.sp, cr := s.me.cr, batches := s.me.batches, uncovered := s.me.uncovered } = s.me.quiet ∧
      t.co = s.co ∧ t.cx = s.cx ∧ t.turns = s.turns ∧ t.free = s.free := by
  have kept : ∀ x, { (s.me.crput 0x22 x).sput d x with s := s.me.s, sp := s.me.sp, cr := s.me.cr } = s.me := fun _ => rfl
  refine ⟨⟨rfl, rfl, rfl⟩, ?_, ?_, fun r other => ?_, fun r other => ?_, ?_, ?_, ?_, ?_, rfl, rfl, rfl, rfl⟩
  · exact (Store.get_set ..).trans (if_pos rfl)
  · exact (Store.get_set ..).trans (if_pos rfl)
  · exact (Store.get_set ..).trans (if_neg other)
  · exact (Store.get_set ..).trans (if_neg other)
  · exact List.mem_append_right _ (List.mem_singleton_self n)
  · rfl
  · rfl
  · have same := kept (BitVec.ofNat 32 n)
    unfold State.batched
    generalize (s.me.crput 0x22 (BitVec.ofNat 32 n)).sput d (BitVec.ofNat 32 n) = c at same ⊢
    exact congrArg (fun m : Cohort => { m.quiet with batches := s.me.batches, uncovered := s.me.uncovered }) same

theorem exec_cpyb (f : Bool) (d : Reg) {s : State} (few : s.openBatches.length < 64) :
    exec (.cpyb f d) s = .next (s.batched d.toNat (((s.me.crget 0x22).toNat + 1) % 2 ^ 16)) :=
  congrArg Host.Outcome.next (if_neg (Nat.not_le.2 few))

end Sys2Proof.Machine
end

section
/-!
Copies and their batches, instruction by instruction (R273 to R276).
-/
namespace Sys2Proof.Machine

/-- The descriptor of a copy with `n` words, 3 or 6, from scalar `a` on (Table 10-5). -/
def Cohort.descriptor (c : Cohort) (a n : Nat) : CpyDesc :=
  let g (k : Nat) : Word := c.sget (a + k)
  { src := (g 0).toNat, dst := (g 1).toNat, len := (g 2).toNat, rows := if n = 6 then (g 3).toNat else 1
    sstep := if n = 6 then (g 4).toInt else 0, dstep := if n = 6 then (g 5).toInt else 0 }

section
variable {dw sw : BitVec 3} {dk sk n : Nat} {a : Reg} {s : State} (clean : s.me.mce false [] (groupNames a.toNat n) = 0#64)
include clean

theorem cpy_idle (idle : s.me.act = 0#64 ∨ (s.me.descriptor a.toNat n).len = 0 ∨ (s.me.descriptor a.toNat n).rows = 0) :
    cpy dw sw dk sk n a s = s.retire 4 := by
  unfold cpy
  dsimp only
  rw [if_neg (by simp [clean])]
  by_cases inactive : s.me.act = 0#64
  · rw [if_pos inactive]
  · rw [if_neg inactive]
    exact if_pos (idle.resolve_left inactive)

theorem cpy_active (active : s.me.act ≠ 0#64) :
    cpy dw sw dk sk n a s = s.copy dw.toNat sw.toNat dk sk (s.me.descriptor a.toNat n) := by
  unfold cpy
  dsimp only
  rw [if_neg (by simp [clean]), if_neg active]
  rfl

end

/-- Every byte of every row lies at an offset of 32 bits, where those of the first and of the last row do (R274). -/
theorem rowsIn_of {o : Nat} {step : Int} {rows len : Nat} (some : 0 < rows)
    (inside : ∀ r, r < rows → 0 ≤ rowStart o step r ∧ rowStart o step r + len ≤ 2 ^ 32) : rowsIn o step rows len = true := by
  have first := inside 0 some
  have last := inside (rows - 1) (by omega)
  unfold rowsIn
  simp only [List.all_cons, List.all_nil, Bool.and_true, Bool.and_eq_true, decide_eq_true_eq]
  omega

theorem partCount_pos (k a : Nat) {n : Nat} (some : 0 < n) : partCount k a n = (a + n - 1) / 2 ^ k - a / 2 ^ k + 1 := if_neg some.ne'

theorem CpyDesc.aligned_iff (c : CpyDesc) : c.aligned = true ↔
    c.src % 16 = 0 ∧ c.dst % 16 = 0 ∧ c.len % 16 = 0 ∧ c.sstep % 16 = 0 ∧ c.dstep % 16 = 0 := by
  simp only [CpyDesc.aligned, Bool.and_eq_true, beq_iff_eq, and_assoc]

/-- A copy of rows without steps has the steps 0, which are aligned. -/
theorem step_aligned {n : Nat} {x : Int} (h : n = 6 → x % 16 = 0) : (if n = 6 then x else 0) % 16 = 0 := by
  split
  · next six => exact h six
  · rfl

/-- Settles O35: a copy whose checks pass issues its pieces in order, CPYB renumbers the open batch, and CPYW goes on where no awaited
batch is open. -/
theorem copies : Obligations.Copies := by
  unfold Obligations.Copies
  refine ⟨?_, fun f d s few => ?_, fun f a s clean => ?_⟩
  · intro row listed f dw sw a s u v xs ys dk sk n g len rows start offs addr at' ps clean
    have means : exec (row.1 f dw sw a) s = .next (cpy dw sw dk sk n a s) := by
      simp only [List.mem_cons, List.not_mem_nil, or_false] at listed
      rcases listed with rfl | rfl | rfl | rfl | rfl <;> rfl
    rw [means]
    refine ⟨fun idle => congrArg _ (cpy_idle clean idle), ?_⟩
    intro unrecorded active bytes some source target src16 dst16 len16 steps16 short small inside few srcIn dstIn checkedSrc checkedDst
      perform apart disjoint room
    have aligned : (s.me.descriptor a.toNat n).aligned = true := (CpyDesc.aligned_iff _).2
      ⟨src16, dst16, len16, step_aligned fun six => (steps16 six).1, step_aligned fun six => (steps16 six).2⟩
    have fits : CopyFits s dw.toNat sw.toNat dk sk (s.me.descriptor a.toNat n) :=
      ⟨bytes, some, source, target, aligned, rowsIn_of some fun r h => inside 0 r (by decide) h,
        rowsIn_of some fun r h => inside 1 r (by decide) h, short, small⟩
    have looked := State.sides_checked checkedSrc checkedDst
    have count : ((rowOffs (s.me.descriptor a.toNat n).dst (s.me.descriptor a.toNat n).dstep (s.me.descriptor a.toNat n).rows).map fun o =>
        partCount 12 ((s.me.window dw.toNat).addr o) (s.me.descriptor a.toNat n).len).foldl (· + ·) 0 ≤ 1024 := by
      simp only [partCount_pos 12 _ fits.bytes]
      exact few
    have passes := State.copy_passes unrecorded fits count srcIn dstIn checkedSrc checkedDst perform apart disjoint room
    have queued : ps = s.copyPieces dw.toNat len (offs 1) xs ys := rfl
    clear_value ps
    subst queued
    obtain ⟨retired, same, ids, dev, looked, windows, quiet, frame⟩ := looked.copied (s.copyPieces_fresh (dw := dw.toNat))
    exact ⟨_, _, congrArg Host.Outcome.next ((cpy_active clean active).trans passes), retired, same, ids, dev, looked, windows, quiet, frame⟩
  · exact ⟨_, exec_cpyb f d few, s.batched_does d.toNat _⟩
  · intro n l back due seen cr
    have names : ∀ o, Origin.inBatch (awaited l n s.me.batches) o = true ↔ seen o := fun o => by
      simp only [Origin.inBatch_iff, mem_awaited, and_assoc]
      exact exists_congr fun b => and_congr_right fun _ => and_comm
    have waits : ∀ b, b ∈ awaited l n s.openBatches ↔ due b := fun b => mem_awaited
    simp only [← names]
    refine ⟨fun none => ?_, fun ⟨b, isDue⟩ => ?_⟩
    · have goes : (awaited l n s.openBatches).isEmpty = true :=
        List.isEmpty_iff.2 (List.eq_nil_iff_forall_not_mem.2 fun b listed => none b ((waits b).1 listed))
      have rest := s.me.awaitedAll_rest n (bs := awaited l n s.me.batches)
      exact ⟨_, (exec_cpyw f clean).trans (congrArg Host.Outcome.next (if_pos goes)),
        ⟨(congrArg (fun c : Cohort => c.pc + 4#56) rest : _), (congrArg (fun c : Cohort => c.icount + 1) rest : _), rfl⟩,
        s.me.awaitedAll_unseen n, s.me.awaitedAll_seen n, fun i => s.me.awaitedAll_crget n, s.me.mem_awaitedAll n,
        (congrArg Cohort.quiet rest : _), rfl, rfl, rfl, rfl, rfl⟩
    · have stays : ¬ (awaited l n s.openBatches).isEmpty = true := fun empty =>
        List.not_mem_nil (List.isEmpty_iff.1 empty ▸ (waits b).2 isDue)
      refine ⟨_, (exec_cpyw f clean).trans (congrArg Host.Outcome.next (if_neg stays)), ?_, rfl⟩
      have named := s.me.named_eq n
      exact (congrArg (fun c : Cohort => { c with wait := .cpyw, active := false }) named : _)

end Sys2Proof.Machine
end

section
/-!
SUPPORT. Company and grid barriers (R277, R278, R197): the epilogue cohort, arriving, and completing a phase, in a context that is not
recorded and with nothing traced.
-/
namespace Sys2Proof.Machine

/-! ## The epilogue cohort (R197) -/

/-- The epilogue cohort where no replay chooses it: the highest WID with CLASS 0, the last to arrive with CLASS 1 (R197). -/
def State.lastOf (s : State) (arrived : List (Nat × Nat)) : Nat × Nat :=
  if s.co.hdr.cls = 0 then arrived.foldl laterOf (arrived.headD (0, 0)) else arrived.getLast?.getD (0, 0)

theorem State.epilogue_off {s : State} (unrecorded : s.recording = false) (grid : Bool) (arrived : List (Nat × Nat)) :
    s.epilogue grid arrived = s.lastOf arrived := by
  simp [State.epilogue, State.lastOf, unrecorded]

/-- With nothing recorded no epilogue choice is (R394). -/
theorem State.logEpi_off {s : State} (unrecorded : s.recording = false) (at' : s.isAt s.co.dseq s.me.j = true) (grid : Bool) {p : Nat × Nat}
    (own : s.co.hdr.cls ≠ 0 → p = (s.co.dseq, s.me.j)) : s.logEpi grid p = s := by
  unfold State.logEpi
  split
  · rfl
  · next cls =>
    rw [own cls]
    split
    · rw [State.onCohort_at _ _ _ _ at', State.log_off _ _ _ unrecorded]
    · exact State.log_off _ _ _ unrecorded

theorem laterOf_company (d i j : Nat) : laterOf (d, i) (d, j) = (d, max i j) := by
  unfold laterOf
  by_cases h : i < j
  · rw [if_pos (.inr ⟨rfl, h⟩), max_eq_right h.le]
  · rw [if_neg (by omega), max_eq_left (Nat.not_lt.1 h)]

/-- Of the cohorts of one company the last by WID is the one of the highest index (R179). -/
theorem foldl_laterOf_company (d : Nat) (js : List Nat) : ∀ i, (js.map fun j => (d, j)).foldl laterOf (d, i) = (d, js.foldl max i) := by
  induction js with
  | nil => exact fun _ => rfl
  | cons j js ih => intro i; rw [List.map_cons, List.foldl_cons, laterOf_company, ih]; rfl

/-! ## The company barrier (R277) -/

theorem Company.barFull_iff {h : Company} (some : h.barArrived ≠ []) :
    h.barFull = true ↔ ∀ j ∈ h.created, j ∉ h.ended → j ∈ h.barArrived := by
  simp [Company.barFull, some, or_iff_not_imp_left]

/-- The index of the epilogue cohort among those that have arrived at the company barrier, the current one last. -/
def State.barLast (s : State) : Nat := if s.co.hdr.cls = 0 then s.co.barArrived.foldl max 0 else s.me.j

theorem State.lastOf_bar {s : State} {js : List Nat} (arrived : s.co.barArrived = js ++ [s.me.j]) :
    s.lastOf (s.co.barArrived.map fun j => (s.co.dseq, j)) = (s.co.dseq, s.barLast) := by
  unfold State.lastOf State.barLast
  split
  · cases first : s.co.barArrived with
    | nil => simp [first] at arrived
    | cons i is => exact (foldl_laterOf_company s.co.dseq (i :: is) i).trans (by simp)
  · rw [arrived]
    simp

/-- Completing the phase of the company barrier: each participant is to continue with its flag. -/
def State.barClosed (s : State) : State :=
  { s with
    co := { s.co with barArrived := [], barPhase := s.co.barPhase + 1
                      barDone := s.co.barDone ++ s.co.barArrived.map fun j => (j, decide (j = s.barLast)) }
    free := s.free + 1 }

theorem State.closeBar_full {s : State} {js : List Nat} (unrecorded : s.recording = false) (untraced : s.dev.trcOn = false)
    (at' : s.isAt s.co.dseq s.me.j = true) (arrived : s.co.barArrived = js ++ [s.me.j]) (full : s.co.barFull = true) :
    s.closeBar = s.barClosed := by
  unfold State.closeBar
  dsimp only
  rw [if_pos full, State.epilogue_off unrecorded, State.lastOf_bar arrived, State.logEpi_off, State.traceSync_off]
  · rfl
  · exact untraced
  · exact (State.recording_congr rfl rfl).trans unrecorded
  · exact at'
  · intro cls
    exact congrArg (Prod.mk s.co.dseq) (if_neg cls)

/-- The state of a cohort that leaves the company barrier with its flag. -/
def State.leftBar (s : State) (d : Reg) (e : Bool) : State :=
  (((s.setCo { s.co with barDone := s.co.barDone.filter fun q => q.1 != s.me.j }).setMe (s.me.sput d.toNat (if e then 1#32 else 0#32))).retire 4).srSeen

theorem State.leaveBar_done {s : State} (d : Reg) {e : Bool} (done : s.co.barDone.find? (fun p => p.1 == s.me.j) = some (s.me.j, e)) :
    s.leaveBar d = s.leftBar d e := by
  unfold State.leaveBar
  rw [done]
  rfl

theorem State.leaveBar_waits {s : State} (d : Reg) (none : ∀ p ∈ s.co.barDone, p.1 ≠ s.me.j) : s.leaveBar d = s.waitOn .bar := by
  have missing : s.co.barDone.find? (fun p => p.1 == s.me.j) = .none := List.find?_eq_none.2 fun p listed => by simpa using none p listed
  unfold State.leaveBar
  rw [missing]

/-- A flag that the completed phase has just given a participant is found, and taken alone. -/
theorem find_flag {done : List (Nat × Bool)} {js : List Nat} {j : Nat} (f : Nat → Bool) (fresh : ∀ p ∈ done, p.1 ≠ j) (once : j ∉ js) :
    (done ++ (js ++ [j]).map fun i => (i, f i)).find? (fun p => p.1 == j) = some (j, f j) ∧
    (done ++ (js ++ [j]).map fun i => (i, f i)).filter (fun p => p.1 != j) = done ++ js.map fun i => (i, f i) := by
  have others : ∀ i ∈ js, i ≠ j := fun i listed same => once (same ▸ listed)
  have found : (js.map fun i => (i, f i)).find? (fun p => p.1 == j) = none := by simpa using others
  have none : done.find? (fun p => p.1 == j) = .none := by simpa using fresh
  have kept : done.filter (fun p => p.1 != j) = done := by simpa using fresh
  have kept' : (js.map fun i => (i, f i)).filter (fun p => p.1 != j) = js.map fun i => (i, f i) := by simpa using others
  rw [List.map_append]
  exact ⟨by simp [List.find?_append, none, found], by simp [kept, kept']⟩

/-- Leaving the company barrier gives the flag, retires the BAR and lets the cohort see the last change of key and step (R172, R277). -/
theorem State.leftBar_does (s : State) (d : Reg) (e : Bool) : let t := s.leftBar d e
    Retired s t 4 ∧ t.me.sget d.toNat = (if e then 1#32 else 0#32) ∧ (∀ r, r ≠ d.toNat → t.me.sget r = s.me.sget r) ∧
      { t.me.quiet with s := s.me.s, sp := s.me.sp } = s.me.quiet ∧ t.co = { s.co with barDone := s.co.barDone.filter fun q => q.1 != s.me.j } ∧
      t.dev = s.dev ∧ t.cx = { s.cx with srStale := s.cx.srStale.filter fun p => p != (s.co.dseq, s.me.j) } ∧ t.turns = s.turns := by
  obtain ⟨pc, icount, value, others, rest⟩ := s.me.sput_retired d.toNat (if e then 1#32 else 0#32)
  exact ⟨⟨pc, icount, rfl⟩, value, others, rest, rfl, rfl, rfl, rfl⟩

section
variable (d : Reg) {s : State} (still : Still s)
include still

theorem exec_bar_arrives (fresh : s.me.j ∉ s.co.barArrived) (new : ∀ p ∈ s.co.barDone, p.1 ≠ s.me.j) :
    exec (.bar d) s = .next ((s.setCo { s.co with barArrived := s.co.barArrived ++ [s.me.j] }).closeBar.leaveBar d) := by
  have first : ((s.co.barDone.any fun p => p.1 == s.me.j) || s.co.barArrived.contains s.me.j) = false := by simpa [fresh] using new
  have event : exec (.bar d) s = execBar d s := rfl
  rw [event, execBar, still.settle]
  simp only [first, still.drained 0, Bool.false_eq_true, if_false, if_true]

theorem exec_bar_leaves {e : Bool} (done : s.co.barDone.find? (fun p => p.1 == s.me.j) = some (s.me.j, e)) :
    exec (.bar d) s = .next (s.leftBar d e) := by
  have due : (s.co.barDone.any fun p => p.1 == s.me.j) = true :=
    List.any_eq_true.2 ⟨_, List.mem_of_find?_eq_some done, by simp⟩
  have event : exec (.bar d) s = execBar d s := rfl
  rw [event, execBar, still.settle]
  simp only [due, Bool.true_or, if_true, State.leaveBar_done d done]

end

/-! ## The launch of the current company -/

/-- The launch after a change that keeps its number. -/
theorem State.launch?_mapLaunch (s : State) {f : Launch → Launch} (keeps : ∀ l, (f l).lseq = l.lseq) :
    (s.mapLaunch s.co.lseq f).launch? = s.launch?.map f := by
  have same : ∀ l : Launch, (if l.lseq = s.co.lseq then f l else l).lseq = l.lseq := fun l => by split <;> simp [keeps]
  unfold State.launch? State.mapLaunch
  rw [List.find?_map]
  simp only [Function.comp_def, same]
  cases found : s.cx.launches.find? fun l => l.lseq == s.co.lseq with
  | none => rfl
  | some l =>
    have named : l.lseq = s.co.lseq := by simpa using List.find?_some found
    simp [named]

theorem State.launch?_lseq {s : State} {l : Launch} (h : s.launch? = some l) : l.lseq = s.co.lseq := by
  simpa using List.find?_some h

/-! ## The cohorts of a launch that have not ended -/

/-- A company apart from its cohorts. -/
def Company.bare (h : Company) : Company := { h with cohorts := [] }

theorem map_bare_insertCompany (h : Company) (l : List Company) : (insertCompany h l).map Company.bare = insertCompany h.bare (l.map Company.bare) := by
  induction l with
  | nil => rfl
  | cons x l ih =>
    by_cases older : h.dseq < x.dseq
    · rw [insertCompany, if_pos older]; exact (if_pos older).symm
    · rw [insertCompany, if_neg older, List.map_cons, ih]; exact (if_neg older).symm

theorem State.companies_bare (s : State) : s.companies.map Company.bare =
    if s.co.place = .absent then s.dev.companies.map Company.bare else insertCompany s.co.bare (s.dev.companies.map Company.bare) := by
  have gathered : s.coAll.bare = s.co.bare := by unfold State.coAll; split <;> rfl
  unfold State.companies
  split
  · rfl
  · rw [map_bare_insertCompany, gathered]

/-- Which cohorts of a launch have not ended is said by the companies alone. -/
theorem State.liveOf_congr {s t : State} (lseq : Word) (co : t.co = s.co) (companies : t.dev.companies = s.dev.companies) :
    t.liveOf lseq = s.liveOf lseq := by
  have bare : ∀ u : State, u.liveOf lseq = ((u.companies.map Company.bare).filter fun h => h.asid == u.co.asid && h.lseq == lseq).flatMap fun h =>
      (h.created.filter fun j => !(h.ended.contains j)).map fun j => (h.dseq, j) := fun u => by
    rw [List.filter_map, List.flatMap_map]
    rfl
  rw [bare t, bare s, State.companies_bare, State.companies_bare, co, companies]

/-! ## The grid barrier (R278) -/

theorem gridOnly_on {f : Launch → State} {s : State} {l : Launch} (persist : s.co.hdr.persist = true) (launch : s.launch? = some l) :
    gridOnly f s = f l := by
  unfold gridOnly
  rw [if_pos persist, launch]

theorem gridOnly_off {f : Launch → State} {s : State} (persist : s.co.hdr.persist = false) : gridOnly f s = s.ill 9 := if_neg (by simp [persist])

/-- The cohorts that have arrived at the phase of the grid barrier that is open. -/
def Launch.arrivals (l : Launch) : List (Nat × Nat) := (l.garrived.filter fun x => x.1 == l.gphase).map (·.2)

/-- The launch once its grid barrier's phase has completed with an epilogue cohort. -/
def Launch.phaseDone (e : Nat × Nat) (l : Launch) : Launch := { l with gphase := l.gphase + 1, gepi := l.gepi ++ [(l.gphase, e)] }

section
variable {s : State} {l : Launch} (launch : s.launch? = some l)
include launch

theorem State.closeGrid_open (open' : ¬ ∀ p ∈ s.liveOf l.lseq, p ∈ l.arrivals) : s.closeGrid = s := by
  unfold State.closeGrid
  rw [launch]
  refine if_neg fun full => open' fun p listed => ?_
  rw [Bool.and_eq_true, List.all_eq_true] at full
  simpa [Launch.arrivals] using full.2 p listed

/-- The arrival of the current cohort that completes the phase of the grid barrier. -/
theorem State.closeGrid_full (unrecorded : s.recording = false) (untraced : s.dev.trcOn = false) (at' : s.isAt s.co.dseq s.me.j = true)
    (last : l.arrivals.getLast? = some (s.co.dseq, s.me.j)) (full : ∀ p ∈ s.liveOf l.lseq, p ∈ l.arrivals) :
    s.closeGrid = { s.mapLaunch l.lseq (Launch.phaseDone (s.lastOf l.arrivals)) with free := s.free + 1 } := by
  have some : l.arrivals ≠ [] := by rintro none; simp [none] at last
  have closes : (!l.arrivals.isEmpty && (s.liveOf l.lseq).all fun p => l.arrivals.contains p) = true := by
    simpa [some] using full
  unfold State.closeGrid
  rw [launch]
  refine (if_pos closes).trans ?_
  dsimp only
  rw [State.epilogue_off unrecorded, State.logEpi_off, State.traceSync_off]
  · rfl
  · exact untraced
  · exact (State.recording_congr rfl rfl).trans unrecorded
  · exact at'
  · intro cls
    exact (if_neg cls).trans (congrArg (Option.getD · (0, 0)) last)

end

/-- The launch once a cohort has arrived at phase `n` of its grid barrier: an arrival that no GBARW took is forgotten (R278). -/
def Launch.arrive (n : Nat) (own : Nat × Nat) (l : Launch) : Launch :=
  { l with garrived := (l.garrived.filter fun x => x.2 != own) ++ [(n, own)] }

/-- Arriving at the grid barrier, as a release at PKG scope. -/
def State.gridArrived (s : State) (d : Reg) : State :=
  ((s.publish 2).setMe { s.me.sput d.toNat (BitVec.ofNat 32 s.me.gcount) with gcount := s.me.gcount + 1 }).mapLaunch s.co.lseq
    (Launch.arrive s.me.gcount (s.co.dseq, s.me.j))

/-- What a step of the grid barrier does: one launch of the context and what the halls see of memory change, and the cohort becomes `c`. -/
structure GridStep (s t : State) (c : Cohort) (l : Launch) : Prop where
  me : t.me = c
  launch : t.launch? = some l
  bytes : ∀ x, t.dev.byte x = s.dev.byte x
  dev : t.dev.elsewhere = s.dev.elsewhere
  cx : { t.cx with launches := s.cx.launches } = s.cx
  co : t.co = s.co
  turns : t.turns = s.turns

theorem Device.elsewhere_ctrl {d e : Device} (h : e.elsewhere = d.elsewhere) : e.ctrl = d.ctrl ∧ e.recUnit = d.recUnit ∧ e.companies = d.companies :=
  ⟨(congrArg Device.ctrl h : _), (congrArg Device.recUnit h : _), (congrArg Device.companies h : _)⟩

theorem Device.trcOn_congr {d e : Device} (ctrl : e.ctrl = d.ctrl) : e.trcOn = d.trcOn := by
  unfold Device.trcOn Device.trcLog2 Device.reg
  rw [ctrl]

/-- The current cohort once it has arrived at the grid barrier. -/
def Cohort.arrived (c : Cohort) (d : Reg) : Cohort :=
  { c.sput d.toNat (BitVec.ofNat 32 c.gcount) with gcount := c.gcount + 1 }

theorem State.gridArrived_does {s : State} {l : Launch} (d : Reg) (launch : s.launch? = some l) :
    GridStep s (s.gridArrived d) (s.me.arrived d) (l.arrive s.me.gcount (s.co.dseq, s.me.j)) := by
  obtain ⟨-, wrote, bytes⟩ := publish_off s 2
  have mapped := (State.launch?_mapLaunch ((s.publish 2).setMe (s.me.arrived d)) (f := Launch.arrive s.me.gcount (s.co.dseq, s.me.j)) fun _ => rfl)
  exact { me := rfl, launch := mapped.trans (congrArg (Option.map _) launch), bytes := bytes, dev := wrote.dev, cx := rfl, co := rfl, turns := rfl }

/-- A step of the grid barrier leaves what says whether it is recorded, traced and current, and which cohorts live. -/
theorem GridStep.kept {s t : State} {c : Cohort} {l : Launch} (h : GridStep s t c l) (j : c.j = s.me.j) (stat : c.stat = s.me.stat) :
    t.recording = s.recording ∧ t.dev.trcOn = s.dev.trcOn ∧ t.isAt s.co.dseq s.me.j = s.isAt s.co.dseq s.me.j ∧
    t.liveOf l.lseq = s.liveOf l.lseq := by
  obtain ⟨ctrl, unit, companies⟩ := Device.elsewhere_ctrl h.dev
  refine ⟨State.recording_kept ctrl unit (congrArg Context.asid h.cx : _), Device.trcOn_congr ctrl, ?_, State.liveOf_congr _ h.co companies⟩
  unfold State.isAt
  rw [h.me, h.co, j, stat]

section
variable (d : Reg) {s : State} {l : Launch} (still : Still s) (persist : s.co.hdr.persist = true) (launch : s.launch? = some l)
include still persist launch

theorem exec_gbara_arrives (next : s.me.gcount = l.gphase) : exec (.gbara d) s = .next ((s.gridArrived d).closeGrid.retire 4) := by
  have event : exec (.gbara d) s = execGbara d s := rfl
  rw [event, execGbara, gridOnly_on persist launch, still.settle]
  simp only [launch, Option.map_some, Option.getD_some, next, lt_irrefl, and_false, if_false, still.drained 2, if_true]
  rw [← next]
  rfl

theorem exec_gbara_waits (ahead : l.gphase < s.me.gcount) : exec (.gbara d) s = .next (s.waitOn .gbarw) := by
  have event : exec (.gbara d) s = execGbara d s := rfl
  rw [event, execGbara, gridOnly_on persist launch, still.settle]
  simp only [launch, Option.map_some, Option.getD_some]
  rw [if_pos ⟨by omega, ahead⟩]

omit persist in
/-- The arrival of a cohort at the grid barrier's open phase: the phase completes where every cohort of the launch has arrived. -/
theorem gbara_does (next : s.me.gcount = l.gphase) :
    let a := l.arrive l.gphase (s.co.dseq, s.me.j)
    ∃ l', GridStep s (s.gridArrived d).closeGrid (s.me.arrived d) l' ∧
      ((¬ ∀ p ∈ s.liveOf l.lseq, p ∈ a.arrivals) → l' = a) ∧
      ((∀ p ∈ s.liveOf l.lseq, p ∈ a.arrivals) → l' = a.phaseDone
        (if s.co.hdr.cls = 0 then a.arrivals.foldl laterOf (a.arrivals.headD (0, 0)) else (s.co.dseq, s.me.j))) := by
  intro a
  have step := State.gridArrived_does d launch
  rw [next] at step
  obtain ⟨recorded, traced, here, live⟩ := step.kept rfl rfl
  generalize s.gridArrived d = v at step recorded traced here live
  have own : (v.co.dseq, v.me.j) = (s.co.dseq, s.me.j) := by rw [step.co, step.me]; rfl
  have last : a.arrivals.getLast? = some (v.co.dseq, v.me.j) := by simp [a, Launch.arrivals, Launch.arrive, own]
  have named : a.lseq = v.co.lseq := (State.launch?_lseq launch).trans (congrArg Company.lseq step.co).symm
  have epilogue : v.lastOf a.arrivals = if s.co.hdr.cls = 0 then a.arrivals.foldl laterOf (a.arrivals.headD (0, 0)) else (s.co.dseq, s.me.j) := by
    rw [State.lastOf, last, own, step.co]
    rfl
  by_cases full : ∀ p ∈ s.liveOf l.lseq, p ∈ a.arrivals
  · have at' : v.isAt v.co.dseq v.me.j = true := by
      obtain ⟨dseq, j⟩ := Prod.mk.inj own
      rw [dseq, j, here]
      exact still.isAt
    have mapped := State.launch?_mapLaunch v (f := Launch.phaseDone (v.lastOf a.arrivals)) fun _ => rfl
    rw [State.closeGrid_full step.launch (recorded.trans still.recorded) (traced.trans still.traced) at' last (live ▸ full), named]
    refine ⟨a.phaseDone (v.lastOf a.arrivals), ?_, fun open' => absurd full open', fun _ => by rw [epilogue]⟩
    exact { me := step.me, launch := mapped.trans (congrArg (Option.map _) step.launch), bytes := step.bytes, dev := step.dev, cx := step.cx
            co := step.co, turns := step.turns }
  · refine ⟨a, ?_, fun _ => rfl, fun all => absurd all full⟩
    rw [State.closeGrid_open step.launch (live ▸ full)]
    exact step

end

/-- The launch once an arrival has been taken by its GBARW (R278). -/
def Launch.leave (own : Nat × Nat) (l : Launch) : Launch := { l with garrived := l.garrived.filter fun x => x.2 != own }

/-- Leaving the grid barrier with the flag of phase `n` (R278). -/
def State.gridLeft (s : State) (d : Reg) (l : Launch) (n : Nat) : State :=
  ((((s.acquire true 2).mapLaunch l.lseq (Launch.leave (s.co.dseq, s.me.j))).setMe
    (s.me.sput d.toNat (if l.gepi.contains (n, s.co.dseq, s.me.j) then 1#32 else 0#32))).retire 4).srSeen

/-- What a GBARW leaves that gives `x` (R278). -/
structure GridLeft (s t : State) (d : Reg) (x : Word) (l : Launch) : Prop where
  retired : Retired s t 4
  value : t.me.sget d.toNat = x
  others : ∀ r, r ≠ d.toNat → t.me.sget r = s.me.sget r
  quiet : { t.me.quiet with s := s.me.s, sp := s.me.sp } = s.me.quiet
  launch : t.launch? = some l
  bytes : ∀ x, t.dev.byte x = s.dev.byte x
  dev : t.dev.elsewhere = s.dev.elsewhere
  cx : { t.cx with launches := s.cx.launches, srStale := s.cx.srStale } = s.cx
  frame : t.co = s.co ∧ t.turns = s.turns ∧ t.free = s.free

section
variable (d : Reg) {s : State} {l : Launch} (persist : s.co.hdr.persist = true) (launch : s.launch? = some l)
include persist launch

theorem exec_gbarw_none (none : (l.garrived.filter fun x => x.2 == (s.co.dseq, s.me.j)).getLast? = .none) :
    exec (.gbarw d) s = .next (((s.acquire true 2).setMe (s.me.sput d.toNat 0#32)).retire 4) := by
  have event : exec (.gbarw d) s = execGbarw d s := rfl
  rw [event, execGbarw, gridOnly_on persist launch, State.openArrival, none]
  rfl

omit persist in
theorem gridLeft_none : GridLeft s (((s.acquire true 2).setMe (s.me.sput d.toNat 0#32)).retire 4) d 0#32 l := by
  obtain ⟨-, wrote, bytes, -⟩ := acquire_off s true 2
  obtain ⟨pc, icount, value, others, rest⟩ := s.me.sput_retired d.toNat 0#32
  exact ⟨⟨pc, icount, rfl⟩, value, others, rest, launch, bytes, wrote.dev, rfl, rfl, rfl, rfl⟩

omit persist in
theorem State.gridLeft_does (n : Nat) : GridLeft s (s.gridLeft d l n) d (if (n, s.co.dseq, s.me.j) ∈ l.gepi then 1#32 else 0#32)
    (l.leave (s.co.dseq, s.me.j)) := by
  obtain ⟨-, wrote, bytes, -⟩ := acquire_off s true 2
  obtain ⟨pc, icount, value, others, rest⟩ := s.me.sput_retired d.toNat (if l.gepi.contains (n, s.co.dseq, s.me.j) then 1#32 else 0#32)
  have mapped := State.launch?_mapLaunch (s.acquire true 2) (f := Launch.leave (s.co.dseq, s.me.j)) fun _ => rfl
  have named : l.lseq = (s.acquire true 2).co.lseq := State.launch?_lseq launch
  have flag : (if l.gepi.contains (n, s.co.dseq, s.me.j) then 1#32 else 0#32 : Word) =
    if (n, s.co.dseq, s.me.j) ∈ l.gepi then 1#32 else 0#32 := by simp
  unfold State.gridLeft
  rw [named]
  exact ⟨⟨pc, icount, rfl⟩, value.trans flag, others, rest, mapped.trans (congrArg (Option.map _) launch), bytes, wrote.dev, rfl, rfl, rfl, rfl⟩

variable {n : Nat} (last : (l.garrived.filter fun x => x.2 == (s.co.dseq, s.me.j)).getLast? = some (n, (s.co.dseq, s.me.j)))
include last

theorem exec_gbarw_leaves (done : n < l.gphase) : exec (.gbarw d) s = .next (s.gridLeft d l n) := by
  have event : exec (.gbarw d) s = execGbarw d s := rfl
  rw [event, execGbarw, gridOnly_on persist launch, State.openArrival, last]
  exact congrArg Host.Outcome.next (if_pos done)

theorem exec_gbarw_waits (open' : l.gphase ≤ n) : exec (.gbarw d) s = .next (s.waitOn .gbarw) := by
  have event : exec (.gbarw d) s = execGbarw d s := rfl
  rw [event, execGbarw, gridOnly_on persist launch, State.openArrival, last]
  exact congrArg Host.Outcome.next (if_neg (by simpa using open'))

end

end Sys2Proof.Machine
end

section
/-!
SUPPORT. Semaphores and signals (R279, R280): testing the word of a SEMA on own memory, and the requests of SEMR and SIGNAL.
-/
namespace Sys2Proof.Machine

/-! ## A cohort with nothing in flight -/

/-- A read-modify-write of a cohort with nothing in flight on its core is held back by nothing. -/
theorem Still.rmwReady {s : State} (h : Still s) (o : MemOp) : s.rmwReady o = true := by
  have first : s.me.before o.id = [] := by simp [Cohort.before, h.ops]
  have free : ∀ xs, s.heldByMate xs true = false := fun xs => by
    unfold State.heldByMate
    rw [List.any_eq_false]
    intro p listed
    simp [h.mates p listed]
  have uncopied : ∀ w i xs b, s.dev.copyHolds w i xs b = false := fun w i xs b => by
    simp [Device.copyHolds, h.copies.1, h.copies.2]
  unfold State.rmwReady State.clear State.releaseReady
  dsimp only
  rw [first, free, uncopied, h.matesBuffer]
  simp

/-- Checks leave a cohort still that was. -/
theorem LaneChecked.still {s u : State} (h : LaneChecked s u) (k : Still s) : Still u := by
  have co : u.co = s.co := (congrArg State.co h.rest : _)
  have companies : u.dev.companies = s.dev.companies := (congrArg Device.companies h.dev.frame : _)
  have mates : u.mates = s.mates := by unfold State.mates State.core; rw [co, companies]
  exact {
    ops := (congrArg Cohort.ops h.me : _).trans k.ops
    here := (congrArg Cohort.stat h.me : _).trans k.here
    resident := by rw [co]; exact k.resident
    mates := by rw [mates]; exact k.mates
    copies := ⟨(h.dev.pieces).trans k.copies.1, h.dev.fills.trans k.copies.2⟩
    recorded := h.recording.trans k.recorded
    traced := (Device.trcOn_congr h.dev.ctrl.1).trans k.traced }

/-! ## The word of a SEMA (R279) -/

/-- The hall at whose L2 a SEMA takes from a word of own memory; none where a bank does (R68). -/
def State.semaPlace (s : State) (m : SemaOp) (off : Nat) : Option Nat := if regionOf off = .atrium ∨ 2 ≤ m.scope then none else some s.hall

/-- The device once a SEMA has taken from its word. -/
def State.semaWord (s : State) (m : SemaOp) (off : Nat) : Device :=
  ((s.acquire true m.scope).dev.rmw (s.semaPlace m off) (.int 0 4) off (leBytes 4 0xFFFFFFFF)).1

/-- The state of a SEMA that waits. -/
def State.semaWaits (s : State) (m : SemaOp) : State := (s.setMe { s.me with sema := some m }).waitOn .sema

theorem toSigned_pos {x : Nat} (fits : x < 2 ^ 32) : 0 < toSigned 32 x ↔ x ≠ 0 ∧ x < 2 ^ 31 := by
  unfold toSigned
  rw [Nat.mod_eq_of_lt fits]
  split <;> omega

section
variable {s : State} {m : SemaOp} {off : Nat} (still : Still s) (at' : m.loc = .mem off) (aligned : off % 4 = 0)
  (clean : s.dev.badMask (off / 64 * 64) 64 = 0#64)
include still at' aligned clean

/-- The test of a SEMA of a word of own memory: it is taken where it is positive, and the SEMA waits where it is not. -/
theorem State.semaTry_mem : s.semaTry m = if s.dev.load off 4 ≠ 0 ∧ s.dev.load off 4 < 2 ^ 31 then
    (s.afterRmw (s.semaPlace m off) off 4 (s.semaWord m off)).semaDone m (BitVec.ofNat 32 (s.dev.load off 4)) false
    else s.semaWaits m := by
  obtain ⟨-, wrote, bytes, bad⟩ := acquire_off s true m.scope
  have clean' : ∀ a, a / 64 = off / 64 → (s.acquire true m.scope).dev.badAt a = false := fun a line => by
    rw [Device.badAt, bad]
    exact badAt_line clean a line
  obtain ⟨answer, -, -⟩ := rmw_int (s.semaPlace m off) 0 4 off (leBytes 4 0xFFFFFFFF) (.inl rfl) aligned clean'
  have old : (s.acquire true m.scope).dev.bytes off 4 = s.dev.bytes off 4 := List.map_congr_left fun i _ => bytes (off + i)
  rw [old] at answer
  have due : ∀ p, s.replayHolds p = false := fun p => s.replayHolds_off p still.recorded
  unfold State.semaTry
  rw [still.rmwReady, at']
  simp only [placeOf, due, Bool.not_false, Bool.true_eq_false, or_self, if_false]
  rw [State.semaPlace] at answer
  rw [answer]
  simp only [show leNat (s.dev.bytes off 4) = s.dev.load off 4 from rfl, toSigned_pos (load_lt s.dev off 4)]
  rfl

end

theorem State.semaDone_off {w : State} {m : SemaOp} {off : Nat} (x : Word) (unrecorded : w.recording = false) (untraced : w.dev.trcOn = false)
    (at' : m.loc = .mem off) : w.semaDone m x false =
    { ((w.acquire true m.scope).setMe { w.me.sput m.d x with sema := none }).retire 4 with free := w.free + 1 } := by
  obtain ⟨-, wrote, -, -⟩ := acquire_off w true m.scope
  have recorded : (((w.acquire true m.scope).setMe { w.me.sput m.d x with sema := none }).retire 4).recording = false := by
    rw [← unrecorded, ← wrote.recording]
    exact State.recording_congr rfl rfl
  have traced : (w.acquire true m.scope).dev.trcOn = false := (Device.trcOn_congr (Device.elsewhere_ctrl wrote.dev).1).trans untraced
  unfold State.semaDone
  dsimp only
  rw [at']
  simp only [placeOf, Bool.false_eq_true, if_false, State.logPlace_off _ _ _ recorded]
  rw [State.traceSync_off]
  · exact congrArg (fun k => { ((w.acquire true m.scope).setMe { w.me.sput m.d x with sema := none }).retire 4 with free := k + 1 }) wrote.free
  · exact traced

/-- A SEMA took one from a word of own memory: it retired with the value that the word held (R279). -/
structure SemaTaken (s t : State) (m : SemaOp) (off : Nat) : Prop where
  retired : Retired s t 4
  value : t.me.sget m.d = BitVec.ofNat 32 (s.dev.load off 4)
  word : t.dev.load off 4 = s.dev.load off 4 - 1
  bytes : ∀ x, x < off ∨ off + 4 ≤ x → t.dev.byte x = s.dev.byte x
  dev : t.dev.elsewhere = s.dev.elsewhere
  others : ∀ r, r ≠ m.d → t.me.sget r = s.me.sget r
  sema : t.me.sema = none
  quiet : { t.me.quiet with s := s.me.s, sp := s.me.sp, sema := s.me.sema } = s.me.quiet
  frame : t.co = s.co ∧ t.cx = s.cx

theorem intNew_add (n x y : Nat) : intNew 0 n x y 0 = (x + y) % 2 ^ (8 * n) := rfl

/-- Adding −1 takes one from a positive word. -/
theorem intNew_take {x : Nat} (some : x ≠ 0) (fits : x < 2 ^ 32) : intNew 0 4 x (leNat ((leBytes 4 0xFFFFFFFF).take 4)) 0 = x - 1 := by
  have ones : leNat ((leBytes 4 0xFFFFFFFF).take 4) = 0xFFFFFFFF := by decide
  rw [ones, intNew_add]
  omega

theorem State.semaDone_takes {s : State} {m : SemaOp} {off : Nat} (still : Still s) (at' : m.loc = .mem off) (aligned : off % 4 = 0)
    (low : off < 0x020000000000) (clean : s.dev.badMask (off / 64 * 64) 64 = 0#64) (some : s.dev.load off 4 ≠ 0) :
    SemaTaken s ((s.afterRmw (s.semaPlace m off) off 4 (s.semaWord m off)).semaDone m (BitVec.ofNat 32 (s.dev.load off 4)) false) m off := by
  obtain ⟨-, wrote, bytes, bad⟩ := acquire_off s true m.scope
  have clean' : ∀ a, a / 64 = off / 64 → (s.acquire true m.scope).dev.badAt a = false := fun a line => by
    rw [Device.badAt, bad]
    exact badAt_line clean a line
  obtain ⟨-, dev, written⟩ := rmw_int (s.semaPlace m off) 0 4 off (leBytes 4 0xFFFFFFFF) (.inl rfl) aligned clean'
  obtain ⟨me, bytes', dev', co, cx, free, -⟩ := afterRmw_does s (s.semaPlace m off) off 4 (s.semaWord m off) (regionOf_low low) still.recorded
  have word : (s.acquire true m.scope).dev.load off 4 = s.dev.load off 4 := congrArg leNat (List.map_congr_left fun i _ => bytes (off + i))
  have same := (dev'.trans dev).trans wrote.dev
  rw [word, if_neg (show ¬ (0 = 7) by decide), intNew_take some (load_lt s.dev off 4)] at written
  generalize s.afterRmw (s.semaPlace m off) off 4 (s.semaWord m off) = w at *
  obtain ⟨ctrl, unit, -⟩ := Device.elsewhere_ctrl same
  have recorded : w.recording = false := (State.recording_kept ctrl unit (congrArg Context.asid cx)).trans still.recorded
  rw [State.semaDone_off _ recorded ((Device.trcOn_congr ctrl).trans still.traced) at', me]
  obtain ⟨-, wrote', bytes'', -⟩ := acquire_off w true m.scope
  obtain ⟨pc, icount, value, others, rest⟩ := s.me.sput_retired m.d (BitVec.ofNat 32 (s.dev.load off 4))
  have byte : ∀ x, (w.acquire true m.scope).dev.byte x = if off ≤ x ∧ x < off + 4 then (leBytes 4 (s.dev.load off 4 - 1)).getD (x - off) 0#8
      else s.dev.byte x := fun x => by
    rw [bytes'', bytes', ← bytes x]
    exact written x
  exact {
    retired := ⟨pc, icount, rfl⟩
    value := value
    word := load_of_bytes (by have := load_lt s.dev off 4; omega) fun i inside => (byte _).trans (by rw [if_pos (by omega), Nat.add_sub_cancel_left])
    bytes := fun x apart => (byte x).trans (if_neg (by omega))
    dev := wrote'.dev.trans same
    others := others
    sema := rfl
    quiet := congrArg (fun c : Cohort => { c with sema := s.me.sema }) rest
    frame := ⟨wrote'.co.trans co, wrote'.cx.trans cx⟩ }

/-! ## The instructions -/

section
variable {s : State} {m : SemaOp} {off : Nat}

theorem State.semaTry_does (still : Still s) (at' : m.loc = .mem off) (aligned : off % 4 = 0)
    (low : off < 0x020000000000) (clean : s.dev.badMask (off / 64 * 64) 64 = 0#64) :
    (s.dev.load off 4 ≠ 0 → s.dev.load off 4 < 2 ^ 31 → SemaTaken s (s.semaTry m) m off) ∧
    (s.dev.load off 4 = 0 ∨ 2 ^ 31 ≤ s.dev.load off 4 → s.semaTry m = s.semaWaits m) := by
  rw [State.semaTry_mem still at' aligned clean]
  refine ⟨fun some small => ?_, fun none => if_neg (by omega)⟩
  rw [if_pos ⟨some, small⟩]
  exact State.semaDone_takes still at' aligned low clean some

end

/-- A SEMA whose check reaches own memory tests the word there. -/
theorem exec_sema {c : BitVec 2} {w : BitVec 3} {a d : Reg} {s u : State} {k : LaneChk} {off : Nat} (still : Still u) (cls : s.co.hdr.cls ≠ 0)
    (active : s.me.act ≠ 0#64) (clean : s.me.spoison a.toNat = false)
    (checked : s.checkLanes w.toNat .atomic (.rmw false) [((lowestLane s.me.act).getD 0, (s.me.sget a.toNat).toNat, 4)] = (u, [k]))
    (at' : k.out = .at (.mem off)) (aligned : k.addr % 4 = 0) :
    exec (.sema c w a d) s = .next (u.semaTry { loc := .mem off, scope := c.toNat, d := d.toNat }) := by
  have unpoisoned : s.me.mce true [] [a.toNat] = 0#64 := by simp [Cohort.mce, clean, Cohort.eats]
  have goes : verdict 4 true 2 4 [k] = .go := verdict_go _ _ _ _ _ (by simpa using ⟨_, at'⟩) (by simpa using aligned)
  have event : exec (.sema c w a d) s = execSema c w a d s := rfl
  rw [event, execSema]
  refine congrArg Host.Outcome.next ((replayable_class _ cls).trans ?_)
  simp only [syncJob, List.map_cons, List.map_nil]
  rw [unpoisoned, checked]
  dsimp only
  rw [goes, if_neg (by simp), if_neg active, still.settle]
  simp only [List.head?_cons, Option.map_some, Option.getD_some, at']
  rfl

theorem exec_semaGrant {s : State} {m : SemaOp} (still : Still s) (waits : s.me.sema = some m) (wait : s.me.wait = .sema) :
    exec (.semaGrant s.co.dseq s.me.j) s = .next (s.semaTry m) := by
  have event : exec (.semaGrant s.co.dseq s.me.j) s = execSemaGrant s.co.dseq s.me.j s := rfl
  rw [event, execSemaGrant, State.onCohort_at _ _ _ _ still.isAt, waits]
  dsimp only
  rw [if_pos ⟨still.here, wait⟩, still.settle]

end Sys2Proof.Machine
end

section
/-!
Company and grid barriers, semaphores and signals, instruction by instruction (R277 to R280).
-/
namespace Sys2Proof.Machine

/-! ## SEMR and SIGNAL (R279, R280) -/

/-- What a SIGNAL asks: an update of a word that returns nothing, as a release at PKG scope. -/
def signalJob (set : Bool) (w : BitVec 3) (a d : Reg) (c : Cohort) : MemJob :=
  { syncJob w a d 2 3 c with kind := .rmw (.int (if set then 6 else 0) 4) false, ss := [a.toNat, d.toNat] }

theorem semr_does (c : BitVec 2) (w : BitVec 3) (a d : Reg) : AccessDoes (fun _ => True) (.semr c w a d) fun x =>
    if x.sget d.toNat = 0#32 then { syncJob w a d c.toNat 3 x with ss := [a.toNat, d.toNat], kind := .storeZ, data := fun _ => [] }
    else { syncJob w a d c.toNat 3 x with ss := [a.toNat, d.toNat] } :=
  access_does fun _ _ => rfl

/-- The operation that a SIGNAL issued becomes a signal where its word is another device's. -/
theorem MemOp.asSignal_eq (o : MemOp) (set : Bool) : o.asSignal set = { o with kind := match (o.lanes.head?).map (·.loc) with
    | some (Loc.far _ _) => .signal set
    | _ => o.kind } := by
  obtain ⟨_, _, _, _, _, lanes, _⟩ := o
  cases lanes with
  | nil => rfl
  | cons l ls =>
    obtain ⟨_, loc, _⟩ := l
    cases loc <;> rfl

/-- Changing the operation issued last leaves those before it, whose numbers are smaller. -/
theorem State.mapOp_last {t : State} {ops : List MemOp} {o : MemOp} (f : MemOp → MemOp) (issued : t.me.ops = ops ++ [o])
    (older : ∀ x ∈ ops, x.id < o.id) : t.mapOp o.id f = { t with me := { t.me with ops := ops ++ [f o] } } := by
  have kept : (ops.map fun x => if x.id = o.id then f x else x) = ops :=
    (List.map_congr_left fun x listed => if_neg (Nat.ne_of_lt (older x listed))).trans (List.map_id ops)
  unfold State.mapOp
  rw [issued, List.map_append, kept]
  simp

section
variable (set : Bool) (w : BitVec 3) (a d : Reg) {s : State} (clean : s.me.mce true [] [a.toNat, d.toNat] = 0#64) (active : s.me.act ≠ 0#64)
include clean active

theorem signalOp_kind (other : (s.me.window w.toNat).kind ≠ 1) :
    signalOp set w a d s = s.accessTrap 2 5 (maskOf (lowestLane s.me.act).toList) := if_pos ⟨clean, active, other⟩

theorem signalOp_issues {u : State} {cs : List LaneChk} (unrecorded : s.recording = false) (older : ∀ o ∈ s.me.ops, o.id < s.dev.nextId)
    (kind : (s.me.window w.toNat).kind = 1) (h : Accesses s (signalJob set w a d s.me) u cs) :
    ∃ t, Issued s u t (signalJob set w a d s.me) cs ∧
      signalOp set w a d s = { t with me := { t.me with ops := s.me.ops ++ [(opOf s (signalJob set w a d s.me) cs).asSignal set] } } := by
  have room : Room s [] [] := by simp [Room, State.canAlloc]
  have issued := memIssue_go (signalJob set w a d s.me) s u cs unrecorded clean active room h
  refine ⟨_, issued, ?_⟩
  rw [← State.mapOp_last (fun o => o.asSignal set) issued.op older]
  exact if_neg fun ⟨_, _, other⟩ => other kind

end

/-- A SIGNAL has one lane, whose place says whether it becomes a signal. -/
theorem MemOp.signal_lanes (s : State) (j : MemJob) (cs : List LaneChk) (set : Bool) : (opOf s j cs).asSignal set =
    { opOf s j cs with kind := match (cs.head?).map fun c => c.out.loc with
      | some (Loc.far _ _) => .signal set
      | _ => (opOf s j cs).kind } := by
  rw [MemOp.asSignal_eq]
  cases cs <;> rfl

/-- SIGNAL issues its update where its window's kind lets it, and raises #ADR WTYPE where it does not. -/
theorem signal_does {i : Instr} (set : Bool) (w : BitVec 3) (a d : Reg) {s u : State} {cs : List LaneChk} (unrecorded : s.recording = false)
    (clean : s.me.mce true [] [a.toNat, d.toNat] = 0#64) (active : s.me.act ≠ 0#64) (older : ∀ o ∈ s.me.ops, o.id < s.dev.nextId)
    (means : exec i s = .next (signalOp set w a d s)) : let j := signalJob set w a d s.me
    ((s.me.window w.toNat).kind = 1 → Accesses s j u cs → ∃ t x, exec i s = .next t ∧ t.me.ops = s.me.ops ++ [x] ∧
      x = { opOf s j cs with kind := match (cs.head?).map fun c => c.out.loc with
        | some (Loc.far _ _) => .signal set
        | _ => (opOf s j cs).kind } ∧ Issued s u { t with me := { t.me with ops := s.me.ops ++ [opOf s j cs] } } j cs) ∧
    ((s.me.window w.toNat).kind ≠ 1 → exec i s = .next (s.accessTrap 2 5 (maskOf (lowestLane s.me.act).toList))) := by
  intro j
  refine ⟨fun kind passes => ?_, fun other => means.trans (congrArg Host.Outcome.next (signalOp_kind set w a d clean active other))⟩
  obtain ⟨t, issued, is⟩ := signalOp_issues set w a d clean active unrecorded older kind passes
  refine ⟨_, _, means.trans (congrArg Host.Outcome.next is), rfl, MemOp.signal_lanes s j cs set, ?_⟩
  show Issued s u { t with me := { t.me with ops := s.me.ops ++ [opOf s j cs] } } j cs
  rw [← issued.op]
  exact issued

/-! ## SEMA (R279) -/

/-- A SEMA changes nothing of its company and context, whether it takes or waits. -/
theorem State.semaTry_frame {s : State} {m : SemaOp} {off : Nat} (still : Still s) (at' : m.loc = .mem off) (aligned : off % 4 = 0)
    (low : off < 0x020000000000) (clean : s.dev.badMask (off / 64 * 64) 64 = 0#64) : (s.semaTry m).co = s.co ∧ (s.semaTry m).cx = s.cx := by
  obtain ⟨takes, waits⟩ := State.semaTry_does still at' aligned low clean
  by_cases positive : s.dev.load off 4 ≠ 0 ∧ s.dev.load off 4 < 2 ^ 31
  · exact (takes positive.1 positive.2).frame
  · rw [waits (by omega)]
    exact ⟨rfl, rfl⟩

/-- A SEMA that took from its word after its checks, which may change windows alone, read from the state before them. -/
theorem SemaTaken.since {s u t : State} {m : SemaOp} {off : Nat} (h : SemaTaken u t m off) (me : u.me = { s.me with win := u.me.win }) :
    Retired s t 4 ∧ t.me.sget m.d = BitVec.ofNat 32 (u.dev.load off 4) ∧ t.dev.load off 4 = u.dev.load off 4 - 1 ∧
    (∀ x, x < off ∨ off + 4 ≤ x → t.dev.byte x = u.dev.byte x) ∧ t.dev.elsewhere = u.dev.elsewhere ∧
    (∀ r, r ≠ m.d → t.me.sget r = s.me.sget r) ∧ t.me.sema = none ∧
    { t.me.quiet with s := s.me.s, sp := s.me.sp, sema := s.me.sema, win := s.me.win } = s.me.quiet := by
  obtain ⟨⟨pc, icount, wait⟩, value, word, bytes, dev, others, sema, quiet, -⟩ := h
  rw [me] at pc icount others quiet
  exact ⟨⟨pc, icount, wait⟩, value, word, bytes, dev, others, sema, congrArg (fun c : Cohort => { c with win := s.me.win }) quiet⟩

/-! ## The barriers -/

/-- The arrival at the company barrier with which every cohort that has not ended has arrived, or one before it (R277). -/
theorem bar_arrives (d : Reg) {s : State} (still : Still s) (fresh : s.me.j ∉ s.co.barArrived) (new : ∀ p ∈ s.co.barDone, p.1 ≠ s.me.j) :
    let v := s.setCo { s.co with barArrived := s.co.barArrived ++ [s.me.j] }
    ((¬ ∀ j ∈ s.co.created, j ∉ s.co.ended → j ∈ v.co.barArrived) → exec (.bar d) s = .next (v.waitOn .bar)) ∧
    ((∀ j ∈ s.co.created, j ∉ s.co.ended → j ∈ v.co.barArrived) →
      exec (.bar d) s = .next (v.barClosed.leftBar d (decide (s.me.j = v.barLast))) ∧
      (v.barClosed.co.barDone.filter fun q => q.1 != s.me.j) = s.co.barDone ++ s.co.barArrived.map fun j => (j, decide (j = v.barLast))) := by
  intro v
  have filled := Company.barFull_iff (h := v.co) (by simp [v, State.setCo])
  obtain ⟨found, kept⟩ := find_flag (fun j => decide (j = v.barLast)) new fresh
  rw [exec_bar_arrives d still fresh new]
  refine ⟨fun open' => ?_, fun full => ⟨?_, kept⟩⟩
  · have closes : v.closeBar = v := if_neg fun full => open' (filled.1 full)
    exact congrArg Host.Outcome.next ((congrArg (State.leaveBar · d) closes).trans (State.leaveBar_waits d new))
  · have closes := State.closeBar_full (s := v) (js := s.co.barArrived) ((State.recording_congr rfl rfl).trans still.recorded) still.traced
      still.isAt rfl (filled.2 full)
    exact congrArg Host.Outcome.next ((congrArg (State.leaveBar · d) closes).trans (State.leaveBar_done d found))

/-- A GBARA whose cohort arrived has retired with the number of its phase (R278). -/
theorem GridStep.arrived {s t : State} {d : Reg} {l : Launch} (h : GridStep s t (s.me.arrived d) l) :
    Retired s (t.retire 4) 4 ∧ (t.retire 4).me.sget d.toNat = BitVec.ofNat 32 s.me.gcount ∧ (t.retire 4).me.gcount = s.me.gcount + 1 ∧
    (∀ r, r ≠ d.toNat → (t.retire 4).me.sget r = s.me.sget r) ∧
    { (t.retire 4).me.quiet with s := s.me.s, sp := s.me.sp, gcount := s.me.gcount } = s.me.quiet := by
  obtain ⟨pc, icount, value, others, rest⟩ := s.me.sput_retired d.toNat (BitVec.ofNat 32 s.me.gcount)
  have me : (t.retire 4).me = (s.me.arrived d).retire 4 := congrArg (Cohort.retire · 4) h.me
  refine ⟨⟨by rw [me]; exact pc, by rw [me]; exact icount, rfl⟩, by rw [me]; exact value, by rw [me]; rfl, ?_, ?_⟩
  · rw [me]
    exact others
  · rw [me]
    exact congrArg (fun c : Cohort => { c with gcount := s.me.gcount }) rest

/-- Outside a PERSIST launch the grid barrier's instructions are undefined, whichever it is. -/
theorem gbar_undefined (d : Reg) {s : State} (persist : s.co.hdr.persist = false) (unrecorded : s.recording = false) :
    exec (.gbara d) s = .next (s.ill 9) ∧ exec (.gbarw d) s = .next (s.ill 9) ∧ Trapped s (s.ill 9) 1 9 s.me.present 0 :=
  ⟨congrArg Host.Outcome.next (gridOnly_off persist), congrArg Host.Outcome.next (gridOnly_off persist),
    State.queueTrap_does s 1 9 s.me.present 0 unrecorded⟩

/-- Settles O36. The company barrier by whether the arrival completes its phase; the grid barrier by its open phase; SEMA by the sign of the
word; SEMR and SIGNAL as one request each. That a GBARW waits for the cohort's last arrival (log entry 42) and that a cohort which continues
from a barrier sees the last change of key and step (log entry 86) are choices of the model that the statement takes over. -/
theorem barriersAndSemaphores : Obligations.BarriersAndSemaphores := by
  unfold Obligations.BarriersAndSemaphores
  refine ⟨⟨?bar, ?leaves, ?arrives, ?ahead, ?gbarw, ?undefined⟩, ?sema, ?grant, ?semr, ?signal⟩
  case bar =>
    intro d s still fresh new a full epi
    obtain ⟨waits, closes⟩ := bar_arrives d still fresh new
    refine ⟨waits, fun all => ?_⟩
    obtain ⟨event, flags⟩ := closes all
    obtain ⟨retired, value, others, quiet, co, dev, cx, turns⟩ := State.leftBar_does
      (s.setCo { s.co with barArrived := s.co.barArrived ++ [s.me.j] }).barClosed d (decide (s.me.j = epi))
    exact ⟨_, event, ⟨retired.pc, retired.icount, retired.wait⟩, value.trans (by simp), others, quiet, co.trans (congrArg (fun x => { s.co with
      barArrived := [], barPhase := s.co.barPhase + 1, barDone := x }) flags), dev, cx, turns⟩
  case leaves =>
    intro d s e still done
    exact ⟨_, exec_bar_leaves d still done, s.leftBar_does d e⟩
  case arrives =>
    intro d s l still persist launch next own a who top full
    obtain ⟨l', step, open', closes⟩ := gbara_does d still launch next
    obtain ⟨retired, value, count, others, quiet⟩ := step.arrived
    rw [next] at value count
    exact ⟨_, l', exec_gbara_arrives d still persist launch next, retired, value, count, others, step.launch, open', closes, quiet, step.bytes, step.dev,
      step.cx, step.co, step.turns⟩
  case ahead => exact fun d s l still persist launch ahead => exec_gbara_waits d still persist launch ahead
  case gbarw =>
    intro d s l still persist launch own last done
    refine ⟨fun none => ?_, fun n is before => ?_, fun n is after => exec_gbarw_waits d persist launch is after⟩
    · obtain ⟨retired, value, others, quiet, launched, bytes, dev, cx, co, turns, free⟩ := gridLeft_none d launch
      exact ⟨_, exec_gbarw_none d persist launch none, retired, value, others, quiet, launched, bytes, dev, cx, co, turns, free⟩
    · obtain ⟨retired, value, others, quiet, launched, bytes, dev, cx, co, turns, free⟩ := State.gridLeft_does d launch n
      exact ⟨_, exec_gbarw_leaves d persist launch is before, retired, value, others, quiet, launched, bytes, dev, cx, co, turns, free⟩
  case undefined =>
    intro d s persist unrecorded
    obtain ⟨arrives, waits, trapped⟩ := gbar_undefined d persist unrecorded
    exact ⟨_, _, arrives, waits, trapped.stat, trapped.cause, rfl⟩
  case sema =>
    intro c w a d s u k off still cls active clean checked at' aligned aligned' low good
    have looked : LaneChecked s u := (congrArg (LaneChecked s ·.1) checked).mp (State.checkLanes_does ..)
    have still' := looked.still still
    obtain ⟨takes, waits⟩ := State.semaTry_does (m := { loc := .mem off, scope := c.toNat, d := d.toNat }) still' rfl aligned' low good
    obtain ⟨co, cx⟩ := State.semaTry_frame (m := { loc := .mem off, scope := c.toNat, d := d.toNat }) still' rfl aligned' low good
    refine ⟨_, exec_sema still' cls active clean checked at' aligned, ⟨fun some small => ?_, waits⟩, looked.dev,
      co.trans (congrArg State.co looked.rest : _), cx.trans (congrArg State.cx looked.rest : _)⟩
    obtain ⟨retired, value, word, bytes, dev, others, sema, quiet⟩ := (takes some small).since looked.me
    exact ⟨retired, value, word, bytes, dev, others, sema, quiet⟩
  case grant =>
    intro s m off still waiting wait idle at' aligned low good
    obtain ⟨takes, waits⟩ := State.semaTry_does still at' aligned low good
    refine ⟨_, exec_semaGrant still waiting wait, ⟨fun some small => ?_, waits⟩, State.semaTry_frame still at' aligned low good⟩
    have taken := takes some small
    exact ⟨taken.retired, taken.value, taken.word, taken.bytes, taken.dev, taken.others, taken.sema,
      congrArg (fun c : Cohort => { c with win := s.me.win }) taken.quiet⟩
  case semr => exact semr_does
  case signal =>
    intro row listed w a d s u cs j unrecorded clean active older
    simp only [List.mem_cons, List.not_mem_nil, or_false] at listed
    rcases listed with rfl | rfl
    · exact signal_does false w a d unrecorded clean active older rfl
    · exact signal_does true w a d unrecorded clean active older rfl

end Sys2Proof.Machine
end

section
/-!
The records of an EMIT (R282) where the hall of its cohort holds a queued invalidation of a record's byte (R115).
-/
namespace Sys2Proof.Machine

/-! ## A company of one cohort -/

/-- An event of a cohort of the current company, none of whose other cohorts is parked: it finds that cohort current, or changes nothing. -/
theorem State.onCohort_lone {s : State} {dseq : Nat} (placed : s.co.place ≠ .absent) (company : s.co.dseq = dseq) (alone : s.co.cohorts = [])
    (j : Nat) (f : State → State) : s.onCohort dseq j f = if s.isAt dseq j then f s else s := by
  by_cases here : s.isAt dseq j = true
  · rw [State.onCohort_at _ _ _ _ here, if_pos here]
  · rw [if_neg here]
    have other : ¬ (s.me.stat ≠ .absent ∧ s.me.j = j) := fun ⟨present, same⟩ => here (by simp [State.isAt, placed, company, present, same])
    have missing : (s.focus dseq j).isAt dseq j = false := by
      have focused : s.focusCo dseq = s := if_pos ⟨placed, company⟩
      unfold State.focus
      rw [if_neg fun ⟨_, _, same⟩ => other same, focused]
      dsimp only
      rw [if_pos ⟨placed, company⟩]
      unfold State.parkMe
      by_cases absent : s.me.stat = .absent
      · simp [absent, alone, State.isAt]
      · have unlike : s.me.j ≠ j := fun same => other ⟨absent, same⟩
        simp [absent, alone, insertCohort, unlike, State.isAt, Cohort.null]
    unfold State.onCohort
    dsimp only
    rw [missing]
    rfl

/-! ## A full ring -/

/-- A field of a descriptor is told by the bytes of memory. -/
theorem Device.nodeGet_congr {d e : Device} (bytes : ∀ x, e.byte x = d.byte x) (asa o n : Nat) : e.nodeGet asa o n = d.nodeGet asa o n :=
  congrArg leNat (List.map_congr_left fun _ _ => bytes _)

theorem Device.node_congr {d e : Device} (bytes : ∀ x, e.byte x = d.byte x) (asa : Nat) :
    e.nodeState asa = d.nodeState asa ∧ e.nodeHeld asa = d.nodeHeld asa ∧ e.nodeCap asa = d.nodeCap asa := by
  have field := Device.nodeGet_congr bytes asa
  unfold Device.nodeState Device.nodeHeld Device.nodeEmitted Device.nodeClaimed Device.nodeCap
  simp only [field, and_self]

/-- With a full ring an EMIT keeps every record that it is still to append (R191). -/
theorem State.appendRecs_full {s : State} {asa : Nat} {recs : List (List Byte × Nat)} (some' : recs ≠ [])
    (heard : (s.launch?).map (fun l => l.mute asa) = some false) (whole : s.dev.nodeState asa ≠ 2) (full : s.dev.nodeHeld asa = s.dev.nodeCap asa) :
    (s.appendRecs asa recs).me.emit = some { node := asa, recs := recs } := by
  cases recs with
  | nil => exact absurd rfl some'
  | cons r rs =>
    unfold State.appendRecs
    dsimp only
    rw [heard, if_neg (show ¬ (s.dev.nodeState asa = 2 ∨ some false ≠ some false) by simpa using whole), if_pos full]
    split <;> rfl

/-- EMIT_APPEND of the one cohort of its company leaves the records of a full ring's EMIT as they are. -/
theorem emitAppend_keeps {s : State} {e : EmitOp} (placed : s.co.place ≠ .absent) (alone : s.co.cohorts = []) (emits : s.me.emit = some e)
    (some' : e.recs ≠ []) (heard : (s.launch?).map (fun l => l.mute e.node) = some false) (whole : s.dev.nodeState e.node ≠ 2)
    (full : s.dev.nodeHeld e.node = s.dev.nodeCap e.node) (j : Nat) :
    ∃ t, exec (.emitAppend s.co.dseq j) s = .next t ∧ t.me.emit = some e := by
  refine ⟨_, rfl, ?_⟩
  rw [State.onCohort_lone placed rfl alone, emits]
  dsimp only
  split
  · split
    · exact State.appendRecs_full some' heard whole full
    · exact emits
  · exact emits

/-! ## The state of the counterexample -/

/-- A device whose memory gives the node at ASA 0 records of 16 bytes and a full ring of one slot, and where hall 0 still sees the byte 1
at an address of HBM4 that holds 0: the invalidation of another hall's write is queued there (R115). -/
def staleDev : Device :=
  { Tests.st0.dev.setReg 0x1000 1 with
    mem := [(4, 1#8), (8, 16#8), (0x18, 1#8)].foldl (fun m x => Store.set 0#8 m (nodeAt 0 x.1) x.2) Tests.st0.dev.mem
    halls := Tests.st0.dev.halls.set 0 { Hall.reset with inval := [{ seq := 0, old := [(0x100000, 1#8)], entered := true }] } }

/-- A cohort there, alone, whose launch is a predecessor of the node and whose window 1 leads to that address. -/
def staleSource : State := { Tests.stN with dev := staleDev, me := Tests.meG }

/-- The checks of its two lanes, which read one record. -/
def staleChecks : List LaneChk := [0, 1].map fun i => { lane := i, addr := 0x20000, out := .at (.mem 0x100000) }

/-- The state after those checks. -/
def staleChecked : State := (staleSource.checkLanes 1 .load .plain (granules (staleDev.nodeSize 0) (staleSource.me.offsets false 3))).1

/-- The bytes of the records that wait. -/
def State.waiting (s : State) : Option (List (List Byte)) := s.me.emit.map fun e => e.recs.map (·.1)

theorem staleSource_still : Still staleSource := ⟨rfl, rfl, ⟨0, rfl⟩, (fun _ listed => nomatch listed), ⟨rfl, rfl⟩, rfl, rfl⟩

theorem staleSource_checks : (staleSource.checkLanes 1 .load .plain (granules (staleDev.nodeSize 0) (staleSource.me.offsets false 3))).2 = staleChecks := by
  decide +kernel

theorem staleChecks_reach : ∀ c ∈ staleChecks, (∃ off, c.out = .at (.mem off) ∨ c.out = .at (.loc off)) ∧ c.addr % 16 = 0 := by
  intro c listed
  obtain ⟨i, -, rfl⟩ := List.mem_map.1 listed
  exact ⟨⟨0x100000, .inl rfl⟩, show 0x20000 % 16 = 0 by decide⟩

/-- The EMIT reads the records as hall 0 sees them. -/
theorem staleSource_emits : (match exec (.emit false 1 3 5 false) staleSource with
    | .next t => t.waiting
    | _ => none) = some (List.replicate 2 (1#8 :: List.replicate 15 0#8)) := by decide +kernel

/-- Memory itself holds zeros there. -/
theorem staleChecked_zero : (toRecords (max 1 (staleChecked.dev.nodeSize 0 / 16)) (staleChecks.length + 1) (staleChecks.map fun c =>
    ((List.range 16).map fun i => match c.out with
      | .at (.mem off) => staleChecked.dev.byte (off + i)
      | .at (.loc off) => Store.get 0#8 staleSource.co.ls (off + i)
      | _ => 0#8, 0#64))).map (·.1) = List.replicate 2 (List.replicate 16 0#8) := by decide +kernel

theorem staleChecked_full : staleChecked.dev.nodeState 0 = 0 ∧ staleChecked.dev.nodeHeld 0 = staleChecked.dev.nodeCap 0 := by decide +kernel

/-! ## The obligation -/

/-- Refutes O37: an EMIT is a release and no acquire, so the hall of its cohort may still see, of a byte that another hall has written, the
value before (R115); the record that it takes holds that value, and not the one of memory that the statement names. -/
theorem not_emitsAndGraphNodes : ¬ Obligations.EmitsAndGraphNodes := by
  unfold Obligations.EmitsAndGraphNodes
  intro h
  have begins := h.1.2
  obtain ⟨v, recs, event, emits, values, -, -, -, bytes, -, co, cx, -⟩ := begins false 1 3 5 false staleSource staleChecked Tests.node0 staleChecks
    staleSource_still rfl (by decide +kernel) (by decide) (by decide +kernel) (by decide +kernel) (Prod.ext rfl staleSource_checks) staleChecks_reach
  replace values : recs.map (·.1) = List.replicate 2 (List.replicate 16 0#8) := values.trans staleChecked_zero
  obtain ⟨state, held, slots⟩ := Device.node_congr bytes 0
  obtain ⟨opened, full⟩ := staleChecked_full
  have whole : v.dev.nodeState 0 ≠ 2 := by rw [state, opened]; decide
  have filled : v.dev.nodeHeld 0 = v.dev.nodeCap 0 := by rw [held, slots, full]
  have heard : (v.launch?).map (fun l => l.mute 0) = some false := by unfold State.launch?; rw [co, cx]; rfl
  obtain ⟨t, appended, kept⟩ := emitAppend_keeps (by rw [co]; decide) (by rw [co]; rfl) emits (by rintro rfl; simp at values) heard whole filled 0
  have shown := staleSource_emits
  rw [event, show staleSource.co.dseq = v.co.dseq from congrArg Company.dseq co.symm, show staleSource.me.j = 0 from rfl, appended] at shown
  simp [State.waiting, kept, values] at shown

end Sys2Proof.Machine
end

section
/-!
SUPPORT. Tiles as they read (R293), and operations on tiles in a context that is not recorded (R295).
-/
namespace Sys2Proof.Machine

/-! ## Elements -/

section
variable (f : Nat → Nat → Word) (p : Nat → Nat → Bool) {i c : Nat} (row : i < 64) (col : c < 64)
include row col

theorem Tile.build_at : (Tile.build f p).at i c = f i c := by
  have place : 64 * i + c ∈ List.range 4096 := List.mem_range.2 (by omega)
  have read := Store.get_filterMap 0#32 (fun k => f (k / 64) (k % 64)) place
  rw [show (64 * i + c) / 64 = i by omega, show (64 * i + c) % 64 = c by omega] at read
  unfold Tile.at Tile.build
  dsimp only
  exact read

theorem Tile.build_bad : (Tile.build f p).bad i c = p i c := by
  have place : 64 * i + c ∈ List.range 4096 := List.mem_range.2 (by omega)
  have read := Store.get_filterMap false (fun k => p (k / 64) (k % 64)) place
  rw [show (64 * i + c) / 64 = i by omega, show (64 * i + c) % 64 = c by omega] at read
  have entry : (fun k => if p (k / 64) (k % 64) = false then none else some (k, p (k / 64) (k % 64))) =
      fun k => if p (k / 64) (k % 64) then some (k, true) else none := funext fun k => by cases p (k / 64) (k % 64) <;> rfl
  rw [entry] at read
  unfold Tile.bad Tile.build
  dsimp only
  exact read

end

/-- Rows of a mask whose elements in some columns hold no poison. -/
theorem Tile.badRows_clean {x : Tile} {m : Mask} {lo hi : Nat}
    (clean : ∀ i c, i < 64 → m.getLsbD i = true → lo ≤ c → c < hi → x.bad i c = false) : x.badRows lo hi &&& m = 0#64 := by
  refine BitVec.eq_of_getLsbD_eq fun i row => ?_
  rw [BitVec.getLsbD_and, Tile.badRows, bitsOf_getLsbD _ _ row, BitVec.getLsbD_zero, Bool.and_eq_false_iff]
  by_cases here : m.getLsbD i = true
  · refine .inl (List.any_eq_false.2 fun c inside => ?_)
    rw [clean i (lo + c) row here (by omega) (by have := List.mem_range.1 inside; omega)]
    exact Bool.false_ne_true
  · exact .inr (Bool.eq_false_iff.2 here)

/-! ## Names -/

section
variable (h : Company) (t n : Nat)

theorem Company.tiles_tilePut (x : Tile) : Store.get none (h.tilePut t x).tiles n = if n = t then some x else Store.get none h.tiles n :=
  Store.get_set none h.tiles t n (some x)

theorem Company.dirty_tilePut (x : Tile) : Store.get false (h.tilePut t x).dirty n = if n = t then true else Store.get false h.dirty n :=
  Store.get_set false h.dirty t n true

theorem Company.tiles_tileFree : Store.get none (h.tileFree t).tiles n = if n = t then none else Store.get none h.tiles n :=
  Store.get_set none h.tiles t n none

theorem Company.dirty_tileFree : Store.get false (h.tileFree t).dirty n = if n = t then false else Store.get false h.dirty n :=
  Store.get_set false h.dirty t n false

end

/-! ## Operations on tiles -/

theorem State.replayHoldsAll_off {s : State} (unrecorded : s.recording = false) (places : List Nat) : s.replayHoldsAll places = false := by
  rw [State.replayHoldsAll, State.replays, unrecorded]
  rfl

/-- Where nothing is recorded before it or after, an operation on tiles whose written name finds a tile is what it does (R293, R295). -/
theorem State.onTiles_off {s : State} {write : Option Nat} {f : State → State} (ts : List Nat) (unrecorded : s.recording = false)
    (found : ∀ t ∈ write, s.canTile t = true) (after : (f s).recording = false) : s.onTiles write ts f = f s := by
  have free : ¬ (write.any (fun t => !(s.canTile t)) = true) := by
    cases write with
    | none => simp
    | some t => simp [found t rfl]
  rw [State.onTiles, State.replayHoldsAll_off unrecorded, if_neg Bool.false_ne_true, if_neg free]
  dsimp only
  split
  · exact (List.foldl_map (f := s.tilePlace)).symm.trans (State.foldl_logPlace_off _ 1 _ after)
  · rfl

/-! ## Tiles that can be written -/

/-- What a list of companies shows of a company that is put in its place. -/
theorem map_insertCompany {α : Type} {g : Company → α} {h k : Company} (same : g h = g k) (dseq : h.dseq = k.dseq) (l : List Company) :
    (insertCompany h l).map g = (insertCompany k l).map g := by
  induction l with
  | nil => exact congrArg (fun x => [x]) same
  | cons x xs ih =>
    rw [insertCompany, insertCompany, dseq]
    split
    · rw [List.map_cons, same]
      rfl
    · rw [List.map_cons, List.map_cons, ih]

/-- A company apart from its latches. -/
def Company.unlatched (h : Company) : Company := { h with latches := [] }

/-- The state with other latches. -/
def State.holding (s : State) (ls : List Latch) : State := s.setCo { s.co with latches := ls }

theorem State.companies_unlatched (s : State) (ls : List Latch) :
    (s.holding ls).companies.map Company.unlatched = s.companies.map Company.unlatched := by
  have gathered : ∀ u : State, u.coAll.unlatched =
      if u.me.stat = .absent then u.co.unlatched else { u.co.unlatched with cohorts := insertCohort u.me u.co.cohorts } := fun u => by
    unfold State.coAll
    split <;> rfl
  have same : (s.holding ls).coAll.unlatched = s.coAll.unlatched := by
    rw [gathered, gathered]
    rfl
  have dseq : (s.holding ls).coAll.dseq = s.coAll.dseq := by
    rw [State.coAll_dseq, State.coAll_dseq]
    rfl
  unfold State.companies
  by_cases absent : s.co.place = .absent
  · rw [if_pos absent, if_pos (show (s.holding ls).co.place = .absent from absent)]
    rfl
  · rw [if_neg absent, if_neg (show ¬ (s.holding ls).co.place = .absent from absent)]
    exact map_insertCompany same dseq _

/-- Latches hold no tiles and ask for none. -/
theorem State.canTile_holding (s : State) (ls : List Latch) (t : Nat) : (s.holding ls).canTile t = s.canTile t := by
  have companies := s.companies_unlatched ls
  have free : ∀ (u : State) (k : Nat), u.tfreeOf k =
      16 - (((u.companies.map Company.unlatched).filter fun c => c.coreOf == some k).map Company.tused).foldl (· + ·) 0 := fun u k => by
    rw [List.filter_map, List.map_map]
    rfl
  have older : ∀ (u : State) (h : Company) (k : Nat), u.older h k .allocT =
      (u.companies.map Company.unlatched).any fun x => x.coreOf == some k && decide (x.dseq < h.dseq) && x.awaits .allocT := fun u h k => by
    rw [List.any_map]
    rfl
  simp only [State.canTile, free, older, companies]
  rfl

end Sys2Proof.Machine
end

section
/-!
SUPPORT. Format blocks (R299 to R301, Tables 11-4 and 11-5) and the checks of MMA (R303).
-/
namespace Sys2Proof.Machine

/-! ## Fields of a format block -/

/-- The field of `n` bits from bit `lo` of a format block (Table 11-4). -/
def blockField (x : DWord) (lo n : Nat) : Nat := x.toNat / 2 ^ lo % 2 ^ n

theorem blockField_lt (x : DWord) (lo n : Nat) : blockField x lo n < 2 ^ n := Nat.mod_lt _ (Nat.two_pow_pos n)

/-- Bits of an element of a code (Table 11-5). -/
def codeWidth (c : Nat) : Nat := [16, 16, 8, 8, 4, 8, 4, 8].getD c 0

/-- Whether an element code goes with an MX bit (R299, Table 11-5). -/
def MxFits (code mx : Nat) : Prop := if mx = 1 then code ∈ [2, 3, 4, 7] else code ≠ 7

/-- A format block passes the checks of R299. -/
def FormatFits (x : DWord) : Prop :=
  blockField x 41 23 = 0 ∧ blockField x 13 3 = 0 ∧ MxFits (blockField x 0 3) (blockField x 3 1) ∧ MxFits (blockField x 4 3) (blockField x 7 1) ∧
    codeWidth (blockField x 0 3) = codeWidth (blockField x 4 3)

/-- L: the elements of a block of K (R299). -/
def blockLen (x : DWord) : Nat := if blockField x 8 1 = 1 then 16 else 32

/-- The elements of K that a member supplies (R300). -/
def perMember (x : DWord) : Nat := (blockField x 9 4 + 1) * (32 / codeWidth (blockField x 0 3))

/-- The registers of an A group (R301). -/
def groupLen (x : DWord) : Nat :=
  blockField x 9 4 + 1 + (if blockField x 3 1 = 1 then (perMember x / blockLen x + 3) / 4 else 0)

/-- A format block passes the checks of R300 for a gang of `n` members and an A group at `a`. -/
def ShapeFits (x : DWord) (n a : Nat) : Prop :=
  perMember x % blockLen x = 0 ∧ a + groupLen x ≤ 64 ∧ 16 * blockField x 23 9 + codeWidth (blockField x 0 3) * (n * perMember x) ≤ 8192 ∧
    (blockField x 7 1 = 1 → 2 * blockField x 32 9 + n * perMember x / blockLen x ≤ 1024)

theorem bit_eq_field (x : DWord) (i : Nat) : bit x.toNat i = decide (blockField x i 1 = 1) := rfl

theorem elemFmt_width {c : Nat} (code : c < 8) : (elemFmt c).width = codeWidth c := by
  revert c
  decide

section
variable (x : DWord)

theorem Block.of_w : (Block.of x).w = codeWidth (blockField x 0 3) := elemFmt_width (blockField_lt x 0 3)

theorem Block.of_l : (Block.of x).l = blockLen x := by
  rw [blockLen, Block.of, bit_eq_field]
  simp

theorem Block.of_kA : (Block.of x).kA = perMember x := by
  rw [Block.kA, Block.of_w]
  rfl

theorem Block.of_group : (Block.of x).group = groupLen x := by
  rw [Block.group, Block.of_kA, Block.of_l]
  simp only [Block.of, bit_eq_field, decide_eq_true_eq]
  rfl

end

theorem mxOk_iff {code : Nat} (inside : code < 8) (x : DWord) (i : Nat) : mxOk code (bit x.toNat i) = true ↔ MxFits code (blockField x i 1) := by
  rw [bit_eq_field, mxOk, MxFits]
  by_cases mx : blockField x i 1 = 1
  · simp only [mx, decide_true, if_true, decide_eq_true_eq, List.mem_cons, List.not_mem_nil, or_false]
    omega
  · simp [mx]

theorem blockOk_iff (x : DWord) : blockOk x = true ↔ FormatFits x := by
  have fa := blockField_lt x 0 3
  have fb := blockField_lt x 4 3
  have same : ((elemFmt (Block.of x).fa).width == (elemFmt (Block.of x).fb).width) = true ↔
      codeWidth (blockField x 0 3) = codeWidth (blockField x 4 3) := by
    rw [← elemFmt_width fa, ← elemFmt_width fb, beq_iff_eq]
    rfl
  have a : mxOk (Block.of x).fa (Block.of x).amx = true ↔ MxFits (blockField x 0 3) (blockField x 3 1) := mxOk_iff fa x 3
  have b : mxOk (Block.of x).fb (Block.of x).bmx = true ↔ MxFits (blockField x 4 3) (blockField x 7 1) := mxOk_iff fb x 7
  simp only [blockOk, Bool.and_eq_true, a, b, same, beq_iff_eq, and_assoc]
  rfl

theorem shapeOk_iff (x : DWord) (n a : Nat) : shapeOk (Block.of x) n a = true ↔ ShapeFits x n a := by
  have bmx : (Block.of x).bmx = true ↔ blockField x 7 1 = 1 := decide_eq_true_iff
  simp only [shapeOk, Block.of_kA, Block.of_l, Block.of_group, Block.of_w, Bool.and_eq_true, Bool.or_eq_true, Bool.not_eq_true', beq_iff_eq,
    decide_eq_true_eq, and_assoc, ShapeFits, ← bmx, imp_iff_not_or, Bool.not_eq_true]
  rfl

/-! ## The checks in their order -/

/-- A cohort is a member of the gang that its register lists. -/
def InGang (s : State) : Prop := s.me.gang ≠ 0#32 ∧ s.me.j ∈ gangMembers s.me.gang

theorem ganged_iff (s : State) : s.me.ganged = true ↔ InGang s := by
  simp [Cohort.ganged, InGang]

theorem not_ganged {s : State} (other : ¬ InGang s) : s.me.ganged = false := Bool.eq_false_iff.2 fun ganged => other ((ganged_iff s).1 ganged)

/-- #MTX stops the cohort at the instruction with its cause (Table 11-2). -/
theorem State.mtx_does {s : State} (unrecorded : s.recording = false) (cause : Nat) : Trapped s (s.mtx cause) 8 cause s.me.present 0 :=
  s.queueTrap_does 8 cause _ 0 unrecorded

section
variable (ma : Bool) (b a : Reg) (t : BitVec 4) {s : State}

theorem exec_mma_partial (narrowed : s.me.em ≠ s.me.present) : exec (.mma ma b a t) s = .next (s.mtx 2) :=
  congrArg Host.Outcome.next (if_pos narrowed)

variable (full : s.me.em = s.me.present)
include full

theorem exec_mma_outside (outside : ¬ InGang s) : exec (.mma ma b a t) s = .next (s.mtx 1) :=
  congrArg Host.Outcome.next ((if_neg (not_not_intro full)).trans (if_pos (not_ganged outside)))

variable (inside : InGang s)
include inside

theorem exec_mma_ganged : exec (.mma ma b a t) s = .next (
    let k := Block.of (s.me.sget64 b.toNat)
    if s.dev.engineOwned s.co.dseq s.me.gang = false then (if s.co.regain.contains s.me.gang then s.waitOn .macq else s.mtx 3)
    else if blockOk (s.me.sget64 b.toNat) = false then s.mtx 5
    else if shapeOk k (gangCount s.me.gang) a.toNat = false then s.mtx 6
    else if s.co.slots.length ≤ k.slot then s.mtx 7
    else if s.me.spoison b.toNat || s.me.spoison (b.toNat + 1) then s.queueTrap 6 1 s.me.present 0
    else s.arrive t.toNat s.me.gang (s.me.sget64 b.toNat) { j := s.me.j, a := a, mark := ma }) :=
  congrArg Host.Outcome.next ((if_neg (not_not_intro full)).trans (if_neg (by simp [(ganged_iff s).2 inside])))

theorem exec_mma_unowned (unowned : s.dev.engineOwned s.co.dseq s.me.gang = false) (kept : s.me.gang ∉ s.co.regain) :
    exec (.mma ma b a t) s = .next (s.mtx 3) := by
  simp [exec_mma_ganged ma b a t full inside, unowned, kept]

variable (owned : s.dev.engineOwned s.co.dseq s.me.gang = true)
include owned

theorem exec_mma_malformed (malformed : ¬ FormatFits (s.me.sget64 b.toNat)) : exec (.mma ma b a t) s = .next (s.mtx 5) := by
  simp [exec_mma_ganged ma b a t full inside, owned, Bool.eq_false_iff.2 fun fits => malformed ((blockOk_iff _).1 fits)]

variable (fits : FormatFits (s.me.sget64 b.toNat))
include fits

theorem exec_mma_misshapen (misshapen : ¬ ShapeFits (s.me.sget64 b.toNat) (gangCount s.me.gang) a.toNat) :
    exec (.mma ma b a t) s = .next (s.mtx 6) := by
  simp [exec_mma_ganged ma b a t full inside, owned, (blockOk_iff _).2 fits,
    Bool.eq_false_iff.2 fun shape => misshapen ((shapeOk_iff ..).1 shape)]

variable (shape : ShapeFits (s.me.sget64 b.toNat) (gangCount s.me.gang) a.toNat)
include shape

theorem exec_mma_slotless (beyond : s.co.slots.length ≤ blockField (s.me.sget64 b.toNat) 16 7) : exec (.mma ma b a t) s = .next (s.mtx 7) := by
  have beyond' : s.co.slots.length ≤ (Block.of (s.me.sget64 b.toNat)).slot := beyond
  simp [exec_mma_ganged ma b a t full inside, owned, (blockOk_iff _).2 fits, (shapeOk_iff ..).2 shape, beyond']

/-- An MMA that passes its checks arrives at the latch of its tile (R303). -/
theorem exec_mma_arrives (slot : blockField (s.me.sget64 b.toNat) 16 7 < s.co.slots.length) (low : s.me.spoison b.toNat = false)
    (high : s.me.spoison (b.toNat + 1) = false) :
    exec (.mma ma b a t) s = .next (s.arrive t.toNat s.me.gang (s.me.sget64 b.toNat) { j := s.me.j, a := a, mark := ma }) := by
  have slot' : ¬ s.co.slots.length ≤ (Block.of (s.me.sget64 b.toNat)).slot := Nat.not_le.2 slot
  simp [exec_mma_ganged ma b a t full inside, owned, (blockOk_iff _).2 fits, (shapeOk_iff ..).2 shape, slot', low, high]

end

end Sys2Proof.Machine
end

section
/-!
SUPPORT. The latch of a tile: arriving there, and what its firing leaves (R303, R304).
-/
namespace Sys2Proof.Machine

/-! ## Cohorts of a company by index -/

theorem State.mate?_me (s : State) : s.mate? s.me.j = some s.me := if_pos rfl

section
variable {s : State} (gathered : Gathered s)
include gathered

theorem Gathered.isAt : s.isAt s.co.dseq s.me.j = true := by
  simp [State.isAt, gathered.placed, gathered.here]

/-- The cohort of an index among all of the company's. -/
theorem Gathered.find_coAll (j : Nat) : s.coAll.cohorts.find? (fun c => c.j == j) = s.mate? j := by
  have perm := insertCohort_perm s.me s.co.cohorts
  have all : s.coAll.cohorts = insertCohort s.me s.co.cohorts := congrArg Company.cohorts (if_neg gathered.here)
  rw [all, find_cohort_perm perm ((perm.map _).nodup_iff.2 gathered.distinct), find_cons]
  rfl

/-- An operation that changes only the cohort it runs in, run in a cohort of the company, current or not: that cohort changes, nothing else
does. -/
theorem Gathered.onCohort {j : Nat} {c : Cohort} (f : State → State) (g : Cohort → Cohort) (only : ∀ t : State, f t = t.setMe (g t.me))
    (keeps : ∀ c, (g c).j = c.j ∧ (c.stat ≠ .absent → (g c).stat ≠ .absent)) (mate : s.mate? j = some c) :
    let t := s.onCohort s.co.dseq j f
    Gathered t ∧ t = { s with me := t.me, co := { s.co with cohorts := t.co.cohorts } } ∧ t.me.j = s.me.j ∧
      ∀ k, t.mate? k = if k = j then some (g c) else s.mate? k := by
  by_cases current : j = s.me.j
  · subst current
    obtain rfl : s.me = c := Option.some.inj (s.mate?_me.symm.trans mate)
    intro t
    obtain ⟨index, present⟩ := keeps s.me
    have is : t = s.setMe (g s.me) := (State.onCohort_at _ _ _ _ gathered.isAt).trans (only s)
    rw [is]
    refine ⟨⟨?_, gathered.placed, present gathered.here, gathered.present⟩, rfl, index, fun k => ?_⟩
    · rw [State.setMe_me, index]
      exact gathered.distinct
    · unfold State.mate?
      rw [State.setMe_me, index]
      split <;> rfl
  · obtain ⟨X, is, gathered', mates⟩ := State.onMate gathered f g only keeps current mate
    intro t
    rw [show t = _ from is]
    exact ⟨gathered', rfl, rfl, mates⟩

end

/-! ## An MMA retires -/

/-- The cohort once its MMA has retired (R303). -/
def Cohort.mmaRetired (c : Cohort) (names : List Nat) (mark : Bool) : Cohort :=
  let me := c.unalloc (c.misses names)
  (if mark then me.freeAll names else me).retire 4

section
variable (c : Cohort) (names : List Nat) (mark : Bool)

theorem Cohort.mmaRetired_rest : { c.mmaRetired names mark with v := c.v, cr := c.cr } = c.retire 4 := by
  cases mark
  · rw [Cohort.mmaRetired, Cohort.unalloc_eq]
    rfl
  · rw [Cohort.mmaRetired, Cohort.freeAll_eq, Cohort.unalloc_eq]
    rfl

theorem Cohort.vget_mmaRetired (k : Nat) :
    (c.mmaRetired names mark).vget k = if mark = true ∧ k ∈ names then VReg.zero else c.vget k := by
  cases mark
  · exact (Cohort.vget_unalloc c _ k).trans (if_neg (by simp)).symm
  · refine (Cohort.vget_freeAll names _ k).trans ?_
    simp

end

/-- The arrivals of a latch retire one after another: each cohort that arrived has retired its MMA, and nothing else changed. -/
theorem mmaRetires (n : Nat) (rs : List Arrival) : ∀ {s : State}, Gathered s → (rs.map (·.j)).Nodup → (∀ r ∈ rs, (s.mate? r.j).isSome = true) →
    let u := rs.foldl (fun t r => t.onCohort t.co.dseq r.j fun u => u.mmaRetire r.a.toNat n r.mark) s
    u = { s with me := u.me, co := { s.co with cohorts := u.co.cohorts } } ∧ u.me.j = s.me.j ∧
      (∀ r ∈ rs, ∀ c, s.mate? r.j = some c → u.mate? r.j = some (c.mmaRetired (groupNames r.a.toNat n) r.mark)) ∧
      ∀ j, j ∉ rs.map (·.j) → u.mate? j = s.mate? j := by
  induction rs with
  | nil => exact fun _ _ _ => ⟨rfl, rfl, fun _ none => absurd none List.not_mem_nil, fun _ _ => rfl⟩
  | cons r rs ih =>
    intro s gathered distinct mates u
    obtain ⟨other, distinct'⟩ := List.nodup_cons.1 (List.map_cons (f := Arrival.j) ▸ distinct)
    obtain ⟨mate, mates'⟩ := List.forall_mem_cons.1 mates
    obtain ⟨c, mate⟩ := Option.isSome_iff_exists.1 mate
    have keeps : ∀ c : Cohort, (c.mmaRetired (groupNames r.a.toNat n) r.mark).j = c.j ∧
        (c.stat ≠ .absent → (c.mmaRetired (groupNames r.a.toNat n) r.mark).stat ≠ .absent) := fun c => by
      have rest := c.mmaRetired_rest (groupNames r.a.toNat n) r.mark
      have stat : (c.mmaRetired (groupNames r.a.toNat n) r.mark).stat = c.stat := (congrArg Cohort.stat rest :)
      exact ⟨(congrArg Cohort.j rest :), fun present => stat ▸ present⟩
    obtain ⟨gathered', is, index, changed⟩ := gathered.onCohort (fun u => u.mmaRetire r.a.toNat n r.mark)
      (fun c => c.mmaRetired (groupNames r.a.toNat n) r.mark) (fun _ => rfl) keeps mate
    generalize step : s.onCohort s.co.dseq r.j (fun u => u.mmaRetire r.a.toNat n r.mark) = t at gathered' is index changed
    have folded : u = rs.foldl (fun t r => t.onCohort t.co.dseq r.j fun u => u.mmaRetire r.a.toNat n r.mark) t := step ▸ rfl
    have apart : ∀ y ∈ rs, y.j ≠ r.j := fun y listed same => other (List.mem_map.2 ⟨y, listed, same⟩)
    obtain ⟨is', index', retired, kept⟩ := ih gathered' distinct' fun y listed => by
      rw [changed, if_neg (apart y listed)]
      exact mates' y listed
    rw [← folded] at is' index' retired kept
    refine ⟨?_, index'.trans index, List.forall_mem_cons.2 ⟨fun d found => ?_, fun y listed d found => ?_⟩, fun j unlisted => ?_⟩
    · rw [is', is]
    · obtain rfl : c = d := Option.some.inj (mate.symm.trans found)
      rw [kept r.j other, changed, if_pos rfl]
    · refine retired y listed d ?_
      rw [changed, if_neg (apart y listed)]
      exact found
    · obtain ⟨unlike, unlisted'⟩ := not_or.1 (fun h => unlisted (List.mem_cons.2 h))
      rw [kept j unlisted', changed, if_neg unlike]

end Sys2Proof.Machine
end

section
/-!
Matrix multiply: MMA's checks, its latch and its firing (R299 to R304).
-/
namespace Sys2Proof.Machine

/-! ## Arriving at the latch (R303) -/

/-- The members that wait at the latch of a tile. -/
def State.waitingAt (s : State) (t : Nat) : List Arrival := ((s.co.latches.find? fun l => l.tile == t).map (·.arrived)).getD []

/-- The latches of the other tiles. -/
def State.latchesBut (s : State) (t : Nat) : List Latch := s.co.latches.filter fun l => l.tile != t

/-- The latch of a tile with the members that wait there and one more. -/
def State.latchWith (s : State) (t : Nat) (g : Word) (x : DWord) (r : Arrival) : Latch :=
  { tile := t, gang := g, block := x, arrived := s.waitingAt t ++ [r] }

/-- The latch of a tile, if one is open, is of a gang and a format block. -/
def State.latchOf (s : State) (t : Nat) (g : Word) (x : DWord) : Prop := ∀ l ∈ s.co.latches, l.tile = t → l.gang = g ∧ l.block = x

/-- Every cohort that a gang lists is in it. -/
def State.allIn (s : State) (g : Word) : Prop := ∀ c ∈ s.coAll.cohorts, c.j ∈ gangMembers g → c.stat ≠ .ended ∧ c.gang = g

section
variable {s : State} {t : Nat} {g : Word} {x : DWord} (r : Arrival) (joined : s.allIn g) (opened : s.latchOf t g x)
  (first : s.waitingAt t = [] → ∀ l ∈ s.latchesBut t, l.gang ≠ g)
include joined opened first

/-- An arrival that opens a latch or joins the one of its tile: it fires the latch where it is the last. -/
theorem State.arrive_joins : s.arrive t g x r =
    if (gangMembers g).all (fun j => (s.waitingAt t ++ [r]).any fun y => y.j == j) then
      (if s.filling (Block.of x).slot then s.waitOn .drain
      else (s.holding (s.latchesBut t)).onTiles (some t) [t] fun u => u.fire (s.latchWith t g x r))
    else (s.holding (s.latchesBut t ++ [s.latchWith t g x r])).waitOn .latch := by
  have agree : ¬ (((s.coAll.listed g).any fun c => c.stat == .ended || c.gang != g) = true) := by
    simp only [Company.listed, List.any_filter, List.any_eq_true, not_exists, not_and]
    intro c listed
    by_cases member : c.j ∈ gangMembers g
    · obtain ⟨lives, same⟩ := joined c listed member
      simp [lives, same]
    · simp [member]
  have here : (s.co.latches.find? fun l => l.tile == t).getD { tile := t, gang := g, block := x, arrived := [] } =
      { tile := t, gang := g, block := x, arrived := s.waitingAt t } := by
    unfold State.waitingAt
    cases found : s.co.latches.find? fun l => l.tile == t with
    | none => rfl
    | some l =>
      have tile : l.tile = t := by simpa using List.find?_some found
      obtain ⟨gang, block⟩ := opened l (List.mem_of_find?_eq_some found) tile
      exact (by rw [← tile, ← gang, ← block] : l = { tile := t, gang := g, block := x, arrived := l.arrived })
  have alone : ¬ (((s.waitingAt t).isEmpty && (s.latchesBut t).any fun l => l.gang == g) = true) := by
    rw [Bool.and_eq_true, List.isEmpty_iff, List.any_eq_true]
    rintro ⟨none, l, listed, same⟩
    exact first none l listed (eq_of_beq same)
  unfold State.arrive
  rw [here]
  refine (if_neg agree).trans ((if_neg alone).trans (if_neg ?_))
  simp

/-- A member that is not the last waits. -/
theorem State.arrive_waits (open' : ¬ ∀ j ∈ gangMembers g, j ∈ (s.waitingAt t ++ [r]).map (·.j)) :
    s.arrive t g x r = (s.holding (s.latchesBut t ++ [s.latchWith t g x r])).waitOn .latch := by
  rw [State.arrive_joins r joined opened first]
  refine if_neg fun all => open' fun j member => ?_
  obtain ⟨y, listed, same⟩ := List.any_eq_true.1 (List.all_eq_true.1 all j member)
  exact List.mem_map.2 ⟨y, listed, eq_of_beq same⟩

/-- The last member fires the latch of a tile that can be written, with a slot that no fill writes. -/
theorem State.arrive_fires (all : ∀ j ∈ gangMembers g, j ∈ (s.waitingAt t ++ [r]).map (·.j)) (still : s.filling (Block.of x).slot = false)
    (unrecorded : s.recording = false) (found : s.canTile t = true)
    (after : ((s.holding (s.latchesBut t)).fire (s.latchWith t g x r)).recording = false) :
    s.arrive t g x r = (s.holding (s.latchesBut t)).fire (s.latchWith t g x r) := by
  have last : ((gangMembers g).all fun j => (s.waitingAt t ++ [r]).any fun y => y.j == j) = true := by
    rw [List.all_eq_true]
    intro j member
    obtain ⟨y, listed, same⟩ := List.mem_map.1 (all j member)
    exact List.any_eq_true.2 ⟨y, listed, beq_iff_eq.2 same⟩
  rw [State.arrive_joins r joined opened first, if_pos last, still, if_neg Bool.false_ne_true]
  refine State.onTiles_off [t] ?_ (fun k written => ?_) after
  · exact (State.recording_congr rfl rfl).trans unrecorded
  · obtain rfl : t = k := Option.some.inj written
    exact (s.canTile_holding _ _).trans found

end

/-! ## Firing (R304) -/

/-- The tile that an MMA of members leaves: the present rows updated, and their poison gone. -/
def State.mmaResult (s : State) (l : Latch) (ms : List (Cohort × Nat)) : Tile :=
  let old := s.co.tileOf l.tile
  Tile.build (fun i c => if s.me.present.getLsbD i then (Block.of l.block).elem ms (s.co.slotAt (Block.of l.block).slot) i c (old.at i c) else old.at i c)
    fun i c => !s.me.present.getLsbD i && old.bad i c

section
variable (s : State) (l : Latch) (ms : List (Cohort × Nat)) {i c : Nat} (row : i < 64) (col : c < 64)
include row col

theorem State.mmaResult_at : (s.mmaResult l ms).at i c = if s.me.present.getLsbD i then
    (Block.of l.block).elem ms (s.co.slotAt (Block.of l.block).slot) i c ((s.co.tileOf l.tile).at i c) else (s.co.tileOf l.tile).at i c := by
  rw [State.mmaResult, Tile.build_at _ _ row col]

theorem State.mmaResult_bad : (s.mmaResult l ms).bad i c = (!s.me.present.getLsbD i && (s.co.tileOf l.tile).bad i c) := by
  rw [State.mmaResult, Tile.build_bad _ _ row col]

end

/-- The state with the tile operation of a latch in flight and counted, before its members' MMAs retire. -/
def State.launched (s : State) (l : Latch) (ms : List (Cohort × Nat)) : State :=
  (s.setCo { s.co with tiles := Store.set none s.co.tiles l.tile (some (s.co.tileOf l.tile))
                       fired := s.co.fired ++ [{ tile := l.tile, gang := l.gang, result := s.mmaResult l ms }] }).count
    (Block.of l.block).counter (popcount s.me.present * 64 * (ms.length * (Block.of l.block).kA))

/-- The members of a latch's gang, in order, with the names of their A groups. -/
def State.membersOf (s : State) (l : Latch) (ms : List (Cohort × Nat)) : Prop :=
  ms.map (fun p => (some p.1, some p.2)) =
    (gangMembers l.gang).map fun j => (s.mate? j, (l.arrived.find? fun r => r.j == j).map fun r => r.a.toNat)

/-- The members that the model reads off the company and the latch. -/
theorem Gathered.members {s : State} (gathered : Gathered s) {l : Latch} {ms : List (Cohort × Nat)} (members : s.membersOf l ms) :
    ((gangMembers l.gang).map fun j => ((s.coAll.cohorts.find? fun c => c.j == j).getD Cohort.null,
      ((l.arrived.find? fun r => r.j == j).map fun r => r.a.toNat).getD 0)) = ms := by
  have read := congrArg (List.map fun q : Option Cohort × Option Nat => (q.1.getD Cohort.null, q.2.getD 0)) members
  rw [List.map_map, List.map_map] at read
  simp only [gathered.find_coAll]
  exact read.symm.trans (List.map_id ms)

section
variable {s : State} {l : Latch} {ms : List (Cohort × Nat)} (gathered : Gathered s) (members : s.membersOf l ms)
  (cleanA : ∀ p ∈ ms, p.1.mce false (groupNames p.2 (Block.of l.block).group) [] = 0#64)
  (cleanT : ∀ i c, i < 64 → c < 64 → s.me.present.getLsbD i = true → (s.co.tileOf l.tile).bad i c = false)
  (cleanB : (s.co.slotAt (Block.of l.block).slot).bad = [])
include gathered members cleanA cleanT cleanB

/-- Where no operand that it reads holds poison, a latch that fires puts its tile operation in flight and retires its members' MMAs. -/
theorem State.fire_clean : s.fire l = l.arrived.foldl
    (fun t r => t.onCohort t.co.dseq r.j fun u => u.mmaRetire r.a.toNat (Block.of l.block).group r.mark) (s.launched l ms) := by
  have badA : ms.foldl (fun m p => m ||| p.1.eats false (groupNames p.2 (Block.of l.block).group)) 0#64 = 0#64 := by
    refine List.foldlRecOn ms _ (motive := fun m => m = 0#64) rfl fun m none p listed => ?_
    have clean : p.1.eats false (groupNames p.2 (Block.of l.block).group) = 0#64 := cleanA p listed
    rw [none, clean]
    rfl
  have badT : (s.co.tileOf l.tile).badRows 0 64 &&& s.me.present = 0#64 :=
    Tile.badRows_clean fun i c row here _ col => cleanT i c row col here
  have spoiled : ∀ o n, (s.co.slotAt (Block.of l.block).slot).spoiled o n = false := fun o n => by
    simp [Slot.spoiled, cleanB, Store.get]
  have badB : (Block.of l.block).badB (s.co.slotAt (Block.of l.block).slot) ms.length = false := by
    simp [Block.badB, spoiled]
  unfold State.fire
  dsimp only
  rw [gathered.members members, badA, badT, badB, if_neg (not_not_intro rfl), if_neg (not_not_intro rfl), if_neg Bool.false_ne_true]
  rfl

/-- What a latch that fires leaves: the tile written only when the operation retires, and every member's MMA retired (R303, R304). -/
theorem State.fire_does (distinct : (l.arrived.map (·.j)).Nodup) (mates : ∀ r ∈ l.arrived, (s.mate? r.j).isSome = true) :
    let u := s.fire l
    u.co = { s.co with tiles := Store.set none s.co.tiles l.tile (some (s.co.tileOf l.tile)), cohorts := u.co.cohorts
                       fired := s.co.fired ++ [{ tile := l.tile, gang := l.gang, result := s.mmaResult l ms }] } ∧
      (∀ r ∈ l.arrived, r.j = s.me.j → u.me = s.me.mmaRetired (groupNames r.a.toNat (Block.of l.block).group) r.mark) ∧
      (∀ r ∈ l.arrived, ∀ c, s.mate? r.j = some c →
        u.mate? r.j = some (c.mmaRetired (groupNames r.a.toNat (Block.of l.block).group) r.mark)) ∧
      (∀ j, j ∉ l.arrived.map (·.j) → u.mate? j = s.mate? j) ∧
      u.cx = { s.cx with cnt := u.cx.cnt, sat := u.cx.sat } ∧ u.dev = s.dev ∧ u.turns = s.turns ∧ u.free = s.free := by
  intro u
  have me : (s.launched l ms).me = s.me := State.count_me ..
  have co : (s.launched l ms).co = _ := State.count_co ..
  have cx : (s.launched l ms).cx = { s.cx with cnt := (s.launched l ms).cx.cnt, sat := (s.launched l ms).cx.sat } := State.count_cx ..
  have dev : (s.launched l ms).dev = s.dev := State.count_dev ..
  have turns : (s.launched l ms).turns = s.turns := State.count_turns ..
  have free : (s.launched l ms).free = s.free := State.count_free ..
  have mate : ∀ j, (s.launched l ms).mate? j = s.mate? j := fun j => by
    unfold State.mate?
    rw [me, co]
    rfl
  have gathered' : Gathered (s.launched l ms) := by
    refine ⟨?_, ?_, ?_, ?_⟩
    · rw [me, co]
      exact gathered.distinct
    · rw [co]
      exact gathered.placed
    · rw [me]
      exact gathered.here
    · rw [co]
      exact gathered.present
  obtain ⟨is, index, retired, kept⟩ := mmaRetires (Block.of l.block).group l.arrived gathered' distinct fun r listed => by
    rw [mate]
    exact mates r listed
  rw [← State.fire_clean gathered members cleanA cleanT cleanB] at is index retired kept
  simp only [mate] at retired kept
  have co' : u.co = { (s.launched l ms).co with cohorts := u.co.cohorts } := congrArg State.co is
  have own : ∀ r ∈ l.arrived, r.j = s.me.j → u.me = s.me.mmaRetired (groupNames r.a.toNat (Block.of l.block).group) r.mark := by
    intro r listed same
    have mate := retired r listed s.me (same ▸ s.mate?_me)
    have index' : u.me.j = s.me.j := index.trans (congrArg Cohort.j me)
    rw [same, ← index', u.mate?_me] at mate
    exact Option.some.inj mate
  have cx' : u.cx = (s.launched l ms).cx := (congrArg State.cx is :)
  refine ⟨co'.trans (by rw [co]; rfl), own, retired, kept, ?_, (congrArg State.dev is :).trans dev,
    (congrArg State.turns is :).trans turns, (congrArg State.free is :).trans free⟩
  rw [cx']
  exact cx

end

/-! ## The tile operation retires (R303, R304) -/

theorem exec_mmaTileRetire {t : BitVec 4} {s : State} {x : FiredMma} (placed : s.co.place ≠ .absent) (here : s.me.stat ≠ .absent)
    (fired : s.co.fired.find? (fun x => x.tile == t.toNat) = some x) : exec (.mmaTileRetire s.co.dseq t) s =
    .next (s.setCo { s.co.tilePut x.tile x.result with fired := s.co.fired.filter fun y => y.tile != x.tile }) := by
  refine congrArg Host.Outcome.next ?_
  rw [State.onCompany_here placed here] <;> rw [fired] <;> rfl

/-- A block of products with a NaN among its operands, or a scale that is one, leaves the canonical NaN (R169). -/
theorem mmaBlock_nan {c : Word} {as : List Nat} {sa : Nat} {fa : Fmt} {bs : List Nat} {sb : Nat} {fb : Fmt}
    (nan : IsNan c ∨ sa = 0xFF ∨ sb = 0xFF ∨ (∃ a ∈ as, value a fa = .nan) ∨ (∃ b ∈ bs, value b fb = .nan)) :
    mmaBlock c as sa fa bs sb fb = qnan := by
  have any : ((value c.toNat .fp32).isNan || sa == 0xFF || sb == 0xFF || (as.map fun a => value a fa).any Val.isNan ||
      (bs.map fun b => value b fb).any Val.isNan) = true := by
    simp only [Bool.or_eq_true, beq_iff_eq, List.any_map, List.any_eq_true, Function.comp, Val.isNan_iff, or_assoc]
    exact nan
  exact if_pos any

/-- Settles O40: the checks in their order, an arrival at a latch and the firing of the last, each by its lemma. That the tile operation's
result is computed as its latch fires is the choice of log entry 44, which the statement takes over. -/
theorem matrixMultiply : Obligations.MatrixMultiply := by
  unfold Obligations.MatrixMultiply
  intro field width mx fmt blockLen perMember groupLen shape ganged owned
  refine ⟨?checks, ?arrival, ?retire, ?nan⟩
  case checks =>
    intro ma b a t s unrecorded g x raises
    have stops {cause : Nat} (event : exec (.mma ma b a t) s = .next (s.mtx cause)) : raises cause := ⟨_, event, s.mtx_does unrecorded cause⟩
    refine ⟨fun narrowed => stops (exec_mma_partial ma b a t narrowed), fun full => ⟨fun outside => stops (exec_mma_outside ma b a t full outside),
      fun inside => ⟨fun unowned kept => stops (exec_mma_unowned ma b a t full inside unowned kept), fun owned =>
        ⟨fun malformed => stops (exec_mma_malformed ma b a t full inside owned malformed), fun fits =>
          ⟨fun misshapen => stops (exec_mma_misshapen ma b a t full inside owned fits misshapen), fun shape beyond =>
            stops (exec_mma_slotless ma b a t full inside owned fits shape beyond)⟩⟩⟩⟩⟩
  case arrival =>
    intro ma b a t s unrecorded gathered g x others waiting all full inside owned fits shape slot low high joined opened first
    rw [exec_mma_arrives ma b a t full inside owned fits shape slot low high]
    refine ⟨fun open' => congrArg Host.Outcome.next (State.arrive_waits _ joined opened first open'), ?_⟩
    intro ms last distinct members mates still found cleanA cleanT cleanB
    have gathered' : Gathered (s.holding others) := ⟨gathered.distinct, gathered.placed, gathered.here, gathered.present⟩
    have group : (Block.of x).group = Machine.groupLen x := Block.of_group x
    have cleanA' : ∀ p ∈ ms, p.1.mce false (groupNames p.2 (Block.of x).group) [] = 0#64 := group ▸ cleanA
    obtain ⟨co, own, retired, kept, cx, dev, turns, free⟩ := State.fire_does (s := s.holding others)
      (l := s.latchWith t.toNat g x { j := s.me.j, a := a, mark := ma }) gathered' members cleanA'
      (fun i c row col here => cleanT i c row col here) cleanB distinct mates
    have fires : s.arrive t.toNat g x { j := s.me.j, a := a, mark := ma } = (s.holding others).fire (s.latchWith t.toNat g x
        { j := s.me.j, a := a, mark := ma }) := State.arrive_fires { j := s.me.j, a := a, mark := ma } joined opened first last still unrecorded found
      ((State.recording_congr dev (congrArg Context.asid cx :)).trans unrecorded)
    generalize (s.holding others).fire (s.latchWith t.toNat g x { j := s.me.j, a := a, mark := ma }) = u at *
    have own : u.me = s.me.mmaRetired (groupNames a.toNat (Machine.groupLen x)) ma :=
      group ▸ own { j := s.me.j, a := a, mark := ma } (List.mem_append_right _ (List.mem_singleton_self _)) rfl
    have rest : { u.me with v := s.me.v, cr := s.me.cr } = s.me.retire 4 := own ▸ s.me.mmaRetired_rest _ ma
    refine ⟨u, (s.holding others).mmaResult (s.latchWith t.toNat g x { j := s.me.j, a := a, mark := ma }) ms, congrArg Host.Outcome.next fires,
      ⟨(congrArg Cohort.pc rest :), (congrArg Cohort.icount rest :), (congrArg Cohort.wait rest :)⟩, (congrArg Company.latches co :),
      (congrArg Company.fired co :), fun i c row col => State.mmaResult_at _ _ ms row col,
      fun i c row col => State.mmaResult_bad _ _ ms row col, fun k => ?_, fun k => ?_,
      fun y listed c mate => ?_, kept, (congrArg Cohort.quiet rest :), ?_, cx, dev, turns, free⟩
    · rw [co]
      refine (Store.get_set none s.co.tiles t.toNat k (some (s.co.tileOf t.toNat))).trans ?_
      by_cases same : k = t.toNat
      · rw [if_pos same, if_pos same, same]
      · rw [if_neg same, if_neg same]
    · rw [own]
      exact s.me.vget_mmaRetired _ ma k
    · have names := retired y (List.mem_append_left _ listed) c mate
      have left := c.mmaRetired_rest (groupNames y.a.toNat (Block.of x).group) y.mark
      exact ⟨_, names, (congrArg Cohort.pc left :), (congrArg Cohort.wait left :), fun k => group ▸ c.vget_mmaRetired _ y.mark k⟩
    · rw [co]
      rfl
  case retire =>
    intro t s x placed here fired
    have tile : x.tile = t.toNat := by simpa using List.find?_some fired
    refine ⟨_, exec_mmaTileRetire placed here fired, rfl, by rw [← tile]; rfl, fun n => ?_, fun n => ?_⟩
    · exact tile ▸ s.co.tiles_tilePut x.tile n x.result
    · exact tile ▸ s.co.dirty_tilePut x.tile n x.result
  case nan => exact fun c as sa fa bs sb fb nan => mmaBlock_nan nan

end Sys2Proof.Machine
end

section
/-!
Breakpoints and halts (R320, R322, R379).
-/
namespace Sys2Proof.Machine

/-- A cohort of a halting context stops at its next boundary, unless it has ended (R322). -/
def Cohort.halted (c : Cohort) : Cohort := if c.stat = .ended then c else { c with stopDue := 3 }

theorem Cohort.halted_eq (c : Cohort) : c.halted = { c with stopDue := if c.stat = .ended then c.stopDue else 3 } := by
  unfold Cohort.halted
  split <;> rfl

/-- The queue and the packet of the launch that a halt names, or 0xFFFF and 0 for a launch that is gone (R322). -/
def State.haltNames (s : State) : Nat × Nat := ((s.cx.launches.find? fun l => l.lseq == s.co.lseq).map fun l => (l.qid, l.csn)).getD (0xFFFF, 0)

theorem State.haltNames_mapCohorts (s : State) (a : Nat) (f : Cohort → Cohort) : (s.mapCohorts a f).haltNames = s.haltNames := by
  have launch : (s.mapCohorts a f).co.lseq = s.co.lseq := by
    unfold State.mapCohorts
    dsimp only
    split <;> rfl
  unfold State.haltNames
  rw [launch]
  rfl

/-- A halt of the current cohort's context strikes every cohort of its companies and names the halter (R322). -/
theorem State.haltAs_does {s : State} (wid : DWord) (pc : VAddr) (own : s.co.asid = s.cx.asid) (here : s.me.stat ≠ .absent) :
    Halting s (s.haltAs wid pc) wid pc := by
  have halted : Cohort.halted = fun c : Cohort => { c with stopDue := if c.stat = .ended then c.stopDue else 3 } := funext Cohort.halted_eq
  have company : (s.mapCohorts s.cx.asid Cohort.halted).co = { s.co with cohorts := s.co.cohorts.map Cohort.halted } := if_pos own
  have me : (s.mapCohorts s.cx.asid Cohort.halted).me = s.me.halted := if_pos ⟨own, here⟩
  refine ⟨rfl, ⟨(s.mapCohorts s.cx.asid Cohort.halted).haltNames.1, (s.mapCohorts s.cx.asid Cohort.halted).haltNames.2, rfl, fun l found => ?_⟩,
    rfl, me.trans s.me.halted_eq, ?_, ?_, ?_, rfl, rfl, rfl⟩
  · rw [State.haltNames_mapCohorts, State.haltNames, found]
    exact ⟨rfl, rfl⟩
  · exact (congrArg Company.cohorts company).trans (by rw [halted])
  · rw [← halted]; rfl
  · exact congrArg (fun c : Company => { c with cohorts := s.co.cohorts }) company

/-- Settles O23: what BKPT and HALT leave is the halt of the state in which they have retired. -/
theorem halts : Obligations.Halts := by
  unfold Obligations.Halts
  intro s own running
  refine ⟨fun imm off => congrArg Host.Outcome.next (if_neg (by rw [off]; exact Bool.false_ne_true)), fun imm on => ?_, fun sup => ?_⟩
  · have get := (s.retire 4).me.trapRegs_get 4 12 0 s.me.em imm.toNat (s.retire 4).me.pc
    have rest := (s.retire 4).me.trapRegs_rest 4 12 0 s.me.em imm.toNat (s.retire 4).me.pc
    have event : exec (.bkpt imm) s = .next (((s.retire 4).setMe ((s.retire 4).me.trapRegs 4 12 0 s.me.em imm.toNat (s.retire 4).me.pc)).haltAs
      s.me.wid s.me.pc) := congrArg Host.Outcome.next (if_pos on)
    generalize (s.retire 4).me.trapRegs 4 12 0 s.me.em imm.toNat (s.retire 4).me.pc = c at get rest event
    have stat : c.stat ≠ .absent := by
      rw [show c.stat = s.me.stat from (congrArg Cohort.stat rest :), running]
      decide
    refine ⟨(s.retire 4).setMe c, _, event, State.haltAs_does _ _ own stat, congrArg (s.retire 4).setMe rest, ?_, ?_, ?_, ?_, fun i outside => ?_⟩
    · exact (get 0x50).trans (by simp [tcause])
    · exact (get 0x57).trans (by simp)
    · exact (get 0x51).trans (by simp)
    · exact (get 0x52).trans (by simp)
    · refine (get i).trans ?_
      iterate 9 rw [if_neg (by omega)]
      rfl
  · refine ⟨_, congrArg Host.Outcome.next (if_pos sup), State.haltAs_does _ _ own ?_⟩
    rw [State.retire_me, Cohort.retire_stat, running]
    decide

end Sys2Proof.Machine
end

section
/-!
The key and step of stochastic rounding, operation counters and clocks (R172, R175, R317 to R319, R410).
-/
namespace Sys2Proof.Machine

/-! ## Key and step (R172, R317) -/

/-- The context after a write of key and step: a change empties the key-use filter and keeps the old pair (R172, R175). -/
structure SrSet (s t : State) (k : List Word) (n : Word) : Prop where
  only : t = s.setCx t.cx
  key : t.cx.key = k
  step : t.cx.step = n
  same : k = s.cx.key → n = s.cx.step → t.cx = s.cx
  changed : k ≠ s.cx.key ∨ n ≠ s.cx.step → t.cx.filter = [] ∧ t.cx.srOld = (s.cx.key, s.cx.step)
  rest : t.cx = { s.cx with key := k, step := n, filter := t.cx.filter, srStale := t.cx.srStale, srOld := t.cx.srOld }

theorem State.setSr_does (s : State) (k : List Word) (n : Word) : SrSet s (s.setSr k n) k n := by
  unfold State.setSr
  by_cases held : k = s.cx.key ∧ n = s.cx.step
  · rw [if_pos held]
    obtain ⟨rfl, rfl⟩ := held
    exact ⟨rfl, rfl, rfl, fun _ _ => rfl, fun other => (other.elim (· rfl) (· rfl)).elim, rfl⟩
  · rw [if_neg held]
    exact ⟨rfl, rfl, rfl, fun key step => absurd ⟨key, step⟩ held, fun _ => ⟨rfl, rfl⟩, rfl⟩

theorem exec_srkey (a : Reg) {s : State} (clean : ∀ r, r < 4 → s.me.spoison (a.toNat + r) = false) :
    exec (.srkey a) s = .next ((s.setSr ((groupNames a.toNat 4).map s.me.sget) s.cx.step).retire 4) := by
  have unpoisoned : (groupNames a.toNat 4).any s.me.spoison = false := by
    rw [List.any_eq_false]
    intro r listed
    obtain ⟨low, high⟩ := mem_groupNames.1 listed
    have := clean (r - a.toNat) (by omega)
    rw [show a.toNat + (r - a.toNat) = r by omega] at this
    simp [this]
  exact congrArg Host.Outcome.next (if_neg (by rw [unpoisoned]; exact Bool.false_ne_true))

theorem exec_srstep (a : Reg) {s : State} (clean : s.me.spoison a.toNat = false) :
    exec (.srstep a) s = .next ((s.setSr s.cx.key (s.me.sget a.toNat)).retire 4) :=
  congrArg Host.Outcome.next (if_neg (by rw [clean]; exact Bool.false_ne_true))

/-- A write of key and step that retires leaves the rest of the cohort, the device and the company. -/
theorem SrSet.retired {s t : State} {k : List Word} {n : Word} (set : SrSet s t k n) :
    Retired s (t.retire 4) 4 ∧ (t.retire 4).me.quiet = s.me.quiet ∧ (t.retire 4).dev = s.dev ∧ (t.retire 4).co = s.co ∧
      (t.retire 4).turns = s.turns ∧ (t.retire 4).free = s.free := by
  rw [set.only]
  exact ⟨⟨rfl, rfl, rfl⟩, rfl, rfl, rfl, rfl, rfl⟩

/-! ## Counters and clocks (R318, R319) -/

/-- With nothing recorded a value that is returned is the one computed (R401). -/
theorem State.returnValue_off {s : State} (unrecorded : s.recording = false) (d : Nat) (v : DWord) :
    s.returnValue d v = (s.setMe (s.me.sput64 d v)).retire 4 := by
  have computed : s.loggedValue = none := by
    rw [State.loggedValue, unrecorded]
    rfl
  have after : ((s.setMe (s.me.sput64 d v)).retire 4).recording = false := (State.recording_congr rfl rfl).trans unrecorded
  rw [State.returnValue, computed, Option.getD_none, State.logValue, after]
  rfl

section
variable (d : Reg) {s : State} (unrecorded : s.recording = false) (cls : s.co.hdr.cls ≠ 0)
include unrecorded cls

theorem exec_cntrd (idx : BitVec 12) :
    exec (.cntrd d idx) s = .next ((s.setMe (s.me.sput64 d.toNat (s.cx.counter idx.toNat))).retire 4) :=
  congrArg Host.Outcome.next ((replayable_class _ cls).trans (State.returnValue_off unrecorded ..))

/-- The state in which the clock of a die reads `x` (R31). -/
def State.clocked (s : State) (die : Nat) (x : DWord) : State :=
  { s with free := s.free + 1, dev := { s.dev with clocks := s.dev.clocks.set die x } }

/-- CLKRD returns what the clock reads once it has advanced (log entry 4). -/
theorem exec_clkrd (g : BitVec 3) : ∃ n, let die := if g = 7#3 then s.hall else g.toNat
    let x := s.dev.clocks.getD die 0#64 + BitVec.ofNat 64 n
    exec (.clkrd d g) s = .next (((s.clocked die x).setMe (s.me.sput64 d.toNat x)).retire 4) :=
  ⟨Config.tick s.free, congrArg Host.Outcome.next ((replayable_class _ cls).trans
    (State.returnValue_off (s := (s.readClock (if g = 7#3 then s.hall else g.toNat)).1) ((State.recording_kept rfl rfl rfl).trans unrecorded) ..))⟩

end

/-- What an index that Table 15-12 assigns reads as, and the saturation bits. -/
theorem Context.counter_reads (c : Context) (i : Nat) :
    (i ≤ 10 ∨ (16 ≤ i ∧ i ≤ 39) → c.counter i = Store.get 0#64 c.cnt i) ∧
    ((10 < i ∧ i < 16) ∨ (39 < i ∧ i < 126) ∨ 127 < i → c.counter i = 0#64) ∧
    (i = 126 → c.counter i = c.sat.extractLsb' 0 64) ∧ (i = 127 → c.counter i = c.sat.extractLsb' 64 64) := by
  unfold Context.counter
  refine ⟨fun assigned => ?_, fun free => ?_, fun low => ?_, fun high => ?_⟩
  · rw [if_neg (by omega), if_neg (by omega), if_pos assigned]
  · rw [if_neg (by omega), if_neg (by omega), if_neg (by omega)]
  · rw [if_pos low]
    exact BitVec.eq_of_getLsbD_eq fun k hk => by simp [hk]
  · rw [if_neg (by omega), if_pos high]
    exact BitVec.eq_of_getLsbD_eq fun k hk => by simp [hk]

theorem exec_classless {s : State} (unrecorded : s.recording = false) (cls : s.co.hdr.cls = 0) {i : Instr} {f : State → State}
    (means : exec i s = .next (replayable f s)) : ∃ t, exec i s = .next t ∧ Trapped s t 1 8 s.me.present 0 :=
  ⟨_, means.trans (congrArg Host.Outcome.next (if_pos cls)), s.queueTrap_does 1 8 _ 0 unrecorded⟩

/-- Settles O27: SRKEY and SRSTEP by whether they change the pair that is held, CNTRD by its index, CLKRD by the clock that it advances. That
instructions of other cohorts around a change may use the old pair (log entry 86) and that a reading advances the clock by a free number of
cycles (log entry 4) are choices of the model that the statement takes over. -/
theorem keysCountersAndClocks : Obligations.KeysCountersAndClocks := by
  unfold Obligations.KeysCountersAndClocks
  refine ⟨fun a s => ?pair, fun d s unrecorded => ⟨fun idx cls => ?count, fun g cls => ?clock, fun cls => ?classless⟩⟩
  case pair =>
    intro plain clean
    refine ⟨?key, ?step⟩
    case key =>
      have set := s.setSr_does ((groupNames a.toNat 4).map s.me.sget) s.cx.step
      exact ⟨_, exec_srkey a clean, set.retired, set.key, fun same => set.same (set.key.symm.trans same) rfl,
        fun other => set.changed (.inl (set.key ▸ other)),
        (congrArg (fun c : Context => { c with key := s.cx.key, filter := s.cx.filter, srStale := s.cx.srStale, srOld := s.cx.srOld }) set.rest :)⟩
    case step =>
      have set := s.setSr_does s.cx.key (s.me.sget a.toNat)
      exact ⟨_, exec_srstep a (clean 0 (by decide)), set.retired, set.step, fun same => set.same rfl (set.step.symm.trans same),
        fun other => set.changed (.inr (set.step ▸ other)),
        (congrArg (fun c : Context => { c with step := s.cx.step, filter := s.cx.filter, srStale := s.cx.srStale, srOld := s.cx.srOld }) set.rest :)⟩
  case count =>
    obtain ⟨frame, pair⟩ := scalar2_of s d.toNat 4 (s.cx.counter idx.toNat)
    exact ⟨_, _, exec_cntrd d unrecorded cls idx, frame, pair, rfl, s.cx.counter_reads idx.toNat⟩
  case clock =>
    intro die
    obtain ⟨n, event⟩ := exec_clkrd d unrecorded cls g
    obtain ⟨frame, pair⟩ := scalar2_of s d.toNat 4 (s.dev.clocks.getD die 0#64 + BitVec.ofNat 64 n)
    exact ⟨_, _, n, event, ⟨rfl, rfl, rfl⟩, pair.congr rfl rfl, rfl, rfl, rfl, rfl, rfl, frame.rest⟩
  case classless =>
    exact ⟨fun idx => exec_classless unrecorded cls rfl, fun g => exec_classless unrecorded cls rfl⟩

end Sys2Proof.Machine
end

section
/-!
Whole-register spills and fills (R313, R314).
-/
namespace Sys2Proof.Machine

/-! ## The check of a run -/

/-- The parts of a run are checked one after another. -/
theorem State.checkParts_does (w : Nat) (acc : Acc) (o : Nat) : ∀ (ps : List (Nat × Nat)) (s : State), LaneChecked s (s.checkParts w acc o ps).1
  | [], _ => ⟨.same _, fun _ => rfl, rfl⟩
  | (k, n) :: ps, s => (s.checkLane_does w acc .plain (o + k) n).trans (State.checkParts_does w acc o ps _)

/-- A run that every check lets pass is accessed. -/
theorem State.whole_go {s u : State} {cs : List (LaneChk × Nat × Nat)} {acc : Acc} (fkind : Nat) {w a n : Nat}
    (go : State → Nat → List (Loc × Nat × Nat) → State) (clean : s.me.spoison a = false)
    (kind : (s.me.window w).kind = 1 ∨ (s.me.window w).kind = 2) (aligned : (s.me.sget a).toNat % 16 = 0)
    (checked : s.checkParts w acc (s.me.sget a).toNat (s.wholeParts w (s.me.sget a).toNat (256 * n)) = (u, cs))
    (performs : ∀ c ∈ cs, ∃ l, c.1.out = .at l) :
    s.whole acc fkind w a n go = go u ((s.me.window w).addr (s.me.sget a).toNat) (wholeLines (s.me.window w) (s.me.sget a).toNat cs) := by
  have goes : verdict 1 false fkind 16 (cs.map (·.1)) = .go := by
    refine verdict_go _ _ _ _ _ (fun c listed => ?_) fun c _ => Nat.mod_one _
    obtain ⟨p, part, rfl⟩ := List.mem_map.1 listed
    exact performs p part
  unfold State.whole
  dsimp only
  rw [if_neg (by rw [clean]; exact Bool.false_ne_true), if_neg (by omega), if_neg (by omega), checked]
  dsimp only
  rw [goes]

/-! ## The bytes of registers (R313) -/

theorem getElem?_leBytes (n : Nat) : ∀ (x i : Nat), i < n → (leBytes n x)[i]? = some (BitVec.ofNat 8 (x / 256 ^ i)) := by
  induction n with
  | zero => exact fun _ _ none => absurd none (Nat.not_lt_zero _)
  | succ n ih =>
    intro x i inside
    cases i with
    | zero => simp [leBytes]
    | succ i =>
      rw [leBytes, List.getElem?_cons_succ, ih _ _ (by omega), Nat.div_div_eq_div_mul, Nat.pow_succ']

/-- A list made of parts of one length, part by part. -/
theorem getElem?_flatMap_uniform {α β : Type} {f : α → List β} {k : Nat} (some : 0 < k) (uniform : ∀ a, (f a).length = k) (l : List α) :
    ∀ i, (l.flatMap f)[i]? = (l[i / k]?).bind fun a => (f a)[i % k]? := by
  induction l with
  | nil => exact fun _ => rfl
  | cons a l ih =>
    intro i
    rw [List.flatMap_cons, List.getElem?_append, uniform]
    split
    next inside => rw [Nat.div_eq_of_lt inside, Nat.mod_eq_of_lt inside]; rfl
    next beyond =>
      obtain ⟨j, rfl⟩ := Nat.exists_eq_add_of_le (Nat.not_lt.1 beyond)
      rw [Nat.add_sub_cancel_left, ih, Nat.add_div_left j some, Nat.add_mod_left]
      rfl

/-- The bytes of registers: of register m, lane i byte b stands at 256 m + 4 i + b. -/
theorem Cohort.getElem?_wholeBytes (c : Cohort) (d : Nat) {n i : Nat} (inside : i < 256 * n) : (c.wholeBytes d n)[i]? =
    some (BitVec.ofNat 8 ((((c.vget (d + i / 256)).lane (i % 256 / 4)).toNat) / 256 ^ (i % 4)),
      (c.vget (d + i / 256)).poison.getLsbD (i % 256 / 4)) := by
  have word : ∀ m k, ((leBytes 4 ((c.vget (d + m)).lane k).toNat).map fun b => (b, (c.vget (d + m)).poison.getLsbD k)).length = 4 := fun m k => by
    rw [List.length_map, leBytes_length]
  have register : ∀ m, ((List.range 64).flatMap fun k =>
      (leBytes 4 ((c.vget (d + m)).lane k).toNat).map fun b => (b, (c.vget (d + m)).poison.getLsbD k)).length = 256 := fun m => by
    simp only [List.length_flatMap, word, List.map_const', List.length_range, List.sum_replicate]
    rfl
  unfold Cohort.wholeBytes
  rw [getElem?_flatMap_uniform (by decide) register, List.getElem?_range (by omega), Option.bind_some,
    getElem?_flatMap_uniform (by decide) (word _), List.getElem?_range (by omega), Option.bind_some, List.getElem?_map,
    getElem?_leBytes 4 _ _ (by omega), show i % 256 % 4 = i % 4 by omega]
  rfl

/-! ## The operation -/

section
variable (kind : OpKind) (d : Nat) (flag : Option Nat) (ls : List (Loc × Nat × Nat)) (bs : List (Byte × Bool))

theorem wholeOp_lanes : (wholeOp kind d flag ls bs).lanes.map (fun l => (l.loc, l.addr, l.len)) = ls := by
  refine List.ext_getElem? fun i => ?_
  simp only [wholeOp, List.getElem?_map, List.getElem?_mapIdx, Option.map_map]
  exact congrFun Option.map_id _

theorem wholeOp_data {l : LaneOp} (listed : l ∈ (wholeOp kind d flag ls bs).lanes) : l.data = ((bs.drop l.addr).take l.len).map (·.1) := by
  obtain ⟨i, inside, rfl⟩ := List.mem_mapIdx.1 listed
  rfl

end

/-- A whole-register access was issued: its operation follows those in flight, and nothing of the device changed but what the check of the run
changes (R40, R313). -/
structure WholeIssued (s u t : State) (op : MemOp) : Prop where
  retired : Retired s t 4
  op : t.me.ops = s.me.ops ++ [{ op with id := s.dev.nextId }]
  looked : Looked s.dev u.dev
  dev : t.dev = { u.dev with nextId := s.dev.nextId + 1 }
  windows : ∀ r, { t.me.window r with dt := (s.me.window r).dt } = s.me.window r
  frame : t.co = s.co ∧ t.cx = s.cx ∧ t.turns = s.turns ∧ t.free = s.free

/-- Pushing an operation after a check, with a cohort that differs in vectors and flags alone. -/
theorem LaneChecked.pushes {s u : State} (looked : LaneChecked s u) {c : Cohort} (rest : { c with v := s.me.v, f := s.me.f } = u.me) (op : MemOp) :
    WholeIssued s u (((u.setMe c).pushOp op).retire 4) op ∧
      { (((u.setMe c).pushOp op).retire 4).me.quiet with v := s.me.v, ops := s.me.ops, win := s.me.win, f := s.me.f } = s.me.quiet := by
  have me : { c with v := s.me.v, f := s.me.f } = { s.me with win := u.me.win } := rest.trans looked.me
  have whole := looked.rest
  have next := looked.dev.nextId
  have ops : c.ops = s.me.ops := (congrArg Cohort.ops me :)
  have pc : c.pc = s.me.pc := (congrArg Cohort.pc me :)
  have icount : c.icount = s.me.icount := (congrArg Cohort.icount me :)
  have win : c.win = u.me.win := (congrArg Cohort.win rest :)
  refine ⟨⟨⟨?_, ?_, rfl⟩, ?_, looked.dev, ?_, fun r => ?_, ?_⟩, ?_⟩
  · exact congrArg (· + 4#56) pc
  · exact congrArg (· + 1) icount
  · show c.ops ++ [{ op with id := u.dev.nextId }] = _
    rw [ops, next]
  · show { u.dev with nextId := u.dev.nextId + 1 } = _
    rw [next]
  · have window : (((u.setMe c).pushOp op).retire 4).me.window r = u.me.window r := congrArg (Store.get Window.empty · r) win
    rw [window]
    exact looked.windows r
  · exact ⟨(congrArg State.co whole :), (congrArg State.cx whole :), (congrArg State.turns whole :), (congrArg State.free whole :)⟩
  · exact congrArg (fun x : Cohort => ({ x with ops := s.me.ops, win := s.me.win } : Cohort).quiet) me

section
variable (f : Bool) (n w : BitVec 3) (a d : Reg) {s u : State} {cs : List (LaneChk × Nat × Nat)}

/-- The operation of an SPB (R313). -/
def spillOp (n w : BitVec 3) (a d : Reg) (s u : State) (cs : List (LaneChk × Nat × Nat)) : MemOp :=
  wholeOp (.spb (2 ^ n.toNat)) d.toNat none (wholeLines (s.me.window w.toNat) (s.me.sget a.toNat).toNat cs)
    (u.me.wholeBytes d.toNat (2 ^ n.toNat))

/-- The operation of an FLA (R314). -/
def fillOp (f : Bool) (n w : BitVec 3) (a d : Reg) (s : State) (cs : List (LaneChk × Nat × Nat)) : MemOp :=
  wholeOp (.fla (2 ^ n.toNat)) d.toNat (s.me.flagOf f) (wholeLines (s.me.window w.toNat) (s.me.sget a.toNat).toNat cs) []

variable (unrecorded : s.recording = false) (clean : s.me.spoison a.toNat = false)
  (kind : (s.me.window w.toNat).kind = 1 ∨ (s.me.window w.toNat).kind = 2) (aligned : (s.me.sget a.toNat).toNat % 16 = 0)
  (performs : ∀ c ∈ cs, ∃ l, c.1.out = .at l)
include clean kind aligned performs

include unrecorded in
theorem exec_spb (checked : s.checkParts w.toNat .store (s.me.sget a.toNat).toNat
      (s.wholeParts w.toNat (s.me.sget a.toNat).toNat (256 * 2 ^ n.toNat)) = (u, cs)) :
    exec (.spb f n w a d) s =
      .next (((u.setMe (u.me.freeAll (groupNames d.toNat (2 ^ n.toNat)))).pushOp (spillOp n w a d s u cs)).retire 4) := by
  have looked : LaneChecked s u := (congrArg (LaneChecked s ·.1) checked).mp (State.checkParts_does ..)
  refine congrArg Host.Outcome.next ((State.whole_go 1 _ clean kind aligned checked performs).trans ?_)
  dsimp only
  rw [State.logWrite_off]
  · rfl
  · exact (State.recording_kept (s := u) rfl rfl rfl).trans (looked.recording.trans unrecorded)

theorem exec_fla (checked : s.checkParts w.toNat .load (s.me.sget a.toNat).toNat
      (s.wholeParts w.toNat (s.me.sget a.toNat).toNat (256 * 2 ^ n.toNat)) = (u, cs))
    (room : u.canAlloc ((groupNames d.toNat (2 ^ n.toNat)).filter fun r => !s.me.allocated r).length = true) :
    exec (.fla f n w a d) s = .next (((u.setMe ((u.me.claim (groupNames d.toNat (2 ^ n.toNat))).raise (s.me.flagOf f))).pushOp
      (fillOp f n w a d s cs)).retire 4) := by
  have looked : LaneChecked s u := (congrArg (LaneChecked s ·.1) checked).mp (State.checkParts_does ..)
  have flag : u.me.flagOf f = s.me.flagOf f := by rw [looked.me]; rfl
  have held : u.me.allocated = s.me.allocated := by rw [looked.me]; rfl
  refine congrArg Host.Outcome.next ((State.whole_go 0 _ clean kind aligned checked performs).trans ?_)
  dsimp only
  rw [held, room, flag]
  rfl

end

/-- Raising a flag after claiming names moves the vectors and the flags alone, the flags as the raising does. -/
theorem Cohort.claim_raise (c : Cohort) (names : List Nat) (flag : Option Nat) :
    { (c.claim names).raise flag with v := c.v, f := c.f } = c ∧ ((c.claim names).raise flag).f = (c.raise flag).f ∧
      ((c.claim names).raise flag).v = (c.claim names).v := by
  have rest := Cohort.claim_rest c names
  generalize c.claim names = claimed at rest ⊢
  rw [rest]
  cases flag <;> exact ⟨rfl, rfl, rfl⟩

/-- Settles O34: the run is checked, the operation is pushed, and the names are freed or claimed. That the flag of an SPB has fallen again at
issue (log entry 19) is a choice of the model that the statement takes over. -/
theorem wholeRegisters : Obligations.WholeRegisters := by
  unfold Obligations.WholeRegisters
  intro f n w a d s u cs x o k names checked issued clean kind aligned unrecorded
  refine ⟨fun ⟨parts, performs⟩ => ?spill, fun ⟨parts, performs⟩ room => ?fill⟩
  case spill =>
    have looked : LaneChecked s u := (congrArg (LaneChecked s ·.1) parts).mp (State.checkParts_does ..)
    have vget : ∀ r, u.me.vget r = s.me.vget r := fun r => by rw [looked.me]; rfl
    have held : ∀ r, u.me.allocated r = s.me.allocated r := fun r => by rw [looked.me]; rfl
    have rest : { u.me.freeAll names with v := s.me.v, f := s.me.f } = u.me := by rw [Cohort.freeAll_eq, looked.me]
    have flags : (u.me.freeAll names).f = s.me.f := by rw [Cohort.freeAll_eq, looked.me]
    obtain ⟨pushed, quiet⟩ := looked.pushes rest (spillOp n w a d s u cs)
    refine ⟨_, _, exec_spb f n w a d unrecorded clean kind aligned performs parts, pushed.retired,
      ⟨pushed.op, wholeOp_lanes (.spb k) d.toNat none _ _, rfl, rfl, rfl, rfl, pushed.looked, pushed.dev, pushed.windows, pushed.frame⟩, rfl,
      fun l listed b inside run => ?_, fun r => ?_, fun r => ?_, ?_⟩
    · have byte := u.me.getElem?_wholeBytes d.toNat run
      rw [wholeOp_data (.spb k) d.toNat none _ _ listed, List.getD_eq_getElem?_getD, List.getElem?_map, List.getElem?_take_of_lt inside, List.getElem?_drop]
      rw [byte, vget]
      rfl
    · exact (Cohort.vget_freeAll names u.me r).trans (by rw [vget])
    · exact (Cohort.allocated_freeAll names u.me r).trans (by rw [held])
    · exact (congrArg (fun f => ({ (((u.setMe (u.me.freeAll names)).pushOp (spillOp n w a d s u cs)).retire 4).me.quiet with
        v := s.me.v, ops := s.me.ops, win := s.me.win, f := f } : Cohort)) flags).trans quiet
  case fill =>
    have looked : LaneChecked s u := (congrArg (LaneChecked s ·.1) parts).mp (State.checkParts_does ..)
    have vectors : u.me.v = s.me.v := by rw [looked.me]
    have flags : u.me.f = s.me.f := by rw [looked.me]
    obtain ⟨rest, raised, claimed⟩ := u.me.claim_raise names (s.me.flagOf f)
    rw [vectors, flags] at rest
    obtain ⟨pushed, quiet⟩ := looked.pushes rest (fillOp f n w a d s cs)
    refine ⟨_, _, exec_fla f n w a d clean kind aligned performs parts room, pushed.retired,
      ⟨pushed.op, wholeOp_lanes (.fla k) d.toNat (s.me.flagOf f) _ _, rfl, rfl, rfl, rfl, pushed.looked, pushed.dev, pushed.windows, pushed.frame⟩,
      rfl, rfl, rfl, fun r => ?_, fun r => ?_, ?_, quiet⟩
    · calc (((u.setMe _).pushOp _).retire 4).me.vget r
        _ = (u.me.claim names).vget r := congrArg (fun v => (Store.get none v r).getD VReg.zero) claimed
        _ = u.me.vget r := (Cohort.claim_get names u.me r).1
        _ = s.me.vget r := by rw [looked.me]; rfl
    · calc (((u.setMe _).pushOp _).retire 4).me.allocated r
        _ = (u.me.claim names).allocated r := congrArg (fun v => (Store.get none v r).isSome) claimed
        _ = (decide (r ∈ names) || u.me.allocated r) := (Cohort.claim_get names u.me r).2
        _ = (decide (r ∈ names) || s.me.allocated r) := by rw [looked.me]; rfl
    · refine Eq.trans raised ?_
      cases s.me.flagOf f with
      | none => exact flags
      | some m => exact congrArg (fun f => Store.set 0 f m (Store.get 0 f m + 1)) flags

end Sys2Proof.Machine
end

section
/-!
Gangs and the FIFO of the matrix engine (R296 to R298).
-/
namespace Sys2Proof.Machine

/-! ## Distinct members -/

theorem length_eraseDups_le {α : Type} [BEq α] : ∀ l : List α, l.eraseDups.length ≤ l.length
  | [] => Nat.le_refl _
  | a :: l => by
    rw [List.eraseDups_cons]
    exact Nat.succ_le_succ ((length_eraseDups_le _).trans (List.length_filter_le _ l))
termination_by l => l.length
decreasing_by exact Nat.lt_succ_of_le (List.length_filter_le _ l)

theorem length_eraseDups_eq_iff (l : List Nat) : l.eraseDups.length = l.length ↔ l.Nodup := by
  induction l with
  | nil => simp
  | cons a l ih =>
    rw [List.eraseDups_cons, List.nodup_cons, List.length_cons, List.length_cons, Nat.succ_inj]
    constructor
    · intro full
      have kept : (l.filter fun b => !b == a).length = l.length :=
        Nat.le_antisymm (List.length_filter_le _ l) (full ▸ length_eraseDups_le _)
      have others := List.length_filter_eq_length_iff.1 kept
      rw [List.filter_eq_self.2 others] at full
      exact ⟨fun listed => by simpa using others a listed, ih.1 full⟩
    · intro ⟨other, distinct⟩
      rw [List.filter_eq_self.2 fun b listed => by simpa using fun same : b = a => other (same ▸ listed)]
      exact ih.2 distinct

/-! ## The gang register (Table 7-4) -/

theorem gangCount_eq (g : Word) : gangCount g = g.toNat % 8 := congrArg (· % 8) (Nat.div_one g.toNat)

theorem gangMembers_eq (g : Word) : gangMembers g = (List.range (g.toNat % 8)).map fun m => g.toNat / 2 ^ (8 + 4 * m) % 16 := by
  rw [gangMembers, gangCount_eq]
  refine List.map_congr_left fun m _ => ?_
  have width : 11 + 4 * m + 1 - (8 + 4 * m) = 4 := by omega
  exact congrArg (fun k => g.toNat / 2 ^ (8 + 4 * m) % 2 ^ k) width

/-- GANG takes 0, and the values that list the cohort among distinct cohorts of its company (R296). -/
def GangAccepts (s : State) (g : Word) : Prop :=
  g = 0#32 ∨ (1 ≤ g.toNat % 8 ∧ g.toNat % 8 ≤ 6 ∧ g.toNat / 8 % 32 = 0 ∧ g.toNat / 2 ^ (8 + 4 * (g.toNat % 8)) = 0 ∧
    (gangMembers g).Nodup ∧ (∀ m ∈ gangMembers g, m ∈ s.co.created) ∧ s.me.j ∈ gangMembers g)

theorem gangOk_iff (s : State) (g : Word) : s.co.gangOk s.me.j g = true ↔ GangAccepts s g := by
  have length : (gangMembers g).length = gangCount g := by rw [gangMembers, List.length_map, List.length_range]
  have distinct : (gangMembers g).eraseDups.length = gangCount g ↔ (gangMembers g).Nodup := length ▸ length_eraseDups_eq_iff _
  have zero : bits g.toNat 7 3 = g.toNat / 8 % 32 := rfl
  simp only [Company.gangOk, Bool.or_eq_true, Bool.and_eq_true, beq_iff_eq, decide_eq_true_eq, List.all_eq_true, List.contains_iff_mem, distinct, zero,
    GangAccepts, ← gangCount_eq, and_assoc]

/-! ## Entries of the FIFO -/

/-- The entry of the current cohort's gang. -/
def MyEntry (s : State) (e : GangEntry) : Prop := e.dseq = s.co.dseq ∧ e.gang = s.me.gang

/-- An entry with the current cohort released, where the gang owns the engine or did before a restore (R298, R305). -/
def GangEntry.freed (s : State) (e : GangEntry) : GangEntry :=
  if (e.owns = true ∨ s.me.gang ∈ s.co.regain) ∧ s.me.j ∉ e.released then { e with released := e.released ++ [s.me.j] } else e

theorem freed_if (s : State) (e : GangEntry) : e.freed s =
    if (e.owns || s.co.regain.contains s.me.gang) && !e.released.contains s.me.j then { e with released := e.released ++ [s.me.j] } else e :=
  if_congr (by simp) rfl rfl

theorem freed_eq (s : State) (e : GangEntry) : e.freed s =
    { e with released := if (e.owns || s.co.regain.contains s.me.gang) && !e.released.contains s.me.j then e.released ++ [s.me.j] else e.released } := by
  rw [freed_if]
  split <;> rfl

/-- An entry in which the current cohort waits no more. -/
def GangEntry.unwait (s : State) (e : GangEntry) : GangEntry := { e with waiting := e.waiting.filter fun x => x != s.me.j }

theorem unwait_freed (s : State) (e : GangEntry) : (e.freed s).unwait s = { e.freed s with waiting := e.waiting.filter fun x => x != s.me.j } := by
  rw [freed_eq]
  rfl

/-! ## Leaving a gang (R296) -/

theorem State.leaveGang_bare {s : State} (bare : ∀ l ∈ s.co.latches, l.gang ≠ s.me.gang) : s.leaveGang =
    s.setDev (if s.me.gang = 0#32 then s.dev else s.dev.mapEngine s.co.dseq s.me.gang fun e => (e.freed s).unwait s) := by
  have kept : s.co.latches.filter (fun l => l.gang != s.me.gang) = s.co.latches := List.filter_eq_self.2 fun l held => by simpa using bare l held
  have none : s.co.latches.filter (fun l => l.gang == s.me.gang) = [] := List.filter_eq_nil_iff.2 fun l held => by simpa using bare l held
  unfold State.leaveGang
  dsimp only
  rw [kept, none]
  split
  · rfl
  · simp only [freed_eq]
    rfl

/-! ## The grant of the engine (R297, R298) -/

theorem State.companyOf_here {s : State} (placed : s.co.place ≠ .absent) (others : ∀ h ∈ s.dev.companies, h.dseq ≠ s.co.dseq) :
    s.companyOf s.co.dseq = s.coAll := by
  have found := find_insertCompany s.coAll s.dev.companies (by simpa using others)
  rw [State.coAll_dseq] at found
  rw [State.companyOf, State.companies, if_neg placed, found]
  rfl

/-- The engine stays where its core's FIFO is empty or its head owns it. -/
theorem State.grantHead_stays {s : State} {core : Nat} (n : Nat)
    (owned : ∀ e, s.dev.engines.find? (fun e => e.core == core) = some e → e.owns = true) : s.grantHead (n + 1) core = s := by
  rw [State.grantHead]
  dsimp only
  rw [← List.head?_filter] at owned
  cases line : s.dev.engines.filter fun e => e.core == core with
  | nil => rfl
  | cons e es => exact if_pos (List.any_eq_true.2 ⟨e, List.mem_cons_self, owned e (by rw [line]; rfl)⟩)

/-- An entry that owns the engine, with the members of its gang that are released or ended (R297). -/
def GangEntry.granted (s : State) (g : Word) (e : GangEntry) : GangEntry :=
  { e with owns := true, released := (gangMembers g).filter fun j => e.released.contains j || s.co.ended.contains j }

/-- The listed cohorts of a gang that have not ended are of it (R297). -/
def Agrees (h : Company) (g : Word) : Prop := ∀ c ∈ h.cohorts, c.j ∈ gangMembers g → c.stat = .ended ∨ c.gang = g

section
variable {s : State} {core : Nat} {e : GangEntry} (unrecorded : s.recording = false) (placed : s.co.place ≠ .absent) (here : s.me.stat ≠ .absent)
  (first : e.waiting.head? = some s.me.j)
include unrecorded placed here first

/-- The grant of an entry in which the current cohort is the first that waits is the current cohort's. -/
theorem State.grantee_here (mine : e.dseq = s.co.dseq) : s.grantee core e = some s.me.j := by
  obtain ⟨js, waiting⟩ : ∃ js, e.waiting = s.me.j :: js := by
    cases line : e.waiting with
    | nil => rw [line] at first; nomatch first
    | cons j js => rw [line] at first; exact ⟨js, by rw [Option.some.inj first]⟩
  have at' : s.isAt e.dseq s.me.j = true := by simp [State.isAt, mine, placed, here]
  rw [State.grantee, waiting]
  refine List.find?_cons_of_pos ?_
  dsimp only
  rw [State.focus_at _ _ _ at', State.replays, unrecorded]
  rfl

variable (others : ∀ h ∈ s.dev.companies, h.dseq ≠ s.co.dseq)
include others

/-- The engine passes to the head of a core's FIFO, an entry of the current company in which the current cohort is the first that waits and
where the listed cohorts agree. -/
theorem State.grantHead_grants (n : Nat) (head : s.dev.engines.find? (fun e => e.core == core) = some e)
    (unowned : ∀ x ∈ s.dev.engines, x.core = core → x.owns = false) (mine : e.dseq = s.co.dseq) (agree : Agrees s.coAll e.gang)
    (kept : e.gang ∉ s.co.regain) :
    s.grantHead (n + 1) core = s.setDev (s.dev.mapEngine e.dseq e.gang (GangEntry.granted s e.gang)) := by
  have grantee := State.grantee_here (core := core) unrecorded placed here first mine
  have company : s.companyOf e.dseq = s.coAll := mine ▸ State.companyOf_here placed others
  have regain : s.coAll.regain = s.co.regain := by unfold State.coAll; split <;> rfl
  have ended : s.coAll.ended = s.co.ended := by unfold State.coAll; split <;> rfl
  have free : (s.dev.engines.filter fun e => e.core == core).any (·.owns) = false := List.any_eq_false.2 fun x listed => by
    obtain ⟨listed, queued⟩ := List.mem_filter.1 listed
    rw [unowned x listed (by simpa using queued)]
    exact Bool.false_ne_true
  obtain ⟨es, line⟩ : ∃ es, (s.dev.engines.filter fun e => e.core == core) = e :: es := by
    rw [← List.head?_filter] at head
    exact List.head?_eq_some_iff.1 head
  have found : (s.dev.engines.filter fun e => e.core == core).find? (fun e => (s.grantee core e).isSome) = some e := by
    rw [line]
    exact List.find?_cons_of_pos (by rw [grantee]; rfl)
  have agrees : (!s.co.regain.contains e.gang && (s.coAll.listed e.gang).any fun c => c.stat != .ended && c.gang != e.gang) = false := by
    rw [Bool.and_eq_false_iff]
    refine .inr (List.any_eq_false.2 fun c listed => ?_)
    obtain ⟨cohort, listed⟩ := List.mem_filter.1 listed
    have one := agree c cohort (by simpa using listed)
    simpa [imp_iff_not_or] using one
  have same : s.co.regain.filter (fun g => g != e.gang) = s.co.regain :=
    List.filter_eq_self.2 fun g listed => by simpa using fun same : g = e.gang => kept (same ▸ listed)
  rw [State.grantHead]
  dsimp only
  rw [free, if_neg Bool.false_ne_true, found]
  dsimp only
  rw [company, grantee, regain, ended, agrees, if_neg Bool.false_ne_true]
  have granted : ∀ t : State, t = s.setDev (s.dev.mapEngine e.dseq e.gang (GangEntry.granted s e.gang)) →
      (t.onCompany e.dseq fun u => u.setCo { u.co with regain := u.co.regain.filter fun g => g != e.gang }) = t := by
    rintro t rfl
    rw [mine]
    exact (State.onCompany_here (s := s.setDev (s.dev.mapEngine s.co.dseq e.gang (GangEntry.granted s e.gang))) placed here _ rfl rfl rfl).trans
      (congrArg (fun r => (s.setDev (s.dev.mapEngine s.co.dseq e.gang (GangEntry.granted s e.gang))).setCo { s.co with regain := r }) same)
  refine (congrArg (fun t => t.onCohort e.dseq s.me.j fun u => u.logPlace 1 (0x2800 + core)) (granted _ rfl)).trans ?_
  rw [State.onCohort_at _ _ _ _ (by simp [State.isAt, mine, placed, here])]
  exact State.logPlace_off _ _ _ ((State.recording_kept (s := s) rfl rfl rfl).trans unrecorded)

end

/-! ## GANG -/

section
variable (a : Reg) {s : State}

theorem exec_gang_refused (refused : ¬ GangAccepts s (s.me.sget a.toNat)) : exec (.gang a) s = .next (s.mtx 1) :=
  congrArg Host.Outcome.next (if_pos (Bool.eq_false_iff.2 fun ok => refused ((gangOk_iff s _).1 ok)))

variable (accepted : GangAccepts s (s.me.sget a.toNat)) (clean : s.me.spoison a.toNat = false)
include accepted clean

theorem exec_gang_same (same : s.me.sget a.toNat = s.me.gang) : exec (.gang a) s = .next (s.retire 4) :=
  congrArg Host.Outcome.next ((if_neg (by simp [(gangOk_iff s _).2 accepted])).trans ((if_neg (by simp [clean])).trans (if_pos same)))

theorem exec_gang_change (change : s.me.sget a.toNat ≠ s.me.gang) (bare : ∀ l ∈ s.co.latches, l.gang ≠ s.me.gang) :
    exec (.gang a) s = .next (((s.setDev (if s.me.gang = 0#32 then s.dev else
      s.dev.mapEngine s.co.dseq s.me.gang fun e => (e.freed s).unwait s)).setMe { s.me with gang := s.me.sget a.toNat }).retire 4) := by
  refine congrArg Host.Outcome.next ((if_neg (by simp [(gangOk_iff s _).2 accepted])).trans ((if_neg (by simp [clean])).trans
    ((if_neg change).trans ?_)))
  dsimp only
  rw [State.leaveGang_bare bare]
  rfl

end

/-! ## MACQ -/

/-- The state with other entries in the FIFOs. -/
def State.queueing (s : State) (es : List GangEntry) : State := s.setDev { s.dev with engines := es }

section
variable {d : Device} {dseq : Nat} {g : Word}

/-- The entries of a gang say together whether it owns the engine. -/
theorem Device.engineOwned_of_all {b : Bool} (queued : ∃ e ∈ d.engines, e.dseq = dseq ∧ e.gang = g)
    (all : ∀ e ∈ d.engines, e.dseq = dseq ∧ e.gang = g → e.owns = b) : d.engineOwned dseq g = b := by
  obtain ⟨x, listed, its⟩ := queued
  have found : (d.engine? dseq g).isSome = true := List.find?_isSome.2 ⟨x, listed, by simpa using its⟩
  obtain ⟨e, entry⟩ := Option.isSome_iff_exists.1 found
  have its : e.dseq = dseq ∧ e.gang = g := by simpa using List.find?_some entry
  rw [Device.engineOwned, entry]
  exact all e (List.mem_of_find?_eq_some entry) its

/-- An operation on the entry of a gang that stands last in the FIFOs. -/
theorem Device.mapEngine_last {e : GangEntry} (f : GangEntry → GangEntry) (others : ∀ x ∈ d.engines, ¬ (x.dseq = dseq ∧ x.gang = g))
    (its : e.dseq = dseq ∧ e.gang = g) :
    ({ d with engines := d.engines ++ [e] } : Device).mapEngine dseq g f = { d with engines := d.engines ++ [f e] } := by
  have kept : d.engines.map (fun x => if x.dseq = dseq ∧ x.gang = g then f x else x) = d.engines :=
    (List.map_congr_left fun x listed => if_neg (others x listed)).trans (List.map_id _)
  simp only [Device.mapEngine, List.map_append, List.map_cons, List.map_nil, kept, if_pos its]

end

section
variable {s : State}

/-- The FIFOs once the current cohort has entered its gang's line (R297). -/
def State.lined (s : State) : Device :=
  match s.dev.engine? s.co.dseq s.me.gang with
  | some _ => s.dev.mapEngine s.co.dseq s.me.gang fun e =>
      { e with waiting := if e.owns || e.waiting.contains s.me.j then e.waiting else e.waiting ++ [s.me.j] }
  | none => { s.dev with engines := s.dev.engines ++ [{ core := s.core, dseq := s.co.dseq, gang := s.me.gang, owns := false
                                                        waiting := [s.me.j], released := [] }] }

theorem exec_macq_outside (outside : ¬ InGang s) : exec .macq s = .next (s.mtx 1) :=
  congrArg Host.Outcome.next (if_pos (not_ganged outside))

theorem exec_macq_ganged (inside : InGang s) : exec .macq s = .next (
    let t := (s.setDev s.lined).grantHead (s.lined.engines.length + 1) s.core
    if t.dev.engineOwned t.co.dseq s.me.gang then
      (t.setDev (t.dev.mapEngine t.co.dseq s.me.gang fun e => { e with waiting := e.waiting.filter fun x => x != t.me.j })).retire 4
    else if t.me.stat = .running then t.waitOn .macq else t) :=
  congrArg Host.Outcome.next (if_neg (by simp [(ganged_iff s).2 inside]))

/-- The entry that MACQ appends. -/
def State.newEntry (s : State) (owns : Bool) (waiting released : List Nat) : GangEntry :=
  { core := s.core, dseq := s.co.dseq, gang := s.me.gang, owns := owns, waiting := waiting, released := released }

theorem State.lined_new (new : ∀ e ∈ s.dev.engines, ¬ MyEntry s e) :
    s.lined = { s.dev with engines := s.dev.engines ++ [s.newEntry false [s.me.j] []] } := by
  have none : s.dev.engine? s.co.dseq s.me.gang = none := List.find?_eq_none.2 fun e listed => by simpa [MyEntry] using new e listed
  rw [State.lined, none]
  rfl

theorem State.lined_owned (queued : ∃ e ∈ s.dev.engines, MyEntry s e) (owned : ∀ e ∈ s.dev.engines, MyEntry s e → e.owns = true) :
    s.lined = s.dev := by
  obtain ⟨x, listed, mine⟩ := queued
  have found : (s.dev.engine? s.co.dseq s.me.gang).isSome = true := List.find?_isSome.2 ⟨x, listed, by simpa [MyEntry] using mine⟩
  obtain ⟨e, entry⟩ := Option.isSome_iff_exists.1 found
  have kept : ∀ f : GangEntry → GangEntry, (∀ e, e.owns = true → f e = e) → s.dev.mapEngine s.co.dseq s.me.gang f = s.dev := fun f same => by
    have entries : s.dev.engines.map (fun e => if e.dseq = s.co.dseq ∧ e.gang = s.me.gang then f e else e) = s.dev.engines := by
      refine (List.map_congr_left fun e listed => ?_).trans (List.map_id _)
      split
      next mine => exact same e (owned e listed mine)
      next => rfl
    rw [Device.mapEngine, entries]
  rw [State.lined, entry]
  exact kept _ fun e owns => congrArg (fun w => ({ e with waiting := w } : GangEntry)) (if_pos (by rw [owns]; rfl))

variable (inside : InGang s)
include inside

/-- MACQ of a gang that owns the engine goes on. -/
theorem exec_macq_owner {e : GangEntry} (head : s.dev.engines.find? (fun e => e.core == s.core) = some e) (mine : MyEntry s e)
    (one : ∀ x ∈ s.dev.engines, MyEntry s x → x = e) (owns : e.owns = true) :
    exec .macq s = .next ((s.setDev (s.dev.mapEngine s.co.dseq s.me.gang (GangEntry.unwait s))).retire 4) := by
  have queued : ∃ e ∈ s.dev.engines, MyEntry s e := ⟨e, List.mem_of_find?_eq_some head, mine⟩
  have owned : ∀ x ∈ s.dev.engines, MyEntry s x → x.owns = true := fun x listed its => one x listed its ▸ owns
  have stays : s.grantHead (s.dev.engines.length + 1) s.core = s :=
    State.grantHead_stays _ fun x found => Option.some.inj (head.symm.trans found) ▸ owns
  rw [exec_macq_ganged inside, State.lined_owned queued owned]
  dsimp only
  rw [show s.setDev s.dev = s from rfl, stays, Device.engineOwned_of_all queued owned]
  rfl

variable (new : ∀ e ∈ s.dev.engines, ¬ MyEntry s e)
include new

/-- MACQ of a gang at whose core no entry stands takes the engine, where the listed cohorts agree. -/
theorem exec_macq_free (unrecorded : s.recording = false) (placed : s.co.place ≠ .absent) (here : s.me.stat ≠ .absent)
    (others : ∀ h ∈ s.dev.companies, h.dseq ≠ s.co.dseq) (free : s.dev.engines.find? (fun e => e.core == s.core) = none)
    (agree : Agrees s.coAll s.me.gang) (kept : s.me.gang ∉ s.co.regain) :
    exec .macq s = .next ((s.queueing (s.dev.engines ++
      [s.newEntry true [] ((gangMembers s.me.gang).filter fun j => s.co.ended.contains j)])).retire 4) := by
  let line (e : GangEntry) : List GangEntry := s.dev.engines ++ [e]
  let taken := s.newEntry true [s.me.j] ((gangMembers s.me.gang).filter fun j => s.co.ended.contains j)
  have grants : (s.queueing (line (s.newEntry false [s.me.j] []))).grantHead (s.lined.engines.length + 1) s.core = s.queueing (line taken) := by
    refine (State.grantHead_grants (s := s.queueing (line (s.newEntry false [s.me.j] []))) (core := s.core) (e := s.newEntry false [s.me.j] [])
      ((State.recording_kept (s := s) rfl rfl rfl).trans unrecorded) placed here rfl others _ ?_ (fun x listed queued => ?_) rfl agree kept).trans ?_
    · refine (List.find?_append ..).trans ?_
      rw [free, Option.none_or, List.find?_cons_of_pos]
      exact beq_self_eq_true s.core
    · rcases List.mem_append.1 listed with earlier | last
      · exact absurd queued (by simpa using List.find?_eq_none.1 free x earlier)
      · rw [List.mem_singleton.1 last]; rfl
    · exact congrArg s.setDev (Device.mapEngine_last _ new ⟨rfl, rfl⟩)
  have owned : (s.queueing (line taken)).dev.engineOwned s.co.dseq s.me.gang = true :=
    Device.engineOwned_of_all ⟨_, List.mem_append_right _ List.mem_cons_self, rfl, rfl⟩ fun x listed its => by
      rcases List.mem_append.1 listed with earlier | last
      · exact absurd its (new x earlier)
      · rw [List.mem_singleton.1 last]; rfl
  have goes : (s.queueing (line taken)).dev.mapEngine s.co.dseq s.me.gang (GangEntry.unwait s) = (s.queueing (line (taken.unwait s))).dev :=
    Device.mapEngine_last _ new ⟨rfl, rfl⟩
  have left : taken.unwait s = s.newEntry true [] taken.released :=
    congrArg (fun w => s.newEntry true w taken.released) (List.filter_eq_nil_iff.2 (by simp [taken, State.newEntry]))
  rw [exec_macq_ganged inside, show s.setDev s.lined = s.queueing (line (s.newEntry false [s.me.j] [])) from congrArg s.setDev (State.lined_new new)]
  dsimp only
  rw [grants]
  refine congrArg Host.Outcome.next ((if_pos owned).trans ?_)
  exact (congrArg (fun d => (s.setDev d).retire 4) goes).trans (congrArg (fun e => (s.queueing (line e)).retire 4) left)

/-- MACQ of a gang at whose core another gang owns the engine waits. -/
theorem exec_macq_waits (running : s.me.stat = .running) {e : GangEntry} (head : s.dev.engines.find? (fun e => e.core == s.core) = some e)
    (owns : e.owns = true) :
    exec .macq s = .next ((s.queueing (s.dev.engines ++ [s.newEntry false [s.me.j] []])).waitOn .macq) := by
  let line := s.dev.engines ++ [s.newEntry false [s.me.j] []]
  have first : line.find? (fun e => e.core == s.core) = some e := by
    rw [List.find?_append, head]
    rfl
  have stays : (s.queueing line).grantHead (s.lined.engines.length + 1) s.core = s.queueing line :=
    State.grantHead_stays _ fun x found => Option.some.inj (first.symm.trans found) ▸ owns
  have unowned : (s.queueing line).dev.engineOwned s.co.dseq s.me.gang = false :=
    Device.engineOwned_of_all ⟨_, List.mem_append_right _ List.mem_cons_self, rfl, rfl⟩ fun x listed its => by
      rcases List.mem_append.1 listed with earlier | last
      · exact absurd its (new x earlier)
      · rw [List.mem_singleton.1 last]; rfl
  rw [exec_macq_ganged inside, show s.setDev s.lined = s.queueing line from congrArg s.setDev (State.lined_new new)]
  dsimp only
  rw [stays]
  exact congrArg Host.Outcome.next ((if_neg (Bool.eq_false_iff.1 unowned)).trans (if_pos running))

end

/-! ## MREL and the engine's passing -/

theorem exec_mrel (s : State) : exec .mrel s = .next ((s.setDev (s.dev.mapEngine s.co.dseq s.me.gang (GangEntry.freed s))).retire 4) := by
  rw [show GangEntry.freed s = _ from funext (freed_if s)]
  rfl

/-- Whether an entry leaves a core's FIFO: the owner with every member released and every MMA retired, and a waiting entry whose members are
gone (R298). -/
def State.passes (s : State) (core : Nat) (e : GangEntry) : Bool :=
  let h := s.companyOf e.dseq
  e.core == core && (if e.owns then (gangMembers e.gang).all (fun j => e.released.contains j || h.ended.contains j) && h.fired.all (fun x => x.gang != e.gang)
    else h.cohorts.all fun c => !(gangMembers e.gang).contains c.j || c.stat == .ended || c.gang != e.gang)

theorem exec_enginePass (core : Nat) (s : State) : exec (.enginePass core) s =
    .next ((s.queueing (s.dev.engines.filter fun e => !s.passes core e)).grantHead (s.dev.engines.length + 1) core) := by
  have passes : ∀ e : GangEntry, s.passes core e = (e.core == core && (if e.owns then e.done (s.companyOf e.dseq)
      else (s.companyOf e.dseq).allGone e.gang)) := fun e => by
    simp only [State.passes, GangEntry.done, Company.allGone, Company.listed, List.all_filter, List.not_any_eq_all_not, bne, Bool.or_assoc]
  simp only [passes]
  rfl

/-- Settles O39, each instruction by what it does to the entries of its gang. That the engine passes in an event of its own (log entry 44) is a
choice of the model that the statement takes over. -/
theorem gangs : Obligations.Gangs := by
  unfold Obligations.Gangs
  simp only [← gangMembers_eq]
  refine ⟨fun a s unrecorded => ⟨fun refused => ?refused, fun accepted clean same => exec_gang_same a accepted clean same,
      fun accepted clean change bare => ?changed⟩,
    fun s unrecorded placed running others => ⟨fun outside => ?outside, fun inside e head mine one owns => ?owner,
      fun inside new free agree kept => ?free, fun inside new e head owns => exec_macq_waits inside new running head owns⟩,
    fun s => ⟨_, exec_mrel s, ⟨rfl, rfl, rfl⟩, rfl, ⟨rfl, rfl, rfl, rfl⟩, rfl⟩,
    fun core s unrecorded => ⟨fun e head owns => ?stays, fun e head unowned mine others placed here first agree kept => ?grants⟩⟩
  case refused => exact ⟨_, exec_gang_refused a refused, State.mtx_does unrecorded 1⟩
  case changed =>
    refine ⟨_, exec_gang_change a accepted clean change bare, ⟨rfl, rfl, rfl⟩, rfl, rfl, ⟨rfl, rfl, rfl, rfl⟩, fun none => if_pos none, ?_⟩
    rintro gang es rfl
    refine (if_neg gang).trans ?_
    simp only [unwait_freed]
    rfl
  case outside => exact ⟨_, exec_macq_outside outside, State.mtx_does unrecorded 1⟩
  case owner => exact ⟨_, exec_macq_owner inside head mine one owns, ⟨rfl, rfl, rfl⟩, rfl, ⟨rfl, rfl, rfl, rfl⟩, rfl⟩
  case free =>
    have present : s.co.place ≠ .absent := by simp [placed]
    have here : s.me.stat ≠ .absent := by simp [running]
    exact ⟨_, exec_macq_free inside new unrecorded present here others free agree kept, ⟨rfl, rfl, rfl⟩, rfl, ⟨rfl, rfl, rfl, rfl⟩, rfl⟩
  case stays =>
    refine (exec_enginePass core s).trans (congrArg Host.Outcome.next (State.grantHead_stays _ fun x found => ?_))
    exact owns x (head.symm.trans found)
  case grants =>
    refine (exec_enginePass core s).trans (congrArg Host.Outcome.next ?_)
    refine (State.grantHead_grants (s := s.queueing (s.dev.engines.filter fun e => !s.passes core e))
      ((State.recording_kept (s := s) rfl rfl rfl).trans unrecorded) placed here first others _ head unowned mine agree kept).trans (congrArg s.queueing (List.map_congr_left fun x _ => ?_))
    by_cases its : x.dseq = e.dseq ∧ x.gang = e.gang
    · exact (if_pos its).trans (Eq.trans (by rw [GangEntry.granted, its.2]; rfl) (if_pos its).symm)
    · exact (if_neg its).trans (if_neg its).symm

end Sys2Proof.Machine
end

section
/-!
SUPPORT. Vectors written from a tile (R206, R309), and what an instruction on tiles leaves.
-/
namespace Sys2Proof.Machine

/-! ## Vectors from a tile -/

/-- A vector with the words and poison of some lanes replaced. -/
def VReg.filled (v : VReg) (m : Mask) (g : Nat → Word × Bool) : VReg :=
  { v.merge m (fun i => (g i).1) with poison := (v.merge m fun i => (g i).1).poison ||| bitsOf fun i => m.getLsbD i && (g i).2 }

section
variable (v : VReg) (m : Mask) (g : Nat → Word × Bool) {i : Nat} (inside : i < 64)
include inside

theorem VReg.filled_in (here : m.getLsbD i = true) : (v.filled m g).lane i = (g i).1 ∧ (v.filled m g).poison.getLsbD i = (g i).2 := by
  refine ⟨(VReg.lane_merge v m (fun i => (g i).1) inside).trans (if_pos here), ?_⟩
  simp only [VReg.filled, VReg.poison_merge, BitVec.getLsbD_or, BitVec.getLsbD_and, BitVec.getLsbD_not, bitsOf_getLsbD _ _ inside, here]
  simp

theorem VReg.filled_out (apart : m.getLsbD i = false) :
    (v.filled m g).lane i = v.lane i ∧ (v.filled m g).poison.getLsbD i = v.poison.getLsbD i := by
  refine ⟨(VReg.lane_merge v m (fun i => (g i).1) inside).trans (if_neg (by simp [apart])), ?_⟩
  simp only [VReg.filled, VReg.poison_merge, BitVec.getLsbD_or, BitVec.getLsbD_and, BitVec.getLsbD_not, bitsOf_getLsbD _ _ inside, apart]
  simp [inside]

end

/-- The present lanes of vectors filled with tile data, by lane and vector. -/
def Cohort.fillTile (c : Cohort) (d n : Nat) (f : Nat → Nat → Word × Bool) : Cohort :=
  (List.range n).foldl (fun c m => c.fillLanes (d + m) c.present fun i => f i m) c

theorem Cohort.fillTile_succ (c : Cohort) (d n : Nat) (f : Nat → Nat → Word × Bool) :
    c.fillTile d (n + 1) f = (c.fillTile d n f).fillLanes (d + n) (c.fillTile d n f).present fun i => f i n := by
  rw [Cohort.fillTile, List.range_succ, List.foldl_append]
  rfl

section
variable (c : Cohort) (d : Nat) (f : Nat → Nat → Word × Bool)

theorem Cohort.fillTile_rest (n : Nat) : { c.fillTile d n f with v := c.v } = c := by
  induction n with
  | zero => rfl
  | succ n ih =>
    rw [Cohort.fillTile_succ]
    exact ih

theorem Cohort.fillTile_others {r : Nat} (n : Nat) (other : ∀ m, m < n → r ≠ d + m) :
    (c.fillTile d n f).vget r = c.vget r ∧ (c.fillTile d n f).allocated r = c.allocated r := by
  induction n with
  | zero => exact ⟨rfl, rfl⟩
  | succ n ih =>
    obtain ⟨vget, held⟩ := ih fun m below => other m (by omega)
    obtain ⟨word, name, -⟩ := fillLanes_get (c.fillTile d n f) (d + n) (c.fillTile d n f).present (fun i => f i n) r
    have apart := other n (Nat.lt_succ_self n)
    rw [Cohort.fillTile_succ]
    exact ⟨(word.trans (if_neg apart)).trans vget, (name apart).trans held⟩

theorem Cohort.fillTile_names (n : Nat) : ∀ m, m < n →
    (c.fillTile d n f).vget (d + m) = (c.vget (d + m)).filled c.present (fun i => f i m) ∧ (c.fillTile d n f).allocated (d + m) = true := by
  induction n with
  | zero => exact fun m none => absurd none (Nat.not_lt_zero m)
  | succ n ih =>
    intro m below
    have present : (c.fillTile d n f).present = c.present := (congrArg Cohort.present (c.fillTile_rest d f n) :)
    obtain ⟨word, name, -⟩ := fillLanes_get (c.fillTile d n f) (d + n) (c.fillTile d n f).present (fun i => f i n) (d + m)
    rw [Cohort.fillTile_succ]
    rcases Nat.lt_succ_iff_lt_or_eq.1 below with earlier | rfl
    · obtain ⟨vget, held⟩ := ih m earlier
      have apart : d + m ≠ d + n := by omega
      exact ⟨(word.trans (if_neg apart)).trans vget, (name apart).trans held⟩
    · refine ⟨(word.trans (if_pos rfl)).trans ?_, ?_⟩
      · rw [present, (c.fillTile_others d f m fun k below => by omega).1]
        rfl
      · rw [Cohort.fillLanes, Cohort.allocated_vput, if_pos rfl]

end

/-- An instruction gave the present lanes of vectors words and poison, by lane and vector, and changed nothing else but its context. -/
def Gave (s t : State) (d n : Nat) (f : Nat → Nat → Word × Bool) : Prop :=
  Retired s t 4 ∧
    (∀ m i, m < n → i < 64 → s.me.present.getLsbD i = true →
      (t.me.vget (d + m)).lane i = (f i m).1 ∧ (t.me.vget (d + m)).poison.getLsbD i = (f i m).2) ∧
    (∀ m i, m < n → i < 64 → s.me.present.getLsbD i = false → (t.me.vget (d + m)).lane i = (s.me.vget (d + m)).lane i ∧
      (t.me.vget (d + m)).poison.getLsbD i = (s.me.vget (d + m)).poison.getLsbD i) ∧
    (∀ m, m < n → t.me.allocated (d + m) = true) ∧
    (∀ r, (∀ m, m < n → r ≠ d + m) → t.me.vget r = s.me.vget r ∧ t.me.allocated r = s.me.allocated r) ∧
    { t.me.quiet with v := s.me.v } = s.me.quiet ∧ t.co = s.co ∧ t.dev = s.dev ∧ t.turns = s.turns ∧ t.free = s.free

section
variable {s : State} {d n : Nat} (f : Nat → Nat → Word × Bool)

/-- The state once vectors have been written from a tile. -/
def State.given (s : State) (d n : Nat) (f : Nat → Nat → Word × Bool) : State := (s.setMe (s.me.fillTile d n f)).retire 4

theorem State.tileToRegs_given (room : Room s [] (groupNames d n)) : s.tileToRegs d n f = s.given d n f := by
  have room : s.canAlloc ((groupNames d n).filter fun r => !s.me.allocated r).length = true := room
  exact if_neg (by rw [room]; exact Bool.noConfusion)

variable (s d n)

theorem gave_given (cx : Context) : Gave s { s.given d n f with cx := cx } d n f := by
  have rest := s.me.fillTile_rest d f n
  have names := s.me.fillTile_names d f n
  refine ⟨⟨?_, ?_, rfl⟩, fun m i below inside here => ?_, fun m i below inside apart => ?_, fun m below => (names m below).2,
    fun r other => s.me.fillTile_others d f n other, congrArg Cohort.quiet rest, rfl, rfl, rfl, rfl⟩
  · exact (congrArg (fun c : Cohort => c.pc + 4#56) rest :)
  · exact (congrArg (fun c : Cohort => c.icount + 1) rest :)
  · have word : (s.given d n f).me.vget (d + m) = _ := (names m below).1
    rw [word]
    exact VReg.filled_in _ _ _ inside here
  · have word : (s.given d n f).me.vget (d + m) = _ := (names m below).1
    rw [word]
    exact VReg.filled_out _ _ _ inside apart

theorem State.given_icount : (s.given d n f).me.icount = s.me.icount + 1 := (gave_given s d n f _).1.icount

end

/-! ## What is left -/

/-- Counting changes counters of the context alone (R409). -/
theorem State.count_eq (s : State) (i n : Nat) : ∃ cnt sat, s.count i n = { s with cx := { s.cx with cnt := cnt, sat := sat } } := by
  unfold State.count
  dsimp only
  split
  · exact ⟨_, _, rfl⟩
  · split <;> exact ⟨_, _, rfl⟩

/-- A lane-tile instruction under the present mask. -/
theorem laneTile_full {s : State} (f : State → State) (full : s.me.em = s.me.present) : laneTile f s = f s := if_neg (not_not_intro full)

theorem laneTile_partial {s : State} (f : State → State) (narrowed : s.me.em ≠ s.me.present) : laneTile f s = s.mtx 2 := if_pos narrowed

end Sys2Proof.Machine
end

section
/-!
Tile moves, conversion and reduction (R293, R294, R308 to R311).
-/
namespace Sys2Proof.Machine

/-! ## Names that are written and freed -/

/-- A name that is allocated and DIRTY and holds elements with their poison (R293, R294). -/
def TileHolds (h : Company) (n : Nat) (f : Nat → Nat → Word) (p : Nat → Nat → Bool) : Prop :=
  (∃ x, Store.get none h.tiles n = some x ∧ ∀ i c, i < 64 → c < 64 → x.at i c = f i c ∧ x.bad i c = p i c) ∧ Store.get false h.dirty n = true

/-- A name is the same in two companies. -/
def SameTile (h k : Company) (n : Nat) : Prop :=
  Store.get none k.tiles n = Store.get none h.tiles n ∧ Store.get false k.dirty n = Store.get false h.dirty n

/-- A name is neither allocated nor DIRTY. -/
def TileFree (h : Company) (n : Nat) : Prop := Store.get none h.tiles n = none ∧ Store.get false h.dirty n = false

section
variable (h : Company) (t : Nat)

theorem tilePut_same (x : Tile) {n : Nat} (other : n ≠ t) : SameTile h (h.tilePut t x) n :=
  ⟨(h.tiles_tilePut t n x).trans (if_neg other), (h.dirty_tilePut t n x).trans (if_neg other)⟩

theorem tilePut_holds (x : Tile) {f : Nat → Nat → Word} {p : Nat → Nat → Bool}
    (is : ∀ i c, i < 64 → c < 64 → x.at i c = f i c ∧ x.bad i c = p i c) : TileHolds (h.tilePut t x) t f p :=
  ⟨⟨x, (h.tiles_tilePut t t x).trans (if_pos rfl), is⟩, (h.dirty_tilePut t t x).trans (if_pos rfl)⟩

theorem tilePut_build_holds (f : Nat → Nat → Word) (p : Nat → Nat → Bool) : TileHolds (h.tilePut t (Tile.build f p)) t f p :=
  tilePut_holds h t _ fun _ _ row col => ⟨Tile.build_at f p row col, Tile.build_bad f p row col⟩

theorem tileFree_free : TileFree (h.tileFree t) t :=
  ⟨(h.tiles_tileFree t t).trans (if_pos rfl), (h.dirty_tileFree t t).trans (if_pos rfl)⟩

theorem tileFree_same {n : Nat} (other : n ≠ t) : SameTile h (h.tileFree t) n :=
  ⟨(h.tiles_tileFree t n).trans (if_neg other), (h.dirty_tileFree t n).trans (if_neg other)⟩

end

/-- Freeing names one after another frees each and changes nothing else of the company. -/
theorem foldl_tileFree (ts : List Nat) : ∀ h : Company, { ts.foldl Company.tileFree h with tiles := h.tiles, dirty := h.dirty } = h ∧
    ∀ n, n ∈ ts ∨ TileFree h n → TileFree (ts.foldl Company.tileFree h) n := by
  induction ts with
  | nil => exact fun h => ⟨rfl, fun n is => is.resolve_left List.not_mem_nil⟩
  | cons t ts ih =>
    intro h
    obtain ⟨rest, frees⟩ := ih (h.tileFree t)
    refine ⟨(congrArg (fun k : Company => ({ k with tiles := h.tiles, dirty := h.dirty } : Company)) rest :), fun n is => frees n ?_⟩
    by_cases this : n = t
    · exact .inr (this ▸ tileFree_free h n)
    · refine is.imp (fun listed => (List.mem_cons.1 listed).resolve_left this) fun ⟨tile, dirty⟩ => ?_
      obtain ⟨sameTile, sameDirty⟩ := tileFree_same h t this
      exact ⟨sameTile.trans tile, sameDirty.trans dirty⟩

/-- No element of some rows and columns is poisoned. -/
def TileClean (x : Tile) (m : Mask) (lo hi : Nat) : Prop := ∀ i c, i < 64 → m.getLsbD i = true → lo ≤ c → c < hi → x.bad i c = false

theorem TileClean.badRows {x : Tile} {lo hi : Nat} (clean : TileClean x (BitVec.allOnes 64) lo hi) : x.badRows lo hi = 0#64 :=
  (BitVec.and_allOnes).symm.trans (Tile.badRows_clean clean)

/-! ## Writing and freeing tiles -/

section
variable (s : State)

theorem State.recording_retire (n : Nat) : (s.retire n).recording = s.recording := State.recording_congr rfl rfl

theorem State.recording_setCo (h : Company) : (s.setCo h).recording = s.recording := State.recording_congr rfl rfl

theorem State.recording_setMe (c : Cohort) : (s.setMe c).recording = s.recording := State.recording_congr rfl rfl

theorem State.recording_count (i n : Nat) : (s.count i n).recording = s.recording := by
  obtain ⟨cnt, sat, counts⟩ := s.count_eq i n
  rw [counts]
  exact State.recording_congr rfl rfl

end

section
variable {s : State} (unrecorded : s.recording = false)
include unrecorded

theorem exec_tfree (t : BitVec 4) : exec (.tfree t) s = .next ((s.setCo (s.co.tileFree t.toNat)).retire 4) :=
  congrArg Host.Outcome.next (State.onTiles_off _ unrecorded (by simp) (((State.recording_retire _ _).trans (s.recording_setCo _)).trans unrecorded))

theorem exec_tfreeAll : exec .tfreeAll s = .next ((s.setCo ((List.range 16).foldl Company.tileFree s.co)).retire 4) := by
  show execTfreeAll s = _
  rw [execTfreeAll, State.onTiles_off _ unrecorded (by simp)]
  rw [State.recording_retire, State.recording_setCo, unrecorded]

section
variable (t : BitVec 4) (room : s.canTile t.toNat = true)
include room

theorem exec_tzero : exec (.tzero t) s = .next ((s.setCo (s.co.tilePut t.toNat Tile.zero)).retire 4) :=
  congrArg Host.Outcome.next (State.onTiles_off _ unrecorded (fun _ is => Option.some.inj is ▸ room)
    (((State.recording_retire _ _).trans (s.recording_setCo _)).trans unrecorded))

/-- The sum of two tiles, element by element (R311). -/
def Company.tileSum (h : Company) (t src : Nat) : Tile :=
  Tile.build (fun i c => BitVec.ofNat 32 (fadd .fp32 ((h.tileOf t).at i c).toNat ((h.tileOf src).at i c).toNat)) fun _ _ => false

theorem exec_tredAdd (src : BitVec 4) (target : TileClean (s.co.tileOf t.toNat) (BitVec.allOnes 64) 0 64)
    (source : TileClean (s.co.tileOf src.toNat) (BitVec.allOnes 64) 0 64) : exec (.tredAdd src t) s =
      .next (((s.setCo (s.co.tilePut t.toNat (s.co.tileSum t.toNat src.toNat))).count 30 4096).retire 4) := by
  have clean : ¬ ((s.co.tileOf t.toNat).badRows 0 64 ||| (s.co.tileOf src.toNat).badRows 0 64 ≠ 0#64) := by
    rw [target.badRows, source.badRows]
    decide
  have found : ∀ n ∈ some t.toNat, s.canTile n = true := fun _ is => Option.some.inj is ▸ room
  refine congrArg Host.Outcome.next ((State.onTiles_off _ unrecorded found ?_).trans (if_neg clean))
  refine (congrArg State.recording (if_neg clean)).trans ?_
  rw [State.recording_retire, State.recording_count, State.recording_setCo, unrecorded]

/-- The tile that TMOVW leaves: columns from `c` on hold vectors from `d` on, with rows of absent lanes as 0 (R309). -/
def movedIn (s : State) (c n : Nat) (x : Tile) (d : Nat) : Tile :=
  Tile.build
    (fun i col => if c ≤ col ∧ col < c + n then (if s.me.present.getLsbD i then (s.me.vget (d + (col - c))).lane i else 0#32) else x.at i col)
    (fun i col => if c ≤ col ∧ col < c + n then s.me.present.getLsbD i && (s.me.vget (d + (col - c))).poison.getLsbD i else x.bad i col)

theorem exec_tmovw (full : s.me.em = s.me.present) (c : Reg) (n : BitVec 2) (d : Reg) : exec (.tmovw c n t d) s =
    .next (((s.setCo (s.co.tilePut t.toNat (movedIn s c.toNat (2 ^ n.toNat) (s.co.tileOf t.toNat) d.toNat))).setMe
      (s.me.unalloc (s.me.misses (groupNames d.toNat (2 ^ n.toNat))))).retire 4) := by
  refine congrArg Host.Outcome.next ((laneTile_full _ full).trans ((State.onTiles_off _ unrecorded (fun _ is => Option.some.inj is ▸ room)
    ((State.recording_kept (s := s) rfl rfl rfl).trans unrecorded)).trans ?_))
  simp only [decide_eq_true_eq]
  rfl

end

end

/-! ## Reading tiles -/

section
variable (s : State) (d n : Nat) (f : Nat → Nat → Word × Bool)

theorem State.recording_given : (s.given d n f).recording = s.recording := (State.recording_retire _ _).trans (State.recording_setMe _ _)

/-- Vectors written from a tile and counted. -/
theorem State.given_counted (i k : Nat) :
    (if (s.given d n f).me.icount = s.me.icount then s.given d n f else (s.given d n f).count i k) = (s.given d n f).count i k :=
  if_neg (by rw [State.given_icount]; omega)

theorem gave_count (i k : Nat) : Gave s ((s.given d n f).count i k) d n f := by
  obtain ⟨cnt, sat, counts⟩ := (s.given d n f).count_eq i k
  rw [counts]
  exact gave_given s d n f _

end

/-- The sum of values rounded once (R249). -/
theorem lrfadd_map (g : Nat → Word) (l : List Nat) : lrfadd (l.map g) = R32 (sumVals (l.map fun c => V32 (g c))) := by
  rw [lrfadd, List.map_map]
  rfl

section
variable {s : State} (unrecorded : s.recording = false) (full : s.me.em = s.me.present) (d : Reg)
include unrecorded full

theorem exec_tmovr (c : Reg) (n : BitVec 2) (t : BitVec 4) (room : Room s [] (groupNames d.toNat (2 ^ n.toNat))) : exec (.tmovr c n t d) s =
    .next (s.given d.toNat (2 ^ n.toNat) fun i m => ((s.co.tileOf t.toNat).at i (c.toNat + m), (s.co.tileOf t.toNat).bad i (c.toNat + m))) := by
  have gives := State.tileToRegs_given (fun i m => ((s.co.tileOf t.toNat).at i (c.toNat + m), (s.co.tileOf t.toNat).bad i (c.toNat + m))) room
  refine congrArg Host.Outcome.next ((laneTile_full _ full).trans ((State.onTiles_off _ unrecorded (by simp) ?_).trans gives))
  rw [gives, State.recording_given, unrecorded]

/-- The sums of the rows of a tile (R311). -/
def Tile.rowSums (x : Tile) (i _m : Nat) : Word × Bool := (lrfadd ((List.range 64).map (x.at i)), false)

theorem exec_tredRow (src : BitVec 4) (room : Room s [] (groupNames d.toNat 1)) (clean : TileClean (s.co.tileOf src.toNat) s.me.present 0 64) :
    exec (.tredRow src d) s = .next ((s.given d.toNat 1 (s.co.tileOf src.toNat).rowSums).count 30 (64 * popcount s.me.present)) := by
  have gives := (congrArg (fun t : State => if t.me.icount = s.me.icount then t else t.count 30 (64 * popcount s.me.present))
    (State.tileToRegs_given (s.co.tileOf src.toNat).rowSums room)).trans (State.given_counted ..)
  have none : ¬ ((s.co.tileOf src.toNat).badRows 0 64 &&& s.me.present ≠ 0#64) := not_not_intro (Tile.badRows_clean clean)
  refine congrArg Host.Outcome.next ((laneTile_full _ full).trans ((State.onTiles_off _ unrecorded (by simp) ?_).trans ((if_neg none).trans gives)))
  refine (congrArg State.recording ((if_neg none).trans gives)).trans ?_
  rw [State.recording_count, State.recording_given, unrecorded]

end

/-! ## TCVT (R310) -/

theorem tcvtFmt_eq {fmt : BitVec 3} (code : fmt.toNat ≤ 6) :
    tcvtFmt fmt = [Fmt.bf16, .fp16, .e4m3, .e5m2, .e2m1, .int8, .int4].getD fmt.toNat .bf16 := by
  revert fmt
  decide

theorem modeOf_sr (r : BitVec 3) : modeOf r = .sr ↔ r = 4#3 := by
  revert r
  decide

/-- An operation on tiles is what it does in the state it starts from. -/
theorem State.onTiles_congr {s : State} {f g : State → State} (write : Option Nat) (ts : List Nat) (same : f s = g s) :
    s.onTiles write ts f = s.onTiles write ts g := by
  rw [State.onTiles, State.onTiles, same]

/-- What an sr_check leaves of the recording. -/
theorem SrChecked.recording {u v : State} (checked : SrChecked u v) : v.recording = u.recording := by
  obtain ⟨same, fresh, moved⟩ := checked
  cases entry : u.cx.filter.find? (fun e => e.1 == u.me.crget 0x16) with
  | none =>
    rw [fresh entry]
    exact State.recording_congr rfl rfl
  | some e =>
    obtain ⟨tid, prev⟩ := e
    obtain rfl : tid = u.me.crget 0x16 := by simpa using List.find?_some entry
    by_cases current : prev = u.co.lseq
    · rw [same prev entry current]
    · obtain ⟨cx, -, -, -, -, is⟩ := moved prev entry current
      exact State.recording_congr (by rw [is]) (by rw [cx])

/-- The state of a TCVT before its sr_check. -/
def State.converted (s : State) (r fmt : BitVec 3) (q : BitVec 2) (t : BitVec 4) (d : Reg) : State :=
  let f := tcvtFmt fmt
  let p := 32 / f.width
  (s.given d.toNat (16 / p) fun i m => (tcvtWord f (modeOf r) (fun col => if modeOf r = .sr then s.srAt (s.me.tileCoord i col) else 0#32)
    (s.co.tileOf t.toNat) i (16 * q.toNat + p * m), false)).count 29 (16 * popcount s.me.present)

section
variable {s : State} (r fmt : BitVec 3) (q : BitVec 2) (t : BitVec 4) (d : Reg)

theorem exec_tcvt (full : s.me.em = s.me.present) (room : Room s [] (groupNames d.toNat (16 / (32 / (tcvtFmt fmt).width))))
    (clean : TileClean (s.co.tileOf t.toNat) s.me.present (16 * q.toNat) (16 * q.toNat + 16)) : exec (.tcvt r fmt q t d) s =
      .next (s.onTiles none [t.toNat] fun _ => srAfter (decide (modeOf r = .sr)) (s.converted r fmt q t d)) := by
  have none : ¬ ((s.co.tileOf t.toNat).badRows (16 * q.toNat) (16 * q.toNat + 16) &&& s.me.present ≠ 0#64) :=
    not_not_intro (Tile.badRows_clean clean)
  have gives := State.tileToRegs_given (fun i m => (tcvtWord (tcvtFmt fmt) (modeOf r) (fun col => if modeOf r = .sr then s.srAt (s.me.tileCoord i col)
    else 0#32) (s.co.tileOf t.toNat) i (16 * q.toNat + 32 / (tcvtFmt fmt).width * m), false)) room
  refine congrArg Host.Outcome.next ((laneTile_full _ full).trans (State.onTiles_congr _ _ ((if_neg none).trans ?_)))
  dsimp only
  rw [gives, if_neg (by rw [State.given_icount]; omega)]
  rfl

/-- A TCVT leaves what makes an sr_check plain (R174, R310). -/
theorem SrPlain.converted (plain : SrPlain s) : SrPlain (s.converted r fmt q t d) := by
  rw [State.converted]
  generalize (fun i m => (tcvtWord _ _ _ _ i (_ + _ * m), false) : Nat → Nat → Word × Bool) = f
  have recorded := (State.recording_count (s.given d.toNat (16 / (32 / (tcvtFmt fmt).width)) f) 29 (16 * popcount s.me.present)).trans
    ((s.recording_given _ _ f).trans plain.recorded)
  obtain ⟨cnt, sat, counts⟩ := (s.given d.toNat (16 / (32 / (tcvtFmt fmt).width)) f).count_eq 29 (16 * popcount s.me.present)
  have rest := s.me.fillTile_rest d.toNat f (16 / (32 / (tcvtFmt fmt).width))
  have index : (s.me.fillTile d.toNat (16 / (32 / (tcvtFmt fmt).width)) f).j = s.me.j := (congrArg Cohort.j rest :)
  have warning : (s.me.fillTile d.toNat (16 / (32 / (tcvtFmt fmt).width)) f).srw = s.me.srw := (congrArg Cohort.srw rest :)
  rw [counts] at recorded ⊢
  refine ⟨recorded, ?_, plain.masked, warning.trans plain.noSrw⟩
  show s.cx.srStale.contains (s.co.dseq, (s.me.fillTile _ _ f).j) = false
  rw [index, plain.seen]

theorem gave_converted (code : r.toNat ≤ 4) : Gave s (s.converted r fmt q t d) d.toNat (16 / (32 / (tcvtFmt fmt).width)) fun i m =>
    (tcvtWord (tcvtFmt fmt) (modeNamed r) (fun c => if r = 4#3 then srWordOf s s.srKeys (s.me.tileCoord i c) else 0#32) (s.co.tileOf t.toNat) i
      (16 * q.toNat + 32 / (tcvtFmt fmt).width * m), false) := by
  have gave := gave_count s d.toNat (16 / (32 / (tcvtFmt fmt).width)) (fun i m => (tcvtWord (tcvtFmt fmt) (modeOf r)
    (fun c => if modeOf r = .sr then s.srAt (s.me.tileCoord i c) else 0#32) (s.co.tileOf t.toNat) i (16 * q.toNat + 32 / (tcvtFmt fmt).width * m),
    false)) 29 (16 * popcount s.me.present)
  have converted : Gave s (s.converted r fmt q t d) _ _ _ := gave
  simp only [modeOf_sr, State.srAt_eq] at converted
  rwa [modeOf_eq code] at converted

end

/-- Settles O42: each instruction in its context is what it does to names or vectors. That SR instructions around a change of the key may read
the old pair (log entry 86) is a choice of the model that the statement takes over. -/
theorem tileInstructions : Obligations.TileInstructions := by
  unfold Obligations.TileInstructions
  refine ⟨fun t s unrecorded room => ?zero, fun t s unrecorded => ?free, fun s unrecorded => ?freeAll,
    fun src t s unrecorded room target source => ?add, fun c n t d s unrecorded full room => ?movw,
    fun c n t d s unrecorded full room => ?movr, fun src d s unrecorded full room clean => ?row,
    fun r fmt q t d s unrecorded full code format => ?cvt, fun i s unrecorded narrowed is => ?narrowed⟩
  case zero =>
    exact ⟨_, exec_tzero unrecorded t room, ⟨⟨rfl, rfl, rfl⟩, rfl, rfl, rfl, rfl⟩, rfl, rfl, rfl,
      tilePut_holds s.co t.toNat _ fun _ _ _ _ => ⟨rfl, rfl⟩, fun n other => tilePut_same s.co t.toNat _ other⟩
  case free =>
    exact ⟨_, exec_tfree unrecorded t, ⟨⟨rfl, rfl, rfl⟩, rfl, rfl, rfl, rfl⟩, rfl, rfl, tileFree_free s.co t.toNat,
      fun n other => tileFree_same s.co t.toNat other⟩
  case freeAll =>
    obtain ⟨rest, frees⟩ := foldl_tileFree (List.range 16) s.co
    have does := exec_tfreeAll unrecorded
    generalize (List.range 16).foldl Company.tileFree s.co = h at rest frees does
    exact ⟨_, does, ⟨⟨rfl, rfl, rfl⟩, rest, rfl, rfl, rfl⟩, rfl, rfl, fun n name => frees n (.inl (List.mem_range.2 name))⟩
  case add =>
    refine ⟨_, exec_tredAdd unrecorded t room src target source, ?_⟩
    obtain ⟨cnt, sat, counts⟩ := (s.setCo (s.co.tilePut t.toNat (s.co.tileSum t.toNat src.toNat))).count_eq 30 4096
    rw [counts]
    exact ⟨⟨⟨rfl, rfl, rfl⟩, rfl, rfl, rfl, rfl⟩, rfl, rfl, fun n other => tilePut_same s.co t.toNat _ other,
      tilePut_build_holds s.co t.toNat _ _⟩
  case movw =>
    intro k x
    have rest := s.me.unalloc_eq (s.me.misses (groupNames d.toNat k))
    refine ⟨_, exec_tmovw unrecorded t room full c n d, ⟨⟨?_, ?_, rfl⟩, rfl, rfl, rfl, rfl⟩, rfl, rfl, ?_,
      fun n other => tilePut_same s.co t.toNat _ other, tilePut_build_holds s.co t.toNat _ _⟩
    · exact (congrArg (fun c : Cohort => c.pc + 4#56) rest :)
    · exact (congrArg (fun c : Cohort => c.icount + 1) rest :)
    · exact (congrArg (fun c : Cohort => ({ c with cr := s.me.cr } : Cohort).quiet) rest :)
  case movr => exact ⟨_, exec_tmovr unrecorded full d c n t room, rfl, gave_given s _ _ _ s.cx⟩
  case row =>
    have gave := gave_count s d.toNat 1 (s.co.tileOf src.toNat).rowSums 30 (64 * popcount s.me.present)
    have sums : (s.co.tileOf src.toNat).rowSums = fun i _ => (R32 (sumVals ((List.range 64).map fun c => V32 ((s.co.tileOf src.toNat).at i c))), false) :=
      funext fun i => funext fun _ => congrArg (·, false) (lrfadd_map _ _)
    exact ⟨_, exec_tredRow unrecorded full d src room clean, State.count_cx _ _ _, sums ▸ gave⟩
  case cvt =>
    intro f p x coord room clean
    have named : tcvtFmt fmt = f := tcvtFmt_eq format
    have does := exec_tcvt r fmt q t d full (by rw [named]; exact room) clean
    have gave := gave_converted (s := s) r fmt q t d code
    rw [named] at gave
    refine ⟨s.converted r fmt q t d, _, s.srKeys, does, s.srKeys_pair, State.count_cx _ _ _, fun other => ?_, fun sr plain => ?_, gave⟩
    · rw [decide_eq_false (other ∘ (modeOf_sr r).1)]
      exact State.onTiles_off _ unrecorded (by simp) ((State.recording_count ..).trans ((State.recording_given ..).trans unrecorded))
    · have checked := srAfter_checked (plain.converted r fmt q t d)
      rw [decide_eq_true ((modeOf_sr r).2 sr), State.onTiles_off _ unrecorded (by simp)]
      · exact checked
      · exact checked.recording.trans (plain.converted r fmt q t d).recorded
  case narrowed =>
    have trapped := State.mtx_does unrecorded 2
    rcases is with ⟨c, n, t, d, rfl | rfl⟩ | ⟨t, d, rfl⟩ | ⟨r, f, q, t, d, rfl⟩ <;>
      exact ⟨_, congrArg Host.Outcome.next (laneTile_partial _ narrowed), trapped⟩

end Sys2Proof.Machine
end

section
/-!
SUPPORT. Registers with a field GO (R6, R18), a device that differs from another apart from its registers, and making a context or a company
current that is current already.
-/
namespace Sys2Proof.Machine

/-! ## A write with a field GO -/

/-- The machine once a plain write of a register is stored (R18). -/
def State.regStored (s : State) (w : RegWrite) : State := s.setDev (s.dev.regStore w)

section
variable {w : RegWrite} {b : Nat} (s : State) (legal : w.ok = true) (base : w.base = b)
include legal base

theorem State.regStored_regSet : RegSet s (s.regStored w) b (ctrlMerge (s.dev.reg b) (ctrlBits b).1 (ctrlBits b).2 w.cover w.placed) := by
  rw [State.regStored, Device.regStore, if_pos legal, base]
  exact RegSet.of_setReg ..

theorem State.regStored_written {rw w1c : Nat} (fields : ctrlBits b = (rw, w1c)) : Written w b rw w1c s (s.regStored w) := by
  have set := State.regStored_regSet s legal base
  rw [fields] at set
  exact set.written legal

theorem State.regStoredAs_written (rw w1c : Nat) : Written w b rw w1c s (s.setDev (s.dev.regStoreAs w rw w1c)) := by
  subst base
  exact (RegSet.of_setReg ..).written legal

theorem RegWrite.sets_iff (i : Nat) : w.sets b i = true ↔ Covers w i ∧ w.val.testBit (i - 8 * (w.off % 8)) = true := by
  rw [RegWrite.sets, legal, base, bit_eq_testBit, beq_self_eq_true, Bool.true_and, Bool.true_and, RegWrite.testBit_ones legal]

end

/-! ## Registers read after a change -/

theorem State.setDev_back (s : State) (d : Device) : { s.setDev d with dev := s.dev } = s := rfl

@[simp] theorem Device.reg_setField (d : Device) (o hi lo v x : Nat) :
    (d.setField o hi lo v).reg x = if x = o then Machine.putBits (d.reg o) hi lo v else d.reg x := d.reg_setReg ..

theorem Device.reg_congr {d e : Device} (h : d.ctrl = e.ctrl) (o : Nat) : d.reg o = e.reg o := by rw [Device.reg, Device.reg, h]

theorem Written.reg {w : RegWrite} {b rw w1c : Nat} {s t : State} (h : Written w b rw w1c s t) {o : Nat} (other : o ≠ b) :
    t.dev.reg o = s.dev.reg o := h.others o other

/-- What a write leaves but for registers is what was there. -/
theorem RegSet.dev {s t : State} {o v : Nat} (h : RegSet s t o v) : t.dev = { s.dev with ctrl := t.dev.ctrl } := congrArg State.dev h.rest

theorem Written.dev {w : RegWrite} {b rw w1c : Nat} {s t : State} (h : Written w b rw w1c s t) : t.dev = { s.dev with ctrl := t.dev.ctrl } :=
  congrArg State.dev h.rest

theorem Device.setField_rest (d : Device) (o hi lo v : Nat) : d.setField o hi lo v = { d with ctrl := (d.setField o hi lo v).ctrl } := rfl

/-- Two fields put in one register. -/
theorem RegSet.of_setFields (s : State) (o hi lo v hi' lo' v' : Nat) :
    RegSet s (s.setDev ((s.dev.setField o hi lo v).setField o hi' lo' v')) o (putBits (putBits (s.dev.reg o) hi lo v) hi' lo' v') := by
  have first := RegSet.of_setField s o hi lo v
  have second := RegSet.of_setField (s.setDev (s.dev.setField o hi lo v)) o hi' lo' v'
  rw [first.value] at second
  exact first.trans second

theorem Written.with_ctrl {w : RegWrite} {b rw w1c : Nat} {s u : State} (h : Written w b rw w1c s u) (m : Store Nat) :
    u.setDev { u.dev with ctrl := m } = s.setDev { s.dev with ctrl := m } := by
  rw [h.rest]
  rfl

/-- A field put in a register that is written. -/
theorem Written.setField {w : RegWrite} {b rw w1c : Nat} {s u : State} (h : Written w b rw w1c s u) (hi lo v : Nat) :
    RegSet s (u.setDev (u.dev.setField b hi lo v)) b (putBits (u.dev.reg b) hi lo v) := by
  have set := RegSet.of_setField u b hi lo v
  exact ⟨set.value, fun o other => (set.others o other).trans (h.reg other), set.rest.trans (h.with_ctrl _)⟩

/-! ## A context without a company current -/

theorem Bare.parkMe {s : State} (bare : Bare s) : s.parkMe = s := if_pos bare.me

theorem Bare.parkCo {s : State} (bare : Bare s) : s.parkCo = s := by
  rw [State.parkCo, bare.parkMe]
  exact if_pos bare.co

theorem State.focusCx_here {s : State} (alive : s.cx.alive = true) : s.focusCx s.cx.asid = s := if_pos (by simp [alive])

theorem Bare.wholeContext {s : State} (bare : Bare s) (f : State → State) : s.wholeContext s.cx.asid f = f s := by
  unfold State.wholeContext
  rw [bare.parkCo, State.focusCx_here bare.cx]
  dsimp only
  rw [if_pos (by simp [bare.cx]), if_pos bare.me]

theorem State.onContext_here {s : State} (absent : s.me.stat = .absent) (alive : s.cx.alive = true) (f : State → State) :
    s.onContext s.cx.asid f = f s := by
  unfold State.onContext
  rw [State.focusCx_here alive]
  dsimp only
  rw [if_pos (by simp [alive]), if_pos absent]

theorem Bare.companies {s : State} (bare : Bare s) : s.companies = s.dev.companies := if_pos bare.co

theorem mem_insertContext (c x : Context) (l : List Context) : x ∈ insertContext c l ↔ x = c ∨ x ∈ l := by
  induction l with
  | nil => simp [insertContext]
  | cons y ys ih =>
    rw [insertContext]
    split
    · simp
    · simp [ih]; tauto

theorem State.mem_contexts {s : State} (alive : s.cx.alive = true) (x : Context) : x ∈ s.contexts ↔ x = s.cx ∨ x ∈ s.dev.contexts := by
  rw [State.contexts, if_pos alive, mem_insertContext]

/-- The context of an ASID that no other context has is the current one. -/
theorem State.context?_here {s : State} (alive : s.cx.alive = true) (others : ∀ c ∈ s.dev.contexts, c.asid ≠ s.cx.asid) :
    s.context? s.cx.asid = some s.cx := by
  rw [State.context?, State.contexts, if_pos alive]
  generalize s.dev.contexts = l at others
  induction l with
  | nil => simp [insertContext]
  | cons y ys ih =>
    rw [insertContext]
    split
    · simp
    · rw [List.find?_cons_of_neg (by simpa using others y (by simp))]
      exact ih fun c mem => others c (by simp [mem])

end Sys2Proof.Machine
end

section
/-!
SUPPORT. The supervisor handler: what entering it leaves (R320, R373), and what a RETT restores (R321, R374).
-/
namespace Sys2Proof.Machine

/-! ## Entering the handler (R373) -/

theorem Cohort.present_congr {c d : Cohort} (h : c.n0 = d.n0) : c.present = d.present := by rw [Cohort.present, Cohort.present, h]

/-- A cohort in its handler at `vec`, as an entry leaves it (R373). -/
def Cohort.handled (c : Cohort) (e : Entry14) (vec : Nat) : Cohort :=
  { c with
    cr := (c.trapRegs e.cls e.code e.sub e.mask e.imm e.pc).cr, em := if e.keepEm then c.em else e.mask &&& c.present
    priv := true, handler := true, f := [], pc := BitVec.ofNat 56 vec, stat := .running, wait := .none }

/-- The trap registers of a cohort in its handler (Table 14-3). -/
theorem Cohort.crget_handled (c : Cohort) (e : Entry14) (vec i : Nat) :
    (c.handled e vec).crget i = (c.trapRegs e.cls e.code e.sub e.mask e.imm e.pc).crget i := by
  rw [Cohort.crget, Cohort.crget, Cohort.handled]

/-- A frameless entry of a cohort whose handler is there, in a context that is not recorded. -/
theorem State.enter_handler {s u : State} {e : Entry14} (unrecorded : s.recording = false) (there : HandlerAt s u) (frameless : e.frame = none) :
    s.enter e = u.setMe (u.me.handled e (s.dev.reg 0x6018)) := by
  obtain ⟨w, fetched, marked, kind⟩ := there.header
  have looked : LookedAt s u := by have h := s.fetchWord_looked true (s.dev.reg 0x6018 % 2 ^ 56); rwa [fetched] at h
  have regs := Cohort.cr_only (Cohort.trapRegs_rest u.me e.cls e.code e.sub e.mask e.imm e.pc)
  have sup : isSup (s.dev.reg 0x6018 % 2 ^ 56) = true := by
    rw [isSup, bit_eq_testBit, Nat.testBit_mod_two_pow, there.sup]; rfl
  have vector : BitVec.ofNat 56 (s.dev.reg 0x6018 % 2 ^ 56) = BitVec.ofNat 56 (s.dev.reg 0x6018) := BitVec.eq_of_toNat_eq (by simp)
  unfold State.enter Cohort.handled
  rw [frameless]
  dsimp only
  rw [fetched]
  dsimp only
  rw [sup, (isHeader_iff w).2 ⟨marked, kind⟩, Bool.and_self, if_pos rfl, vector, regs]
  generalize (u.me.trapRegs e.cls e.code e.sub e.mask e.imm e.pc).cr = cr
  rw [State.log_off, Cohort.present_congr (c := { u.me with cr := cr }) (d := u.me) rfl]
  · rfl
  · exact (State.recording_congr (s := u) rfl rfl).trans (looked.recording.trans unrecorded)

/-- The frameless entry of a cohort whose handler is there (R373, Table 14-3). -/
theorem State.enter_entered {s u : State} {e : Entry14} (unrecorded : s.recording = false) (there : HandlerAt s u) (frameless : e.frame = none) :
    (s.enter e).dev = u.dev ∧ Looked s.dev u.dev ∧
      Entered s (s.enter e) e.cls e.code e.sub e.mask e.imm e.pc (if e.keepEm then s.me.em else e.mask &&& s.me.present) := by
  obtain ⟨w, fetched, -, -⟩ := there.header
  have looked : LookedAt s u := by have h := s.fetchWord_looked true (s.dev.reg 0x6018 % 2 ^ 56); rwa [fetched] at h
  have here : u = { s with dev := u.dev } := by rw [← looked.rest]
  have me : u.me = s.me := by rw [here]
  have read := fun i => (s.me.crget_handled e (s.dev.reg 0x6018) i).trans (Cohort.trapRegs_get s.me e.cls e.code e.sub e.mask e.imm e.pc i)
  rw [State.enter_handler unrecorded there frameless, me]
  refine ⟨rfl, looked.dev, ?_⟩
  exact {
    stat := rfl, pc := rfl, priv := rfl, handler := rfl, em := rfl, flags := rfl
    cause := (read _).trans (show _ = tcause e.cls e.code e.sub by simp)
    tpc := ⟨(read _).trans (by simp), (read _).trans (by simp)⟩
    tem := ⟨(read _).trans (by simp), (read _).trans (by simp)⟩
    tmask := ⟨(read _).trans (by simp), (read _).trans (by simp)⟩
    timm := (read _).trans (by simp)
    tclause := (read _).trans (by simp)
    others := fun i apart _ _ => (read i).trans (by
      rw [if_neg (by omega), if_neg (by omega), if_neg (by omega), if_neg (by omega), if_neg (by omega), if_neg (by omega),
        if_neg (by omega), if_neg (by omega), if_neg (by omega)])
    regs := ⟨rfl, rfl, rfl, rfl, rfl, rfl, rfl, rfl, rfl⟩
    frame := by rw [here]; exact ⟨rfl, rfl, rfl, rfl⟩ }

/-- An in-lane trap that is no #PF, of a cohort that may enter its handler: at once if it has drained, else once it has. -/
theorem State.inLane_user {s : State} {e : Entry14} (user : s.me.priv = false) (other : e.code ≠ 4) :
    s.inLane e = if s.me.drained then s.enter e else { s with me := { s.me with stat := .entering e } } := by
  unfold State.inLane
  rw [if_neg (by simp [user]), if_neg (by simp [other])]
  simp only [if_neg other]

/-- Settles O21: SYS is an in-lane trap that keeps em, and IN_LANE_TRAP_ENTRY makes an entry that waited; both are the entry of
`State.enter_entered`. That an entry leaves icount, so that SYS is counted at its RETT (log entry 39), is a choice of the model that the
statement takes over. -/
theorem supervisorEntry : Obligations.SupervisorEntry := by
  unfold Obligations.SupervisorEntry
  intro s u imm unrecorded user there
  have sys : ∀ i, exec (.sys i) s = .next (s.inLane { cls := 1, code := 11, sub := 0, mask := s.me.em, imm := i.toNat, pc := s.me.pc
                                                      keepEm := true, frame := none }) := fun _ => rfl
  rw [sys, State.inLane_user user (show 11 ≠ 4 by decide)]
  refine ⟨fun drained => ?_, fun busy => ?_, fun d j e here entering noOps noFlags frameless => ?_⟩
  · rw [if_pos drained]
    obtain ⟨dev, looked, entered⟩ := State.enter_entered unrecorded there (e := { cls := 1, code := 11, sub := 0, mask := s.me.em, imm := imm.toNat
                                                                                  pc := s.me.pc, keepEm := true, frame := none }) rfl
    exact ⟨_, rfl, dev, dev ▸ looked, entered⟩
  · rw [if_neg (by simp [busy])]
    exact ⟨_, rfl, rfl, rfl, rfl, rfl, rfl⟩
  · have drained : s.me.drained = true := by simp [Cohort.drained, noOps, noFlags]
    have does : exec (.inLaneTrapEntry d j) s = .next (s.enter e) := by
      refine congrArg Host.Outcome.next ((State.onCohort_at _ _ _ _ here).trans ?_)
      dsimp only
      rw [entering, settle_none s noOps]
      exact if_pos drained
    obtain ⟨dev, -, entered⟩ := State.enter_entered unrecorded there frameless
    exact ⟨_, does, dev, entered⟩

/-! ## Returning from the handler (R374) -/

/-- A RETT in the handler with every flag zero: it restores, resumes as the cause of the entry and cr.fres direct, and then raises what was
held. -/
theorem exec_rett {s : State} (unrecorded : s.recording = false) (priv : s.me.priv = true) (handler : s.me.handler = true) (noFlags : s.me.f = []) :
    exec .rett s = .next (
      let u := (s.setMe s.me.restore).resume (bits (s.me.crget 0x50).toNat 31 24) (bits (s.me.crget 0x50).toNat 23 16) (s.me.crget 0x32).toNat
      if u.me.stat = .running then u.raiseHeld else u) := by
  have unlogged := fun k p => State.log_off (s.setMe s.me.restore) k p ((State.recording_congr rfl rfl).trans unrecorded)
  show execRett s = _
  simp only [execRett, priv, handler, noFlags, unlogged, List.isEmpty_nil, Bool.true_eq_false, if_false]

theorem State.raiseHeld_none {s : State} (h : s.me.heldTrap = none) : s.raiseHeld = s := by
  unfold State.raiseHeld
  rw [h]

/-- Settles O22: by the cause of the entry, the resumption is the retirement of the SYS, or nothing. -/
theorem supervisorReturn : Obligations.SupervisorReturn := by
  unfold Obligations.SupervisorReturn
  intro s unrecorded priv handler noFlags noHeld
  have does := exec_rett unrecorded priv handler noFlags
  have cls : bits (s.me.crget 0x50).toNat 31 24 = (s.me.crget 0x50).toNat / 2 ^ 24 :=
    Nat.mod_eq_of_lt (by have := (s.me.crget 0x50).isLt; omega)
  have code : bits (s.me.crget 0x50).toNat 23 16 = (s.me.crget 0x50).toNat / 2 ^ 16 % 2 ^ 8 := rfl
  rw [cls, code] at does
  generalize (s.me.crget 0x50).toNat / 2 ^ 24 = k at does ⊢
  generalize (s.me.crget 0x50).toNat / 2 ^ 16 % 2 ^ 8 = c at does ⊢
  have goes : ∀ {t : State}, (s.setMe s.me.restore).resume k c (s.me.crget 0x32).toNat = t → t.me.stat = .running → t.me.heldTrap = none →
      exec .rett s = .next t := fun resumes running noHeld => by
    dsimp only at does
    rw [does, resumes, if_pos running, State.raiseHeld_none noHeld]
  refine ⟨fun running is sys low => ?_, fun running calm is fault again => ?_, fun running calm is low => ?_⟩
  · have resumes : (s.setMe s.me.restore).resume k c (s.me.crget 0x32).toNat = (s.setMe s.me.restore).retire 4 := by
      rw [is, sys, State.resume, if_neg (by decide), if_neg (by omega), if_neg (by decide), if_pos (by decide)]
    exact ⟨_, goes resumes running noHeld, rfl, rfl, rfl, rfl, rfl, rfl, rfl, rfl, rfl, rfl, rfl⟩
  · have resumes : (s.setMe s.me.restore).resume k c (s.me.crget 0x32).toNat = s.setMe s.me.restore := by
      rw [is, fault, again, State.resume, if_pos (by decide), if_pos (by decide)]
    exact ⟨_, goes resumes running noHeld, rfl, rfl, rfl, rfl, rfl, rfl, rfl, rfl, rfl, rfl, rfl⟩
  · have resumes : (s.setMe s.me.restore).resume k c (s.me.crget 0x32).toNat = s.setMe s.me.restore := by
      rw [is, State.resume, if_neg (by simp), if_neg (by omega), if_neg (by simp), if_neg (by simp)]
    exact ⟨_, goes resumes running noHeld, rfl, rfl, rfl, rfl, rfl, rfl, rfl, rfl, rfl, rfl, rfl⟩

end Sys2Proof.Machine
end

section
/-!
SUPPORT. The end of a context by a queue-level trap (R375, R376): what of a save was not under way is forgotten.
-/
namespace Sys2Proof.Machine

/-- A live context that a report ends counts no page of an image as written (R375, R387). -/
theorem State.condemn_used {s : State} {r : Nat × Nat × Nat × DWord} (live : s.cx.stat = .live) (reported : s.cx.firstReport = some r) :
    s.condemn.cx.used = 0 := by
  obtain ⟨d, j, code, wid⟩ := r
  unfold State.condemn
  rw [reported, live]
  rfl

/-- QUEUE_LEVEL_TRAP for the current context, with no company of it current. -/
theorem exec_queueLevelTrap {s : State} (bare : Bare s) : exec (.queueLevelTrap s.cx.asid) s = .next (
    if s.cx.stat ≠ .ended then s.condemn else if s.dev.retiring.contains s.cx.asid ∨ s.quietContext = false then s
    else s.lastImage.releaseContext) :=
  congrArg Host.Outcome.next (bare.wholeContext _)

/-- A live context of which one page of an image counts as written, as it does once a save that a HALT struck has stopped in place and is
resumed (R322, R387), with a report of a queue-level #RES. -/
def reportedState : State :=
  { State.reset with cx := { Context.null with asid := 5, alive := true, stat := .live, used := 1, reports := [(0, 0, 9, 0#64)] } }

/-- Refutes O55: the context of `reportedState` ends, and the count of written pages of its image falls to 0 with it, where the clause of
R375 says that nothing of the context changes but STAT. -/
theorem not_stopsAndSaves : ¬ Obligations.StopsAndSaves := by
  unfold Obligations.StopsAndSaves
  rintro ⟨-, -, -, -, -, -, ends⟩
  have bare : Bare reportedState := ⟨rfl, rfl, rfl⟩
  obtain ⟨-, ended, -⟩ := ends reportedState 5 ⟨bare, rfl, by simp [reportedState, State.reset, Device.reset]⟩
  obtain ⟨t, does, cx, -⟩ := ended 0 0 9 0#64 [] rfl rfl (by simp) rfl
  have same := does.symm.trans (exec_queueLevelTrap bare)
  rw [if_pos (by decide)] at same
  have kept : t.cx.used = 1 := congrArg Context.used cx
  have fell : t.cx.used = 0 := by
    rw [Host.Outcome.next.inj same]
    exact State.condemn_used (r := (0, 0, 9, 0#64)) rfl rfl
  omega

end Sys2Proof.Machine
end

section
/-!
SUPPORT. Main power, boot, features, clocks, the quiesce of a hall and command-core firmware (R369, R412, R436 to R439).
-/
namespace Sys2Proof.Machine

/-! ## Main power and boot (R436) -/

/-- The registers of a device that main power finds (Tables 5-8, 19-3). -/
theorem Device.reg_fresh (d : Device) (on : Bool) (o : Nat) :
    (d.fresh on).reg o = if o = 0x30000 then (if d.fabric.strap then 2 ^ 31 else 0) else Store.get 0 ctrlReset o := by
  rw [Device.fresh, Device.reg_setField]
  split
  · have zero : ∀ b f, ({ Device.reset with boot := b, fabric := f } : Device).reg 0x30000 = 0 := fun _ _ => (by decide : Store.get 0 ctrlReset 0x30000 = 0)
    rw [zero]
    cases d.fabric.strap <;> decide
  · rfl

theorem get_ctrlReset_none {o : Nat} (low : o < 0x40000000) (other : o ∉ [0x30000, 0x70000, 0x70020]) : Store.get 0 ctrlReset o = 0 := by
  simp only [List.mem_cons, List.not_mem_nil, or_false, not_or] at other
  simp only [ctrlReset, Store.get]
  rw [if_neg other.2.1, if_neg other.2.2, if_neg (by omega)]

/-- BOOTSTAT once the next step has been tried by one of its paths. -/
def bootMoved (r : Nat) (alt : Bool) : Nat :=
  putBits (putBits r 3 0 (bits r 3 0 + 1)) (9 + (bits r 3 0 + 1)) (9 + (bits r 3 0 + 1)) (if alt then 1 else 0)

theorem Device.ctrl_stepEffect (d : Device) {n : Nat} (alt : Bool) (other : n ≠ 10) : (d.stepEffect n alt).ctrl = d.ctrl := by
  unfold Device.stepEffect
  split
  case h_8 => exact absurd rfl other
  all_goals (try split) <;> rfl

/-- A step that succeeds changes BOOTSTAT alone, and that only at its end (Table 19-1). -/
theorem Device.reg_stepEffect (d : Device) (n : Nat) (alt : Bool) (o : Nat) :
    (d.stepEffect n alt).reg o = if n = 10 ∧ o = 0x70080 then Machine.putBits (d.reg 0x70080) 31 31 1 else d.reg o := by
  by_cases last : n = 10
  · subst last
    simp only [Device.stepEffect, Device.reg_setField, true_and]
  · rw [if_neg fun h => last h.1, Device.reg_congr (Device.ctrl_stepEffect d alt last)]

theorem Device.boot_setField (d : Device) (o hi lo v : Nat) : (d.setField o hi lo v).boot = d.boot := rfl

/-- What a step that succeeds leaves of what module flash keeps. -/
theorem Device.boot_stepEffect (d : Device) (n : Nat) (alt : Bool) : (d.stepEffect n alt).boot.started = d.boot.started ∧
    (d.stepEffect n alt).boot.altTried = d.boot.altTried ∧ (d.stepEffect n alt).boot.skipped = d.boot.skipped := by
  unfold Device.stepEffect
  split
  case h_8 => rw [Device.boot_setField]; exact ⟨rfl, rfl, rfl⟩
  all_goals (try split) <;> exact ⟨rfl, rfl, rfl⟩

/-- The next step of boot is tried by a path: its bits of BOOTSTAT, and what flash keeps of it, once for its start and once for its end. -/
theorem Device.tryStep_next (d : Device) (alt ok : Bool) :
    let n := d.bootStep + 1
    let e := d.tryStep n alt ok
    (∀ o, e.reg o = if o = 0x70080 then (if ok = true ∧ n = 10 then Machine.putBits (bootMoved (d.reg 0x70080) alt) 31 31 1 else bootMoved (d.reg 0x70080) alt)
      else d.reg o) ∧
    e.boot.started = d.boot.started.filter (· != n) ++ (if ok then [] else [n]) ∧
    e.boot.altTried = d.boot.altTried.filter (· != n) ++ (if !ok && alt then [n] else []) ∧ e.boot.skipped = d.boot.skipped := by
  intro n e
  have moved : ∀ b o, ({ (d.setField 0x70080 3 0 n).setField 0x70080 (9 + n) (9 + n) (if alt then 1 else 0) with boot := b } : Device).reg o =
      if o = 0x70080 then bootMoved (d.reg 0x70080) alt else d.reg o := fun b o => by
    refine (Device.reg_congr rfl o : _ = ((d.setField 0x70080 3 0 n).setField 0x70080 (9 + n) (9 + n) (if alt then 1 else 0)).reg o).trans ?_
    simp only [Device.reg_setField, if_true]
    by_cases h : o = 0x70080
    · rw [if_pos h, if_pos h]; rfl
    · rw [if_neg h, if_neg h, if_neg h]
  cases ok
  case true =>
    refine ⟨fun o => ?_, ?_⟩
    · refine (Device.reg_stepEffect ..).trans ?_
      rw [moved, moved, if_pos rfl]
      by_cases h : o = 0x70080 <;> simp [h]
    · obtain ⟨started, altTried, skipped⟩ := Device.boot_stepEffect { (d.setField 0x70080 3 0 n).setField 0x70080 (9 + n) (9 + n) (if alt then 1 else 0) with
        boot := { d.boot with started := d.boot.started.filter (· != n), altTried := d.boot.altTried.filter (· != n) } } n alt
      exact ⟨started.trans (List.append_nil _).symm, altTried.trans (List.append_nil _).symm, skipped⟩
  case false =>
    refine ⟨fun o => ?_, rfl, ?_, rfl⟩
    · refine (moved _ o).trans ?_
      simp
    · cases alt
      · exact (List.append_nil _).symm
      · rfl

/-- Where neither path of the next step is left, it is skipped, or boot stops (Table 19-1). -/
def State.bootPassed (s : State) (n : Nat) : State :=
  let d := s.dev
  if stepSkips n then
    let e := (d.setField 0x70080 3 0 n).setField 0x70080 (9 + n) (9 + n) 1
    s.setDev { e with boot := { e.boot with skipped := e.boot.skipped ++ [n] } }
  else s.setDev ((d.setField 0x70080 3 0 n).setField 0x70080 30 30 1)

/-- A register set stays set where what flash keeps changes too. -/
theorem RegSet.with_boot {s : State} {e : Device} {o v : Nat} (set : RegSet s (s.setDev e) o v) (f : Boot → Boot) :
    RegSet (s.setDev { s.dev with boot := f s.dev.boot }) (s.setDev { e with boot := f e.boot }) o v := by
  have dev : e = { s.dev with ctrl := e.ctrl } := set.dev
  exact ⟨set.value, set.others, congrArg s.setDev (congrArg (fun d : Device => { d with boot := f d.boot }) dev)⟩

theorem State.bootPassed_skip (s : State) {n : Nat} (skips : stepSkips n = true) :
    RegSet (s.setDev { s.dev with boot := { s.dev.boot with skipped := s.dev.boot.skipped ++ [n] } }) (s.bootPassed n) 0x70080
      (Machine.putBits (Machine.putBits (s.dev.reg 0x70080) 3 0 n) (9 + n) (9 + n) 1) := by
  rw [State.bootPassed, if_pos skips]
  exact (RegSet.of_setFields s ..).with_boot fun b => { b with skipped := b.skipped ++ [n] }

theorem State.bootPassed_stop (s : State) {n : Nat} (halts : stepSkips n = false) :
    RegSet s (s.setDev (s.dev.setField 0x70080 3 0 n)) 0x70080 (Machine.putBits (s.dev.reg 0x70080) 3 0 n) ∧
    RegSet (s.setDev (s.dev.setField 0x70080 3 0 n)) (s.bootPassed n) 0x70080 (Machine.putBits (Machine.putBits (s.dev.reg 0x70080) 3 0 n) 30 30 1) := by
  have first := RegSet.of_setField s 0x70080 3 0 n
  refine ⟨first, ?_⟩
  rw [State.bootPassed, if_neg (by simp [halts]), ← first.value]
  exact RegSet.of_setField (s.setDev (s.dev.setField 0x70080 3 0 n)) ..

theorem Device.stepEffect_ports (d : Device) (alt : Bool) : (d.stepEffect 8 alt).fabric.ports = d.fabric.ports.map Port.joined := rfl

theorem Device.stepEffect_flights (d : Device) (alt : Bool) : (d.stepEffect 6 alt).flights = [] := rfl

/-- A step that succeeds takes effect on a device that differs from the one before by registers and by what flash keeps. -/
theorem Device.tryStep_done (d : Device) (n : Nat) (alt : Bool) : ∃ e : Device, d.tryStep n alt true = e.stepEffect n alt ∧ e.fabric = d.fabric :=
  ⟨_, rfl, rfl⟩

/-- A step that fails changes registers and what flash keeps. -/
theorem Device.tryStep_failed (d : Device) (n : Nat) (alt : Bool) : { d.tryStep n alt false with ctrl := d.ctrl, boot := d.boot } = d := by
  unfold Device.tryStep
  rw [Device.setField_rest _ _ (9 + n), Device.setField_rest d]
  rfl

/-- A plane port that has trained is up and keyed, or DEAD. -/
theorem Port.joined_state (p : Port) : p.joined.state = 4 ∨ (p.joined.state = 3 ∧ p.joined.keyed = true) := by
  unfold Port.joined
  split
  · exact .inl ‹_›
  · exact .inr ⟨rfl, rfl⟩

/-! ## Features (R437) -/

/-- The subset that FEATACC is to hold once GO is set. -/
def featWant (d : Device) (k : Nat) : Nat := d.reg (featPending (0x70020 + 8 * k))

/-- Registers set 8 bytes apart hold what each was set to. -/
theorem Device.reg_setEach (b : Nat) (v : Nat → Nat) (d : Device) (o n : Nat) :
    ((List.range n).foldl (fun e k => e.setReg (b + 8 * k) (v k)) d).reg o =
      if ∃ k, k < n ∧ o = b + 8 * k then v ((o - b) / 8) else d.reg o := by
  induction n with
  | zero => simp
  | succ n ih =>
    rw [List.range_succ, List.foldl_append, List.foldl_cons, List.foldl_nil, Device.reg_setReg, ih]
    by_cases last : o = b + 8 * n
    · rw [if_pos last, if_pos ⟨n, by omega, last⟩, last]
      congr 1
      omega
    · rw [if_neg last]
      refine if_congr ⟨fun ⟨k, lt, at_⟩ => ⟨k, by omega, at_⟩, fun ⟨k, lt, at_⟩ => ⟨k, ?_, at_⟩⟩ rfl rfl
      rcases Nat.lt_succ_iff_lt_or_eq.1 lt with h | rfl
      · exact h
      · exact absurd at_ last

theorem Device.setEach_rest (b : Nat) (v : Nat → Nat) (d : Device) (n : Nat) :
    (List.range n).foldl (fun e k => e.setReg (b + 8 * k) (v k)) d =
      { d with ctrl := ((List.range n).foldl (fun e k => e.setReg (b + 8 * k) (v k)) d).ctrl } := by
  induction n with
  | zero => rfl
  | succ n ih =>
    rw [List.range_succ, List.foldl_append, List.foldl_cons, List.foldl_nil, ih]
    rfl

/-- FEATCTL.GO asks for a subset that is not offered or lacks bit 0, or a queue runs or a context lives (R437). -/
def State.featBad (s : State) : Prop :=
  (∃ k, k < 4 ∧ featWant s.dev k &&& s.dev.reg (0x70000 + 8 * k) ≠ featWant s.dev k) ∨ (featWant s.dev 0).testBit 0 = false ∨
    (∃ q ∈ s.dev.queues, q.qstate = 1) ∨ ∃ c ∈ s.contexts, c.stat ≠ .ended

/-- FEATACC and FEATGEN once a subset is installed. -/
def Device.install (d : Device) : Device :=
  let e := (List.range 4).foldl (fun e k => e.setReg (0x70020 + 8 * k) (featWant d k)) d
  e.setField 0x50028 31 0 (e.reg 0x50028 + 1)

theorem featWants (d : Device) {k : Nat} (h : k < 4) :
    ((List.range 4).map fun k => d.reg (featPending (0x70020 + 8 * k))).getD k 0 = featWant d k := by
  simp [List.getD_eq_getElem?_getD, h, featWant]

theorem State.regStored_contexts (s : State) (w : RegWrite) : (s.regStored w).contexts = s.contexts := by
  unfold State.regStored Device.regStore
  split <;> rfl

open Classical in
/-- FEATCTL_GO by its three outcomes. -/
theorem exec_featctlGo {w : RegWrite} {s : State} (legal : w.ok = true) (base : w.base = 0x70040) :
    exec (.featctlGo w) s = .next (
      let u := s.regStored w
      if w.sets 0x70040 0 = true then if u.featBad then u.setDev (u.dev.setField 0x70040 31 31 1) else u.setDev u.dev.install else u) := by
  show execFeatctlGo w s = _
  unfold execFeatctlGo
  rw [if_neg (by simp [legal, base])]
  refine congrArg Host.Outcome.next ?_
  refine if_congr Iff.rfl (if_congr ?_ rfl ?_) rfl
  · refine or_congr ?_ (or_congr ?_ ?_)
    · simp only [List.all_eq_false, List.mem_range, beq_iff_eq]
      exact exists_congr fun k => and_congr_right fun lt => by rw [featWants _ lt]; exact Iff.rfl
    · rw [featWants _ (by decide), bit_eq_testBit]; exact Iff.rfl
    · simp only [Bool.or_eq_true, List.any_eq_true, beq_iff_eq, bne_iff_ne, State.regStored_contexts s w]; exact Iff.rfl
  · have same : (List.range 4).foldl (fun e k => e.setReg (0x70020 + 8 * k) (((List.range 4).map fun k =>
        (s.dev.regStore w).reg (featPending (0x70020 + 8 * k))).getD k 0)) (s.dev.regStore w) =
        (List.range 4).foldl (fun e k => e.setReg (0x70020 + 8 * k) (featWant (s.regStored w).dev k)) (s.regStored w).dev :=
      List.foldl_ext _ _ _ fun e k mem => by rw [featWants _ (List.mem_range.1 mem)]; rfl
    rw [same]
    rfl

/-- Installing a subset changes registers alone. -/
theorem Device.install_rest (d : Device) : d.install = { d with ctrl := d.install.ctrl } := by
  rw [Device.install, Device.setEach_rest]
  exact Device.setField_rest ..

theorem Device.reg_install (d : Device) (o : Nat) :
    d.install.reg o = if o = 0x50028 then Machine.putBits (d.reg 0x50028) 31 0 (d.reg 0x50028 + 1)
      else if ∃ k, k < 4 ∧ o = 0x70020 + 8 * k then featWant d ((o - 0x70020) / 8) else d.reg o := by
  have apart : ¬ ∃ k, k < 4 ∧ 0x50028 = 0x70020 + 8 * k := by omega
  rw [Device.install, Device.reg_setField, Device.reg_setEach, Device.reg_setEach, if_neg apart]

/-- FEATCTL.GO as the register of its base leaves the fields that it reads. -/
theorem featctl {w : RegWrite} {s : State} (legal : w.ok = true) (base : w.base = 0x70040) : ∃ u, Written w 0x70040 0 (2 ^ 31) s u ∧
    let go : Prop := Covers w 0 ∧ w.val.testBit (0 - 8 * (w.off % 8)) = true
    (¬ go → exec (.featctlGo w) s = .next u) ∧
    (go → s.featBad → exec (.featctlGo w) s = .next (u.setDev (u.dev.setField 0x70040 31 31 1))) ∧
    (go → ¬ s.featBad → exec (.featctlGo w) s = .next (u.setDev u.dev.install)) := by
  have written : Written w 0x70040 0 (2 ^ 31) s (s.regStored w) := State.regStored_written s legal base rfl
  refine ⟨_, written, ?_⟩
  have bad : (s.regStored w).featBad ↔ s.featBad := by
    have want : ∀ k, k < 4 → featWant (s.regStored w).dev k = featWant s.dev k := fun k lt => written.reg (by rw [featPending]; omega)
    have offer : ∀ k, k < 4 → (s.regStored w).dev.reg (0x70000 + 8 * k) = s.dev.reg (0x70000 + 8 * k) := fun k lt => written.reg (by omega)
    have queues : (s.regStored w).dev.queues = s.dev.queues := (congrArg Device.queues written.dev :)
    have contexts : (s.regStored w).contexts = s.contexts := s.regStored_contexts w
    unfold State.featBad
    rw [queues, contexts, want 0 (by decide)]
    exact or_congr (exists_congr fun k => and_congr_right fun lt => by rw [want k lt, offer k lt]) Iff.rfl
  have does := exec_featctlGo (s := s) legal base
  dsimp only at does
  have sets := RegWrite.sets_iff legal base 0
  refine ⟨fun still => ?_, fun go is => ?_, fun go isnt => ?_⟩
  · rw [does, if_neg (still ∘ sets.1)]
  · rw [does, if_pos (sets.2 go), if_pos (bad.2 is)]
  · rw [does, if_pos (sets.2 go), if_neg (isnt ∘ bad.1)]

/-! ## The quiesce of a hall (R439) -/

/-- A company of the queue of a hall that quiesces goes to the next hall. -/
def Company.moved (h : Nat) (c : Company) : Company := if c.place = .queued h then { c with place := .queued ((h + 1) % 4) } else c

/-- The machine with device `e` once a hall begins to quiesce. -/
def State.quiesced (s : State) (e : Device) (h : Nat) : State :=
  (s.setDev { e with
    halls := e.halls.mapIdx fun i x => if i = h then { x with quiesce := true, block := none } else x
    companies := e.companies.map (Company.moved h) }).setCo (s.co.moved h)

/-- What the start of a quiesce changes, where the device differs from the one before by a register. -/
theorem State.quiesced_facts (s : State) {e : Device} (h : Nat) {o v : Nat} (set : RegSet s (s.setDev e) o v) :
    (s.quiesced e h).dev.reg o = v ∧ (∀ x, x ≠ o → (s.quiesced e h).dev.reg x = s.dev.reg x) ∧
    (s.quiesced e h).dev.companies = s.dev.companies.map (Company.moved h) ∧ (s.quiesced e h).co = s.co.moved h ∧
    (s.quiesced e h).dev.halls = (s.dev.halls.mapIdx fun i x => if i = h then { x with quiesce := true, block := none } else x) ∧
    { (s.quiesced e h).dev with ctrl := s.dev.ctrl, companies := s.dev.companies, halls := s.dev.halls } = s.dev ∧
    (s.quiesced e h).me = s.me ∧ (s.quiesced e h).cx = s.cx := by
  have dev : e = { s.dev with ctrl := e.ctrl } := set.dev
  refine ⟨set.value, set.others, ?_, rfl, ?_, ?_, rfl, rfl⟩
  · exact congrArg (List.map (Company.moved h)) (congrArg Device.companies dev :)
  · exact congrArg (List.mapIdx fun i x => if i = h then { x with quiesce := true, block := none } else x) (congrArg Device.halls dev :)
  · exact (congrArg (fun d : Device => { d with ctrl := s.dev.ctrl, companies := s.dev.companies, halls := s.dev.halls }) dev :)

theorem exec_hallqGo {w : RegWrite} {s : State} (legal : w.ok = true) (base : w.base = 0x70100) :
    exec (.hallqGo w) s = .next (
      if w.sets 0x70100 2 = true ∧ bit (s.dev.reg 0x70100) 31 = true then s.setDev (s.dev.setField 0x70100 30 30 1)
      else if w.sets 0x70100 2 = true then s.quiesced ((s.dev.regStore w).setField 0x70100 31 31 1) (bits ((s.dev.regStore w).reg 0x70100) 1 0) else s.regStored w) := by
  show execHallqGo w s = _
  unfold execHallqGo
  rw [if_neg (by simp [legal, base])]
  refine congrArg Host.Outcome.next (if_congr Iff.rfl rfl (if_congr Iff.rfl ?_ rfl))
  unfold State.quiesced Company.moved
  rfl

/-- Forgetting a hall in the directory's state of a line: it is not the hall that holds the line in M, nor one of those that share it. -/
theorem dirLeave_forgets (x : Nat) {h : Nat} (lt : h < 4) (held : dirLeave x h ≠ 0) :
    dirLeave x h ≠ 0x100 + h ∧ ((dirLeave x h - 1).testBit h = true → 0x100 ≤ dirLeave x h) := by
  unfold dirLeave at held ⊢
  dsimp only at held ⊢
  split at held
  · exact absurd rfl held
  · rw [if_neg ‹_›]
    split at held
    · rw [if_pos ‹_›]; exact ⟨‹_›, fun _ => ‹_›⟩
    · rw [if_neg ‹_›]
      split at held
      · exact absurd rfl held
      · rw [if_neg ‹_›, Nat.add_sub_cancel_left]
        have le : (x - 1) &&& (15 ^^^ 2 ^ h) < 16 := Nat.and_lt_two_pow _ (n := 4) (by interval_cases h <;> decide)
        refine ⟨by omega, fun set => ?_⟩
        rw [Nat.testBit_and, Nat.testBit_xor, Nat.testBit_two_pow_self] at set
        have low : (15 : Nat).testBit h = true := by interval_cases h <;> decide
        simp [low] at set

theorem Device.l3Used_l2 (lines : List Nat) (d : Device) : (lines.foldl (fun d line => d.l3Use line true) d).l2 = d.l2 := by
  induction lines generalizing d with
  | nil => rfl
  | cons line lines ih => exact (ih _).trans rfl

/-- What a flush of a hall leaves of its L2 and of the directory (R439). -/
theorem Device.l2Flush_forgets (d : Device) {h : Nat} (lt : h < 4) :
    (∀ p ∈ (d.l2Flush h).dir, p.2 ≠ 0x100 + h ∧ ((p.2 - 1).testBit h = true → 0x100 ≤ p.2)) ∧
    ∀ b ∈ (d.l2Flush h).l2, b ∈ d.l2 ∧ b.hall ≠ h := by
  refine ⟨fun p mem => ?_, fun b mem => ?_⟩
  · obtain ⟨q, -, is⟩ := List.mem_filterMap.1 mem
    dsimp only at is
    split at is
    · exact absurd is (by simp)
    · rw [← Option.some.inj is]
      exact dirLeave_forgets _ lt ‹_›
  · rw [Device.l2Flush, Device.l3Used_l2] at mem
    simpa using mem

theorem Device.l2Flush_rest (d : Device) (h : Nat) :
    d.l2Flush h = { d with dir := (d.l2Flush h).dir, l2 := (d.l2Flush h).l2, l3 := (d.l2Flush h).l3 } := rfl

/-- The machine with the L2 of a hall flushed. -/
def State.flushed (s : State) (h : Nat) : State :=
  s.setDev { s.dev.l2Flush h with halls := s.dev.halls.mapIdx fun i x => if i = h then { x with quiesce := false, inval := [] } else x }

theorem State.flushed_reg (s : State) (h o : Nat) : (s.flushed h).dev.reg o = s.dev.reg o := Device.reg_congr rfl o

/-- What the end of a quiesce changes. -/
theorem State.flushed_facts (s : State) {h : Nat} (lt : h < 4) {e : Device} {o v : Nat} (set : RegSet (s.flushed h) (s.setDev e) o v) :
    e.reg o = v ∧ (∀ x, x ≠ o → e.reg x = s.dev.reg x) ∧
    e.halls = (s.dev.halls.mapIdx fun i x => if i = h then { x with quiesce := false, inval := [] } else x) ∧
    (∀ p ∈ e.dir, p.2 ≠ 0x100 + h ∧ ((p.2 - 1).testBit h = true → 0x100 ≤ p.2)) ∧
    { e with ctrl := s.dev.ctrl, halls := s.dev.halls, dir := s.dev.dir, l2 := s.dev.l2, l3 := s.dev.l3 } = s.dev ∧
    (∀ b ∈ e.l2, b ∈ s.dev.l2 ∧ b.hall ≠ h) := by
  obtain ⟨dir, l2⟩ := s.dev.l2Flush_forgets lt
  have dev : e = { (s.flushed h).dev with ctrl := e.ctrl } := set.dev
  refine ⟨set.value, set.others, (congrArg Device.halls dev :), ?_, ?_, ?_⟩
  · have same : e.dir = (s.dev.l2Flush h).dir := (congrArg Device.dir dev :)
    exact same ▸ dir
  · exact (congrArg (fun d : Device => { d with ctrl := s.dev.ctrl, halls := s.dev.halls, dir := s.dev.dir, l2 := s.dev.l2, l3 := s.dev.l3 }) dev :)
  · have same : e.l2 = (s.dev.l2Flush h).l2 := (congrArg Device.l2 dev :)
    exact same ▸ l2

theorem exec_hallQuiesceDone {s : State} {h : Nat} (lt : h < 4) (busy : (s.dev.reg 0x70100).testBit 31 = true)
    (is : (s.dev.halls.getD h Hall.reset).quiesce = true) (first : ∀ i, i < h → (s.dev.halls.getD i Hall.reset).quiesce = false)
    (clear : ∀ c ∈ s.companies, ∀ k, c.place = .core k → k / 128 ≠ h) : exec .hallQuiesceDone s = .next (s.setDev ((s.flushed h).dev.setField 0x70100 31 31 0)) := by
  have found : ((List.range 4).find? fun i => (s.dev.halls.getD i Hall.reset).quiesce) = some h :=
    List.find?_range_eq_some.2 ⟨is, List.mem_range.2 lt, fun i below => by rw [first i below]; rfl⟩
  have none_here : (s.companies.any fun c => c.coreOf.any fun k => k / 128 == h) = false := by
    rw [List.any_eq_false]
    intro c mem
    have away := clear c mem
    unfold Company.coreOf
    split <;> simp_all
  show execHallQuiesceDone s = _
  unfold execHallQuiesceDone State.flushed
  rw [found]
  dsimp only [Option.getD_some]
  rw [none_here, if_pos ⟨(bit_eq_testBit ..).trans busy, lt, rfl⟩]
  rfl

/-! ## Command-core firmware (R369) -/

/-- The machine with device `e` once the new image is measured, and both command cores are to run it. -/
def State.measured (s : State) (e : Device) (sum : List Byte) : State :=
  s.setDev { e with fwswap := [0, 1], boot := { e.boot with incoming := some sum } }

theorem State.measured_facts {s u : State} {e : Device} {o v : Nat} (set : RegSet s (u.setDev e) o v) (sum : List Byte) :
    (u.measured e sum).dev.fwswap = [0, 1] ∧ (u.measured e sum).dev.boot = { s.dev.boot with incoming := some sum } ∧ (u.measured e sum).dev.reg o = v := by
  have dev : e = { s.dev with ctrl := e.ctrl } := set.dev
  exact ⟨rfl, congrArg (fun b : Boot => { b with incoming := some sum }) (congrArg Device.boot dev :), set.value⟩

/-- The machine with the fields of CCFWCTL stored. -/
def State.ccfwStored (s : State) (w : RegWrite) : State := s.setDev (s.dev.regStoreAs w (fieldMask 47 12) (2 ^ 62))

theorem ccfwctl {w : RegWrite} {s : State} (legal : w.ok = true) (base : w.base = 0x52000) (agent : w.agent = .mgmt) :
    let u := s.ccfwStored w
    let go : Prop := Covers w 0 ∧ w.val.testBit (0 - 8 * (w.off % 8)) = true
    let image := bits (u.dev.reg 0x52000) 47 12 * 4096
    let len := bits (u.dev.reg 0x52008) 31 0
    let sum := sha3 ((List.range len).map fun k => u.dev.outerByte (image + k))
    let fits : Prop := (s.dev.reg 0x52000).testBit 63 = false ∧ len % 4096 = 0 ∧ 4096 ≤ len ∧ len ≤ 2 ^ 24 ∧ inHbm image len = true
    (¬ go → exec (.ccfwctlGo w) s = .next u) ∧ (go → ¬ fits → exec (.ccfwctlGo w) s = .next (s.setDev s.dev.refuseFw)) ∧
    (go → fits → sum ≠ u.dev.ccfwMeas → exec (.ccfwctlGo w) s = .next (u.setDev u.dev.refuseFw)) ∧
    (go → fits → sum = u.dev.ccfwMeas → exec (.ccfwctlGo w) s = .next (u.measured (u.dev.setField 0x52000 63 63 1) sum)) := by
  intro u go image len sum fits
  have sets : bit w.ones 0 = true ↔ go := by rw [bit_eq_testBit, RegWrite.testBit_ones legal]
  have bad : (bit (s.dev.reg 0x52000) 63 = true ∨ len % 4096 ≠ 0 ∨ len < 4096 ∨ 2 ^ 24 < len ∨ inHbm image len = false) ↔ ¬ fits := by
    rw [bit_eq_testBit, ← Bool.not_eq_false, ← Bool.not_eq_true (inHbm image len)]
    simp only [fits, not_and_or, Nat.not_le]
  have does : exec (.ccfwctlGo w) s = .next (if bit w.ones 0 = true then
      if bit (s.dev.reg 0x52000) 63 = true ∨ len % 4096 ≠ 0 ∨ len < 4096 ∨ 2 ^ 24 < len ∨ inHbm image len = false then s.setDev s.dev.refuseFw
      else if sum ≠ u.dev.ccfwMeas then s.setDev u.dev.refuseFw
      else s.measured (u.dev.setField 0x52000 63 63 1) sum else u) := by
    show execCcfwctlGo w s = _
    unfold execCcfwctlGo
    rw [if_neg (by simp [legal, base, agent])]
    rfl
  refine ⟨fun still => ?_, fun is misfit => ?_, fun is fit wrong => ?_, fun is fit right => ?_⟩
  · rw [does, if_neg (still ∘ sets.1)]
  · rw [does, if_pos (sets.2 is), if_pos (bad.2 misfit)]
  · rw [does, if_pos (sets.2 is), if_neg (mt bad.1 (not_not_intro fit)), if_pos wrong]
    rfl
  · rw [does, if_pos (sets.2 is), if_neg (mt bad.1 (not_not_intro fit)), if_neg (not_not_intro right)]
    rfl

theorem State.logAtrium_off {s : State} (off : (s.dev.reg 0x60000).testBit 31 = false) (kind icnt payload : Nat) :
    s.logAtrium kind icnt payload = s := by
  rw [State.logAtrium, State.recLive, bit_eq_testBit, off]
  rfl

/-- The device once both command cores run the new image, but for the event that says so. -/
def Device.swapped (d : Device) : Device :=
  { d with fwswap := [], boot := { d.boot with measure := d.boot.incoming, incoming := none } }.setField 0x52000 63 63 0

theorem exec_firmwareCoreSwap {core : Bool} {s : State} {k : Nat} {ks : List Nat} (left : s.dev.fwswap = k :: ks)
    (off : (s.dev.reg 0x60000).testBit 31 = false) : exec (.firmwareCoreSwap core) s = .next (
      if k ≠ (if core then 1 else 0) then s
      else if ks.isEmpty then s.setDev (s.dev.swapped.post 7 0xFFFF 0 0 (leNat ((s.dev.boot.incoming.getD []).take 8)))
      else s.setDev { s.dev with fwswap := ks }) := by
  show execFirmwareCoreSwap core s = _
  unfold execFirmwareCoreSwap
  rw [left]
  dsimp only
  rw [State.logAtrium_off (show ((s.setDev { s.dev with fwswap := ks }).dev.reg 0x60000).testBit 31 = false from off)]
  have replaced : ∀ d, (s.setDev { s.dev with fwswap := ks }).setDev d = s.setDev d := fun d => rfl
  refine congrArg Host.Outcome.next (if_congr Iff.rfl rfl ?_)
  cases ks
  · rw [if_pos (by rfl), if_pos (by rfl), replaced]
    rfl
  · exact (if_neg (by simp)).trans (if_neg (by simp)).symm

/-- Settles O49. Log entries 1 (memory that power-on leaves is 0), 57 (FWSWAP's data), 60 (the thermal steps) and 64 (the boot steps) are the
model's choices that the statement takes over. -/
theorem powerAndBoot : Obligations.PowerAndBoot := by
  unfold Obligations.PowerAndBoot
  intro fresh
  have freshened : ∀ on s, fresh on s (s.freshAs on) := fun on s => by
    have reg := s.dev.reg_fresh on
    refine ⟨rfl, rfl, rfl, rfl, rfl, rfl, rfl, rfl, rfl, rfl, fun a => rfl, fun q lt => ?_, (reg _).trans ?_, (reg _).trans ?_, reg _, fun o low other => ?_,
      rfl, rfl, rfl, rfl, rfl, rfl, rfl⟩
    · change (List.getD (List.replicate 64 Port.off) q Port.off).state = 0
      rw [List.getD_replicate _ lt]; rfl
    · rw [if_neg (by decide)]; decide
    · rw [if_neg (by decide)]; decide
    · rw [show (s.freshAs on).dev.reg o = _ from reg o, if_neg (by simp at other; exact other.1), get_ctrlReset_none low other]
  refine ⟨fun s => ⟨⟨_, rfl, freshened true s⟩, _, rfl, freshened false s⟩, fun ok s => ?boot, fun w s legal base => ?feat, fun s => ⟨fun mean limit => rfl, fun c => rfl, fun c => rfl⟩,
    fun w s legal base => ?hallq, fun s h lt busy is first clear => ?done, fun w s legal base agent => ?ccfw, fun core s k ks left off => ?swap⟩
  case boot =>
    intro r b n moved tried stopped
    have hung : (bit r 31 || bit r 30 || (b.started.contains s.dev.bootStep && !b.skipped.contains s.dev.bootStep)) = true ↔ stopped := by
      simp only [bit_eq_testBit, Bool.or_eq_true, Bool.and_eq_true, List.contains_iff_mem, Bool.not_eq_true', ← Bool.not_eq_true, or_assoc]
      exact Iff.rfl
    have goes : ¬ stopped → ∀ t, (if !b.started.contains n then s.setDev (s.dev.tryStep n false ok)
        else if stepAlt n && !b.altTried.contains n then s.setDev (s.dev.tryStep n true ok) else s.bootPassed n) = t → exec (.bootStep ok) s = .next t := fun isnt t is => by
      subst is
      exact congrArg Host.Outcome.next (if_neg (mt hung.1 isnt))
    have runs : ∀ alt, exec (.bootStep ok) s = .next (s.setDev (s.dev.tryStep n alt ok)) → tried alt := fun alt does => by
      obtain ⟨reg, started, altTried, skipped⟩ := s.dev.tryStep_next alt ok
      refine ⟨_, does, rfl, (reg _).trans (if_pos rfl), fun o other => (reg o).trans (if_neg other), started, altTried, skipped,
        fun good eighth p mem => ?_, fun good sixth => ?_, fun bad => ?_⟩
      · obtain ⟨e, took, fabric⟩ := s.dev.tryStep_done 8 alt
        rw [State.setDev_dev, good, eighth, took, Device.stepEffect_ports] at mem
        obtain ⟨q, -, rfl⟩ := List.mem_map.1 mem
        exact q.joined_state
      · obtain ⟨e, took, -⟩ := s.dev.tryStep_done 6 alt
        rw [State.setDev_dev, good, sixth, took, Device.stepEffect_flights]
      · subst bad
        exact s.dev.tryStep_failed n alt
    have hasAlt : stepAlt n = true ↔ n ∈ [1, 3, 4, 5, 7, 8, 9] := by simp [stepAlt, or_assoc]
    have passes : n ∈ b.started → (n ∉ [1, 3, 4, 5, 7, 8, 9] ∨ n ∈ b.altTried) → (if !b.started.contains n then s.setDev (s.dev.tryStep n false ok)
        else if stepAlt n && !b.altTried.contains n then s.setDev (s.dev.tryStep n true ok) else s.bootPassed n) = s.bootPassed n := fun old none_ => by
      rw [if_neg (by simpa using old), if_neg]
      rw [Bool.and_eq_true, hasAlt, Bool.not_eq_true', ← Bool.not_eq_true, List.contains_iff_mem]
      tauto
    refine ⟨fun is => ?_, fun isnt new => ?_, fun isnt old alt new => ?_, fun isnt old none_ skip => ?_, fun isnt old none_ stop => ?_⟩
    · exact congrArg Host.Outcome.next (if_pos (hung.2 is))
    · exact runs false (goes isnt _ (if_pos (by simpa using new)))
    · exact runs true (goes isnt _ ((if_neg (by simpa using old)).trans (if_pos (by simpa using ⟨hasAlt.2 alt, new⟩))))
    · exact ⟨_, goes isnt _ (by rw [passes old none_]), State.bootPassed_skip s (by simpa [stepSkips, or_assoc] using skip)⟩
    · exact ⟨_, _, goes isnt _ (by rw [passes old none_]), State.bootPassed_stop s (by simpa [stepSkips, and_assoc] using stop)⟩
  case feat =>
    obtain ⟨u, written, still, refused, installed⟩ := featctl (s := s) legal base
    refine ⟨u, written, still, fun go bad => ⟨_, refused go bad, RegSet.of_setField ..⟩, fun go fine => ⟨_, installed go fine, ?_, fun k lt => ?_, ?_, fun o gen acc => ?_⟩⟩
    · exact (congrArg u.setDev u.dev.install_rest).trans (written.with_ctrl _)
    · refine (Device.reg_install ..).trans ?_
      rw [if_neg (by omega), if_pos ⟨k, lt, rfl⟩, Nat.add_sub_cancel_left, Nat.mul_div_cancel_left k (by decide)]
      exact written.reg (by rw [featPending]; omega)
    · rw [← written.reg (o := 0x50028) (by decide)]
      exact (Device.reg_install ..).trans (if_pos rfl)
    · refine (Device.reg_install ..).trans ?_
      rw [if_neg gen, if_neg fun ⟨k, lt, is⟩ => acc k lt is]
  case hallq =>
    have written : Written w 0x70100 3 (2 ^ 30) s (s.regStored w) := State.regStored_written s legal base rfl
    have does := exec_hallqGo (s := s) legal base
    refine ⟨_, written, fun go busy => ?_, fun still => ?_, fun go free => ?_⟩
    · rw [if_pos ⟨(RegWrite.sets_iff legal base 2).2 go, (bit_eq_testBit ..).trans busy⟩] at does
      exact ⟨_, does, RegSet.of_setField ..⟩
    · rw [if_neg fun h => still ((RegWrite.sets_iff legal base 2).1 h.1), if_neg (still ∘ (RegWrite.sets_iff legal base 2).1)] at does
      exact does
    · rw [if_neg fun h => by rw [bit_eq_testBit, free] at h; exact absurd h.2 (by decide), if_pos ((RegWrite.sets_iff legal base 2).2 go)] at does
      exact ⟨_, does, s.quiesced_facts _ (written.setField 31 31 1)⟩
  case done =>
    obtain ⟨reg, others, halls, dir, rest, l2⟩ := s.flushed_facts lt (RegSet.of_setField (s.flushed h) 0x70100 31 31 0)
    rw [s.flushed_reg] at reg
    exact ⟨_, exec_hallQuiesceDone lt busy is first clear, reg, others, halls, dir, rest, l2, s.setDev_back _⟩
  case ccfw =>
    obtain ⟨still, misfit, wrong, right⟩ := ccfwctl (s := s) legal base agent
    refine ⟨s.ccfwStored w, State.regStoredAs_written s legal base _ _, still, misfit, wrong, fun go fits is => ⟨_, right go fits is, ?_⟩⟩
    exact State.measured_facts ((State.regStoredAs_written s legal base _ _).setField 63 63 1) _
  case swap =>
    have does := exec_firmwareCoreSwap (core := core) left off
    refine ⟨fun other => ?_, fun mine more => ?_, fun mine last => ⟨s.dev.swapped, ?_, ?_⟩⟩
    · rw [does, if_pos other]
    · rw [does, if_neg (not_not_intro mine), if_neg (by simpa using more)]
    · exact RegSet.of_setField (s.setDev { s.dev with fwswap := [], boot := { s.dev.boot with measure := s.dev.boot.incoming, incoming := none } }) ..
    · rw [does, if_neg (not_not_intro mine), if_pos (by simp [last])]

end Sys2Proof.Machine
end

section
/-!
SUPPORT. Queues: finding and changing one, its descriptor (R343, R345), a device event (R360) and a queue error (R359).
-/
namespace Sys2Proof.Machine

/-! ## Finding and changing a queue -/

theorem Device.queue?_congr {d e : Device} (h : d.queues = e.queues) (k : Nat) : d.queue? k = e.queue? k := by
  rw [Device.queue?, Device.queue?, h]

theorem Device.queue?_qid {d : Device} {k : Nat} {q : Queue} (h : d.queue? k = some q) : q.qid = k := by
  simpa using List.find?_some h

/-- A change of a queue that keeps its number. -/
theorem Device.queue?_mapQueue (d : Device) (qid : Nat) {f : Queue → Queue} (keeps : ∀ q, (f q).qid = q.qid) (k : Nat) :
    (d.mapQueue qid f).queue? k = if k = qid then (d.queue? k).map f else d.queue? k := by
  have number : ∀ q : Queue, (if q.qid = qid then f q else q).qid = q.qid := fun q => by split <;> simp [keeps]
  have test : ((fun q : Queue => q.qid == k) ∘ fun q => if q.qid = qid then f q else q) = fun q => q.qid == k :=
    funext fun q => congrArg (· == k) (number q)
  rw [Device.mapQueue, Device.queue?, Device.queue?, List.find?_map, test]
  rcases found : d.queues.find? (fun q => q.qid == k) with _ | q
  · simp [found]
  · have at_ : q.qid = k := by simpa using List.find?_some found
    rw [found, Option.map_some, at_]
    split <;> rfl

section
variable {d : Device} {qid : Nat} {q : Queue} (here : d.queue? qid = some q)
include here

theorem Device.queue?_mapQueue_same {f : Queue → Queue} (keeps : ∀ q, (f q).qid = q.qid) : (d.mapQueue qid f).queue? qid = some (f q) := by
  rw [d.queue?_mapQueue qid keeps, if_pos rfl, here]
  rfl

end

theorem Device.queue?_mapQueue_other (d : Device) {qid : Nat} {f : Queue → Queue} (keeps : ∀ q, (f q).qid = q.qid) {k : Nat} (other : k ≠ qid) :
    (d.mapQueue qid f).queue? k = d.queue? k := by rw [d.queue?_mapQueue qid keeps, if_neg other]

theorem Device.mapQueue_rest (d : Device) (qid : Nat) (f : Queue → Queue) : d.mapQueue qid f = { d with queues := (d.mapQueue qid f).queues } := rfl

/-- Changing a queue twice. -/
theorem Device.mapQueue_mapQueue (d : Device) (qid : Nat) (g : Queue → Queue) {f : Queue → Queue} (keeps : ∀ q, (f q).qid = q.qid) :
    (d.mapQueue qid f).mapQueue qid g = d.mapQueue qid fun q => g (f q) := by
  simp only [Device.mapQueue, List.map_map]
  congr 2
  funext q
  simp only [Function.comp_apply]
  by_cases at_ : q.qid = qid
  · rw [if_pos at_, if_pos ((keeps q).trans at_), if_pos at_]
  · rw [if_neg at_, if_neg at_, if_neg at_]

/-! ## The descriptor of a queue (R343) -/

section
variable {d e : Device} (h : d.elsewhere = e.elsewhere)
include h

theorem Device.queues_of_elsewhere : d.queues = e.queues := (congrArg Device.queues h :)
theorem Device.ctrl_of_elsewhere : d.ctrl = e.ctrl := (congrArg Device.ctrl h :)
theorem Device.events_of_elsewhere : d.events = e.events := (congrArg Device.events h :)
theorem Device.fabric_of_elsewhere : d.fabric = e.fabric := (congrArg Device.fabric h :)
theorem Device.flights_of_elsewhere : d.flights = e.flights := (congrArg Device.flights h :)
theorem Device.enum_of_elsewhere : d.enum = e.enum := (congrArg Device.enum h :)

end

theorem Device.qdAddr_congr {d e : Device} (h : d.ctrl = e.ctrl) (qid : Nat) : d.qdAddr qid = e.qdAddr qid := by
  rw [Device.qdAddr, Device.qdAddr, Device.reg_congr h]

theorem Queue.length_tail (q : Queue) : q.tail.length = 40 := by
  simp [Queue.tail, leBytes]

theorem Device.writeQueue_elsewhere (d : Device) (qid : Nat) : (d.writeQueue qid).elsewhere = d.elsewhere := by
  unfold Device.writeQueue
  split
  · exact putP_elsewhere ..
  · rfl

theorem Device.writeQueue_queues (d : Device) (qid : Nat) : (d.writeQueue qid).queues = d.queues := Device.queues_of_elsewhere (d.writeQueue_elsewhere qid)

theorem Device.writeQueue_ctrl (d : Device) (qid : Nat) : (d.writeQueue qid).ctrl = d.ctrl := Device.ctrl_of_elsewhere (d.writeQueue_elsewhere qid)

theorem Device.writeQueue_byte {d : Device} {qid : Nat} {q : Queue} (here : d.queue? qid = some q) (x : Nat) : (d.writeQueue qid).byte x =
    if d.qdAddr qid + 0x18 ≤ x ∧ x < d.qdAddr qid + 0x40 then q.tail.getD (x - (d.qdAddr qid + 0x18)) 0#8 else d.byte x := by
  rw [Device.writeQueue, here]
  dsimp only
  rw [putP_byte, Queue.length_tail]

/-- A queue as it stands in the device is shown by its descriptor once that is written. -/
theorem QueueSet.of_writeQueue {s : State} {d e : Device} {qid : Nat} {q : Queue} (here : d.queue? qid = some q)
    (others : ∀ k, k ≠ qid → d.queue? k = s.dev.queue? k) (byte : ∀ a, d.byte a = s.dev.byte a) (rest : d.unqueued = s.dev.unqueued)
    (written : e = d.writeQueue qid) : QueueSet s (s.setDev e) qid q := by
  subst written
  have same := Device.queue?_congr (d.writeQueue_queues qid)
  have at_ : d.qdAddr qid = s.dev.qdAddr qid := Device.qdAddr_congr (congrArg Device.ctrl rest :) qid
  refine ⟨(same _).trans here, fun k other => (same k).trans (others k other), fun i lt => ?_, fun a away => ?_, ?_, rfl⟩
  · refine (Device.writeQueue_byte here _).trans ?_
    rw [← at_, if_pos (by omega), Nat.add_sub_cancel_left]
  · refine (Device.writeQueue_byte here _).trans ?_
    rw [at_, if_neg (by omega), byte]
  · exact (congrArg (fun d : Device => { d with queues := [], ccstep := [] }) (d.writeQueue_elsewhere qid) :).trans rest

/-- A queue changed and its descriptor written. -/
theorem QueueSet.of_mapQueue {s : State} {qid : Nat} {q : Queue} (here : s.dev.queue? qid = some q) {f : Queue → Queue} (keeps : ∀ q, (f q).qid = q.qid) :
    QueueSet s (s.setDev ((s.dev.mapQueue qid f).writeQueue qid)) qid (f q) :=
  QueueSet.of_writeQueue (Device.queue?_mapQueue_same here keeps) (fun _ => s.dev.queue?_mapQueue_other keeps) (fun _ => rfl) rfl rfl

/-! ## A field of a register beside a queue -/

section
variable (d : Device) (o hi lo v : Nat)

theorem Device.setField_queues : (d.setField o hi lo v).queues = d.queues := rfl
theorem Device.setField_flights : (d.setField o hi lo v).flights = d.flights := rfl
theorem Device.setField_enum : (d.setField o hi lo v).enum = d.enum := rfl
theorem Device.setField_byte (a : Nat) : (d.setField o hi lo v).byte a = d.byte a := rfl
theorem Device.setField_unqueued : (d.setField o hi lo v).unqueued = d.unqueued.setField o hi lo v := rfl

end

/-- A field put in a register other than QDTAB leaves what was set of a queue. -/
theorem QueueSet.setField {s : State} {d : Device} {qid : Nat} {q : Queue} (h : QueueSet s (s.setDev d) qid q) (o hi lo v : Nat) (other : o ≠ 0x50000) :
    QueueSet (s.setDev (s.dev.setField o hi lo v)) (s.setDev (d.setField o hi lo v)) qid q := by
  have table : (s.dev.setField o hi lo v).qdAddr qid = s.dev.qdAddr qid := by
    rw [Device.qdAddr, Device.qdAddr, Device.reg_setField, if_neg (Ne.symm other)]
  have same := fun d : Device => Device.queue?_congr (d.setField_queues o hi lo v)
  refine ⟨(same d qid).trans h.queue, fun k off => (same d k).trans ((h.others k off).trans (same s.dev k).symm), fun i lt => ?_, fun a away => ?_, ?_, rfl⟩
  · exact (congrArg (fun x => d.byte (x + 0x18 + i)) table).trans (h.shown i lt)
  · exact h.bytes a (by rw [← table]; exact away)
  · exact congrArg (fun d : Device => d.setField o hi lo v) h.rest.1

/-- A queue changed beside a field of a register, and then its descriptor written. -/
theorem QueueSet.of_mapQueue_setField {s : State} {qid : Nat} {q : Queue} (here : s.dev.queue? qid = some q) {f : Queue → Queue}
    (keeps : ∀ q, (f q).qid = q.qid) (o hi lo v : Nat) :
    QueueSet (s.setDev (s.dev.setField o hi lo v)) (s.setDev (((s.dev.mapQueue qid f).setField o hi lo v).writeQueue qid)) qid (f q) := by
  have same := fun d : Device => Device.queue?_congr (d.setField_queues o hi lo v)
  exact QueueSet.of_writeQueue ((same _ qid).trans (Device.queue?_mapQueue_same here keeps))
    (fun k other => (same _ k).trans ((s.dev.queue?_mapQueue_other keeps other).trans (same s.dev k).symm)) (fun _ => rfl) rfl rfl

/-! ## Device events and queue errors -/

/-- Where the next event record goes (R360). -/
def Device.evAt (d : Device) : Nat := bits (d.reg 0x50010) 47 16 * 0x10000 + 32 * (d.evWptr % 2 ^ d.evLog2)

/-- The fabric with a vector raised. -/
def Fabric.raised (f : Fabric) (v : Nat) : Fabric := { f with msix := f.msix ++ [v] }

/-- Of a device that a record is written to, with `e` as memory and EVSTAT then stand. -/
def Device.evRaised (e : Device) (v : Nat) : Device := { e with fabric := e.fabric.raised v }

theorem Device.evWrite_eq (d : Device) (r : List Byte) : ∃ v m, v = 8 * bits (d.reg 0x30000) 12 10 + leNat (r.take 1) - 1 ∧
    m = Machine.putBits (d.reg 0x50020) 63 32 (d.evWptr + 1) ∧ d.evWrite r = ((d.putP d.evAt r 0#64).setReg 0x50020 m).evRaised v := by
  have ctrl : (d.putP d.evAt r 0#64).ctrl = d.ctrl := Device.ctrl_of_elsewhere (putP_elsewhere d d.evAt r 0#64)
  have reg : ∀ o, (d.putP d.evAt r 0#64).reg o = d.reg o := Device.reg_congr ctrl
  have fields : (d.putP d.evAt r 0#64).setField 0x50020 63 32 ((d.putP d.evAt r 0#64).evWptr + 1) =
      (d.putP d.evAt r 0#64).setReg 0x50020 (Machine.putBits (d.reg 0x50020) 63 32 (d.evWptr + 1)) := by
    rw [Device.setField, reg, Device.evWptr, Device.evWptr, reg]
  refine ⟨_, _, rfl, rfl, ?_⟩
  rw [← fields]
  have vector : ((d.putP d.evAt r 0#64).setField 0x50020 63 32 ((d.putP d.evAt r 0#64).evWptr + 1)).reg 0x30000 = d.reg 0x30000 := by
    rw [Device.reg_setField, if_neg (by decide), reg]
  rw [← vector]
  rfl

/-- A record written into the event ring leaves all but memory, EVSTAT and the vectors raised. -/
theorem Device.evWrite_rest (d : Device) (r : List Byte) :
    (d.evWrite r).queues = d.queues ∧ (d.evWrite r).flights = d.flights ∧ (d.evWrite r).enum = d.enum := by
  obtain ⟨v, m, -, -, is⟩ := d.evWrite_eq r
  rw [is]
  have outer : ∀ (e : Device) (o : Nat), ((e.setReg o m).evRaised v).queues = e.queues ∧
      ((e.setReg o m).evRaised v).flights = e.flights ∧ ((e.setReg o m).evRaised v).enum = e.enum := fun _ _ => ⟨rfl, rfl, rfl⟩
  obtain ⟨queues, flights, enum⟩ := outer (d.putP d.evAt r 0#64) 0x50020
  have put := putP_elsewhere d d.evAt r 0#64
  exact ⟨queues.trans (Device.queues_of_elsewhere put), flights.trans (Device.flights_of_elsewhere put), enum.trans (Device.enum_of_elsewhere put)⟩

theorem Device.post_rest (d : Device) (type qid csn d0 d1 : Nat) :
    (d.post type qid csn d0 d1).queues = d.queues ∧ (d.post type qid csn d0 d1).flights = d.flights ∧ (d.post type qid csn d0 d1).enum = d.enum + 1 := by
  unfold Device.post
  dsimp only
  split
  · exact Device.evWrite_rest { d with enum := d.enum + 1 } _
  · split
    · exact ⟨rfl, rfl, rfl⟩
    · exact ⟨Device.setField_queues { d with enum := d.enum + 1 } .., Device.setField_flights { d with enum := d.enum + 1 } .., Device.setField_enum { d with enum := d.enum + 1 } ..⟩

theorem Device.dropRecording_none {d : Device} {qid : Nat} {q : Queue} (here : d.queue? qid = some q) (idle : q.recording = none) :
    d.dropRecording qid = d := by
  rw [Device.dropRecording, here]
  dsimp only
  rw [idle]

/-- A queue in ERROR (R359). -/
def Queue.inError (q : Queue) (csn code data : Nat) : Queue :=
  { q with qstate := 2, errcode := code, errcsn := csn, errdata := data, run := q.run.map fun r => { r with stopped := true } }

/-- The first error of a queue that records no flight (R359). -/
theorem QueueFailed.of_queueError {s t : State} {d : Device} {qid : Nat} {q : Queue} (here : d.queue? qid = some q) (first : q.qstate ≠ 2)
    (idle : q.recording = none) (others : ∀ k, k ≠ qid → d.queue? k = s.dev.queue? k) (enum : d.enum = s.dev.enum) {csn cls cause data : Nat}
    (is : t = s.setDev (d.queueError qid csn cls cause data)) : QueueFailed s t qid q (cls * 256 + cause) csn data := by
  subst is
  have keeps : ∀ q : Queue, (q.inError csn (cls * 256 + cause) data).qid = q.qid := fun _ => rfl
  have posted : d.queueError qid csn cls cause data =
      ((d.mapQueue qid fun q => q.inError csn (cls * 256 + cause) data).writeQueue qid).post 1 qid csn (cls * 256 + cause) data := by
    rw [Device.queueError, here]
    dsimp only
    rw [if_neg first, Device.dropRecording_none here idle]
    rfl
  generalize marked : d.mapQueue qid (fun q => q.inError csn (cls * 256 + cause) data) = e at posted
  obtain ⟨queues, -, count⟩ := (e.writeQueue qid).post_rest 1 qid csn (cls * 256 + cause) data
  have same : ∀ k, (d.queueError qid csn cls cause data).queue? k = e.queue? k := fun k => by
    rw [posted]; exact Device.queue?_congr (queues.trans (e.writeQueue_queues qid)) k
  have kept : (e.writeQueue qid).enum = d.enum := by
    rw [← marked]; exact (Device.enum_of_elsewhere (Device.writeQueue_elsewhere _ qid)).trans rfl
  refine ⟨?_, fun k other => ?_, ?_, s.setDev_back _⟩
  · exact (same qid).trans (marked ▸ Device.queue?_mapQueue_same here keeps)
  · exact (same k).trans ((marked ▸ d.queue?_mapQueue_other keeps other : e.queue? k = d.queue? k).trans (others k other))
  · rw [State.setDev_dev, posted, count, kept, enum]

end Sys2Proof.Machine
end

section
/-!
SUPPORT. Queue control: QCTL (R346), doorbells (R344), binding (R347), FLTOWN (R361) and the event ring (R360).
-/
namespace Sys2Proof.Machine

/-! ## QCTL (R346) -/

theorem State.qctl_eq {w : RegWrite} (s : State) (legal : w.ok = true) (base : w.base = 0x50008) (agent : w.agent = .driver ∨ w.agent = .host)
    (op : Device → Nat → Device) : s.qctl w op = (s.regStored w).setDev (op (s.regStored w).dev (bits w.ones 11 0)) := by
  rw [State.qctl, if_neg]
  · rfl
  · rcases agent with is | is <;> simp [legal, base, is, Agent.isDriver]

/-- A queue has at most its ring's packets ahead of RPTR (R344). -/
def Queue.ahead (q : Queue) : Nat := (q.wptr + 2 ^ 32 - q.rptr) % 2 ^ 32

theorem Device.checkOver_fits {d : Device} {qid : Nat} {q : Queue} (here : d.queue? qid = some q) (fits : q.qstate ≠ 1 ∨ q.ahead ≤ 2 ^ q.rlog2) :
    d.checkOver qid = d := by
  rw [Device.checkOver, here]
  exact if_neg fun ⟨runs, past⟩ => fits.elim (· runs) (Nat.not_le.2 past)

theorem Device.checkOver_over {d : Device} {qid : Nat} {q : Queue} (here : d.queue? qid = some q) (runs : q.qstate = 1) (past : 2 ^ q.rlog2 < q.ahead) :
    d.checkOver qid = d.queueError qid ((q.csn + 1) % 2 ^ 32) 2 5 q.rptr := by
  rw [Device.checkOver, here]
  exact if_pos ⟨runs, past⟩

theorem Device.descriptorBad_iff (d : Device) (bs : List Byte) :
    let f (o n : Nat) : Nat := field bs o n
    let ring := 64 * 2 ^ f 0x12 1
    d.descriptorBad bs = false ↔ f 0x24 2 = 0 ∧ 6 ≤ f 0x12 1 ∧ f 0x12 1 ≤ 16 ∧ f 0 8 % ring = 0 ∧ f 0 8 + ring ≤ 0x006000000000 ∧ f 8 8 % 64 = 0 ∧
      f 8 8 + 64 ≤ 0x006000000000 ∧ f 0x10 2 ≤ 4095 ∧ f 0x13 1 ≤ 3 ∧ f 0x14 4 = 0 ∧ f 0x2C 4 = 0 ∧ f 0x38 8 = 0 ∧ asidBound d (f 0x10 2) = true := by
  have same : ∀ o n, pkt bs o n = field bs o n := fun _ _ => rfl
  simp only [Device.descriptorBad, same, inHbm, hbmEnd, Bool.or_eq_false_iff, bne_eq_false_iff_eq, Bool.not_eq_false', decide_eq_true_eq, decide_eq_false_iff_not,
    not_or, Nat.not_lt, and_assoc]

theorem Device.queue?_added (d : Device) (q : Queue) (k : Nat) :
    ({ d with queues := (d.queues.filter fun x => x.qid != q.qid) ++ [q] } : Device).queue? k = if k = q.qid then some q else d.queue? k := by
  rw [Device.queue?, List.find?_append, List.find?_filter, Device.queue?]
  by_cases at_ : k = q.qid
  · subst at_
    have gone : d.queues.find? (fun x => decide ((x.qid != q.qid) = true ∧ (x.qid == q.qid) = true)) = none := by simp
    rw [gone, if_pos rfl]
    simp
  · have kept : (fun x : Queue => decide ((x.qid != q.qid) = true ∧ (x.qid == k) = true)) = fun x => x.qid == k := by
      funext x
      by_cases h : x.qid = k
      · simp [h, at_]
      · simp [h]
    rw [kept, if_neg at_, List.find?_cons_of_neg (by simpa using Ne.symm at_)]
    simp

/-- The bytes of the descriptor of a queue (R343). -/
def Device.qdBytes (d : Device) (qid : Nat) : List Byte := (List.range 64).map fun i => d.outerByte (d.qdAddr qid + i)

/-- ENABLE of a queue that is not running, whose descriptor is legal. -/
theorem State.enable_sets {u : State} {qid : Nat} {q : Queue} (free : ∀ x, u.dev.queue? qid = some x → x.qstate = 0)
    (good : u.dev.descriptorBad (u.dev.qdBytes qid) = false) (is : u.dev.queueFrom qid (u.dev.qdBytes qid) = q) (fits : q.ahead ≤ 2 ^ q.rlog2) :
    QueueSet u (u.setDev (u.dev.enable qid)) qid q := by
  have number : q.qid = qid := is ▸ rfl
  have stopped : ((u.dev.queue? qid).any fun q => q.qstate != 0) = false := by
    rw [Option.any_eq_false]
    exact fun x at_ => by simp [free x at_]
  have added := fun k => u.dev.queue?_added q k
  rw [number] at added
  generalize mapped : ({ u.dev with queues := (u.dev.queues.filter fun x => x.qid != qid) ++ [q] } : Device) = d at added
  have here : d.queue? qid = some q := (added qid).trans (if_pos rfl)
  refine QueueSet.of_writeQueue here (fun k other => (added k).trans (if_neg other)) (fun a => mapped ▸ rfl) (mapped ▸ rfl) ?_
  have does : u.dev.enable qid = (d.writeQueue qid).checkOver qid := by
    rw [Device.enable]
    dsimp only
    rw [if_neg (by rw [stopped]; simpa [Device.qdBytes] using good), ← mapped, ← is]
    rfl
  rw [does, Device.checkOver_fits ((Device.queue?_congr (d.writeQueue_queues qid) qid).trans here) (.inr fits)]

/-- ENABLE of any other. -/
theorem Device.enable_refused {d : Device} {qid : Nat}
    (bad : ¬ ((∀ x, d.queue? qid = some x → x.qstate = 0) ∧ d.descriptorBad (d.qdBytes qid) = false)) : d.enable qid = d.refuseQctl := by
  refine if_pos ?_
  rw [Bool.or_eq_true, ← Bool.not_eq_false, ← Bool.not_eq_false (d.descriptorBad _), ← not_and_or]
  refine mt (fun ⟨free, good⟩ => ⟨fun x at_ => ?_, good⟩) bad
  simpa using (Option.any_eq_false _ _).1 free x at_

/-- DISABLE of a queue that runs and records no flight. -/
theorem State.disable_sets {u : State} {qid : Nat} {x : Queue} (here : u.dev.queue? qid = some x) (runs : x.qstate ≠ 0)
    (free : (u.dev.reg 0x50008).testBit 31 = false) (noRun : x.run = none) (noRecording : x.recording = none) :
    QueueSet (u.setDev (u.dev.setField 0x50008 31 31 1)) (u.setDev (u.dev.disable qid)) qid (x.stop 0) := by
  have keeps : ∀ q : Queue, (q.stop 0).qid = q.qid := fun _ => rfl
  have mapped := Device.queue?_mapQueue_same here keeps
  have idle : (u.dev.mapQueue qid fun q => q.stop 0).endRun qid = u.dev.mapQueue qid fun q => q.stop 0 := by
    have none_ : (x.stop 0).run = none := by rw [Queue.stop, noRun]; rfl
    rw [Device.endRun, mapped]
    dsimp only
    rw [none_]
  have does : u.dev.disable qid = ((u.dev.mapQueue qid fun q => q.stop 0).setField 0x50008 31 31 1).writeQueue qid := by
    rw [Device.disable, here]
    dsimp only
    rw [if_neg (by simp [runs, bit_eq_testBit, free]), noRun, Option.map_none, Option.getD_none, Device.dropRecording_none here noRecording, idle]
  rw [does]
  exact QueueSet.of_mapQueue_setField here keeps 0x50008 31 31 1

theorem Device.disable_refused {d : Device} {qid : Nat} (bad : (∀ x, d.queue? qid = some x → x.qstate = 0) ∨ (d.reg 0x50008).testBit 31 = true) :
    d.disable qid = d.refuseQctl := by
  rw [Device.disable]
  rcases at_ : d.queue? qid with _ | x
  · rfl
  · exact if_pos (bad.imp (· x at_) fun busy => by rw [bit_eq_testBit, busy])

/-- A queue that DISABLE stops where it waits in no SIGWAIT. -/
theorem Queue.stop_running {x : Queue} (noRun : x.run = none) (noWait : x.sigwait = none) : x.stop 0 = { x with draining := true, tcur := 0 } := by
  cases x
  simp_all [Queue.stop, Queue.halted, dropWait]

/-- A queue that DISABLE stops in a SIGWAIT, which is abandoned. -/
theorem Queue.stop_waiting {x : Queue} {y : SigWait} (noRun : x.run = none) (waits : x.sigwait = some y) : x.stop 0 =
    { x with draining := true, tcur := 0, rptr := y.ix, sigwait := none, started := x.started.filter fun z => z.csn != y.csn } := by
  cases x
  simp_all [Queue.stop, Queue.halted, dropWait]

/-- A queue that goes on at `arg` (R346). -/
def Queue.resumed (q : Queue) (arg : Nat) : Queue := { q with rptr := arg, tcur := 0, errcode := 0, errcsn := 0, errdata := 0, qstate := 1 }

/-- RESUME of a queue in ERROR. -/
theorem State.resume_sets {u : State} {qid : Nat} {x : Queue} (here : u.dev.queue? qid = some x) (failed : x.qstate = 2) {arg : Nat}
    (fits : (x.resumed arg).ahead ≤ 2 ^ x.rlog2) : QueueSet u (u.setDev (u.dev.resume qid arg)) qid (x.resumed arg) := by
  have keeps : ∀ q : Queue, (q.resumed arg).qid = q.qid := fun _ => rfl
  have after : ((u.dev.mapQueue qid fun q => q.resumed arg).writeQueue qid).queue? qid = some (x.resumed arg) :=
    (Device.queue?_congr (Device.writeQueue_queues ..) qid).trans (Device.queue?_mapQueue_same here keeps)
  have does : u.dev.resume qid arg = (u.dev.mapQueue qid fun q => q.resumed arg).writeQueue qid := by
    rw [Device.resume, here]
    exact (if_pos failed).trans (Device.checkOver_fits after (.inr fits))
  rw [does]
  exact QueueSet.of_mapQueue here keeps

theorem Device.resume_refused {d : Device} {qid : Nat} (bad : ∀ x, d.queue? qid = some x → x.qstate ≠ 2) (arg : Nat) :
    d.resume qid arg = d.refuseQctl := by
  rw [Device.resume]
  rcases at_ : d.queue? qid with _ | x
  · rfl
  · exact if_neg (bad x at_)

/-! ## A queue that has drained (R346) -/

/-- A queue that DISABLE has stopped, once nothing of it is left (R346). -/
def Queue.drained (q : Queue) : Queue := { q with qstate := 0, draining := false, place := none }

/-- DISABLE_DRAIN_DONE of the first queue that has drained. -/
theorem drainDone {s : State} {q : Queue} (first : (s.dev.queues.find? fun q => q.draining && q.started.isEmpty && q.run.isNone) = some q)
    (here : s.dev.queue? q.qid = some q) :
    ∃ t v, exec .disableDrainDone s = .next t ∧ RegSet s v 0x50008 (putBits (s.dev.reg 0x50008) 31 31 0) ∧ QueueSet v t q.qid q.drained := by
  have keeps : ∀ q : Queue, q.drained.qid = q.qid := fun _ => rfl
  have set := QueueSet.of_mapQueue here keeps
  have does : exec .disableDrainDone s = .next (s.setDev (((s.dev.mapQueue q.qid Queue.drained).writeQueue q.qid).setField 0x50008 31 31 0)) := by
    show execDisableDrainDone s = _
    rw [execDisableDrainDone, first]
    rfl
  exact ⟨_, _, does, RegSet.of_setField s 0x50008 31 31 0, set.setField 0x50008 31 31 0 (by decide)⟩

/-! ## Doorbells (R344) -/

/-- A queue whose doorbell was read. -/
def Queue.rung (q : Queue) (x : DWord) : Queue := { q with wptr := x.toNat % 2 ^ 32 }

section
variable {s : State} {qid : Nat} {q : Queue} {x : DWord} (here : s.dev.queue? qid = some q)
include here

theorem Device.queue?_rung : (s.dev.mapQueue qid fun q => q.rung x).queue? qid = some (q.rung x) :=
  Device.queue?_mapQueue_same here fun _ => rfl

theorem exec_doorbellWrite_fits (fits : (q.rung x).qstate ≠ 1 ∨ (q.rung x).ahead ≤ 2 ^ (q.rung x).rlog2) :
    exec (.doorbellWrite qid x) s = .next (s.setDev (s.dev.mapQueue qid fun q => q.rung x)) :=
  congrArg (fun d => Host.Outcome.next (s.setDev d)) (Device.checkOver_fits (Device.queue?_rung here) fits)

theorem doorbellWrite_over (runs : (q.rung x).qstate = 1) (past : 2 ^ (q.rung x).rlog2 < (q.rung x).ahead) (idle : (q.rung x).recording = none) :
    ∃ t, exec (.doorbellWrite qid x) s = .next t ∧ QueueFailed s t qid (q.rung x) 0x205 (((q.rung x).csn + 1) % 2 ^ 32) (q.rung x).rptr :=
  ⟨_, congrArg (fun d => Host.Outcome.next (s.setDev d)) (Device.checkOver_over (Device.queue?_rung here) runs past),
    QueueFailed.of_queueError (Device.queue?_rung here) (by omega) idle (fun _ => s.dev.queue?_mapQueue_other (f := fun q => q.rung x) fun _ => rfl) rfl rfl⟩

end

/-! ## Binding (R347) -/

/-- A queue in a place. -/
def Queue.bound (q : Queue) (p : Option Nat) : Queue := { q with place := p }

theorem exec_queueBind {s : State} {qid place : Nat} {q : Queue} (here : s.dev.queue? qid = some q) : exec (.queueBind qid place) s = .next (
    if place < 64 ∧ s.dev.waitsForPlace q = true ∧ (s.dev.queues.any fun r => r.place == some place) = false ∧
      (s.dev.queues.any fun r => s.dev.waitsForPlace r && r.before q) = false then s.setDev (s.dev.mapQueue qid fun q => q.bound (some place)) else s) := by
  show execQueueBind qid place s = _
  rw [execQueueBind, here]
  refine congrArg Host.Outcome.next (if_congr ?_ rfl rfl)
  rw [Bool.not_eq_true', Bool.not_eq_true']

theorem exec_queueUnbind {s : State} {qid : Nat} {q : Queue} (here : s.dev.queue? qid = some q) : exec (.queueUnbind qid) s = .next (
    if q.place.isSome = true ∧ q.sigwait = none ∧ q.copies = [] ∧ ((!s.dev.pending q && q.started.isEmpty) = true ∨
      (s.dev.queues.any fun r => s.dev.waitsForPlace r && decide (q.qpri ≤ r.qpri)) = true)
    then s.setDev (s.dev.mapQueue qid fun q => q.bound none) else s) := by
  show execQueueUnbind qid s = _
  rw [execQueueUnbind, here]
  rfl

/-- Whether a queue comes before another in the order of binding. -/
theorem Queue.before_iff (r q : Queue) : r.before q = true ↔ q.qpri < r.qpri ∨ r.qpri = q.qpri ∧ r.qid < q.qid := by
  simp [Queue.before]

/-! ## FLTOWN and the event ring (R360, R361) -/

theorem exec_fltownWrite {w : RegWrite} {s : State} {fid : Nat} (legal : w.ok = true) (lt : fid < 256) (base : w.base = 0x51000 + 8 * fid) :
    exec (.fltownWrite w) s = .next (if (s.dev.flight fid).state = 1 ∨ 0 < (s.dev.flight fid).runs then s
      else s.setDev ((s.dev.regStoreAs w (2 ^ 63 + fieldMask 11 0) 0).mapFlight fid fun _ => Flight.empty)) := by
  have number : (w.base - 0x51000) / 8 = fid := by omega
  show execFltownWrite w s = _
  rw [execFltownWrite, number]
  refine congrArg Host.Outcome.next (if_congr ?_ rfl rfl)
  constructor
  · rintro (bad | bad | bad | open_)
    · simp [legal] at bad
    · omega
    · omega
    · exact open_
  · exact fun open_ => .inr (.inr (.inr open_))

theorem Device.evRoom_iff (d : Device) :
    let log2 := bits (d.reg 0x50010) 4 0
    d.evRoom = true ↔ 6 ≤ log2 ∧ log2 ≤ 16 ∧ (bits (d.reg 0x50020) 63 32 + 2 ^ 32 - bits (d.reg 0x50018) 31 0) % 2 ^ 32 < 2 ^ log2 := by
  intro log2
  rw [Device.evRoom, Bool.and_eq_true, Device.evOn, decide_eq_true_iff, decide_eq_true_iff, and_assoc]
  rfl

/-- A kept event that enters the ring (R360). -/
theorem State.evWrite_facts (s : State) (e : List Byte) (es : List (List Byte)) :
    let t := s.setDev (({ s.dev with events := es } : Device).evWrite e)
    let n := bits (s.dev.reg 0x50020) 63 32
    let a := bits (s.dev.reg 0x50010) 47 16 * 0x10000 + 32 * (n % 2 ^ bits (s.dev.reg 0x50010) 4 0)
    t.dev.events = es ∧ (∀ x, t.dev.byte x = if a ≤ x ∧ x < a + e.length then e.getD (x - a) 0#8 else s.dev.byte x) ∧
      t.dev.reg 0x50020 = putBits (s.dev.reg 0x50020) 63 32 (n + 1) ∧ (∀ o, o ≠ 0x50020 → t.dev.reg o = s.dev.reg o) ∧
      t.dev.fabric.msix = s.dev.fabric.msix ++ [8 * bits (s.dev.reg 0x30000) 12 10 + leNat (e.take 1) - 1] ∧ { t with dev := s.dev } = s := by
  intro t n a
  obtain ⟨v, m, vector, value, is⟩ := ({ s.dev with events := es } : Device).evWrite_eq e
  have at_ : ({ s.dev with events := es } : Device).evAt = a := rfl
  rw [at_] at is
  have put := putP_elsewhere { s.dev with events := es } a e 0#64
  have bytes := putP_byte { s.dev with events := es } a e 0#64
  generalize ({ s.dev with events := es } : Device).putP a e 0#64 = d at is put bytes
  have outer : ∀ o x, ((d.setReg o m).evRaised v).reg x = (d.setReg o m).reg x := fun _ _ => rfl
  have beside : ∀ o, ((d.setReg o m).evRaised v).events = d.events ∧ (∀ x, ((d.setReg o m).evRaised v).byte x = d.byte x) ∧
      ((d.setReg o m).evRaised v).fabric = d.fabric.raised v := fun _ => ⟨rfl, fun _ => rfl, rfl⟩
  have reg : ∀ x, d.reg x = s.dev.reg x := fun x => (Device.reg_congr (Device.ctrl_of_elsewhere put) x).trans rfl
  have does : t.dev = (d.setReg 0x50020 m).evRaised v := is
  refine ⟨?_, fun x => ?_, ?_, fun o other => ?_, ?_, s.setDev_back _⟩
  · rw [does, (beside _).1, Device.events_of_elsewhere put]
  · rw [does, (beside _).2.1, bytes]
    rfl
  · rw [does, outer, Device.reg_setReg, if_pos rfl, value]
    rfl
  · rw [does, outer, Device.reg_setReg, if_neg other, reg]
  · rw [does, (beside _).2.2, Device.fabric_of_elsewhere put, vector]
    rfl

/-- Settles O47. Log entries 58 (the host writes QCTL too) and 61 (an OVER error names CSN + 1 and RPTR) are the model's choices that the statement
takes over. -/
theorem queueControl : Obligations.QueueControl := by
  unfold Obligations.QueueControl
  refine ⟨fun w s qid ⟨legal, base, agent, named⟩ => ?qctl, fun s busy => ?undrained, fun s q first here => drainDone first here,
    fun s qid q x here => ?doorbell, fun s qid place q here => ?place, fun w s fid legal lt base => ?fltown, fun s => ?ring⟩
  case qctl =>
    refine ⟨_, State.regStored_written s legal base rfl, ?_⟩
    have enable : exec (.queueEnable w) s = _ := congrArg Host.Outcome.next (s.qctl_eq legal base agent Device.enable)
    have disable : exec (.queueDisable w) s = _ := congrArg Host.Outcome.next (s.qctl_eq legal base agent Device.disable)
    have resume : exec (.queueResume w) s = _ := congrArg Host.Outcome.next (s.qctl_eq legal base agent fun d qid => d.resume qid (w.ones / 2 ^ 32))
    rw [named] at enable disable resume
    generalize s.regStored w = u at enable disable resume ⊢
    intro bs f ring legal q free
    have good : u.dev.descriptorBad (u.dev.qdBytes qid) = false ↔ legal := Device.descriptorBad_iff ..
    have refused : ∀ {i : Instr} {d : Device}, exec i s = .next (u.setDev d) → d = u.dev.refuseQctl →
        ∃ t, exec i s = .next t ∧ RegSet u t 0x50008 (putBits (u.dev.reg 0x50008) 30 30 1) :=
      fun does is => ⟨_, does, by subst is; exact RegSet.of_setField ..⟩
    refine ⟨fun isFree isLegal fits => ⟨_, enable, State.enable_sets isFree (good.2 isLegal) rfl fits⟩,
      fun bad => refused enable (Device.enable_refused fun ⟨isFree, isGood⟩ => bad ⟨isFree, good.1 isGood⟩),
      fun x here runs idle noRun noRecording noWait => ⟨_, _, disable, RegSet.of_setField .., ?_⟩,
      fun x y here runs idle noRun noRecording waits => ⟨_, _, disable, RegSet.of_setField .., ?_⟩,
      fun bad => refused disable (Device.disable_refused bad),
      fun x here failed => ?_,
      fun bad => refused resume (Device.resume_refused bad _)⟩
    · exact Queue.stop_running noRun noWait ▸ State.disable_sets here runs idle noRun noRecording
    · exact Queue.stop_waiting noRun waits ▸ State.disable_sets here runs idle noRun noRecording
    · intro y fits
      exact ⟨_, resume, State.resume_sets here failed fits⟩
  case undrained =>
    have none_ : s.dev.queues.find? (fun q => q.draining && q.started.isEmpty && q.run.isNone) = none := by
      rw [List.find?_eq_none]
      intro q mem
      have := busy q mem
      simp only [Bool.and_eq_true, List.isEmpty_iff, Option.isNone_iff_eq_none]
      tauto
    show execDisableDrainDone s = _
    rw [execDisableDrainDone, none_]
  case doorbell =>
    refine ⟨fun fits => ⟨_, exec_doorbellWrite_fits here fits, Device.queue?_rung here, fun k other => ?_, rfl⟩,
      fun runs past idle => doorbellWrite_over here runs past idle⟩
    exact s.dev.queue?_mapQueue_other (f := fun q => q.rung x) (fun _ => rfl) other
  case place =>
    intro may leaves set
    have bound : ∀ p, set (s.setDev (s.dev.mapQueue qid fun q => q.bound p)) p := fun p =>
      ⟨Device.queue?_mapQueue_same here fun _ => rfl, fun k other => s.dev.queue?_mapQueue_other (f := fun q => q.bound p) (fun _ => rfl) other, rfl⟩
    have binds := exec_queueBind (place := place) here
    have unbinds := exec_queueUnbind here
    have may_iff : (place < 64 ∧ s.dev.waitsForPlace q = true ∧ (s.dev.queues.any fun r => r.place == some place) = false ∧
        (s.dev.queues.any fun r => s.dev.waitsForPlace r && r.before q) = false) ↔ may := by
      simp only [List.any_eq_false, beq_iff_eq, Bool.and_eq_true, Queue.before_iff, not_and]
      exact Iff.rfl
    have leaves_iff : (q.place.isSome = true ∧ q.sigwait = none ∧ q.copies = [] ∧ ((!s.dev.pending q && q.started.isEmpty) = true ∨
        (s.dev.queues.any fun r => s.dev.waitsForPlace r && decide (q.qpri ≤ r.qpri)) = true)) ↔ leaves := by
      simp only [Option.isSome_iff_ne_none, Bool.and_eq_true, Bool.not_eq_true', List.isEmpty_iff, List.any_eq_true, decide_eq_true_eq]
      exact Iff.rfl
    exact ⟨fun m => ⟨_, binds.trans (congrArg Host.Outcome.next (if_pos (may_iff.2 m))), bound _⟩,
      fun m => binds.trans (congrArg Host.Outcome.next (if_neg (mt may_iff.1 m))),
      fun l => ⟨_, unbinds.trans (congrArg Host.Outcome.next (if_pos (leaves_iff.2 l))), bound _⟩,
      fun l => unbinds.trans (congrArg Host.Outcome.next (if_neg (mt leaves_iff.1 l)))⟩
  case fltown =>
    intro f
    have does := exec_fltownWrite (s := s) legal lt base
    refine ⟨fun open_ => does.trans (congrArg Host.Outcome.next (if_pos open_)), fun idle still => ?_⟩
    rw [if_neg (not_or.2 ⟨idle, Nat.not_lt.2 (Nat.le_of_eq still)⟩)] at does
    have written := State.regStoredAs_written s legal base (2 ^ 63 + fieldMask 11 0) 0
    generalize s.dev.regStoreAs w (2 ^ 63 + fieldMask 11 0) 0 = d at does written
    have before : ∀ g, d.flight g = s.dev.flight g := fun g => congrArg (Store.get Flight.empty · g) (congrArg Device.flights written.dev :)
    refine ⟨_, _, does, written, ?_, fun g other => ?_, rfl⟩
    · exact (d.flight_mapFlight ..).trans (if_pos rfl)
    · exact (d.flight_mapFlight ..).trans ((if_neg other).trans (before g))
  case ring =>
    intro log2 n room
    have roomy : s.dev.evRoom = true ↔ room := s.dev.evRoom_iff
    refine ⟨fun stays => ?_, fun e es kept has => ?_⟩
    · show execEventRingWrite s = _
      rw [execEventRingWrite]
      rcases kept : s.dev.events with _ | ⟨e, es⟩
      · rfl
      · rw [kept] at stays
        exact congrArg Host.Outcome.next (if_neg (mt roomy.1 (stays.resolve_left (by simp))))
    · have does : exec .eventRingWrite s = .next (s.setDev (({ s.dev with events := es } : Device).evWrite e)) := by
        show execEventRingWrite s = _
        rw [execEventRingWrite, kept]
        exact congrArg Host.Outcome.next (if_pos (roomy.2 has))
      exact ⟨_, does, s.evWrite_facts e es⟩

end Sys2Proof.Machine
end

section
/-!
SUPPORT. Packets: how one starts (R345, R351), completes or fails (R351, R352, R359), at the head of its queue or in a run (R366, R367).
-/
namespace Sys2Proof.Machine

/-! ## What was set of a queue, step by step -/

section
variable {d e : Device} (h : d.unqueued = e.unqueued)
include h

theorem Device.flights_of_unqueued : d.flights = e.flights := (congrArg Device.flights h :)
theorem Device.ptgen_of_unqueued : d.ptgen = e.ptgen := (congrArg Device.ptgen h :)
theorem Device.contexts_of_unqueued : d.contexts = e.contexts := (congrArg Device.contexts h :)

end

section
variable {s t u : State} {qid : Nat} {q r : Queue}

theorem QueueSet.ctrl (h : QueueSet s t qid q) : t.dev.ctrl = s.dev.ctrl := (congrArg Device.ctrl h.rest.1 :)

theorem QueueSet.reg (h : QueueSet s t qid q) (o : Nat) : t.dev.reg o = s.dev.reg o := Device.reg_congr h.ctrl o

theorem QueueSet.flight (h : QueueSet s t qid q) (f : Nat) : t.dev.flight f = s.dev.flight f := by
  have same : t.dev.flights = s.dev.flights := Device.flights_of_unqueued h.rest.1
  rw [Device.flight, Device.flight, same]

theorem QueueSet.untraced (h : QueueSet s t qid q) (quiet : s.dev.trcOn = false) : t.dev.trcOn = false :=
  (Device.trcOn_congr h.ctrl).trans quiet

theorem QueueSet.flights (h : QueueSet s t qid q) : t.dev.flights = s.dev.flights := Device.flights_of_unqueued h.rest.1

theorem QueueSet.context? (h : QueueSet s t qid q) (asid : Nat) : t.context? asid = s.context? asid := by
  have cx : t.cx = s.cx := (congrArg State.cx h.rest.2 :)
  rw [State.context?, State.context?, State.contexts, State.contexts, cx, Device.contexts_of_unqueued h.rest.1]

theorem QueueSet.trans (h : QueueSet s t qid q) (k : QueueSet t u qid r) : QueueSet s u qid r := by
  have table := Device.qdAddr_congr h.ctrl qid
  refine ⟨k.queue, fun n other => (k.others n other).trans (h.others n other), fun i lt => table ▸ k.shown i lt,
    fun a away => (k.bytes a (by rw [table]; exact away)).trans (h.bytes a away), k.rest.1.trans h.rest.1, ?_⟩
  have back : u = t.setDev u.dev := (congrArg (fun x : State => x.setDev u.dev) k.rest.2 :)
  rw [back]
  exact h.rest.2

theorem QueueSet.with_ccstep {d : Device} (h : QueueSet s (s.setDev d) qid q) (steps : List Nat) :
    QueueSet s (s.setDev { d with ccstep := steps }) qid q :=
  ⟨h.queue, h.others, h.shown, h.bytes, h.rest.1, h.rest.2⟩

end

/-! ## How a packet starts (R345, R351) -/

theorem State.tracePacket_off {s : State} (quiet : s.dev.trcOn = false) (type qid csn data0 : Nat) : s.tracePacket type qid csn data0 = s :=
  s.trace_off _ quiet

/-- A packet that is not recorded and not traced is counted, and does what its type says. -/
theorem State.start_counts {s : State} {i : Item} {q : Queue} (quiet : s.dev.trcOn = false) (here : s.dev.queue? i.q.qid = some q)
    (unrecorded : i.q.recording = none ∨ 7 ≤ typeOf i.p) :
    ∃ u, QueueSet s u i.q.qid { q with csn := i.csn, tcur := 0 } ∧ ∀ act, s.start i act = act u i := by
  have set := (QueueSet.of_mapQueue here (f := fun q => { q with csn := i.csn, tcur := 0 }) fun _ => rfl).with_ccstep
    (((s.dev.mapQueue i.q.qid fun q => { q with csn := i.csn, tcur := 0 }).writeQueue i.q.qid).ccstep.mapIdx
      fun k n => if k = (i.q.place.getD 0) / 32 then n + 1 else n)
  refine ⟨_, set, fun act => ?_⟩
  unfold State.start
  dsimp only
  rw [State.tracePacket_off (set.untraced quiet)]
  have record : ∀ t : State, t.record i = (t, .ok []) := fun t => by
    unfold State.record
    rcases unrecorded with none_ | flight
    · rw [none_]
    · split
      · rfl
      · exact if_pos flight
  rw [record]

/-- The packet of the head of a queue. -/
def Queue.headItem (q : Queue) (p : List Byte) : Item :=
  { q := { q with rptr := (q.rptr + 1) % 2 ^ 32 }, csn := (q.csn + 1) % 2 ^ 32, p := p, src := .ring }

/-- A packet at the head of its queue that passes its checks starts, counted, whatever it then does. -/
theorem State.processHead_counts {s : State} {qid : Nat} {q : Queue} {p : List Byte} (here : s.dev.queue? qid = some q) (may : s.dev.mayStart q = true)
    (due : q.rptr ≠ q.wptr) (noRun : q.run = none)
    (packet : p = (List.range 64).map fun k => s.dev.outerByte (q.rbase + 64 * (q.rptr % 2 ^ q.rlog2) + k)) (checks : packetCause s.dev p = none)
    (patchable : (q.recording.isSome && pmapBad p) = false) (after : barred p = true → ∀ x ∈ q.started, x.done = true) (quiet : s.dev.trcOn = false)
    (unrecorded : q.recording = none ∨ 7 ≤ typeOf p) :
    ∃ u, QueueSet s u qid q.counted ∧ ∀ mine act, mine (typeOf p) = true → s.processHead qid mine act = (act u (q.headItem p)).getD s := by
  obtain rfl : q.qid = qid := Device.queue?_qid here
  have first := QueueSet.of_mapQueue here (f := fun x => { x with rptr := (q.rptr + 1) % 2 ^ 32 }) fun _ => rfl
  generalize t_eq : s.setDev ((s.dev.mapQueue q.qid fun x => { x with rptr := (q.rptr + 1) % 2 ^ 32 }).writeQueue q.qid) = t at first
  have item : s.dev.headItem q = q.headItem p := by rw [packet]; rfl
  obtain ⟨u, second, starts⟩ := State.start_counts (i := q.headItem p) (first.untraced quiet) first.queue unrecorded
  refine ⟨u, first.trans second, fun mine act is => ?_⟩
  have free : ¬ (s.dev.mayStart q = false ∨ q.rptr = q.wptr ∨ mine (typeOf p) = false ∨
      (none : Option Run).any (fun r => !r.stopped && !r.issued 0) = true ∨ (barred p = true ∧ (q.started.any fun x => !x.done) = true)) := by
    rw [may, is]
    rintro (h | h | h | h | ⟨bars, h⟩)
    · exact absurd h (by decide)
    · exact due h
    · exact absurd h (by decide)
    · exact absurd h (by simp)
    · obtain ⟨x, mem, undone⟩ := List.any_eq_true.1 h
      rw [after bars x mem] at undone
      exact absurd undone (by decide)
  unfold State.processHead
  rw [here]
  dsimp only
  rw [item, noRun]
  refine (if_neg free).trans ?_
  dsimp only [Queue.headItem]
  rw [checks, t_eq]
  dsimp only
  exact (if_neg (by simpa using patchable)).trans (congrArg (Option.getD · s) (starts act))

/-! ## How a packet completes (R351, R352) -/

/-- A queue in which an item has begun. -/
def Queue.begun (q : Queue) (i : Item) : Queue :=
  { q with
    started := q.started ++ [{ csn := i.csn, packet := i.p, run := if i.src != .ring then q.run.map (·.csn) else none, done := false, failed := false }]
    run := if i.src != .ring then q.run.map fun r => { r with pending := r.pending ++ [i.csn] } else q.run }

/-- A queue in which an item has begun and completed: its packet stays until its completion signal is performed, if it asks for one. -/
def Queue.endedBy (q : Queue) (i : Item) : Queue :=
  { q with started := q.started ++ if csigOf i.p then
      [{ csn := i.csn, packet := i.p, run := if i.src != .ring then q.run.map (·.csn) else none, done := true, failed := false }] else [] }

theorem Queue.complete_begun {q : Queue} {i : Item} (fresh : ∀ x ∈ q.started, x.csn ≠ i.csn) (apart : ∀ r, q.run = some r → i.csn ∉ r.pending) :
    (q.begun i).complete i.csn = q.endedBy i := by
  have kept : q.started.filterMap (fun s => if s.csn = i.csn then (if csigOf s.packet && !s.failed then some { s with done := true } else none) else some s) =
      q.started := by
    refine (List.filterMap_congr fun x mem => ?_).trans List.filterMap_some
    rw [if_neg (fresh x mem)]
  have run : (if i.src != .ring then q.run.map fun r => { r with pending := r.pending ++ [i.csn] } else q.run).map
      (fun r => { r with pending := r.pending.filter fun c => c != i.csn }) = q.run := by
    rcases is : q.run with _ | r
    · split <;> rfl
    · have old : r.pending.filter (fun c => c != i.csn) = r.pending :=
        List.filter_eq_self.2 fun c mem => by simpa using fun at_ : c = i.csn => apart r is (at_ ▸ mem)
      split <;> simp [List.filter_append, old]
  simp only [Queue.complete, Queue.begun, Queue.endedBy, List.filterMap_append, kept, run]
  cases asks : csigOf i.p <;> simp [asks]

/-- A run that has more to issue, or treads that have not completed, does not end. -/
theorem Device.endRun_stays {d : Device} {qid : Nat} {q : Queue} (here : d.queue? qid = some q)
    (goes : ∀ r, q.run = some r → r.pending ≠ [] ∨ r.stopped = false ∧ r.issued (d.flight r.fid).treads.length = false) : d.endRun qid = d := by
  rw [Device.endRun, here]
  dsimp only
  rcases run : q.run with _ | r
  · rfl
  · refine if_neg ?_
    rcases goes r run with more | ⟨going, more⟩
    · simp [more]
    · simp [going, more]

/-- An item begins and completes at once. -/
theorem State.beginDone_eq {s : State} {i : Item} {q : Queue} (here : s.dev.queue? i.q.qid = some q) (quiet : s.dev.trcOn = false)
    (fresh : ∀ x ∈ q.started, x.csn ≠ i.csn) (apart : ∀ r, q.run = some r → i.csn ∉ r.pending)
    (goes : ∀ r, q.run = some r → r.stopped = false ∧ r.issued (s.dev.flight r.fid).treads.length = false) :
    ∃ f : Queue → Queue, (∀ q, (f q).qid = q.qid) ∧ f q = q.endedBy i ∧ s.beginDone i = s.setDev (s.dev.mapQueue i.q.qid f) := by
  refine ⟨fun q => (q.begun i).complete i.csn, fun _ => rfl, Queue.complete_begun fresh apart, ?_⟩
  have twice := s.dev.mapQueue_mapQueue i.q.qid (fun q => q.complete i.csn) (f := fun q => q.begun i) fun _ => rfl
  have mapped := Device.queue?_mapQueue_same here (f := fun q => (q.begun i).complete i.csn) fun _ => rfl
  have stays : (s.dev.mapQueue i.q.qid fun q => (q.begun i).complete i.csn).endRun i.q.qid = s.dev.mapQueue i.q.qid fun q => (q.begun i).complete i.csn :=
    Device.endRun_stays mapped fun r run => .inr (goes r (by rw [Queue.complete_begun fresh apart] at run; exact run))
  have completed : (s.begin i).dev.completePacket i.q.qid i.csn = s.dev.mapQueue i.q.qid fun q => (q.begun i).complete i.csn := by
    refine Eq.trans (congrArg (Device.endRun · i.q.qid) twice) stays
  have silent : ∀ (l : List (Nat × Nat)) (t : State), t.dev.trcOn = false → l.foldl (fun t x => t.tracePacket 2 i.q.qid x.1 x.2) t = t := by
    intro l
    induction l with
    | nil => exact fun _ _ => rfl
    | cons x l ih => exact fun t off => by rw [List.foldl_cons, State.tracePacket_off off, ih t off]
  rw [State.beginDone, State.packetDone, completed]
  exact silent _ _ quiet

/-! ## How a packet fails (R359) -/

/-- A queue whose run stays at the packet that fails. -/
def Queue.backAt (q : Queue) (place : Option Nat) : Queue :=
  { q with run := q.run.map fun r => { r with next := place.getD r.next } }

theorem State.itemError_eq (s : State) (i : Item) (cls cause data : Nat) : s.itemError i cls cause data =
    s.setDev (((s.dev.mapQueue i.q.qid fun q => q.backAt i.src.place).queueError i.q.qid i.csn cls cause data).endRun i.q.qid) := by
  unfold State.itemError
  generalize i.src.place = place
  cases place <;> rfl

/-- A packet that is being started fails, and a run that it belongs to does not end with it. -/
theorem QueueFailed.of_itemError {s : State} {i : Item} {q : Queue} (here : s.dev.queue? i.q.qid = some q) (first : q.qstate ≠ 2) (idle : q.recording = none)
    (goes : ∀ r, q.run = some r → r.pending ≠ [] ∧ ∀ k, i.src.place = some k → r.next = k) (cls cause data : Nat) :
    QueueFailed s (s.itemError i cls cause data) i.q.qid q (cls * 256 + cause) i.csn data := by
  have keeps : ∀ q : Queue, (q.backAt i.src.place).qid = q.qid := fun _ => rfl
  have back : q.backAt i.src.place = q := by
    have same : q.run.map (fun r => { r with next := i.src.place.getD r.next }) = q.run := by
      rcases run : q.run with _ | r
      · rfl
      · have stays : i.src.place.getD r.next = r.next := by
          rcases place : i.src.place with _ | k
          · rfl
          · exact ((goes r run).2 k place).symm
        rw [Option.map_some, stays]
    rw [Queue.backAt, same]
  have mapped : (s.dev.mapQueue i.q.qid fun q => q.backAt i.src.place).queue? i.q.qid = some q :=
    (Device.queue?_mapQueue_same here keeps).trans (congrArg some back)
  have failed := QueueFailed.of_queueError (s := s) (csn := i.csn) (cls := cls) (cause := cause) (data := data) mapped first idle
    (fun k other => s.dev.queue?_mapQueue_other keeps other) rfl rfl
  have stays := Device.endRun_stays failed.queue fun r run => by
    obtain ⟨r', run', rfl⟩ := Option.map_eq_some_iff.1 (run : q.run.map _ = some r)
    exact .inl (goes r' run').1
  have does : s.itemError i cls cause data = s.setDev ((s.dev.mapQueue i.q.qid fun q => q.backAt i.src.place).queueError i.q.qid i.csn cls cause data) :=
    (s.itemError_eq i cls cause data).trans (congrArg s.setDev stays)
  rw [does]
  exact failed

end Sys2Proof.Machine
end

section
/-!
SUPPORT. Flights: FLIGHT_BEGIN and FLIGHT_END (R362), the beginning of a run or a fallback (R366, R367), and what they issue (R368).
-/
namespace Sys2Proof.Machine

/-! ## The packet at the head of a queue -/

theorem barred_iff (p : List Byte) : barred p = true ↔ (p.getD 1 0#8).getLsbD 0 = true ∨ p.getD 0 0#8 = 6#8 := by
  rw [barred, Bool.or_eq_true, beq_iff_eq]
  exact or_congr Iff.rfl ⟨fun h => BitVec.eq_of_toNat_eq h, fun h => congrArg BitVec.toNat h⟩

section
variable {s : State} {qid : Nat} {q : Queue} {p : List Byte} (head : Head s qid q p)
include head

theorem Head.counts : ∃ u, QueueSet s u qid q.counted ∧
    ∀ mine act, mine (typeOf p) = true → s.processHead qid mine act = (act u (q.headItem p)).getD s := by
  obtain ⟨runs, live, place, noWait, noRun, noRecording⟩ := head.runs
  refine State.processHead_counts head.queue ?_ head.due.1 noRun head.packet head.checks (by rw [noRecording]; rfl) (fun bars => head.after ((barred_iff p).1 bars))
    head.quiet (.inl noRecording)
  simp [Device.mayStart, runs, live, place, noWait, head.stop]

/-- A FLIGHT packet at the head of its queue fails. -/
theorem Head.fails {u : State} (set : QueueSet s u qid q.counted) (cls cause data : Nat) :
    QueueFailed u (u.itemError (q.headItem p) cls cause data) qid q.counted (cls * 256 + cause) q.counted.csn data := by
  obtain ⟨runs, live, place, noWait, noRun, noRecording⟩ := head.runs
  obtain rfl : q.qid = qid := Device.queue?_qid head.queue
  exact QueueFailed.of_itemError (i := q.headItem p) set.queue (by rw [Queue.counted]; simp [runs]) noRecording
    (fun r run => absurd (noRun.symm.trans run) (by simp)) cls cause data

end

/-- The packet of the head of a queue stays among the started ones if its completion signal is due. -/
theorem Queue.endedBy_headItem (q : Queue) (p : List Byte) (x : Option Nat) :
    ({ q.counted with recording := x } : Queue).endedBy (q.headItem p) = { q.counted.ended p with recording := x } := by
  unfold Queue.ended
  split
  next asks => simp only [Queue.endedBy, Queue.headItem, csigOf, asks]; rfl
  next quiet => simp only [Queue.endedBy, Queue.headItem, csigOf, quiet]; simp

/-! ## FLIGHT_BEGIN and FLIGHT_END (R362) -/

theorem ownsFlight_iff (d : Device) (fid asid : Nat) : d.ownsFlight fid asid = true ↔
    (d.reg (0x51000 + 8 * fid)).testBit 63 = true ∧ bits (d.reg (0x51000 + 8 * fid)) 11 0 = asid := by
  rw [Device.ownsFlight, Bool.and_eq_true, beq_iff_eq, bit_eq_testBit]

/-- The packet at the head of a queue completes beside a change of a flight and of what its queue records. -/
theorem State.headItem_completes {u : State} {qid : Nat} {q : Queue} {p : List Byte} {x : Option Nat} (here : u.dev.queue? qid = some q.counted)
    (number : q.qid = qid) (quiet : u.dev.trcOn = false) (fresh : ∀ x ∈ q.started, x.csn ≠ (q.csn + 1) % 2 ^ 32) (noRun : q.run = none)
    (fid : Nat) (g : Flight → Flight) :
    ∃ t, (u.setDev ((u.dev.mapFlight fid g).mapQueue qid fun q => { q with recording := x })).beginDone (q.headItem p) = t ∧
      t.dev.queue? qid = some { q.counted.ended p with recording := x } ∧ (∀ k, k ≠ qid → t.dev.queue? k = u.dev.queue? k) ∧
      (t.dev.flight fid = g (u.dev.flight fid) ∧ ∀ h, h ≠ fid → t.dev.flight h = u.dev.flight h) ∧
      t = u.setDev { u.dev with queues := t.dev.queues, flights := t.dev.flights } := by
  subst number
  have keeps : ∀ q : Queue, ({ q with recording := x } : Queue).qid = q.qid := fun _ => rfl
  generalize v_eq : u.setDev ((u.dev.mapFlight fid g).mapQueue q.qid fun q => { q with recording := x }) = v
  have queue : v.dev.queue? q.qid = some { q.counted with recording := x } := v_eq ▸ Device.queue?_mapQueue_same (d := u.dev.mapFlight fid g) here keeps
  have others : ∀ k, k ≠ q.qid → v.dev.queue? k = u.dev.queue? k := fun k other => v_eq ▸ (u.dev.mapFlight fid g).queue?_mapQueue_other keeps other
  have flights : ∀ h, v.dev.flight h = if h = fid then g (u.dev.flight fid) else u.dev.flight h := fun h => v_eq ▸ u.dev.flight_mapFlight fid h g
  have rest : v = u.setDev { u.dev with queues := v.dev.queues, flights := v.dev.flights } := v_eq ▸ rfl
  have off : v.dev.trcOn = false := v_eq ▸ (Device.trcOn_congr rfl).trans quiet
  obtain ⟨f, same, ended, does⟩ := State.beginDone_eq (i := q.headItem p) queue off fresh (fun r run => absurd (noRun.symm.trans run) (by simp))
    (fun r run => absurd (noRun.symm.trans run) (by simp))
  refine ⟨_, does, ?_, fun k other => ?_, ⟨(flights fid).trans (if_pos rfl), fun h other => (flights h).trans (if_neg other)⟩, ?_⟩
  · exact (Device.queue?_mapQueue_same queue same).trans (congrArg some (ended.trans (q.endedBy_headItem p x)))
  · exact (v.dev.queue?_mapQueue_other same other).trans (others k other)
  · exact congrArg (fun v : State => v.setDev (v.dev.mapQueue q.qid f)) rest

/-! ## The beginning of a run or a fallback (R366, R367) -/

/-- The run that a FLIGHT_RUN packet begins. -/
def Item.run (i : Item) (vals : List DWord) (fb : Bool) (next : Nat) : Run :=
  { fid := pkt i.p 0x18 1, ix := (i.q.rptr + 2 ^ 32 - 1) % 2 ^ 32, csn := i.csn, patch := vals, fallback := fb, next := next
    fblen := pkt i.p 0x1C 4, fbaddr := BitVec.ofNat 64 (pkt i.p 0x28 8), pending := [], stopped := false, failed := false }

/-- A run or a fallback that has something to issue. -/
theorem State.beginRun_goes {w : State} {i : Item} {c : Queue} (here : w.dev.queue? i.q.qid = some c) (vals : List DWord) (fb : Bool) (next : Nat)
    (more : next < if fb then pkt i.p 0x1C 4 else (w.dev.flight (pkt i.p 0x18 1)).treads.length) :
    ∃ f : Queue → Queue, (∀ q, (f q).qid = q.qid) ∧ f c = { c.begun i with run := some (i.run vals fb next) } ∧
      w.beginRun i vals fb next = w.setDev ((if fb then w.dev else w.dev.mapFlight (pkt i.p 0x18 1) fun f => { f with runs := f.runs + 1 }).mapQueue i.q.qid f) := by
  refine ⟨fun q => { q.begun i with run := some (i.run vals fb next) }, fun _ => rfl, rfl, ?_⟩
  generalize d_eq : (if fb then w.dev else w.dev.mapFlight (pkt i.p 0x18 1) fun f => { f with runs := f.runs + 1 }) = d
  have queue : d.queue? i.q.qid = some c := by rw [← d_eq]; split <;> exact here
  have treads : (d.flight (pkt i.p 0x18 1)).treads = (w.dev.flight (pkt i.p 0x18 1)).treads := by
    rw [← d_eq]
    split
    · rfl
    · rw [Device.flight_mapFlight, if_pos rfl]
  have twice := d.mapQueue_mapQueue i.q.qid (fun q => { q with run := some (i.run vals fb next) }) (f := fun q => q.begun i) fun _ => rfl
  have mapped := Device.queue?_mapQueue_same queue (f := fun q => { q.begun i with run := some (i.run vals fb next) }) fun _ => rfl
  have stays := Device.endRun_stays mapped fun r run => .inr (by
    obtain rfl := Option.some.inj run
    refine ⟨rfl, decide_eq_false (Nat.not_le.2 ?_)⟩
    have same : ∀ f, ((d.mapQueue i.q.qid f).flight (pkt i.p 0x18 1)).treads = (w.dev.flight (pkt i.p 0x18 1)).treads := fun _ => treads
    dsimp only [Item.run]
    rw [same]
    exact more)
  have unfolded : w.beginRun i vals fb next =
      let t := w.setDev ((d.mapQueue i.q.qid fun q => q.begun i).mapQueue i.q.qid fun q => { q with run := some (i.run vals fb next) })
      let u := t.setDev (t.dev.endRun i.q.qid)
      if (t.dev.undone i.q.qid).length = (u.dev.undone i.q.qid).length then u else u.tracePacket 2 i.q.qid i.csn 9 := by
    rw [← d_eq]
    rfl
  have closes : ∀ (e e' : Device) (x : State), e' = e →
      (if (e.undone i.q.qid).length = (e'.undone i.q.qid).length then w.setDev e' else x) = w.setDev e := fun e e' x same => by
    subst same
    exact if_pos rfl
  rw [unfolded, twice]
  exact closes _ _ _ stays

/-! ## What the FLIGHT packets do -/

/-- FLIGHT_RUN once its checks are passed: the patch vector, the guards, and a fallback where one fails (R366, R367). -/
def State.actGuarded (s : State) (i : Item) : Option State :=
  let fid := pkt i.p 0x18 1
  let n := pkt i.p 0x19 1 % 128
  let r := s.ccRead i.q.asid (pkt i.p 0x20 8) (8 * n)
  match r.2 with
  | .err c a => some (r.1.itemError i 3 c a)
  | .wait => none
  | .ok bs =>
    let g := r.1.guard (s.dev.flight fid) i.q.asid
    match g.2 with
    | none => none
    | some none => some (g.1.beginRun i ((List.range n).map fun k => BitVec.ofNat 64 (pkt bs (8 * k) 8)) false i.q.tcur)
    | some (some k) =>
      let fb := decide (0 < pkt i.p 0x1C 4)
      let d := (g.1.dev.mapFlight fid fun f => { f with state := 3 }).post 5 i.q.qid i.csn (fid + k * 256) (if fb then 1 else 0)
      let t := g.1.setDev d
      some (if fb then t.beginRun i [] true 0 else t.itemError i 4 5 (fid * 2 ^ 32))

section
variable {u : State} {i : Item} {fid : Nat} (named : pkt i.p 0x18 1 = fid)
include named

theorem actFlightBegin_foreign (foreign : u.dev.ownsFlight fid i.q.asid = false) : u.actFlightBegin i = some (u.itemError i 4 1 (fid * 2 ^ 32)) := by
  subst named
  exact if_pos foreign

theorem actFlightBegin_busy (mine : u.dev.ownsFlight fid i.q.asid = true) (busy : (u.dev.flight fid).state = 1 ∨ 0 < (u.dev.flight fid).runs) :
    u.actFlightBegin i = some (u.itemError i 4 2 (fid * 2 ^ 32)) := by
  subst named
  exact (if_neg (by simp [mine])).trans (if_pos busy)

theorem actFlightBegin_empties (mine : u.dev.ownsFlight fid i.q.asid = true) (idle : ¬ ((u.dev.flight fid).state = 1 ∨ 0 < (u.dev.flight fid).runs))
    (plain : i.q.recording = none) :
    u.actFlightBegin i = some ((u.setDev ((u.dev.mapFlight fid fun _ => { Flight.empty with state := 1, gguard := bit (pkt i.p 0x19 1) 0 }).mapQueue
      i.q.qid fun q => { q with recording := some fid })).beginDone i) := by
  subst named
  exact (if_neg (by simp [mine])).trans ((if_neg idle).trans (if_neg (by simp [plain])))

theorem actFlightEnd_foreign (other : i.q.recording ≠ some fid) : u.actFlightEnd i = some (u.itemError i 4 4 (fid * 2 ^ 32)) := by
  subst named
  exact if_pos other

theorem actFlightRun_foreign (noRun : i.q.run = none) (foreign : u.dev.ownsFlight fid i.q.asid = false) :
    u.actFlightRun i = some (u.itemError i 4 1 (fid * 2 ^ 32)) := by
  subst named
  exact (if_neg (by simp [noRun])).trans (if_pos foreign)

/-- A FLIGHT_RUN of a flight that its ASID owns, in a queue that runs and records none. -/
theorem actFlightRun_checked (noRun : i.q.run = none) (mine : u.dev.ownsFlight fid i.q.asid = true) (plain : i.q.recording = none) :
    u.actFlightRun i = if (u.dev.flight fid).state = 1 then some (u.itemError i 4 2 (fid * 2 ^ 32))
    else if pkt i.p 0x19 1 % 128 < (u.dev.flight fid).npreq then some (u.itemError i 4 6 (fid * 2 ^ 32))
    else if bit i.q.tcur 31 then some (u.beginRun i [] true (i.q.tcur % 2 ^ 31))
    else u.actGuarded i := by
  subst named
  exact (if_neg (by simp [noRun])).trans ((if_neg (by simp [mine])).trans (if_neg (by simp [plain])))

end

section
variable {u v w : State} {i : Item} {bs : List Byte} (read : u.ccRead i.q.asid (pkt i.p 0x20 8) (8 * (pkt i.p 0x19 1 % 128)) = (v, .ok bs))
include read

theorem actGuarded_runs (guard : v.guard (u.dev.flight (pkt i.p 0x18 1)) i.q.asid = (w, some none)) : u.actGuarded i =
    some (w.beginRun i ((List.range (pkt i.p 0x19 1 % 128)).map fun k => BitVec.ofNat 64 (pkt bs (8 * k) 8)) false i.q.tcur) := by
  unfold State.actGuarded
  dsimp only
  rw [read]
  dsimp only
  rw [guard]

theorem actGuarded_fallsBack {k : Nat} (guard : v.guard (u.dev.flight (pkt i.p 0x18 1)) i.q.asid = (w, some (some k))) (some_ : 0 < pkt i.p 0x1C 4) :
    ∃ d : Device, d = (w.dev.mapFlight (pkt i.p 0x18 1) fun f => { f with state := 3 }).post 5 i.q.qid i.csn (pkt i.p 0x18 1 + k * 256) 1 ∧
      u.actGuarded i = some ((w.setDev d).beginRun i [] true 0) := by
  refine ⟨_, rfl, ?_⟩
  unfold State.actGuarded
  dsimp only
  rw [read]
  dsimp only
  rw [guard]
  dsimp only
  rw [decide_eq_true some_]
  rfl

end

theorem ring_back {n : Nat} (lt : n < 2 ^ 32) : ((n + 1) % 2 ^ 32 + 2 ^ 32 - 1) % 2 ^ 32 = n := by omega

/-- The run that a FLIGHT_RUN packet at the head of a queue begins. -/
def Queue.headRun (q : Queue) (p : List Byte) (fid : Nat) (vals : List DWord) (fb : Bool) (next : Nat) : Run :=
  { fid := fid, ix := q.rptr, csn := q.counted.csn, patch := vals, fallback := fb, next := next, fblen := pkt p 0x1C 4
    fbaddr := BitVec.ofNat 64 (pkt p 0x28 8), pending := [], stopped := false, failed := false }

theorem Queue.run_headItem {q : Queue} {p : List Byte} {fid : Nat} (named : pkt p 0x18 1 = fid) (lt : q.rptr < 2 ^ 32) (vals : List DWord) (fb : Bool) (next : Nat) :
    (q.headItem p).run vals fb next = q.headRun p fid vals fb next := by
  subst named
  exact congrArg (fun n => ({ q.headRun p (pkt p 0x18 1) vals fb next with ix := n } : Run)) (ring_back lt)

/-- A FLIGHT_RUN packet at the head of a queue begins its run, or its fallback. -/
theorem State.headItem_runs {w : State} {q : Queue} {p : List Byte} {fid : Nat} (here : w.dev.queue? q.qid = some q.counted) (named : pkt p 0x18 1 = fid)
    (lt : q.rptr < 2 ^ 32) (vals : List DWord) (fb : Bool) (next : Nat) (more : next < if fb then pkt p 0x1C 4 else (w.dev.flight fid).treads.length) :
    ∃ t, w.beginRun (q.headItem p) vals fb next = t ∧ t.dev.queue? q.qid = some { q.counted.began p with run := some (q.headRun p fid vals fb next) } ∧
      (∀ k, k ≠ q.qid → t.dev.queue? k = w.dev.queue? k) ∧
      (∀ g, t.dev.flight g = if fb = false ∧ g = fid then { w.dev.flight fid with runs := (w.dev.flight fid).runs + 1 } else w.dev.flight g) ∧
      t = w.setDev { w.dev with queues := t.dev.queues, flights := t.dev.flights } := by
  subst named
  obtain ⟨f, keeps, at_, does⟩ := State.beginRun_goes (i := q.headItem p) here vals fb next more
  rw [Queue.run_headItem rfl lt] at at_
  refine ⟨_, does, ?_⟩
  cases fb
  case false =>
    have queue := Device.queue?_mapQueue_same (d := w.dev.mapFlight (pkt p 0x18 1) fun f => { f with runs := f.runs + 1 }) here keeps
    have others : ∀ k, k ≠ q.qid → _ := fun k =>
      (w.dev.mapFlight (pkt p 0x18 1) fun f => { f with runs := f.runs + 1 }).queue?_mapQueue_other (qid := q.qid) (k := k) keeps
    refine ⟨queue.trans (congrArg some at_), others, fun g => ?_, rfl⟩
    simp only [true_and]
    exact w.dev.flight_mapFlight (pkt p 0x18 1) g fun f => { f with runs := f.runs + 1 }
  case true =>
    exact ⟨(Device.queue?_mapQueue_same here keeps).trans (congrArg some at_), fun k other => w.dev.queue?_mapQueue_other keeps other,
      fun g => (if_neg (by simp)).symm, rfl⟩

/-- A FLIGHT_END in the queue that records its flight. -/
theorem actFlightEnd_ends {u : State} {i : Item} {fid : Nat} (named : pkt i.p 0x18 1 = fid) (records : i.q.recording = some fid) :
    u.actFlightEnd i = some ((u.setDev ((u.dev.mapFlight fid fun f => { f with
      state := if f.lost = true ∨ f.state = 3 then 3 else 2, ptgen := Store.get 0#64 u.dev.ptgen i.q.asid, glgen := u.glgenOf i.q.asid
      featgen := BitVec.ofNat 32 (u.dev.reg 0x50028) }).mapQueue i.q.qid fun q => { q with recording := none })).beginDone i) := by
  subst named
  exact if_neg (not_not_intro records)

/-! ## What a run issues (R366 to R368) -/

section
variable {s : State} {qid : Nat} {q : Queue} {r : Run} (here : s.dev.queue? qid = some q) (run : q.run = some r)
include here run

/-- A queue's run is due, or nothing is. -/
theorem State.runDue_cases : s.runDue qid = if s.dev.mayStart q = true ∧ r.stopped = false ∧ r.issued (s.dev.flight r.fid).treads.length = false then some (q, r)
    else none := by
  rw [State.runDue, here]
  dsimp only
  rw [run]

theorem exec_treadIssue_fallback (fb : r.fallback = true) : exec (.treadIssue qid) s = .next s := by
  show execTreadIssue qid s = _
  rw [execTreadIssue, State.runDue_cases here run]
  by_cases due : s.dev.mayStart q = true ∧ r.stopped = false ∧ r.issued (s.dev.flight r.fid).treads.length = false
  · rw [if_pos due]
    exact congrArg Host.Outcome.next (if_pos fb)
  · rw [if_neg due]

theorem exec_fallbackPacket_run (fb : r.fallback = false) : exec (.fallbackPacket qid) s = .next s := by
  show execFallbackPacket qid s = _
  rw [execFallbackPacket, State.runDue_cases here run]
  by_cases due : s.dev.mayStart q = true ∧ r.stopped = false ∧ r.issued (s.dev.flight r.fid).treads.length = false
  · rw [if_pos due]
    exact congrArg Host.Outcome.next (if_pos fb)
  · rw [if_neg due]

end

/-- The tread that a run is to issue next, patched, as an item of its queue. -/
def Queue.treadItem (q : Queue) (r : Run) (f : Flight) : Item :=
  { q := q, csn := (q.csn + 1) % 2 ^ 32, p := patched ((f.treads.getD r.next []).take 2 ++ [0#8, 0#8] ++ (f.treads.getD r.next []).drop 4) r.patch
    src := .tread r.next r.fid }

/-- A packet of a fallback list, as an item of its queue. -/
def Queue.fallbackItem (q : Queue) (r : Run) (p : List Byte) : Item := { q := q, csn := (q.csn + 1) % 2 ^ 32, p := p, src := .fallback r.next r.fid }

section
variable {s : State} {qid : Nat} {q : Queue} {r : Run} (due : s.runDue qid = some (q, r))
include due

theorem exec_treadIssue_struck (tread : r.fallback = false) (bad : (s.dev.flight r.fid).bad = true) : exec (.treadIssue qid) s = .next (
    (s.setDev (s.dev.mapFlight r.fid fun f => { f with state := 3 })).itemError (q.treadItem r (s.dev.flight r.fid)) 4 7 (r.next + r.fid * 2 ^ 32)) := by
  show execTreadIssue qid s = _
  rw [execTreadIssue, due]
  exact congrArg Host.Outcome.next ((if_neg (by simp [tread])).trans (if_pos bad))

theorem exec_treadIssue_starts (tread : r.fallback = false) (good : (s.dev.flight r.fid).bad = false)
    (free : barred (q.treadItem r (s.dev.flight r.fid)).p = false) (checks : packetCause s.dev (q.treadItem r (s.dev.flight r.fid)).p = none) :
    exec (.treadIssue qid) s = .next (s.startInRun (q.treadItem r (s.dev.flight r.fid))) := by
  show execTreadIssue qid s = _
  rw [execTreadIssue, due]
  refine congrArg Host.Outcome.next ((if_neg (by simp [tread])).trans ((if_neg (by simp [good])).trans ((if_neg fun h => ?_).trans ?_)))
  · exact absurd (free.symm.trans h.1) (by decide)
  · exact congrArg (fun c : Option Nat => match c with
      | some _ => s.itemError (q.treadItem r (s.dev.flight r.fid)) 4 6 (r.next + r.fid * 2 ^ 32)
      | none => s.startInRun (q.treadItem r (s.dev.flight r.fid))) checks

section
variable {v : State} {p : List Byte} (fb : r.fallback = true) (read : s.ccRead q.asid (r.fbaddr.toNat + 64 * r.next) 64 = (v, .ok p))
include fb read

theorem exec_fallbackPacket_flight (is : 7 ≤ typeOf p ∧ typeOf p ≤ 9) :
    exec (.fallbackPacket qid) s = .next (v.itemError (q.fallbackItem r p) 4 8 (r.next + r.fid * 2 ^ 32)) := by
  show execFallbackPacket qid s = _
  rw [execFallbackPacket, due]
  dsimp only
  rw [if_neg (by simp [fb]), read]
  exact congrArg Host.Outcome.next (if_pos is)

theorem exec_fallbackPacket_starts (plain : typeOf p < 7) (free : barred p = false) (checks : packetCause s.dev p = none) :
    exec (.fallbackPacket qid) s = .next (v.startInRun (q.fallbackItem r p)) := by
  show execFallbackPacket qid s = _
  rw [execFallbackPacket, due]
  dsimp only
  rw [if_neg (by simp [fb]), read]
  dsimp only
  rw [if_neg (by omega), if_neg (by simp [free]), checks]
  rfl

end
end

/-- A queue that has issued one more packet of its run, and that packet has completed. -/
def Queue.issued (q : Queue) (r : Run) (p : List Byte) : Queue :=
  { q with
    csn := (q.csn + 1) % 2 ^ 32, tcur := 0, run := some { r with next := r.next + 1 }
    started := q.started ++ if (p.getD 1 0#8).getLsbD 1 then
      [{ csn := (q.csn + 1) % 2 ^ 32, packet := p, run := some r.csn, done := true, failed := false }] else [] }

/-- A NOP that a run issues, with more behind it, completes at once. -/
theorem State.startInRun_issues {w : State} {qid : Nat} {q : Queue} {r : Run} {p : List Byte} {src : Src} (here : w.dev.queue? qid = some q)
    (run : q.run = some r) (going : r.stopped = false) (idle : q.recording = none) (mine : src ≠ .ring) (nop : typeOf p = 0)
    (fresh : (∀ x ∈ q.started, x.csn ≠ (q.csn + 1) % 2 ^ 32) ∧ (q.csn + 1) % 2 ^ 32 ∉ r.pending) (quiet : w.dev.trcOn = false)
    (more : r.next + 1 < if r.fallback then r.fblen else (w.dev.flight r.fid).treads.length) :
    ∃ t, w.startInRun { q := q, csn := (q.csn + 1) % 2 ^ 32, p := p, src := src } = t ∧ t.dev.queue? qid = some (q.issued r p) ∧
      (∀ k, k ≠ qid → t.dev.queue? k = w.dev.queue? k) ∧ t.dev.flights = w.dev.flights ∧ t.me = w.me ∧ t.co = w.co ∧ t.cx = w.cx ∧ t.turns = w.turns ∧
      (∀ a, a < w.dev.qdAddr qid + 0x18 ∨ w.dev.qdAddr qid + 0x40 ≤ a → t.dev.byte a = w.dev.byte a) := by
  obtain rfl : q.qid = qid := Device.queue?_qid here
  have keeps : ∀ q : Queue, ({ q with run := q.run.map fun r => { r with next := r.next + 1 } } : Queue).qid = q.qid := fun _ => rfl
  have advanced : (w.dev.advance q.qid).queue? q.qid = some { q with run := q.run.map fun r => { r with next := r.next + 1 } } :=
    Device.queue?_mapQueue_same here keeps
  have others : ∀ k, k ≠ q.qid → (w.dev.advance q.qid).queue? k = w.dev.queue? k := fun k => w.dev.queue?_mapQueue_other keeps
  rw [run] at advanced
  obtain ⟨u, set, starts⟩ := State.start_counts (s := w.setDev (w.dev.advance q.qid)) (i := { q := q, csn := (q.csn + 1) % 2 ^ 32, p := p, src := src })
    ((Device.trcOn_congr rfl).trans quiet) advanced (.inl idle)
  have untraced : u.dev.trcOn = false := set.untraced ((Device.trcOn_congr rfl).trans quiet)
  have flights : u.dev.flights = w.dev.flights := set.flights
  have flight : ∀ f, u.dev.flight f = w.dev.flight f := fun f => set.flight f
  obtain ⟨f, same, ended, does⟩ := State.beginDone_eq set.queue untraced fresh.1
    (fun r' is => by obtain rfl := Option.some.inj is; exact fresh.2)
    (fun r' is => by
      obtain rfl := Option.some.inj is
      exact ⟨going, decide_eq_false (Nat.not_le.2 (by rw [flight]; exact more))⟩)
  have issues : w.startInRun { q := q, csn := (q.csn + 1) % 2 ^ 32, p := p, src := src } = u.setDev (u.dev.mapQueue q.qid f) := by
    rw [State.startInRun, starts]
    dsimp only
    rw [nop]
    exact congrArg (Option.getD · w) (congrArg some does)
  have state : { u with dev := w.dev } = w := (congrArg (fun s : State => s.setDev w.dev) set.rest.2 :)
  refine ⟨_, issues, ?_, fun k other => ?_, flights, (congrArg State.me state :), (congrArg State.co state :), (congrArg State.cx state :),
    (congrArg State.turns state :), set.bytes⟩
  · refine (Device.queue?_mapQueue_same set.queue same).trans (congrArg some (ended.trans ?_))
    have ring : (src != Src.ring) = true := bne_iff_ne.2 mine
    simp only [Queue.endedBy, Queue.issued, csigOf, ring, if_true, Option.map_some]
  · exact (u.dev.queue?_mapQueue_other same other).trans ((set.others k other).trans (others k other))

/-- Settles O51. Log entries 40 and 61 (packets are numbered from CSN + 1) and 54 (a queue has one run at a time) are the model's choices that the
statement takes over. -/
theorem flights : Obligations.Flights := by
  unfold Obligations.Flights
  intro only owns flight
  refine ⟨fun s qid q p head => ?head, fun s qid fid q p here may due lt noRun records packet checks patchable done quiet is named => ?end_,
    fun s qid q r here may run going idle => ?run⟩
  case head =>
    obtain rfl : q.qid = qid := Device.queue?_qid head.queue
    obtain ⟨u, set, counts⟩ := head.counts
    refine ⟨u, set, ?_⟩
    obtain ⟨-, -, -, -, noRun, noRecording⟩ := head.runs
    intro ty c fid f
    have named : pkt p 0x18 1 = fid := rfl
    clear_value fid
    have same : u.dev.flight fid = f := set.flight fid
    have owned : u.dev.ownsFlight fid q.asid = true ↔ owns s fid q.asid := by
      rw [ownsFlight_iff, set.reg]
    have fails : ∀ (cause : Nat) {i : Instr} {act : State → Item → Option State}, exec i s = .next ((act u (q.headItem p)).getD s) →
        act u (q.headItem p) = some (u.itemError (q.headItem p) 4 cause (fid * 2 ^ 32)) →
        ∃ t, exec i s = .next t ∧ QueueFailed u t q.qid c (4 * 256 + cause) c.csn (fid * 2 ^ 32) := fun _ _ _ does is =>
      ⟨_, does.trans (by rw [is]; rfl), head.fails set ..⟩
    have begins : ty = 7 → exec (.flightBeginPacket q.qid) s = .next ((State.actFlightBegin u (q.headItem p)).getD s) := fun is =>
      congrArg Host.Outcome.next (counts _ _ (beq_iff_eq.2 is))
    have ends : ty = 8 → exec (.flightEndPacket q.qid) s = .next ((State.actFlightEnd u (q.headItem p)).getD s) := fun is =>
      congrArg Host.Outcome.next (counts _ _ (beq_iff_eq.2 is))
    have runs : ty = 9 → exec (.flightRunPacket q.qid) s = .next ((State.actFlightRun u (q.headItem p)).getD s) := fun is =>
      congrArg Host.Outcome.next (counts _ _ (beq_iff_eq.2 is))
    refine ⟨fun is foreign => ?_, fun is mine busy => ?_, fun is mine empty idle => ?_, fun is => ?_, fun is foreign => ?_, fun is mine recording => ?_,
      fun is mine ready few => ?_, fun is mine ready enough fresh v bs read => ?_⟩
    · exact fails 1 (begins is) (actFlightBegin_foreign named (Bool.eq_false_iff.2 (mt owned.1 foreign)))
    · exact fails 2 (begins is) (actFlightBegin_busy named (owned.2 mine) (same ▸ busy))
    · obtain ⟨t, does, here, others, flights, rest⟩ := State.headItem_completes (x := some fid) set.queue rfl
        (set.untraced head.quiet) head.fresh noRun fid fun _ => { Flight.empty with state := 1, gguard := bit (pkt p 0x19 1) 0 }
      refine ⟨t, (begins is).trans (congrArg Host.Outcome.next ?_), ⟨here, others⟩, ?_, rest⟩
      · rw [actFlightBegin_empties named (owned.2 mine) (by rw [same]; exact not_or.2 ⟨empty, Nat.not_lt.2 (Nat.le_of_eq idle)⟩) noRecording]
        exact does
      · rw [bit_eq_testBit] at flights
        exact flights
    · exact fails 4 (ends is) (actFlightEnd_foreign named (by simp [Queue.headItem, noRecording]))
    · exact fails 1 (runs is) (actFlightRun_foreign named noRun (Bool.eq_false_iff.2 (mt owned.1 foreign)))
    · exact fails 2 (runs is) ((actFlightRun_checked named noRun (owned.2 mine) noRecording).trans (if_pos (same ▸ recording)))
    · exact fails 6 (runs is) ((actFlightRun_checked named noRun (owned.2 mine) noRecording).trans ((if_neg (same ▸ ready)).trans (if_pos (same ▸ few))))
    · intro run
      have guarded : State.actFlightRun u (q.headItem p) = u.actGuarded (q.headItem p) :=
        (actFlightRun_checked named noRun (owned.2 mine) noRecording).trans ((if_neg (same ▸ ready)).trans ((if_neg (by rw [same]; exact Nat.not_lt.2 enough)).trans
          (if_neg (by rw [bit_eq_testBit]; exact Bool.eq_false_iff.1 fresh))))
      rw [← named] at same
      refine ⟨fun w guard here more still => ?_, fun w k guard here quiet some_ still => ?_⟩
      · rw [← same] at guard
        obtain ⟨t, does, queue, others, flights, rest⟩ := State.headItem_runs here named head.due.2
          ((List.range (pkt p 0x19 1 % 128)).map fun k => BitVec.ofNat 64 (pkt bs (8 * k) 8)) false q.tcur (by rw [if_neg (by decide), still]; exact more)
        rw [still] at flights
        exact ⟨t, (runs is).trans (congrArg Host.Outcome.next (by rw [guarded, actGuarded_runs (i := q.headItem p) read guard]; exact does)), ⟨queue, others⟩,
          ⟨(flights _).trans (if_pos ⟨rfl, rfl⟩), fun n other => (flights n).trans (if_neg fun h => other h.2)⟩, rest⟩
      · rw [← same] at guard
        obtain ⟨d, posted, falls⟩ := actGuarded_fallsBack (i := q.headItem p) read guard some_
        obtain ⟨queues, lost, count⟩ := posted ▸ Device.post_rest ..
        have queue : d.queue? q.qid = some q.counted := (Device.queue?_congr queues _).trans here
        obtain ⟨t, does, queue, others, flights, rest⟩ := State.headItem_runs (w := w.setDev d) queue named head.due.2 [] true 0 some_
        have after : ∀ g, d.flight g = if g = fid then { f with state := 3 } else w.dev.flight g := fun g => by
          rw [Device.flight, lost, ← still]
          exact named ▸ w.dev.flight_mapFlight ..
        refine ⟨t, (runs is).trans (congrArg Host.Outcome.next (by rw [guarded, falls]; exact does)), ⟨queue, fun n other => ?_⟩,
          ⟨?_, fun n other => ?_⟩, ?_, ?_⟩
        · exact (others n other).trans (Device.queue?_congr queues n)
        · exact (flights fid).trans ((if_neg (by simp)).trans ((after fid).trans (if_pos rfl)))
        · exact (flights n).trans ((if_neg (by simp)).trans ((after n).trans (if_neg other)))
        · rw [rest]
          exact count
        · rw [rest]
          rfl
  case end_ =>
    obtain rfl : q.qid = qid := Device.queue?_qid here
    have type : typeOf p = 8 := congrArg BitVec.toNat is
    obtain ⟨u, set, counts⟩ := State.processHead_counts here may due noRun packet checks (by rw [patchable, Bool.and_false]) (fun _ x mem => (done x mem).1) quiet
      (.inr (by omega))
    obtain ⟨t, does, queue, others, flights, rest⟩ := State.headItem_completes (x := none) set.queue rfl (set.untraced quiet) (fun x mem => (done x mem).2) noRun fid
      fun f => { f with
        state := if f.lost = true ∨ f.state = 3 then 3 else 2, ptgen := Store.get 0#64 u.dev.ptgen q.asid, glgen := u.glgenOf q.asid
        featgen := BitVec.ofNat 32 (u.dev.reg 0x50028) }
    have ends : exec (.flightEndPacket q.qid) s = .next t := by
      refine (congrArg Host.Outcome.next (counts (· == 8) State.actFlightEnd (beq_iff_eq.2 type))).trans (congrArg Host.Outcome.next ?_)
      rw [actFlightEnd_ends (i := q.headItem p) named records]
      exact does
    rw [set.flight, State.glgenOf, set.context?, set.reg, Device.ptgen_of_unqueued set.rest.1] at flights
    exact ⟨u, t, set, ends, ⟨queue, others⟩, flights, rest⟩
  case run =>
    obtain rfl : q.qid = qid := Device.queue?_qid here
    intro csn issued nop fresh f
    have due : r.issued (s.dev.flight r.fid).treads.length = false → s.runDue q.qid = some (q, r) := fun more =>
      (State.runDue_cases here run).trans (if_pos ⟨may, going, more⟩)
    have live : q.qstate = 1 := by
      simp only [Device.mayStart, Bool.and_eq_true, beq_iff_eq] at may
      exact may.1.1.1.1
    have plain : ∀ p, nop p → barred p = false ∧ typeOf p = 0 := fun p ⟨first, open_, _⟩ =>
      ⟨Bool.eq_false_iff.2 fun bars => by
        rcases (barred_iff p).1 bars with h | h
        · exact absurd (open_.symm.trans h) (by decide)
        · exact absurd (first.symm.trans h) (by decide), congrArg BitVec.toNat first⟩
    have stays : ∀ k, (Src.tread r.next r.fid).place = some k → r.next = k := fun k is => Option.some.inj is
    refine ⟨fun tread more bad pending => ?_, fun tread more good isFresh quiet => ?_, fun fb v p read still => ⟨fun more isFresh quiet isNop => ?_, fun more is pending => ?_⟩,
      exec_treadIssue_fallback here run, exec_fallbackPacket_run here run⟩
    · have failed := QueueFailed.of_itemError (s := s.setDev (s.dev.mapFlight r.fid fun f => { f with state := 3 })) (i := q.treadItem r f) here (by omega) idle
        (fun r' is => by obtain rfl := Option.some.inj (run.symm.trans is); exact ⟨pending, stays⟩) 4 7 (r.next + r.fid * 2 ^ 32)
      exact ⟨_, exec_treadIssue_struck (due (decide_eq_false (by rw [tread]; exact Nat.not_le.2 more))) tread bad, failed.queue, failed.others, failed.posted,
        (congrArg (fun t : State => t.setDev s.dev) failed.rest :)⟩
    · intro p isNop
      obtain ⟨free, type⟩ := plain p isNop
      obtain ⟨t, does, facts⟩ := State.startInRun_issues (src := .tread r.next r.fid) here run going idle (by simp) type isFresh quiet
        (by rw [tread]; exact more)
      exact ⟨t, (exec_treadIssue_starts (due (decide_eq_false (by rw [tread]; exact Nat.not_le.2 (Nat.lt_of_succ_lt more)))) tread good free isNop.2.2).trans
        (congrArg Host.Outcome.next does), facts⟩
    · obtain ⟨free, type⟩ := plain p isNop
      obtain ⟨t, does, facts⟩ := State.startInRun_issues (src := .fallback r.next r.fid) still run going idle (by simp) type isFresh quiet
        (by rw [fb]; exact more)
      exact ⟨t, (exec_fallbackPacket_starts (due (decide_eq_false (by rw [fb]; exact Nat.not_le.2 (Nat.lt_of_succ_lt more)))) fb read (by omega) free isNop.2.2).trans
        (congrArg Host.Outcome.next does), facts⟩
    · have failed := QueueFailed.of_itemError (s := v) (i := q.fallbackItem r p) still (by omega) idle
        (fun r' is => by obtain rfl := Option.some.inj (run.symm.trans is); exact ⟨pending, stays⟩) 4 8 (r.next + r.fid * 2 ^ 32)
      exact ⟨_, exec_fallbackPacket_flight (due (decide_eq_false (by rw [fb]; exact Nat.not_le.2 more))) fb read is, failed⟩

end Sys2Proof.Machine
end

section
/-!
SUPPORT. The record unit (R392, R393, R400), signed statements (R412 to R416) and the trace unit (R405 to R408).
-/
namespace Sys2Proof.Machine

/-! ## RECCTL (R392, R393) -/

/-- A write to RECCTL that R393 refuses. -/
def State.recBad (s : State) (w : RegWrite) (new : Nat) : Prop :=
  (Covers w 16 ∧ bits new 17 16 ≠ 0 ∧ ((s.dev.reg 0x60000).testBit 31 = true ∨ ¬ (1 ≤ bits (s.dev.reg 0x60008) 5 0 ∧ bits (s.dev.reg 0x60008) 5 0 ≤ 32 ∧
      inHbm (bits (s.dev.reg 0x60008) 47 30 * 2 ^ 30) (bits (s.dev.reg 0x60008) 5 0 * 2 ^ 30) = true) ∨ (s.dev.reg 0x70020).testBit 1 = false)) ∨
    ((s.dev.reg 0x60000).testBit 31 = true ∧ bits new 11 0 ≠ bits (s.dev.reg 0x60000) 11 0)

theorem Device.recRingOk_iff (d : Device) : d.recRingOk = true ↔ 1 ≤ bits (d.reg 0x60008) 5 0 ∧ bits (d.reg 0x60008) 5 0 ≤ 32 ∧
    inHbm (bits (d.reg 0x60008) 47 30 * 2 ^ 30) (bits (d.reg 0x60008) 5 0 * 2 ^ 30) = true := by
  rw [Device.recRingOk, Bool.and_eq_true, decide_eq_true_iff, and_assoc]

/-- The machine with a write of RECCTL stored. -/
def State.recStored (s : State) (w : RegWrite) : State := s.setDev (s.dev.regStoreAs w (fieldMask 17 16 + fieldMask 11 0) (2 ^ 30))

section
variable {s : State} {w : RegWrite} (legal : w.ok = true) (base : w.base = 0x60000)
include legal base

theorem State.recStored_written : Written w 0x60000 (2 ^ 18 - 2 ^ 16 + (2 ^ 12 - 1)) (2 ^ 30) s (s.recStored w) :=
  State.regStoredAs_written s legal base ..

open Classical in
theorem State.recctl_eq : s.recctl w = if s.recBad w ((s.recStored w).dev.reg 0x60000) then s.setDev (s.dev.setReg 0x60000 (s.dev.reg 0x60000 ||| 2 ^ 30))
    else if Covers w 16 ∧ bits ((s.recStored w).dev.reg 0x60000) 17 16 = 0 ∧ (s.dev.reg 0x60000).testBit 31 = true then
      s.setDev ((s.recStored w).dev.endRecording (bits (s.dev.reg 0x60000) 17 16))
    else s.recStored w := by
  have stored : (s.recStored w).dev = s.dev.setReg 0x60000 (ctrlMerge (s.dev.reg 0x60000) (fieldMask 17 16 + fieldMask 11 0) (2 ^ 30) w.cover w.placed) := by
    rw [State.recStored, State.setDev_dev, Device.regStoreAs, base]
  have value : (s.recStored w).dev.reg 0x60000 = ctrlMerge (s.dev.reg 0x60000) (fieldMask 17 16 + fieldMask 11 0) (2 ^ 30) w.cover w.placed := by
    rw [stored, Device.reg_setReg, if_pos rfl]
  have whole : s.recStored w = s.setDev (s.dev.setReg 0x60000 _) := congrArg s.setDev stored
  rw [value, stored, whole]
  unfold State.recctl
  rw [if_neg (by simp [legal])]
  generalize ctrlMerge (s.dev.reg 0x60000) (fieldMask 17 16 + fieldMask 11 0) (2 ^ 30) w.cover w.placed = new
  refine if_congr ?_ rfl ((apply_ite s.setDev ..).trans (if_congr ?_ rfl rfl))
  · simp only [State.recBad, ← Device.recRingOk_iff, Bool.not_eq_true, RegWrite.bit_cover legal, bit_eq_testBit, Bool.or_eq_true, Bool.and_eq_true, decide_eq_true_eq, bne_iff_ne, Bool.not_eq_true', and_assoc,
      or_assoc]
  · simp only [RegWrite.bit_cover legal, bit_eq_testBit, Bool.and_eq_true, decide_eq_true_eq, beq_iff_eq, and_assoc]

theorem State.recctl_bad (bad : s.recBad w ((s.recStored w).dev.reg 0x60000)) :
    s.recctl w = s.setDev (s.dev.setReg 0x60000 (s.dev.reg 0x60000 ||| 2 ^ 30)) := by rw [State.recctl_eq legal base, if_pos bad]

variable (good : ¬ s.recBad w ((s.recStored w).dev.reg 0x60000))
include good

theorem State.recctl_goesOn (goesOn : ¬ (Covers w 16 ∧ bits ((s.recStored w).dev.reg 0x60000) 17 16 = 0 ∧ (s.dev.reg 0x60000).testBit 31 = true)) :
    s.recctl w = s.recStored w := by rw [State.recctl_eq legal base, if_neg good, if_neg goesOn]

theorem State.recctl_ends (ends : Covers w 16 ∧ bits ((s.recStored w).dev.reg 0x60000) 17 16 = 0 ∧ (s.dev.reg 0x60000).testBit 31 = true) :
    s.recctl w = s.setDev ((s.recStored w).dev.endRecording (bits (s.dev.reg 0x60000) 17 16)) := by rw [State.recctl_eq legal base, if_neg good, if_pos ends]

end

/-! ## Pages (R393, R400) -/

/-- The oldest page of a source that holds records. -/
theorem takePage_first {source : Nat} {pre post : List RecPage} {p : RecPage} (is : p.source = source) (full : p.recs ≠ [])
    (first : ∀ q ∈ pre, q.source ≠ source ∨ q.recs = []) : takePage source (pre ++ p :: post) = some (p, pre ++ post) := by
  induction pre with
  | nil => exact if_pos ⟨is, by simpa using full⟩
  | cons q pre ih =>
    refine (if_neg fun h => ?_).trans ?_
    · rcases first q (by simp) with other | empty
      · exact other h.1
      · simp [empty] at h
    · show (takePage source (pre ++ p :: post)).map _ = _
      rw [ih fun q mem => first q (by simp [mem])]
      rfl

theorem takePage_none {source : Nat} {pages : List RecPage} (empty : ∀ p ∈ pages, p.recs = []) : takePage source pages = none := by
  induction pages with
  | nil => rfl
  | cons q pages ih =>
    refine (if_neg fun h => by simp [empty q (by simp)] at h).trans ?_
    rw [ih fun p mem => empty p (by simp [mem])]
    rfl

theorem Device.endIfEmpty_open {d : Device} (open_ : d.recUnit.closing = false) : d.endIfEmpty = d := by
  rw [Device.endIfEmpty, open_]
  rfl

/-- The record unit once a recording has ended and no page is left to write. -/
def RecUnit.emptied (u : RecUnit) : RecUnit := { u with closing := false, pages := [], expect := [] }

theorem Device.setField_recUnit (d : Device) (o hi lo v : Nat) : (d.setField o hi lo v).recUnit = d.recUnit := rfl

/-- A recording that ends with no page to write. -/
theorem Device.endRecording_empty {d : Device} {mode : Nat} (records : mode ≠ 3) (empty : ∀ p ∈ d.recUnit.pages, p.recs = []) :
    d.endRecording mode = ({ d with recUnit := d.recUnit.emptied } : Device).setField 0x60000 31 31 0 := by
  have none_ : ∀ (ps : List RecPage) (e : Device), (∀ p ∈ e.recUnit.pages, p.recs = []) →
      ps.foldl (fun d p => d.completeRec p.source (decide (mode = 2))) e = e := fun ps => by
    induction ps with
    | nil => exact fun _ _ => rfl
    | cons p ps ih =>
      intro e all
      have stays : e.completeRec p.source (decide (mode = 2)) = e := by rw [Device.completeRec, takePage_none all]
      rw [List.foldl_cons, stays, ih e all]
  rw [Device.endRecording, if_neg records]
  dsimp only
  rw [none_ _ { d with recUnit := { d.recUnit with closing := true } } empty]
  refine if_pos ?_
  rw [Bool.and_eq_true, List.all_eq_true]
  exact ⟨rfl, fun p mem => by rw [empty p mem]; rfl⟩

/-! ## A record in a ring -/

/-- A run of bytes written, and a field of a register that counts it. -/
def Device.ringWrite (d : Device) (a : Nat) (bs : List Byte) (o hi lo v : Nat) : Device := (d.putP a bs 0#64).setField o hi lo v

section
variable (d : Device) (a : Nat) (bs : List Byte) (o hi lo v : Nat)

theorem Device.ringWrite_byte (x : Nat) : (d.ringWrite a bs o hi lo v).byte x = if a ≤ x ∧ x < a + bs.length then bs.getD (x - a) 0#8 else d.byte x :=
  putP_byte ..

theorem Device.ringWrite_reg (x : Nat) : (d.ringWrite a bs o hi lo v).reg x = if x = o then Machine.putBits (d.reg o) hi lo v else d.reg x := by
  have same : ∀ x, (d.putP a bs 0#64).reg x = d.reg x := Device.reg_congr (Device.ctrl_of_elsewhere (putP_elsewhere ..))
  rw [Device.ringWrite, Device.reg_setField, same, same]

theorem Device.ringWrite_rest : (d.ringWrite a bs o hi lo v).recUnit = d.recUnit ∧ (d.ringWrite a bs o hi lo v).statements = d.statements ∧
    (d.ringWrite a bs o hi lo v).retiring = d.retiring ∧ (d.ringWrite a bs o hi lo v).traceLost = d.traceLost := by
  have outer : ∀ e f : Device, e.elsewhere = f.elsewhere → (e.setField o hi lo v).recUnit = f.recUnit ∧ (e.setField o hi lo v).statements = f.statements ∧
      (e.setField o hi lo v).retiring = f.retiring ∧ (e.setField o hi lo v).traceLost = f.traceLost :=
    fun e f h => ⟨(congrArg Device.recUnit h :), (congrArg Device.statements h :), (congrArg Device.retiring h :), (congrArg Device.traceLost h :)⟩
  exact outer _ _ (putP_elsewhere ..)

end

section
variable {d : Device} {source : Nat} {p : RecPage} {ps : List RecPage} (taken : takePage source d.recUnit.pages = some (p, ps))
include taken

theorem Device.completeRec_room (room : d.recFull = false) (lossy : Bool) : d.completeRec source lossy =
    ({ d with recUnit := { d.recUnit with pages := ps } } : Device).ringWrite (d.recAt d.recDev) (p.bytes d.recDev) 0x60010 63 32 (d.recDev + 1) := by
  rw [Device.completeRec, taken]
  dsimp only
  rw [if_neg (by simp [room])]
  rfl

theorem Device.completeRec_full (full : d.recFull = true) (lossy : Bool) : d.completeRec source lossy =
    if lossy then { d with recUnit := { d.recUnit with pages := carryLoss source (p.lost + 1) ps } } else d := by
  rw [Device.completeRec, taken]
  dsimp only
  rw [if_pos full]

end

/-- RECORD_PAGE_COMPLETE while no recording ends. -/
theorem exec_recordPageComplete {s : State} {source : Nat} {d : Device}
    (does : s.dev.completeRec source (decide (s.recMode = 2)) = d) (still : d.recUnit.closing = false) :
    exec (.recordPageComplete source) s = .next (s.setDev d) := by
  subst does
  exact congrArg (fun d => Host.Outcome.next (s.setDev d)) (Device.endIfEmpty_open still)

/-! ## Statements (R412 to R416) -/

/-- The statement that JOBREQ asks for. -/
def Device.jobStatement (d : Device) : Statement :=
  { kind := 2
    flags := if (List.range 512).any fun i => bit ((d.jobBytes 0x10 64).getD (i / 8) 0#8).toNat (i % 8) && d.reg (0x10000 + 8 * i) == 0 then 1 else 0
    retno := d.boot.retno + 1, head := d.jobBytes 0 16
    body := leBytes 2 d.num ++ leBytes 6 0 ++ d.jobBytes 0x10 64 ++ d.measurement ++ List.replicate 920 0#8 }

theorem Device.jobreq_room {d : Device} (room : d.statements.length < 64) :
    d.jobreq.statements = d.statements ++ [d.jobStatement] ∧ d.jobreq.boot.retno = d.boot.retno + 1 := by
  have roomy : d.signRoom = true := decide_eq_true room
  rw [Device.jobreq, if_pos roomy]
  exact ⟨rfl, rfl⟩

theorem Device.jobreq_full {d : Device} (full : 64 ≤ d.statements.length) : d.jobreq = d.setReg 0x60350 1 :=
  if_neg (by simp [Device.signRoom, full])

theorem Device.jobreq_flags (d : Device) : d.jobStatement.flags = 1 ↔
    ∃ i, i < 512 ∧ ((d.jobBytes 0x10 64).getD (i / 8) 0#8).toNat.testBit (i % 8) = true ∧ d.reg (0x10000 + 8 * i) = 0 := by
  have lost : ((List.range 512).any fun i => bit ((d.jobBytes 0x10 64).getD (i / 8) 0#8).toNat (i % 8) && d.reg (0x10000 + 8 * i) == 0) = true ↔
      ∃ i, i < 512 ∧ ((d.jobBytes 0x10 64).getD (i / 8) 0#8).toNat.testBit (i % 8) = true ∧ d.reg (0x10000 + 8 * i) = 0 := by
    simp only [List.any_eq_true, List.mem_range, Bool.and_eq_true, bit_eq_testBit, beq_iff_eq]
  rw [← lost, Device.jobStatement]
  dsimp only
  split
  next h => exact ⟨fun _ => h, fun _ => rfl⟩
  next h => exact ⟨fun is => absurd is (by decide), fun is => absurd is h⟩

/-- The statement of a context that retires at the driver's asking. -/
def State.contextStatement (s : State) : Statement :=
  { kind := 1, flags := (if s.cx.replayed then 1 else 0) + 0 + (if s.cx.sat ≠ 0#128 then 4 else 0), retno := s.dev.boot.retno + 1
    head := leBytes 8 s.cx.ctxid ++ leBytes 2 s.cx.asid ++ leBytes 6 0, body := s.cx.cntBytes }

/-- A context that is not recorded retires at the driver's asking. -/
theorem State.retireContext_facts {s : State} (off : (s.dev.reg 0x60000).testBit 31 = false) :
    (s.retireContext false).cx = Context.null ∧ (s.retireContext false).dev.statements = s.dev.statements ++ [s.contextStatement] ∧
      (s.retireContext false).dev.boot.retno = s.dev.boot.retno + 1 ∧ (s.retireContext false).dev.contexts = s.dev.contexts ∧
      (s.retireContext false).me = s.me ∧ (s.retireContext false).co = s.co ∧ (s.retireContext false).turns = s.turns := by
  rw [State.retireContext]
  dsimp only
  generalize added : s.dev.addStatement 1 _ _ _ = d
  have same : d.reg 0x60000 = s.dev.reg 0x60000 := Device.reg_congr (by rw [← added]; rfl) _
  rw [same, bit_eq_testBit, off, if_neg (fun h => absurd h.1 (by decide))]
  subst added
  exact ⟨rfl, rfl, rfl, rfl, rfl, rfl, rfl⟩

theorem exec_ctxretGo {w : RegWrite} {s : State} (legal : w.ok = true) : exec (.ctxretGo w) s = .next (
    if w.sets 0x60210 16 = true then
      (if bit (s.dev.reg 0x60210) 31 = true ∨ s.hasLaunch (bits ((s.regStored w).dev.reg 0x60210) 11 0) = true then
        (s.regStored w).setDev ((s.regStored w).dev.setField 0x60210 30 30 1) else (s.regStored w).ctxret)
    else s.regStored w) := by
  show execCtxretGo w s = _
  rw [execCtxretGo, if_neg (by simp [legal])]
  rfl

theorem State.ctxret_full {u : State} (full : 64 ≤ u.dev.statements.length) : u.ctxret = u.setDev (u.dev.setField 0x60210 31 31 1) := by
  have none_ : u.dev.signRoom = false := decide_eq_false (by omega)
  rw [State.ctxret, none_]
  exact if_neg (by decide)

/-- The current context, which no company stands in, retires. -/
theorem State.onContext_retire {t : State} (bare : Bare t) {asid : Nat} (here : t.cx.asid = asid) :
    (if (t.cx.asid == asid && t.cx.alive) = true then t.parkCo else t).onContext asid (fun u => u.retireContext false) = t.retireContext false := by
  subst here
  rw [if_pos (by simp [bare.cx]), bare.parkCo]
  exact t.onContext_here bare.me bare.cx _

/-- CTXRET's context is the current one, which no company stands in. -/
theorem State.ctxret_here {u : State} (bare : Bare u) (room : u.dev.statements.length < 64) (here : u.cx.asid = bits (u.dev.reg 0x60210) 11 0) :
    u.ctxret = (u.setDev (u.dev.setField 0x60210 31 31 0)).retireContext false := by
  have roomy : u.dev.signRoom = true := decide_eq_true room
  have bare' : ∀ d, Bare (u.setDev d) := fun _ => ⟨bare.me, bare.co, bare.cx⟩
  have retired : ∀ d, _ := fun d => State.onContext_retire (bare' d) here
  rw [State.ctxret, roomy]
  exact (if_pos rfl).trans (retired _)

theorem Device.sigRoom_iff (d : Device) : d.sigRoom = true ↔ 4 ≤ bits (d.reg 0x60200) 3 0 ∧ bits (d.reg 0x60200) 3 0 ≤ 12 ∧
    (bits (d.reg 0x60208) 63 32 + 2 ^ 32 - bits (d.reg 0x60208) 31 0) % 2 ^ 32 < 2 ^ bits (d.reg 0x60200) 3 0 := by
  rw [Device.sigRoom, Bool.and_eq_true, decide_eq_true_iff, decide_eq_true_iff, and_assoc]
  exact Iff.rfl

/-- What waits for the place of a statement just written: CTXRET, JOBREQ, or a context that a trap ended (R416). -/
def State.freedPlace (t : State) : State :=
  if bit (t.dev.reg 0x60210) 31 then t.ctxret
  else if t.dev.reg 0x60350 = 1 then t.setDev t.dev.jobreq
  else match t.dev.retiring with
    | a :: as =>
      let u := t.setDev { t.dev with retiring := as }
      let u := if u.cx.alive && u.cx.asid == a then u.parkCo else u
      u.onContext a fun v => v.retireContext true
    | [] => t

theorem State.freedPlace_none {t : State} (noContext : (t.dev.reg 0x60210).testBit 31 = false) (noJob : t.dev.reg 0x60350 ≠ 1) (noTrap : t.dev.retiring = []) :
    t.freedPlace = t := by
  rw [State.freedPlace, bit_eq_testBit, noContext, if_neg Bool.false_ne_true, if_neg noJob, noTrap]

/-- The oldest held statement is written, and what waits takes its place. -/
theorem exec_statementWrite {s : State} {x : Statement} {xs : List Statement} (held : s.dev.statements = x :: xs) (room : s.dev.sigRoom = true) :
    exec .statementWrite s = .next (s.setDev { s.dev.ringWrite (bits (s.dev.reg 0x60200) 47 16 * 0x10000 + 4096 * (bits (s.dev.reg 0x60208) 63 32 % 2 ^ s.dev.sigLog2))
      x.bytes 0x60208 63 32 (bits (s.dev.reg 0x60208) 63 32 + 1) with statements := xs }).freedPlace := by
  show execStatementWrite s = _
  rw [execStatementWrite, held]
  dsimp only
  rw [if_pos room]
  rw [Device.ringWrite]
  generalize (s.dev.putP _ _ _).setField _ _ _ _ = d
  rfl

theorem exec_statementWrite_idle {s : State} (idle : s.dev.statements = [] ∨ ¬ s.dev.sigRoom = true) : exec .statementWrite s = .next s := by
  show execStatementWrite s = _
  rw [execStatementWrite]
  rcases idle with none_ | full
  · rw [none_]
  · split
    · rfl
    · rw [if_neg full]

theorem Device.statements_rest (d : Device) (xs : List Statement) : (∀ o, ({ d with statements := xs } : Device).reg o = d.reg o) ∧
    (∀ a, ({ d with statements := xs } : Device).byte a = d.byte a) ∧ ({ d with statements := xs } : Device).retiring = d.retiring :=
  ⟨fun o => Device.reg_congr rfl o, fun _ => rfl, rfl⟩

/-- The context retires from a machine of which a register was set. -/
theorem RegSet.retired {s v : State} {o n : Nat} (set : RegSet s v o n) (other : o ≠ 0x60000) (off : (s.dev.reg 0x60000).testBit 31 = false) :
    (v.retireContext false).cx = Context.null ∧ (v.retireContext false).dev.statements = s.dev.statements ++ [s.contextStatement] ∧
      (v.retireContext false).dev.boot.retno = s.dev.boot.retno + 1 ∧ (v.retireContext false).dev.contexts = s.dev.contexts ∧
      (v.retireContext false).me = s.me ∧ (v.retireContext false).co = s.co ∧ (v.retireContext false).turns = s.turns := by
  have facts := v.retireContext_facts (by rw [set.others _ other.symm, off])
  have made : v.contextStatement = s.contextStatement := by rw [set.rest]; rfl
  rw [made, set.dev, show v.me = s.me from (congrArg State.me set.rest :), show v.co = s.co from (congrArg State.co set.rest :),
    show v.turns = s.turns from (congrArg State.turns set.rest :)] at facts
  exact facts

/-- The current context has no launch, or has one and the ASID no other context. -/
theorem State.hasLaunch_here {s : State} (alive : s.cx.alive = true) (some_ : s.cx.launches ≠ []) (others : ∀ c ∈ s.dev.contexts, c.asid ≠ s.cx.asid) :
    s.hasLaunch s.cx.asid = true := by
  rw [State.hasLaunch, State.context?_here alive others]
  simpa using some_

theorem State.hasLaunch_none {s : State} {asid : Nat} (none_ : ∀ c ∈ s.contexts, c.asid = asid → c.launches = []) : s.hasLaunch asid = false := by
  rw [State.hasLaunch, State.context?]
  cases found : s.contexts.find? fun c => c.asid == asid with
  | none => rfl
  | some c =>
    have launches := none_ c (List.mem_of_find?_eq_some found) (by simpa using List.find?_some found)
    simp [launches]

end Sys2Proof.Machine
end

section
/-!
SUPPORT. The trace unit (R405 to R408, R32), TRACE_STOP and #CBKPT (R403).
-/
namespace Sys2Proof.Machine

/-! ## Trace records (R405 to R407) -/

/-- The trace unit is on and the type is one that TRCCTL enables (R405). -/
def Device.Traces (d : Device) (type : Nat) : Prop :=
  ((d.reg 0x60108).testBit 0 = true ∧ 10 ≤ bits (d.reg 0x60100) 4 0 ∧ bits (d.reg 0x60100) 4 0 ≤ 26) ∧
    if 1 ≤ type ∧ type ≤ 4 then (d.reg 0x60108).testBit 1 = true else if type = 5 ∨ type = 6 then (d.reg 0x60108).testBit 2 = true
      else if type = 7 then (d.reg 0x60108).testBit 3 = true else 8 ≤ type ∧ type ≤ 10

theorem Device.traces_iff (d : Device) (type : Nat) : (d.trcOn && d.trcEnables type) = true ↔ d.Traces type := by
  have enables : d.trcEnables type = true ↔ if 1 ≤ type ∧ type ≤ 4 then (d.reg 0x60108).testBit 1 = true
      else if type = 5 ∨ type = 6 then (d.reg 0x60108).testBit 2 = true
      else if type = 7 then (d.reg 0x60108).testBit 3 = true else 8 ≤ type ∧ type ≤ 10 := by
    unfold Device.trcEnables
    dsimp only
    split
    · rw [bit_eq_testBit]
    · split
      · rw [bit_eq_testBit]
      · split
        · rw [bit_eq_testBit]
        · exact decide_eq_true_iff
  rw [Bool.and_eq_true, enables, Device.trcOn, Bool.and_eq_true, decide_eq_true_iff, bit_eq_testBit]
  rfl

/-- Records that the trace unit has made and the driver has not read. -/
def Device.traceHeld (d : Device) : Nat := (bits (d.reg 0x60110) 63 32 + 2 ^ 32 - bits (d.reg 0x60110) 31 0) % 2 ^ 32

/-- Where the trace unit writes its next record. -/
def Device.traceSlot (d : Device) : Nat := bits (d.reg 0x60100) 47 16 * 0x10000 + 32 * (bits (d.reg 0x60110) 63 32 % 2 ^ bits (d.reg 0x60100) 4 0)

theorem Device.trcWrite_eq (d : Device) (bs : List Byte) :
    d.trcWrite bs = d.ringWrite d.traceSlot bs 0x60110 63 32 (bits (d.reg 0x60110) 63 32 + 1) := rfl

section
variable {s : State} {r : TraceRec}

theorem State.trace_idle (idle : ¬ s.dev.Traces r.type) : s.trace r = s := if_neg fun h => idle ((s.dev.traces_iff _).1 h)

/-- A record for which the ring has room, with nothing lost before it. -/
theorem State.trace_room (traces : s.dev.Traces r.type) (kept : s.dev.traceLost = 0) (room : s.dev.traceHeld + 1 ≤ 2 ^ bits (s.dev.reg 0x60100) 4 0) :
    s.trace r = (s.readClock r.die).1.setDev ((s.readClock r.die).1.dev.trcWrite (traceBytes r (s.readClock r.die).2)) := by
  have none_ : (s.readClock r.die).1.dev.traceLost = 0 := kept
  have roomy : (s.readClock r.die).1.dev.trcRoom 1 = true := decide_eq_true room
  rw [State.trace, if_pos ((s.dev.traces_iff _).2 traces)]
  dsimp only
  rw [none_]
  exact if_pos roomy

/-- A record that meets a full ring is counted as lost. -/
theorem State.trace_full (traces : s.dev.Traces r.type) (full : 2 ^ bits (s.dev.reg 0x60100) 4 0 < s.dev.traceHeld + 1) :
    s.trace r = (s.readClock r.die).1.setDev { (s.readClock r.die).1.dev with traceLost := s.dev.traceLost + 1 } := by
  have notRoom : ∀ n, 1 ≤ n → ¬ (s.readClock r.die).1.dev.trcRoom n = true := fun n pos h => by
    have fits : s.dev.traceHeld + n ≤ 2 ^ bits (s.dev.reg 0x60100) 4 0 := of_decide_eq_true h
    omega
  rw [State.trace, if_pos ((s.dev.traces_iff _).2 traces)]
  exact if_neg (notRoom _ (by split <;> decide))

theorem Device.trcWrite_reg (d : Device) (bs : List Byte) {o : Nat} (other : o ≠ 0x60110) : (d.trcWrite bs).reg o = d.reg o := by
  rw [Device.trcWrite_eq, Device.ringWrite_reg, if_neg other]

theorem Device.reg_traceLost (d : Device) (n o : Nat) : ({ d with traceLost := n } : Device).reg o = d.reg o := Device.reg_congr rfl o

/-- The device once the records that were lost have been written about, if any were. -/
def Device.lostFirst (d : Device) : Device :=
  if decide (0 < d.traceLost) = true then
    { d.trcWrite (traceBytes (traceRec 10 (min d.traceLost 0xFFFFFFFF)) (d.clocks.getD 4 0#64)) with traceLost := 0 }
  else d

theorem Device.lostFirst_reg (d : Device) {o : Nat} (other : o ≠ 0x60110) : d.lostFirst.reg o = d.reg o := by
  rw [Device.lostFirst, apply_ite (Device.reg · o), Device.reg_traceLost, Device.trcWrite_reg _ _ other, ite_self]

theorem State.trace_eq {s : State} {r : TraceRec} (traces : (s.dev.trcOn && s.dev.trcEnables r.type) = true) : s.trace r =
    if (s.readClock r.die).1.dev.trcRoom (if decide (0 < (s.readClock r.die).1.dev.traceLost) = true then 2 else 1) = true then
      (s.readClock r.die).1.setDev ((s.readClock r.die).1.dev.lostFirst.trcWrite (traceBytes r (s.readClock r.die).2))
    else (s.readClock r.die).1.setDev { (s.readClock r.die).1.dev with traceLost := (s.readClock r.die).1.dev.traceLost + 1 } := if_pos traces

/-- A trace record changes no register but TRCPTR. -/
theorem State.trace_reg (s : State) (r : TraceRec) {o : Nat} (other : o ≠ 0x60110) : (s.trace r).dev.reg o = s.dev.reg o := by
  have clock : (s.readClock r.die).1.dev.reg o = s.dev.reg o := Device.reg_congr rfl o
  by_cases traces : (s.dev.trcOn && s.dev.trcEnables r.type) = true
  · rw [State.trace_eq traces, ← clock]
    generalize s.readClock r.die = p
    generalize (if decide (0 < p.1.dev.traceLost) = true then 2 else 1) = n
    split
    · rw [State.setDev_dev, Device.trcWrite_reg _ _ other, Device.lostFirst_reg _ other]
    · rw [State.setDev_dev, Device.reg_traceLost]
  · rw [State.trace, if_neg traces]

end

theorem exec_traceRecord {r : TraceRec} {s u : State} (does : exec (.traceRecord r) s = .next u) : s.trace r = u := Host.Outcome.next.inj does

/-! ## Correlation markers (R32) -/

section
variable {die : Nat} {ms : List (Nat × Nat)}

theorem marker_none (none_ : ∀ m ∈ ms, m.1 ≠ die) : (ms.find? fun m => m.1 == die) = none :=
  List.find?_eq_none.2 fun m mem => by simpa using none_ m mem

theorem marker_first {pre post : List (Nat × Nat)} {n : Nat} (first : ∀ m ∈ pre, m.1 ≠ die) :
    ((pre ++ (die, n) :: post).find? fun m => m.1 == die) = some (die, n) ∧ ((pre ++ (die, n) :: post).eraseP fun m => m.1 == die) = pre ++ post := by
  induction pre with
  | nil => simp
  | cons q pre ih =>
    obtain ⟨found, erased⟩ := ih fun m mem => first m (by simp [mem])
    have other : (q.1 == die) = false := beq_false_of_ne (first q (by simp))
    rw [List.cons_append, List.find?_cons, List.eraseP_cons, other]
    exact ⟨found, congrArg (q :: ·) erased⟩

end

/-- A marker that arrives out of its time stays on its way. -/
theorem exec_markerReceipt_none {s : State} {die delay : Nat} (idle : (∀ m ∈ s.dev.onWay, m.1 ≠ die) ∨ delay < 40 ∨ 64 < delay) :
    exec (.correlationMarkerReceipt die delay) s = .next s := by
  show execCorrelationMarkerReceipt die delay s = _
  rw [execCorrelationMarkerReceipt]
  rcases idle with none_ | early
  · rw [marker_none none_]
  · split
    · rw [if_neg (by omega)]
    · rfl

theorem exec_markerReceipt {s : State} {die delay n : Nat} {pre post : List (Nat × Nat)} (off : (s.dev.reg 0x60000).testBit 31 = false)
    (onWay : s.dev.onWay = pre ++ (die, n) :: post) (first : ∀ m ∈ pre, m.1 ≠ die) (inTime : 40 ≤ delay ∧ delay ≤ 64) :
    exec (.correlationMarkerReceipt die delay) s =
      .next ((s.setDev { s.dev with onWay := pre ++ post }).trace { traceRec 8 n with die := die }) := by
  obtain ⟨found, erased⟩ := marker_first (n := n) (post := post) first
  have same : (s.setDev { s.dev with onWay := pre ++ post }).dev.reg 0x60000 = s.dev.reg 0x60000 := Device.reg_congr rfl _
  show execCorrelationMarkerReceipt die delay s = _
  rw [execCorrelationMarkerReceipt, onWay, found]
  dsimp only
  rw [if_pos inTime, erased, State.logAtrium_off]
  rw [State.trace_reg _ _ (by decide), same, off]

/-! ## TRACE_STOP (R408) -/

/-- What makes the packet that TRCSTOP names the next that its queue starts. -/
def Queue.StopDue (q : Queue) (x : Nat) : Prop :=
  x.testBit 63 = true ∧ bits x 43 32 = q.qid ∧ (q.csn + 1) % 2 ^ 32 = bits x 31 0 ∧ (∀ y ∈ q.started, y.done = true) ∧ q.run = none ∧ q.rptr ≠ q.wptr

/-- The halt that the trace unit makes of the current context for a packet of a queue. -/
def State.haltFor (t : State) (q : Queue) : State :=
  (t.haltAs 0#64 0#56).setCx { (t.haltAs 0#64 0#56).cx with halter := some (0#64, 0#56, q.qid, q.csn) }

/-- The machine once the trace unit has stopped the context of a queue, in which no company is current. -/
def State.traceStopped (s : State) (q : Queue) : State := (s.setDev (s.dev.setField 0x60118 63 62 1)).haltFor q

theorem State.endSave_placed {s : State} {b : Bool} (saving : s.cx.stat = .saving b) (placed : (s.mine.any fun h => h.coreOf.isSome) = true) :
    s.endSave = s := by
  rw [State.endSave, saving]
  exact if_pos placed

theorem State.trace_offBy {s t : State} (r : TraceRec) (off : s.dev.trcOn = false) (ctl : t.dev.reg 0x60108 = s.dev.reg 0x60108)
    (base : t.dev.reg 0x60100 = s.dev.reg 0x60100) : t.trace r = t := by
  refine State.trace_off _ _ ?_
  rw [Device.trcOn, Device.trcLog2, ctl, base]
  exact off

section
variable {s : State} {q : Queue}

/-- The trace unit's stop is a halt of the queue's context. -/
theorem State.haltFor_facts (own : s.cx.asid = q.asid) : (s.haltFor q).dev.ctrl = s.dev.ctrl ∧
    (s.haltFor q).cx = { s.cx with stat := .saving true, halter := some (0#64, 0#56, q.qid, q.csn) } ∧
    (s.haltFor q).dev.companies = s.dev.companies.map (fun h => if h.asid = q.asid then { h with cohorts := h.cohorts.map Cohort.halted } else h) ∧
    (s.haltFor q).co.place = s.co.place := by
  have company : ∀ h : Company, (if h.asid = s.cx.asid then { h with cohorts := h.cohorts.map fun c => if c.stat = .ended then c else { c with stopDue := 3 } } else h) =
      if h.asid = q.asid then { h with cohorts := h.cohorts.map Cohort.halted } else h := fun h => by rw [own]; rfl
  refine ⟨rfl, rfl, List.map_congr_left fun h _ => company h, ?_⟩
  show (if _ then _ else s.co : Company).place = _
  split <;> rfl

theorem State.traceStopped_reg (o : Nat) : (s.traceStopped q).dev.reg o = if o = 0x60118 then putBits (s.dev.reg 0x60118) 63 62 1 else s.dev.reg o := by
  have kept : ∀ t : State, (t.haltFor q).dev.ctrl = t.dev.ctrl := fun _ => rfl
  rw [State.traceStopped, Device.reg_congr (kept _), State.setDev_dev, Device.reg_setField]

theorem State.traceStopped_cx (own : s.cx.asid = q.asid) :
    (s.traceStopped q).cx = { s.cx with stat := .saving true, halter := some (0#64, 0#56, q.qid, q.csn) } := by
  have halted : ∀ d, ((s.setDev d).haltFor q).cx = { s.cx with stat := .saving true, halter := some (0#64, 0#56, q.qid, q.csn) } :=
    fun d => by
      obtain ⟨-, cx, -⟩ := State.haltFor_facts (s := s.setDev d) own
      exact cx
  rw [State.traceStopped, halted]

theorem State.traceStopped_companies (own : s.cx.asid = q.asid) : (s.traceStopped q).dev.companies = s.dev.companies.map fun h => if h.asid = q.asid then
    { h with cohorts := h.cohorts.map fun c => if c.stat = .ended then c else { c with stopDue := 3 } } else h := by
  have halted : ∀ d, ((s.setDev d).haltFor q).dev.companies = d.companies.map _ := fun d => by
    obtain ⟨-, -, companies, -⟩ := State.haltFor_facts (s := s.setDev d) own
    exact companies
  have stays : ∀ o hi lo v, (s.dev.setField o hi lo v).companies = s.dev.companies := fun _ _ _ _ => rfl
  rw [State.traceStopped, halted, stays]
  rfl

/-- While a company of the context is at a core its save has not begun. -/
theorem State.haltFor_unsaved (place : s.co.place = .absent) (own : s.cx.asid = q.asid)
    (placed : ∃ h ∈ s.dev.companies, h.asid = q.asid ∧ h.coreOf.isSome = true) : (s.haltFor q).endSave = s.haltFor q := by
  obtain ⟨-, cx, mates, co⟩ := State.haltFor_facts own
  obtain ⟨h, mem, of_, at_⟩ := placed
  refine State.endSave_placed (congrArg Context.stat cx) ?_
  rw [State.mine, State.companies, if_pos (co.trans place), mates, cx, List.any_eq_true]
  refine ⟨_, List.mem_filter.2 ⟨List.mem_map_of_mem mem, ?_⟩, ?_⟩
  · rw [if_pos of_]
    exact beq_iff_eq.2 (of_.trans own.symm)
  · rw [if_pos of_]
    exact at_

/-- The trace unit halts the queue's context, which is current. -/
theorem State.wholeContext_halt (bare : Bare s) (own : s.cx.asid = q.asid) (live : s.cx.stat = .live)
    (placed : ∃ h ∈ s.dev.companies, h.asid = q.asid ∧ h.coreOf.isSome = true) :
    (s.wholeContext q.asid fun u => if u.cx.stat = .live then
      let v := u.haltAs 0#64 0#56
      (v.setCx { v.cx with halter := some (0#64, 0#56, q.qid, q.csn) }).endSave
    else u) = s.haltFor q := by
  rw [← own, bare.wholeContext, if_pos live]
  exact State.haltFor_unsaved bare.co own placed

/-- TRACE_STOP of a live context of which a company is at a core. -/
theorem exec_traceStop {x : Nat} (is : s.dev.reg 0x60118 = x) (found : s.dev.queue? (bits x 43 32) = some q) (off : s.dev.trcOn = false) (due : q.StopDue x)
    (bare : Bare s) (own : s.cx.asid = q.asid) (live : s.cx.stat = .live) (placed : ∃ h ∈ s.dev.companies, h.asid = q.asid ∧ h.coreOf.isSome = true) :
    exec .traceStop s = .next (s.traceStopped q) := by
  obtain ⟨valid, qid, csn, done, idle, more⟩ := due
  have stops : (q.stopsAt x && q.settled && q.nextDue (s.dev.flight ((q.run.map (·.fid)).getD 0)).treads.length) = true := by
    have settled : q.settled = true := by
      rw [Queue.settled, List.all_eq_true]
      exact fun y mem => by rw [done y mem]; rfl
    rw [Queue.stopsAt, csn, bit_eq_testBit, valid, qid, settled, Queue.nextDue, bne_iff_ne.2 more]
    simp
  have bare' : ∀ d, Bare (s.setDev d) := fun _ => ⟨bare.me, bare.co, bare.cx⟩
  have halted : ∀ ctrl, _ := fun ctrl => State.wholeContext_halt (bare' { s.dev with ctrl := ctrl }) own live placed
  show execTraceStop s = _
  rw [execTraceStop, is, found]
  dsimp only
  rw [if_pos stops, Device.setField_rest, halted, ← Device.setField_rest]
  exact congrArg Host.Outcome.next (State.trace_offBy _ off ((State.traceStopped_reg _).trans (if_neg (by decide)))
    ((State.traceStopped_reg _).trans (if_neg (by decide))))

/-- TRACE_STOP with nothing to stop. -/
theorem exec_traceStop_idle {x : Nat} (is : s.dev.reg 0x60118 = x) (found : s.dev.queue? (bits x 43 32) = some q)
    (idle : x.testBit 63 = false ∨ ∃ y ∈ q.started, y.done = false ∧ q.run = none) : exec .traceStop s = .next s := by
  have stays : (q.stopsAt x && q.settled) = false := by
    rcases idle with invalid | ⟨y, mem, undone, none_⟩
    · simp [Queue.stopsAt, bit_eq_testBit, invalid]
    · rw [Bool.and_eq_false_iff, Queue.settled, List.all_eq_false]
      exact .inr ⟨y, mem, by simp [undone, none_]⟩
  show execTraceStop s = _
  rw [execTraceStop, is, found]
  dsimp only
  rw [stays]
  exact congrArg Host.Outcome.next (if_neg (by simp))

end

/-! ## #CBKPT (R403) -/

/-- A cohort at a breakpoint halts its context, in which its mates stop at the end of their chunks (R403). -/
def State.meetBreakpoint (s : State) : State :=
  let t := (s.setMe (s.me.trapRegs 4 17 0 s.me.em 0 s.me.pc)).haltAs s.me.wid s.me.pc
  (t.mapCohorts t.cx.asid fun c => if c.stopDue = 3 then { c with stopDue := 6 } else c).setMe t.me

theorem exec_cbkptTrap_none {s : State} {d j : Nat} (here : s.isAt d j = true) (none_ : s.breakpoint = none) : exec (.cbkptTrap d j) s = .next s := by
  refine congrArg Host.Outcome.next ((State.onCohort_at _ _ _ _ here).trans ?_)
  rw [none_]

/-- #CBKPT of the cohort that meets a breakpoint. -/
theorem exec_cbkptTrap {s : State} {d j k : Nat} (here : s.isAt d j = true) (some_ : s.breakpoint = some k) :
    exec (.cbkptTrap d j) s = .next (s.setDev (s.dev.setField (0x60040 + 16 * k) 62 62 1)).meetBreakpoint := by
  refine congrArg Host.Outcome.next ((State.onCohort_at _ _ _ _ here).trans ?_)
  rw [some_]
  exact rfl

/-- What #CBKPT leaves of the cohort, its company and its context. -/
theorem State.meetBreakpoint_facts {s : State} (own : s.co.asid = s.cx.asid) (running : s.me.stat = .running) :
    s.meetBreakpoint.me.stopDue = 3 ∧ s.meetBreakpoint.me.crget 0x50 = 0x04110000#32 ∧ s.meetBreakpoint.me.pc = s.me.pc ∧ s.meetBreakpoint.cx.stat = .saving true ∧
      (∀ c ∈ s.meetBreakpoint.co.cohorts, c.stat = .ended ∨ c.stopDue = 6) ∧ s.meetBreakpoint.dev.ctrl = s.dev.ctrl := by
  rw [State.meetBreakpoint]
  have same := s.me.trapRegs_rest 4 17 0 s.me.em 0 s.me.pc
  have cause := s.me.trapRegs_get 4 17 0 s.me.em 0 s.me.pc 0x50
  generalize s.me.trapRegs 4 17 0 s.me.em 0 s.me.pc = c at same cause
  have stat' : c.stat = .running := by rw [show c.stat = s.me.stat from (congrArg Cohort.stat same :), running]
  obtain ⟨stat, -, -, me, mates, -, rest, -⟩ := State.haltAs_does (s := s.setMe c) s.me.wid s.me.pc own (by rw [State.setMe_me, stat']; decide)
  have ctrl : ((s.setMe c).haltAs s.me.wid s.me.pc).dev.ctrl = s.dev.ctrl := rfl
  rw [State.setMe_me, stat', if_neg (by decide)] at me
  have asid : ((s.setMe c).haltAs s.me.wid s.me.pc).co.asid = s.cx.asid := (congrArg Company.asid rest : _).trans own
  have cx : ((s.setMe c).haltAs s.me.wid s.me.pc).cx.asid = s.cx.asid := rfl
  generalize (s.setMe c).haltAs s.me.wid s.me.pc = t at stat me mates ctrl asid cx
  rw [State.setMe_me, me]
  refine ⟨rfl, cause.trans (by simp [tcause]), (congrArg Cohort.pc same :), stat, fun x mem => ?_, ctrl⟩
  have cohorts : (t.mapCohorts t.cx.asid fun c => if c.stopDue = 3 then { c with stopDue := 6 } else c).co.cohorts =
      t.co.cohorts.map fun c => if c.stopDue = 3 then { c with stopDue := 6 } else c := congrArg Company.cohorts (if_pos (asid.trans cx.symm))
  rw [State.setMe_co, cohorts, mates, List.map_map] at mem
  obtain ⟨y, -, rfl⟩ := List.mem_map.1 mem
  by_cases ended : y.stat = .ended
  · left
    by_cases due : y.stopDue = 3 <;> simp [ended, due]
  · right
    simp [ended]

end Sys2Proof.Machine
end

section
/-!
O50: records, traces and statements.
-/
namespace Sys2Proof.Machine

/-- Settles O50, a rule of the record unit, of the statements and of the trace unit for each clause. A trace stop names WID 0 and pc 0 as the halter (log
entry 49), and #CBKPT leaves its trap registers in the cohort that meets it (log entry 92): choices of the model. -/
theorem recordsAndTraces : Obligations.RecordsAndTraces := by
  unfold Obligations.RecordsAndTraces
  intro rest wrote
  have kept : ∀ (s : State) e, rest s (s.setDev e) := fun _ _ => ⟨rfl, rfl, rfl, rfl⟩
  refine ⟨?recctl, ?pages, ?jobreq, ?ctxret, ?write, ?trace, ?power, ?send, ?receipt, ?stop, ?cbkpt⟩
  case recctl =>
    intro i mem w s legal base
    have runs : exec (i w) s = .next (s.recctl w) := by
      simp only [List.mem_cons, List.not_mem_nil, or_false] at mem
      rcases mem with rfl | rfl | rfl | rfl <;> rfl
    have stored := State.recStored_written (s := s) legal base
    refine ⟨s.recStored w, stored, fun refused => ?_, fun good goesOn => ?_, fun good ends replay => ?_, fun good ends records empty => ?_⟩
    · exact ⟨_, runs.trans (congrArg _ (State.recctl_bad legal base refused)), RegSet.of_setReg ..⟩
    · exact runs.trans (congrArg _ (State.recctl_goesOn legal base good goesOn))
    · refine ⟨_, runs.trans (congrArg _ ((State.recctl_ends legal base good ends).trans (congrArg _ (if_pos replay)))), ?_⟩
      exact RegSet.of_setField ((s.recStored w).setDev _) 0x60000 31 31 0
    · have none_ : ∀ p ∈ (s.recStored w).dev.recUnit.pages, p.recs = [] := empty
      have set := RegSet.of_setField ((s.recStored w).setDev { (s.recStored w).dev with recUnit := (s.recStored w).dev.recUnit.emptied }) 0x60000 31 31 0
      refine ⟨_, runs.trans (congrArg _ ((State.recctl_ends legal base good ends).trans (congrArg _ (Device.endRecording_empty records none_)))), ?_, ?_, set.value,
        fun o other => (set.others o other).trans (stored.reg other), fun a => ?_, kept ..⟩
      · rw [State.setDev_dev, Device.setField_recUnit, RecUnit.emptied]
      · rw [State.setDev_dev, Device.setField_recUnit, RecUnit.emptied]
      · rw [State.setDev_dev, Device.setField_byte]
        show (s.recStored w).dev.byte a = s.dev.byte a
        rw [stored.dev]
        rfl
  case pages =>
    intro source s pre post p still pages is some_ first d dev n full slot
    have taken : takePage source s.dev.recUnit.pages = some (p, pre ++ post) := by rw [pages]; exact takePage_first is some_ first
    have isFull : s.dev.recFull = true ↔ full := beq_iff_eq
    refine ⟨fun room => ?_, fun stays strict => ?_, fun stays lossy => ?_⟩
    · have does := Device.completeRec_room taken (Bool.eq_false_iff.2 (room ∘ isFull.1)) (decide (s.recMode = 2))
      obtain ⟨unit, -⟩ := Device.ringWrite_rest { s.dev with recUnit := { s.dev.recUnit with pages := pre ++ post } } (s.dev.recAt s.dev.recDev) (p.bytes s.dev.recDev)
        0x60010 63 32 (s.dev.recDev + 1)
      refine ⟨_, exec_recordPageComplete does (by rw [unit]; exact still), fun x => ?_, unit, ?_, fun o other => ?_, rfl, rfl, rfl, rfl⟩
      · exact Device.ringWrite_byte ..
      · exact (Device.ringWrite_reg ..).trans (if_pos rfl)
      · exact (Device.ringWrite_reg ..).trans (if_neg other)
    · have does := Device.completeRec_full taken (isFull.2 stays) (decide (s.recMode = 2))
      rw [decide_eq_false strict] at does
      exact exec_recordPageComplete (by rw [decide_eq_false strict]; exact does) still
    · have does := Device.completeRec_full taken (isFull.2 stays) (decide (s.recMode = 2))
      exact exec_recordPageComplete (does.trans (if_pos (decide_eq_true lossy))) still
  case jobreq =>
    intro s w legal base agent covered one zero
    have goes : exec (.jobreqGo w) s = .next (s.setDev s.dev.jobreq) :=
      congrArg Host.Outcome.next (if_pos ⟨legal, agent, (RegWrite.sets_iff legal base 0).2 ⟨covered, one⟩, zero⟩)
    refine ⟨fun room => ?_, fun full => ?_⟩
    · obtain ⟨statements, retno⟩ := Device.jobreq_room room
      exact ⟨_, s.dev.jobStatement, goes, statements, rfl, rfl, rfl, rfl, s.dev.jobreq_flags, retno, rfl, rfl, rfl, rfl⟩
    · rw [Device.jobreq_full full] at goes
      exact ⟨_, goes, RegSet.of_setReg ..⟩
  case ctxret =>
    intro s w legal base bare off
    have written : Written w 0x60210 (2 ^ 12 - 1) (2 ^ 30) s (s.regStored w) := State.regStored_written s legal base rfl
    have does := exec_ctxretGo (s := s) legal
    have sets := RegWrite.sets_iff legal base 16
    rw [bit_eq_testBit] at does
    generalize s.regStored w = u at does written
    refine ⟨u, written, fun idle => ?_, fun go refused => ?_, fun go free here noLaunch full => ?_, fun go free here noLaunch room => ?_⟩
    · rw [if_neg (idle ∘ sets.1)] at does
      exact does
    · have launched : (s.dev.reg 0x60210).testBit 31 = true ∨ s.hasLaunch (bits (u.dev.reg 0x60210) 11 0) = true := refused.imp_right fun ⟨here, some_, others⟩ => by
        rw [← here] at others ⊢
        exact State.hasLaunch_here bare.cx some_ others
      rw [if_pos (sets.2 go), if_pos launched] at does
      exact ⟨_, does, RegSet.of_setField ..⟩
    all_goals
      have idle : ¬ ((s.dev.reg 0x60210).testBit 31 = true ∨ s.hasLaunch (bits (u.dev.reg 0x60210) 11 0) = true) := by
        rw [free, State.hasLaunch_none noLaunch]
        decide
      have statements : u.dev.statements = s.dev.statements := by rw [written.dev]
      rw [if_pos (sets.2 go), if_neg idle] at does
    · rw [State.ctxret_full (by rw [statements]; exact full)] at does
      exact ⟨_, does, RegSet.of_setField ..⟩
    · have bare' : Bare u := by rw [written.rest]; exact ⟨bare.me, bare.co, bare.cx⟩
      have here' : u.cx.asid = bits (u.dev.reg 0x60210) 11 0 := by rw [← here, written.rest]; rfl
      rw [State.ctxret_here bare' (by rw [statements]; exact room) here'] at does
      obtain ⟨cx, statements, retno, contexts, me, co, turns⟩ := (written.setField 31 31 0).retired (by decide) off
      exact ⟨_, _, does, cx, statements, rfl, rfl, by rw [State.contextStatement, here], rfl, by simp [State.contextStatement], retno, contexts, me, co, turns⟩
  case write =>
    intro s log2 n room
    have roomy : s.dev.sigRoom = true ↔ room := s.dev.sigRoom_iff
    refine ⟨fun idle => exec_statementWrite_idle (idle.imp_right (· ∘ roomy.1)), fun x xs held space noContext noJob noTrap => ?_⟩
    have does := exec_statementWrite held (roomy.2 space)
    generalize write : s.dev.ringWrite _ _ _ _ _ _ = d at does
    have reg : ∀ o, d.reg o = _ := fun o => by rw [← write, Device.ringWrite_reg]
    have byte : ∀ a, d.byte a = _ := fun a => by rw [← write, Device.ringWrite_byte]
    have retiring : d.retiring = [] := by
      obtain ⟨-, -, same, -⟩ := s.dev.ringWrite_rest (bits (s.dev.reg 0x60200) 47 16 * 0x10000 + 4096 * (n % 2 ^ s.dev.sigLog2)) x.bytes 0x60208 63 32 (n + 1)
      exact write ▸ same.trans noTrap
    obtain ⟨reg', byte', retiring'⟩ := d.statements_rest xs
    rw [State.freedPlace_none] at does
    · refine ⟨_, does, fun a => (byte' a).trans (byte a), rfl, (reg' _).trans ((reg _).trans (if_pos rfl)),
        fun o other => (reg' o).trans ((reg o).trans (if_neg other)), rfl, rfl, rfl, rfl⟩
    · rw [State.setDev_dev, reg', reg, if_neg (by decide), noContext]
    · rw [State.setDev_dev, reg', reg, if_neg (by decide)]
      exact noJob
    · exact retiring'.trans retiring
  case trace =>
    intro r s c log2 on enabled n held
    refine ⟨fun idle => congrArg Host.Outcome.next (State.trace_idle idle), fun isOn isEnabled kept room => ?_, fun isOn isEnabled full => ?_⟩
    · refine ⟨_, Config.tick s.free, congrArg Host.Outcome.next (State.trace_room ⟨isOn, isEnabled⟩ kept room), fun x => ?_, ?_, fun o other => ?_, rfl, rfl, rfl, rfl⟩
      · exact Device.ringWrite_byte ..
      · exact (Device.ringWrite_reg ..).trans (if_pos rfl)
      · exact (Device.ringWrite_reg ..).trans (if_neg other)
    · exact ⟨_, congrArg Host.Outcome.next (State.trace_full ⟨isOn, isEnabled⟩ full), rfl, fun _ => rfl, rfl, rfl, rfl, rfl, rfl⟩
  case power =>
    intro rails s u t rail one first second
    rw [← exec_traceRecord second, ← exec_traceRecord first]
    rfl
  case send =>
    intro s u does
    rw [← exec_traceRecord does]
    rfl
  case receipt =>
    intro die delay s off
    refine ⟨exec_markerReceipt_none, fun pre post n u onWay first low high does => ?_⟩
    rw [exec_markerReceipt off onWay first ⟨low, high⟩, ← exec_traceRecord does]
    rfl
  case stop =>
    intro s q x found off due
    refine ⟨fun isDue bare own live placed => ⟨_, exec_traceStop rfl found off isDue bare own live placed, ?_⟩, exec_traceStop_idle rfl found⟩
    exact ⟨(State.traceStopped_reg _).trans (if_pos rfl), fun o other => (State.traceStopped_reg _).trans (if_neg other), State.traceStopped_cx own,
      State.traceStopped_companies own⟩
  case cbkpt =>
    intro s d j here
    refine ⟨exec_cbkptTrap_none here, fun k met own running => ⟨_, exec_cbkptTrap here met, ?_⟩⟩
    have facts := fun e => State.meetBreakpoint_facts (s := s.setDev e) own running
    obtain ⟨due, cause, pc, stat, mates, ctrl⟩ := facts (s.dev.setField (0x60040 + 16 * k) 62 62 1)
    rw [State.setDev_me] at pc
    refine ⟨?_, due, cause, pc, stat, mates⟩
    rw [Device.reg_congr ctrl, State.setDev_dev, Device.reg_setField, if_pos rfl]

end Sys2Proof.Machine
end

section
/-!
SUPPORT. The cohorts of a company that is current, one by one, and the placing of a company on a core (R326).
-/
namespace Sys2Proof.Machine

theorem foldl_keeps {α β γ : Type} (g : α → γ) {f : α → β → α} (keeps : ∀ a b, g (f a b) = g a) (bs : List β) (a : α) : g (bs.foldl f a) = g a := by
  induction bs generalizing a with
  | nil => rfl
  | cons b bs ih => rw [List.foldl_cons, ih, keeps]

/-! ## A company in which no cohort is current -/

theorem Standing.parkMe {s : State} (standing : Standing s) : s.parkMe = s := if_pos standing.me

theorem Standing.coAll {s : State} (standing : Standing s) : s.coAll = s.co := if_pos standing.me

/-- An operation on the current company, of which no cohort is current, happens where it stands. -/
theorem Standing.onCompany {s : State} (standing : Standing s) (f : State → State) : s.onCompany s.co.dseq f = f s := by
  have here : s.focusCo s.co.dseq = s := if_pos ⟨standing.co, rfl⟩
  unfold State.onCompany
  rw [here]
  dsimp only
  rw [if_pos ⟨standing.co, rfl⟩, if_pos standing.me]

/-- The cohorts of a company in ascending order, none absent. -/
def Ascending (cs : List Cohort) : Prop := (cs.map (·.j)).Pairwise (· < ·) ∧ ∀ c ∈ cs, c.stat ≠ .absent

theorem Ascending.tail {c : Cohort} {cs : List Cohort} (h : Ascending (c :: cs)) : Ascending cs :=
  ⟨(List.pairwise_cons.1 h.1).2, fun x mem => h.2 x (List.mem_cons_of_mem _ mem)⟩

theorem Ascending.head {c : Cohort} {cs : List Cohort} (h : Ascending (c :: cs)) : ∀ x ∈ cs, c.j < x.j := fun x mem =>
  (List.pairwise_cons.1 h.1).1 x.j (List.mem_map_of_mem mem)

theorem map_fst_keys {α β γ : Type} {f : γ → α} {g : γ → β} {cs ds : List γ} (same : ds.map (fun c => (f c, g c)) = cs.map fun c => (f c, g c)) :
    ds.map f = cs.map f := by
  have firsts := congrArg (List.map Prod.fst) same
  rw [List.map_map, List.map_map] at firsts
  exact firsts

theorem map_snd_keys {α β γ : Type} {f : γ → α} {g : γ → β} {cs ds : List γ} (same : ds.map (fun c => (f c, g c)) = cs.map fun c => (f c, g c)) :
    ds.map g = cs.map g := by
  have seconds := congrArg (List.map Prod.snd) same
  rw [List.map_map, List.map_map] at seconds
  exact seconds

/-- Order and presence rest on the indexes and the states alone. -/
theorem Ascending.congr {cs ds : List Cohort} (same : ds.map (fun c => (c.j, c.stat)) = cs.map fun c => (c.j, c.stat)) (h : Ascending cs) : Ascending ds := by
  refine ⟨map_fst_keys same ▸ h.1, fun c mem absent => ?_⟩
  have mem' : c.stat ∈ cs.map (·.stat) := map_snd_keys same ▸ List.mem_map_of_mem mem
  obtain ⟨x, mem, is⟩ := List.mem_map.1 mem'
  exact h.2 x mem (is.trans absent)

theorem Ascending.nodup {cs : List Cohort} (h : Ascending cs) : (cs.map (·.j)).Nodup := h.1.imp Nat.ne_of_lt

/-- A cohort taken out of its company goes back to its place. -/
theorem Ascending.insert_filter {cs : List Cohort} {c : Cohort} (h : Ascending cs) (mem : c ∈ cs) :
    insertCohort c (cs.filter fun x => x.j != c.j) = cs := by
  induction cs with
  | nil => cases mem
  | cons x xs ih =>
    rcases List.mem_cons.1 mem with rfl | mem
    · have rest : xs.filter (fun x => x.j != c.j) = xs := List.filter_eq_self.2 fun y mem => by simpa using (h.head y mem).ne'
      rw [List.filter_cons_of_neg (by simp), rest]
      cases xs with
      | nil => rfl
      | cons y ys => exact if_pos (h.head y (by simp))
    · have less := h.head c mem
      rw [List.filter_cons_of_pos (by simpa using less.ne), insertCohort, if_neg (by omega), ih h.tail mem]

/-- The state in which a cohort of the current company, of which none was current, is current. -/
def State.atCohort (s : State) (c : Cohort) : State := { s with me := c, co := { s.co with cohorts := s.co.cohorts.filter fun x => x.j != c.j } }

/-- A state but for the cohort that is current: none of the company's, or one. -/
def Within (s t : State) : Prop := t = s ∨ ∃ c ∈ s.co.cohorts, t = s.atCohort c

section
variable {s t : State} (standing : Standing s) (ascending : Ascending s.co.cohorts)

theorem Within.dev (within : Within s t) : t.dev = s.dev := by
  rcases within with rfl | ⟨c, -, rfl⟩ <;> rfl

theorem Within.cx (within : Within s t) : t.cx = s.cx := by
  rcases within with rfl | ⟨c, -, rfl⟩ <;> rfl

theorem Within.turns (within : Within s t) : t.turns = s.turns := by
  rcases within with rfl | ⟨c, -, rfl⟩ <;> rfl

include standing ascending

theorem Within.coAll (within : Within s t) : t.coAll = s.co := by
  rcases within with rfl | ⟨c, mem, rfl⟩
  · exact standing.coAll
  · have whole : (s.atCohort c).coAll = { s.co with cohorts := insertCohort c (s.co.cohorts.filter fun x => x.j != c.j) } := if_neg (ascending.2 c mem)
    rw [whole, ascending.insert_filter mem]

omit standing in
theorem State.atCohort_parkMe {c : Cohort} (mem : c ∈ s.co.cohorts) : (s.atCohort c).parkMe = { s with me := Cohort.null } := by
  have parked : (s.atCohort c).parkMe = { s with me := Cohort.null, co := { s.co with cohorts := insertCohort c (s.co.cohorts.filter fun x => x.j != c.j) } } :=
    if_neg (ascending.2 c mem)
  rw [parked, ascending.insert_filter mem]

theorem Within.parkMe (within : Within s t) : t.parkMe.co = s.co ∧ t.parkMe.me.stat = .absent ∧ t.parkMe.dev = s.dev ∧ t.parkMe.cx = s.cx ∧ t.parkMe.turns = s.turns := by
  rcases within with rfl | ⟨c, mem, rfl⟩
  · rw [standing.parkMe]
    exact ⟨rfl, standing.me, rfl, rfl, rfl⟩
  · rw [State.atCohort_parkMe ascending mem]
    exact ⟨rfl, rfl, rfl, rfl, rfl⟩

/-- Making a cohort of the company current. -/
theorem Within.focus (within : Within s t) {c : Cohort} (mem : c ∈ s.co.cohorts) : t.focus s.co.dseq c.j = s.atCohort c := by
  have found := find_cohort ascending.nodup mem
  rcases within with rfl | ⟨d, mem', rfl⟩
  · have here : t.focusCo t.co.dseq = t := if_pos ⟨standing.co, rfl⟩
    rw [State.focus, if_neg fun ⟨_, _, here, _⟩ => here standing.me, here]
    dsimp only
    rw [if_pos ⟨standing.co, rfl⟩, standing.parkMe, found]
    rfl
  · by_cases same : d.j = c.j
    · have is : d = c := Option.some.inj ((find_cohort ascending.nodup mem').symm.trans (same ▸ found))
      subst is
      exact if_pos ⟨standing.co, rfl, ascending.2 d mem', rfl⟩
    · have here : (s.atCohort d).focusCo s.co.dseq = s.atCohort d := if_pos ⟨standing.co, rfl⟩
      rw [State.focus, if_neg fun ⟨_, _, _, is⟩ => same is, here]
      dsimp only
      rw [if_pos ⟨standing.co, rfl⟩, State.atCohort_parkMe ascending mem', found]
      rfl

/-- An event of a cohort of the company that changes nothing. -/
theorem Within.onCohort (within : Within s t) {c : Cohort} (mem : c ∈ s.co.cohorts) {f : State → State} (same : f (s.atCohort c) = s.atCohort c) :
    Within s (t.onCohort s.co.dseq c.j f) := by
  have at_ : (s.atCohort c).isAt s.co.dseq c.j = true := by
    have present := ascending.2 c mem
    simp [State.isAt, State.atCohort, standing.co, present]
  unfold State.onCohort
  rw [within.focus standing ascending mem]
  dsimp only
  rw [if_pos at_, same]
  rcases within with rfl | ⟨d, mem', rfl⟩
  · rw [if_pos (.inr standing.me)]
    exact .inr ⟨c, mem, rfl⟩
  · split
    · exact .inr ⟨c, mem, rfl⟩
    · exact .inr ⟨d, mem', Within.focus standing ascending (.inr ⟨c, mem, rfl⟩) mem'⟩

/-- Records of a company's cohorts, while its context is not recorded. -/
theorem Within.logs (off : s.recording = false) (kind : Nat) (payload : Nat → Nat) (js : List Nat) (of_ : ∀ j ∈ js, j ∈ s.co.cohorts.map (·.j)) (within : Within s t) :
    Within s (js.foldl (fun t j => t.onCohort s.co.dseq j fun u => u.log kind (payload j)) t) := by
  induction js generalizing t with
  | nil => exact within
  | cons j js ih =>
    obtain ⟨c, mem, rfl⟩ := List.mem_map.1 (of_ j (by simp))
    exact ih (fun i mem => of_ i (by simp [mem])) (within.onCohort standing ascending mem (State.log_off _ _ _ ((State.recording_congr rfl rfl).trans off)))

end

/-! ## Placing (R326) -/

theorem seatCohorts_keys : ∀ (cs : List Cohort) (seats : List Nat), (seatCohorts cs seats).map (fun c => (c.j, c.stat)) = cs.map fun c => (c.j, c.stat)
  | [], _ => rfl
  | _ :: _, [] => rfl
  | c :: cs, _ :: ks => congrArg (List.cons (c.j, c.stat)) (seatCohorts_keys cs ks)

theorem State.entryClause_keys (s : State) (cs : List Cohort) : (cs.map s.entryClause).map (fun c => (c.j, c.stat)) = cs.map fun c => (c.j, c.stat) := by
  rw [List.map_map]
  refine List.map_congr_left fun c _ => ?_
  show ((s.entryClause c).j, (s.entryClause c).stat) = _
  rw [State.entryClause]
  split <;> rfl

/-- The company on its core. -/
def State.placedCo (s : State) (core : Nat) : Company :=
  { s.co with place := .core core, lsBase := (lsRun (s.lsUsed core) s.co.hdr.lsgran).getD 0
              cohorts := (seatCohorts s.co.cohorts (s.freeSlots core)).map s.entryClause }

/-- The halls once the current company is placed: it blocks none. -/
def State.unblocked (s : State) : Device :=
  { s.dev with halls := s.dev.halls.map fun h => if h.block = some s.co.dseq then { h with block := none } else h }

/-- The machine with the current company on a core, before it is granted slots. -/
def State.seating (s : State) (core : Nat) : State := (s.setCo (s.placedCo core)).setDev s.unblocked

/-- The machine with the current company on a core, its slots granted. -/
def State.seated (s : State) (core : Nat) : State := (s.seating core).granted s.co.hdr.gfloor

/-- A company that waits, of which no cohort is current, in a context that is not recorded. -/
structure Waiting (s : State) : Prop where
  standing : Standing s
  ascending : Ascending s.co.cohorts
  unrecorded : s.recording = false
  anew : s.co.restored = false
  slotless : s.co.slots = []
  floor : s.co.hdr.gfloor ≤ 128
  others : ∀ h ∈ s.dev.companies, h.dseq ≠ s.co.dseq

section
variable {s : State} (waiting : Waiting s)
include waiting

theorem Waiting.granted (core : Nat) : (s.seating core).grantSlots s.co.hdr.gfloor 128 = s.seated core := by
  have slots : (s.seating core).co.slots.length = 0 := congrArg List.length waiting.slotless
  have floor : s.co.hdr.gfloor - (s.seating core).co.slots.length ≤ 128 := by rw [slots]; exact waiting.floor
  refine (State.grantSlots_floor s.co.hdr.gfloor 128 (s.seating core) (.inr le_rfl) floor).trans ?_
  rw [slots]
  rfl

theorem Waiting.placeOn (core : Nat) : Standing (s.seated core) ∧ Ascending (s.seated core).co.cohorts ∧ Within (s.seated core) (s.placeOn s.co.dseq core) := by
  have keys : (s.seated core).co.cohorts.map (fun c => (c.j, c.stat)) = s.co.cohorts.map fun c => (c.j, c.stat) := (s.entryClause_keys _).trans (seatCohorts_keys ..)
  have asc : Ascending (s.seated core).co.cohorts := waiting.ascending.congr keys
  have stands : Standing (s.seated core) := ⟨waiting.standing.me, fun h => nomatch h⟩
  have off : (s.seated core).recording = false := (State.recording_kept rfl rfl rfl).trans waiting.unrecorded
  have logged := Within.logs stands asc off 0 (fun j => s.co.dseq % 2 ^ 40 + j * 2 ^ 40) (s.co.cohorts.map (·.j))
    (fun j mem => by rw [map_fst_keys keys]; exact mem) (.inl rfl)
  have anew : ¬ (s.seating core).co.restored = true := Bool.eq_false_iff.1 waiting.anew
  have start : (if (s.seating core).co.restored = true then (s.seating core).takeUp else (s.seating core).grantSlots s.co.hdr.gfloor 128) = s.seated core :=
    (if_neg anew).trans (waiting.granted core)
  refine ⟨stands, asc, ?_⟩
  rw [State.placeOn, waiting.standing.onCompany]
  dsimp only
  rw [waiting.standing.parkMe]
  change Within _ (List.foldl _ (if (s.seating core).co.restored = true then (s.seating core).takeUp else (s.seating core).grantSlots s.co.hdr.gfloor 128) _)
  rw [start]
  exact logged

end

/-- What the placing of the current company on a core leaves. -/
def PlacedOn (s t : State) (core : Nat) : Prop := t.coAll.place = .core core ∧ t.coAll.lsBase = (lsRun (s.lsUsed core) s.co.hdr.lsgran).getD 0 ∧
    t.coAll.cohorts = (seatCohorts s.co.cohorts (s.freeSlots core)).map (fun c =>
      if c.atEntry = true then { c with clause := (s.fetchWord false c.pc.toNat).2.getD c.clause } else c) ∧ t.coAll.slots.length = s.co.hdr.gfloor ∧
    (∀ x ∈ t.coAll.slots, x = Slot.fresh) ∧
    { t.coAll with place := s.co.place, lsBase := s.co.lsBase, cohorts := s.co.cohorts, slots := s.co.slots } = s.co ∧ t.dev.companies = s.dev.companies ∧
    t.dev.halls = s.dev.halls.map (fun h => if h.block = some s.co.dseq then { h with block := none } else h) ∧ (∀ a, t.dev.byte a = s.dev.byte a) ∧
    t.dev.ctrl = s.dev.ctrl ∧ { t.cx with glgen := s.cx.glgen } = s.cx ∧ t.turns = s.turns

theorem Waiting.placedOn {s : State} (waiting : Waiting s) (core : Nat) : PlacedOn s (s.placeOn s.co.dseq core) core := by
  obtain ⟨stands, asc, within⟩ := waiting.placeOn core
  have slots : (s.seated core).co.slots = List.replicate s.co.hdr.gfloor Slot.fresh := by
    show s.co.slots ++ _ = _
    rw [waiting.slotless, List.nil_append]
  rw [PlacedOn, within.coAll stands asc, within.dev, within.cx, within.turns, slots, List.length_replicate]
  exact ⟨rfl, rfl, rfl, rfl, fun x mem => List.eq_of_mem_replicate mem, rfl, rfl, rfl, fun _ => rfl, rfl, rfl, rfl⟩

/-! ## Choosing (R325, R327, R328) -/

/-- A company whose refills would not wait for anything. -/
theorem State.refillWaits_none (s : State) (h : Company) {only : Slot → Bool} (none_ : ∀ x ∈ h.slots, only x = false) : s.refillWaits h only = false := by
  rw [State.refillWaits, List.filter_eq_nil_iff.2 fun x mem => by simp [none_ x mem]]
  rfl

theorem insertCompany_mem (c x : Company) (cs : List Company) : x ∈ insertCompany c cs ↔ x = c ∨ x ∈ cs := by
  induction cs with
  | nil => simp [insertCompany]
  | cons y ys ih =>
    rw [insertCompany]
    split
    · simp
    · simp [ih]; tauto

theorem State.allowed_sub {s : State} {hall : Nat} {h : Company} (mem : h ∈ s.allowed hall) : h ∈ s.companies := by
  have queued : h ∈ s.ready hall := by
    have inner : ∀ d : Option Nat, h ∈ (match d with
        | some d => (s.ready hall).filter fun h : Company => decide (h.dseq ≤ d)
        | none => s.ready hall) → h ∈ s.ready hall := fun d mem => by
      cases d with
      | none => exact mem
      | some d => exact List.mem_of_mem_filter mem
    refine inner (s.dev.halls.getD hall Hall.reset).block ?_
    unfold State.allowed at mem
    generalize s.heldFirst = held at mem
    cases held with
    | none => exact mem
    | some d => exact List.mem_of_mem_filter mem
  exact List.mem_of_mem_filter (List.mem_of_mem_filter queued)

section
variable {s : State} (waiting : Waiting s)
include waiting

theorem Waiting.is {h : Company} (mem : h ∈ s.companies) (dseq : h.dseq = s.co.dseq) : h = s.co := by
  rw [State.companies, if_neg waiting.standing.co, waiting.standing.coAll, insertCompany_mem] at mem
  exact mem.resolve_right fun mem => waiting.others h mem dseq

theorem Waiting.found : (s.companies.find? fun h => h.dseq == s.co.dseq) = some s.co := by
  rw [State.companies, if_neg waiting.standing.co, waiting.standing.coAll]
  exact find_insertCompany _ _ waiting.others

/-- The company that the cluster would choose is placed (R327). -/
theorem Waiting.placeFrom (live : s.replaying = false) {cluster hall core : Nat} {h : Company}
    (first : ((s.allowed hall).find? fun x => (s.bestCore x cluster).isSome) = some h) (dseq : h.dseq = s.co.dseq) (best : s.bestCore h cluster = some core) :
    s.placeFrom cluster hall s.co.dseq core = s.placeOn s.co.dseq core := by
  have is := waiting.is (State.allowed_sub (List.mem_of_find?_eq_some first)) dseq
  subst is
  rw [State.placeFrom, first]
  dsimp only
  rw [if_neg (by simp [live]), if_pos ⟨rfl, best, s.refillWaits_none _ fun _ _ => waiting.anew⟩]

end

end Sys2Proof.Machine
end

section
/-!
SUPPORT. The dispatcher (R323 to R325), the active set (R330 to R333) and allocation deadlocks (R338, R339).
-/
namespace Sys2Proof.Machine

/-! ## Companies are made (R182, R323 to R325) -/

/-- The company that the dispatcher makes next of a launch. -/
def State.nextCompany (s : State) (asid : Nat) (l : Launch) (p : Place) : Company :=
  { Company.null with
    dseq := s.dev.dseq, asid := asid, lseq := l.lseq, num := l.hdr.number l.made, cwid := BitVec.ofNat 64 (l.hdr.number l.made * 2 ^ l.hdr.loC)
    lhdr := l.lhdr, hdr := l.hdr, karg := l.karg, pdist := l.pdist, node := l.node, place := p, created := l.hdr.positions
    cohorts := l.hdr.positions.map (Cohort.start l.hdr (BitVec.ofNat 64 (l.hdr.number l.made * 2 ^ l.hdr.loC)) l.karg) }

/-- A launch of which one more company is made. -/
def State.advance (s : State) (l : Launch) (x : Launch) : Launch :=
  if x.lseq = l.lseq then { x with made := x.made + 1, first := if l.made = 0 then s.dev.dseq else l.first } else x

/-- The machine once the dispatcher has made the next company of a launch of the current context. -/
def State.dispatched (s : State) (asid : Nat) (l : Launch) (p : Place) : State :=
  (s.setDev { s.dev with
    dseq := s.dev.dseq + 1, companies := insertCompany (s.nextCompany asid l p) s.dev.companies
    dispatch := if l.made + 1 < l.total then s.dev.dispatch else s.dev.dispatch.filter fun x => x ≠ (asid, l.lseq) }).setCx
  { s.cx with launches := s.cx.launches.map (s.advance l) }

theorem Device.hallFor_eq (d : Device) (n : Nat) :
    d.hallFor n = if (d.halls.getD (n % 4) Hall.reset).quiesce = true then (n % 4 + 1) % 4 else n % 4 := by
  rw [Device.hallFor, Nat.mod_add_mod]

section
variable {s : State} {l : Launch} (bare : Bare s)
include bare

/-- The dispatcher makes a company of the current context's launch. -/
theorem State.createNext_makes (goesOn : (!l.hdr.persist && decide (1024 ≤ (s.queueOf (s.dev.hallFor (l.hdr.number l.made + l.lseq.toNat))).length)) = false) :
    s.createNext s.cx.asid l = s.dispatched s.cx.asid l
      (if l.hdr.persist = true then .held else .queued (s.dev.hallFor (l.hdr.number l.made + l.lseq.toNat))) := by
  have here : ∀ (t : State) f, t.me = s.me → t.cx = s.cx → t.onContext s.cx.asid f = f t := fun t f me cx => by
    rw [← cx]
    exact t.onContext_here (me ▸ bare.me) (cx ▸ bare.cx) f
  unfold State.createNext
  dsimp only
  rw [if_neg (by rw [goesOn]; exact Bool.false_ne_true), State.mapLaunchOf, here (s.makeCompany ..) _ rfl rfl]
  have same : (s.dev.dispatch.filter fun x => x != (s.cx.asid, l.lseq)) = s.dev.dispatch.filter fun x => decide (x ≠ (s.cx.asid, l.lseq)) :=
    List.filter_congr fun x _ => by rw [Bool.eq_iff_iff, bne_iff_ne, decide_eq_true_iff]
  unfold State.dispatched
  split
  · rfl
  · rw [← same]
    rfl

variable (others : ∀ c ∈ s.dev.contexts, c.asid ≠ s.cx.asid)
include others

theorem exec_companyCreate (first : (s.dev.dispatch.find? fun x => s.cxLive x.1) = some (s.cx.asid, l.lseq))
    (launch : (s.cx.launches.find? fun x => x.lseq == l.lseq) = some l) : exec .companyCreate s = .next (s.createNext s.cx.asid l) := by
  have found : ((s.context? s.cx.asid).bind fun c => c.launches.find? fun x => x.lseq == l.lseq) = some l := by
    rw [State.context?_here bare.cx others]
    exact launch
  show execCompanyCreate s = _
  rw [execCompanyCreate, first]
  dsimp only
  rw [found]

end

/-- A cohort as it starts (R182). -/
theorem Cohort.start_sget (h : LHdr) (cwid karg : DWord) (j r : Nat) :
    (Cohort.start h cwid karg j).sget r = if r = 1 then hi32 karg else if r = 0 then lo32 karg else 0#32 := by
  have read : (Cohort.start h cwid karg j).sget r = Store.get 0#32 (Store.set 0#32 (Store.set 0#32 [] 0 (lo32 karg)) 1 (hi32 karg)) r := rfl
  rw [read, Store.get_set, Store.get_set]
  rfl

theorem Cohort.start_pc (h : LHdr) (cwid karg : DWord) (j : Nat) :
    (Cohort.start h cwid karg j).pc = (if h.split = true ∧ h.nprod ≤ j then h.entry1 else h.entry0).setWidth 56 := by
  show (if h.role j = 0 then h.entry0 else h.entry1).setWidth 56 = _
  rw [LHdr.role]
  split <;> rfl

/-! ## Stealing and persistent launches (R325, R328) -/

section
variable {s : State} (waiting : Waiting s)
include waiting

theorem Waiting.exec_companySteal (live : s.replaying = false) {cluster core : Nat} {h : Company} (inRange : cluster < 32) (of_ : core / 16 = cluster)
    (none_ : s.queueOf (cluster / 8) = []) (idle : ∃ c, c / 16 = cluster ∧ s.on c = [])
    (first : ((s.allowed s.stealFrom).find? fun x => (s.bestCore x cluster).isSome) = some h) (dseq : h.dseq = s.co.dseq) (best : s.bestCore h cluster = some core) :
    exec (.companySteal cluster s.co.dseq core) s = .next (s.placeOn s.co.dseq core) := by
  have anIdle : ((coresOf cluster).any fun c => (s.on c).isEmpty) = true := by
    obtain ⟨c, is, free⟩ := idle
    rw [List.any_eq_true]
    exact ⟨c, List.mem_map.2 ⟨c % 16, List.mem_range.2 (by omega), by omega⟩, by rw [free]; rfl⟩
  refine congrArg Host.Outcome.next ((if_pos ⟨inRange, of_, ?_, anIdle⟩).trans (waiting.placeFrom live first dseq best))
  rw [none_]
  rfl

theorem Waiting.exec_persistentPlace (live : s.replaying = false) (alive : s.cx.alive = true) (own : s.co.asid = s.cx.asid) {l : Launch}
    (first : s.heldFirst = some s.co.dseq) (alone : (s.companies.filter fun x => x.asid == s.co.asid && x.lseq == s.co.lseq && x.place == .held) = [s.co])
    (others : ∀ c ∈ s.dev.contexts, c.asid ≠ s.co.asid) (launch : (s.cx.launches.find? fun x => x.lseq == s.co.lseq) = some l) (made : l.made = l.total) (core : Nat) :
    exec (.persistentPlace [core]) s = .next (if s.fits s.co core = true then s.placeOn s.co.dseq core else s) := by
  have whole : (((s.context? s.co.asid).bind fun c => c.launches.find? fun l => l.lseq == s.co.lseq).any fun l => l.made == l.total) = true := by
    rw [own] at others ⊢
    rw [State.context?_here alive others, Option.bind_some, launch]
    exact beq_iff_eq.2 made
  have due : s.placeDue s.co core = true := by rw [State.placeDue, live]; rfl
  have ready : s.refillWaits s.co (fun _ => s.co.restored) = false := s.refillWaits_none _ fun _ _ => waiting.anew
  have found : (s.heldFirst.bind fun d => s.companies.find? fun h => h.dseq == d) = some s.co := by rw [first]; exact waiting.found
  show execPersistentPlace [core] s = _
  rw [execPersistentPlace, found]
  dsimp only
  rw [alone, if_pos whole, State.placeAll, due, ready]
  cases s.fits s.co core <;> rfl

end

/-! ## The active set (R330 to R333) -/

section
variable {s : State} {d j core : Nat} (at_ : s.isAt d j = true) (place : s.co.place = .core core) (running : s.me.stat = .running) (pending : s.me.active = false)
  (noStop : s.me.stopDue = 0) (noWait : s.me.wait = .none)

theorem State.activate_me (noWait : s.me.wait = .none) : s.activate.me = { s.me with active := true, since := s.dev.order } :=
  congrArg (fun w => { s.me with active := true, wait := w, since := s.dev.order }) noWait.symm

include place in
theorem State.core_of : s.core = core := by rw [State.core, Company.coreOf, place]; rfl

include place running pending noStop noWait in
/-- A cohort that waits for nothing is ready for the active set. -/
theorem State.ready_here : s.pendingReadyAt s.coAll s.me = true := by
  have here : s.coAll.coreOf = some core := by rw [Company.coreOf, State.coAll_place, place]
  have over' : s.waitOver s.coAll s.me core = true := by rw [State.waitOver, noWait]
  rw [State.pendingReadyAt, here]
  dsimp only
  rw [running, pending, noStop, over']
  rfl

include at_ place running pending noStop noWait

theorem exec_activeSetFill : exec (.activeSetFill d j) s = .next (if (s.activeOn core).length < 8 then s.activate else s) := by
  refine congrArg Host.Outcome.next ((State.onCohort_at _ _ _ _ at_).trans ?_)
  rw [State.core_of place]
  exact if_congr (and_iff_right (State.ready_here place running pending noStop noWait)) rfl rfl

omit running pending noStop noWait in
theorem exec_activeSetDisplace_room (room : (s.activeOn core).length < 8) : exec (.activeSetDisplace d j) s = .next s := by
  refine congrArg Host.Outcome.next ((State.onCohort_at _ _ _ _ at_).trans ?_)
  rw [State.core_of place]
  exact if_neg fun h => by omega

theorem exec_activeSetDisplace {x : Nat × Cohort} (full : 8 ≤ (s.activeOn core).length) (first : earliest (s.activeOn core) = some x) :
    exec (.activeSetDisplace d j) s = .next (s.onCohort x.1 x.2.j fun u => u.setMe { u.me with active := false }).activate := by
  refine congrArg Host.Outcome.next ((State.onCohort_at _ _ _ _ at_).trans ?_)
  rw [State.core_of place, if_pos ⟨State.ready_here place running pending noStop noWait, full⟩, first]

end

/-- WAITTIME_EXPIRY of the current cohort (R50). -/
theorem exec_waittimeExpiry {s : State} {d j : Nat} (at_ : s.isAt d j = true) :
    exec (.waittimeExpiry d j) s = .next (if s.me.stat = .running ∧ s.me.wait = .time then s.setMe { s.me with wait := .none } else s) :=
  congrArg Host.Outcome.next (State.onCohort_at _ _ _ _ at_)

theorem State.headBlock_eq (s : State) (hall : Nat) : exec (.headBlock hall) s = .next (match (s.ready hall).head? with
    | some h => s.setDev { s.dev with halls := s.dev.halls.mapIdx fun i x => if i = hall then { x with block := some h.dseq } else x }
    | none => s) := rfl

/-! ## Exhaustion (R338, R339) -/

/-- A company that holds above its floors what a cohort of a core asks for. -/
def State.HoldsAwaited (s : State) (core : Nat) (x : Company) : Prop := ∃ y ∈ s.on core, ∃ c ∈ y.cohorts, c.requests = true ∧ x.above c.wait = true

/-- The kinds of resource that cohorts of a core ask for. -/
def State.awaited (s : State) (core : Nat) : List Wait := ((s.on core).flatMap fun h => (h.cohorts.filter Cohort.requests).map (·.wait)).eraseDups

theorem State.awaited_any (s : State) (core : Nat) (x : Company) : (s.awaited core).any x.above = true ↔ s.HoldsAwaited core x := by
  simp only [State.awaited, List.any_eq_true, List.mem_eraseDups, List.mem_flatMap, List.mem_map, List.mem_filter, State.HoldsAwaited]
  constructor
  · rintro ⟨w, ⟨y, on, c, ⟨mem, requests⟩, rfl⟩, above⟩
    exact ⟨y, on, c, mem, requests, above⟩
  · rintro ⟨y, on, c, mem, requests, above⟩
    exact ⟨_, ⟨y, on, c, ⟨mem, requests⟩, rfl⟩, above⟩

/-- A core on which no cohort asks for anything has no deadlock. -/
theorem exec_allocationDeadlock_none {s : State} {core : Nat} (none_ : ∀ h ∈ s.on core, ∀ c ∈ h.cohorts, c.requests = false) :
    exec (.allocationDeadlock core) s = .next s := by
  have noReqs : ((s.on core).filter fun h => h.cohorts.any Cohort.requests) = [] := List.filter_eq_nil_iff.2 fun h mem => by
    simpa using none_ h mem
  refine congrArg Host.Outcome.next ?_
  rw [State.deadlock]
  exact if_pos (.inl (by rw [noReqs]; rfl))

/-- The victim of a deadlock is the youngest holder of what is awaited (R339). -/
theorem exec_allocationDeadlock {s : State} {core : Nat} (standing : Standing s) (requested : ∃ x ∈ s.on core, ∃ c ∈ x.cohorts, c.requests = true)
    (noVictim : ∀ x ∈ s.on core, x.victim = false) (holds : s.HoldsAwaited core s.co)
    (last : ∃ pre post, s.on core = pre ++ s.co :: post ∧ ∀ x ∈ post, ¬ s.HoldsAwaited core x)
    (another : ∃ x ∈ s.on core, ∃ c ∈ x.cohorts, c.requests = true ∧ x.dseq ≠ s.co.dseq) (spills : (s.dev.reg 0x4000).testBit 0 = true) :
    exec (.allocationDeadlock core) s = .next (s.setCo { s.co with
      victim := true, cohorts := s.co.cohorts.map fun c => if c.stat = .ended ∨ c.stopDue ≠ 0 then c else { c with stopDue := 5 } }) := by
  have asks : ¬ (((s.on core).filter fun h => h.cohorts.any Cohort.requests).isEmpty = true ∨ ((s.on core).any fun h => h.victim) = true) := by
    obtain ⟨x, on, c, mem, requests⟩ := requested
    rintro (none_ | victim)
    · exact List.filter_eq_nil_iff.1 (List.isEmpty_iff.1 none_) x on (List.any_eq_true.2 ⟨c, mem, requests⟩)
    · obtain ⟨y, on, is⟩ := List.any_eq_true.1 victim
      rw [noVictim y on] at is
      cases is
  have victim : youngest ((s.on core).filter fun h => (s.awaited core).any h.above) = some s.co := by
    obtain ⟨pre, post, on, none_⟩ := last
    have rest : (post.filter fun h => (s.awaited core).any h.above) = [] := List.filter_eq_nil_iff.2 fun x mem h => none_ x mem ((s.awaited_any core x).1 h)
    rw [youngest, on, List.filter_append, List.filter_cons_of_pos (p := fun h : Company => (s.awaited core).any h.above) ((s.awaited_any core s.co).2 holds), rest]
    simp
  have others : ¬ (((s.on core).filter fun h => (s.awaited core).any h.above).length = 1 ∧
      (((s.on core).filter fun h => h.cohorts.any Cohort.requests).all fun h => h.dseq == s.co.dseq) = true) := by
    obtain ⟨x, on, c, mem, requests, other⟩ := another
    rintro ⟨-, all⟩
    exact other (beq_iff_eq.1 (List.all_eq_true.1 all x (List.mem_filter.2 ⟨on, List.any_eq_true.2 ⟨c, mem, requests⟩⟩)))
  refine congrArg Host.Outcome.next ?_
  unfold State.deadlock
  dsimp only
  rw [if_neg asks, show ((s.on core).flatMap fun h => (h.cohorts.filter Cohort.requests).map (·.wait)).eraseDups = s.awaited core from rfl, victim]
  dsimp only
  rw [if_neg (by rw [bit_eq_testBit, spills]; decide), if_neg others, standing.onCompany, if_pos standing.me]
  rfl

end Sys2Proof.Machine
end

section
/-!
SUPPORT. The forced spill and the reload (R336, R339, R340), and the retirement of a company (R184).
-/
namespace Sys2Proof.Machine

/-! ## Records of a spill (R340) -/

theorem State.recording_of_reg {s t : State} (reg : t.dev.reg 0x60000 = s.dev.reg 0x60000) (unit : t.dev.recUnit = s.dev.recUnit) (cx : t.cx = s.cx) :
    t.recording = s.recording := by
  unfold State.recording State.recLive State.recMode
  rw [reg, unit, cx]

section
variable {s : State} (off : s.recording = false)
include off

theorem State.spillBarred_off (x : Nat) : s.spillBarred x = false := by
  have replays : ∀ c, (s.setMe c).replays = false := fun c => by
    rw [State.replays, State.recording_congr (s := s) (t := s.setMe c) rfl rfl, off]
    rfl
  rw [State.spillBarred, List.any_eq_false]
  intro c _
  dsimp only
  rw [State.replayBars, replays]
  exact Bool.false_ne_true

/-- The records of a spill or a reload, which a context makes that is not recorded. -/
theorem State.logSpill_within (standing : Standing s) (ascending : Ascending s.co.cohorts) (x : Nat) : Within s (s.logSpill x) := by
  refine Within.logs standing ascending off 8 (fun _ => x) _ (fun j mem => ?_) (.inl rfl)
  obtain ⟨c, some_, rfl⟩ := List.mem_map.1 mem
  exact List.mem_map_of_mem (List.mem_of_mem_filter some_)

end

/-! ## The forced spill (R336, R339) -/

/-- The registers that a spill of the current company takes. -/
def State.spillRegs (s : State) : List (Nat × Nat × VReg) := s.co.cohorts.flatMap fun c => (s.co.spillNames c).map fun r => (c.j, r, c.vget r)

/-- The tiles that a spill of the current company takes. -/
def State.spillTiles (s : State) : List (Nat × Tile) := ((s.co.tiles.map (·.1)).drop s.co.hdr.tfloor).map fun t => (t, s.co.tileOf t)

/-- The device once the area of the current company holds what a spill writes. -/
def State.spillDev (s : State) : Device :=
  s.spillTiles.foldl (fun d x => if Store.get false s.co.dirty x.1 || s.co.restored then d.putP (spillTile (s.areaOf s.co) x.1) x.2.bytes 0#64 else d)
    (s.spillRegs.foldl (fun d x => d.putP (spillReg (s.areaOf s.co) x.1 x.2.1) x.2.2.bytes 0#64) s.dev)

/-- What the current company's area holds once it is spilled. -/
def State.spillKeeps (s : State) : Spill :=
  let kept := s.co.spill.getD { area := s.areaOf s.co, regs := [], tiles := [] }
  { area := s.areaOf s.co, regs := kept.regs ++ s.spillRegs.map fun x => (x.1, x.2.1, x.2.2.poison), tiles := kept.tiles ++ s.spillTiles.map fun x => (x.1, x.2.poison) }

/-- The current company once it is spilled. -/
def State.spillCo (s : State) : Company :=
  { s.co with
    cohorts := s.co.cohorts.map fun c => (s.co.spillNames c).foldl Cohort.vfree c
    tiles := ((s.co.tiles.map (·.1)).drop s.co.hdr.tfloor).foldl (fun m t => Store.set none m t none) s.co.tiles
    dirty := ((s.co.tiles.map (·.1)).drop s.co.hdr.tfloor).foldl (fun m t => Store.set false m t false) s.co.dirty
    slots := s.co.slots.mapIdx fun i x => if s.co.hdr.gfloor ≤ i then { x with returned := true } else x
    spill := some s.spillKeeps, victim := false }

section
variable {s : State}

theorem State.spillCompany_eq : s.spillCompany =
    (s.setCo s.spillCo).setDev (s.spillDev.setField 0x4008 15 0 (min (bits (s.spillDev.reg 0x4008) 15 0 + 1) 0xFFFF)) := rfl

/-- A spill writes memory alone. -/
theorem State.spillDev_elsewhere : s.spillDev.elsewhere = s.dev.elsewhere := by
  rw [State.spillDev, foldl_keeps Device.elsewhere, foldl_keeps Device.elsewhere]
  · exact fun d _ => putP_elsewhere d ..
  · intro d x
    split
    · exact putP_elsewhere ..
    · rfl

theorem State.spillDev_reg (o : Nat) : s.spillDev.reg o = s.dev.reg o := Device.reg_congr (congrArg Device.ctrl s.spillDev_elsewhere :) o

theorem State.spillCo_keys : s.spillCo.cohorts.map (fun c => (c.j, c.stat)) = s.co.cohorts.map fun c => (c.j, c.stat) := by
  show (s.co.cohorts.map fun c => (s.co.spillNames c).foldl Cohort.vfree c).map _ = _
  rw [List.map_map]
  exact List.map_congr_left fun c _ => foldl_keeps (fun c : Cohort => (c.j, c.stat)) (f := Cohort.vfree) (fun _ _ => rfl) _ c

theorem State.spillKeeps_regs (first : s.co.spill = none) : (s.spillKeeps.regs.map fun x => (x.1, x.2.1)) =
    s.co.cohorts.flatMap fun c => (s.co.spillNames c).map fun r => (c.j, r) := by
  rw [State.spillKeeps, first]
  simp [State.spillRegs, List.map_flatMap, Function.comp_def]

theorem State.spillKeeps_tiles (first : s.co.spill = none) : s.spillKeeps.tiles.map (·.1) = (s.co.tiles.map (·.1)).drop s.co.hdr.tfloor := by
  rw [State.spillKeeps, first]
  simp [State.spillTiles, Function.comp_def]

/-- Slots above the floor go back to the core. -/
theorem returned_slots (slots : List Slot) (floor : Nat) (back : List Slot) (is : back = slots.mapIdx fun i x => if floor ≤ i then { x with returned := true } else x) :
    (back.map fun x => { x with returned := false }) = (slots.map fun x => { x with returned := false }) ∧
      ∀ i, i < slots.length → ((back.getD i Slot.fresh).returned = true ↔ floor ≤ i ∨ (slots.getD i Slot.fresh).returned = true) := by
  subst is
  refine ⟨List.ext_getElem (by simp) fun i lt lt' => ?_, fun i lt => ?_⟩
  · simp only [List.getElem_map, List.getElem_mapIdx]
    split <;> rfl
  · rw [List.getD_eq_getElem _ _ (by simpa using lt), List.getD_eq_getElem _ _ lt, List.getElem_mapIdx]
    split
    next above => simp [above]
    next below => simp [below]

section
variable (standing : Standing s)
include standing

theorem exec_forcedSpill_none (idle : s.co.victim = false ∨ s.stillCompany = false) : exec (.forcedSpill s.co.dseq) s = .next s := by
  refine congrArg Host.Outcome.next ((standing.onCompany _).trans ?_)
  dsimp only
  rw [standing.parkMe]
  refine if_neg fun ⟨victim, _, still, _⟩ => ?_
  rcases idle with none_ | moves
  · exact absurd (none_.symm.trans victim) (by decide)
  · exact absurd (moves.symm.trans still) (by decide)

variable (ascending : Ascending s.co.cohorts) (off : s.recording = false)
include off

theorem exec_forcedSpill (live : s.cxLive s.co.asid = true) {core : Nat} (place : s.co.place = .core core) (victim : s.co.victim = true)
    (still : s.stillCompany = true) : exec (.forcedSpill s.co.dseq) s = .next (s.spillCompany.logSpill 0) := by
  have placed : s.co.coreOf.isSome = true := by rw [Company.coreOf, place]; rfl
  refine congrArg Host.Outcome.next ((standing.onCompany _).trans ?_)
  dsimp only
  rw [standing.parkMe]
  exact if_pos ⟨victim, placed, still, live, State.spillBarred_off off 0⟩

include ascending in
theorem State.spill_within : Standing s.spillCompany ∧ Ascending s.spillCompany.co.cohorts ∧ Within s.spillCompany (s.spillCompany.logSpill 0) := by
  have asc : Ascending s.spillCompany.co.cohorts := ascending.congr State.spillCo_keys
  have stands : Standing s.spillCompany := ⟨standing.me, standing.co⟩
  have unit : s.spillDev.recUnit = s.dev.recUnit := (congrArg Device.recUnit s.spillDev_elsewhere :)
  have unrecorded : s.spillCompany.recording = false := by
    refine (State.recording_of_reg (s := s) (t := s.spillCompany) ?_ ?_ rfl).trans off
    · rw [State.spillCompany_eq, State.setDev_dev, Device.reg_setField, if_neg (by decide), State.spillDev_reg]
    · rw [State.spillCompany_eq, State.setDev_dev, Device.setField_rest]
      exact unit
  exact ⟨stands, asc, State.logSpill_within unrecorded stands asc 0⟩

end

end

/-! ## The reload (R340) -/

/-- The state of a cohort that a reload lets go on. -/
def CStat.resumed : CStat → CStat
  | .stopped _ => .running
  | x => x

/-- A cohort that goes on after a reload. -/
def Cohort.resumed (c : Cohort) : Cohort :=
  match c.stat with
  | .stopped _ => { c with stat := .running, wait := .none, active := false, stopDue := 0 }
  | _ => c

theorem Cohort.resumed_keys (c : Cohort) : (c.resumed.j, c.resumed.pc, c.resumed.stat) = (c.j, c.pc, c.stat.resumed) := by
  rw [Cohort.resumed]
  cases is : c.stat <;> simp [CStat.resumed, is]

section
variable {s : State}

/-- What a spilled company gets back changes no cohort but in its registers. -/
theorem State.unspill_eq {sp : Spill} (spilled : s.co.spill = some sp) : ∃ cs ts, s.unspill = s.setCo { s.co with cohorts := cs, tiles := ts, spill := none } ∧
    cs.map (fun c => (c.j, c.pc, c.stat)) = s.co.cohorts.map fun c => (c.j, c.pc, c.stat) := by
  unfold State.unspill
  rw [spilled]
  refine ⟨_, _, rfl, ?_⟩
  rw [List.map_map]
  refine List.map_congr_left fun c _ => foldl_keeps (fun c : Cohort => (c.j, c.pc, c.stat)) ?_ _ c
  exact fun _ _ => rfl

theorem Company.slotAt_kept {h : Company} (kept : ∀ x ∈ h.slots, x.returned = false) (i : Nat) : (h.slotAt i).returned = false := by
  rw [Company.slotAt, List.getD_eq_getElem?_getD]
  cases found : h.slots[i]? with
  | none => rfl
  | some x => exact kept x (List.mem_of_getElem? found)

variable (standing : Standing s) {sp : Spill} (spilled : s.co.spill = some sp)
include standing spilled

theorem exec_reload_none {core : Nat} (place : s.co.place = .core core) (refused : s.reloadGranted sp core = false) : exec (.reload s.co.dseq) s = .next s := by
  have placed : s.co.coreOf = some core := by rw [Company.coreOf, place]
  refine congrArg Host.Outcome.next ((standing.onCompany _).trans ?_)
  dsimp only
  rw [standing.parkMe, spilled, placed]
  exact if_neg fun h => by rw [refused] at h; exact absurd h.1 (by decide)

/-- A company that has returned no slot gets back what it spilled and goes on. -/
theorem exec_reload (off : s.recording = false) (live : s.cxLive s.co.asid = true) {core : Nat}
    (place : s.co.place = .core core) (granted : s.reloadGranted sp core = true) (kept : ∀ x ∈ s.co.slots, x.returned = false) :
    exec (.reload s.co.dseq) s = .next (let v := (s.unspill.logSpill 1).parkMe; v.setCo { v.co with cohorts := v.co.cohorts.map Cohort.resumed }) := by
  have placed : s.co.coreOf = some core := by rw [Company.coreOf, place]
  have waits : s.refillWaits s.co (fun x => x.returned) = false := s.refillWaits_none _ kept
  have none_ : ((List.range s.co.slots.length).filter fun i => (s.co.slotAt i).returned) = [] :=
    List.filter_eq_nil_iff.2 fun i _ => by rw [Company.slotAt_kept kept]; exact Bool.false_ne_true
  refine congrArg Host.Outcome.next ((standing.onCompany _).trans ?_)
  dsimp only
  rw [standing.parkMe, spilled, placed]
  dsimp only
  rw [if_pos ⟨granted, live, waits, State.spillBarred_off off 1⟩, none_]
  rfl

/-- What a reload leaves of the company. -/
theorem State.reload_facts (ascending : Ascending s.co.cohorts) (off : s.recording = false) :
    let v := (s.unspill.logSpill 1).parkMe
    v.me.stat = .absent ∧ { v.co with cohorts := s.co.cohorts, tiles := s.co.tiles, spill := some sp } = s.co ∧ v.co.spill = none ∧
      v.co.cohorts.map (fun c => (c.j, c.pc, c.stat)) = s.co.cohorts.map (fun c => (c.j, c.pc, c.stat)) ∧ v.dev = s.dev ∧ v.cx = s.cx ∧ v.turns = s.turns := by
  obtain ⟨cs, ts, unspilled, keys⟩ := State.unspill_eq spilled
  have keys' : cs.map (fun c => (c.j, c.stat)) = s.co.cohorts.map fun c => (c.j, c.stat) := by
    have pairs := congrArg (List.map fun x : Nat × VAddr × CStat => (x.1, x.2.2)) keys
    rw [List.map_map, List.map_map] at pairs
    exact pairs
  rw [unspilled]
  have stands : Standing (s.setCo { s.co with cohorts := cs, tiles := ts, spill := none }) := ⟨standing.me, standing.co⟩
  have asc : Ascending cs := ascending.congr keys'
  have off' : (s.setCo { s.co with cohorts := cs, tiles := ts, spill := none }).recording = false := (State.recording_congr (s := s) rfl rfl).trans off
  obtain ⟨co, me, dev, cx, turns⟩ := (State.logSpill_within off' stands asc 1).parkMe stands asc
  refine ⟨me, ?_, ?_, ?_, dev, cx, turns⟩
  · rw [co, ← spilled]
    rfl
  · rw [co]
    rfl
  · rw [co]
    exact keys

end

/-! ## Retirement (R184) -/

section
variable {s : State} (standing : Standing s)

/-- A company whose cohorts have ended with nothing under way. -/
def State.Done (s : State) : Prop := (∀ c ∈ s.co.cohorts, c.stat = .ended ∧ c.ops = []) ∧ s.co.fired = [] ∧
  (∀ p ∈ s.dev.pieces, ∀ j, p.owner ≠ .cohort s.co.dseq j) ∧ ∀ f ∈ s.dev.fills, f.dseq ≠ s.co.dseq

include standing in
theorem State.retireReady_iff : s.retireReady = true ↔ s.Done := by
  have owned : (s.dev.pieces.any fun p => match p.owner with
      | .cohort d _ => d == s.co.dseq
      | .packet _ _ => false) = false ↔ ∀ p ∈ s.dev.pieces, ∀ j, p.owner ≠ .cohort s.co.dseq j := by
    rw [List.any_eq_false]
    refine forall₂_congr fun p _ => ?_
    cases p.owner <;> simp
  have ended : (s.co.cohorts.all fun c => c.stat == .ended && c.ops.isEmpty) = true ↔ ∀ c ∈ s.co.cohorts, c.stat = .ended ∧ c.ops = [] := by
    simp
  have filled : (s.dev.fills.any fun f => f.dseq == s.co.dseq) = false ↔ ∀ f ∈ s.dev.fills, f.dseq ≠ s.co.dseq := by
    simp
  rw [State.retireReady, standing.coAll, Bool.and_eq_true, Bool.and_eq_true, Bool.and_eq_true, ended, List.isEmpty_iff, Bool.not_eq_true', Bool.not_eq_true', filled,
    State.Done, ← owned]
  exact ⟨fun ⟨⟨⟨ended, fired⟩, pieces⟩, fills⟩ => ⟨ended, fired, pieces, fills⟩, fun ⟨ended, fired, pieces, fills⟩ => ⟨⟨⟨ended, fired⟩, pieces⟩, fills⟩⟩

include standing in
theorem exec_companyRetire {core : Nat} (place : s.co.place = .core core) :
    exec (.companyRetire s.co.dseq) s = .next (if s.retireReady = true then s.retireCompany.endSave else s) := by
  refine congrArg Host.Outcome.next ((standing.onCompany _).trans ?_)
  rw [place]

/-- The current context once a company of one of its launches has retired. -/
def State.retiredCx (s : State) : Context :=
  { s.cx with glgen := s.cx.glgen + BitVec.ofNat 32 s.co.slots.length, srStale := s.cx.srStale.filter fun p => p.1 ≠ s.co.dseq
              launches := s.cx.launches.map fun x => if x.lseq = s.co.lseq then { x with retired := x.retired + 1 } else x }

/-- A company retires that is not the last of its launch. -/
theorem State.retireCompany_eq {l : Launch} (launch : (s.cx.launches.find? fun x => x.lseq == s.co.lseq) = some l) (noNode : l.node = none)
    (more : l.retired + 1 ≠ l.total) : s.retireCompany = s.dropCompany.setCx s.retiredCx := by
  have found : ((s.cx.launches.map fun x => if x.lseq = s.co.lseq then { x with retired := x.retired + 1 } else x).find? fun x => x.lseq == s.co.lseq) =
      some { l with retired := l.retired + 1 } := by
    have same : ((fun x : Launch => x.lseq == s.co.lseq) ∘ fun x => if x.lseq = s.co.lseq then { x with retired := x.retired + 1 } else x) =
        fun x => x.lseq == s.co.lseq := funext fun x => by
      dsimp only [Function.comp_apply]
      split <;> rfl
    have is : l.lseq = s.co.lseq := by simpa using List.find?_some launch
    rw [List.find?_map, same, launch, Option.map_some, if_pos is]
  have kept : (s.cx.srStale.filter fun p => p.1 != s.co.dseq) = s.cx.srStale.filter fun p => decide (p.1 ≠ s.co.dseq) :=
    List.filter_congr fun x _ => by rw [Bool.eq_iff_iff, bne_iff_ne, decide_eq_true_iff]
  unfold State.retireCompany State.mapLaunch State.retiredCx
  rw [← kept]
  dsimp only
  generalize looked : List.find? _ _ = o
  obtain rfl : o = _ := looked.symm.trans found
  exact (if_neg (by simp [noNode])).trans (if_neg more)

end

end Sys2Proof.Machine
end

section
/-!
O52: scheduling.
-/
namespace Sys2Proof.Machine

/-- The current cohort takes an active place, and with it the present order (R333). -/
theorem State.activate_does {s : State} (noWait : s.me.wait = .none) : s.activate.me = { s.me with active := true, since := s.dev.order } ∧
    s.activate.dev = { s.dev with order := s.dev.order + 1 } := ⟨State.activate_me noWait, rfl⟩

/-- A cohort takes the active place of another of its company (R333). -/
theorem State.displaces {s : State} (gathered : Gathered s) (noWait : s.me.wait = .none) {k : Nat} (other : k ≠ s.me.j) (mate : ∃ c ∈ s.co.cohorts, c.j = k) :
    let t := (s.onCohort s.co.dseq k fun u => u.setMe { u.me with active := false }).activate
    (t.me = { s.me with active := true, since := s.dev.order } ∧ t.dev = { s.dev with order := s.dev.order + 1 }) ∧
      (∀ i, i ≠ s.me.j → t.mate? i = (s.mate? i).map fun c => if i = k then { c with active := false } else c) ∧
      { t.co with cohorts := [] } = { s.co with cohorts := [] } ∧ t.cx = s.cx ∧ t.turns = s.turns := by
  obtain ⟨c, found⟩ : ∃ c, s.mate? k = some c := by
    obtain ⟨c, mem, is⟩ := mate
    refine Option.isSome_iff_exists.1 ?_
    rw [State.mate?, if_neg other, List.find?_isSome]
    exact ⟨c, mem, beq_iff_eq.2 is⟩
  obtain ⟨X, changed, -, mates⟩ := State.onMate gathered (fun u => u.setMe { u.me with active := false }) (fun c => { c with active := false }) (fun _ => rfl)
    (fun _ => ⟨rfl, id⟩) other found
  dsimp only
  rw [changed]
  refine ⟨State.activate_does noWait, fun i others => ?_, rfl, rfl, rfl⟩
  have same : State.mate? (State.activate { s with co := { s.co with cohorts := X } }) i = State.mate? { s with co := { s.co with cohorts := X } } i :=
    (if_neg others).trans (if_neg others).symm
  rw [same, mates]
  split
  next is => rw [is, found]; simp
  next isnt => simp

/-- Settles O52, a rule of the dispatcher, of placement, of the active set or of exhaustion for each clause. A company is granted its floor of slots as it
is placed (log entry 15), and its cohorts have fetched their first clause (log entry 85): choices of the model. -/
theorem scheduling : Obligations.Scheduling := by
  unfold Obligations.Scheduling
  intro ascending placed waiting
  have waits : ∀ s, waiting s → Waiting s := fun s ⟨standing, asc, off, _, anew, slotless, floor, _, others⟩ =>
    ⟨standing, asc, off, anew, slotless, floor, others⟩
  have live : ∀ s, waiting s → s.replaying = false := fun s ⟨_, _, _, still, _⟩ => still
  have places : ∀ s core, waiting s → placed s (s.placeOn s.co.dseq core) core := fun s core w => (waits s w).placedOn core
  refine ⟨?create, ?start, ?place, ?none, ?steal, ?full, ?persistent, ?block, ?active, ?expiry, ?quiet, ?deadlock, ?spill, ?retire⟩
  case create =>
    intro s asid l bare own _ others first launch
    subst own
    intro num base hall cwid
    have makes := exec_companyCreate bare others first launch
    have is : s.dev.hallFor (l.hdr.number l.made + l.lseq.toNat) = hall := s.dev.hallFor_eq _
    refine ⟨fun shared full => ?_, fun room => ⟨_, makes.trans (congrArg _ (State.createNext_makes bare ?_)), ?_⟩⟩
    · refine makes.trans (congrArg _ (if_pos ?_))
      rw [shared, is]
      exact decide_eq_true full
    · rw [is]
      rcases room with persists | room
      · rw [persists]
        rfl
      · rw [decide_eq_false (by omega), Bool.and_false]
    · rw [is]
      exact ⟨rfl, rfl, rfl, rfl, fun _ => rfl, rfl, rfl, rfl, rfl⟩
  case start =>
    intro h cwid karg j _
    exact ⟨rfl, Cohort.start_sget .., Cohort.start_sget .., fun r low _ => (Cohort.start_sget ..).trans (by rw [if_neg (by omega), if_neg (by omega)]), rfl, rfl,
      Cohort.start_pc .., rfl⟩
  case place =>
    intro s core h w first dseq best
    exact ⟨_, congrArg Host.Outcome.next ((waits s w).placeFrom (live s w) first dseq best), places s core w⟩
  case none =>
    intro s dseq core misfit
    have found : ((s.allowed (core / 128)).find? fun x => (s.bestCore x (core / 16)).isSome) = none :=
      List.find?_eq_none.2 fun h mem => by rw [misfit h mem]; exact Bool.false_ne_true
    refine congrArg Host.Outcome.next ?_
    rw [State.placeFrom, found]
  case steal =>
    intro s cluster core h w inRange of_ none_ idle first dseq best
    exact ⟨_, (waits s w).exec_companySteal (live s w) inRange of_ none_ idle first dseq best, places s core w⟩
  case full =>
    intro s cluster dseq core some_
    exact congrArg Host.Outcome.next (if_neg fun ⟨_, _, none_, _⟩ => some_ (List.isEmpty_iff.1 none_))
  case persistent =>
    intro s core l w first alone others launch made
    obtain ⟨-, -, -, -, -, -, -, ⟨own, alive⟩, -⟩ := id w
    have does := (waits s w).exec_persistentPlace (live s w) alive own first alone others launch made core
    refine ⟨fun fits => ?_, fun misfit => ?_⟩
    · rw [if_pos fits] at does
      exact ⟨_, does, places s core w⟩
    · rw [misfit] at does
      exact does
  case block =>
    intro s hall
    have does := s.headBlock_eq hall
    refine ⟨fun none_ => ?_, fun h hs some_ => ?_⟩
    · rw [none_] at does
      exact does
    · rw [some_] at does
      exact does
  case active =>
    intro s d j core at_ place running pending noStop noWait taken
    have fill := exec_activeSetFill at_ place running pending noStop noWait
    refine ⟨fun room => ?_, fun full => ?_, exec_activeSetDisplace_room at_ place, fun full gathered x first other mate => ?_⟩
    · rw [if_pos room] at fill
      exact ⟨_, fill, State.activate_does noWait, rfl, rfl, rfl⟩
    · rw [if_neg (by omega)] at fill
      exact fill
    · have does := exec_activeSetDisplace at_ place running pending noStop noWait full first
      obtain ⟨is, here⟩ : s.co.dseq = d ∧ s.me.j = j := by
        simp only [State.isAt, Bool.and_eq_true, beq_iff_eq] at at_
        obtain ⟨⟨⟨-, is⟩, -⟩, here⟩ := at_
        exact ⟨is, here⟩
      subst is here
      exact ⟨_, does, State.displaces gathered noWait other mate⟩
  case expiry => exact fun s d j => exec_waittimeExpiry
  case quiet => exact fun s core => exec_allocationDeadlock_none
  case deadlock =>
    intro s core h standing _ requested noVictim ⟨holds, last, another⟩ is spills
    subst is
    exact exec_allocationDeadlock standing requested noVictim holds last another spills
  case spill =>
    intro s core standing asc off place isLive h
    refine ⟨exec_forcedSpill_none standing, fun victim still first => ?_, fun sp spilled granted kept => ?_, fun sp spilled => exec_reload_none standing spilled place⟩
    · obtain ⟨stands, asc', within⟩ := State.spill_within standing asc off
      obtain ⟨slots, returned⟩ := returned_slots s.co.slots s.co.hdr.gfloor s.spillCompany.co.slots rfl
      refine ⟨_, s.spillKeeps, exec_forcedSpill standing off isLive place victim still, ?_⟩
      rw [within.coAll stands asc', within.dev, within.cx, within.turns]
      refine ⟨rfl, rfl, State.spillKeeps_regs first, State.spillKeeps_tiles first, rfl, rfl, rfl, slots, returned, ?_, fun o other => ?_, rfl, rfl⟩
      · rw [State.spillCompany_eq, State.setDev_dev, Device.reg_setField, if_pos rfl, State.spillDev_reg]
      · rw [State.spillCompany_eq, State.setDev_dev, Device.reg_setField, if_neg other, State.spillDev_reg]
    · obtain ⟨me, co, spill, keys, dev, cx, turns⟩ := State.reload_facts standing spilled asc off
      have does := exec_reload standing spilled off isLive place granted kept
      generalize (s.unspill.logSpill 1).parkMe = v at me co spill keys dev cx turns does
      have whole : (v.setCo { v.co with cohorts := v.co.cohorts.map Cohort.resumed }).coAll = { v.co with cohorts := v.co.cohorts.map Cohort.resumed } := if_pos me
      refine ⟨_, does, ?_⟩
      rw [whole]
      refine ⟨spill, (congrArg Company.place co :), (congrArg Company.slots co :), ?_, fun a => by rw [State.setCo_dev, dev], cx, turns⟩
      have resumed : (v.co.cohorts.map Cohort.resumed).map (fun c => (c.j, c.pc, c.stat)) =
          (v.co.cohorts.map fun c => (c.j, c.pc, c.stat)).map fun x => (x.1, x.2.1, x.2.2.resumed) := by
        rw [List.map_map, List.map_map]
        exact List.map_congr_left fun c _ => c.resumed_keys
      rw [resumed, keys, List.map_map]
      refine List.map_congr_left fun c _ => ?_
      show (c.j, c.pc, c.stat.resumed) = _
      cases c.stat <;> rfl
  case retire =>
    intro s core l standing place isLive launch noNode ready
    have does := exec_companyRetire standing place
    have isReady : s.retireReady = true ↔ ready := State.retireReady_iff standing
    refine ⟨fun waits => ?_, fun done more => ?_⟩
    · rw [if_neg (waits ∘ isReady.1)] at does
      exact does
    · have stays : (s.dropCompany.setCx s.retiredCx).endSave = s.dropCompany.setCx s.retiredCx := by
        have stat : (s.dropCompany.setCx s.retiredCx).cx.stat = .live := isLive
        rw [State.endSave, stat]
      rw [if_pos (isReady.2 done), State.retireCompany_eq launch noNode more, stays] at does
      refine ⟨_, does, rfl, rfl, rfl, rfl, ?_, fun _ => rfl, rfl, rfl⟩
      exact List.filter_congr fun x _ => by rw [Bool.eq_iff_iff, bne_iff_ne, decide_eq_true_iff]

end Sys2Proof.Machine
end
